-- ==== Sys2Proof/Word.lean ====
section
/-!
DEFINITION. The plain words of the Joryth machine: a 32-bit register word (R31, R188), a byte, a
lane mask of at most 64 bits (R21, R189), a 64-bit step counter (R188) and a sparse list of cells.
-/

namespace Sys2Proof

/-- A lane register, scalar register, special register or instruction word (R31, R188). -/
abbrev Word := BitVec 32

/-- One byte of memory. -/
abbrev Byte := BitVec 8

/-- One bit per lane of a group of up to 64 lanes (R189). -/
abbrev Mask := BitVec 64

/-- The step counter `STEP` (R188, R275). -/
abbrev Step := BitVec 64

/-- Sparse storage by key: an association list held in one canonical form (keys rising, no entry
equal to what an unlisted key reads as). -/
abbrev Cells (w : Nat) := List (Nat × BitVec w)

end Sys2Proof
end

