-- ==== Sys2Proof/Syntax.lean ====
section
/-!
DEFINITION. The syntax of the Joryth machine: one constructor of `Instr` per row of the opcode
table. The first 176 are instruction and prefix words (R31 to R58), with their raw register fields;
the last 75 are the events of the agents that act on their own and of the outside world, which have
no encoding and carry the data that names them.
-/

namespace Sys2Proof

/-- The space of a memory operand (R25, R40, R42 to R45). -/
inductive Space where
  | party | task | immutable
  deriving DecidableEq, Repr, Inhabited

/-- The four store rules (R42, R143). -/
inductive Rule where
  | low | any | sum | flt
  deriving DecidableEq, Repr, Inhabited

/-- The sixteen type codes of R41, in the order of their codes. -/
inductive Ty where
  | i4 | ui4 | i8 | ui8 | i16 | ui16 | i32 | ui32
  | i64 | e2m1 | e4m3 | e5m2 | f16 | bf16 | f32 | f64
  deriving DecidableEq, Repr, Inhabited

/-- The conditions of `CMP` (R48, R196). -/
inductive ICond where
  | eq | ne | lt | le | gt | ge | ltu | leu | gtu | geu
  deriving DecidableEq, Repr, Inhabited

/-- The conditions of `FCMP` and `DCMP` (R48, R213). -/
inductive FCond where
  | eq | ne | lt | le | gt | ge | un | ord
  deriving DecidableEq, Repr, Inhabited

/-- The conditions of `WATCH` (R150). -/
inductive WCond where
  | z | nz | ze | e
  deriving DecidableEq, Repr, Inhabited

/-- The operators of `REDL` and `SCANL` (R200). -/
inductive LaneOp where
  | add | min | max | minu | maxu | and | or | xor | fadd | fmin | fmax
  deriving DecidableEq, Repr, Inhabited

/-- The modes of `VOTE` (R201). -/
inductive VoteMode where
  | all | any | uni | bal
  deriving DecidableEq, Repr, Inhabited

/-- The modes of `POPM` (R201). -/
inductive PopMode where
  | all | below
  deriving DecidableEq, Repr, Inhabited

/-- The modes of `JMOV` (R247): mask from mask, mask from predicate, scalar pair from mask, mask
from scalar pair. -/
inductive JMode where
  | jj | jp | sj | js
  deriving DecidableEq, Repr, Inhabited

/-- The 4-bit guard of R34: the invert bit above the predicate index. -/
structure Guard where
  inv : Bool
  p : BitVec 3
  deriving DecidableEq, Repr, Inhabited

/-- The fields of a `MOD` prefix word (R52). -/
structure ModWord where
  sat : BitVec 2
  clmp : Bool
  na : Bool
  aa : Bool
  nb : Bool
  ab : Bool
  scl : BitVec 4
  rm : BitVec 3
  sa : BitVec 2
  sb : BitVec 2
  deriving DecidableEq, Repr, Inhabited

/-- The domain of a byte (R153): a party of a task, or the task's shared regions. Tasks are named by
the model's own record number. -/
inductive Dom where
  | party (task index : Nat)
  | task (task : Nat)
  deriving DecidableEq, Repr, Inhabited

/-- What the background scrub of a stack reports of a burst (R68). -/
inductive ScrubOutcome where
  | clean | corrected | uncorrectable
  deriving DecidableEq, Repr, Inhabited

/-- The first granules the scheduler picks for the scratch, spill reserves and regions of a task, in
the order in which placement asks for them (R261: which run is chosen is not specified). -/
structure Placement where
  runs : List Nat
  deriving DecidableEq, Repr, Inhabited

/-- The host's answer to an ATS translation request (R283, R284): a translation with its base, size
and permissions, or a page that is not present (or lacks the permission asked for). -/
inductive AtsAnswer where
  | page (base size target : Nat) (read write : Bool)
  | notPresent
  deriving DecidableEq, Repr, Inhabited

/-- A back-invalidate snoop: the burst, and whether it is a `BISnpInv` or a `BISnpCur` (R295). -/
structure Snoop where
  burst : Nat
  inv : Bool
  deriving DecidableEq, Repr, Inhabited

/-- What is reset at a peer: a device, or one partition of it (R301). -/
structure PeerScope where
  dev : Nat
  part : Option Nat
  deriving DecidableEq, Repr, Inhabited

/-- The response codes of a page request group (R285). -/
inductive PrgCode where
  | success | invalid | failure
  deriving DecidableEq, Repr, Inhabited

/-- A message that reaches the device over the fabric (R299 to R301): a peer's read or write for a
local partition and the PASID that the peer's binding names (R300), or the end-to-end answer to one of the device's own
commands (an error code of R100 where the target failed it). -/
inductive FabMsg where
  | read (source part pasid seq address : Nat)
  | write (source part pasid seq address : Nat) (data : List Byte)
  | answer (part seq code : Nat) (data : List Byte)
  deriving DecidableEq, Repr, Inhabited

/-- A firmware image as the device management processor sees it (R307). -/
structure FwImage where
  version : Nat
  digest : BitVec 384
  ed25519 : Nat
  mldsa : Nat
  deriving DecidableEq, Repr, Inhabited

/-- The instruction words and events of the opcode table, one constructor per row.
Register fields are the raw 6-bit numbers of R35; `sc` is the scalar bit of R36. -/
inductive Instr where
  | hint (br : BitVec 2) (ra : Bool) (rb : Bool)
  | mod (m : ModWord)
  | imm (hi : BitVec 26)
  | add (d : BitVec 6) (a : BitVec 6) (b : BitVec 6) (gd : Guard) (sc : Bool)
  | sub (d : BitVec 6) (a : BitVec 6) (b : BitVec 6) (gd : Guard) (sc : Bool)
  | mul (d : BitVec 6) (a : BitVec 6) (b : BitVec 6) (gd : Guard) (sc : Bool)
  | mulhi (d : BitVec 6) (a : BitVec 6) (b : BitVec 6) (gd : Guard) (sc : Bool)
  | mulhu (d : BitVec 6) (a : BitVec 6) (b : BitVec 6) (gd : Guard) (sc : Bool)
  | mad (d : BitVec 6) (a : BitVec 6) (b : BitVec 6) (gd : Guard) (sc : Bool)
  | min (d : BitVec 6) (a : BitVec 6) (b : BitVec 6) (gd : Guard) (sc : Bool)
  | max (d : BitVec 6) (a : BitVec 6) (b : BitVec 6) (gd : Guard) (sc : Bool)
  | addImm (d : BitVec 6) (a : BitVec 6) (imm : BitVec 6) (gd : Guard) (sc : Bool)
  | subImm (d : BitVec 6) (a : BitVec 6) (imm : BitVec 6) (gd : Guard) (sc : Bool)
  | mulImm (d : BitVec 6) (a : BitVec 6) (imm : BitVec 6) (gd : Guard) (sc : Bool)
  | mulhiImm (d : BitVec 6) (a : BitVec 6) (imm : BitVec 6) (gd : Guard) (sc : Bool)
  | mulhuImm (d : BitVec 6) (a : BitVec 6) (imm : BitVec 6) (gd : Guard) (sc : Bool)
  | madImm (d : BitVec 6) (a : BitVec 6) (imm : BitVec 6) (gd : Guard) (sc : Bool)
  | minImm (d : BitVec 6) (a : BitVec 6) (imm : BitVec 6) (gd : Guard) (sc : Bool)
  | maxImm (d : BitVec 6) (a : BitVec 6) (imm : BitVec 6) (gd : Guard) (sc : Bool)
  | minu (d : BitVec 6) (a : BitVec 6) (b : BitVec 6) (gd : Guard) (sc : Bool)
  | maxu (d : BitVec 6) (a : BitVec 6) (b : BitVec 6) (gd : Guard) (sc : Bool)
  | and (d : BitVec 6) (a : BitVec 6) (b : BitVec 6) (gd : Guard) (sc : Bool)
  | or (d : BitVec 6) (a : BitVec 6) (b : BitVec 6) (gd : Guard) (sc : Bool)
  | xor (d : BitVec 6) (a : BitVec 6) (b : BitVec 6) (gd : Guard) (sc : Bool)
  | andn (d : BitVec 6) (a : BitVec 6) (b : BitVec 6) (gd : Guard) (sc : Bool)
  | rol (d : BitVec 6) (a : BitVec 6) (b : BitVec 6) (gd : Guard) (sc : Bool)
  | minuImm (d : BitVec 6) (a : BitVec 6) (imm : BitVec 6) (gd : Guard) (sc : Bool)
  | maxuImm (d : BitVec 6) (a : BitVec 6) (imm : BitVec 6) (gd : Guard) (sc : Bool)
  | andImm (d : BitVec 6) (a : BitVec 6) (imm : BitVec 6) (gd : Guard) (sc : Bool)
  | orImm (d : BitVec 6) (a : BitVec 6) (imm : BitVec 6) (gd : Guard) (sc : Bool)
  | xorImm (d : BitVec 6) (a : BitVec 6) (imm : BitVec 6) (gd : Guard) (sc : Bool)
  | andnImm (d : BitVec 6) (a : BitVec 6) (imm : BitVec 6) (gd : Guard) (sc : Bool)
  | rolImm (d : BitVec 6) (a : BitVec 6) (imm : BitVec 6) (gd : Guard) (sc : Bool)
  | shl (d : BitVec 6) (a : BitVec 6) (b : BitVec 6) (gd : Guard) (sc : Bool)
  | shr (d : BitVec 6) (a : BitVec 6) (b : BitVec 6) (gd : Guard) (sc : Bool)
  | sar (d : BitVec 6) (a : BitVec 6) (b : BitVec 6) (gd : Guard) (sc : Bool)
  | divs (d : BitVec 6) (a : BitVec 6) (b : BitVec 6) (gd : Guard) (sc : Bool)
  | divu (d : BitVec 6) (a : BitVec 6) (b : BitVec 6) (gd : Guard) (sc : Bool)
  | rems (d : BitVec 6) (a : BitVec 6) (b : BitVec 6) (gd : Guard) (sc : Bool)
  | remu (d : BitVec 6) (a : BitVec 6) (b : BitVec 6) (gd : Guard) (sc : Bool)
  | lea (d : BitVec 6) (a : BitVec 6) (b : BitVec 6) (gd : Guard) (sc : Bool)
  | shlImm (d : BitVec 6) (a : BitVec 6) (imm : BitVec 6) (gd : Guard) (sc : Bool)
  | shrImm (d : BitVec 6) (a : BitVec 6) (imm : BitVec 6) (gd : Guard) (sc : Bool)
  | sarImm (d : BitVec 6) (a : BitVec 6) (imm : BitVec 6) (gd : Guard) (sc : Bool)
  | divsImm (d : BitVec 6) (a : BitVec 6) (imm : BitVec 6) (gd : Guard) (sc : Bool)
  | divuImm (d : BitVec 6) (a : BitVec 6) (imm : BitVec 6) (gd : Guard) (sc : Bool)
  | remsImm (d : BitVec 6) (a : BitVec 6) (imm : BitVec 6) (gd : Guard) (sc : Bool)
  | remuImm (d : BitVec 6) (a : BitVec 6) (imm : BitVec 6) (gd : Guard) (sc : Bool)
  | leaImm (d : BitVec 6) (a : BitVec 6) (imm : BitVec 6) (gd : Guard) (sc : Bool)
  | add64 (d : BitVec 6) (a : BitVec 6) (b : BitVec 6) (gd : Guard) (sc : Bool)
  | sub64 (d : BitVec 6) (a : BitVec 6) (b : BitVec 6) (gd : Guard) (sc : Bool)
  | shl64 (d : BitVec 6) (a : BitVec 6) (b : BitVec 6) (gd : Guard) (sc : Bool)
  | shr64 (d : BitVec 6) (a : BitVec 6) (b : BitVec 6) (gd : Guard) (sc : Bool)
  | add64Imm (d : BitVec 6) (a : BitVec 6) (imm : BitVec 6) (gd : Guard) (sc : Bool)
  | sub64Imm (d : BitVec 6) (a : BitVec 6) (imm : BitVec 6) (gd : Guard) (sc : Bool)
  | shl64Imm (d : BitVec 6) (a : BitVec 6) (imm : BitVec 6) (gd : Guard) (sc : Bool)
  | shr64Imm (d : BitVec 6) (a : BitVec 6) (imm : BitVec 6) (gd : Guard) (sc : Bool)
  | mov (d : BitVec 6) (a : BitVec 6) (gd : Guard) (sc : Bool)
  | clz (d : BitVec 6) (a : BitVec 6) (gd : Guard) (sc : Bool)
  | popc (d : BitVec 6) (a : BitVec 6) (gd : Guard) (sc : Bool)
  | brev (d : BitVec 6) (a : BitVec 6) (gd : Guard) (sc : Bool)
  | bfx (d : BitVec 6) (a : BitVec 6) (b : BitVec 6) (gd : Guard) (sc : Bool)
  | bfxu (d : BitVec 6) (a : BitVec 6) (b : BitVec 6) (gd : Guard) (sc : Bool)
  | bfi (d : BitVec 6) (a : BitVec 6) (b : BitVec 6) (gd : Guard) (sc : Bool)
  | movi (d : BitVec 6) (imm : BitVec 6) (gd : Guard) (sc : Bool)
  | bfxImm (d : BitVec 6) (a : BitVec 6) (imm : BitVec 6) (gd : Guard) (sc : Bool)
  | bfxuImm (d : BitVec 6) (a : BitVec 6) (imm : BitVec 6) (gd : Guard) (sc : Bool)
  | bfiImm (d : BitVec 6) (a : BitVec 6) (imm : BitVec 6) (gd : Guard) (sc : Bool)
  | sel (d : BitVec 6) (a : BitVec 6) (b : BitVec 6) (gd : Guard) (sc : Bool) (k : BitVec 3)
  | cmp (cond : ICond) (a : BitVec 6) (b : BitVec 6) (gd : Guard) (sc : Bool) (pd : BitVec 3)
  | cmpImm (cond : ICond) (a : BitVec 6) (imm : BitVec 6) (gd : Guard) (sc : Bool) (pd : BitVec 3)
  | fcmp (cond : FCond) (a : BitVec 6) (b : BitVec 6) (gd : Guard) (sc : Bool) (pd : BitVec 3)
  | fcmpImm (cond : FCond) (a : BitVec 6) (imm : BitVec 6) (gd : Guard) (sc : Bool) (pd : BitVec 3)
  | dcmp (cond : FCond) (a : BitVec 6) (b : BitVec 6) (gd : Guard) (pd : BitVec 3)
  | pand (pd : BitVec 3) (id : Bool) (pa : BitVec 3) (ia : Bool) (pb : BitVec 3) (ib : Bool) (gd : Guard)
  | por (pd : BitVec 3) (id : Bool) (pa : BitVec 3) (ia : Bool) (pb : BitVec 3) (ib : Bool) (gd : Guard)
  | pxor (pd : BitVec 3) (id : Bool) (pa : BitVec 3) (ia : Bool) (pb : BitVec 3) (ib : Bool) (gd : Guard)
  | pnot (pd : BitVec 3) (id : Bool) (pa : BitVec 3) (ia : Bool) (gd : Guard)
  | shfl (d : BitVec 6) (a : BitVec 6) (b : BitVec 6) (gd : Guard)
  | bcast (d : BitVec 6) (a : BitVec 6) (b : BitVec 6) (gd : Guard)
  | rdlane (d : BitVec 6) (a : BitVec 6) (b : BitVec 6) (gd : Guard)
  | wrlane (d : BitVec 6) (a : BitVec 6) (b : BitVec 6) (gd : Guard)
  | redl (d : BitVec 6) (a : BitVec 6) (op : LaneOp) (gd : Guard)
  | scanl (d : BitVec 6) (a : BitVec 6) (ex : Bool) (op : LaneOp) (gd : Guard)
  | shflImm (d : BitVec 6) (a : BitVec 6) (imm : BitVec 6) (gd : Guard)
  | bcastImm (d : BitVec 6) (a : BitVec 6) (imm : BitVec 6) (gd : Guard)
  | rdlaneImm (d : BitVec 6) (a : BitVec 6) (imm : BitVec 6) (gd : Guard)
  | wrlaneImm (d : BitVec 6) (a : BitVec 6) (imm : BitVec 6) (gd : Guard)
  | vote (d : BitVec 6) (pa : BitVec 3) (mode : VoteMode) (gd : Guard)
  | popm (d : BitVec 6) (pa : BitVec 3) (mode : PopMode) (gd : Guard)
  | elect (pd : BitVec 3) (gd : Guard)
  | fadd (d : BitVec 6) (a : BitVec 6) (b : BitVec 6) (gd : Guard) (sc : Bool)
  | fsub (d : BitVec 6) (a : BitVec 6) (b : BitVec 6) (gd : Guard) (sc : Bool)
  | fmul (d : BitVec 6) (a : BitVec 6) (b : BitVec 6) (gd : Guard) (sc : Bool)
  | ffma (d : BitVec 6) (a : BitVec 6) (b : BitVec 6) (gd : Guard) (sc : Bool)
  | fmin (d : BitVec 6) (a : BitVec 6) (b : BitVec 6) (gd : Guard) (sc : Bool)
  | fmax (d : BitVec 6) (a : BitVec 6) (b : BitVec 6) (gd : Guard) (sc : Bool)
  | fscale (d : BitVec 6) (a : BitVec 6) (b : BitVec 6) (gd : Guard) (sc : Bool)
  | faddImm (d : BitVec 6) (a : BitVec 6) (imm : BitVec 6) (gd : Guard) (sc : Bool)
  | fsubImm (d : BitVec 6) (a : BitVec 6) (imm : BitVec 6) (gd : Guard) (sc : Bool)
  | fmulImm (d : BitVec 6) (a : BitVec 6) (imm : BitVec 6) (gd : Guard) (sc : Bool)
  | ffmaImm (d : BitVec 6) (a : BitVec 6) (imm : BitVec 6) (gd : Guard) (sc : Bool)
  | fminImm (d : BitVec 6) (a : BitVec 6) (imm : BitVec 6) (gd : Guard) (sc : Bool)
  | fmaxImm (d : BitVec 6) (a : BitVec 6) (imm : BitVec 6) (gd : Guard) (sc : Bool)
  | fscaleImm (d : BitVec 6) (a : BitVec 6) (imm : BitVec 6) (gd : Guard) (sc : Bool)
  | frcpe (d : BitVec 6) (a : BitVec 6) (gd : Guard) (sc : Bool)
  | frsqe (d : BitVec 6) (a : BitVec 6) (gd : Guard) (sc : Bool)
  | frnd (d : BitVec 6) (a : BitVec 6) (gd : Guard) (sc : Bool)
  | fclass (d : BitVec 6) (a : BitVec 6) (gd : Guard) (sc : Bool)
  | dadd (d : BitVec 6) (a : BitVec 6) (b : BitVec 6) (gd : Guard)
  | dsub (d : BitVec 6) (a : BitVec 6) (b : BitVec 6) (gd : Guard)
  | dmul (d : BitVec 6) (a : BitVec 6) (b : BitVec 6) (gd : Guard)
  | dfma (d : BitVec 6) (a : BitVec 6) (b : BitVec 6) (gd : Guard)
  | dmin (d : BitVec 6) (a : BitVec 6) (b : BitVec 6) (gd : Guard)
  | dmax (d : BitVec 6) (a : BitVec 6) (b : BitVec 6) (gd : Guard)
  | hadd2F16 (d : BitVec 6) (a : BitVec 6) (b : BitVec 6) (gd : Guard)
  | hmul2F16 (d : BitVec 6) (a : BitVec 6) (b : BitVec 6) (gd : Guard)
  | hfma2F16 (d : BitVec 6) (a : BitVec 6) (b : BitVec 6) (gd : Guard)
  | hadd2Bf16 (d : BitVec 6) (a : BitVec 6) (b : BitVec 6) (gd : Guard)
  | hmul2Bf16 (d : BitVec 6) (a : BitVec 6) (b : BitVec 6) (gd : Guard)
  | hfma2Bf16 (d : BitVec 6) (a : BitVec 6) (b : BitVec 6) (gd : Guard)
  | cvt (d : BitVec 6) (a : BitVec 6) (src : Ty) (gd : Guard) (ty : Ty)
  | cvtsr (d : BitVec 6) (a : BitVec 6) (b : BitVec 6) (gd : Guard) (ty : Ty)
  | pack8 (d : BitVec 6) (a : BitVec 6) (b : BitVec 6) (gd : Guard) (ty : Ty)
  | unpk8 (d : BitVec 6) (a : BitVec 6) (gd : Guard) (ty : Ty)
  | pack4 (d : BitVec 6) (a : BitVec 6) (b : BitVec 6) (gd : Guard) (ty : Ty)
  | unpk4 (d : BitVec 6) (a : BitVec 6) (gd : Guard) (ty : Ty)
  | lds (sp : Space) (d : BitVec 6) (a : BitVec 6) (imm : BitVec 6) (ty : Ty)
  | sts (rule : Rule) (sp : Space) (d : BitVec 6) (a : BitVec 6) (imm : BitVec 6) (ty : Ty)
  | watch (cond : WCond) (a : BitVec 6) (imm : BitVec 6) (gd : Guard) (sp : Space)
  | pres (d : BitVec 6) (a : BitVec 6) (imm : BitVec 6) (gd : Guard) (sp : Space)
  | absa (d : BitVec 6) (a : BitVec 6) (imm : BitVec 6) (gd : Guard)
  | rela (d : BitVec 6) (a : BitVec 6) (imm : BitVec 6) (gd : Guard)
  | ld (sp : Space) (d : BitVec 6) (a : BitVec 6) (imm : BitVec 6) (gd : Guard) (ty : Ty)
  | stP (rule : Rule) (d : BitVec 6) (a : BitVec 6) (imm : BitVec 6) (gd : Guard) (ty : Ty)
  | stG (rule : Rule) (d : BitVec 6) (a : BitVec 6) (imm : BitVec 6) (gd : Guard) (ty : Ty)
  | stK (rule : Rule) (d : BitVec 6) (a : BitVec 6) (imm : BitVec 6) (gd : Guard) (ty : Ty)
  | mldw (x : BitVec 6) (y : BitVec 6) (sp : Space) (ty : Ty) (gd : Guard) (pair : Bool)
  | mldwS (x : BitVec 6) (y : BitVec 6) (sp : Space) (ty : Ty) (gd : Guard) (pair : Bool)
  | mma (x : BitVec 6) (y : BitVec 6) (sp : Space) (ty : Ty) (gd : Guard) (pair : Bool) (swap : Bool)
  | mmas (x : BitVec 6) (y : BitVec 6) (sp : Space) (ty : Ty) (gd : Guard) (pair : Bool) (swap : Bool)
  | mdrn (x : BitVec 6) (y : BitVec 6) (sp : Space) (ty : Ty) (gd : Guard) (pair : Bool) (tr : Bool)
  | mzero (tile : Bool) (gd : Guard) (pair : Bool)
  | trd (x : BitVec 6) (y : BitVec 6) (imm : BitVec 6) (gd : Guard) (tile : Bool) (col : Bool)
  | twr (x : BitVec 6) (y : BitVec 6) (imm : BitVec 6) (gd : Guard) (tile : Bool) (col : Bool)
  | copy (a : BitVec 6) (imm : BitVec 6) (gd : Guard) (sp : Space)
  | cpys (a : BitVec 6) (gd : Guard)
  | brd (a : BitVec 6) (imm : BitVec 6) (gd : Guard) (sp : Space)
  | brdi (a : BitVec 6) (imm : BitVec 6) (gd : Guard) (sp : Space)
  | hend (gd : Guard)
  | tq (d : BitVec 6) (a : BitVec 6) (tbl : BitVec 4) (ix : Bool) (gd : Guard) (ty : Ty)
  | tqb (d : BitVec 6) (a : BitVec 6) (tbl : BitVec 4) (ix : Bool) (gd : Guard) (ty : Ty)
  | bra (gd : Guard) (disp : BitVec 22)
  | jmp (disp : BitVec 26)
  | call (disp : BitVec 26)
  | split (jk : BitVec 3) (gd : Guard) (disp : BitVec 19)
  | nop (gd : Guard)
  | jmpr (a : BitVec 6) (imm : BitVec 6) (gd : Guard)
  | ret (a : BitVec 6) (gd : Guard)
  | join (jk : BitVec 3) (gd : Guard)
  | jmov (d : BitVec 6) (a : BitVec 6) (mode : JMode) (gd : Guard)
  | pace (gd : Guard)
  | pacen (imm : BitVec 6) (gd : Guard)
  | reform (a : BitVec 6) (gd : Guard)
  | reformNext (gd : Guard)
  | exit (gd : Guard)
  | trap (imm : BitVec 6) (gd : Guard)
  | bkpt (imm : BitVec 6) (gd : Guard)
  | enq (d : BitVec 6) (a : BitVec 6) (sp : Space) (gd : Guard)
  | deq (d : BitVec 6) (imm : BitVec 6) (gd : Guard)
  | depdEdge (d : BitVec 6) (a : BitVec 6) (gd : Guard)
  | depdRel (d : BitVec 6) (a : BitVec 6) (gd : Guard)
  | srd (d : BitVec 6) (num : BitVec 6) (gd : Guard)
  | swr (d : BitVec 6) (num : BitVec 6) (gd : Guard)
  | rte (gd : Guard)
  | icinv (gd : Guard)
  | lagStall (gid : Nat) (pid : Nat)
  | loadComplete (gid : Nat) (pid : Nat)
  | storeOffer (po : Nat)
  | frontierChange (dom : Dom) (slice : Nat)
  | stepLanding (dom : Dom) (step : Nat) (slice : Nat)
  | copyLineWrite (req : Nat) (line : Nat)
  | copyNearRead (req : Nat)
  | copyBurstAccepted (req : Nat) (n : Nat)
  | burstArrival (req : Nat) (n : Nat)
  | binDraw (core : Nat) (bin : Nat)
  | lastBurstEvent (req : Nat)
  | queryComplete (q : Nat)
  | pchRequest (req : Nat) (n : Nat)
  | latencyBoundExpiry (pch : Nat)
  | perBankRefresh (bank : Nat)
  | tableRowRefresh (bank : Nat) (row : Nat)
  | targetedRefresh (bank : Nat) (row : Nat)
  | ecsScrub (burst : Nat) (outcome : ScrubOutcome)
  | sliceScrub (slice : Nat)
  | rebuildSector (slice : Nat)
  | matrixOpTurn (core : Nat)
  | drainWrite (req : Nat) (line : Nat)
  | matrixClaimEnd (core : Nat)
  | activeSetExchange (core : Nat)
  | rotation (core : Nat)
  | taskAdmission (task : Nat) (place : Placement)
  | blockingTask (task : Nat)
  | classPreemption (task : Nat)
  | taskSteal (tract : Nat) (task : Nat)
  | taskStaging (task : Nat)
  | taskRetirement (task : Nat)
  | taskStop (task : Nat)
  | preemption (task : Nat)
  | restore (task : Nat) (place : Placement)
  | atsCompletion (pasid : Nat) (va : Nat) (answer : AtsAnswer)
  | invalidateRequest (pasid : Nat) (va : Nat) (size : Nat)
  | faultBufferFlush (tract : Nat)
  | pageRequestResponse (tract : Nat) (gen : Nat) (code : PrgCode)
  | stopMarker (tract : Nat)
  | accessCounterNotify (die : Nat) (slot : Nat)
  | hostMemoryAccess (fn : Nat) (hpa : Nat) (data : Option (List Byte))
  | snoopResponse (snoop : Snoop)
  | sqtail (fn : Nat) (value : Word)
  | hostLaunch (fn : Nat)
  | completionEntryWrite (fn : Nat)
  | cqhead (fn : Nat) (value : Word)
  | sqcfg (fn : Nat) (value : Word)
  | cqcfg (fn : Nat) (value : Word)
  | registerWrite (fn : Nat) (offset : Nat) (value : Word)
  | slstatWrite (slice : Nat) (value : Word)
  | functionLevelReset (fn : Nat)
  | writePlatEntry (fn : Nat) (index : Nat) (value : BitVec 64)
  | writeQuotaRecord (fn : Nat) (part : Nat) (words : List Word)
  | setContextArea (fn : Nat) (part : Nat) (base : Nat) (size : Nat)
  | stopTask (fn : Nat) (handle : Nat)
  | dropKeptRegion (fn : Nat) (far : Nat)
  | readStopLog (fn : Nat)
  | flushFaultBuffers (fn : Nat)
  | setAccessCounterThreshold (fn : Nat) (value : Nat)
  | setDebugEnable (fn : Nat) (enable : Bool) (release : Option Nat)
  | repairBank (fn : Nat) (slice : Nat)
  | bindFabricPeer (fn : Nat) (dev : Nat) (part : Nat) (pasid : Nat)
  | readMargins (fn : Nat)
  | releaseHeldHostLaunch (fn : Nat) (handle : Nat)
  | marginPlan (atReset : Bool) (plan : List Nat)
  | endToEndTimeout (part : Nat) (seq : Nat)
  | refreshManagement (bank : Nat)
  | attestationReport (nonce : BitVec 256)
  | flitNak (port : Nat) (flit : Nat)
  | fabricCommand (msg : FabMsg)
  | peerReset (scope : PeerScope)
  | powerArbitration (clocks : List Nat) (shares : List Nat)
  | bringUp
  | sriovEnable (count : Nat)
  | newFirmwareImage (image : FwImage)
  deriving DecidableEq, Repr, Inhabited

end Sys2Proof
end

