-- ==== Sys2Proof/WellFormed.lean ====
section
/-!
DEFINITION. Which terms of `Instr` are words of the instruction set: the register kinds of R35, the
scalar bit of R36, the accepted types of R41 and each entry's own field rules (R49). An event has no
encoding and is always well formed.
-/

namespace Sys2Proof

/-- The size in bytes of an element of a byte-sized or wider type (R41); 0 for the 4-bit types. -/
def Ty.size : Ty → Nat
  | .i4 | .ui4 | .e2m1 => 0
  | .i8 | .ui8 | .e4m3 | .e5m2 => 1
  | .i16 | .ui16 | .f16 | .bf16 => 2
  | .i32 | .ui32 | .f32 => 4
  | .i64 | .f64 => 8

/-- The types `LD`, `ST`, `LDS` and `STS` accept (R41). -/
def Ty.isMem : Ty → Bool
  | .i8 | .ui8 | .i16 | .ui16 | .i32 | .ui32 | .i64 | .f16 | .bf16 | .f32 | .f64 => true
  | _ => false

/-- The types `TQ` and `TQB` accept (R41, R79). -/
def Ty.isEntry : Ty → Bool
  | .i8 | .ui8 | .i16 | .ui16 | .i32 | .ui32 | .e4m3 | .e5m2 | .f16 | .bf16 | .f32 => true
  | _ => false

/-- The destination types of `CVTSR` (R216). -/
def Ty.isSmallFloat : Ty → Bool
  | .e4m3 | .e5m2 | .f16 | .bf16 => true
  | _ => false

/-- The element types of `PACK8` and `UNPK8` (R217). -/
def Ty.isByte : Ty → Bool
  | .i8 | .ui8 | .e4m3 | .e5m2 => true
  | _ => false

/-- The element types of `PACK4` and `UNPK4` (R218). -/
def Ty.isNibble : Ty → Bool
  | .i4 | .ui4 | .e2m1 => true
  | _ => false

/-- The formats of a dense plane and of activations (R227, R230). -/
def Ty.isMatrix : Ty → Bool
  | .i8 | .e4m3 | .e5m2 | .bf16 => true
  | _ => false

/-- The formats of a 2:4 plane (R227). -/
def Ty.isSparse : Ty → Bool
  | .e4m3 | .e5m2 => true
  | _ => false

/-- The output formats of `MDRN` (R233). -/
def Ty.isDrain : Ty → Bool
  | .i8 | .i32 | .e4m3 | .e5m2 | .f16 | .bf16 | .f32 => true
  | _ => false

/-- `ST.SUM` and `STS` under `SUM` refuse `F16` and `F64` (R41). -/
def sumOk (rule : Rule) (ty : Ty) : Bool :=
  !(rule = .sum && (ty = .f16 || ty = .f64))

/-- A register field that is a multiple of `n` (pairs and quads, R35). -/
def aligned (n : Nat) (r : BitVec 6) : Bool := decide (r.toNat % n = 0)

/-- A field that names a scalar register: bit 5 is zero (R35). -/
def scalarOk (r : BitVec 6) : Bool := decide (r.toNat < 32)

/-- A field that names a lane register, or a scalar register when S = 1 (R36). -/
def regOk (sc : Bool) (r : BitVec 6) : Bool := !sc || scalarOk r

/-- A field that names a register pair of the kind `sc` chooses (R35, R36). -/
def pairOk (sc : Bool) (r : BitVec 6) : Bool := aligned 2 r && regOk sc r

/-- A predicate as destination: `p7` cannot be written (R35). -/
def predOk (p : BitVec 3) : Bool := decide (p ≠ 7#3)

/-- A 64-bit type names an even register (R40, R42, R214). -/
def wide (ty : Ty) (r : BitVec 6) : Bool := !(ty.size = 8) || aligned 2 r

/-- The number of result registers of a query (R79): `qb` for `TQB`, `ix` for the wide index form. -/
def queryRegs (qb ix : Bool) (ty : Ty) : Nat :=
  let n := if ix then 2 else 4
  if qb then n else max 1 (n * ty.size / 4)

/-- The alignment of the first result register of a query (R79). -/
def queryOk (qb ix : Bool) (ty : Ty) (d : BitVec 6) : Bool := aligned (queryRegs qb ix ty) d

/-- The operand sets of `JMOV` (R247). -/
def jmovOk (mode : JMode) (d a : BitVec 6) : Bool :=
  match mode with
  | .jj => decide (d.toNat < 8) && decide (a.toNat < 8)
  | .jp => decide (d.toNat < 8) && decide (a.toNat < 8)
  | .sj => scalarOk d && aligned 2 d && decide (a.toNat < 8)
  | .js => decide (d.toNat < 8) && scalarOk a && aligned 2 a

/-- The special registers `SRD` reads (R275). -/
def specialReadable (n : BitVec 6) : Bool :=
  let n := n.toNat
  n ≤ 0x0A || (0x10 ≤ n && n ≤ 0x13) || (0x20 ≤ n && n ≤ 0x28) || (0x30 ≤ n && n ≤ 0x38)

/-- The special registers `SWR` writes: `FLAGS`, `QSTAT`, `TVEC` and `TRET` (R275). -/
def specialWritable (n : BitVec 6) : Bool :=
  n = 0x09#6 || n = 0x0A#6 || n = 0x30#6 || n = 0x31#6

/-- The legal field values of a `MOD` word (R52). -/
def ModWord.wf (m : ModWord) : Bool :=
  decide (m.sat ≠ 3#2) && decide (m.rm.toNat < 5) && decide (m.sa ≠ 3#2) && decide (m.sb ≠ 3#2)

/-- The well-formed instructions: every field in its legal set (R35, R36, R41, R49). -/
def Instr.wf : Instr → Bool
  | .hint br _ _ => decide (br ≠ 3#2)
  | .mod m => m.wf
  | .imm _ => true
  | .add d a b _ sc => regOk sc d && regOk sc a && regOk sc b
  | .sub d a b _ sc => regOk sc d && regOk sc a && regOk sc b
  | .mul d a b _ sc => regOk sc d && regOk sc a && regOk sc b
  | .mulhi d a b _ sc => regOk sc d && regOk sc a && regOk sc b
  | .mulhu d a b _ sc => regOk sc d && regOk sc a && regOk sc b
  | .mad d a b _ sc => regOk sc d && regOk sc a && regOk sc b
  | .min d a b _ sc => regOk sc d && regOk sc a && regOk sc b
  | .max d a b _ sc => regOk sc d && regOk sc a && regOk sc b
  | .addImm d a _ _ sc => regOk sc d && regOk sc a
  | .subImm d a _ _ sc => regOk sc d && regOk sc a
  | .mulImm d a _ _ sc => regOk sc d && regOk sc a
  | .mulhiImm d a _ _ sc => regOk sc d && regOk sc a
  | .mulhuImm d a _ _ sc => regOk sc d && regOk sc a
  | .madImm d a _ _ sc => regOk sc d && regOk sc a
  | .minImm d a _ _ sc => regOk sc d && regOk sc a
  | .maxImm d a _ _ sc => regOk sc d && regOk sc a
  | .minu d a b _ sc => regOk sc d && regOk sc a && regOk sc b
  | .maxu d a b _ sc => regOk sc d && regOk sc a && regOk sc b
  | .and d a b _ sc => regOk sc d && regOk sc a && regOk sc b
  | .or d a b _ sc => regOk sc d && regOk sc a && regOk sc b
  | .xor d a b _ sc => regOk sc d && regOk sc a && regOk sc b
  | .andn d a b _ sc => regOk sc d && regOk sc a && regOk sc b
  | .rol d a b _ sc => regOk sc d && regOk sc a && regOk sc b
  | .minuImm d a _ _ sc => regOk sc d && regOk sc a
  | .maxuImm d a _ _ sc => regOk sc d && regOk sc a
  | .andImm d a _ _ sc => regOk sc d && regOk sc a
  | .orImm d a _ _ sc => regOk sc d && regOk sc a
  | .xorImm d a _ _ sc => regOk sc d && regOk sc a
  | .andnImm d a _ _ sc => regOk sc d && regOk sc a
  | .rolImm d a _ _ sc => regOk sc d && regOk sc a
  | .shl d a b _ sc => regOk sc d && regOk sc a && regOk sc b
  | .shr d a b _ sc => regOk sc d && regOk sc a && regOk sc b
  | .sar d a b _ sc => regOk sc d && regOk sc a && regOk sc b
  | .divs d a b _ sc => regOk sc d && regOk sc a && regOk sc b
  | .divu d a b _ sc => regOk sc d && regOk sc a && regOk sc b
  | .rems d a b _ sc => regOk sc d && regOk sc a && regOk sc b
  | .remu d a b _ sc => regOk sc d && regOk sc a && regOk sc b
  | .lea d a b _ sc => regOk sc d && regOk sc a && regOk sc b
  | .shlImm d a _ _ sc => regOk sc d && regOk sc a
  | .shrImm d a _ _ sc => regOk sc d && regOk sc a
  | .sarImm d a _ _ sc => regOk sc d && regOk sc a
  | .divsImm d a _ _ sc => regOk sc d && regOk sc a
  | .divuImm d a _ _ sc => regOk sc d && regOk sc a
  | .remsImm d a _ _ sc => regOk sc d && regOk sc a
  | .remuImm d a _ _ sc => regOk sc d && regOk sc a
  | .leaImm d a _ _ sc => regOk sc d && regOk sc a
  | .add64 d a b _ sc => pairOk sc d && pairOk sc a && pairOk sc b
  | .sub64 d a b _ sc => pairOk sc d && pairOk sc a && pairOk sc b
  | .shl64 d a b _ sc => pairOk sc d && pairOk sc a && regOk sc b
  | .shr64 d a b _ sc => pairOk sc d && pairOk sc a && regOk sc b
  | .add64Imm d a _ _ sc => pairOk sc d && pairOk sc a
  | .sub64Imm d a _ _ sc => pairOk sc d && pairOk sc a
  | .shl64Imm d a _ _ sc => pairOk sc d && pairOk sc a
  | .shr64Imm d a _ _ sc => pairOk sc d && pairOk sc a
  | .mov d a _ sc => regOk sc d && regOk sc a
  | .clz d a _ sc => regOk sc d && regOk sc a
  | .popc d a _ sc => regOk sc d && regOk sc a
  | .brev d a _ sc => regOk sc d && regOk sc a
  | .bfx d a b _ sc => regOk sc d && regOk sc a && regOk sc b
  | .bfxu d a b _ sc => regOk sc d && regOk sc a && regOk sc b
  | .bfi d a b _ sc => regOk sc d && regOk sc a && regOk sc b
  | .movi d _ _ sc => regOk sc d
  | .bfxImm d a _ _ sc => regOk sc d && regOk sc a
  | .bfxuImm d a _ _ sc => regOk sc d && regOk sc a
  | .bfiImm d a _ _ sc => regOk sc d && regOk sc a
  | .sel d a b _ sc _ => regOk sc d && regOk sc a && regOk sc b
  | .cmp _ a b _ sc pd => regOk sc a && regOk sc b && predOk pd
  | .cmpImm _ a _ _ sc pd => regOk sc a && predOk pd
  | .fcmp _ a b _ sc pd => regOk sc a && regOk sc b && predOk pd
  | .fcmpImm _ a _ _ sc pd => regOk sc a && predOk pd
  | .dcmp _ a b _ pd => aligned 2 a && aligned 2 b && predOk pd
  | .pand pd _ _ _ _ _ _ => predOk pd
  | .por pd _ _ _ _ _ _ => predOk pd
  | .pxor pd _ _ _ _ _ _ => predOk pd
  | .pnot pd _ _ _ _ => predOk pd
  | .shfl _ _ _ _ => true
  | .bcast _ _ _ _ => true
  | .rdlane d _ b _ => scalarOk d && scalarOk b
  | .wrlane _ a b _ => scalarOk a && scalarOk b
  | .redl _ _ _ _ => true
  | .scanl _ _ _ _ _ => true
  | .shflImm _ _ _ _ => true
  | .bcastImm _ _ _ _ => true
  | .rdlaneImm d _ _ _ => scalarOk d
  | .wrlaneImm _ a _ _ => scalarOk a
  | .vote d _ mode _ => (if mode = .bal then scalarOk d && aligned 2 d else decide (d.toNat < 7))
  | .popm _ _ _ _ => true
  | .elect pd _ => predOk pd
  | .fadd d a b _ sc => regOk sc d && regOk sc a && regOk sc b
  | .fsub d a b _ sc => regOk sc d && regOk sc a && regOk sc b
  | .fmul d a b _ sc => regOk sc d && regOk sc a && regOk sc b
  | .ffma d a b _ sc => regOk sc d && regOk sc a && regOk sc b
  | .fmin d a b _ sc => regOk sc d && regOk sc a && regOk sc b
  | .fmax d a b _ sc => regOk sc d && regOk sc a && regOk sc b
  | .fscale d a b _ sc => regOk sc d && regOk sc a && regOk sc b
  | .faddImm d a _ _ sc => regOk sc d && regOk sc a
  | .fsubImm d a _ _ sc => regOk sc d && regOk sc a
  | .fmulImm d a _ _ sc => regOk sc d && regOk sc a
  | .ffmaImm d a _ _ sc => regOk sc d && regOk sc a
  | .fminImm d a _ _ sc => regOk sc d && regOk sc a
  | .fmaxImm d a _ _ sc => regOk sc d && regOk sc a
  | .fscaleImm d a _ _ sc => regOk sc d && regOk sc a
  | .frcpe d a _ sc => regOk sc d && regOk sc a
  | .frsqe d a _ sc => regOk sc d && regOk sc a
  | .frnd d a _ sc => regOk sc d && regOk sc a
  | .fclass d a _ sc => regOk sc d && regOk sc a
  | .dadd d a b _ => aligned 2 d && aligned 2 a && aligned 2 b
  | .dsub d a b _ => aligned 2 d && aligned 2 a && aligned 2 b
  | .dmul d a b _ => aligned 2 d && aligned 2 a && aligned 2 b
  | .dfma d a b _ => aligned 2 d && aligned 2 a && aligned 2 b
  | .dmin d a b _ => aligned 2 d && aligned 2 a && aligned 2 b
  | .dmax d a b _ => aligned 2 d && aligned 2 a && aligned 2 b
  | .hadd2F16 _ _ _ _ => true
  | .hmul2F16 _ _ _ _ => true
  | .hfma2F16 _ _ _ _ => true
  | .hadd2Bf16 _ _ _ _ => true
  | .hmul2Bf16 _ _ _ _ => true
  | .hfma2Bf16 _ _ _ _ => true
  | .cvt d a src _ ty => wide ty d && wide src a
  | .cvtsr _ _ b _ ty => ty.isSmallFloat && scalarOk b && aligned 2 b
  | .pack8 _ a b _ ty => ty.isByte && aligned 2 a && aligned 2 b
  | .unpk8 d _ _ ty => ty.isByte && aligned 4 d
  | .pack4 _ a b _ ty => ty.isNibble && aligned 4 a && aligned 4 b
  | .unpk4 d _ _ ty => ty.isNibble && aligned 8 d
  | .lds _ d a _ ty => ty.isMem && scalarOk d && scalarOk a && wide ty d
  | .sts rule _ d a _ ty => ty.isMem && sumOk rule ty && scalarOk d && scalarOk a && wide ty d
  | .watch _ _ _ _ sp => decide (sp ≠ .immutable)
  | .pres _ _ _ _ sp => decide (sp ≠ .immutable)
  | .absa _ _ _ _ => true
  | .rela _ _ _ _ => true
  | .ld _ d _ _ _ ty => ty.isMem && wide ty d
  | .stP rule d _ _ _ ty => ty.isMem && sumOk rule ty && wide ty d
  | .stG rule d _ _ _ ty => ty.isMem && sumOk rule ty && wide ty d
  | .stK rule d _ _ _ ty => ty.isMem && sumOk rule ty && wide ty d
  | .mldw _ y _ ty _ _ => ty.isMatrix && scalarOk y
  | .mldwS _ y _ ty _ _ => ty.isSparse && scalarOk y && aligned 2 y
  | .mma _ y _ ty _ _ _ => ty.isMatrix && scalarOk y && aligned 4 y
  | .mmas _ y _ ty _ _ _ => ty.isMatrix && scalarOk y && aligned 4 y
  | .mdrn _ y sp ty _ _ _ => ty.isDrain && decide (sp ≠ .immutable) && scalarOk y && aligned 8 y
  | .mzero _ _ _ => true
  | .trd _ y _ _ _ _ => scalarOk y
  | .twr _ y _ _ _ _ => scalarOk y
  | .copy _ _ _ _ => true
  | .cpys a _ => scalarOk a && aligned 8 a
  | .brd _ _ _ _ => true
  | .brdi _ _ _ _ => true
  | .hend _ => true
  | .tq d _ _ ix _ ty => ty.isEntry && queryOk false ix ty d
  | .tqb d _ _ ix _ ty => ty.isEntry && queryOk true ix ty d
  | .bra _ _ => true
  | .jmp _ => true
  | .call _ => true
  | .split _ _ _ => true
  | .nop _ => true
  | .jmpr a _ _ => scalarOk a
  | .ret a _ => scalarOk a
  | .join _ _ => true
  | .jmov d a mode _ => jmovOk mode d a
  | .pace _ => true
  | .pacen _ _ => true
  | .reform _ _ => true
  | .reformNext _ => true
  | .exit _ => true
  | .trap _ _ => true
  | .bkpt _ _ => true
  | .enq d _ _ _ => scalarOk d && aligned 2 d
  | .deq d _ _ => scalarOk d && aligned 2 d
  | .depdEdge d a _ => scalarOk d && scalarOk a && aligned 2 a
  | .depdRel d a _ => scalarOk d && scalarOk a
  | .srd _ num _ => specialReadable num
  | .swr _ num _ => specialWritable num
  | .rte _ => true
  | .icinv _ => true
  | .lagStall _ _ => true
  | .loadComplete _ _ => true
  | .storeOffer _ => true
  | .frontierChange _ _ => true
  | .stepLanding _ _ _ => true
  | .copyLineWrite _ _ => true
  | .copyNearRead _ => true
  | .copyBurstAccepted _ _ => true
  | .burstArrival _ _ => true
  | .binDraw _ _ => true
  | .lastBurstEvent _ => true
  | .queryComplete _ => true
  | .pchRequest _ _ => true
  | .latencyBoundExpiry _ => true
  | .perBankRefresh _ => true
  | .tableRowRefresh _ _ => true
  | .targetedRefresh _ _ => true
  | .ecsScrub _ _ => true
  | .sliceScrub _ => true
  | .rebuildSector _ => true
  | .matrixOpTurn _ => true
  | .drainWrite _ _ => true
  | .matrixClaimEnd _ => true
  | .activeSetExchange _ => true
  | .rotation _ => true
  | .taskAdmission _ _ => true
  | .blockingTask _ => true
  | .classPreemption _ => true
  | .taskSteal _ _ => true
  | .taskStaging _ => true
  | .taskRetirement _ => true
  | .taskStop _ => true
  | .preemption _ => true
  | .restore _ _ => true
  | .atsCompletion _ _ _ => true
  | .invalidateRequest _ _ _ => true
  | .faultBufferFlush _ => true
  | .pageRequestResponse _ _ _ => true
  | .stopMarker _ => true
  | .accessCounterNotify _ _ => true
  | .hostMemoryAccess _ _ _ => true
  | .snoopResponse _ => true
  | .sqtail _ _ => true
  | .hostLaunch _ => true
  | .completionEntryWrite _ => true
  | .cqhead _ _ => true
  | .sqcfg _ _ => true
  | .cqcfg _ _ => true
  | .registerWrite _ _ _ => true
  | .slstatWrite _ _ => true
  | .writePlatEntry _ _ _ => true
  | .writeQuotaRecord _ _ _ => true
  | .setContextArea _ _ _ _ => true
  | .stopTask _ _ => true
  | .dropKeptRegion _ _ => true
  | .readStopLog _ => true
  | .flushFaultBuffers _ => true
  | .setAccessCounterThreshold _ _ => true
  | .setDebugEnable _ _ _ => true
  | .repairBank _ _ => true
  | .bindFabricPeer _ _ _ _ => true
  | .readMargins _ => true
  | .releaseHeldHostLaunch _ _ => true
  | .attestationReport _ => true
  | .flitNak _ _ => true
  | .endToEndTimeout _ _ => true
  | .fabricCommand _ => true
  | .peerReset _ => true
  | .functionLevelReset _ => true
  | .powerArbitration _ _ => true
  | .marginPlan _ _ => true
  | .bringUp => true
  | .refreshManagement _ => true
  | .sriovEnable _ => true
  | .newFirmwareImage _ => true

/-- The constructors that are words of the instruction set; the others are events. -/
def Instr.isWord : Instr → Bool
  | .hint _ _ _ => true
  | .mod _ => true
  | .imm _ => true
  | .add _ _ _ _ _ => true
  | .sub _ _ _ _ _ => true
  | .mul _ _ _ _ _ => true
  | .mulhi _ _ _ _ _ => true
  | .mulhu _ _ _ _ _ => true
  | .mad _ _ _ _ _ => true
  | .min _ _ _ _ _ => true
  | .max _ _ _ _ _ => true
  | .addImm _ _ _ _ _ => true
  | .subImm _ _ _ _ _ => true
  | .mulImm _ _ _ _ _ => true
  | .mulhiImm _ _ _ _ _ => true
  | .mulhuImm _ _ _ _ _ => true
  | .madImm _ _ _ _ _ => true
  | .minImm _ _ _ _ _ => true
  | .maxImm _ _ _ _ _ => true
  | .minu _ _ _ _ _ => true
  | .maxu _ _ _ _ _ => true
  | .and _ _ _ _ _ => true
  | .or _ _ _ _ _ => true
  | .xor _ _ _ _ _ => true
  | .andn _ _ _ _ _ => true
  | .rol _ _ _ _ _ => true
  | .minuImm _ _ _ _ _ => true
  | .maxuImm _ _ _ _ _ => true
  | .andImm _ _ _ _ _ => true
  | .orImm _ _ _ _ _ => true
  | .xorImm _ _ _ _ _ => true
  | .andnImm _ _ _ _ _ => true
  | .rolImm _ _ _ _ _ => true
  | .shl _ _ _ _ _ => true
  | .shr _ _ _ _ _ => true
  | .sar _ _ _ _ _ => true
  | .divs _ _ _ _ _ => true
  | .divu _ _ _ _ _ => true
  | .rems _ _ _ _ _ => true
  | .remu _ _ _ _ _ => true
  | .lea _ _ _ _ _ => true
  | .shlImm _ _ _ _ _ => true
  | .shrImm _ _ _ _ _ => true
  | .sarImm _ _ _ _ _ => true
  | .divsImm _ _ _ _ _ => true
  | .divuImm _ _ _ _ _ => true
  | .remsImm _ _ _ _ _ => true
  | .remuImm _ _ _ _ _ => true
  | .leaImm _ _ _ _ _ => true
  | .add64 _ _ _ _ _ => true
  | .sub64 _ _ _ _ _ => true
  | .shl64 _ _ _ _ _ => true
  | .shr64 _ _ _ _ _ => true
  | .add64Imm _ _ _ _ _ => true
  | .sub64Imm _ _ _ _ _ => true
  | .shl64Imm _ _ _ _ _ => true
  | .shr64Imm _ _ _ _ _ => true
  | .mov _ _ _ _ => true
  | .clz _ _ _ _ => true
  | .popc _ _ _ _ => true
  | .brev _ _ _ _ => true
  | .bfx _ _ _ _ _ => true
  | .bfxu _ _ _ _ _ => true
  | .bfi _ _ _ _ _ => true
  | .movi _ _ _ _ => true
  | .bfxImm _ _ _ _ _ => true
  | .bfxuImm _ _ _ _ _ => true
  | .bfiImm _ _ _ _ _ => true
  | .sel _ _ _ _ _ _ => true
  | .cmp _ _ _ _ _ _ => true
  | .cmpImm _ _ _ _ _ _ => true
  | .fcmp _ _ _ _ _ _ => true
  | .fcmpImm _ _ _ _ _ _ => true
  | .dcmp _ _ _ _ _ => true
  | .pand _ _ _ _ _ _ _ => true
  | .por _ _ _ _ _ _ _ => true
  | .pxor _ _ _ _ _ _ _ => true
  | .pnot _ _ _ _ _ => true
  | .shfl _ _ _ _ => true
  | .bcast _ _ _ _ => true
  | .rdlane _ _ _ _ => true
  | .wrlane _ _ _ _ => true
  | .redl _ _ _ _ => true
  | .scanl _ _ _ _ _ => true
  | .shflImm _ _ _ _ => true
  | .bcastImm _ _ _ _ => true
  | .rdlaneImm _ _ _ _ => true
  | .wrlaneImm _ _ _ _ => true
  | .vote _ _ _ _ => true
  | .popm _ _ _ _ => true
  | .elect _ _ => true
  | .fadd _ _ _ _ _ => true
  | .fsub _ _ _ _ _ => true
  | .fmul _ _ _ _ _ => true
  | .ffma _ _ _ _ _ => true
  | .fmin _ _ _ _ _ => true
  | .fmax _ _ _ _ _ => true
  | .fscale _ _ _ _ _ => true
  | .faddImm _ _ _ _ _ => true
  | .fsubImm _ _ _ _ _ => true
  | .fmulImm _ _ _ _ _ => true
  | .ffmaImm _ _ _ _ _ => true
  | .fminImm _ _ _ _ _ => true
  | .fmaxImm _ _ _ _ _ => true
  | .fscaleImm _ _ _ _ _ => true
  | .frcpe _ _ _ _ => true
  | .frsqe _ _ _ _ => true
  | .frnd _ _ _ _ => true
  | .fclass _ _ _ _ => true
  | .dadd _ _ _ _ => true
  | .dsub _ _ _ _ => true
  | .dmul _ _ _ _ => true
  | .dfma _ _ _ _ => true
  | .dmin _ _ _ _ => true
  | .dmax _ _ _ _ => true
  | .hadd2F16 _ _ _ _ => true
  | .hmul2F16 _ _ _ _ => true
  | .hfma2F16 _ _ _ _ => true
  | .hadd2Bf16 _ _ _ _ => true
  | .hmul2Bf16 _ _ _ _ => true
  | .hfma2Bf16 _ _ _ _ => true
  | .cvt _ _ _ _ _ => true
  | .cvtsr _ _ _ _ _ => true
  | .pack8 _ _ _ _ _ => true
  | .unpk8 _ _ _ _ => true
  | .pack4 _ _ _ _ _ => true
  | .unpk4 _ _ _ _ => true
  | .lds _ _ _ _ _ => true
  | .sts _ _ _ _ _ _ => true
  | .watch _ _ _ _ _ => true
  | .pres _ _ _ _ _ => true
  | .absa _ _ _ _ => true
  | .rela _ _ _ _ => true
  | .ld _ _ _ _ _ _ => true
  | .stP _ _ _ _ _ _ => true
  | .stG _ _ _ _ _ _ => true
  | .stK _ _ _ _ _ _ => true
  | .mldw _ _ _ _ _ _ => true
  | .mldwS _ _ _ _ _ _ => true
  | .mma _ _ _ _ _ _ _ => true
  | .mmas _ _ _ _ _ _ _ => true
  | .mdrn _ _ _ _ _ _ _ => true
  | .mzero _ _ _ => true
  | .trd _ _ _ _ _ _ => true
  | .twr _ _ _ _ _ _ => true
  | .copy _ _ _ _ => true
  | .cpys _ _ => true
  | .brd _ _ _ _ => true
  | .brdi _ _ _ _ => true
  | .hend _ => true
  | .tq _ _ _ _ _ _ => true
  | .tqb _ _ _ _ _ _ => true
  | .bra _ _ => true
  | .jmp _ => true
  | .call _ => true
  | .split _ _ _ => true
  | .nop _ => true
  | .jmpr _ _ _ => true
  | .ret _ _ => true
  | .join _ _ => true
  | .jmov _ _ _ _ => true
  | .pace _ => true
  | .pacen _ _ => true
  | .reform _ _ => true
  | .reformNext _ => true
  | .exit _ => true
  | .trap _ _ => true
  | .bkpt _ _ => true
  | .enq _ _ _ _ => true
  | .deq _ _ _ => true
  | .depdEdge _ _ _ => true
  | .depdRel _ _ _ => true
  | .srd _ _ _ => true
  | .swr _ _ _ => true
  | .rte _ => true
  | .icinv _ => true
  | .lagStall _ _ => false
  | .loadComplete _ _ => false
  | .storeOffer _ => false
  | .frontierChange _ _ => false
  | .stepLanding _ _ _ => false
  | .copyLineWrite _ _ => false
  | .copyNearRead _ => false
  | .copyBurstAccepted _ _ => false
  | .burstArrival _ _ => false
  | .binDraw _ _ => false
  | .lastBurstEvent _ => false
  | .queryComplete _ => false
  | .pchRequest _ _ => false
  | .latencyBoundExpiry _ => false
  | .perBankRefresh _ => false
  | .tableRowRefresh _ _ => false
  | .targetedRefresh _ _ => false
  | .ecsScrub _ _ => false
  | .sliceScrub _ => false
  | .rebuildSector _ => false
  | .matrixOpTurn _ => false
  | .drainWrite _ _ => false
  | .matrixClaimEnd _ => false
  | .activeSetExchange _ => false
  | .rotation _ => false
  | .taskAdmission _ _ => false
  | .blockingTask _ => false
  | .classPreemption _ => false
  | .taskSteal _ _ => false
  | .taskStaging _ => false
  | .taskRetirement _ => false
  | .taskStop _ => false
  | .preemption _ => false
  | .restore _ _ => false
  | .atsCompletion _ _ _ => false
  | .invalidateRequest _ _ _ => false
  | .faultBufferFlush _ => false
  | .pageRequestResponse _ _ _ => false
  | .stopMarker _ => false
  | .accessCounterNotify _ _ => false
  | .hostMemoryAccess _ _ _ => false
  | .snoopResponse _ => false
  | .sqtail _ _ => false
  | .hostLaunch _ => false
  | .completionEntryWrite _ => false
  | .cqhead _ _ => false
  | .sqcfg _ _ => false
  | .cqcfg _ _ => false
  | .registerWrite _ _ _ => false
  | .slstatWrite _ _ => false
  | .writePlatEntry _ _ _ => false
  | .writeQuotaRecord _ _ _ => false
  | .setContextArea _ _ _ _ => false
  | .stopTask _ _ => false
  | .dropKeptRegion _ _ => false
  | .readStopLog _ => false
  | .flushFaultBuffers _ => false
  | .setAccessCounterThreshold _ _ => false
  | .setDebugEnable _ _ _ => false
  | .repairBank _ _ => false
  | .bindFabricPeer _ _ _ _ => false
  | .readMargins _ => false
  | .releaseHeldHostLaunch _ _ => false
  | .attestationReport _ => false
  | .flitNak _ _ => false
  | .endToEndTimeout _ _ => false
  | .fabricCommand _ => false
  | .peerReset _ => false
  | .functionLevelReset _ => false
  | .powerArbitration _ _ => false
  | .marginPlan _ _ => false
  | .bringUp => false
  | .refreshManagement _ => false
  | .sriovEnable _ => false
  | .newFirmwareImage _ => false

end Sys2Proof
end

