-- ==== Sys2Proof/Machine/Num.lean ====
section
/-!
DEFINITION. Numbers (R169 to R187): sign extension, the floating-point formats as exact values, the
one rounding of R173 and R174 with its flags, the exact operations of R205 to R215, the estimates of
R208 and R209, the random word of R176 to R178 and the block sums of R180 to R184. All arithmetic is
exact on integers; only `roundTo` rounds.
-/

namespace Sys2Proof.Machine

open Sys2Proof

/-! ### Integers (R169, R170) -/

/-- `SEXT(v, n)` of R170 as an integer. -/
def sextInt (v n : Nat) : Int :=
  let x := v % 2 ^ n
  if n = 0 then 0 else if x < 2 ^ (n - 1) then x else (x : Int) - (2 : Int) ^ n

/-- An integer wrapped to `n` bits. -/
def wrapInt (n : Nat) (x : Int) : Nat := (x % (2 : Int) ^ n).toNat

/-- An integer clamped to the range of a signed or unsigned `n`-bit number. -/
def clampInt (signed : Bool) (n : Nat) (x : Int) : Int :=
  let lo : Int := if signed then -((2 : Int) ^ (n - 1)) else 0
  let hi : Int := if signed then (2 : Int) ^ (n - 1) - 1 else (2 : Int) ^ n - 1
  if x < lo then lo else if hi < x then hi else x

/-- A word rotated left. -/
def rotl (w : Word) (n : Nat) : Word := w.rotateLeft (n % 32)

/-! ### Floating-point formats (R171, R172) -/

/-- The exact value a pattern stands for. A NaN keeps its sign and nothing else (R172). -/
inductive FVal where
  | nan (neg : Bool)
  | inf (neg : Bool)
  | fin (neg : Bool) (mant : Nat) (exp : Int)
  deriving DecidableEq, Repr, Inhabited

/-- What a format has beyond finite numbers (R171). -/
inductive Special where
  | none | nanOnly | ieee
  deriving DecidableEq, Repr, Inhabited

/-- A floating-point format of R171: total bits, mantissa bits, bias and special values. -/
structure Fmt where
  bits : Nat
  mant : Nat
  bias : Nat
  special : Special
  deriving DecidableEq, Repr, Inhabited

/-- The formats of R171. -/
def e2m1 : Fmt := { bits := 4, mant := 1, bias := 1, special := .none }
/-- `E4M3` of R171. -/
def e4m3 : Fmt := { bits := 8, mant := 3, bias := 7, special := .nanOnly }
/-- `E5M2` of R171. -/
def e5m2 : Fmt := { bits := 8, mant := 2, bias := 15, special := .ieee }
/-- `F16` of R171. -/
def f16 : Fmt := { bits := 16, mant := 10, bias := 15, special := .ieee }
/-- `BF16` of R171. -/
def bf16 : Fmt := { bits := 16, mant := 7, bias := 127, special := .ieee }
/-- `F32` of R171. -/
def f32 : Fmt := { bits := 32, mant := 23, bias := 127, special := .ieee }
/-- `F64` of R171. -/
def f64 : Fmt := { bits := 64, mant := 52, bias := 1023, special := .ieee }

/-- The format of a float type code. -/
def fmtOf : Ty → Option Fmt
  | .e2m1 => some e2m1
  | .e4m3 => some e4m3
  | .e5m2 => some e5m2
  | .f16 => some f16
  | .bf16 => some bf16
  | .f32 => some f32
  | .f64 => some f64
  | _ => none

/-- The exponent of the smallest normal value. -/
def Fmt.emin (f : Fmt) : Int := 1 - (f.bias : Int)

/-- The exponent field of all ones. -/
def Fmt.expOnes (f : Fmt) : Nat := 2 ^ (f.bits - 1 - f.mant) - 1

/-- The magnitude bits of the largest finite value (R171). -/
def Fmt.maxBits (f : Fmt) : Nat :=
  match f.special with
  | .none => 2 ^ (f.bits - 1) - 1
  | .nanOnly => 2 ^ (f.bits - 1) - 2
  | .ieee => f.expOnes * 2 ^ f.mant - 1

/-- The sign bit in place. -/
def Fmt.signBit (f : Fmt) (neg : Bool) : Nat := if neg then 2 ^ (f.bits - 1) else 0

/-- The canonical NaN of R172; `E2M1` has none and takes zero (R173). -/
def Fmt.nanBits (f : Fmt) (neg : Bool) : Nat :=
  match f.special with
  | .none => 0
  | .nanOnly => f.signBit neg + (2 ^ (f.bits - 1) - 1)
  | .ieee => f.signBit neg + f.expOnes * 2 ^ f.mant + 2 ^ (f.mant - 1)

/-- The value of a pattern (R171). -/
def Fmt.value (f : Fmt) (b : Nat) : FVal :=
  let neg := decide (b / 2 ^ (f.bits - 1) % 2 = 1)
  let mag := b % 2 ^ (f.bits - 1)
  let e := mag / 2 ^ f.mant
  let m := mag % 2 ^ f.mant
  if f.special = .ieee && e = f.expOnes then (if m = 0 then .inf neg else .nan neg)
  else if f.special = .nanOnly && mag = 2 ^ (f.bits - 1) - 1 then .nan neg
  else if e = 0 then .fin neg m (f.emin - f.mant)
  else .fin neg (m + 2 ^ f.mant) ((e : Int) - f.bias - f.mant)

/-! ### Flags (R186) -/

/-- No flag. -/
def fNone : Word := 0
/-- NX, inexact. -/
def fNX : Word := 1
/-- UF, underflow. -/
def fUF : Word := 2
/-- OF, overflow. -/
def fOF : Word := 4
/-- DZ, division by zero. -/
def fDZ : Word := 8
/-- NV, invalid operation. -/
def fNV : Word := 16

/-! ### Rounding (R173, R174) -/

/-- The rounding modes of R173; `sr` carries the element's random word. -/
inductive RMode where
  | rne | rtz | rup | rdn
  | sr (w : Word)
  deriving DecidableEq, Repr, Inhabited

/-- The overflowed result of R174, as magnitude bits with their sign. -/
def overflowBits (f : Fmt) (mode : RMode) (neg : Bool) : Nat :=
  let mx := f.maxBits
  let mag := match f.special with
    | .ieee => match mode with
      | .rtz => mx
      | .rup => if neg then mx else mx + 1
      | .rdn => if neg then mx + 1 else mx
      | _ => mx + 1
    | _ => mx
  f.signBit neg + mag

/-- Whether a remainder `r` of `2^d` above the lower neighbour `k` rounds the magnitude up (R173). -/
def roundsUp (mode : RMode) (neg : Bool) (k r d : Nat) : Bool :=
  match mode with
  | .rne => 2 ^ d < 2 * r || (2 * r = 2 ^ d && k % 2 = 1)
  | .rtz => false
  | .rup => 0 < r && !neg
  | .rdn => 0 < r && neg
  | .sr w => w.toNat < r * 2 ^ 32 / 2 ^ d

/-- A finite non-zero magnitude `m * 2^e` split at the spacing `2^q`: the lower neighbour in units of
the spacing, the remainder and its width. A remainder far below the spacing is held at a width at
which every mode already decides as it does for the exact one. -/
def splitAt (m : Nat) (e q : Int) : Nat × Nat × Nat :=
  if q ≤ e then (m * 2 ^ (e - q).toNat, 0, 0)
  else
    let d := min (q - e).toNat (m.log2 + 64)
    (m / 2 ^ d, m % 2 ^ d, d)

/-- `ROUND(x, F, mode, w)` of R173, with the flags of R186: the pattern and the flags. -/
def roundTo (f : Fmt) (mode : RMode) (x : FVal) : Nat × Word :=
  match x with
  | .nan neg => (f.nanBits neg, if f.special = .none then fNV else fNone)
  | .inf neg =>
    if f.special = .ieee then (f.signBit neg + (f.maxBits + 1), fNone)
    else (f.signBit neg + f.maxBits, fNV)
  | .fin neg m e =>
    if m = 0 then (f.signBit neg, fNone)
    else
      let top := (m.log2 : Int) + e
      let ex := max top f.emin
      if ex - f.emin > f.expOnes then (overflowBits f mode neg, fOF ||| fNX)
      else
        let (k, r, d) := splitAt m e (ex - f.mant)
        let y := if roundsUp mode neg k r d then k + 1 else k
        let mag := (ex - f.emin).toNat * 2 ^ f.mant + y
        if f.maxBits < mag then (overflowBits f mode neg, fOF ||| fNX)
        else (f.signBit neg + mag,
          if r = 0 then fNone else if top < f.emin then fUF ||| fNX else fNX)

/-- `RNE32` of R175, the pattern alone. -/
def rne32 (x : FVal) : Nat × Word := roundTo f32 .rne x

/-! ### Exact operations (R205 to R207) -/

/-- The sign of a value. -/
def FVal.neg : FVal → Bool
  | .nan s => s
  | .inf s => s
  | .fin s _ _ => s

/-- Negation: the sign only (R53). -/
def FVal.negate : FVal → FVal
  | .nan s => .nan !s
  | .inf s => .inf !s
  | .fin s m e => .fin (!s) m e

/-- Absolute value: the sign only (R53). -/
def FVal.abs : FVal → FVal
  | .nan _ => .nan false
  | .inf _ => .inf false
  | .fin _ m e => .fin false m e

/-- Whether a value is a NaN. -/
def FVal.isNan : FVal → Bool
  | .nan _ => true
  | _ => false

/-- Whether a value is an infinity. -/
def FVal.isInf : FVal → Bool
  | .inf _ => true
  | _ => false

/-- Whether a value is a zero. -/
def FVal.isZero : FVal → Bool
  | .fin _ m _ => m = 0
  | _ => false

/-- A value times a power of two (exact). -/
def FVal.scale (x : FVal) (k : Int) : FVal :=
  match x with
  | .fin s m e => .fin s m (e + k)
  | y => y

/-- The signed mantissa of a finite value at exponent `e0` at or below its own. -/
def signedAt (neg : Bool) (m : Nat) (e e0 : Int) : Int :=
  let v : Int := (m * 2 ^ (e - e0).toNat : Nat)
  if neg then -v else v

/-- The exact sum of two values with the flags of R206; `rdn` chooses the sign of a zero that is
formed from unlike signs (R173). -/
def fAdd (rdn : Bool) (x y : FVal) : FVal × Word :=
  match x, y with
  | .nan _, _ => (.nan false, fNone)
  | _, .nan _ => (.nan false, fNone)
  | .inf s, .inf t => if s = t then (.inf s, fNone) else (.nan false, fNV)
  | .inf s, _ => (.inf s, fNone)
  | _, .inf t => (.inf t, fNone)
  | .fin s m e, .fin t n g =>
    let e0 := min e g
    let z := signedAt s m e e0 + signedAt t n g e0
    if z = 0 then (if m = 0 && n = 0 && s = t then .fin s 0 0 else .fin rdn 0 0, fNone)
    else (.fin (decide (z < 0)) z.natAbs e0, fNone)

/-- The exact product of two values with the flags of R206. -/
def fMul (x y : FVal) : FVal × Word :=
  match x, y with
  | .nan _, _ => (.nan false, fNone)
  | _, .nan _ => (.nan false, fNone)
  | .inf s, z => if z.isZero then (.nan false, fNV) else (.inf (s != z.neg), fNone)
  | z, .inf t => if z.isZero then (.nan false, fNV) else (.inf (z.neg != t), fNone)
  | .fin s m e, .fin t n g => (.fin (s != t) (m * n) (e + g), fNone)

/-- Whether a product is 0 × ∞. -/
def zeroTimesInf (x y : FVal) : Bool := (x.isZero && y.isInf) || (x.isInf && y.isZero)

/-- The exact fused product and sum of R205 with the flags of R206; a product of 0 × ∞ is invalid
whatever the addend is. -/
def fFma (rdn : Bool) (x y d : FVal) : FVal × Word :=
  if zeroTimesInf x y then (.nan false, fNV)
  else
    let (p, _) := fMul x y
    if p.isNan then (.nan false, fNone) else fAdd rdn p d

/-- Exact comparison of two values that are not NaNs: the sign of `x - y`, zeros equal. -/
def fCompare (x y : FVal) : Ordering :=
  match x, y with
  | .inf s, .inf t => if s = t then .eq else if s then .lt else .gt
  | .inf s, _ => if s then .lt else .gt
  | _, .inf t => if t then .gt else .lt
  | .fin s m e, .fin t n g =>
    let e0 := min e g
    compare (signedAt s m e e0) (signedAt t n g e0)
  | _, _ => .eq

/-- `FMIN` and `FMAX` of R207; −0.0 counts as less than +0.0. -/
def fMinMax (isMax : Bool) (x y : FVal) : FVal :=
  match x.isNan, y.isNan with
  | true, true => .nan false
  | true, false => y
  | false, true => x
  | false, false =>
    let xLess := match fCompare x y with
      | .lt => true
      | .gt => false
      | .eq => x.neg && !y.neg
    if xLess = isMax then y else x

/-- Clamp a pattern to [+0.0, 1.0] (R53). -/
def clampUnit (f : Fmt) (b : Nat) : Nat :=
  let one := f.bias * 2 ^ f.mant
  match f.value b with
  | .nan _ => 0
  | .inf s => if s then 0 else one
  | .fin s m e =>
    if s || m = 0 then 0
    else if fCompare (.fin s m e) (.fin false 1 0) = .gt then one else b

/-! ### Estimates, integral rounding and classes (R208 to R210) -/

/-- The nearest integer to `n / d`, ties to even. -/
def divNear (n d : Nat) : Nat :=
  let k := n / d
  let r := n % d
  if d < 2 * r || (2 * r = d && k % 2 = 1) then k + 1 else k

/-- `RCPEST` of R208 on `m * 2^e`, as an exact value. -/
def rcpEst (m : Nat) (e : Int) : FVal :=
  let l := m.log2
  let t := m * 2 ^ 8 / 2 ^ l
  .fin false (divNear (2 ^ 21) (2 * t + 1)) (-12 - ((l : Int) + e))

/-- `FRCPE` of R208. -/
def fRcpe (x : FVal) : Nat × Word :=
  match x with
  | .nan _ => (f32.nanBits false, fNone)
  | .inf s => (f32.signBit s, fNone)
  | .fin s m e =>
    if m = 0 then (f32.signBit s + (f32.maxBits + 1), fDZ)
    else match rcpEst m e with
      | .fin _ n g => roundTo f32 .rne (.fin s n g)
      | y => roundTo f32 .rne y

/-- The largest `n` below `2^k` in bits, set from the top, whose square times `d` is at most `q`. -/
def rootBits (q d : Nat) : Nat → Nat → Nat
  | 0, n => n
  | k + 1, n =>
    let c := n + 2 ^ k
    rootBits q d k (if c * c * d ≤ q then c else n)

/-- `RSQEST` of R209 on `m * 2^e`, as an exact value. -/
def rsqEst (m : Nat) (e : Int) : FVal :=
  let l := (m.log2 : Int) + e
  -- `x = y * 2^ev` with `ev` even and 1 ≤ y < 4
  let ev := l - l % 2
  let sh := ev - e
  let t := if 0 ≤ sh then m * 2 ^ 7 / 2 ^ sh.toNat else m * 2 ^ 7 * 2 ^ (-sh).toNat
  let d := 2 * t + 1
  let n := rootBits (2 ^ 32) d 13 0
  let r := if (2 * n + 1) * (2 * n + 1) * d < 2 ^ 34 then n + 1 else n
  .fin false r (-12 - ev / 2)

/-- `FRSQE` of R209. -/
def fRsqe (x : FVal) : Nat × Word :=
  match x with
  | .nan _ => (f32.nanBits false, fNone)
  | .inf s => if s then (f32.nanBits false, fNV) else (0, fNone)
  | .fin s m e =>
    if m = 0 then (f32.signBit s + (f32.maxBits + 1), fDZ)
    else if s then (f32.nanBits false, fNV)
    else ((roundTo f32 .rne (rsqEst m e)).1, fNone)

/-- A finite value rounded to an integer magnitude under a mode, with whether it was inexact. -/
def roundInt (mode : RMode) (neg : Bool) (m : Nat) (e : Int) : Nat × Bool :=
  if m = 0 then (0, false)
  else
    let (k, r, d) := splitAt m e 0
    (if roundsUp mode neg k r d then k + 1 else k, r != 0)

/-- `FRND` of R210: an integral binary32 value with the sign of the operand; no flag. -/
def fRnd (mode : RMode) (x : FVal) : Nat :=
  match x with
  | .fin s m e =>
    if 0 ≤ e then (roundTo f32 .rne (.fin s m e)).1
    else (roundTo f32 .rne (.fin s (roundInt mode s m e).1 0)).1
  | y => (roundTo f32 .rne (match y with | .nan _ => .nan false | z => z)).1

/-- `FCLASS` of R210 on a binary32 pattern. -/
def fClass (b : Nat) : Nat :=
  let sub := decide (b / 2 ^ 23 % 256 = 0)
  match f32.value b with
  | .nan s => if s then 2 ^ 9 else 2 ^ 8
  | .inf s => if s then 1 else 2 ^ 7
  | .fin s m _ =>
    if m = 0 then (if s then 2 ^ 3 else 2 ^ 4)
    else if sub then (if s then 2 ^ 2 else 2 ^ 5)
    else (if s then 2 else 2 ^ 6)

/-! ### Conversion (R80, R214, R215) -/

/-- Whether an integer type is signed. -/
def tySigned : Ty → Bool
  | .i4 | .i8 | .i16 | .i32 | .i64 => true
  | _ => false

/-- The width in bits of a type (R41). -/
def tyBits : Ty → Nat
  | .i4 | .ui4 | .e2m1 => 4
  | .i8 | .ui8 | .e4m3 | .e5m2 => 8
  | .i16 | .ui16 | .f16 | .bf16 => 16
  | .i32 | .ui32 | .f32 => 32
  | .i64 | .f64 => 64

/-- Whether a type is a float type. -/
def tyFloat (t : Ty) : Bool := (fmtOf t).isSome

/-- An integer element read by its type's signedness. -/
def intOf (t : Ty) (b : Nat) : Int :=
  if tySigned t then sextInt b (tyBits t) else ((b % 2 ^ tyBits t : Nat) : Int)

/-- A float to integer conversion (R215): the integer and the flags. -/
def floatToInt (mode : RMode) (t : Ty) (x : FVal) : Int × Word :=
  let lo := clampInt (tySigned t) (tyBits t) (-((2 : Int) ^ 64))
  let hi := clampInt (tySigned t) (tyBits t) ((2 : Int) ^ 64)
  match x with
  | .nan _ => (0, fNV)
  | .inf s => (if s then lo else hi, fNV)
  | .fin s m e =>
    if (m.log2 : Int) + e > 70 && m != 0 then (if s then lo else hi, fNV)
    else
      let (k, inexact) := roundInt mode s m e
      let n : Int := if s then -(k : Int) else k
      if n < lo then (lo, fNV) else if hi < n then (hi, fNV)
      else (n, if inexact then fNX else fNone)

/-- `WIDEN` of R80: an entry's bits as a 32-bit result; it raises no flag. -/
def widen (t : Ty) (b : Nat) : Word :=
  match t with
  | .i8 | .i16 | .i4 => BitVec.ofNat 32 (wrapInt 32 (intOf t b))
  | .e2m1 | .e4m3 | .e5m2 | .f16 | .bf16 =>
    match fmtOf t with
    | some f => BitVec.ofNat 32 (roundTo f32 .rne (f.value b)).1
    | none => 0
  | _ => BitVec.ofNat 32 (b % 2 ^ tyBits t)

/-! ### The random word (R176, R177) -/

/-- `RWORD` of R176. -/
def rword (seed a b : Word) : Word :=
  let h := seed ^^^ 0x9E3779B9
  let h := (h ^^^ a) * 0x85EBCA6B
  let h := h ^^^ (h >>> 13)
  let h := (h ^^^ b) * 0xC2B2AE35
  let h := h ^^^ (h >>> 16)
  let h := h * 0x27D4EB2D
  h ^^^ (h >>> 15)

/-! ### Exact sums (R147, R179) -/

/-- A finite `F32` or `BF16` value in units of 2^−149. -/
def unitsOf (x : FVal) : Int :=
  match x with
  | .fin s m e => signedAt s m e (-149)
  | _ => 0

/-- The landed value of a floating-point `SUM` cell from its old value, the special marks, the
negative-zero mark and the exact sum of the contributions (R147). -/
def sumLands (f : Fmt) (old : FVal) (nan pinf ninf nz : Bool) (sum : Int) : Nat :=
  let p := pinf || old = .inf false
  let n := ninf || old = .inf true
  if nan || old.isNan || (p && n) then f.nanBits false
  else if p then (roundTo f .rne (.inf false)).1
  else if n then (roundTo f .rne (.inf true)).1
  else
    let t := unitsOf old + sum
    if t = 0 then f.signBit (nz && old.isZero && old.neg)
    else (roundTo f .rne (.fin (decide (t < 0)) t.natAbs (-149))).1

/-! ### Block sums and promotion (R180 to R184) -/

/-- The exact exponent `floor(log2 |x|)` of a non-zero finite value. -/
def topOf (x : FVal) : Option Int :=
  match x with
  | .fin _ m e => if m = 0 then none else some ((m.log2 : Int) + e)
  | _ => none

/-- One product truncated toward zero onto the grid `2^u` (R181), in units of the grid. -/
def onGrid (u : Int) (x : FVal) : Int :=
  match x with
  | .fin s m e =>
    let v : Nat := if u ≤ e then m * 2 ^ (e - u).toNat else m / 2 ^ (u - e).toNat
    if s then -(v : Int) else v
  | _ => 0

/-- The exact sum of finite values. -/
def exactSum (ps : List FVal) : FVal :=
  ps.foldl (fun acc p => (fAdd false acc p).1) (.fin false 0 0)

/-- The aligned-block sum of R181 over finite products. -/
def alignedSum (ps : List FVal) : FVal :=
  match (ps.filterMap topOf).max? with
  | none => .fin false 0 0
  | some e =>
    let u := e - 39
    let t := ps.foldl (fun acc p => acc + onGrid u p) (0 : Int)
    .fin (decide (t < 0)) t.natAbs u

/-- A block sum with the special cases of R182 decided first, over the operand pairs of the block;
`exact` for `E4M3` by `E4M3` (R180), the aligned scheme otherwise. A NaN operand hides no `NV`: neither that of 0 × ∞ nor
that of products of both infinities (log entry 32). -/
def blockSum (exact : Bool) (xs : List (FVal × FVal)) : FVal × Word :=
  let nanOp := xs.any fun p => p.1.isNan || p.2.isNan
  let zi := xs.any fun p => zeroTimesInf p.1 p.2
  let ps := xs.map fun p => (fMul p.1 p.2).1
  let pinf := ps.any (· = .inf false)
  let ninf := ps.any (· = .inf true)
  let nv := zi || (pinf && ninf)
  if nanOp || nv then (.nan false, if nv then fNV else fNone)
  else if pinf then (.inf false, fNone)
  else if ninf then (.inf true, fNone)
  else (if exact then exactSum ps else alignedSum ps, fNone)

/-- The promotion of a block into an accumulator element (R183): the new pattern and the flags. -/
def promote (block : FVal) (scale : Option (Word × Word)) (acc : Word) : Word × Word :=
  let (sc, fs) := match scale with
    | none => (FVal.fin false 1 0, fNone)
    | some (a, w) =>
      let (x, fx) := fMul (f32.value a.toNat) (f32.value w.toNat)
      let (b, fr) := rne32 x
      (f32.value b, fx ||| fr)
  let (cb, fc) := rne32 block
  let (y, fy) := fFma false (f32.value cb) sc (f32.value acc.toNat)
  let (r, fr) := rne32 y
  (BitVec.ofNat 32 r, fs ||| fc ||| fy ||| fr)

/-- The power of `VSCALE` (R184) of a vector of binary32 values. -/
def vscale (xs : List FVal) : Int :=
  let mags := (xs.filter fun x => !x.isNan).map FVal.abs
  let amax := mags.foldl (fun acc x => if fCompare acc x = .lt then x else acc) (.fin false 0 0)
  match amax with
  | .fin _ m e =>
    if m = 0 then 0
    else
      -- the least k with m * 2^e ≤ 448 * 2^k, where 448 = 7 * 2^6
      let k0 := (m.log2 : Int) + e - 8
      let k := if fCompare (.fin false m e) (.fin false 7 (6 + k0)) = .gt then k0 + 1 else k0
      min 127 (max (-127) k)
  | _ => 127

end Sys2Proof.Machine
end

