-- ==== Sys2Proof/Config.lean ====
section
/-!
DEFINITION. What the spec leaves to the implementation or to chance. A free value is an opaque
constant: no proof can see what it is, so a theorem about it holds whatever it is.
-/

namespace Sys2Proof.Config

/-- The scheduler's pick among several moves that could be made, applied to the counter `fresh` of
the state (R63, R95, R111, R241, R257, R272 leave these orders open). Log entry 4. -/
opaque choice : Nat → Nat

/-- Which of several `ANY` stores survives on a byte set (R145, R146), applied to the counter
`fresh`. Log entry 5. -/
opaque anyPick : Nat → Nat

/-- Which free run of granules placement takes (R261). Log entry 9. -/
opaque runPick : Nat → Nat

/-- The device-physical address at which the code instance of a number is formed (R303 names the
partition's code area and no address). Log entry 15. -/
opaque instanceAt : Nat → Nat

/-- Which of three copies of an owner tag counts when all three differ (R125 reads them by majority). Log
entry 34. -/
opaque copyPick : Nat → Nat

/-- The size in bytes of a saved context, from the threads, scratch bytes and pending items it
holds (R281 gives no layout). Log entry 10. -/
opaque contextBytes : Nat → Nat → Nat → Nat

/-- The part's own activation threshold for refresh management (R59, R66). Log entry 11. -/
opaque managementThreshold : Nat

/-- The status with which the mailbox refuses a command for a reason to which R298 gives no number. Log
entry 16. -/
opaque refusedStatus : Nat

/-- The cycles that one refresh of a bank takes (R66, R69 give none). Log entry 72. -/
opaque refreshCycles : Nat

/-- The response code in the fault log of a translation that failed at another device, by the command's sequence number
(R287, R300). Log entry 18. -/
opaque remoteFaultCode : Nat → Nat

/-- The port by which a command of a sequence number leaves first (R299 names none). Log entry 78. -/
opaque firstPort : Nat → Nat

/-- What ageing makes of a plan (R309 gives no voltage and no step): a number for an argument of its own for each voltage
and each highest step. Log entry 81. -/
opaque marginPlan : Nat → Nat → Nat

/-- The device's own number, set by system software at bring-up (R300). Log entry 17. -/
opaque deviceNumber : Nat

/-- The devices that some port reaches after bring-up (R300, R310). Log entry 17. -/
opaque reachableDevices : List Nat

/-- HPA0 in units of 256 MiB (R294). Log entry 17. -/
opaque hdmBlock : Nat

/-- Whether an Ed25519 signature verifies against the fused key (R307). Log entry 12. -/
opaque ed25519Verifies : BitVec 384 → Nat → Bool

/-- Whether an ML-DSA-65 signature verifies against the fused key (R307). Log entry 12. -/
opaque mldsaVerifies : BitVec 384 → Nat → Bool

/-- The device's own Ed25519 signature of a report (R307). Log entry 12. -/
opaque ed25519Sign : List Nat → Nat

/-- The device's own ML-DSA-65 signature of a report (R307). Log entry 12. -/
opaque mldsaSign : List Nat → Nat

end Sys2Proof.Config
end

