-- ==== Sys2Proof/Decode.lean ====
section
/-!
DEFINITION. The decoder of instruction words (R31, R34 to R58), total on every 32-bit pattern and
rejecting by name, and after it the encoder, written from the same formats (R37 to R47). Words are
read as natural numbers, a field `hi:lo` as `w / 2^lo mod 2^(hi-lo+1)`.
-/

namespace Sys2Proof

/-- Why a word is not an instruction (R56). -/
inductive DecodeError where
  /-- Major 0x00, 0x23, 0x3B or 0x3F. -/
  | major
  /-- A function code or condition marked illegal in R48. -/
  | function
  /-- A non-zero reserved field (R5, R49). -/
  | reserved
  /-- A field outside its legal set (R35, R36, R41, R49, R52, R55). -/
  | field
  deriving DecidableEq, Repr, Inhabited

/-- The field of `n` bits whose lowest bit is `lo`. -/
def fld (w lo n : Nat) : Nat := w / 2 ^ lo % 2 ^ n

/-- The same field as a bit vector. -/
def bits (n w lo : Nat) : BitVec n := BitVec.ofNat n (w / 2 ^ lo)

/-- A one-bit field. -/
def flag (w lo : Nat) : Bool := decide (fld w lo 1 = 1)

/-- The guard whose predicate index starts at bit `lo` (R34, R46). -/
def guardAt (w lo : Nat) : Guard := { inv := flag w (lo + 3), p := bits 3 w lo }

/-- The value of a guard field: the invert bit above the index. -/
def Guard.toNat (g : Guard) : Nat := g.inv.toNat * 8 + g.p.toNat

/-- The code of a `Space` field. -/
def Space.code : Space → Nat
  | .party => 0
  | .task => 1
  | .immutable => 2

/-- The `Space` with a given code, if the code is legal. -/
def Space.ofCode : Nat → Option Space
  | 0 => some .party
  | 1 => some .task
  | 2 => some .immutable
  | _ => none

/-- The code of a `Rule` field. -/
def Rule.code : Rule → Nat
  | .low => 0
  | .any => 1
  | .sum => 2
  | .flt => 3

/-- The `Rule` with a given code, if the code is legal. -/
def Rule.ofCode : Nat → Option Rule
  | 0 => some .low
  | 1 => some .any
  | 2 => some .sum
  | 3 => some .flt
  | _ => none

/-- The code of a `Ty` field. -/
def Ty.code : Ty → Nat
  | .i4 => 0
  | .ui4 => 1
  | .i8 => 2
  | .ui8 => 3
  | .i16 => 4
  | .ui16 => 5
  | .i32 => 6
  | .ui32 => 7
  | .i64 => 8
  | .e2m1 => 9
  | .e4m3 => 10
  | .e5m2 => 11
  | .f16 => 12
  | .bf16 => 13
  | .f32 => 14
  | .f64 => 15

/-- The `Ty` with a given code, if the code is legal. -/
def Ty.ofCode : Nat → Option Ty
  | 0 => some .i4
  | 1 => some .ui4
  | 2 => some .i8
  | 3 => some .ui8
  | 4 => some .i16
  | 5 => some .ui16
  | 6 => some .i32
  | 7 => some .ui32
  | 8 => some .i64
  | 9 => some .e2m1
  | 10 => some .e4m3
  | 11 => some .e5m2
  | 12 => some .f16
  | 13 => some .bf16
  | 14 => some .f32
  | 15 => some .f64
  | _ => none

/-- The code of a `ICond` field. -/
def ICond.code : ICond → Nat
  | .eq => 0
  | .ne => 1
  | .lt => 2
  | .le => 3
  | .gt => 4
  | .ge => 5
  | .ltu => 6
  | .leu => 7
  | .gtu => 8
  | .geu => 9

/-- The `ICond` with a given code, if the code is legal. -/
def ICond.ofCode : Nat → Option ICond
  | 0 => some .eq
  | 1 => some .ne
  | 2 => some .lt
  | 3 => some .le
  | 4 => some .gt
  | 5 => some .ge
  | 6 => some .ltu
  | 7 => some .leu
  | 8 => some .gtu
  | 9 => some .geu
  | _ => none

/-- The code of a `FCond` field. -/
def FCond.code : FCond → Nat
  | .eq => 0
  | .ne => 1
  | .lt => 2
  | .le => 3
  | .gt => 4
  | .ge => 5
  | .un => 6
  | .ord => 7

/-- The `FCond` with a given code, if the code is legal. -/
def FCond.ofCode : Nat → Option FCond
  | 0 => some .eq
  | 1 => some .ne
  | 2 => some .lt
  | 3 => some .le
  | 4 => some .gt
  | 5 => some .ge
  | 6 => some .un
  | 7 => some .ord
  | _ => none

/-- The code of a `WCond` field. -/
def WCond.code : WCond → Nat
  | .z => 0
  | .nz => 1
  | .ze => 2
  | .e => 3

/-- The `WCond` with a given code, if the code is legal. -/
def WCond.ofCode : Nat → Option WCond
  | 0 => some .z
  | 1 => some .nz
  | 2 => some .ze
  | 3 => some .e
  | _ => none

/-- The code of a `LaneOp` field. -/
def LaneOp.code : LaneOp → Nat
  | .add => 0
  | .min => 1
  | .max => 2
  | .minu => 3
  | .maxu => 4
  | .and => 5
  | .or => 6
  | .xor => 7
  | .fadd => 8
  | .fmin => 9
  | .fmax => 10

/-- The `LaneOp` with a given code, if the code is legal. -/
def LaneOp.ofCode : Nat → Option LaneOp
  | 0 => some .add
  | 1 => some .min
  | 2 => some .max
  | 3 => some .minu
  | 4 => some .maxu
  | 5 => some .and
  | 6 => some .or
  | 7 => some .xor
  | 8 => some .fadd
  | 9 => some .fmin
  | 10 => some .fmax
  | _ => none

/-- The code of a `VoteMode` field. -/
def VoteMode.code : VoteMode → Nat
  | .all => 0
  | .any => 1
  | .uni => 2
  | .bal => 3

/-- The `VoteMode` with a given code, if the code is legal. -/
def VoteMode.ofCode : Nat → Option VoteMode
  | 0 => some .all
  | 1 => some .any
  | 2 => some .uni
  | 3 => some .bal
  | _ => none

/-- The code of a `PopMode` field. -/
def PopMode.code : PopMode → Nat
  | .all => 0
  | .below => 1

/-- The `PopMode` with a given code, if the code is legal. -/
def PopMode.ofCode : Nat → Option PopMode
  | 0 => some .all
  | 1 => some .below
  | _ => none

/-- The code of a `JMode` field. -/
def JMode.code : JMode → Nat
  | .jj => 0
  | .jp => 1
  | .sj => 2
  | .js => 3

/-- The `JMode` with a given code, if the code is legal. -/
def JMode.ofCode : Nat → Option JMode
  | 0 => some .jj
  | 1 => some .jp
  | 2 => some .sj
  | 3 => some .js
  | _ => none

/-- A field whose code must be legal; otherwise the word is illegal with error `e`. -/
def need (o : Option α) (e : DecodeError) : Except DecodeError α :=
  match o with
  | some x => .ok x
  | none => .error e

/-- The word is an instruction only if the reserved fields `c` are as R5 demands. -/
def reservedIf (c : Bool) (r : Except DecodeError Instr) : Except DecodeError Instr :=
  if c then r else .error .reserved

/-- The fields of a `MOD` word (R52). -/
def modAt (w : Nat) : ModWord :=
  { sat := bits 2 w 24, clmp := flag w 23, na := flag w 22, aa := flag w 21, nb := flag w 20,
    ab := flag w 19, scl := bits 4 w 15, rm := bits 3 w 12, sa := bits 2 w 10, sb := bits 2 w 8 }

/-- Major 0x01: `ADD`, `SUB`, `MUL`, `MULHI`, `MULHU`, `MAD`, `MIN`, `MAX` (R48). -/
def decodeMajor01 (w : Nat) : Except DecodeError Instr :=
  match fld w 0 3 with
  | 0 => .ok (.add (bits 6 w 20) (bits 6 w 14) (bits 6 w 8) (guardAt w 4) (flag w 3))
  | 1 => .ok (.sub (bits 6 w 20) (bits 6 w 14) (bits 6 w 8) (guardAt w 4) (flag w 3))
  | 2 => .ok (.mul (bits 6 w 20) (bits 6 w 14) (bits 6 w 8) (guardAt w 4) (flag w 3))
  | 3 => .ok (.mulhi (bits 6 w 20) (bits 6 w 14) (bits 6 w 8) (guardAt w 4) (flag w 3))
  | 4 => .ok (.mulhu (bits 6 w 20) (bits 6 w 14) (bits 6 w 8) (guardAt w 4) (flag w 3))
  | 5 => .ok (.mad (bits 6 w 20) (bits 6 w 14) (bits 6 w 8) (guardAt w 4) (flag w 3))
  | 6 => .ok (.min (bits 6 w 20) (bits 6 w 14) (bits 6 w 8) (guardAt w 4) (flag w 3))
  | 7 => .ok (.max (bits 6 w 20) (bits 6 w 14) (bits 6 w 8) (guardAt w 4) (flag w 3))
  | _ => .error .function

/-- Major 0x02: `ADD_IMM`, `SUB_IMM`, `MUL_IMM`, `MULHI_IMM`, `MULHU_IMM`, `MAD_IMM`, `MIN_IMM`, `MAX_IMM` (R48). -/
def decodeMajor02 (w : Nat) : Except DecodeError Instr :=
  match fld w 0 3 with
  | 0 => .ok (.addImm (bits 6 w 20) (bits 6 w 14) (bits 6 w 8) (guardAt w 4) (flag w 3))
  | 1 => .ok (.subImm (bits 6 w 20) (bits 6 w 14) (bits 6 w 8) (guardAt w 4) (flag w 3))
  | 2 => .ok (.mulImm (bits 6 w 20) (bits 6 w 14) (bits 6 w 8) (guardAt w 4) (flag w 3))
  | 3 => .ok (.mulhiImm (bits 6 w 20) (bits 6 w 14) (bits 6 w 8) (guardAt w 4) (flag w 3))
  | 4 => .ok (.mulhuImm (bits 6 w 20) (bits 6 w 14) (bits 6 w 8) (guardAt w 4) (flag w 3))
  | 5 => .ok (.madImm (bits 6 w 20) (bits 6 w 14) (bits 6 w 8) (guardAt w 4) (flag w 3))
  | 6 => .ok (.minImm (bits 6 w 20) (bits 6 w 14) (bits 6 w 8) (guardAt w 4) (flag w 3))
  | 7 => .ok (.maxImm (bits 6 w 20) (bits 6 w 14) (bits 6 w 8) (guardAt w 4) (flag w 3))
  | _ => .error .function

/-- Major 0x03: `MINU`, `MAXU`, `AND`, `OR`, `XOR`, `ANDN`, `ROL` (R48). -/
def decodeMajor03 (w : Nat) : Except DecodeError Instr :=
  match fld w 0 3 with
  | 0 => .ok (.minu (bits 6 w 20) (bits 6 w 14) (bits 6 w 8) (guardAt w 4) (flag w 3))
  | 1 => .ok (.maxu (bits 6 w 20) (bits 6 w 14) (bits 6 w 8) (guardAt w 4) (flag w 3))
  | 2 => .ok (.and (bits 6 w 20) (bits 6 w 14) (bits 6 w 8) (guardAt w 4) (flag w 3))
  | 3 => .ok (.or (bits 6 w 20) (bits 6 w 14) (bits 6 w 8) (guardAt w 4) (flag w 3))
  | 4 => .ok (.xor (bits 6 w 20) (bits 6 w 14) (bits 6 w 8) (guardAt w 4) (flag w 3))
  | 5 => .ok (.andn (bits 6 w 20) (bits 6 w 14) (bits 6 w 8) (guardAt w 4) (flag w 3))
  | 6 => .ok (.rol (bits 6 w 20) (bits 6 w 14) (bits 6 w 8) (guardAt w 4) (flag w 3))
  | _ => .error .function

/-- Major 0x04: `MINU_IMM`, `MAXU_IMM`, `AND_IMM`, `OR_IMM`, `XOR_IMM`, `ANDN_IMM`, `ROL_IMM` (R48). -/
def decodeMajor04 (w : Nat) : Except DecodeError Instr :=
  match fld w 0 3 with
  | 0 => .ok (.minuImm (bits 6 w 20) (bits 6 w 14) (bits 6 w 8) (guardAt w 4) (flag w 3))
  | 1 => .ok (.maxuImm (bits 6 w 20) (bits 6 w 14) (bits 6 w 8) (guardAt w 4) (flag w 3))
  | 2 => .ok (.andImm (bits 6 w 20) (bits 6 w 14) (bits 6 w 8) (guardAt w 4) (flag w 3))
  | 3 => .ok (.orImm (bits 6 w 20) (bits 6 w 14) (bits 6 w 8) (guardAt w 4) (flag w 3))
  | 4 => .ok (.xorImm (bits 6 w 20) (bits 6 w 14) (bits 6 w 8) (guardAt w 4) (flag w 3))
  | 5 => .ok (.andnImm (bits 6 w 20) (bits 6 w 14) (bits 6 w 8) (guardAt w 4) (flag w 3))
  | 6 => .ok (.rolImm (bits 6 w 20) (bits 6 w 14) (bits 6 w 8) (guardAt w 4) (flag w 3))
  | _ => .error .function

/-- Major 0x05: `SHL`, `SHR`, `SAR`, `DIVS`, `DIVU`, `REMS`, `REMU`, `LEA` (R48). -/
def decodeMajor05 (w : Nat) : Except DecodeError Instr :=
  match fld w 0 3 with
  | 0 => .ok (.shl (bits 6 w 20) (bits 6 w 14) (bits 6 w 8) (guardAt w 4) (flag w 3))
  | 1 => .ok (.shr (bits 6 w 20) (bits 6 w 14) (bits 6 w 8) (guardAt w 4) (flag w 3))
  | 2 => .ok (.sar (bits 6 w 20) (bits 6 w 14) (bits 6 w 8) (guardAt w 4) (flag w 3))
  | 3 => .ok (.divs (bits 6 w 20) (bits 6 w 14) (bits 6 w 8) (guardAt w 4) (flag w 3))
  | 4 => .ok (.divu (bits 6 w 20) (bits 6 w 14) (bits 6 w 8) (guardAt w 4) (flag w 3))
  | 5 => .ok (.rems (bits 6 w 20) (bits 6 w 14) (bits 6 w 8) (guardAt w 4) (flag w 3))
  | 6 => .ok (.remu (bits 6 w 20) (bits 6 w 14) (bits 6 w 8) (guardAt w 4) (flag w 3))
  | 7 => .ok (.lea (bits 6 w 20) (bits 6 w 14) (bits 6 w 8) (guardAt w 4) (flag w 3))
  | _ => .error .function

/-- Major 0x06: `SHL_IMM`, `SHR_IMM`, `SAR_IMM`, `DIVS_IMM`, `DIVU_IMM`, `REMS_IMM`, `REMU_IMM`, `LEA_IMM` (R48). -/
def decodeMajor06 (w : Nat) : Except DecodeError Instr :=
  match fld w 0 3 with
  | 0 => .ok (.shlImm (bits 6 w 20) (bits 6 w 14) (bits 6 w 8) (guardAt w 4) (flag w 3))
  | 1 => .ok (.shrImm (bits 6 w 20) (bits 6 w 14) (bits 6 w 8) (guardAt w 4) (flag w 3))
  | 2 => .ok (.sarImm (bits 6 w 20) (bits 6 w 14) (bits 6 w 8) (guardAt w 4) (flag w 3))
  | 3 => .ok (.divsImm (bits 6 w 20) (bits 6 w 14) (bits 6 w 8) (guardAt w 4) (flag w 3))
  | 4 => .ok (.divuImm (bits 6 w 20) (bits 6 w 14) (bits 6 w 8) (guardAt w 4) (flag w 3))
  | 5 => .ok (.remsImm (bits 6 w 20) (bits 6 w 14) (bits 6 w 8) (guardAt w 4) (flag w 3))
  | 6 => .ok (.remuImm (bits 6 w 20) (bits 6 w 14) (bits 6 w 8) (guardAt w 4) (flag w 3))
  | 7 => .ok (.leaImm (bits 6 w 20) (bits 6 w 14) (bits 6 w 8) (guardAt w 4) (flag w 3))
  | _ => .error .function

/-- Major 0x07: `ADD64`, `SUB64`, `SHL64`, `SHR64` (R48). -/
def decodeMajor07 (w : Nat) : Except DecodeError Instr :=
  match fld w 0 3 with
  | 0 => .ok (.add64 (bits 6 w 20) (bits 6 w 14) (bits 6 w 8) (guardAt w 4) (flag w 3))
  | 1 => .ok (.sub64 (bits 6 w 20) (bits 6 w 14) (bits 6 w 8) (guardAt w 4) (flag w 3))
  | 2 => .ok (.shl64 (bits 6 w 20) (bits 6 w 14) (bits 6 w 8) (guardAt w 4) (flag w 3))
  | 3 => .ok (.shr64 (bits 6 w 20) (bits 6 w 14) (bits 6 w 8) (guardAt w 4) (flag w 3))
  | _ => .error .function

/-- Major 0x08: `ADD64_IMM`, `SUB64_IMM`, `SHL64_IMM`, `SHR64_IMM` (R48). -/
def decodeMajor08 (w : Nat) : Except DecodeError Instr :=
  match fld w 0 3 with
  | 0 => .ok (.add64Imm (bits 6 w 20) (bits 6 w 14) (bits 6 w 8) (guardAt w 4) (flag w 3))
  | 1 => .ok (.sub64Imm (bits 6 w 20) (bits 6 w 14) (bits 6 w 8) (guardAt w 4) (flag w 3))
  | 2 => .ok (.shl64Imm (bits 6 w 20) (bits 6 w 14) (bits 6 w 8) (guardAt w 4) (flag w 3))
  | 3 => .ok (.shr64Imm (bits 6 w 20) (bits 6 w 14) (bits 6 w 8) (guardAt w 4) (flag w 3))
  | _ => .error .function

/-- Major 0x09: `MOV`, `CLZ`, `POPC`, `BREV`, `BFX`, `BFXU`, `BFI` (R48). -/
def decodeMajor09 (w : Nat) : Except DecodeError Instr :=
  match fld w 0 3 with
  | 0 => reservedIf (decide (fld w 8 6 = 0)) (.ok (.mov (bits 6 w 20) (bits 6 w 14) (guardAt w 4) (flag w 3)))
  | 1 => reservedIf (decide (fld w 8 6 = 0)) (.ok (.clz (bits 6 w 20) (bits 6 w 14) (guardAt w 4) (flag w 3)))
  | 2 => reservedIf (decide (fld w 8 6 = 0)) (.ok (.popc (bits 6 w 20) (bits 6 w 14) (guardAt w 4) (flag w 3)))
  | 3 => reservedIf (decide (fld w 8 6 = 0)) (.ok (.brev (bits 6 w 20) (bits 6 w 14) (guardAt w 4) (flag w 3)))
  | 4 => .ok (.bfx (bits 6 w 20) (bits 6 w 14) (bits 6 w 8) (guardAt w 4) (flag w 3))
  | 5 => .ok (.bfxu (bits 6 w 20) (bits 6 w 14) (bits 6 w 8) (guardAt w 4) (flag w 3))
  | 6 => .ok (.bfi (bits 6 w 20) (bits 6 w 14) (bits 6 w 8) (guardAt w 4) (flag w 3))
  | _ => .error .function

/-- Major 0x0A: `MOVI`, `BFX_IMM`, `BFXU_IMM`, `BFI_IMM` (R48). -/
def decodeMajor0A (w : Nat) : Except DecodeError Instr :=
  match fld w 0 3 with
  | 0 => reservedIf (decide (fld w 14 6 = 0)) (.ok (.movi (bits 6 w 20) (bits 6 w 8) (guardAt w 4) (flag w 3)))
  | 4 => .ok (.bfxImm (bits 6 w 20) (bits 6 w 14) (bits 6 w 8) (guardAt w 4) (flag w 3))
  | 5 => .ok (.bfxuImm (bits 6 w 20) (bits 6 w 14) (bits 6 w 8) (guardAt w 4) (flag w 3))
  | 6 => .ok (.bfiImm (bits 6 w 20) (bits 6 w 14) (bits 6 w 8) (guardAt w 4) (flag w 3))
  | _ => .error .function

/-- Major 0x0B: `SEL` (R48). -/
def decodeMajor0B (w : Nat) : Except DecodeError Instr :=
  .ok (.sel (bits 6 w 20) (bits 6 w 14) (bits 6 w 8) (guardAt w 4) (flag w 3) (bits 3 w 0))

/-- Major 0x0C: `CMP`, `CMP_IMM` (R48). -/
def decodeMajor0C (w : Nat) : Except DecodeError Instr :=
  match fld w 20 2 with
  | 0 => (need (ICond.ofCode (fld w 22 4)) .function).bind fun cond => .ok (.cmp cond (bits 6 w 14) (bits 6 w 8) (guardAt w 4) (flag w 3) (bits 3 w 0))
  | 2 => (need (ICond.ofCode (fld w 22 4)) .function).bind fun cond => .ok (.cmpImm cond (bits 6 w 14) (bits 6 w 8) (guardAt w 4) (flag w 3) (bits 3 w 0))
  | _ => .error .function

/-- Major 0x0D: `FCMP`, `FCMP_IMM`, `DCMP` (R48). -/
def decodeMajor0D (w : Nat) : Except DecodeError Instr :=
  match fld w 20 2 with
  | 0 => (need (FCond.ofCode (fld w 22 4)) .function).bind fun cond => .ok (.fcmp cond (bits 6 w 14) (bits 6 w 8) (guardAt w 4) (flag w 3) (bits 3 w 0))
  | 1 => reservedIf (decide (fld w 3 1 = 0)) ((need (FCond.ofCode (fld w 22 4)) .function).bind fun cond => .ok (.dcmp cond (bits 6 w 14) (bits 6 w 8) (guardAt w 4) (bits 3 w 0)))
  | 2 => (need (FCond.ofCode (fld w 22 4)) .function).bind fun cond => .ok (.fcmpImm cond (bits 6 w 14) (bits 6 w 8) (guardAt w 4) (flag w 3) (bits 3 w 0))
  | _ => .error .function

/-- Major 0x0E: `PAND`, `POR`, `PXOR`, `PNOT` (R48). -/
def decodeMajor0E (w : Nat) : Except DecodeError Instr :=
  match fld w 0 3 with
  | 0 => reservedIf (decide (fld w 3 1 = 0 ∧ fld w 12 2 = 0 ∧ fld w 18 2 = 0 ∧ fld w 24 2 = 0)) (.ok (.pand (bits 3 w 21) (flag w 20) (bits 3 w 15) (flag w 14) (bits 3 w 9) (flag w 8) (guardAt w 4)))
  | 1 => reservedIf (decide (fld w 3 1 = 0 ∧ fld w 12 2 = 0 ∧ fld w 18 2 = 0 ∧ fld w 24 2 = 0)) (.ok (.por (bits 3 w 21) (flag w 20) (bits 3 w 15) (flag w 14) (bits 3 w 9) (flag w 8) (guardAt w 4)))
  | 2 => reservedIf (decide (fld w 3 1 = 0 ∧ fld w 12 2 = 0 ∧ fld w 18 2 = 0 ∧ fld w 24 2 = 0)) (.ok (.pxor (bits 3 w 21) (flag w 20) (bits 3 w 15) (flag w 14) (bits 3 w 9) (flag w 8) (guardAt w 4)))
  | 3 => reservedIf (decide (fld w 3 1 = 0 ∧ fld w 8 6 = 0 ∧ fld w 18 2 = 0 ∧ fld w 24 2 = 0)) (.ok (.pnot (bits 3 w 21) (flag w 20) (bits 3 w 15) (flag w 14) (guardAt w 4)))
  | _ => .error .function

/-- Major 0x0F: `SHFL`, `BCAST`, `RDLANE`, `WRLANE`, `REDL`, `SCANL` (R48). -/
def decodeMajor0F (w : Nat) : Except DecodeError Instr :=
  match fld w 0 3 with
  | 0 => reservedIf (decide (fld w 3 1 = 0)) (.ok (.shfl (bits 6 w 20) (bits 6 w 14) (bits 6 w 8) (guardAt w 4)))
  | 1 => reservedIf (decide (fld w 3 1 = 0)) (.ok (.bcast (bits 6 w 20) (bits 6 w 14) (bits 6 w 8) (guardAt w 4)))
  | 2 => reservedIf (decide (fld w 3 1 = 0)) (.ok (.rdlane (bits 6 w 20) (bits 6 w 14) (bits 6 w 8) (guardAt w 4)))
  | 3 => reservedIf (decide (fld w 3 1 = 0)) (.ok (.wrlane (bits 6 w 20) (bits 6 w 14) (bits 6 w 8) (guardAt w 4)))
  | 4 => reservedIf (decide (fld w 3 1 = 0 ∧ fld w 13 1 = 0)) ((need (LaneOp.ofCode (fld w 8 5)) .field).bind fun op => .ok (.redl (bits 6 w 20) (bits 6 w 14) op (guardAt w 4)))
  | 5 => reservedIf (decide (fld w 3 1 = 0)) ((need (LaneOp.ofCode (fld w 8 5)) .field).bind fun op => .ok (.scanl (bits 6 w 20) (bits 6 w 14) (flag w 13) op (guardAt w 4)))
  | _ => .error .function

/-- Major 0x10: `SHFL_IMM`, `BCAST_IMM`, `RDLANE_IMM`, `WRLANE_IMM` (R48). -/
def decodeMajor10 (w : Nat) : Except DecodeError Instr :=
  match fld w 0 3 with
  | 0 => reservedIf (decide (fld w 3 1 = 0)) (.ok (.shflImm (bits 6 w 20) (bits 6 w 14) (bits 6 w 8) (guardAt w 4)))
  | 1 => reservedIf (decide (fld w 3 1 = 0)) (.ok (.bcastImm (bits 6 w 20) (bits 6 w 14) (bits 6 w 8) (guardAt w 4)))
  | 2 => reservedIf (decide (fld w 3 1 = 0)) (.ok (.rdlaneImm (bits 6 w 20) (bits 6 w 14) (bits 6 w 8) (guardAt w 4)))
  | 3 => reservedIf (decide (fld w 3 1 = 0)) (.ok (.wrlaneImm (bits 6 w 20) (bits 6 w 14) (bits 6 w 8) (guardAt w 4)))
  | _ => .error .function

/-- Major 0x11: `VOTE`, `POPM`, `ELECT` (R48). -/
def decodeMajor11 (w : Nat) : Except DecodeError Instr :=
  match fld w 0 3 with
  | 0 => reservedIf (decide (fld w 3 1 = 0 ∧ fld w 17 3 = 0)) ((need (VoteMode.ofCode (fld w 8 6)) .field).bind fun mode => .ok (.vote (bits 6 w 20) (bits 3 w 14) mode (guardAt w 4)))
  | 1 => reservedIf (decide (fld w 3 1 = 0 ∧ fld w 17 3 = 0)) ((need (PopMode.ofCode (fld w 8 6)) .field).bind fun mode => .ok (.popm (bits 6 w 20) (bits 3 w 14) mode (guardAt w 4)))
  | 2 => reservedIf (decide (fld w 3 1 = 0 ∧ fld w 8 12 = 0 ∧ fld w 23 3 = 0)) (.ok (.elect (bits 3 w 20) (guardAt w 4)))
  | _ => .error .function

/-- Major 0x12: `FADD`, `FSUB`, `FMUL`, `FFMA`, `FMIN`, `FMAX`, `FSCALE` (R48). -/
def decodeMajor12 (w : Nat) : Except DecodeError Instr :=
  match fld w 0 3 with
  | 0 => .ok (.fadd (bits 6 w 20) (bits 6 w 14) (bits 6 w 8) (guardAt w 4) (flag w 3))
  | 1 => .ok (.fsub (bits 6 w 20) (bits 6 w 14) (bits 6 w 8) (guardAt w 4) (flag w 3))
  | 2 => .ok (.fmul (bits 6 w 20) (bits 6 w 14) (bits 6 w 8) (guardAt w 4) (flag w 3))
  | 3 => .ok (.ffma (bits 6 w 20) (bits 6 w 14) (bits 6 w 8) (guardAt w 4) (flag w 3))
  | 4 => .ok (.fmin (bits 6 w 20) (bits 6 w 14) (bits 6 w 8) (guardAt w 4) (flag w 3))
  | 5 => .ok (.fmax (bits 6 w 20) (bits 6 w 14) (bits 6 w 8) (guardAt w 4) (flag w 3))
  | 6 => .ok (.fscale (bits 6 w 20) (bits 6 w 14) (bits 6 w 8) (guardAt w 4) (flag w 3))
  | _ => .error .function

/-- Major 0x13: `FADD_IMM`, `FSUB_IMM`, `FMUL_IMM`, `FFMA_IMM`, `FMIN_IMM`, `FMAX_IMM`, `FSCALE_IMM` (R48). -/
def decodeMajor13 (w : Nat) : Except DecodeError Instr :=
  match fld w 0 3 with
  | 0 => .ok (.faddImm (bits 6 w 20) (bits 6 w 14) (bits 6 w 8) (guardAt w 4) (flag w 3))
  | 1 => .ok (.fsubImm (bits 6 w 20) (bits 6 w 14) (bits 6 w 8) (guardAt w 4) (flag w 3))
  | 2 => .ok (.fmulImm (bits 6 w 20) (bits 6 w 14) (bits 6 w 8) (guardAt w 4) (flag w 3))
  | 3 => .ok (.ffmaImm (bits 6 w 20) (bits 6 w 14) (bits 6 w 8) (guardAt w 4) (flag w 3))
  | 4 => .ok (.fminImm (bits 6 w 20) (bits 6 w 14) (bits 6 w 8) (guardAt w 4) (flag w 3))
  | 5 => .ok (.fmaxImm (bits 6 w 20) (bits 6 w 14) (bits 6 w 8) (guardAt w 4) (flag w 3))
  | 6 => .ok (.fscaleImm (bits 6 w 20) (bits 6 w 14) (bits 6 w 8) (guardAt w 4) (flag w 3))
  | _ => .error .function

/-- Major 0x14: `FRCPE`, `FRSQE`, `FRND`, `FCLASS` (R48). -/
def decodeMajor14 (w : Nat) : Except DecodeError Instr :=
  match fld w 0 3 with
  | 0 => reservedIf (decide (fld w 8 6 = 0)) (.ok (.frcpe (bits 6 w 20) (bits 6 w 14) (guardAt w 4) (flag w 3)))
  | 1 => reservedIf (decide (fld w 8 6 = 0)) (.ok (.frsqe (bits 6 w 20) (bits 6 w 14) (guardAt w 4) (flag w 3)))
  | 2 => reservedIf (decide (fld w 8 6 = 0)) (.ok (.frnd (bits 6 w 20) (bits 6 w 14) (guardAt w 4) (flag w 3)))
  | 3 => reservedIf (decide (fld w 8 6 = 0)) (.ok (.fclass (bits 6 w 20) (bits 6 w 14) (guardAt w 4) (flag w 3)))
  | _ => .error .function

/-- Major 0x15: `DADD`, `DSUB`, `DMUL`, `DFMA`, `DMIN`, `DMAX` (R48). -/
def decodeMajor15 (w : Nat) : Except DecodeError Instr :=
  match fld w 0 3 with
  | 0 => reservedIf (decide (fld w 3 1 = 0)) (.ok (.dadd (bits 6 w 20) (bits 6 w 14) (bits 6 w 8) (guardAt w 4)))
  | 1 => reservedIf (decide (fld w 3 1 = 0)) (.ok (.dsub (bits 6 w 20) (bits 6 w 14) (bits 6 w 8) (guardAt w 4)))
  | 2 => reservedIf (decide (fld w 3 1 = 0)) (.ok (.dmul (bits 6 w 20) (bits 6 w 14) (bits 6 w 8) (guardAt w 4)))
  | 3 => reservedIf (decide (fld w 3 1 = 0)) (.ok (.dfma (bits 6 w 20) (bits 6 w 14) (bits 6 w 8) (guardAt w 4)))
  | 4 => reservedIf (decide (fld w 3 1 = 0)) (.ok (.dmin (bits 6 w 20) (bits 6 w 14) (bits 6 w 8) (guardAt w 4)))
  | 5 => reservedIf (decide (fld w 3 1 = 0)) (.ok (.dmax (bits 6 w 20) (bits 6 w 14) (bits 6 w 8) (guardAt w 4)))
  | _ => .error .function

/-- Major 0x16: `HADD2_F16`, `HMUL2_F16`, `HFMA2_F16`, `HADD2_BF16`, `HMUL2_BF16`, `HFMA2_BF16` (R48). -/
def decodeMajor16 (w : Nat) : Except DecodeError Instr :=
  match fld w 0 3 with
  | 0 => reservedIf (decide (fld w 3 1 = 0)) (.ok (.hadd2F16 (bits 6 w 20) (bits 6 w 14) (bits 6 w 8) (guardAt w 4)))
  | 1 => reservedIf (decide (fld w 3 1 = 0)) (.ok (.hmul2F16 (bits 6 w 20) (bits 6 w 14) (bits 6 w 8) (guardAt w 4)))
  | 2 => reservedIf (decide (fld w 3 1 = 0)) (.ok (.hfma2F16 (bits 6 w 20) (bits 6 w 14) (bits 6 w 8) (guardAt w 4)))
  | 4 => reservedIf (decide (fld w 3 1 = 0)) (.ok (.hadd2Bf16 (bits 6 w 20) (bits 6 w 14) (bits 6 w 8) (guardAt w 4)))
  | 5 => reservedIf (decide (fld w 3 1 = 0)) (.ok (.hmul2Bf16 (bits 6 w 20) (bits 6 w 14) (bits 6 w 8) (guardAt w 4)))
  | 6 => reservedIf (decide (fld w 3 1 = 0)) (.ok (.hfma2Bf16 (bits 6 w 20) (bits 6 w 14) (bits 6 w 8) (guardAt w 4)))
  | _ => .error .function

/-- Major 0x17: `CVT` (R48). -/
def decodeMajor17 (w : Nat) : Except DecodeError Instr :=
  reservedIf (decide (fld w 12 2 = 0)) ((need (Ty.ofCode (fld w 8 4)) .field).bind fun src => (need (Ty.ofCode (fld w 0 4)) .field).bind fun ty => .ok (.cvt (bits 6 w 20) (bits 6 w 14) src (guardAt w 4) ty))

/-- Major 0x18: `CVTSR` (R48). -/
def decodeMajor18 (w : Nat) : Except DecodeError Instr :=
  (need (Ty.ofCode (fld w 0 4)) .field).bind fun ty => .ok (.cvtsr (bits 6 w 20) (bits 6 w 14) (bits 6 w 8) (guardAt w 4) ty)

/-- Major 0x19: `PACK8` (R48). -/
def decodeMajor19 (w : Nat) : Except DecodeError Instr :=
  (need (Ty.ofCode (fld w 0 4)) .field).bind fun ty => .ok (.pack8 (bits 6 w 20) (bits 6 w 14) (bits 6 w 8) (guardAt w 4) ty)

/-- Major 0x1A: `UNPK8` (R48). -/
def decodeMajor1A (w : Nat) : Except DecodeError Instr :=
  reservedIf (decide (fld w 8 6 = 0)) ((need (Ty.ofCode (fld w 0 4)) .field).bind fun ty => .ok (.unpk8 (bits 6 w 20) (bits 6 w 14) (guardAt w 4) ty))

/-- Major 0x1B: `PACK4` (R48). -/
def decodeMajor1B (w : Nat) : Except DecodeError Instr :=
  (need (Ty.ofCode (fld w 0 4)) .field).bind fun ty => .ok (.pack4 (bits 6 w 20) (bits 6 w 14) (bits 6 w 8) (guardAt w 4) ty)

/-- Major 0x1C: `UNPK4` (R48). -/
def decodeMajor1C (w : Nat) : Except DecodeError Instr :=
  reservedIf (decide (fld w 8 6 = 0)) ((need (Ty.ofCode (fld w 0 4)) .field).bind fun ty => .ok (.unpk4 (bits 6 w 20) (bits 6 w 14) (guardAt w 4) ty))

/-- Major 0x1D: `LDS` (R48). -/
def decodeMajor1D (w : Nat) : Except DecodeError Instr :=
  reservedIf (decide (fld w 24 2 = 0)) ((need (Space.ofCode (fld w 22 2)) .field).bind fun sp => (need (Ty.ofCode (fld w 0 4)) .field).bind fun ty => .ok (.lds sp (bits 6 w 16) (bits 6 w 10) (bits 6 w 4) ty))

/-- Major 0x1E: `STS` (R48). -/
def decodeMajor1E (w : Nat) : Except DecodeError Instr :=
  (need (Rule.ofCode (fld w 24 2)) .field).bind fun rule => (need (Space.ofCode (fld w 22 2)) .field).bind fun sp => (need (Ty.ofCode (fld w 0 4)) .field).bind fun ty => .ok (.sts rule sp (bits 6 w 16) (bits 6 w 10) (bits 6 w 4) ty)

/-- Major 0x1F: `WATCH`, `PRES`, `ABSA`, `RELA` (R48). -/
def decodeMajor1F (w : Nat) : Except DecodeError Instr :=
  match fld w 0 2 with
  | 0 => reservedIf (decide (fld w 20 3 = 0)) ((need (WCond.ofCode (fld w 23 3)) .field).bind fun cond => (need (Space.ofCode (fld w 2 2)) .field).bind fun sp => .ok (.watch cond (bits 6 w 14) (bits 6 w 8) (guardAt w 4) sp))
  | 1 => (need (Space.ofCode (fld w 2 2)) .field).bind fun sp => .ok (.pres (bits 6 w 20) (bits 6 w 14) (bits 6 w 8) (guardAt w 4) sp)
  | 2 => reservedIf (decide (fld w 2 2 = 0)) (.ok (.absa (bits 6 w 20) (bits 6 w 14) (bits 6 w 8) (guardAt w 4)))
  | 3 => reservedIf (decide (fld w 2 2 = 1)) (.ok (.rela (bits 6 w 20) (bits 6 w 14) (bits 6 w 8) (guardAt w 4)))
  | _ => .error .function

/-- Majors of `LD` (R40, R48). -/
def decodeMajor20 (w : Nat) : Except DecodeError Instr :=
  (need (Space.ofCode (fld w 26 2)) .field).bind fun sp => (need (Ty.ofCode (fld w 0 4)) .field).bind fun ty => .ok (.ld sp (bits 6 w 20) (bits 6 w 14) (bits 6 w 8) (guardAt w 4) ty)

/-- Majors of `ST_P` (R40, R48). -/
def decodeMajor24 (w : Nat) : Except DecodeError Instr :=
  (need (Rule.ofCode (fld w 26 2)) .field).bind fun rule => (need (Ty.ofCode (fld w 0 4)) .field).bind fun ty => .ok (.stP rule (bits 6 w 20) (bits 6 w 14) (bits 6 w 8) (guardAt w 4) ty)

/-- Majors of `ST_G` (R40, R48). -/
def decodeMajor28 (w : Nat) : Except DecodeError Instr :=
  (need (Rule.ofCode (fld w 26 2)) .field).bind fun rule => (need (Ty.ofCode (fld w 0 4)) .field).bind fun ty => .ok (.stG rule (bits 6 w 20) (bits 6 w 14) (bits 6 w 8) (guardAt w 4) ty)

/-- Majors of `ST_K` (R40, R48). -/
def decodeMajor2C (w : Nat) : Except DecodeError Instr :=
  (need (Rule.ofCode (fld w 26 2)) .field).bind fun rule => (need (Ty.ofCode (fld w 0 4)) .field).bind fun ty => .ok (.stK rule (bits 6 w 20) (bits 6 w 14) (bits 6 w 8) (guardAt w 4) ty)

/-- Major 0x30: `MLDW`, `MLDW_S`, `MMA`, `MMAS` (R48). -/
def decodeMajor30 (w : Nat) : Except DecodeError Instr :=
  match fld w 2 2 with
  | 0 => reservedIf (decide (fld w 0 1 = 0)) ((need (Space.ofCode (fld w 12 2)) .field).bind fun sp => (need (Ty.ofCode (fld w 8 4)) .field).bind fun ty => .ok (.mldw (bits 6 w 20) (bits 6 w 14) sp ty (guardAt w 4) (flag w 1)))
  | 1 => reservedIf (decide (fld w 0 1 = 0)) ((need (Space.ofCode (fld w 12 2)) .field).bind fun sp => (need (Ty.ofCode (fld w 8 4)) .field).bind fun ty => .ok (.mldwS (bits 6 w 20) (bits 6 w 14) sp ty (guardAt w 4) (flag w 1)))
  | 2 => (need (Space.ofCode (fld w 12 2)) .field).bind fun sp => (need (Ty.ofCode (fld w 8 4)) .field).bind fun ty => .ok (.mma (bits 6 w 20) (bits 6 w 14) sp ty (guardAt w 4) (flag w 1) (flag w 0))
  | 3 => (need (Space.ofCode (fld w 12 2)) .field).bind fun sp => (need (Ty.ofCode (fld w 8 4)) .field).bind fun ty => .ok (.mmas (bits 6 w 20) (bits 6 w 14) sp ty (guardAt w 4) (flag w 1) (flag w 0))
  | _ => .error .function

/-- Major 0x31: `MDRN`, `MZERO`, `TRD`, `TWR` (R48). -/
def decodeMajor31 (w : Nat) : Except DecodeError Instr :=
  match fld w 2 2 with
  | 0 => (need (Space.ofCode (fld w 12 2)) .field).bind fun sp => (need (Ty.ofCode (fld w 8 4)) .field).bind fun ty => .ok (.mdrn (bits 6 w 20) (bits 6 w 14) sp ty (guardAt w 4) (flag w 1) (flag w 0))
  | 1 => reservedIf (decide (fld w 0 1 = 0 ∧ fld w 8 12 = 0 ∧ fld w 21 5 = 0)) (.ok (.mzero (flag w 20) (guardAt w 4) (flag w 1)))
  | 2 => .ok (.trd (bits 6 w 20) (bits 6 w 14) (bits 6 w 8) (guardAt w 4) (flag w 1) (flag w 0))
  | 3 => .ok (.twr (bits 6 w 20) (bits 6 w 14) (bits 6 w 8) (guardAt w 4) (flag w 1) (flag w 0))
  | _ => .error .function

/-- Major 0x32: `COPY`, `CPYS`, `BRD`, `BRDI`, `HEND` (R48). -/
def decodeMajor32 (w : Nat) : Except DecodeError Instr :=
  match fld w 23 3 with
  | 0 => reservedIf (decide (fld w 0 2 = 0 ∧ fld w 20 3 = 0)) ((need (Space.ofCode (fld w 2 2)) .field).bind fun sp => .ok (.copy (bits 6 w 14) (bits 6 w 8) (guardAt w 4) sp))
  | 1 => reservedIf (decide (fld w 0 4 = 0 ∧ fld w 8 6 = 0 ∧ fld w 20 3 = 0)) (.ok (.cpys (bits 6 w 14) (guardAt w 4)))
  | 2 => reservedIf (decide (fld w 0 2 = 0 ∧ fld w 20 3 = 0)) ((need (Space.ofCode (fld w 2 2)) .field).bind fun sp => .ok (.brd (bits 6 w 14) (bits 6 w 8) (guardAt w 4) sp))
  | 3 => reservedIf (decide (fld w 0 2 = 0 ∧ fld w 20 3 = 0)) ((need (Space.ofCode (fld w 2 2)) .field).bind fun sp => .ok (.brdi (bits 6 w 14) (bits 6 w 8) (guardAt w 4) sp))
  | 4 => reservedIf (decide (fld w 0 4 = 0 ∧ fld w 8 15 = 0)) (.ok (.hend (guardAt w 4)))
  | _ => .error .function

/-- Major 0x33: `TQ`, `TQB` (R48). -/
def decodeMajor33 (w : Nat) : Except DecodeError Instr :=
  match fld w 8 1 with
  | 0 => (need (Ty.ofCode (fld w 0 4)) .field).bind fun ty => .ok (.tq (bits 6 w 20) (bits 6 w 14) (bits 4 w 10) (flag w 9) (guardAt w 4) ty)
  | 1 => (need (Ty.ofCode (fld w 0 4)) .field).bind fun ty => .ok (.tqb (bits 6 w 20) (bits 6 w 14) (bits 4 w 10) (flag w 9) (guardAt w 4) ty)
  | _ => .error .function

/-- Major 0x34: `BRA` (R48). -/
def decodeMajor34 (w : Nat) : Except DecodeError Instr :=
  .ok (.bra (guardAt w 22) (bits 22 w 0))

/-- Major 0x35: `JMP` (R48). -/
def decodeMajor35 (w : Nat) : Except DecodeError Instr :=
  .ok (.jmp (bits 26 w 0))

/-- Major 0x36: `CALL` (R48). -/
def decodeMajor36 (w : Nat) : Except DecodeError Instr :=
  .ok (.call (bits 26 w 0))

/-- Major 0x37: `SPLIT` (R48). -/
def decodeMajor37 (w : Nat) : Except DecodeError Instr :=
  .ok (.split (bits 3 w 23) (guardAt w 19) (bits 19 w 0))

/-- Major 0x38: `NOP`, `JMPR`, `RET`, `JOIN`, `JMOV`, `PACE`, `PACEN`, `REFORM`, `REFORM_NEXT`, `EXIT`, `TRAP`, `BKPT` (R48). -/
def decodeMajor38 (w : Nat) : Except DecodeError Instr :=
  match fld w 0 4 with
  | 0 => reservedIf (decide (fld w 8 18 = 0)) (.ok (.nop (guardAt w 4)))
  | 1 => reservedIf (decide (fld w 20 6 = 0)) (.ok (.jmpr (bits 6 w 14) (bits 6 w 8) (guardAt w 4)))
  | 2 => reservedIf (decide (fld w 8 6 = 0 ∧ fld w 20 6 = 0)) (.ok (.ret (bits 6 w 14) (guardAt w 4)))
  | 3 => reservedIf (decide (fld w 8 12 = 0 ∧ fld w 23 3 = 0)) (.ok (.join (bits 3 w 20) (guardAt w 4)))
  | 4 => (need (JMode.ofCode (fld w 8 6)) .field).bind fun mode => .ok (.jmov (bits 6 w 20) (bits 6 w 14) mode (guardAt w 4))
  | 5 => reservedIf (decide (fld w 8 18 = 0)) (.ok (.pace (guardAt w 4)))
  | 6 => reservedIf (decide (fld w 14 12 = 0)) (.ok (.pacen (bits 6 w 8) (guardAt w 4)))
  | 7 =>
    match fld w 8 6 with
    | 0 => reservedIf (decide (fld w 20 6 = 0)) (.ok (.reform (bits 6 w 14) (guardAt w 4)))
    | 1 => reservedIf (decide (fld w 14 12 = 0)) (.ok (.reformNext (guardAt w 4)))
    | _ => .error .field
  | 8 => reservedIf (decide (fld w 8 18 = 0)) (.ok (.exit (guardAt w 4)))
  | 9 => reservedIf (decide (fld w 14 12 = 0)) (.ok (.trap (bits 6 w 8) (guardAt w 4)))
  | 10 => reservedIf (decide (fld w 14 12 = 0)) (.ok (.bkpt (bits 6 w 8) (guardAt w 4)))
  | _ => .error .function

/-- Major 0x39: `ENQ`, `DEQ`, `DEPD_EDGE`, `DEPD_REL` (R48). -/
def decodeMajor39 (w : Nat) : Except DecodeError Instr :=
  match fld w 0 4 with
  | 0 => reservedIf (decide (fld w 10 4 = 0)) ((need (Space.ofCode (fld w 8 2)) .field).bind fun sp => .ok (.enq (bits 6 w 20) (bits 6 w 14) sp (guardAt w 4)))
  | 1 => reservedIf (decide (fld w 14 6 = 0)) (.ok (.deq (bits 6 w 20) (bits 6 w 8) (guardAt w 4)))
  | 2 =>
    match fld w 8 6 with
    | 0 => .ok (.depdEdge (bits 6 w 20) (bits 6 w 14) (guardAt w 4))
    | 1 => .ok (.depdRel (bits 6 w 20) (bits 6 w 14) (guardAt w 4))
    | _ => .error .field
  | _ => .error .function

/-- Major 0x3A: `SRD`, `SWR`, `RTE`, `ICINV` (R48). -/
def decodeMajor3A (w : Nat) : Except DecodeError Instr :=
  match fld w 0 4 with
  | 0 => reservedIf (decide (fld w 14 6 = 0)) (.ok (.srd (bits 6 w 20) (bits 6 w 8) (guardAt w 4)))
  | 1 => reservedIf (decide (fld w 14 6 = 0)) (.ok (.swr (bits 6 w 20) (bits 6 w 8) (guardAt w 4)))
  | 2 => reservedIf (decide (fld w 8 18 = 0)) (.ok (.rte (guardAt w 4)))
  | 3 => reservedIf (decide (fld w 8 18 = 0)) (.ok (.icinv (guardAt w 4)))
  | _ => .error .function

/-- Major 0x3C: `HINT` (R48). -/
def decodeMajor3C (w : Nat) : Except DecodeError Instr :=
  reservedIf (decide (fld w 0 22 = 0)) (.ok (.hint (bits 2 w 24) (flag w 23) (flag w 22)))

/-- Major 0x3D: `MOD` (R48). -/
def decodeMajor3D (w : Nat) : Except DecodeError Instr :=
  reservedIf (decide (fld w 0 8 = 0)) (.ok (.mod (modAt w)))

/-- Major 0x3E: `IMM` (R48). -/
def decodeMajor3E (w : Nat) : Except DecodeError Instr :=
  .ok (.imm (bits 26 w 0))

/-- The instruction a pattern of 32 bits spells before the field rules of R49 are applied: the major
opcode, the function code, the reserved fields and the coded fields. -/
def decodeFields (w : Nat) : Except DecodeError Instr :=
  match fld w 26 6 with
  | 0x01 => decodeMajor01 w
  | 0x02 => decodeMajor02 w
  | 0x03 => decodeMajor03 w
  | 0x04 => decodeMajor04 w
  | 0x05 => decodeMajor05 w
  | 0x06 => decodeMajor06 w
  | 0x07 => decodeMajor07 w
  | 0x08 => decodeMajor08 w
  | 0x09 => decodeMajor09 w
  | 0x0A => decodeMajor0A w
  | 0x0B => decodeMajor0B w
  | 0x0C => decodeMajor0C w
  | 0x0D => decodeMajor0D w
  | 0x0E => decodeMajor0E w
  | 0x0F => decodeMajor0F w
  | 0x10 => decodeMajor10 w
  | 0x11 => decodeMajor11 w
  | 0x12 => decodeMajor12 w
  | 0x13 => decodeMajor13 w
  | 0x14 => decodeMajor14 w
  | 0x15 => decodeMajor15 w
  | 0x16 => decodeMajor16 w
  | 0x17 => decodeMajor17 w
  | 0x18 => decodeMajor18 w
  | 0x19 => decodeMajor19 w
  | 0x1A => decodeMajor1A w
  | 0x1B => decodeMajor1B w
  | 0x1C => decodeMajor1C w
  | 0x1D => decodeMajor1D w
  | 0x1E => decodeMajor1E w
  | 0x1F => decodeMajor1F w
  | 0x20 => decodeMajor20 w
  | 0x21 => decodeMajor20 w
  | 0x22 => decodeMajor20 w
  | 0x24 => decodeMajor24 w
  | 0x25 => decodeMajor24 w
  | 0x26 => decodeMajor24 w
  | 0x27 => decodeMajor24 w
  | 0x28 => decodeMajor28 w
  | 0x29 => decodeMajor28 w
  | 0x2A => decodeMajor28 w
  | 0x2B => decodeMajor28 w
  | 0x2C => decodeMajor2C w
  | 0x2D => decodeMajor2C w
  | 0x2E => decodeMajor2C w
  | 0x2F => decodeMajor2C w
  | 0x30 => decodeMajor30 w
  | 0x31 => decodeMajor31 w
  | 0x32 => decodeMajor32 w
  | 0x33 => decodeMajor33 w
  | 0x34 => decodeMajor34 w
  | 0x35 => decodeMajor35 w
  | 0x36 => decodeMajor36 w
  | 0x37 => decodeMajor37 w
  | 0x38 => decodeMajor38 w
  | 0x39 => decodeMajor39 w
  | 0x3A => decodeMajor3A w
  | 0x3C => decodeMajor3C w
  | 0x3D => decodeMajor3D w
  | 0x3E => decodeMajor3E w
  | _ => .error .major

/-- The decoder of a word given as a number (R58 without the prefix state). -/
def decodeNat (w : Nat) : Except DecodeError Instr :=
  match decodeFields w with
  | .ok i => if i.wf then .ok i else .error .field
  | .error e => .error e

/-- The decoder: every 32-bit word is an instruction or is rejected by name (R56). -/
def decode (w : Word) : Except DecodeError Instr := decodeNat w.toNat

/-- Four bytes as a word, the first at the lowest address (R3, R31). -/
def wordOfBytes (b0 b1 b2 b3 : Byte) : Word := b3 ++ b2 ++ b1 ++ b0

/-- Decode the first instruction word of a byte string and give the bytes after it. -/
def decodeBytes : List Byte → Option (Instr × List Byte)
  | b0 :: b1 :: b2 :: b3 :: rest =>
    match decode (wordOfBytes b0 b1 b2 b3) with
    | .ok i => some (i, rest)
    | .error _ => none
  | _ => none

/-- Byte `k` of a number, the lowest first. -/
def byteAt (w k : Nat) : Byte := BitVec.ofNat 8 (w / 2 ^ (8 * k))

/-- The instruction the decoder reads from the bytes of a table word of `nbits` bits. -/
def decodeTableWord (nbits w : Nat) : Option Instr :=
  let w := w % 2 ^ (min nbits 32)
  (decodeBytes [byteAt w 0, byteAt w 1, byteAt w 2, byteAt w 3]).map (·.1)

/-- A word from its fixed bits and its fields, each given with its lowest bit. -/
def pack (fixed : Nat) (fields : List (Nat × Nat)) : Nat :=
  fields.foldl (fun w f => w + f.1 * 2 ^ f.2) fixed

/-- The value of a `MOD` word's fields (R52). -/
def ModWord.toNat (m : ModWord) : Nat :=
  pack 0 [(m.sat.toNat, 24), (m.clmp.toNat, 23), (m.na.toNat, 22), (m.aa.toNat, 21), (m.nb.toNat, 20),
    (m.ab.toNat, 19), (m.scl.toNat, 15), (m.rm.toNat, 12), (m.sa.toNat, 10), (m.sb.toNat, 8)]

/-- The word of an instruction as a number; an event has none and answers 0, an illegal word. -/
def encodeNat : Instr → Nat
  | .hint br ra rb => pack 0xF0000000 [(br.toNat, 24), (ra.toNat, 23), (rb.toNat, 22)]
  | .mod m => pack 0xF4000000 [(m.toNat, 0)]
  | .imm hi => pack 0xF8000000 [(hi.toNat, 0)]
  | .add d a b gd sc => pack 0x04000000 [(d.toNat, 20), (a.toNat, 14), (b.toNat, 8), (gd.toNat, 4), (sc.toNat, 3)]
  | .sub d a b gd sc => pack 0x04000001 [(d.toNat, 20), (a.toNat, 14), (b.toNat, 8), (gd.toNat, 4), (sc.toNat, 3)]
  | .mul d a b gd sc => pack 0x04000002 [(d.toNat, 20), (a.toNat, 14), (b.toNat, 8), (gd.toNat, 4), (sc.toNat, 3)]
  | .mulhi d a b gd sc => pack 0x04000003 [(d.toNat, 20), (a.toNat, 14), (b.toNat, 8), (gd.toNat, 4), (sc.toNat, 3)]
  | .mulhu d a b gd sc => pack 0x04000004 [(d.toNat, 20), (a.toNat, 14), (b.toNat, 8), (gd.toNat, 4), (sc.toNat, 3)]
  | .mad d a b gd sc => pack 0x04000005 [(d.toNat, 20), (a.toNat, 14), (b.toNat, 8), (gd.toNat, 4), (sc.toNat, 3)]
  | .min d a b gd sc => pack 0x04000006 [(d.toNat, 20), (a.toNat, 14), (b.toNat, 8), (gd.toNat, 4), (sc.toNat, 3)]
  | .max d a b gd sc => pack 0x04000007 [(d.toNat, 20), (a.toNat, 14), (b.toNat, 8), (gd.toNat, 4), (sc.toNat, 3)]
  | .addImm d a imm gd sc => pack 0x08000000 [(d.toNat, 20), (a.toNat, 14), (imm.toNat, 8), (gd.toNat, 4), (sc.toNat, 3)]
  | .subImm d a imm gd sc => pack 0x08000001 [(d.toNat, 20), (a.toNat, 14), (imm.toNat, 8), (gd.toNat, 4), (sc.toNat, 3)]
  | .mulImm d a imm gd sc => pack 0x08000002 [(d.toNat, 20), (a.toNat, 14), (imm.toNat, 8), (gd.toNat, 4), (sc.toNat, 3)]
  | .mulhiImm d a imm gd sc => pack 0x08000003 [(d.toNat, 20), (a.toNat, 14), (imm.toNat, 8), (gd.toNat, 4), (sc.toNat, 3)]
  | .mulhuImm d a imm gd sc => pack 0x08000004 [(d.toNat, 20), (a.toNat, 14), (imm.toNat, 8), (gd.toNat, 4), (sc.toNat, 3)]
  | .madImm d a imm gd sc => pack 0x08000005 [(d.toNat, 20), (a.toNat, 14), (imm.toNat, 8), (gd.toNat, 4), (sc.toNat, 3)]
  | .minImm d a imm gd sc => pack 0x08000006 [(d.toNat, 20), (a.toNat, 14), (imm.toNat, 8), (gd.toNat, 4), (sc.toNat, 3)]
  | .maxImm d a imm gd sc => pack 0x08000007 [(d.toNat, 20), (a.toNat, 14), (imm.toNat, 8), (gd.toNat, 4), (sc.toNat, 3)]
  | .minu d a b gd sc => pack 0x0C000000 [(d.toNat, 20), (a.toNat, 14), (b.toNat, 8), (gd.toNat, 4), (sc.toNat, 3)]
  | .maxu d a b gd sc => pack 0x0C000001 [(d.toNat, 20), (a.toNat, 14), (b.toNat, 8), (gd.toNat, 4), (sc.toNat, 3)]
  | .and d a b gd sc => pack 0x0C000002 [(d.toNat, 20), (a.toNat, 14), (b.toNat, 8), (gd.toNat, 4), (sc.toNat, 3)]
  | .or d a b gd sc => pack 0x0C000003 [(d.toNat, 20), (a.toNat, 14), (b.toNat, 8), (gd.toNat, 4), (sc.toNat, 3)]
  | .xor d a b gd sc => pack 0x0C000004 [(d.toNat, 20), (a.toNat, 14), (b.toNat, 8), (gd.toNat, 4), (sc.toNat, 3)]
  | .andn d a b gd sc => pack 0x0C000005 [(d.toNat, 20), (a.toNat, 14), (b.toNat, 8), (gd.toNat, 4), (sc.toNat, 3)]
  | .rol d a b gd sc => pack 0x0C000006 [(d.toNat, 20), (a.toNat, 14), (b.toNat, 8), (gd.toNat, 4), (sc.toNat, 3)]
  | .minuImm d a imm gd sc => pack 0x10000000 [(d.toNat, 20), (a.toNat, 14), (imm.toNat, 8), (gd.toNat, 4), (sc.toNat, 3)]
  | .maxuImm d a imm gd sc => pack 0x10000001 [(d.toNat, 20), (a.toNat, 14), (imm.toNat, 8), (gd.toNat, 4), (sc.toNat, 3)]
  | .andImm d a imm gd sc => pack 0x10000002 [(d.toNat, 20), (a.toNat, 14), (imm.toNat, 8), (gd.toNat, 4), (sc.toNat, 3)]
  | .orImm d a imm gd sc => pack 0x10000003 [(d.toNat, 20), (a.toNat, 14), (imm.toNat, 8), (gd.toNat, 4), (sc.toNat, 3)]
  | .xorImm d a imm gd sc => pack 0x10000004 [(d.toNat, 20), (a.toNat, 14), (imm.toNat, 8), (gd.toNat, 4), (sc.toNat, 3)]
  | .andnImm d a imm gd sc => pack 0x10000005 [(d.toNat, 20), (a.toNat, 14), (imm.toNat, 8), (gd.toNat, 4), (sc.toNat, 3)]
  | .rolImm d a imm gd sc => pack 0x10000006 [(d.toNat, 20), (a.toNat, 14), (imm.toNat, 8), (gd.toNat, 4), (sc.toNat, 3)]
  | .shl d a b gd sc => pack 0x14000000 [(d.toNat, 20), (a.toNat, 14), (b.toNat, 8), (gd.toNat, 4), (sc.toNat, 3)]
  | .shr d a b gd sc => pack 0x14000001 [(d.toNat, 20), (a.toNat, 14), (b.toNat, 8), (gd.toNat, 4), (sc.toNat, 3)]
  | .sar d a b gd sc => pack 0x14000002 [(d.toNat, 20), (a.toNat, 14), (b.toNat, 8), (gd.toNat, 4), (sc.toNat, 3)]
  | .divs d a b gd sc => pack 0x14000003 [(d.toNat, 20), (a.toNat, 14), (b.toNat, 8), (gd.toNat, 4), (sc.toNat, 3)]
  | .divu d a b gd sc => pack 0x14000004 [(d.toNat, 20), (a.toNat, 14), (b.toNat, 8), (gd.toNat, 4), (sc.toNat, 3)]
  | .rems d a b gd sc => pack 0x14000005 [(d.toNat, 20), (a.toNat, 14), (b.toNat, 8), (gd.toNat, 4), (sc.toNat, 3)]
  | .remu d a b gd sc => pack 0x14000006 [(d.toNat, 20), (a.toNat, 14), (b.toNat, 8), (gd.toNat, 4), (sc.toNat, 3)]
  | .lea d a b gd sc => pack 0x14000007 [(d.toNat, 20), (a.toNat, 14), (b.toNat, 8), (gd.toNat, 4), (sc.toNat, 3)]
  | .shlImm d a imm gd sc => pack 0x18000000 [(d.toNat, 20), (a.toNat, 14), (imm.toNat, 8), (gd.toNat, 4), (sc.toNat, 3)]
  | .shrImm d a imm gd sc => pack 0x18000001 [(d.toNat, 20), (a.toNat, 14), (imm.toNat, 8), (gd.toNat, 4), (sc.toNat, 3)]
  | .sarImm d a imm gd sc => pack 0x18000002 [(d.toNat, 20), (a.toNat, 14), (imm.toNat, 8), (gd.toNat, 4), (sc.toNat, 3)]
  | .divsImm d a imm gd sc => pack 0x18000003 [(d.toNat, 20), (a.toNat, 14), (imm.toNat, 8), (gd.toNat, 4), (sc.toNat, 3)]
  | .divuImm d a imm gd sc => pack 0x18000004 [(d.toNat, 20), (a.toNat, 14), (imm.toNat, 8), (gd.toNat, 4), (sc.toNat, 3)]
  | .remsImm d a imm gd sc => pack 0x18000005 [(d.toNat, 20), (a.toNat, 14), (imm.toNat, 8), (gd.toNat, 4), (sc.toNat, 3)]
  | .remuImm d a imm gd sc => pack 0x18000006 [(d.toNat, 20), (a.toNat, 14), (imm.toNat, 8), (gd.toNat, 4), (sc.toNat, 3)]
  | .leaImm d a imm gd sc => pack 0x18000007 [(d.toNat, 20), (a.toNat, 14), (imm.toNat, 8), (gd.toNat, 4), (sc.toNat, 3)]
  | .add64 d a b gd sc => pack 0x1C000000 [(d.toNat, 20), (a.toNat, 14), (b.toNat, 8), (gd.toNat, 4), (sc.toNat, 3)]
  | .sub64 d a b gd sc => pack 0x1C000001 [(d.toNat, 20), (a.toNat, 14), (b.toNat, 8), (gd.toNat, 4), (sc.toNat, 3)]
  | .shl64 d a b gd sc => pack 0x1C000002 [(d.toNat, 20), (a.toNat, 14), (b.toNat, 8), (gd.toNat, 4), (sc.toNat, 3)]
  | .shr64 d a b gd sc => pack 0x1C000003 [(d.toNat, 20), (a.toNat, 14), (b.toNat, 8), (gd.toNat, 4), (sc.toNat, 3)]
  | .add64Imm d a imm gd sc => pack 0x20000000 [(d.toNat, 20), (a.toNat, 14), (imm.toNat, 8), (gd.toNat, 4), (sc.toNat, 3)]
  | .sub64Imm d a imm gd sc => pack 0x20000001 [(d.toNat, 20), (a.toNat, 14), (imm.toNat, 8), (gd.toNat, 4), (sc.toNat, 3)]
  | .shl64Imm d a imm gd sc => pack 0x20000002 [(d.toNat, 20), (a.toNat, 14), (imm.toNat, 8), (gd.toNat, 4), (sc.toNat, 3)]
  | .shr64Imm d a imm gd sc => pack 0x20000003 [(d.toNat, 20), (a.toNat, 14), (imm.toNat, 8), (gd.toNat, 4), (sc.toNat, 3)]
  | .mov d a gd sc => pack 0x24000000 [(d.toNat, 20), (a.toNat, 14), (gd.toNat, 4), (sc.toNat, 3)]
  | .clz d a gd sc => pack 0x24000001 [(d.toNat, 20), (a.toNat, 14), (gd.toNat, 4), (sc.toNat, 3)]
  | .popc d a gd sc => pack 0x24000002 [(d.toNat, 20), (a.toNat, 14), (gd.toNat, 4), (sc.toNat, 3)]
  | .brev d a gd sc => pack 0x24000003 [(d.toNat, 20), (a.toNat, 14), (gd.toNat, 4), (sc.toNat, 3)]
  | .bfx d a b gd sc => pack 0x24000004 [(d.toNat, 20), (a.toNat, 14), (b.toNat, 8), (gd.toNat, 4), (sc.toNat, 3)]
  | .bfxu d a b gd sc => pack 0x24000005 [(d.toNat, 20), (a.toNat, 14), (b.toNat, 8), (gd.toNat, 4), (sc.toNat, 3)]
  | .bfi d a b gd sc => pack 0x24000006 [(d.toNat, 20), (a.toNat, 14), (b.toNat, 8), (gd.toNat, 4), (sc.toNat, 3)]
  | .movi d imm gd sc => pack 0x28000000 [(d.toNat, 20), (imm.toNat, 8), (gd.toNat, 4), (sc.toNat, 3)]
  | .bfxImm d a imm gd sc => pack 0x28000004 [(d.toNat, 20), (a.toNat, 14), (imm.toNat, 8), (gd.toNat, 4), (sc.toNat, 3)]
  | .bfxuImm d a imm gd sc => pack 0x28000005 [(d.toNat, 20), (a.toNat, 14), (imm.toNat, 8), (gd.toNat, 4), (sc.toNat, 3)]
  | .bfiImm d a imm gd sc => pack 0x28000006 [(d.toNat, 20), (a.toNat, 14), (imm.toNat, 8), (gd.toNat, 4), (sc.toNat, 3)]
  | .sel d a b gd sc k => pack 0x2C000000 [(d.toNat, 20), (a.toNat, 14), (b.toNat, 8), (gd.toNat, 4), (sc.toNat, 3), (k.toNat, 0)]
  | .cmp cond a b gd sc pd => pack 0x30000000 [(cond.code, 22), (a.toNat, 14), (b.toNat, 8), (gd.toNat, 4), (sc.toNat, 3), (pd.toNat, 0)]
  | .cmpImm cond a imm gd sc pd => pack 0x30200000 [(cond.code, 22), (a.toNat, 14), (imm.toNat, 8), (gd.toNat, 4), (sc.toNat, 3), (pd.toNat, 0)]
  | .fcmp cond a b gd sc pd => pack 0x34000000 [(cond.code, 22), (a.toNat, 14), (b.toNat, 8), (gd.toNat, 4), (sc.toNat, 3), (pd.toNat, 0)]
  | .fcmpImm cond a imm gd sc pd => pack 0x34200000 [(cond.code, 22), (a.toNat, 14), (imm.toNat, 8), (gd.toNat, 4), (sc.toNat, 3), (pd.toNat, 0)]
  | .dcmp cond a b gd pd => pack 0x34100000 [(cond.code, 22), (a.toNat, 14), (b.toNat, 8), (gd.toNat, 4), (pd.toNat, 0)]
  | .pand pd id pa ia pb ib gd => pack 0x38000000 [(pd.toNat, 21), (id.toNat, 20), (pa.toNat, 15), (ia.toNat, 14), (pb.toNat, 9), (ib.toNat, 8), (gd.toNat, 4)]
  | .por pd id pa ia pb ib gd => pack 0x38000001 [(pd.toNat, 21), (id.toNat, 20), (pa.toNat, 15), (ia.toNat, 14), (pb.toNat, 9), (ib.toNat, 8), (gd.toNat, 4)]
  | .pxor pd id pa ia pb ib gd => pack 0x38000002 [(pd.toNat, 21), (id.toNat, 20), (pa.toNat, 15), (ia.toNat, 14), (pb.toNat, 9), (ib.toNat, 8), (gd.toNat, 4)]
  | .pnot pd id pa ia gd => pack 0x38000003 [(pd.toNat, 21), (id.toNat, 20), (pa.toNat, 15), (ia.toNat, 14), (gd.toNat, 4)]
  | .shfl d a b gd => pack 0x3C000000 [(d.toNat, 20), (a.toNat, 14), (b.toNat, 8), (gd.toNat, 4)]
  | .bcast d a b gd => pack 0x3C000001 [(d.toNat, 20), (a.toNat, 14), (b.toNat, 8), (gd.toNat, 4)]
  | .rdlane d a b gd => pack 0x3C000002 [(d.toNat, 20), (a.toNat, 14), (b.toNat, 8), (gd.toNat, 4)]
  | .wrlane d a b gd => pack 0x3C000003 [(d.toNat, 20), (a.toNat, 14), (b.toNat, 8), (gd.toNat, 4)]
  | .redl d a op gd => pack 0x3C000004 [(d.toNat, 20), (a.toNat, 14), (op.code, 8), (gd.toNat, 4)]
  | .scanl d a ex op gd => pack 0x3C000005 [(d.toNat, 20), (a.toNat, 14), (ex.toNat, 13), (op.code, 8), (gd.toNat, 4)]
  | .shflImm d a imm gd => pack 0x40000000 [(d.toNat, 20), (a.toNat, 14), (imm.toNat, 8), (gd.toNat, 4)]
  | .bcastImm d a imm gd => pack 0x40000001 [(d.toNat, 20), (a.toNat, 14), (imm.toNat, 8), (gd.toNat, 4)]
  | .rdlaneImm d a imm gd => pack 0x40000002 [(d.toNat, 20), (a.toNat, 14), (imm.toNat, 8), (gd.toNat, 4)]
  | .wrlaneImm d a imm gd => pack 0x40000003 [(d.toNat, 20), (a.toNat, 14), (imm.toNat, 8), (gd.toNat, 4)]
  | .vote d pa mode gd => pack 0x44000000 [(d.toNat, 20), (pa.toNat, 14), (mode.code, 8), (gd.toNat, 4)]
  | .popm d pa mode gd => pack 0x44000001 [(d.toNat, 20), (pa.toNat, 14), (mode.code, 8), (gd.toNat, 4)]
  | .elect pd gd => pack 0x44000002 [(pd.toNat, 20), (gd.toNat, 4)]
  | .fadd d a b gd sc => pack 0x48000000 [(d.toNat, 20), (a.toNat, 14), (b.toNat, 8), (gd.toNat, 4), (sc.toNat, 3)]
  | .fsub d a b gd sc => pack 0x48000001 [(d.toNat, 20), (a.toNat, 14), (b.toNat, 8), (gd.toNat, 4), (sc.toNat, 3)]
  | .fmul d a b gd sc => pack 0x48000002 [(d.toNat, 20), (a.toNat, 14), (b.toNat, 8), (gd.toNat, 4), (sc.toNat, 3)]
  | .ffma d a b gd sc => pack 0x48000003 [(d.toNat, 20), (a.toNat, 14), (b.toNat, 8), (gd.toNat, 4), (sc.toNat, 3)]
  | .fmin d a b gd sc => pack 0x48000004 [(d.toNat, 20), (a.toNat, 14), (b.toNat, 8), (gd.toNat, 4), (sc.toNat, 3)]
  | .fmax d a b gd sc => pack 0x48000005 [(d.toNat, 20), (a.toNat, 14), (b.toNat, 8), (gd.toNat, 4), (sc.toNat, 3)]
  | .fscale d a b gd sc => pack 0x48000006 [(d.toNat, 20), (a.toNat, 14), (b.toNat, 8), (gd.toNat, 4), (sc.toNat, 3)]
  | .faddImm d a imm gd sc => pack 0x4C000000 [(d.toNat, 20), (a.toNat, 14), (imm.toNat, 8), (gd.toNat, 4), (sc.toNat, 3)]
  | .fsubImm d a imm gd sc => pack 0x4C000001 [(d.toNat, 20), (a.toNat, 14), (imm.toNat, 8), (gd.toNat, 4), (sc.toNat, 3)]
  | .fmulImm d a imm gd sc => pack 0x4C000002 [(d.toNat, 20), (a.toNat, 14), (imm.toNat, 8), (gd.toNat, 4), (sc.toNat, 3)]
  | .ffmaImm d a imm gd sc => pack 0x4C000003 [(d.toNat, 20), (a.toNat, 14), (imm.toNat, 8), (gd.toNat, 4), (sc.toNat, 3)]
  | .fminImm d a imm gd sc => pack 0x4C000004 [(d.toNat, 20), (a.toNat, 14), (imm.toNat, 8), (gd.toNat, 4), (sc.toNat, 3)]
  | .fmaxImm d a imm gd sc => pack 0x4C000005 [(d.toNat, 20), (a.toNat, 14), (imm.toNat, 8), (gd.toNat, 4), (sc.toNat, 3)]
  | .fscaleImm d a imm gd sc => pack 0x4C000006 [(d.toNat, 20), (a.toNat, 14), (imm.toNat, 8), (gd.toNat, 4), (sc.toNat, 3)]
  | .frcpe d a gd sc => pack 0x50000000 [(d.toNat, 20), (a.toNat, 14), (gd.toNat, 4), (sc.toNat, 3)]
  | .frsqe d a gd sc => pack 0x50000001 [(d.toNat, 20), (a.toNat, 14), (gd.toNat, 4), (sc.toNat, 3)]
  | .frnd d a gd sc => pack 0x50000002 [(d.toNat, 20), (a.toNat, 14), (gd.toNat, 4), (sc.toNat, 3)]
  | .fclass d a gd sc => pack 0x50000003 [(d.toNat, 20), (a.toNat, 14), (gd.toNat, 4), (sc.toNat, 3)]
  | .dadd d a b gd => pack 0x54000000 [(d.toNat, 20), (a.toNat, 14), (b.toNat, 8), (gd.toNat, 4)]
  | .dsub d a b gd => pack 0x54000001 [(d.toNat, 20), (a.toNat, 14), (b.toNat, 8), (gd.toNat, 4)]
  | .dmul d a b gd => pack 0x54000002 [(d.toNat, 20), (a.toNat, 14), (b.toNat, 8), (gd.toNat, 4)]
  | .dfma d a b gd => pack 0x54000003 [(d.toNat, 20), (a.toNat, 14), (b.toNat, 8), (gd.toNat, 4)]
  | .dmin d a b gd => pack 0x54000004 [(d.toNat, 20), (a.toNat, 14), (b.toNat, 8), (gd.toNat, 4)]
  | .dmax d a b gd => pack 0x54000005 [(d.toNat, 20), (a.toNat, 14), (b.toNat, 8), (gd.toNat, 4)]
  | .hadd2F16 d a b gd => pack 0x58000000 [(d.toNat, 20), (a.toNat, 14), (b.toNat, 8), (gd.toNat, 4)]
  | .hmul2F16 d a b gd => pack 0x58000001 [(d.toNat, 20), (a.toNat, 14), (b.toNat, 8), (gd.toNat, 4)]
  | .hfma2F16 d a b gd => pack 0x58000002 [(d.toNat, 20), (a.toNat, 14), (b.toNat, 8), (gd.toNat, 4)]
  | .hadd2Bf16 d a b gd => pack 0x58000004 [(d.toNat, 20), (a.toNat, 14), (b.toNat, 8), (gd.toNat, 4)]
  | .hmul2Bf16 d a b gd => pack 0x58000005 [(d.toNat, 20), (a.toNat, 14), (b.toNat, 8), (gd.toNat, 4)]
  | .hfma2Bf16 d a b gd => pack 0x58000006 [(d.toNat, 20), (a.toNat, 14), (b.toNat, 8), (gd.toNat, 4)]
  | .cvt d a src gd ty => pack 0x5C000000 [(d.toNat, 20), (a.toNat, 14), (src.code, 8), (gd.toNat, 4), (ty.code, 0)]
  | .cvtsr d a b gd ty => pack 0x60000000 [(d.toNat, 20), (a.toNat, 14), (b.toNat, 8), (gd.toNat, 4), (ty.code, 0)]
  | .pack8 d a b gd ty => pack 0x64000000 [(d.toNat, 20), (a.toNat, 14), (b.toNat, 8), (gd.toNat, 4), (ty.code, 0)]
  | .unpk8 d a gd ty => pack 0x68000000 [(d.toNat, 20), (a.toNat, 14), (gd.toNat, 4), (ty.code, 0)]
  | .pack4 d a b gd ty => pack 0x6C000000 [(d.toNat, 20), (a.toNat, 14), (b.toNat, 8), (gd.toNat, 4), (ty.code, 0)]
  | .unpk4 d a gd ty => pack 0x70000000 [(d.toNat, 20), (a.toNat, 14), (gd.toNat, 4), (ty.code, 0)]
  | .lds sp d a imm ty => pack 0x74000000 [(sp.code, 22), (d.toNat, 16), (a.toNat, 10), (imm.toNat, 4), (ty.code, 0)]
  | .sts rule sp d a imm ty => pack 0x78000000 [(rule.code, 24), (sp.code, 22), (d.toNat, 16), (a.toNat, 10), (imm.toNat, 4), (ty.code, 0)]
  | .watch cond a imm gd sp => pack 0x7C000000 [(cond.code, 23), (a.toNat, 14), (imm.toNat, 8), (gd.toNat, 4), (sp.code, 2)]
  | .pres d a imm gd sp => pack 0x7C000001 [(d.toNat, 20), (a.toNat, 14), (imm.toNat, 8), (gd.toNat, 4), (sp.code, 2)]
  | .absa d a imm gd => pack 0x7C000002 [(d.toNat, 20), (a.toNat, 14), (imm.toNat, 8), (gd.toNat, 4)]
  | .rela d a imm gd => pack 0x7C000007 [(d.toNat, 20), (a.toNat, 14), (imm.toNat, 8), (gd.toNat, 4)]
  | .ld sp d a imm gd ty => pack 0x80000000 [(sp.code, 26), (d.toNat, 20), (a.toNat, 14), (imm.toNat, 8), (gd.toNat, 4), (ty.code, 0)]
  | .stP rule d a imm gd ty => pack 0x90000000 [(rule.code, 26), (d.toNat, 20), (a.toNat, 14), (imm.toNat, 8), (gd.toNat, 4), (ty.code, 0)]
  | .stG rule d a imm gd ty => pack 0xA0000000 [(rule.code, 26), (d.toNat, 20), (a.toNat, 14), (imm.toNat, 8), (gd.toNat, 4), (ty.code, 0)]
  | .stK rule d a imm gd ty => pack 0xB0000000 [(rule.code, 26), (d.toNat, 20), (a.toNat, 14), (imm.toNat, 8), (gd.toNat, 4), (ty.code, 0)]
  | .mldw x y sp ty gd pair => pack 0xC0000000 [(x.toNat, 20), (y.toNat, 14), (sp.code, 12), (ty.code, 8), (gd.toNat, 4), (pair.toNat, 1)]
  | .mldwS x y sp ty gd pair => pack 0xC0000004 [(x.toNat, 20), (y.toNat, 14), (sp.code, 12), (ty.code, 8), (gd.toNat, 4), (pair.toNat, 1)]
  | .mma x y sp ty gd pair swap => pack 0xC0000008 [(x.toNat, 20), (y.toNat, 14), (sp.code, 12), (ty.code, 8), (gd.toNat, 4), (pair.toNat, 1), (swap.toNat, 0)]
  | .mmas x y sp ty gd pair swap => pack 0xC000000C [(x.toNat, 20), (y.toNat, 14), (sp.code, 12), (ty.code, 8), (gd.toNat, 4), (pair.toNat, 1), (swap.toNat, 0)]
  | .mdrn x y sp ty gd pair tr => pack 0xC4000000 [(x.toNat, 20), (y.toNat, 14), (sp.code, 12), (ty.code, 8), (gd.toNat, 4), (pair.toNat, 1), (tr.toNat, 0)]
  | .mzero tile gd pair => pack 0xC4000004 [(tile.toNat, 20), (gd.toNat, 4), (pair.toNat, 1)]
  | .trd x y imm gd tile col => pack 0xC4000008 [(x.toNat, 20), (y.toNat, 14), (imm.toNat, 8), (gd.toNat, 4), (tile.toNat, 1), (col.toNat, 0)]
  | .twr x y imm gd tile col => pack 0xC400000C [(x.toNat, 20), (y.toNat, 14), (imm.toNat, 8), (gd.toNat, 4), (tile.toNat, 1), (col.toNat, 0)]
  | .copy a imm gd sp => pack 0xC8000000 [(a.toNat, 14), (imm.toNat, 8), (gd.toNat, 4), (sp.code, 2)]
  | .cpys a gd => pack 0xC8800000 [(a.toNat, 14), (gd.toNat, 4)]
  | .brd a imm gd sp => pack 0xC9000000 [(a.toNat, 14), (imm.toNat, 8), (gd.toNat, 4), (sp.code, 2)]
  | .brdi a imm gd sp => pack 0xC9800000 [(a.toNat, 14), (imm.toNat, 8), (gd.toNat, 4), (sp.code, 2)]
  | .hend gd => pack 0xCA000000 [(gd.toNat, 4)]
  | .tq d a tbl ix gd ty => pack 0xCC000000 [(d.toNat, 20), (a.toNat, 14), (tbl.toNat, 10), (ix.toNat, 9), (gd.toNat, 4), (ty.code, 0)]
  | .tqb d a tbl ix gd ty => pack 0xCC000100 [(d.toNat, 20), (a.toNat, 14), (tbl.toNat, 10), (ix.toNat, 9), (gd.toNat, 4), (ty.code, 0)]
  | .bra gd disp => pack 0xD0000000 [(gd.toNat, 22), (disp.toNat, 0)]
  | .jmp disp => pack 0xD4000000 [(disp.toNat, 0)]
  | .call disp => pack 0xD8000000 [(disp.toNat, 0)]
  | .split jk gd disp => pack 0xDC000000 [(jk.toNat, 23), (gd.toNat, 19), (disp.toNat, 0)]
  | .nop gd => pack 0xE0000000 [(gd.toNat, 4)]
  | .jmpr a imm gd => pack 0xE0000001 [(a.toNat, 14), (imm.toNat, 8), (gd.toNat, 4)]
  | .ret a gd => pack 0xE0000002 [(a.toNat, 14), (gd.toNat, 4)]
  | .join jk gd => pack 0xE0000003 [(jk.toNat, 20), (gd.toNat, 4)]
  | .jmov d a mode gd => pack 0xE0000004 [(d.toNat, 20), (a.toNat, 14), (mode.code, 8), (gd.toNat, 4)]
  | .pace gd => pack 0xE0000005 [(gd.toNat, 4)]
  | .pacen imm gd => pack 0xE0000006 [(imm.toNat, 8), (gd.toNat, 4)]
  | .reform a gd => pack 0xE0000007 [(a.toNat, 14), (gd.toNat, 4)]
  | .reformNext gd => pack 0xE0000107 [(gd.toNat, 4)]
  | .exit gd => pack 0xE0000008 [(gd.toNat, 4)]
  | .trap imm gd => pack 0xE0000009 [(imm.toNat, 8), (gd.toNat, 4)]
  | .bkpt imm gd => pack 0xE000000A [(imm.toNat, 8), (gd.toNat, 4)]
  | .enq d a sp gd => pack 0xE4000000 [(d.toNat, 20), (a.toNat, 14), (sp.code, 8), (gd.toNat, 4)]
  | .deq d imm gd => pack 0xE4000001 [(d.toNat, 20), (imm.toNat, 8), (gd.toNat, 4)]
  | .depdEdge d a gd => pack 0xE4000002 [(d.toNat, 20), (a.toNat, 14), (gd.toNat, 4)]
  | .depdRel d a gd => pack 0xE4000102 [(d.toNat, 20), (a.toNat, 14), (gd.toNat, 4)]
  | .srd d num gd => pack 0xE8000000 [(d.toNat, 20), (num.toNat, 8), (gd.toNat, 4)]
  | .swr d num gd => pack 0xE8000001 [(d.toNat, 20), (num.toNat, 8), (gd.toNat, 4)]
  | .rte gd => pack 0xE8000002 [(gd.toNat, 4)]
  | .icinv gd => pack 0xE8000003 [(gd.toNat, 4)]
  | .lagStall _ _ => 0
  | .loadComplete _ _ => 0
  | .storeOffer _ => 0
  | .frontierChange _ _ => 0
  | .stepLanding _ _ _ => 0
  | .copyLineWrite _ _ => 0
  | .copyNearRead _ => 0
  | .copyBurstAccepted _ _ => 0
  | .burstArrival _ _ => 0
  | .binDraw _ _ => 0
  | .lastBurstEvent _ => 0
  | .queryComplete _ => 0
  | .pchRequest _ _ => 0
  | .latencyBoundExpiry _ => 0
  | .perBankRefresh _ => 0
  | .tableRowRefresh _ _ => 0
  | .targetedRefresh _ _ => 0
  | .ecsScrub _ _ => 0
  | .sliceScrub _ => 0
  | .rebuildSector _ => 0
  | .matrixOpTurn _ => 0
  | .drainWrite _ _ => 0
  | .matrixClaimEnd _ => 0
  | .activeSetExchange _ => 0
  | .rotation _ => 0
  | .taskAdmission _ _ => 0
  | .blockingTask _ => 0
  | .classPreemption _ => 0
  | .taskSteal _ _ => 0
  | .taskStaging _ => 0
  | .taskRetirement _ => 0
  | .taskStop _ => 0
  | .preemption _ => 0
  | .restore _ _ => 0
  | .atsCompletion _ _ _ => 0
  | .invalidateRequest _ _ _ => 0
  | .faultBufferFlush _ => 0
  | .pageRequestResponse _ _ _ => 0
  | .stopMarker _ => 0
  | .accessCounterNotify _ _ => 0
  | .hostMemoryAccess _ _ _ => 0
  | .snoopResponse _ => 0
  | .sqtail _ _ => 0
  | .hostLaunch _ => 0
  | .completionEntryWrite _ => 0
  | .cqhead _ _ => 0
  | .sqcfg _ _ => 0
  | .cqcfg _ _ => 0
  | .registerWrite _ _ _ => 0
  | .slstatWrite _ _ => 0
  | .writePlatEntry _ _ _ => 0
  | .writeQuotaRecord _ _ _ => 0
  | .setContextArea _ _ _ _ => 0
  | .stopTask _ _ => 0
  | .dropKeptRegion _ _ => 0
  | .readStopLog _ => 0
  | .flushFaultBuffers _ => 0
  | .setAccessCounterThreshold _ _ => 0
  | .setDebugEnable _ _ _ => 0
  | .repairBank _ _ => 0
  | .bindFabricPeer _ _ _ _ => 0
  | .readMargins _ => 0
  | .releaseHeldHostLaunch _ _ => 0
  | .attestationReport _ => 0
  | .flitNak _ _ => 0
  | .endToEndTimeout _ _ => 0
  | .fabricCommand _ => 0
  | .peerReset _ => 0
  | .functionLevelReset _ => 0
  | .powerArbitration _ _ => 0
  | .marginPlan _ _ => 0
  | .bringUp => 0
  | .refreshManagement _ => 0
  | .sriovEnable _ => 0
  | .newFirmwareImage _ => 0

/-- The encoder: the word of a well-formed instruction (R37 to R47). -/
def encode (i : Instr) : Word := BitVec.ofNat 32 (encodeNat i)

end Sys2Proof
end

