-- ==== Sys2Proof/Machine/Code.lean ====
section
/-!
DEFINITION. The bank code of a sector (R134): Reed-Solomon (18,16) over the field of 2^16 elements with
polynomial x^16 + x^12 + x^3 + x + 1, its check symbols, its syndromes, and decoding with up to two
failed banks as erasures (R134, R137).
-/

namespace Sys2Proof.Machine

open Sys2Proof

/-- A symbol of the bank code, an element of the field of R134. -/
abbrev Symbol := BitVec 16

/-! ### The field -/

/-- A symbol times α = x: the polynomial takes the place of a bit shifted out. -/
def gfDouble (a : Symbol) : Symbol := if a.msb then (a <<< 1) ^^^ 0x100B#16 else a <<< 1

/-- The product of two symbols, bit by bit of the second from the highest down. -/
def gfMul (a b : Symbol) : Symbol :=
  (List.range 16).foldl (fun acc i => if b.getMsbD i then gfDouble acc ^^^ a else gfDouble acc) 0

/-- A power of α. -/
def alpha : Nat → Symbol
  | 0 => 1
  | n + 1 => gfDouble (alpha n)

/-- The product of the first `n` repeated squares of a symbol: its power 2^(n+1) − 2. -/
def gfSquares : Nat → Symbol → Symbol
  | 0, _ => 1
  | n + 1, a => gfMul (gfMul a a) (gfSquares n (gfMul a a))

/-- The inverse of a non-zero symbol, its power 2^16 − 2. -/
def gfInv (a : Symbol) : Symbol := gfSquares 15 a

/-! ### Check symbols and syndromes -/

/-- The weighted sum of the symbols of a word from position `n` on: Σ cᵢ·α^(k·i). -/
def symbolSum (k : Nat) : Nat → List Symbol → Symbol
  | _, [] => 0
  | n, c :: l => gfMul c (alpha (k * n)) ^^^ symbolSum k (n + 1) l

/-- The two syndromes of a word, zero for a codeword. -/
def syndromes (c : List Symbol) : Symbol × Symbol := (symbolSum 1 0 c, symbolSum 2 0 c)

/-- The values that two symbols at positions `f` and `g` must be changed by for both syndromes to
vanish. -/
def solveTwo (f g : Nat) (s1 s2 : Symbol) : Symbol × Symbol :=
  let d := alpha f ^^^ alpha g
  (gfMul (s2 ^^^ gfMul (alpha g) s1) (gfInv (gfMul (alpha f) d)),
   gfMul (s2 ^^^ gfMul (alpha f) s1) (gfInv (gfMul (alpha g) d)))

/-- The codeword of sixteen data symbols: check symbols `c16` and `c17` follow them (R134). -/
def encodeSymbols (d : List Symbol) : List Symbol :=
  let s := syndromes d
  let e := solveTwo 16 17 s.1 s.2
  d ++ [e.1, e.2]

/-! ### Decoding -/

/-- The outcomes of the table of R134. -/
inductive CodeOutcome where
  /-- No error: the codeword as it stands. -/
  | clean (c : List Symbol)
  /-- One symbol was in error, at this position. -/
  | corrected (c : List Symbol) (pos : Nat)
  /-- The symbols of failed banks were rebuilt. -/
  | rebuilt (c : List Symbol)
  | bad
  deriving DecidableEq, Repr

/-- Add a value to the symbol at a position. -/
def fixSymbol (c : List Symbol) (pos : Nat) (e : Symbol) : List Symbol := c.modify pos (· ^^^ e)

/-- Decode a word whose erased positions are known (R134, R137): one symbol error without an erasure is
corrected; with one erasure every other error is detected; with two the word is rebuilt and errors are
not detected. -/
def decodeSymbols (erased : List Nat) (c : List Symbol) : CodeOutcome :=
  let s := syndromes c
  match erased with
  | [] =>
    if s.1 = 0 ∧ s.2 = 0 then .clean c
    else
      match (List.range 18).find? fun j => decide (s.1 ≠ 0) && decide (gfMul s.1 (alpha j) = s.2) with
      | some j => .corrected (fixSymbol c j (gfMul s.1 (gfInv (alpha j)))) j
      | none => .bad
  | [f] =>
    if gfMul s.1 (alpha f) = s.2 then .rebuilt (fixSymbol c f (gfMul s.1 (gfInv (alpha f)))) else .bad
  | f :: g :: _ =>
    let e := solveTwo f g s.1 s.2
    .rebuilt (fixSymbol (fixSymbol c f e.1) g e.2)

/-- The word that a decoding delivers. -/
def CodeOutcome.word : CodeOutcome → Option (List Symbol)
  | .clean c | .corrected c _ | .rebuilt c => some c
  | .bad => none

/-! ### Symbols and bytes -/

/-- The symbols of a list of bytes: bytes 2i and 2i + 1 form symbol i, little-endian (R125). -/
def symbolsOf : List Byte → List Symbol
  | a :: b :: l => (b ++ a) :: symbolsOf l
  | _ => []

/-- The bytes of a list of symbols. -/
def bytesOfSymbols (c : List Symbol) : List Byte := c.flatMap fun x : Symbol => [x.setWidth 8, (x >>> 8).setWidth 8]

end Sys2Proof.Machine
end

