-- ==== Sys2Proof/Machine/State.lean ====
section
/-!
DEFINITION. The state of the machine as plain data: threads, groups and paths (R9, R188, R240), the
slices (R125 to R138), the engines (R92 to R124, R220 to R239), the stacks and their table rows
(R59 to R84), tasks and partitions (R254 to R273, R281), translation (R283 to R287), the host link,
the fabric and the management interface (R293 to R310). Free-standing lists hold the records that
are outstanding; `State.reset` is the machine after power is good and before bring-up (R310).
-/

namespace Sys2Proof.Machine

open Sys2Proof

/-! ### Threads, paths and groups -/

/-- Whether a lane position of a group holds a thread that runs, one that has ended, one that
`REFORM` has filed away, or none. -/
inductive LaneState where
  | empty | live | exited | filed
  deriving DecidableEq, Repr, Inhabited

/-- One thread: its registers (R188), its special registers and trap registers (R275). -/
structure Thread where
  tid : Word
  index : Nat
  state : LaneState
  v : Vector Word 64
  step : Step
  flags : Word
  qstat : Word
  bc : Vector Word 4
  tvec : Word
  tret : Word
  tkind : Word
  tpc : Word
  tword : Word
  taddr : Word
  tinfo : Word
  tlane : Word
  tin : Bool
  deriving DecidableEq, Repr, Inhabited

/-- The prefix state of a path inside a sequence (R32, R58): the rank of the last prefix, the address
of the sequence's first word, and the prefixes seen. -/
structure Prefix where
  rank : Nat
  start : Word
  hint : Word
  mod : Option ModWord
  hi : Option (BitVec 26)
  /-- The words of the sequence that the path already holds, because the code caches were invalidated
  while it was in the middle of the sequence (R306). -/
  words : List Word
  deriving DecidableEq, Repr, Inhabited

/-- No prefix seen: the next word begins a sequence. -/
def Prefix.none : Prefix := { rank := 0, start := 0, hint := 0, mod := .none, hi := .none, words := [] }

/-- One element of a waiting load: its lane, absolute address and step. -/
structure Access where
  lane : Nat
  addr : Nat
  step : Nat
  deriving DecidableEq, Repr, Inhabited

/-- A load that has been checked and waits on its frontier and presence (R141, R149). `own` is the
request of a completion handler, which may load its own window (R118). -/
structure LoadReq where
  own : Option Nat
  scalar : Bool
  reg : Nat
  ty : Ty
  accs : List Access
  /-- The number of the next record when the load was issued: a store with a lower `po` was offered before (R126). -/
  issued : Nat := 0
  deriving DecidableEq, Repr, Inhabited

/-- Why a path does not issue (R241, R266). -/
inductive Park where
  /-- A load on an absent line or a frontier (R141). -/
  | load (r : LoadReq)
  /-- A `WATCH` on its distinct words, each with whether it is already satisfied (R150). -/
  | watch (cond : WCond) (words : List (Nat × Bool))
  /-- A lag stall of `PACE` or `PACEN`: the lanes that advance and the advances left (R157, R248). -/
  | lag (lanes : Mask) (left : Nat)
  /-- Parked at a `JOIN` with this mask (R246). -/
  | join (mask : Mask)
  /-- Waits at issue and issues its word again (R77, R103, R111, R144, R221, R250, R263,
  R272). -/
  | issue
  /-- `MLDW.S` until the selector stage has taken its metadata (R227): the operation's number. -/
  | selector (op : Nat)
  deriving DecidableEq, Repr, Inhabited

/-- The place of a path in the instruction-buffer pool (R241): the group's first path, a path that
holds an entry, or a held path with the moment it became held. -/
inductive Slot where
  | first | buffered | held (since : Nat)
  deriving DecidableEq, Repr, Inhabited

/-- A path of a group: program counter, lane set and control set (R240). -/
structure Path where
  pid : Nat
  pc : Word
  exec : Mask
  s : Vector Word 32
  p : Vector Mask 7
  j : Vector Mask 8
  pre : Prefix
  park : Option Park
  slot : Slot
  /-- The advances a `PACEN` cut off by a pre-emption has still to make (R248). -/
  pace : Option Nat
  /-- The moment the path last issued, by which buffered paths take turns (R241). -/
  turn : Nat
  /-- Scalar registers that wait for the response of a launch instruction, with the values it brings
  (R271). -/
  owed : List (Nat × Word)
  deriving DecidableEq, Repr, Inhabited

/-- A group of threads (R21, R189), or of handler threads of one request (R110). -/
structure Group where
  gid : Nat
  task : Nat
  party : Nat
  core : Nat
  width : Nat
  handler : Option Nat
  completion : Bool
  lanes : List Thread
  paths : List Path
  /-- The position in the core's active set, or none in the pending set (R266). -/
  active : Option Nat
  issued : Nat
  lastIssue : Nat
  /-- Packed with the group that issued last on its core, and still to issue (R267). -/
  packed : Bool
  readySince : Nat
  deriving DecidableEq, Repr, Inhabited

/-- What a reform bin collects: threads of one party with one next program counter, or handlers of
one request (R110, R251). -/
inductive BinKey where
  | reform (task party : Nat) (pc : Word)
  | handler (task party req : Nat)
  deriving DecidableEq, Repr, Inhabited

/-- One of the 16 reform bins of a core in use. -/
structure Bin where
  core : Nat
  slot : Nat
  key : BinKey
  threads : List Thread
  since : Nat
  deriving DecidableEq, Repr, Inhabited

/-! ### The slices -/

/-- The owner tag of a granule (R127); a granule not listed is free. -/
inductive Owner where
  | free
  | party (task index : Nat)
  | draining (task index : Nat)
  | region (task record : Nat)
  | kept (part far : Nat)
  | spill (task : Nat)
  deriving DecidableEq, Repr, Inhabited

/-- A line an engine request has cleared or will clear with the landing of its step, and has not yet
written (R97, R115, R162, R235). -/
structure Clear where
  line : Nat
  req : Nat
  step : Nat
  dom : Dom
  landed : Bool
  deriving DecidableEq, Repr, Inhabited

/-- A byte as it stood before a landing or engine write of a step, kept while a handler of an
earlier step may still load it (R113, R160). -/
structure Undo where
  addr : Nat
  step : Nat
  old : Byte
  deriving DecidableEq, Repr, Inhabited

/-- One store: an active lane of `ST`, an `STS`, or a handler write (R143, R158). -/
structure Store where
  po : Nat
  task : Nat
  party : Nat
  core : Nat
  req : Option Nat
  writer : Nat
  addr : Nat
  size : Nat
  ty : Ty
  rule : Rule
  step : Nat
  dom : Dom
  data : BitVec 64
  pc : Word
  deriving DecidableEq, Repr, Inhabited

/-- A pending sector entry: the accepted stores of one key (R129), in a buffer slot or spilled. -/
structure Entry where
  sector : Nat
  step : Nat
  dom : Dom
  req : Option Nat
  stores : List Store
  spilled : Bool
  /-- The entry holds an uncorrectable error (R135). -/
  upset : Bool
  deriving DecidableEq, Repr, Inhabited

/-- An exact accumulator (R129, R179) of one cell under one key. -/
structure Accum where
  addr : Nat
  step : Nat
  dom : Dom
  req : Option Nat
  ty : Ty
  nan : Bool
  pinf : Bool
  ninf : Bool
  nz : Bool
  sum : BitVec 312
  spilled : Bool
  /-- The accumulator holds an uncorrectable error (R135). -/
  upset : Bool
  deriving DecidableEq, Repr, Inhabited

/-- A frontier value as a slice knows it (R156); none is ∞, and a pair not listed is 0. -/
structure Known where
  dom : Dom
  slice : Nat
  value : Option Nat
  deriving DecidableEq, Repr, Inhabited

/-- The error registers and marks of a slice (R137, R138); a slice not listed reads zero. -/
structure SliceReg where
  slice : Nat
  fb1 : Option Nat
  fb2 : Option Nat
  unc : Nat
  slcorr : Nat
  sluaddr : Nat
  /-- Corrections of the scrub pass in progress, by bank. -/
  passCorr : List (Nat × Nat)
  /-- The next sector the scrub and the rebuild pass reach. -/
  scrubAt : Nat
  rebuildAt : Option Nat
  deriving DecidableEq, Repr, Inhabited

/-- One of the three copies of a granule's owner tag or of a line's presence bit that disagrees with what
was written (R125, R135). -/
inductive CopyErr where
  | tag (granule copy : Nat) (owner : Owner)
  | presence (line copy : Nat) (present : Bool)
  deriving DecidableEq, Repr, Inhabited

/-- The slices of the device: contents, owner tags, presence, pending writes and error state. -/
structure Sram where
  mem : Cells 8
  owners : List (Nat × Owner)
  clears : List Clear
  undo : List Undo
  offers : List Store
  entries : List Entry
  accums : List Accum
  known : List Known
  slices : List SliceReg
  /-- Stored symbols that differ from the codeword of their sector's bytes (R125, R134): the sector and
  the bank, and the bits that differ. Every other stored symbol, data and check, is as R134 gives it. -/
  flips : List ((Nat × Nat) × Symbol)
  /-- Copies of owner tags and presence bits that disagree (R125). -/
  copies : List CopyErr
  deriving DecidableEq, Repr, Inhabited

/-! ### The engines -/

/-- The progress of one far burst of an engine request. -/
inductive BurstState where
  | todo
  /-- Requested, and to be sent again once its translation has been answered: it holds its entry
  (R111, R283). -/
  | again
  /-- Waits for the host's answer to an ATS request, after so many successful page responses. -/
  | ats (tries : Nat)
  /-- Waits on a page request of this generation of its tract's fault buffer (R285). -/
  | page (gen tries : Nat)
  /-- Waits for the host's answer to a back-invalidate snoop of this device-physical address (R295). -/
  | snoop (dpa : Nat)
  /-- Waits for the fabric's answer to this sequence number (R299). -/
  | fabric (seq : Nat)
  /-- The data of a read has arrived. -/
  | got (data : List Byte)
  /-- A write has been accepted by its queue and is not yet counted (R99). -/
  | accepted
  /-- The burst failed with a code of R100. -/
  | failed (code : Nat)
  /-- Finished: a write that has been counted, with the code it failed with or 0, or a bulk burst whose
  handler has been born. -/
  | done (code : Nat)
  deriving DecidableEq, Repr, Inhabited

/-- One far burst: its virtual address, its list position and its byte offset within the request,
with its state. `coord` are the handler coordinates `bc0`, `bc1`, `bc2` of a bulk burst (R106). -/
structure Burst where
  va : Nat
  pos : Nat
  offset : Nat
  coord : Nat × Nat × Nat
  state : BurstState
  deriving DecidableEq, Repr, Inhabited

/-- What every engine request carries: who issued it, where and in which step. -/
structure ReqHead where
  id : Nat
  task : Nat
  party : Nat
  core : Nat
  step : Nat
  tid : Word
  pc : Word
  deriving DecidableEq, Repr, Inhabited

/-- A copy (R92 to R102). `near` and `cnt` are absolute addresses. -/
structure Copy where
  head : ReqHead
  outbound : Bool
  indexed : Bool
  conv : Nat
  fill : Byte
  swz : Nat
  far : Nat
  near : Nat
  len : Nat
  rows : Nat
  first : Nat
  rlen : Nat
  idx : List Nat
  cnt : Option Nat
  bursts : List Burst
  /-- Outbound: the near bytes once they have been read (R98). -/
  nearData : Option (List Byte)
  /-- Outbound: the near sectors that could not be decoded when they were read (R100, R135). -/
  badNear : List Nat
  /-- Inbound: the destination lines not yet written. -/
  lines : List Nat
  /-- An inbound copy that has written a line, or an outbound one that has read (R102). -/
  begun : Bool
  deriving DecidableEq, Repr, Inhabited

/-- A bulk read (R104 to R122). -/
structure Bulk where
  head : ReqHead
  win : Nat
  winLines : Nat
  winSpace : Space
  cnt : Option Nat
  hnd : Nat
  chnd : Option Nat
  tag : Nat
  params : List Word
  indexed : Bool
  total : Nat
  rows : Nat
  idx : List Nat
  bursts : List Burst
  /-- Burst handlers born so far. -/
  born : Nat
  /-- The last-burst event has landed the writes and the completion handler runs (R118). -/
  landed : Bool
  deriving DecidableEq, Repr, Inhabited

/-- A drain whose converted bytes wait for the frontier (R235): line by line, the bytes with their
addresses. -/
structure Drain where
  head : ReqHead
  pieces : List (Nat × List (Nat × Byte))
  begun : Bool
  deriving DecidableEq, Repr, Inhabited

/-- An outstanding table query (R76, R77): the captured index words of its lanes. -/
structure Query where
  id : Nat
  task : Nat
  gid : Nat
  core : Nat
  d : Nat
  tbl : Nat
  ix : Bool
  qb : Bool
  ty : Ty
  pc : Word
  lanes : List (Nat × Word)
  /-- How many of its rows have been opened (R76). -/
  opened : Nat
  /-- It has yielded to the normal requests of an expired bound, and its next row comes before every request that entered
  later (R70). -/
  resumes : Bool := false
  deriving DecidableEq, Repr, Inhabited

/-- A weight plane (R220, R227): empty, or an image with its format and scales. -/
structure Plane where
  loaded : Bool
  ty : Ty
  sparse : Bool
  scale0 : Word
  scale1 : Word
  img : Cells 8
  deriving DecidableEq, Repr, Inhabited

/-- The descriptor of a drain (R232). -/
structure DrainSpec where
  tile : Bool
  rm : Nat
  row0 : Nat
  n : Nat
  dstride : Nat
  tstride : Nat
  dest : Nat
  tdest : Nat
  vdest : Nat
  seed : Word
  tc : Word
  ty : Ty
  tr : Bool
  deriving DecidableEq, Repr, Inhabited

/-- What an operation of the matrix queue does at its turn (R224). Memory operands were read when
the operation entered the queue, as loads of its step. -/
inductive MatrixAct where
  | load (ty : Ty) (sparse pair : Bool) (scale0 scale1 : Word) (base : Nat) (img : Cells 8)
  | stream (ty : Ty) (scaled swap pair tile : Bool) (row0 n : Nat) (rows : Cells 8)
      (scales : List (Word × Word))
  | drain (pair : Bool) (spec : DrainSpec)
  | zero (tile pair : Bool)
  | readTile (tile col : Bool) (x : Word) (reg : Nat) (lanes : List Nat)
  | writeTile (tile col : Bool) (x : Word) (lanes : List (Nat × Word))
  deriving DecidableEq, Repr, Inhabited

/-- One operation of a matrix queue. -/
structure MatrixOp where
  head : ReqHead
  gid : Nat
  pid : Nat
  lane : Nat
  act : MatrixAct
  deriving DecidableEq, Repr, Inhabited

/-- The matrix engine of a core (R220 to R222); an engine not listed is unclaimed. -/
structure Engine where
  core : Nat
  claim : Nat × Nat
  /-- The engine's pair partner is claimed with it and this core leads (R222). -/
  leads : Bool
  /-- This engine is claimed as the follower of its even neighbour. -/
  follows : Bool
  active : Plane
  shadow : Plane
  acc0 : Cells 32
  acc1 : Cells 32
  queue : List MatrixOp
  /-- An uncorrectable soft error in a plane or tile (R239). -/
  softError : Bool
  deriving DecidableEq, Repr, Inhabited

/-- The engines of the device. -/
structure Engines where
  copies : List Copy
  bulks : List Bulk
  drains : List Drain
  queries : List Query
  matrix : List Engine
  bins : List Bin
  deriving DecidableEq, Repr, Inhabited

/-! ### The stacks -/

/-- A normal request that waits in its pseudo-channel queue behind a table query of its bank (R69,
R70): the request and burst, and the moment it entered. -/
structure QueueEntry where
  pch : Nat
  bank : Nat
  req : Nat
  n : Nat
  since : Nat
  /-- Refreshes of the bank since the request entered (R69). -/
  refreshes : Nat
  deriving DecidableEq, Repr, Inhabited

/-- The stacks (R59 to R70). -/
structure Dram where
  mem : Cells 8
  /-- The bytes of the table-row group (R62, R73), at the addresses that R61 gives its rows. -/
  tableRows : Cells 8
  plat : Vector (BitVec 64) 16
  tableBlocks : BitVec 64
  queues : List QueueEntry
  /-- Activations of each table row since it was last refreshed (R67): bank, row and count. -/
  rowActs : List ((Nat × Nat) × Nat)
  /-- Activations of each bank that count towards refresh management (R66). -/
  bankActs : List (Nat × Nat)
  /-- The moment each bank, and each table row group, was last refreshed. -/
  refreshed : List (Nat × Nat)
  /-- Targeted refreshes performed, by stack (R67). -/
  targeted : List (Nat × Nat)
  /-- Corrected and uncorrectable errors counted, by pseudo-channel (R68). -/
  corrected : List (Nat × Nat)
  uncorrected : List (Nat × Nat)
  /-- What the on-die ECC reports of a burst, where it is not clean (R68). -/
  reports : List (Nat × ScrubOutcome)
  deriving DecidableEq, Repr, Inhabited

/-! ### Objects, tasks and partitions -/

/-- The kinds of hamper region (R86, R87). -/
inductive RegionKind where
  | immutable | shared | dram | table
  deriving DecidableEq, Repr, Inhabited

/-- A region record of a hamper (R86), with the region relocations of its image (R89, R304). -/
structure Region where
  far : Nat
  size : Nat
  kind : RegionKind
  stageIn : Bool
  stageOut : Bool
  keep : Bool
  ar : Bool
  aw : Bool
  sfmt : Ty
  dfmt : Ty
  blen : Nat
  sclr : Nat
  party : Option Nat
  tbl : Nat
  tsz : Nat
  relocs : List (Nat × Nat × Nat)
  deriving DecidableEq, Repr, Inhabited

/-- A region relocation of a code image: the index of the `IMM` word, the lowest bit of the next
word's immediate field, the region record and the addend (R303). -/
structure CodeReloc where
  word : Nat
  lo : Nat
  record : Nat
  addend : Nat
  deriving DecidableEq, Repr, Inhabited

/-- A task of an Unrax object: its declaration and hamper (R21, R85, R107, R275). -/
structure TaskDecl where
  partySize : Nat
  scratch : Nat
  width : Nat
  entry : Word
  trap : Word
  handlers : List (Nat × Word)
  regions : List Region
  spillKiB : Nat
  hres : Nat
  relocs : List CodeReloc
  deriving DecidableEq, Repr, Inhabited

/-- An Unrax object as the loader leaves it (R303, R304): tasks and the code image in DRAM. A task that the loader
rejects keeps its number and has no declaration (R71, R85). -/
structure Object where
  handle : Nat
  part : Nat
  tasks : List (Option TaskDecl)
  pcBase : Word
  words : Nat
  dpa : Nat
  deriving DecidableEq, Repr, Inhabited

/-- A task of an Unrax object as the object's file gives it: what its task table declares, and its hamper
word by word: the header of R85 and the region records of R86. -/
structure RawTask where
  partySize : Nat
  scratch : Nat
  width : Nat
  entry : Word
  trap : Word
  handlers : List (Nat × Word)
  header : List Word
  records : List (List Word)
  /-- The region relocations of each record's image and those of the code (R303, R304). -/
  regionRelocs : List (List (Nat × Nat × Nat))
  relocs : List CodeReloc
  /-- The `.data` images: the record whose image it is, and its bytes (R71, R304, R319). -/
  images : List (Nat × Nat)
  deriving DecidableEq, Repr, Inhabited

/-- An Unrax object as the loader hands it over. -/
structure RawObject where
  handle : Nat
  part : Nat
  tasks : List RawTask
  pcBase : Word
  words : Nat
  dpa : Nat
  deriving DecidableEq, Repr, Inhabited

/-- A code instance (R303): the image with the region relocations of one of its tasks set, at a DRAM
address. -/
structure Instance where
  id : Nat
  object : Nat
  tnum : Nat
  part : Nat
  bases : List Nat
  pcBase : Word
  words : Nat
  dpa : Nat
  deriving DecidableEq, Repr, Inhabited

/-- The fault record `FREC` (R275, R278). -/
structure Frec where
  kind : Word
  step : Step
  addr : Word
  rule : Word
  count : Word
  tid0 : Word
  tid1 : Word
  pc : Word
  deriving DecidableEq, Repr, Inhabited

/-- `FREC` before any trap or fault is recorded: zero (R275). -/
def Frec.zero : Frec :=
  { kind := 0, step := 0, addr := 0, rule := 0, count := 0, tid0 := 0, tid1 := 0, pc := 0 }

/-- The states of a task record (R255). -/
inductive TaskState where
  | waiting | released | admitted | running | preempted | ended
  deriving DecidableEq, Repr, Inhabited

/-- The placement of a party: its core and the slice offset of its scratch (R127). -/
structure PartyPlace where
  index : Nat
  core : Nat
  base : Nat
  deriving DecidableEq, Repr, Inhabited

/-- A spill reserve of a task on a slice (R132). -/
structure Reserve where
  slice : Nat
  base : Nat
  granules : Nat
  deriving DecidableEq, Repr, Inhabited

/-- The work-item pool of a task (R272): items in all, chunks begun, and each tract's current range
of indices not yet handed out. -/
structure Pool where
  items : Nat
  begun : Nat
  current : List (Nat × Nat × Nat)
  deriving DecidableEq, Repr, Inhabited

/-- The context of a pre-empted task (R281): everything that was taken off its cores, with the
placement it had. No rule lays out the bursts of a context area: the model holds contexts beside the stacks, and a save or a
restore counts no activation and no error report and meets no error there (log entry 84). -/
structure Saved where
  places : List PartyPlace
  groups : List Group
  bins : List Bin
  scratch : List (Nat × Cells 8)
  clears : List Clear
  undo : List Undo
  offers : List Store
  entries : List Entry
  accums : List Accum
  known : List Known
  copies : List Copy
  bulks : List Bulk
  drains : List Drain
  engines : List Engine
  deriving DecidableEq, Repr, Inhabited

/-- One burst of staging or write-back (R89, R90): the core whose front end makes it, its address and
length, the data of a write, and how far it has come. -/
structure Xfer where
  core : Nat
  va : Nat
  len : Nat
  write : Bool
  data : List Byte
  state : BurstState
  /-- The region record that a burst of staging serves (R89). -/
  record : Nat := 0
  deriving DecidableEq, Repr, Inhabited

/-- The line of a stop report for one thread (R277). -/
structure ThreadReport where
  tid : Word
  step : Step
  tin : Bool
  pc : Word
  bc0 : Word
  tag : Nat
  deriving DecidableEq, Repr, Inhabited

/-- A task record (R254) with the placement and the fault record of its task. -/
structure Task where
  uid : Nat
  part : Nat
  tract : Nat
  object : Nat
  tnum : Nat
  decl : TaskDecl
  nparty : Nat
  cls : Nat
  handle : Nat
  depth : Nat
  parent : Option Nat
  /-- The function whose submission ring launched it (R296). -/
  fn : Option Nat
  counter : Nat
  hold : Bool
  /-- The predecessors whose end this record still waits for (R258). -/
  preds : List Nat
  args : Option (List Word)
  pool : Pool
  ccell : Option Nat
  state : TaskState
  releasedAt : Nat
  blocking : Bool
  frec : Frec
  /-- The trap or fault kind with which the task has been told to stop (R277). -/
  stop : Option Nat
  places : List PartyPlace
  /-- The SRAM base address of each region record of kind 0 or 1 (R88). -/
  bases : List (Option Nat)
  /-- The records whose region was adopted from a kept one (R91). -/
  adopted : List Nat
  reserves : List Reserve
  block : Option Nat
  inst : Option Nat
  replicas : List Nat
  xfers : List Xfer
  /-- Told to save its context (R281): its groups stop issuing at their next sequence boundary. -/
  saving : Bool
  /-- Held for debug by a breakpoint (R290). -/
  held : Bool
  saved : Option Saved
  /-- The stop-report lines of threads that have exited (R277). -/
  exited : List ThreadReport
  deriving DecidableEq, Repr, Inhabited

/-- A partition: its quota record (R263), context area (R281), debug enable (R290), PASID, handles
issued (R257) and whether it exists. -/
structure Partition where
  id : Nat
  thr : Nat
  grp : Nat
  wch : Nat
  hnd : Nat
  gran : Nat
  recs : Nat
  dom : Nat
  rthr : Nat
  rgran : Nat
  cores : BitVec 512
  pasid : Nat
  ctxBase : Nat
  ctxSize : Nat
  debug : Bool
  lastHandle : Nat
  deriving DecidableEq, Repr, Inhabited

/-- A region kept for a successor (R91). -/
structure Kept where
  part : Nat
  far : Nat
  size : Nat
  kind : RegionKind
  sfmt : Ty
  dfmt : Ty
  base : Nat
  deriving DecidableEq, Repr, Inhabited

/-- A stop report (R277). -/
structure StopReport where
  part : Nat
  handle : Nat
  frec : Frec
  threads : List ThreadReport
  deriving DecidableEq, Repr, Inhabited

/-! ### Translation -/

/-- A front end that translates: the copy engine, bulk-read engine or staging of a core, or the
shared cache of a tract (R283). -/
inductive CacheOf where
  | copy (core : Nat) | bulk (core : Nat) | staging (core : Nat) | tract (t : Nat)
  deriving DecidableEq, Repr, Inhabited

/-- An entry of a translation cache (R283). -/
structure XlatEntry where
  cache : CacheOf
  pasid : Nat
  base : Nat
  size : Nat
  target : Nat
  read : Bool
  write : Bool
  deriving DecidableEq, Repr, Inhabited

/-- A record of a tract's fault buffer (R285). -/
structure PageRecord where
  tract : Nat
  gen : Nat
  pasid : Nat
  page : Nat
  write : Bool
  since : Nat
  deriving DecidableEq, Repr, Inhabited

/-- An entry of a partition's translation fault log (R287). -/
structure XlatFault where
  part : Nat
  page : Nat
  pasid : Nat
  write : Bool
  code : Nat
  core : Nat
  handle : Nat
  deriving DecidableEq, Repr, Inhabited

/-- An access counter of an I/O die (R286). -/
structure AccessCounter where
  die : Nat
  pasid : Nat
  block : Nat
  count : Nat
  deriving DecidableEq, Repr, Inhabited

/-- Translation state. -/
structure Xlate where
  caches : List XlatEntry
  /-- ATS requests sent and not answered: tract, PASID, page and whether a write is wanted. -/
  asked : List (Nat × Nat × Nat × Bool)
  /-- Invalidate Requests whose accesses have not all been accepted: PASID, address and size, with those accesses, each by
  its request and number (R283). -/
  invalidating : List ((Nat × Nat × Nat) × List (Nat × Nat))
  /-- Invalidate Completions sent. -/
  completions : List (Nat × Nat × Nat)
  gens : List (Nat × Nat)
  records : List PageRecord
  /-- Page request groups sent and not answered: tract and generation. -/
  sent : List (Nat × Nat)
  faults : List XlatFault
  counters : List AccessCounter
  /-- The threshold of the access counters of each partition that system software has set (R286, R298). -/
  thresholds : List (Nat × Nat)
  /-- Notifications posted to the host: PASID and 64 KiB block. -/
  notices : List (Nat × Nat)
  deriving DecidableEq, Repr, Inhabited

/-! ### Host, fabric and management -/

/-- What a mailbox command read for its function (R298). -/
inductive Reply where
  | none
  | logs (stops : List StopReport) (faults : List XlatFault)
  | margins (plan clocks shares : List Nat)
  deriving DecidableEq, Repr, Inhabited

/-- A function of the host link and its ring registers (R293, R297). -/
structure HostFn where
  fn : Nat
  part : Nat
  sqBase : BitVec 64
  sqN : Nat
  sqEn : Bool
  sqTail : Nat
  sqHead : Nat
  cqBase : BitVec 64
  cqM : Nat
  cqVector : Nat
  cqIen : Bool
  cqEn : Bool
  cqHead : Nat
  cqTail : Nat
  phase : Bool
  /-- Completion entries that wait to be written: handle and code (R296). -/
  waiting : List (Nat × Nat)
  /-- The status of the last mailbox command (R298). -/
  status : Nat
  reply : Reply
  deriving DecidableEq, Repr, Inhabited

/-- The response to a host request to device memory (R65, R294): the function, the device-physical address, the
status (0, or a code of R100) and the data of a read. -/
structure HostResponse where
  fn : Nat
  dpa : Nat
  status : Nat
  data : List Byte
  deriving DecidableEq, Repr, Inhabited

/-- The host side of the device. -/
structure HostSide where
  mem : Cells 8
  hpa0 : Nat
  fns : List HostFn
  /-- Bursts the host-tracking filter marks as possibly cached by the host (R295). -/
  tracked : List Nat
  /-- Snoops sent and not answered: the burst, and whether it is a `BISnpInv` (R295). -/
  snoops : List (Nat × Bool)
  /-- Responses sent to host requests to device memory (R65, R294). -/
  responses : List HostResponse
  /-- The responses to host requests that still wait in a pseudo-channel queue, with their request numbers (R69, R70). -/
  held : List (Nat × HostResponse)
  /-- MSI-X signals sent: function and vector. -/
  msix : List (Nat × Nat)
  /-- Partitions whose function-level reset has begun and not finished (R302). -/
  resetting : List Nat
  deriving DecidableEq, Repr, Inhabited

/-- A binding of a local partition to a partition and PASID of a target device (R300). -/
structure Binding where
  part : Nat
  dev : Nat
  peer : Nat
  pasid : Nat
  deriving DecidableEq, Repr, Inhabited

/-- A command sent over the fabric and not yet answered (R299): the port it left by, how often it
was sent and the burst of the request it serves. -/
structure FabOut where
  part : Nat
  seq : Nat
  dev : Nat
  /-- The partition and PASID of the target device that the binding names (R300). -/
  peer : Nat
  pasid : Nat
  rva : Nat
  write : Bool
  data : List Byte
  req : Nat
  burst : Nat
  port : Nat
  sends : Nat
  since : Nat
  deriving DecidableEq, Repr, Inhabited

/-- A command executed for a peer partition, with its saved response (R299). -/
structure FabDone where
  source : Nat
  seq : Nat
  code : Nat
  data : List Byte
  deriving DecidableEq, Repr, Inhabited

/-- A command of a peer partition that waits for its translation or a snoop (R299, R300). -/
structure Serve where
  source : Nat
  part : Nat
  /-- The PASID under which the address is translated, as the binding of the source names it (R300). -/
  pasid : Nat
  seq : Nat
  va : Nat
  write : Bool
  data : List Byte
  id : Nat
  state : BurstState
  deriving DecidableEq, Repr, Inhabited

/-- The scale-up fabric (R299 to R301). -/
structure Fabric where
  dev : Nat
  reachable : List Nat
  bindings : List Binding
  nextSeq : List (Nat × Nat)
  out : List FabOut
  serving : List Serve
  done : List FabDone
  /-- Responses sent to peers: source, sequence number, code and data. -/
  answers : List FabDone
  /-- The replay buffer of each port: port and flit. -/
  replay : List (Nat × Nat)
  /-- Flits sent again after a negative acknowledgement: port and flit. -/
  resent : List (Nat × Nat)
  deriving DecidableEq, Repr, Inhabited

/-- The attestation report of R307. -/
structure Report where
  nonce : BitVec 256
  digests : List (BitVec 384)
  plat : List (BitVec 64)
  tableBlocks : BitVec 64
  quotas : List Partition
  marks : List (Nat × Option Nat × Option Nat)
  ed25519 : Nat
  mldsa : Nat
  deriving DecidableEq, Repr, Inhabited

/-- The device management processor, the power arbiter and the margins (R298, R307 to R310). -/
structure Mgmt where
  up : Bool
  fwVersion : Nat
  fwDigest : BitVec 384
  rollback : Nat
  recovery : Bool
  /-- The image in the DMP's store that bring-up verifies. -/
  image : FwImage
  clocks : List Nat
  shares : List Nat
  /-- The highest clock step the plan allows each tract. -/
  ceilings : List Nat
  plan : List Nat
  plans : Nat
  /-- The moment of the last plan, from which the 1000 hours count (R309). -/
  plannedAt : Nat
  /-- Firmware has been verified and runs (R307, R310). -/
  running : Bool
  lastGrant : Nat
  stopLog : List StopReport
  /-- Management events sent to the host. -/
  events : List Nat
  reports : List Report
  vfs : Nat
  deriving DecidableEq, Repr, Inhabited

/-! ### The machine -/

/-- What happens to the machine without a row of the opcode table: responses that arrive, what the
management interface and the loader do, and soft errors (log entry 68). -/
inductive Happening where
  /-- The response of a launch instruction reaches its path (R271). -/
  | response (gid pid : Nat)
  /-- The management interface marks a bank of a slice failed (R137). -/
  | markBank (slice bank : Nat)
  /-- Bits of a stored symbol of a sector flip (R134). -/
  | flipSymbol (sector bank : Nat) (bits : Symbol)
  /-- A copy of an owner tag or presence bit changes (R135). -/
  | flipCopy (e : CopyErr)
  /-- The pending entry, or the accumulator, at an address takes an uncorrectable error (R135). -/
  | upsetEntry (sector step : Nat) (dom : Dom)
  | upsetAccum (addr step : Nat) (dom : Dom)
  /-- A plane or tile of a core's matrix engine takes an uncorrectable error (R239). -/
  | upsetEngine (core : Nat)
  /-- The error report with which the next read of a burst of the stacks comes back (R68). -/
  | burstError (burst : Nat) (report : ScrubOutcome)
  /-- The loader gives the device an object with its task headers and region records as they stand in
  the Unrax object (R85, R86, R303). -/
  | loadObject (o : RawObject)
  deriving DecidableEq, Repr, Inhabited

/-- One move of the machine: a path issues its next word, an agent makes an event of the opcode table, or
something else happens. -/
inductive Decision where
  | issue (gid pid : Nat)
  | event (i : Instr)
  | happen (h : Happening)
  deriving DecidableEq, Repr, Inhabited

/-- The path on whose behalf an instruction word executes, the address of the word, and the word. -/
structure Cursor where
  gid : Nat
  pid : Nat
  pc : Word
  word : Word
  deriving DecidableEq, Repr, Inhabited

/-- The whole machine. `now` is the model's clock, `fresh` numbers new records and drives the free
values, and `agenda` holds the moves that come next (log entries 3 and 4). -/
structure State where
  now : Nat
  fresh : Nat
  agenda : List Decision
  cursor : Option Cursor
  groups : List Group
  sram : Sram
  eng : Engines
  dram : Dram
  objects : List Object
  instances : List Instance
  /-- Words held by the code caches of cores: core, instance, word index and word (R303). -/
  codeCache : List ((Nat × Nat × Nat) × Word)
  /-- Words held by the code caches of tracts: tract, instance, word index and word (R303). -/
  tractCode : List ((Nat × Nat × Nat) × Word)
  tasks : List Task
  parts : List Partition
  kept : List Kept
  xlate : Xlate
  host : HostSide
  fabric : Fabric
  mgmt : Mgmt
  deriving DecidableEq, Repr, Inhabited

/-- Why the machine stops outside the rules of the spec. -/
inductive Fault where
  /-- An instruction word was executed while the cursor names no path of any group. No step of the
  machine raises it: `step` sets the cursor before it executes a word. Safe. -/
  | noIssuingPath
  deriving DecidableEq, Repr, Inhabited

/-- Why an instruction has no meaning in the model. -/
inductive Refusal where
  /-- The instruction of this mnemonic is not modelled; raised by its arm of `exec`. Safe. -/
  | notModelled (mnemonic : String)
  deriving DecidableEq, Repr, Inhabited

/-- The machine right after power is good, before bring-up (R310): no task, partition or group
exists, every list is empty, and every register is zero unless its rule says otherwise. -/
def State.reset : State :=
  { now := 0
    fresh := 0
    agenda := []
    cursor := none
    groups := []
    sram := { mem := [], owners := [], clears := [], undo := [], offers := [], entries := [],
              accums := [], known := [], slices := [], flips := [], copies := [] }
    eng := { copies := [], bulks := [], drains := [], queries := [], matrix := [], bins := [] }
    dram := { mem := [], tableRows := [], plat := Vector.replicate 16 0, tableBlocks := 0,
              queues := [], rowActs := [], bankActs := [], refreshed := [], targeted := [],
              corrected := [], uncorrected := [], reports := [] }
    objects := []
    instances := []
    codeCache := []
    tractCode := []
    tasks := []
    parts := []
    kept := []
    xlate := { caches := [], asked := [], invalidating := [], completions := [], gens := [], records := [], sent := [], faults := [],
               counters := [], thresholds := [], notices := [] }
    host := { mem := [], hpa0 := 0, fns := [], tracked := [], snoops := [], responses := [], held := [], msix := [],
              resetting := [] }
    fabric := { dev := 0, reachable := [], bindings := [], nextSeq := [], out := [], serving := [], done := [],
                answers := [], replay := [], resent := [] }
    mgmt := { up := false, fwVersion := 0, fwDigest := 0, rollback := 0, recovery := false,
              image := { version := 0, digest := 0, ed25519 := 0, mldsa := 0 },
              clocks := [], shares := [], ceilings := [], plan := [], plans := 0, plannedAt := 0, running := false, lastGrant := 0,
              stopLog := [], events := [], reports := [], vfs := 0 } }

end Sys2Proof.Machine
end

