-- ==== Sys2Proof/Machine/Ops.lean ====
section
/-!
DEFINITION. The named operations over memory, registers, paths and tasks that every meaning uses:
canonical memory, addresses and owner tags (R25 to R27, R127), lanes and predicates (R34, R189),
frontiers (R155, R156), presence and loads (R28, R141, R160), the fault record (R278), taking a trap
(R276) and returning from one (R289).
-/

namespace Sys2Proof.Machine

open Sys2Proof

/-! ### Memory in canonical form -/

/-- What the cell `k` reads as; an unlisted cell reads as zero (log entries 1 and 2). -/
def cellGet {w : Nat} : Cells w → Nat → BitVec w
  | [], _ => 0
  | (a, x) :: m, k => if a = k then x else cellGet m k

/-- Write one cell; writing zero removes its entry, so the form stays canonical. -/
def cellSet {w : Nat} : Cells w → Nat → BitVec w → Cells w
  | [], k, x => if x = 0 then [] else [(k, x)]
  | (a, y) :: m, k, x =>
    if k < a then (if x = 0 then (a, y) :: m else (k, x) :: (a, y) :: m)
    else if k = a then (if x = 0 then m else (k, x) :: m)
    else (a, y) :: cellSet m k x

/-- Every key of the list is above `k`, the keys rise and no entry is zero. -/
def cellsAbove {w : Nat} (k : Nat) : Cells w → Bool
  | [] => true
  | (a, x) :: m => decide (k < a) && decide (x ≠ 0) && cellsAbove a m

/-- The canonical form of a memory: keys strictly rising, no entry equal to what an unlisted address
reads as. -/
def Memory.wf {w : Nat} : Cells w → Bool
  | [] => true
  | (a, x) :: m => decide (x ≠ 0) && cellsAbove a m

/-- Several cells written in order. -/
def cellSetAll {w : Nat} (m : Cells w) (l : List (Nat × BitVec w)) : Cells w :=
  l.foldl (fun m c => cellSet m c.1 c.2) m

/-- `n` bytes from `a` upward. -/
def bytesAt (m : Cells 8) (a n : Nat) : List Byte := (List.range n).map fun i => cellGet m (a + i)

/-- The listed cells of the `n` bytes from `a`, with keys counted from `a`. -/
def cellsIn (m : Cells 8) (a n : Nat) : Cells 8 :=
  (m.filter fun c => decide (a ≤ c.1) && decide (c.1 < a + n)).map fun c => (c.1 - a, c.2)

/-- Every cell of a range set to zero. -/
def cellsClear (m : Cells 8) (a n : Nat) : Cells 8 :=
  m.filter fun c => decide (c.1 < a) || decide (a + n ≤ c.1)

/-- Listed cells placed at `a`. -/
def placeAt (l : Cells 8) (a : Nat) : List (Nat × Byte) := l.map fun c => (a + c.1, c.2)

/-- Little-endian bytes as a number (R3). -/
def natOfBytes : List Byte → Nat
  | [] => 0
  | b :: r => b.toNat + 256 * natOfBytes r

/-- The low `n` bytes of a number, little-endian. -/
def bytesOfNat (n x : Nat) : List Byte := (List.range n).map fun k => byteAt x k

/-- Bytes paired with their addresses from `a` upward. -/
def addressed (a : Nat) (bs : List Byte) : List (Nat × Byte) := bs.mapIdx fun i b => (a + i, b)

/-- The 32-bit word at `a`. -/
def wordAt (m : Cells 8) (a : Nat) : Word := BitVec.ofNat 32 (natOfBytes (bytesAt m a 4))

/-- Replace the elements that meet a test. -/
def updWhere (l : List α) (p : α → Bool) (f : α → α) : List α := l.map fun x => if p x then f x else x

/-- The value of a key in an association list, or a default. -/
def assoc [DecidableEq α] (l : List (α × β)) (k : α) (d : β) : β :=
  match l.find? fun x => x.1 = k with
  | some x => x.2
  | none => d

/-- Set the value of a key in an association list. -/
def setAssoc [DecidableEq α] (l : List (α × β)) (k : α) (v : β) : List (α × β) :=
  if l.any fun x => x.1 = k then l.map fun x => if x.1 = k then (k, v) else x else l ++ [(k, v)]

/-- Insert an element before the first that it may precede. -/
def insertBy (le : α → α → Bool) (x : α) : List α → List α
  | [] => [x]
  | y :: l => if le x y then x :: y :: l else y :: insertBy le x l

/-- A stable sort. -/
def sortBy (le : α → α → Bool) (l : List α) : List α := l.foldr (insertBy le) []

/-- Take a number for a new record, or an argument for a free value. -/
def freshId (s : State) : Nat × State := (s.fresh, { s with fresh := s.fresh + 1 })

/-! ### Addresses (R26, R125) -/

/-- The slice that holds an absolute address: tract and core, 0 to 511. -/
def sliceOf (a : Nat) : Nat := a / 2 ^ 23
/-- The offset within the slice. -/
def offsetOf (a : Nat) : Nat := a % 2 ^ 23
/-- The 128-byte line of an absolute address. -/
def lineOf (a : Nat) : Nat := a / 128
/-- The 32-byte sector of an absolute address. -/
def sectorOf (a : Nat) : Nat := a / 32
/-- The 4 KiB granule of an absolute address. -/
def granuleOf (a : Nat) : Nat := a / 4096
/-- The populated bytes of a slice (R26). -/
def sliceBytes : Nat := 0x600000
/-- The tract of a core. -/
def tractOf (core : Nat) : Nat := core / 64

/-! ### Owner tags in three copies (R125, R127) -/

/-- The value that at least two of three copies hold. -/
def majority [DecidableEq α] (a b c : α) : Option α :=
  if a = b ∨ a = c then some a else if b = c then some b else none

/-- One of the three copies of a granule's owner tag: the tag as written, unless the copy disagrees. -/
def tagCopy (s : State) (granule k : Nat) : Owner :=
  (s.sram.copies.findSome? fun e => match e with
    | .tag g c o => if g = granule ∧ c = k then some o else none
    | .presence _ _ _ => none).getD (assoc s.sram.owners granule .free)

/-- The owner tag of a granule, read by majority (R125). When all three copies differ the spec names none of
them, and a free value does (log entry 34). -/
def ownerTag (s : State) (granule : Nat) : Owner :=
  match s.sram.copies with
  | [] => assoc s.sram.owners granule .free
  | _ => (majority (tagCopy s granule 0) (tagCopy s granule 1) (tagCopy s granule 2)).getD
      (tagCopy s granule (Config.copyPick granule % 3))

/-- The owner tag of the granule of an address; a granule not listed is free (R127). -/
def ownerAt (s : State) (a : Nat) : Owner := ownerTag s (granuleOf a)

/-- Whether two tags mean the same holder: a party and the same party draining hold the same bytes. -/
def sameHolder (a b : Owner) : Bool :=
  match a, b with
  | .party t i, .draining u j => decide (t = u) && decide (i = j)
  | .draining t i, .party u j => decide (t = u) && decide (i = j)
  | _, _ => decide (a = b)

/-- Write owner tags. A granule whose tag is written has its three copies alike again (R125), and nothing of an
earlier holder's bytes is left for a load of the new one (R10, R160). -/
def setOwners (s : State) (l : List (Nat × Owner)) : State :=
  let was := fun g : Nat => assoc s.sram.owners g Owner.free
  { s with
    sram.owners := l
    sram.undo := s.sram.undo.filter fun u => sameHolder (was (granuleOf u.addr)) (assoc l (granuleOf u.addr) .free)
    sram.copies := s.sram.copies.filter fun e => match e with
      | .tag g _ _ => decide (was g = assoc l g .free)
      | .presence _ _ _ => true }

/-- Tag `n` granules from a granule-aligned address. -/
def tagGranules (l : List (Nat × Owner)) (a n : Nat) (o : Owner) : List (Nat × Owner) :=
  (List.range n).foldl (fun l i => setAssoc l (granuleOf a + i) o) l

/-- Free every granule whose owner meets a test. -/
def freeGranules (l : List (Nat × Owner)) (p : Owner → Bool) : List (Nat × Owner) :=
  l.filter fun x => !(p x.2)

/-- The granules a byte count fills. -/
def granules (n : Nat) : Nat := (n + 4095) / 4096

/-! ### Tasks, partitions, groups and paths -/

/-- The task record of a number. -/
def findTask (s : State) (uid : Nat) : Option Task := s.tasks.find? fun t => t.uid = uid

/-- Put a task record back. -/
def putTask (s : State) (t : Task) : State :=
  { s with tasks := updWhere s.tasks (fun x => decide (x.uid = t.uid)) fun _ => t }

/-- Change a task record. -/
def modTask (s : State) (uid : Nat) (f : Task → Task) : State :=
  { s with tasks := updWhere s.tasks (fun x => decide (x.uid = uid)) f }

/-- The partition of a number. -/
def findPart (s : State) (id : Nat) : Option Partition := s.parts.find? fun p => p.id = id

/-- The group of a number. -/
def findGroup (s : State) (gid : Nat) : Option Group := s.groups.find? fun g => g.gid = gid

/-- Put a group back. -/
def putGroup (s : State) (g : Group) : State :=
  { s with groups := updWhere s.groups (fun x => decide (x.gid = g.gid)) fun _ => g }

/-- Put a path back into its group. -/
def setPath (g : Group) (p : Path) : Group :=
  { g with paths := updWhere g.paths (fun x => decide (x.pid = p.pid)) fun _ => p }

/-- Put a group with one of its paths back. -/
def putPath (s : State) (g : Group) (p : Path) : State := putGroup s (setPath g p)

/-- The path of a number. -/
def findPath (g : Group) (pid : Nat) : Option Path := g.paths.find? fun p => p.pid = pid

/-- Run the effect of an instruction word for the path the cursor names. -/
def onPath (s : State) (f : Group → Path → Word → State) : Host.Outcome State Fault Refusal :=
  match s.cursor with
  | none => .fault .noIssuingPath
  | some c =>
    match findGroup s c.gid with
    | none => .fault .noIssuingPath
    | some g =>
      match findPath g c.pid with
      | none => .fault .noIssuingPath
      | some p => .next (f g p c.word)

/-- The placement of a party of a task. -/
def placeOf (t : Task) (party : Nat) : Option PartyPlace := t.places.find? fun x => x.index = party

/-- The absolute address of offset 0 of a party's scratch (R127). -/
def scratchBase (t : Task) (party : Nat) : Nat :=
  match placeOf t party with
  | some x => x.core * 2 ^ 23 + x.base
  | none => 0

/-- The region record of a task by number. -/
def regionOf (t : Task) (r : Nat) : Option Region := t.decl.regions[r]?

/-! ### Lanes, predicates and scalars (R34, R188, R189) -/

/-- The mask of all lanes of a group of width `w`. -/
def fullMask (w : Nat) : Mask := BitVec.ofNat 64 (2 ^ w - 1)

/-- The lanes of a mask in ascending order. -/
def lanesOf (m : Mask) : List Nat := (List.range 64).filter fun l => m.getLsbD l

/-- The lowest lane of a mask. -/
def lowest (m : Mask) : Option Nat := (lanesOf m).head?

/-- The mask of a list of lanes. -/
def maskOf (ls : List Nat) : Mask := ls.foldl (fun m l => m ||| BitVec.twoPow 64 l) 0

/-- A predicate of a path; `p7` reads as all ones. -/
def predOf (p : Path) (n : BitVec 3) : Mask := if h : n.toNat < 7 then p.p[n.toNat] else BitVec.allOnes 64

/-- The active lanes of an instruction with a guard (R34). -/
def activeMask (p : Path) (g : Guard) : Mask :=
  p.exec &&& (if g.inv then ~~~(predOf p g.p) else predOf p g.p)

/-- The guard 0b1111: no lane is ever active, and the instruction has no effect and raises no trap (R34). -/
def never (g : Guard) : Bool := g.inv && decide (g.p = 7)

/-- A scalar register of a path. -/
def sreg (p : Path) (r : Nat) : Word := if h : r < 32 then p.s[r] else 0

/-- Write a scalar register of a path. -/
def setSreg (p : Path) (r : Nat) (x : Word) : Path :=
  if h : r < 32 then { p with s := p.s.set r x } else p

/-- Write a predicate of a path under a mask of lanes; `p7` cannot be written. -/
def setPred (p : Path) (r : Nat) (lanes value : Mask) : Path :=
  if h : r < 7 then { p with p := p.p.set r ((p.p[r] &&& ~~~lanes) ||| (value &&& lanes)) } else p

/-- A rejoin mask of a path. -/
def jmask (p : Path) (r : Nat) : Mask := if h : r < 8 then p.j[r] else 0

/-- Write a rejoin mask of a path. -/
def setJmask (p : Path) (r : Nat) (m : Mask) : Path :=
  if h : r < 8 then { p with j := p.j.set r m } else p

/-- A lane register of a thread. -/
def vreg (t : Thread) (r : Nat) : Word := if h : r < 64 then t.v[r] else 0

/-- Write a lane register of a thread. -/
def setVreg (t : Thread) (r : Nat) (x : Word) : Thread :=
  if h : r < 64 then { t with v := t.v.set r x } else t

/-- The thread in a lane of a group. -/
def laneOf (g : Group) (l : Nat) : Thread := g.lanes[l]?.getD default

/-- Change the threads of the lanes of a mask. -/
def modLanes (g : Group) (m : Mask) (f : Nat → Thread → Thread) : Group :=
  { g with lanes := g.lanes.mapIdx fun l t => if m.getLsbD l then f l t else t }

/-- A lane register of a lane. -/
def laneReg (g : Group) (l r : Nat) : Word := vreg (laneOf g l) r

/-- The path after an instruction that falls through: the next word begins a sequence (R32). -/
def advance (p : Path) : Path := { p with pc := p.pc + 4, pre := Prefix.none, park := none }

/-- The path after a transfer of control to `t`. -/
def jumpTo (p : Path) (t : Word) : Path := { p with pc := t, pre := Prefix.none, park := none }

/-- The address of the first word of the sequence a path is in (R32). -/
def seqStart (p : Path) : Word := if p.pre.rank = 0 then p.pc else p.pre.start

/-- The path parked at the word it stands at, with its prefix state kept (R32). -/
def parked (p : Path) (k : Park) : Path := { p with park := some k }

/-- The immediate `IMMS` of R51. -/
def imms (p : Path) (f : BitVec 6) : Word :=
  match p.pre.hi with
  | some h => h ++ f
  | none => f.signExtend 32

/-- The immediate `IMMU` of R51. -/
def immu (p : Path) (f : BitVec 6) : Word :=
  match p.pre.hi with
  | some h => h ++ f
  | none => f.zeroExtend 32

/-! ### Frontiers (R155, R156) -/

/-- The least of a list; none stands for ∞. -/
def minOf (l : List Nat) : Option Nat := l.min?

/-- The step counts of the live threads of a group (R155). -/
def liveSteps (g : Group) : List Nat :=
  (g.lanes.filter fun t => t.state = .live).map fun t => t.step.toNat

/-- Whether a task's party lies in a domain. -/
def inDom (d : Dom) (task party : Nat) : Bool :=
  match d with
  | .party t i => t = task && i = party
  | .task t => t = task

/-- The threads of a reform bin with the task and party they belong to; handlers count nothing. -/
def binSteps (d : Dom) (b : Bin) : List Nat :=
  match b.key with
  | .reform t i _ => if inDom d t i then b.threads.map fun x => x.step.toNat else []
  | .handler _ _ _ => []

/-- `FRONTIER` of R155 of a domain: the least `fin` over its threads, none for ∞. -/
def frontier (s : State) (d : Dom) : Option Nat :=
  let gs := s.groups.filter fun g => g.handler.isNone && inDom d g.task g.party
  let os := s.sram.offers.filter fun o => o.req.isNone && inDom d o.task o.party
  minOf (gs.flatMap liveSteps ++ s.eng.bins.flatMap (binSteps d) ++ os.map (·.step))

/-- A frontier value is at least `n`. -/
def atLeast (f : Option Nat) (n : Nat) : Bool :=
  match f with
  | some x => n ≤ x
  | none => true

/-- The frontier of a domain as a slice knows it (R156). -/
def knownAt (s : State) (d : Dom) (slice : Nat) : Option Nat :=
  match s.sram.known.find? fun k => k.dom = d && k.slice = slice with
  | some k => k.value
  | none => some 0

/-- The scope domain of a byte (R153); none for an immutable region or an unowned byte. -/
def domainOf (s : State) (a : Nat) : Option Dom :=
  match ownerAt s a with
  | .party t i => some (.party t i)
  | .draining t i => some (.party t i)
  | .region t r =>
    match (findTask s t).bind fun x => regionOf x r with
    | some x => if x.kind = .shared then some (.task t) else none
    | none => none
  | _ => none

/-! ### The fault record and stopping (R274 to R278) -/

/-- Write the fault record of a task, unless the task has been told to stop already (R278). -/
def recordFrec (s : State) (task : Nat) (f : Frec) : State :=
  modTask s task fun t => if t.stop.isSome then t else { t with frec := f }

/-- Tell a task to stop with a kind (R277); its groups stop issuing and no landing follows. The rest
of the stop is the event TASK_STOP. The first stop stands. -/
def markStop (s : State) (task kind : Nat) : State :=
  modTask s task fun t => if t.stop.isSome then t else { t with stop := some kind }

/-- Record a fault and stop its task. -/
def stopWith (s : State) (task : Nat) (f : Frec) : State :=
  markStop (recordFrec s task f) task f.kind.toNat

/-- The bulk read of a number. -/
def findBulk (s : State) (id : Nat) : Option Bulk := s.eng.bulks.find? fun b => b.head.id = id

/-- Whether a burst has failed and is not yet counted. -/
def isFailed (b : Burst) : Bool :=
  match b.state with
  | .failed _ => true
  | _ => false

/-- Whether a burst is finished. -/
def isDone (b : Burst) : Bool :=
  match b.state with
  | .done _ => true
  | _ => false

/-- The live threads of a group. -/
def liveCount (g : Group) : Nat := (g.lanes.filter fun t => decide (t.state = .live)).length

/-- The record of an uncorrectable-memory stop (R274, R278). -/
def uncorrectable (step : Step) (tid : Word) (addr pc : Word) : Frec :=
  { kind := 0x0B, step := step, addr := addr, rule := 0, count := 0, tid0 := tid,
    tid1 := BitVec.allOnes 32, pc := pc }

/-! ### Taking a trap (R276) and returning from one (R289) -/

/-- A synchronous trap: its kind (R274), the reported lane, the word, the address and the information
it reports, and whether `TRET` is the word after the sequence. -/
structure TrapOf where
  kind : Nat
  lane : Nat
  word : Word
  addr : Word
  info : Word
  after : Bool

/-- The record a synchronous trap leaves in `FREC` (R278). -/
def trapFrec (s : State) (g : Group) (p : Path) (t : TrapOf) : Frec :=
  let x := laneOf g t.lane
  match g.handler.bind fun id => findBulk s id with
  | some b =>
    { kind := BitVec.ofNat 32 t.kind, step := BitVec.ofNat 64 (b.head.step + 1), addr := t.addr,
      rule := 0, count := BitVec.ofNat 32 b.tag, tid0 := x.bc[0], tid1 := BitVec.allOnes 32,
      pc := seqStart p }
  | none =>
    { kind := BitVec.ofNat 32 t.kind, step := x.step, addr := t.addr, rule := 0, count := t.info,
      tid0 := x.tid, tid1 := BitVec.allOnes 32, pc := seqStart p }

/-- The trap registers of one lane after a trap is taken (R276). -/
def trapThread (p : Path) (t : TrapOf) (x : Thread) : Thread :=
  { x with
    tkind := BitVec.ofNat 32 t.kind
    tpc := seqStart p
    tword := t.word
    taddr := t.addr
    tinfo := t.info
    tlane := BitVec.ofNat 32 t.lane
    tret := if t.after then p.pc + 4 else seqStart p
    tin := true }

/-- Take a synchronous trap on the issuing path (R276): record it, and either stop the task (a
handler group, a second trap, no trap handler) or enter the trap handler with every lane of the
path. -/
def takeTrap (s : State) (g : Group) (p : Path) (t : TrapOf) : State :=
  let f := trapFrec s g p t
  let s1 := recordFrec s g.task f
  let twice := (lanesOf p.exec).any fun l => (laneOf g l).tin
  if g.handler.isSome then markStop s1 g.task t.kind
  else if twice then
    stopWith s g.task { f with kind := 0x0C, count := BitVec.ofNat 32 t.kind }
  else if (laneOf g t.lane).tvec = 0 then markStop s1 g.task t.kind
  else putPath s1 (modLanes g p.exec fun _ x => trapThread p t x) (jumpTo p (laneOf g t.lane).tvec)

/-- The reported lane of a trap no single lane causes (R276): the lowest active lane, or otherwise
the lowest lane of `EXEC`. -/
def reportLane (p : Path) (active : Mask) : Nat := (lowest active).getD ((lowest p.exec).getD 0)

/-- A trap that reports no address and no information. -/
def plainTrap (kind lane : Nat) (word : Word) : TrapOf :=
  { kind := kind, lane := lane, word := word, addr := 0, info := 0, after := false }

/-- The majors whose format has no guard field (R34, R42, R46), and those that have no format. -/
def noGuard : List Nat :=
  [0x00, 0x1D, 0x1E, 0x23, 0x35, 0x36, 0x37, 0x3B, 0x3C, 0x3D, 0x3E, 0x3F]

/-- The active lanes under the guard field of a word (R34, R37; in `BRA`, bits 25:22, R46), whatever the rest of
it says. -/
def wordActive (p : Path) (w : Word) : Mask :=
  if (w >>> 26).toNat ∈ noGuard then p.exec
  else if (w >>> 26).toNat = 0x34 then activeMask p { inv := w.getLsbD 25, p := w.extractLsb' 22 3 }
  else activeMask p { inv := w.getLsbD 7, p := w.extractLsb' 4 3 }

/-- The illegal-instruction trap of R57 for a word. The reported lane is the lowest active lane, or otherwise
the lowest of `EXEC` (R276; log entry 13). -/
def illegalTrap (s : State) (g : Group) (p : Path) (w : Word) : State :=
  takeTrap s g p (plainTrap 0x01 (reportLane p (wordActive p w)) w)

/-- A control trap (R242). -/
def controlTrap (s : State) (g : Group) (p : Path) (active : Mask) (w : Word) : State :=
  takeTrap s g p (plainTrap 0x06 (reportLane p active) w)

/-- A handler-rule trap (R112). -/
def handlerTrap (s : State) (g : Group) (p : Path) (active : Mask) (w : Word) : State :=
  takeTrap s g p (plainTrap 0x04 (reportLane p active) w)

/-- An instruction-address trap that reports `a` (R31, R244). -/
def addressTrap (s : State) (g : Group) (p : Path) (lane : Nat) (w a : Word) : State :=
  takeTrap s g p { plainTrap 0x02 lane w with addr := a }

/-- The code of a space in `TINFO` (R274). -/
def spaceBits (sp : Space) : Word :=
  match sp with
  | .party => 0
  | .task => 1
  | .immutable => 2

/-- A memory-address trap (R140): the address in the form of its space, and in `TINFO` the space and
whether a store was meant. -/
def memoryTrap (s : State) (g : Group) (p : Path) (lane : Nat) (w : Word) (sp : Space) (store : Bool)
    (a : Nat) : State :=
  takeTrap s g p { plainTrap 0x03 lane w with
    addr := BitVec.ofNat 32 a
    info := spaceBits sp ||| (if store then 4 else 0) }

/-- `UNIFORM` of R242: none when the lanes of `EXEC` disagree. -/
def uniform (p : Path) (c : Mask) : Option Bool :=
  if p.exec &&& ~~~c = 0 then some true else if p.exec &&& c = 0 then some false else none

/-- The threads of a path after a return from the trap handler: `TIN` is clear (R289). -/
def leaveTrap (g : Group) (p : Path) : Group := modLanes g p.exec fun _ x => { x with tin := false }

/-! ### Code (R31, R303) -/

/-- The code instance a task runs. -/
def instanceOf (s : State) (t : Task) : Option Instance :=
  t.inst.bind fun i => s.instances.find? fun x => x.id = i

/-- Whether an address lies in the code image and is a multiple of 4 (R31). -/
def inImage (s : State) (task : Nat) (a : Word) : Bool :=
  match (findTask s task).bind (instanceOf s) with
  | some i => a.toNat % 4 = 0 && i.pcBase.toNat ≤ a.toNat && a.toNat < i.pcBase.toNat + 4 * i.words
  | none => false

/-- Whether an address is the last word of the code image (R56). -/
def lastWord (s : State) (task : Nat) (a : Word) : Bool :=
  match (findTask s task).bind (instanceOf s) with
  | some i => a.toNat + 4 = i.pcBase.toNat + 4 * i.words
  | none => false

/-- The word at an address of the code image: from the core's code cache, its tract's, or the instance (R303). -/
def fetchWord (s : State) (core task : Nat) (a : Word) : Word :=
  match (findTask s task).bind (instanceOf s) with
  | some i =>
    let n := (a.toNat - i.pcBase.toNat) / 4
    match s.codeCache.find? fun c => c.1 = (core, i.id, n) with
    | some c => c.2
    | none =>
      match s.tractCode.find? fun c => c.1 = (tractOf core, i.id, n) with
      | some c => c.2
      | none => wordAt s.dram.mem (i.dpa + 4 * n)
  | none => 0

/-- Add a word to a code cache of `n` words that holder `h` owns; a full one first loses its oldest word
(R303 names no order; log entry 70). -/
def cacheWord (l : List ((Nat × Nat × Nat) × Word)) (n : Nat) (k : Nat × Nat × Nat) (w : Word) :
    List ((Nat × Nat × Nat) × Word) :=
  if l.any fun c => c.1 = k then l
  else
    let l1 := if n ≤ (l.filter fun c => decide (c.1.1 = k.1)).length
      then l.eraseP fun c => decide (c.1.1 = k.1) else l
    l1 ++ [(k, w)]

/-- The indices of the words of an instance that one 64-byte burst holds, the wanted word `n` last: instances begin at a
burst. -/
def burstMates (i : Instance) (n : Nat) : List Nat :=
  (((List.range 16).map fun j => n / 16 * 16 + j).filter fun k => decide (k < i.words) && decide (k ≠ n)) ++ [n]

/-- The words of an instance that stand in some places, with their cache keys for holder `h`. -/
def cacheWords (s : State) (l : List ((Nat × Nat × Nat) × Word)) (n h : Nat) (i : Instance) (ks : List Nat) :
    List ((Nat × Nat × Nat) × Word) :=
  ks.foldl (fun l k => cacheWord l n (h, i.id, k) (wordAt s.dram.mem (i.dpa + 4 * k))) l

end Sys2Proof.Machine
end

