-- ==== Sys2Proof/Machine/Operands.lean ====
section
/-!
DEFINITION. Every operand form of the lane and scalar instructions (R34 to R37, R51 to R54): which
`IMM` and `MOD` prefixes a word accepts, how `MOD` replaces and modifies operands A and B, and the one
operation by which a lane instruction reads its operands, writes its results and moves on (R189,
R190, R203).
-/

namespace Sys2Proof.Machine

open Sys2Proof

/-! ### Accepted prefixes -/

/-- The rows of the acceptance table of R54, by the fields they mark. -/
inductive ModRow where
  | sat | plain | float | fscale | signA | signRound | signs | signScale | round
  deriving DecidableEq, Repr

/-- A register field under a source selector: as encoded; a scalar register, bit 5 zero; zero, with
the field zero (R53). -/
def sourceOk (sel : BitVec 2) (f : BitVec 6) : Bool :=
  if sel = 0 then true else if sel = 1 then decide (f.toNat < 32) else decide (f = 0)

/-- Whether a row of R54 accepts the non-zero fields of a `MOD` word: `a` and `b` are the register
fields that SA and SB may replace, none where the row does not take the selector. With S = 1 both
selectors must be 0. -/
def modOk (m : ModWord) (row : ModRow) (a b : Option (BitVec 6)) (sc : Bool) : Bool :=
  let satOk := decide (row = .sat) || decide (m.sat = 0)
  let clmpOk := decide (row = .float) || decide (row = .fscale) || !m.clmp
  let aOk := decide (row ∈ [ModRow.float, .fscale, .signA, .signRound, .signs, .signScale]) ||
    (!m.na && !m.aa)
  let bOk := decide (row ∈ [ModRow.float, .signs]) || (!m.nb && !m.ab)
  let sclOk := decide (row ∈ [ModRow.float, .signScale]) || decide (m.scl = 0)
  let rmOk := decide (row ∈ [ModRow.float, .fscale, .signRound, .round]) || decide (m.rm = 0)
  let saOk := match a with
    | some f => sourceOk m.sa f
    | none => decide (m.sa = 0)
  let sbOk := match b with
    | some f => sourceOk m.sb f
    | none => decide (m.sb = 0)
  satOk && clmpOk && aOk && bOk && sclOk && rmOk && saOk && sbOk &&
    (!sc || (decide (m.sa = 0) && decide (m.sb = 0)))

/-- The acceptance of `MOD` by `CVT` (R54, R215). -/
def cvtModOk (m : ModWord) (dst src : Ty) (a : BitVec 6) : Bool :=
  let floatSrc := tyFloat src
  let ints := !floatSrc && !tyFloat dst
  let satOk := decide (m.sat = 0) || (ints && decide (m.sat = if tySigned dst then 1#2 else 2#2))
  satOk && !m.clmp && (floatSrc || (!m.na && !m.aa)) && !m.nb && !m.ab &&
    (floatSrc || decide (m.scl = 0)) && (!ints || decide (m.rm = 0)) &&
    sourceOk m.sa a && decide (m.sb = 0)

/-- Whether an instruction accepts an `IMM` prefix that carries `hi` (R50, R103, R124). -/
def acceptsImm (hi : BitVec 26) : Instr → Bool
  | .addImm _ _ _ _ _ => true
  | .subImm _ _ _ _ _ => true
  | .mulImm _ _ _ _ _ => true
  | .mulhiImm _ _ _ _ _ => true
  | .mulhuImm _ _ _ _ _ => true
  | .madImm _ _ _ _ _ => true
  | .minImm _ _ _ _ _ => true
  | .maxImm _ _ _ _ _ => true
  | .minuImm _ _ _ _ _ => true
  | .maxuImm _ _ _ _ _ => true
  | .andImm _ _ _ _ _ => true
  | .orImm _ _ _ _ _ => true
  | .xorImm _ _ _ _ _ => true
  | .andnImm _ _ _ _ _ => true
  | .rolImm _ _ _ _ _ => true
  | .shlImm _ _ _ _ _ => true
  | .shrImm _ _ _ _ _ => true
  | .sarImm _ _ _ _ _ => true
  | .divsImm _ _ _ _ _ => true
  | .divuImm _ _ _ _ _ => true
  | .remsImm _ _ _ _ _ => true
  | .remuImm _ _ _ _ _ => true
  | .leaImm _ _ _ _ _ => true
  | .add64Imm _ _ _ _ _ => true
  | .sub64Imm _ _ _ _ _ => true
  | .shl64Imm _ _ _ _ _ => true
  | .shr64Imm _ _ _ _ _ => true
  | .movi _ _ _ _ => true
  | .bfxImm _ _ _ _ _ => true
  | .bfxuImm _ _ _ _ _ => true
  | .bfiImm _ _ _ _ _ => true
  | .cmpImm _ _ _ _ _ _ => true
  | .fcmpImm _ _ _ _ _ _ => true
  | .shflImm _ _ _ _ => true
  | .bcastImm _ _ _ _ => true
  | .rdlaneImm _ _ _ _ => true
  | .wrlaneImm _ _ _ _ => true
  | .faddImm _ _ _ _ _ => true
  | .fsubImm _ _ _ _ _ => true
  | .fmulImm _ _ _ _ _ => true
  | .ffmaImm _ _ _ _ _ => true
  | .fminImm _ _ _ _ _ => true
  | .fmaxImm _ _ _ _ _ => true
  | .fscaleImm _ _ _ _ _ => true
  | .lds _ _ _ _ _ => true
  | .sts _ _ _ _ _ _ => true
  | .watch _ _ _ _ _ => true
  | .pres _ _ _ _ _ => true
  | .absa _ _ _ _ => true
  | .rela _ _ _ _ => true
  | .ld _ _ _ _ _ _ => true
  | .stP _ _ _ _ _ _ => true
  | .stG _ _ _ _ _ _ => true
  | .stK _ _ _ _ _ _ => true
  | .trd _ _ _ _ _ _ => true
  | .twr _ _ _ _ _ _ => true
  | .copy _ _ _ _ => true
  | .cpys _ _ => decide (hi = 0)
  | .brd _ _ _ _ => true
  | .brdi _ _ _ _ => true
  | .hend _ => decide (hi = 0)
  | .jmpr _ _ _ => true
  | .pacen _ _ => true
  | .trap _ _ => true
  | _ => false

/-- Whether an instruction accepts a `MOD` word with these non-zero fields (R54, R103, R215). -/
def acceptsMod (m : ModWord) : Instr → Bool
  | .add _ a b _ sc => modOk m .sat (some a) (some b) sc
  | .sub _ a b _ sc => modOk m .sat (some a) (some b) sc
  | .mul _ a b _ sc => modOk m .sat (some a) (some b) sc
  | .mulhi _ a b _ sc => modOk m .plain (some a) (some b) sc
  | .mulhu _ a b _ sc => modOk m .plain (some a) (some b) sc
  | .mad _ a b _ sc => modOk m .sat (some a) (some b) sc
  | .min _ a b _ sc => modOk m .plain (some a) (some b) sc
  | .max _ a b _ sc => modOk m .plain (some a) (some b) sc
  | .addImm _ a _ _ sc => modOk m .sat (some a) none sc
  | .subImm _ a _ _ sc => modOk m .sat (some a) none sc
  | .mulImm _ a _ _ sc => modOk m .sat (some a) none sc
  | .mulhiImm _ a _ _ sc => modOk m .plain (some a) none sc
  | .mulhuImm _ a _ _ sc => modOk m .plain (some a) none sc
  | .madImm _ a _ _ sc => modOk m .sat (some a) none sc
  | .minImm _ a _ _ sc => modOk m .plain (some a) none sc
  | .maxImm _ a _ _ sc => modOk m .plain (some a) none sc
  | .minu _ a b _ sc => modOk m .plain (some a) (some b) sc
  | .maxu _ a b _ sc => modOk m .plain (some a) (some b) sc
  | .and _ a b _ sc => modOk m .plain (some a) (some b) sc
  | .or _ a b _ sc => modOk m .plain (some a) (some b) sc
  | .xor _ a b _ sc => modOk m .plain (some a) (some b) sc
  | .andn _ a b _ sc => modOk m .plain (some a) (some b) sc
  | .rol _ a b _ sc => modOk m .plain (some a) (some b) sc
  | .minuImm _ a _ _ sc => modOk m .plain (some a) none sc
  | .maxuImm _ a _ _ sc => modOk m .plain (some a) none sc
  | .andImm _ a _ _ sc => modOk m .plain (some a) none sc
  | .orImm _ a _ _ sc => modOk m .plain (some a) none sc
  | .xorImm _ a _ _ sc => modOk m .plain (some a) none sc
  | .andnImm _ a _ _ sc => modOk m .plain (some a) none sc
  | .rolImm _ a _ _ sc => modOk m .plain (some a) none sc
  | .shl _ a b _ sc => modOk m .plain (some a) (some b) sc
  | .shr _ a b _ sc => modOk m .plain (some a) (some b) sc
  | .sar _ a b _ sc => modOk m .plain (some a) (some b) sc
  | .divs _ a b _ sc => modOk m .plain (some a) (some b) sc
  | .divu _ a b _ sc => modOk m .plain (some a) (some b) sc
  | .rems _ a b _ sc => modOk m .plain (some a) (some b) sc
  | .remu _ a b _ sc => modOk m .plain (some a) (some b) sc
  | .lea _ a b _ sc => modOk m .plain (some a) (some b) sc
  | .shlImm _ a _ _ sc => modOk m .plain (some a) none sc
  | .shrImm _ a _ _ sc => modOk m .plain (some a) none sc
  | .sarImm _ a _ _ sc => modOk m .plain (some a) none sc
  | .divsImm _ a _ _ sc => modOk m .plain (some a) none sc
  | .divuImm _ a _ _ sc => modOk m .plain (some a) none sc
  | .remsImm _ a _ _ sc => modOk m .plain (some a) none sc
  | .remuImm _ a _ _ sc => modOk m .plain (some a) none sc
  | .leaImm _ a _ _ sc => modOk m .plain (some a) none sc
  | .add64 _ a b _ sc => modOk m .sat (some a) (some b) sc
  | .sub64 _ a b _ sc => modOk m .sat (some a) (some b) sc
  | .shl64 _ a b _ sc => modOk m .plain (some a) (some b) sc
  | .shr64 _ a b _ sc => modOk m .plain (some a) (some b) sc
  | .add64Imm _ a _ _ sc => modOk m .sat (some a) none sc
  | .sub64Imm _ a _ _ sc => modOk m .sat (some a) none sc
  | .shl64Imm _ a _ _ sc => modOk m .plain (some a) none sc
  | .shr64Imm _ a _ _ sc => modOk m .plain (some a) none sc
  | .mov _ a _ sc => modOk m .plain (some a) (some 0) sc
  | .clz _ a _ sc => modOk m .plain (some a) (some 0) sc
  | .popc _ a _ sc => modOk m .plain (some a) (some 0) sc
  | .brev _ a _ sc => modOk m .plain (some a) (some 0) sc
  | .bfx _ a b _ sc => modOk m .plain (some a) (some b) sc
  | .bfxu _ a b _ sc => modOk m .plain (some a) (some b) sc
  | .bfi _ a b _ sc => modOk m .plain (some a) (some b) sc
  | .movi _ _ _ sc => modOk m .plain (some 0) none sc
  | .bfxImm _ a _ _ sc => modOk m .plain (some a) none sc
  | .bfxuImm _ a _ _ sc => modOk m .plain (some a) none sc
  | .bfiImm _ a _ _ sc => modOk m .plain (some a) none sc
  | .sel _ a b _ sc _ => modOk m .plain (some a) (some b) sc
  | .cmp _ a b _ sc _ => modOk m .plain (some a) (some b) sc
  | .cmpImm _ a _ _ sc _ => modOk m .plain (some a) none sc
  | .fcmp _ a b _ sc _ => modOk m .signs (some a) (some b) sc
  | .fcmpImm _ a _ _ sc _ => modOk m .signs (some a) none sc
  | .dcmp _ a b _ _ => modOk m .signs (some a) (some b) false
  | .fadd _ a b _ sc => modOk m .float (some a) (some b) sc
  | .fsub _ a b _ sc => modOk m .float (some a) (some b) sc
  | .fmul _ a b _ sc => modOk m .float (some a) (some b) sc
  | .ffma _ a b _ sc => modOk m .float (some a) (some b) sc
  | .fmin _ a b _ sc => modOk m .float (some a) (some b) sc
  | .fmax _ a b _ sc => modOk m .float (some a) (some b) sc
  | .fscale _ a b _ sc => modOk m .fscale (some a) (some b) sc
  | .faddImm _ a _ _ sc => modOk m .float (some a) none sc
  | .fsubImm _ a _ _ sc => modOk m .float (some a) none sc
  | .fmulImm _ a _ _ sc => modOk m .float (some a) none sc
  | .ffmaImm _ a _ _ sc => modOk m .float (some a) none sc
  | .fminImm _ a _ _ sc => modOk m .float (some a) none sc
  | .fmaxImm _ a _ _ sc => modOk m .float (some a) none sc
  | .fscaleImm _ a _ _ sc => modOk m .fscale (some a) none sc
  | .frcpe _ a _ sc => modOk m .signA (some a) none sc
  | .frsqe _ a _ sc => modOk m .signA (some a) none sc
  | .frnd _ a _ sc => modOk m .signRound (some a) none sc
  | .fclass _ a _ sc => modOk m .plain (some a) none sc
  | .dadd _ a b _ => modOk m .float (some a) (some b) false
  | .dsub _ a b _ => modOk m .float (some a) (some b) false
  | .dmul _ a b _ => modOk m .float (some a) (some b) false
  | .dfma _ a b _ => modOk m .float (some a) (some b) false
  | .dmin _ a b _ => modOk m .float (some a) (some b) false
  | .dmax _ a b _ => modOk m .float (some a) (some b) false
  | .hadd2F16 _ a b _ => modOk m .float (some a) (some b) false
  | .hmul2F16 _ a b _ => modOk m .float (some a) (some b) false
  | .hfma2F16 _ a b _ => modOk m .float (some a) (some b) false
  | .hadd2Bf16 _ a b _ => modOk m .float (some a) (some b) false
  | .hmul2Bf16 _ a b _ => modOk m .float (some a) (some b) false
  | .hfma2Bf16 _ a b _ => modOk m .float (some a) (some b) false
  | .cvt _ a src _ ty => cvtModOk m ty src a
  | .cvtsr _ a _ _ _ => modOk m .signScale (some a) none false
  | .pack8 _ a b _ _ => modOk m .round (some a) (some b) false
  | .unpk8 _ a _ _ => modOk m .plain (some a) none false
  | .pack4 _ a b _ _ => modOk m .round (some a) (some b) false
  | .unpk4 _ a _ _ => modOk m .plain (some a) none false
  | .watch _ a _ _ _ => modOk m .plain (some a) none false
  | .pres _ a _ _ _ => modOk m .plain (some a) none false
  | .absa _ a _ _ => modOk m .plain (some a) none false
  | .rela _ a _ _ => modOk m .plain (some a) none false
  | .ld _ _ a _ _ _ => modOk m .plain (some a) none false
  | .stP _ d a _ _ _ => modOk m .plain (some a) (some d) false
  | .stG _ d a _ _ _ => modOk m .plain (some a) (some d) false
  | .stK _ d a _ _ _ => modOk m .plain (some a) (some d) false
  | .copy a _ _ _ => modOk m .plain (some a) none false
  | .cpys a _ => modOk m .plain (some a) none false && decide (m.sa ≠ 2#2)
  | .brd a _ _ _ => modOk m .plain (some a) none false
  | .brdi a _ _ _ => modOk m .plain (some a) none false
  | _ => false
/-- The prefix state of a path is accepted by an instruction word (R50, R54, R58). -/
def prefixOk (p : Path) (i : Instr) : Bool :=
  (match p.pre.mod with
    | some m => acceptsMod m i
    | none => true) &&
  (match p.pre.hi with
    | some h => acceptsImm h i
    | none => true)

/-! ### Reading operands -/

/-- The `MOD` word in force; all zero when none was seen. -/
def modOf (p : Path) : ModWord := p.pre.mod.getD default

/-- Operand B: a register of the instruction, or its immediate in one of the two readings of R51
(R37). -/
inductive BSrc where
  | reg (r : BitVec 6)
  | imms (f : BitVec 6)
  | immu (f : BitVec 6)

/-- A register of the kind S chooses: scalar, or lane register of lane `l` (R36). -/
def regRead (g : Group) (p : Path) (sc : Bool) (l r : Nat) : Word :=
  if sc then sreg p r else laneReg g l r

/-- A register under a source selector of `MOD` (R53). -/
def selRead (g : Group) (p : Path) (sc : Bool) (sel : BitVec 2) (l r : Nat) : Word :=
  if sel = 0 then regRead g p sc l r else if sel = 1 then sreg p r else 0

/-- Operand A of a lane, `k` registers above its field. -/
def opA (g : Group) (p : Path) (sc : Bool) (a : BitVec 6) (l : Nat) (k : Nat := 0) : Word :=
  selRead g p sc (modOf p).sa l (a.toNat + k)

/-- Operand B of a lane, `k` registers above its field; an immediate is the same in every lane. -/
def opB (g : Group) (p : Path) (sc : Bool) (b : BSrc) (l : Nat) (k : Nat := 0) : Word :=
  match b with
  | .reg r => selRead g p sc (modOf p).sb l (r.toNat + k)
  | .imms f => imms p f
  | .immu f => immu p f

/-- A pair as a 64-bit number, low word in the even register (R35, R169). -/
def pairNat (lo hi : Word) : Nat := lo.toNat + 2 ^ 32 * hi.toNat

/-- The pair of operand A. -/
def pairA (g : Group) (p : Path) (sc : Bool) (a : BitVec 6) (l : Nat) : Nat :=
  pairNat (opA g p sc a l) (opA g p sc a l 1)

/-- The pair of operand B; an immediate is sign-extended to 64 bits (R51). -/
def pairB (g : Group) (p : Path) (sc : Bool) (b : BSrc) (l : Nat) : Nat :=
  match b with
  | .reg _ => pairNat (opB g p sc b l) (opB g p sc b l 1)
  | _ => ((opB g p sc b l).signExtend 64).toNat

/-- The sign modifiers of `MOD` on a float pattern (R53): absolute value, then negation. -/
def signMod (f : Fmt) (abs neg : Bool) (b : Nat) : Nat :=
  let s := 2 ^ (f.bits - 1)
  let b := if abs then b % s else b
  if neg then (if b / s % 2 = 1 then b - s else b + s) else b

/-- The exponent SCL of `MOD` (R52). -/
def sclOf (m : ModWord) : Int := m.scl.toInt

/-- The rounding mode: `MOD` RM when it is non-zero, otherwise the instruction's default (R203). -/
def modeOf (m : ModWord) (dflt : RMode) : RMode :=
  match m.rm.toNat with
  | 1 => .rne
  | 2 => .rtz
  | 3 => .rup
  | 4 => .rdn
  | _ => dflt

/-! ### Lane instructions -/

/-- What one execution of a lane instruction writes: registers and the flags it raises. -/
structure LaneOut where
  regs : List (Nat × Word)
  flags : Word

/-- A single register result without flags. -/
def out1 (d : BitVec 6) (x : Word) : LaneOut := { regs := [(d.toNat, x)], flags := 0 }

/-- A pair result, low word first. -/
def out2 (d : BitVec 6) (x : Nat) (fl : Word) : LaneOut :=
  { regs := [(d.toNat, BitVec.ofNat 32 x), (d.toNat + 1, BitVec.ofNat 32 (x / 2 ^ 32))], flags := fl }

/-- A thread after the results of its lane: flags are sticky (R186). -/
def applyOut (t : Thread) (o : LaneOut) : Thread :=
  { o.regs.foldl (fun t x => setVreg t x.1 x.2) t with flags := t.flags ||| o.flags }

/-- The common effect of a lane instruction (R190, R203): each active lane computes from the state
before the instruction and writes its own registers and flags; with S = 1 the operation runs once
for the lowest active lane on scalar registers, and its flags go to that lane (R187). -/
def laneEffect (gd : Guard) (sc : Bool) (f : Group → Path → Nat → LaneOut) (g : Group) (p : Path) :
    Group × Path :=
  let act := activeMask p gd
  if sc then
    match lowest act with
    | none => (g, advance p)
    | some l =>
      let o := f g p l
      (modLanes g (BitVec.twoPow 64 l) fun _ t => { t with flags := t.flags ||| o.flags },
        advance (o.regs.foldl (fun p x => setSreg p x.1 x.2) p))
  else (modLanes g act fun l t => applyOut t (f g p l), advance p)

/-- A lane instruction as a step of the machine. -/
def laneOp (gd : Guard) (sc : Bool) (f : Group → Path → Nat → LaneOut) (s : State) :
    Host.Outcome State Fault Refusal :=
  onPath s fun g p _ =>
    let r := laneEffect gd sc f g p
    putPath s r.1 r.2

/-- A comparison (R196, R213): each active lane writes its bit of the destination predicate; with
S = 1 the comparison is made once and written into every bit. Flags are merged as R187 gives. -/
def compareEffect (gd : Guard) (sc : Bool) (pd : BitVec 3) (f : Group → Path → Nat → Bool × Word)
    (g : Group) (p : Path) : Group × Path :=
  let act := activeMask p gd
  if sc then
    match lowest act with
    | none => (g, advance p)
    | some l =>
      let r := f g p l
      (modLanes g (BitVec.twoPow 64 l) fun _ t => { t with flags := t.flags ||| r.2 },
        advance (setPred p pd.toNat (fullMask g.width) (if r.1 then BitVec.allOnes 64 else 0)))
  else
    (modLanes g act fun l t => { t with flags := t.flags ||| (f g p l).2 },
      advance (setPred p pd.toNat act (maskOf ((lanesOf act).filter fun l => (f g p l).1))))

/-- A comparison as a step of the machine. -/
def compareOp (gd : Guard) (sc : Bool) (pd : BitVec 3) (f : Group → Path → Nat → Bool × Word)
    (s : State) : Host.Outcome State Fault Refusal :=
  onPath s fun g p _ =>
    let r := compareEffect gd sc pd f g p
    putPath s r.1 r.2

end Sys2Proof.Machine
end

