-- ==== Sys2Proof/Machine/Memory.lean ====
section
/-!
DEFINITION. The shared operations of the slices: address checks (R139, R140), the bank code (R134 to
R138), loads and their waits (R28, R141, R160), offering and accepting stores (R129 to R133, R158),
same-step resolution (R145 to R148), landings (R130, R159, R161), unstepped counter updates (R99, R164)
and watch tests (R150).
-/

namespace Sys2Proof.Machine

open Sys2Proof

/-! ### The bank code (R134 to R138) -/

/-- The error registers of a slice; a slice not listed reads zero. -/
def sliceReg (s : State) (slice : Nat) : SliceReg :=
  (s.sram.slices.find? fun r => r.slice = slice).getD
    { slice := slice, fb1 := none, fb2 := none, unc := 0, slcorr := 0, sluaddr := 0, passCorr := [],
      scrubAt := 0, rebuildAt := none }

/-- Put the error registers of a slice back. -/
def putSliceReg (s : State) (r : SliceReg) : State :=
  { s with sram.slices := s.sram.slices.filter (fun x => decide (x.slice ≠ r.slice)) ++ [r] }

/-- The failed banks of a slice. -/
def failedBanks (r : SliceReg) : List Nat := r.fb1.toList ++ r.fb2.toList

/-- The failed banks that count as erasures in a sector, by its number in the slice (R137): while the rebuild pass of a
first failed bank has not reached the sector, it is decoded with full correction. -/
def erasedBanks (r : SliceReg) (index : Nat) : List Nat :=
  match r.fb1, r.fb2, r.rebuildAt with
  | some b, none, some k => if index < k then [b] else []
  | _, _, _ => failedBanks r

/-- The erasures of a sector. -/
def erasures (s : State) (sector : Nat) : List Nat :=
  erasedBanks (sliceReg s (sliceOf (sector * 32))) (sector % 2 ^ 18)

/-- The stored symbols of a sector that differ from its codeword, erasures apart. -/
def sectorFlips (s : State) (sector : Nat) : List (Nat × Symbol) :=
  (s.sram.flips.filter fun e => decide (e.1.1 = sector) && decide (e.2 ≠ 0) &&
    !(erasures s sector).contains e.1.2).map fun e => (e.1.2, e.2)

/-- The banks in error in a sector, erasures apart. -/
def sectorErrors (s : State) (sector : Nat) : List Nat := ((sectorFlips s sector).map (·.1)).dedup

/-- The 18 symbols of a sector as its banks hold them (R125, R134). -/
def storedSymbols (s : State) (sector : Nat) : List Symbol :=
  (sectorFlips s sector).foldl (fun c e => fixSymbol c e.1 e.2)
    (encodeSymbols (symbolsOf (bytesAt s.sram.mem (sector * 32) 32)))

/-- What decoding a sector yields (R134). A sector whose symbols all are as written decodes to itself. -/
def sectorOutcome (s : State) (sector : Nat) : CodeOutcome :=
  if (sectorErrors s sector).isEmpty then .clean (symbolsOf (bytesAt s.sram.mem (sector * 32) 32))
  else decodeSymbols (erasures s sector) (storedSymbols s sector)

/-- Whether a sector cannot be decoded (R134, R135, R137). -/
def sectorBad (s : State) (sector : Nat) : Bool :=
  match sectorOutcome s sector with
  | .bad => true
  | _ => false

/-- The bank whose symbol the decoding of a sector corrects. -/
def correctedBank (s : State) (sector : Nat) : Option Nat :=
  match sectorOutcome s sector with
  | .corrected _ b => some b
  | _ => none

/-- Forget the errors of a sector that has been rewritten. -/
def clearErrors (s : State) (sector : Nat) : State :=
  if s.sram.flips.any fun e => decide (e.1.1 = sector) then
    { s with sram.flips := s.sram.flips.filter fun e => decide (e.1.1 ≠ sector) }
  else s

/-- A saturating increment of a 32-bit count. -/
def satInc (n : Nat) : Nat := min (n + 1) 0xFFFFFFFF

/-- The sector with the symbols that a decoding delivered. -/
def rewriteSector (s : State) (sector : Nat) (c : List Symbol) : State :=
  { clearErrors s sector with
    sram.mem := cellSetAll s.sram.mem (addressed (sector * 32) (bytesOfSymbols (c.take 16))) }

/-- Reading a sector whole (R134): what the decoding delivers is what stands there afterwards, a single symbol
error is written back corrected and counted, and the symbols of two failed banks are rebuilt. -/
def readSector (s : State) (sector : Nat) : State :=
  if (sectorErrors s sector).isEmpty then s
  else
    match sectorOutcome s sector with
    | .bad => s
    | .corrected c _ =>
      let r := sliceReg s (sliceOf (sector * 32))
      putSliceReg (rewriteSector s sector c) { r with slcorr := satInc r.slcorr }
    | .clean c | .rebuilt c => rewriteSector s sector c

/-- The count of an uncorrectable sector that has been met (R135). -/
def countBad (s : State) (sector : Nat) : State :=
  let r := sliceReg s (sliceOf (sector * 32))
  putSliceReg s { r with unc := min (r.unc + 1) 255, sluaddr := offsetOf (sector * 32) }

/-- On whose behalf a slice is accessed: the task, and the step, `TID` and sequence that an
uncorrectable-memory stop records (R278). -/
structure Who where
  task : Nat
  step : Step
  tid : Word
  pc : Word

/-- An access met an uncorrectable sector: count it and stop the task (R135). -/
def stopBad (s : State) (w : Who) (sector : Nat) : State :=
  stopWith (countBad s sector) w.task
    (uncorrectable w.step w.tid (BitVec.ofNat 32 (sector * 32)) w.pc)

/-! ### Watches (R150) -/

/-- Whether a word meets the condition of a `WATCH`. -/
def watchMet (c : WCond) (w : Word) : Bool :=
  let count := w &&& 0x00FFFFFF
  let err := w >>> 24
  match c with
  | .z => decide (count = 0)
  | .nz => decide (count ≠ 0)
  | .ze => decide (count = 0) || decide (err ≠ 0)
  | .e => decide (err ≠ 0)

/-- Test the words of a watch against the slices; a word once satisfied stays so. A test follows a read or a write of its
word's sector, in which no symbol is then in error: a word in a sector with an error has not changed and is not tested. -/
def testWords (s : State) (c : WCond) (ws : List (Nat × Bool)) : List (Nat × Bool) :=
  ws.map fun w => (w.1, w.2 || ((sectorErrors s (sectorOf w.1)).isEmpty && watchMet c (wordAt s.sram.mem w.1)))

/-- A path after its watched words have been tested: it resumes when every word is satisfied. -/
def rewatchPath (s : State) (p : Path) : Path :=
  match p.park with
  | some (.watch c ws) =>
    let ws' := testWords s c ws
    if ws'.all (·.2) then advance p else { p with park := some (.watch c ws') }
  | _ => p

/-- Every watched word is tested after a change (R150, R164). -/
def rewatch (s : State) : State :=
  { s with groups := s.groups.map fun g => { g with paths := g.paths.map (rewatchPath s) } }

/-! ### Writing slices -/

/-- The task that holds the bytes of a granule. -/
def holderTask : Owner → Option Nat
  | .party t _ | .draining t _ | .region t _ => some t
  | _ => none

/-- Whether a landing or engine write of a step at an address must leave the old byte for a handler of an
earlier step of the same task (R113, R160). -/
def keepsUndo (s : State) (step a : Nat) : Bool :=
  s.eng.bulks.any fun b => decide (b.head.step + 1 ≤ step) && decide (holderTask (ownerAt s a) = some b.head.task)

/-- Write bytes into the slices. A stepped write keeps what a handler may still load; an unstepped one
is seen by every later load, so older copies of its bytes are dropped. -/
def sramWrite (s : State) (step : Option Nat) (ws : List (Nat × Byte)) : State :=
  let undo := match step with
    | some t =>
      s.sram.undo ++ (ws.filter fun w => keepsUndo s t w.1).map fun w =>
        { addr := w.1, step := t, old := cellGet s.sram.mem w.1 : Undo }
    | none => s.sram.undo.filter fun u => !(ws.any fun w => decide (w.1 = u.addr))
  { s with sram.mem := cellSetAll s.sram.mem ws, sram.undo := undo }

/-- The sectors a list of bytes lies in. -/
def sectorsOf (ws : List (Nat × Byte)) : List Nat := (ws.map fun w => sectorOf w.1).dedup

/-- Write bytes of one sector under the bank code (R135, R239): a write that covers the sector rewrites it and clears its
error, which is counted all the same; one that covers part of an uncorrectable sector is discarded and stops the writing
task. -/
def sectorWrite (s : State) (w : Who) (step : Option Nat) (mine : List (Nat × Byte)) (sec : Nat) : State :=
  if 32 ≤ ((mine.map (·.1)).dedup).length then
    sramWrite (clearErrors (if sectorBad s sec then countBad s sec else s) sec) step mine
  else if sectorBad s sec then stopBad s w sec
  else sramWrite (readSector s sec) step mine

/-- Write bytes under the bank code, sector by sector. -/
def guardedWrite (s : State) (w : Who) (step : Option Nat) (ws : List (Nat × Byte)) : State :=
  (sectorsOf ws).foldl (fun s sec => sectorWrite s w step (ws.filter fun x => decide (sectorOf x.1 = sec)) sec) s

/-- One unstepped read-modify-write of a counter cell (R99, R119, R258): the count field falls by `n`
modulo 2^24, and the error field takes a non-zero code when it reads zero. -/
def counterWord (w : Word) (n code : Nat) : Word :=
  let count := (w.toNat % 2 ^ 24 + 2 ^ 24 - n % 2 ^ 24) % 2 ^ 24
  let err := w.toNat / 2 ^ 24
  BitVec.ofNat 32 (count + 2 ^ 24 * (if err = 0 then code % 256 else err))

/-- Update a counter cell and test the watches on it. -/
def counterUpdate (s : State) (w : Who) (cell : Option Nat) (n code : Nat) : State :=
  match cell with
  | none => s
  | some a =>
    let x := counterWord (wordAt (readSector s (sectorOf a)).sram.mem a) n code
    rewatch (guardedWrite s w none (addressed a (bytesOfNat 4 x.toNat)))

/-! ### Addresses (R27, R139, R140) -/

/-- Whether the granule of an absolute address may be named in a space by a group (R27). -/
def granuleAllowed (s : State) (g : Group) (sp : Space) (a : Nat) : Bool :=
  decide (offsetOf a < sliceBytes) &&
  match ownerAt s a with
  | .party t i => decide (sp = .task) && decide (t = g.task) && decide (i = g.party) &&
      decide (sliceOf a = g.core)
  | .region t r =>
    decide (t = g.task) &&
      (match (findTask s t).bind fun x => regionOf x r with
        | some x => match sp with
          | .task => decide (x.kind = .shared)
          | .immutable => decide (x.kind = .immutable)
          | .party => false
        | none => false)
  | _ => false

/-- The absolute address of a range of `n` bytes named in a space, or the first address of the range
that fails, in the form of its space (R27, R140). -/
def resolve (s : State) (g : Group) (sp : Space) (ea n : Nat) : Except Nat Nat :=
  match sp with
  | .party =>
    match findTask s g.task with
    | none => .error ea
    | some t =>
      if ea + n ≤ t.decl.scratch then .ok (scratchBase t g.party + ea)
      else .error (max ea t.decl.scratch)
  | _ =>
    let grs := (List.range (granuleOf (ea + n - 1) - granuleOf ea + 1)).map fun k => granuleOf ea + k
    match grs.find? fun k => !granuleAllowed s g sp (k * 4096) with
    | some k => .error (max ea (k * 4096))
    | none => .ok ea

/-- The effective address of a lane (R139). -/
def effAddr (g : Group) (p : Path) (a imm : BitVec 6) (l : Nat) : Nat :=
  (opA g p false a l + imms p imm).toNat

/-- The first lane of a list that fails a test, with its address. -/
def firstLane (ls : List (Nat × Nat)) (bad : Nat → Bool) : Option (Nat × Nat) :=
  ls.find? fun x => bad x.2

/-- The bulk read a handler group serves. -/
def bulkOf (s : State) (g : Group) : Option Bulk := g.handler.bind fun id => findBulk s id

/-- Whether `n` bytes at `a` meet the window of a bulk read. -/
def meetsWindow (b : Bulk) (a n : Nat) : Bool :=
  decide (a < b.win + 128 * b.winLines) && decide (b.win < a + n)

/-- Whether `n` bytes at `a` lie in the window of a bulk read. -/
def insideWindow (b : Bulk) (a n : Nat) : Bool :=
  decide (b.win ≤ a) && decide (a + n ≤ b.win + 128 * b.winLines)

/-- A trap an address check decides: which lane, which address, and whether it is the handler rule. -/
structure AddrFail where
  lane : Nat
  addr : Nat
  rule : Bool

/-- The checks of R140 on a load of `z` bytes per lane, row by row. -/
def checkLoad (s : State) (g : Group) (sp : Space) (z : Nat) (ls : List (Nat × Nat)) :
    Option AddrFail :=
  match firstLane ls (fun ea => decide (ea % z ≠ 0)) with
  | some x => some { lane := x.1, addr := x.2, rule := false }
  | none =>
    match firstLane ls (fun ea => !(resolve s g sp ea z).isOk) with
    | some x => some { lane := x.1, addr := x.2, rule := false }
    | none =>
      let own := fun ea => match bulkOf s g, resolve s g sp ea z with
        | some b, .ok a => !g.completion && meetsWindow b a z
        | _, _ => false
      (firstLane ls own).map fun x => { lane := x.1, addr := x.2, rule := true }

/-- The checks of R140 on a store of `z` bytes per lane, row by row. -/
def checkStore (s : State) (g : Group) (sp : Space) (z : Nat) (ls : List (Nat × Nat)) :
    Option AddrFail :=
  let fail := fun x : Nat × Nat => some { lane := x.1, addr := x.2, rule := false : AddrFail }
  match firstLane ls (fun ea => decide (ea % z ≠ 0)) with
  | some x => fail x
  | none =>
    match firstLane ls (fun ea => !(resolve s g sp ea z).isOk) with
    | some x => fail x
    | none =>
      if sp = .immutable then (match ls with | x :: _ => fail x | [] => none)
      else
        let out := fun ea => match g.handler, bulkOf s g, resolve s g sp ea z with
          | some _, some b, .ok a => !(insideWindow b a z) || decide (sp ≠ b.winSpace)
          | _, _, _ => false
        match firstLane ls out with
        | some x => fail x
        | none => none

/-! ### Loads (R28, R141, R160) -/

/-- Whether a word is the counter cell of an outstanding copy or bulk read of a task (R141). -/
def isCounter (s : State) (task word : Nat) : Bool :=
  (s.eng.copies.any fun c => decide (c.head.task = task) && decide (c.cnt = some (word * 4))) ||
  (s.eng.bulks.any fun b => decide (b.head.task = task) && decide (b.cnt = some (word * 4)))

/-- Whether every word of an access is such a counter cell. -/
def allCounters (s : State) (task a z : Nat) : Bool :=
  (List.range ((a + z - 1) / 4 - a / 4 + 1)).all fun k => isCounter s task (a / 4 + k)

/-- Whether every landing of a step below `t` of a domain has taken place at a slice (R130, R159). -/
def landedBelow (s : State) (d : Dom) (slice t : Nat) : Bool :=
  !(s.sram.entries.any fun e => decide (e.dom = d) && e.req.isNone && decide (e.step < t) &&
      decide (sliceOf (e.sector * 32) = slice)) &&
  !(s.sram.clears.any fun c => decide (c.dom = d) && !c.landed && decide (c.step < t) &&
      decide (sliceOf (c.line * 128) = slice))

/-- The presence bit of a line as it was written (R97, R115, R162). -/
def writtenPresence (s : State) (line : Nat) : Bool :=
  !(s.sram.clears.any fun c => c.landed && decide (c.line = line))

/-- One of the three copies of a line's presence bit: the bit as written, unless the copy disagrees. -/
def presenceCopy (s : State) (line k : Nat) : Bool :=
  (s.sram.copies.findSome? fun e => match e with
    | .presence l c b => if l = line ∧ c = k then some b else none
    | .tag _ _ _ => none).getD (writtenPresence s line)

/-- The presence bit of a line, read by majority (R125). -/
def linePresent (s : State) (line : Nat) : Bool :=
  match s.sram.copies with
  | [] => writtenPresence s line
  | _ => (majority (presenceCopy s line 0) (presenceCopy s line 1) (presenceCopy s line 2)).getD true

/-- Whether two copies of a line's presence bit are wrong, so that the majority is. -/
def presenceWrong (s : State) (line : Nat) : Bool := linePresent s line != writtenPresence s line

/-- Whether the lines of a range are present to an access of step `t` (R97, R115, R162): no engine
request of an earlier step still has to write one of them. A completion handler does not wait for its
own request `own` (R118). A line whose presence bit reads wrong is as it reads. -/
def presentFor (s : State) (own : Option Nat) (a z t : Nat) : Bool :=
  let here := fun l : Nat => decide (lineOf a ≤ l) && decide (l ≤ lineOf (a + z - 1))
  !(s.sram.clears.any fun c => decide (c.step < t) && decide (own ≠ some c.req) && here c.line &&
      !presenceWrong s c.line) &&
  !(s.sram.copies.any fun e => match e with
      | .presence l _ _ => here l && presenceWrong s l && !linePresent s l
      | .tag _ _ _ => false)

/-- Whether a load of `z` bytes of step `t` may be served now (R28, R141, R160). -/
def loadReady (s : State) (own : Option Nat) (task a z t : Nat) : Bool :=
  allCounters s task a z ||
  match domainOf s a with
  | none => true
  | some d =>
    atLeast (knownAt s d (sliceOf a)) t && landedBelow s d (sliceOf a) t && presentFor s own a z t

/-- A byte as a load of step `t` sees it: without landings and engine writes of step `t` or later. -/
def byteAsOf (s : State) (t a : Nat) : Byte :=
  match s.sram.undo.find? fun u => decide (u.addr = a) && decide (t ≤ u.step) with
  | some u => u.old
  | none => cellGet s.sram.mem a

/-- The bytes a load of step `t` returns (R141, R160); a word that is a counter cell gives its value now. -/
def loadBytes (s : State) (task t a z : Nat) : List Byte :=
  (List.range z).map fun k =>
    if isCounter s task ((a + k) / 4) then cellGet s.sram.mem (a + k) else byteAsOf s t (a + k)

/-- `EXT` of R142: the registers a loaded element fills. -/
def extend (ty : Ty) (m : Nat) : List Word :=
  match ty with
  | .i8 | .i16 => [BitVec.ofInt 32 (sextInt m (tyBits ty))]
  | .i64 | .f64 => [BitVec.ofNat 32 m, BitVec.ofNat 32 (m / 2 ^ 32)]
  | _ => [BitVec.ofNat 32 m]

/-- Every sector a range meets. -/
def sectorRange (a n : Nat) : List Nat :=
  (List.range (sectorOf (a + n - 1) - sectorOf a + 1)).map fun k => sectorOf a + k

/-- Read the sectors of a range through the bank code: the state after corrections, and the first
sector that cannot be decoded. -/
def readRange (s : State) (a n : Nat) : State × Option Nat :=
  let secs := sectorRange a n
  (secs.foldl readSector s, secs.find? fun x => sectorBad s x)

/-- Whether a range of bytes is readable as a load of step `t` (R103, R123, R227, R230, R271). -/
def rangeReady (s : State) (task a n t : Nat) : Bool :=
  (List.range ((a + n - 1) / 32 - a / 32 + 1)).all fun k =>
    let lo := max a ((a / 32 + k) * 32)
    let hi := min (a + n) ((a / 32 + k + 1) * 32)
    loadReady s none task lo (hi - lo) t

/-- The bytes of a range read as a load of step `t`. -/
def rangeBytes (s : State) (task a n t : Nat) : List Byte :=
  ((List.range ((a + n - 1) / 32 - a / 32 + 1)).flatMap fun k =>
    let lo := max a ((a / 32 + k) * 32)
    let hi := min (a + n) ((a / 32 + k + 1) * 32)
    loadBytes s task t lo (hi - lo))

/-! ### Offering and accepting stores (R129 to R133, R144, R158) -/

/-- Whether a task has been told to stop (R277). -/
def toldToStop (s : State) (task : Nat) : Bool := ((findTask s task).bind (·.stop)).isSome

/-- Whether an outbound copy of an earlier step has still to read one of the `z` bytes at `a`, so that a store of
step `t` must not go before it (R98). One of a task that has been told to stop has not begun and never reads (R277). -/
def copyUnread (s : State) (a z t : Nat) : Bool :=
  s.eng.copies.any fun c => c.outbound && c.nearData.isNone && decide (c.head.step < t) && !toldToStop s c.head.task &&
    (decide (a < c.near + c.len) && decide (c.near < a + z))

/-- Whether the store of a handler of request `id` passes over a clear: one of its own window, for which its writes are held
(R114), or one of a bulk read that is not older, whose window may share bytes with its own: which value such a byte ends with
is not specified, and neither waits for the other (R115; log entry 107). -/
def passesClear (s : State) (id : Nat) (c : Clear) : Bool :=
  decide (c.req = id) ||
    ((findBulk s c.req).isSome && (findBulk s id).any fun b => decide (b.head.step ≤ c.step))

/-- Whether the line of a handler's store is one that a request of an earlier step has still to write (R97, R115, R144). -/
def handlerOwed (s : State) (id a z t : Nat) : Bool :=
  s.sram.clears.any fun c => decide (c.step < t) && decide (lineOf a ≤ c.line) && decide (c.line ≤ lineOf (a + z - 1)) &&
    !passesClear s id c

/-- Whether a store of step `t` at `a` must wait with its group (R144): of a thread, or of a handler of request `own`. -/
def storeWaits (s : State) (own : Option Nat) (a z t : Nat) : Bool :=
  (match own with
    | none => !presentFor s none a z t
    | some id => handlerOwed s id a z t) || copyUnread s a z t

/-- `LAND` of R158: the store is offered to the slice and stays an offer until it is accepted. -/
def land (s : State) (o : Store) : State :=
  let (n, s1) := freshId s
  { s1 with sram.offers := s1.sram.offers ++ [{ o with po := n }] }

/-- Types that differ only in signedness name the same cell (R145). -/
def cellTy (t : Ty) : Ty :=
  match t with
  | .ui8 => .i8
  | .ui16 => .i16
  | .ui32 => .i32
  | t => t

/-- Two stores that name one cell (R145). -/
def sameCell (x y : Store) : Bool :=
  decide (x.addr = y.addr) && decide (cellTy x.ty = cellTy y.ty)

/-- The key of a store's sector entry (R129). -/
def keyOf (o : Store) (e : Entry) : Bool :=
  decide (e.sector = sectorOf o.addr) && decide (e.step = o.step) && decide (e.dom = o.dom) &&
    decide (e.req = o.req)

/-- Whether a `SUM` store is a floating-point contribution (R129, R147). -/
def floatSum (o : Store) : Bool := decide (o.rule = .sum) && (decide (o.ty = .f32) || decide (o.ty = .bf16))

/-- The accumulator of a store's cell under its key. -/
def accumFor (o : Store) (x : Accum) : Bool :=
  decide (x.addr = o.addr) && decide (x.step = o.step) && decide (x.dom = o.dom) &&
    decide (x.req = o.req) && decide (x.ty = o.ty)

/-- The value of a floating-point contribution. -/
def storeValue (o : Store) : FVal := (if o.ty = .bf16 then bf16 else f32).value (o.data.toNat % 2 ^ (8 * o.size))

/-- Add one contribution to an accumulator (R179). -/
def addTo (x : Accum) (v : FVal) : Accum :=
  { x with
    nan := x.nan || v.isNan
    pinf := x.pinf || decide (v = .inf false)
    ninf := x.ninf || decide (v = .inf true)
    nz := x.nz && v.isZero && v.neg
    sum := x.sum + BitVec.ofInt 312 (unitsOf v) }

/-- An accumulator before any contribution. -/
def newAccum (o : Store) (spilled : Bool) : Accum :=
  { addr := o.addr, step := o.step, dom := o.dom, req := o.req, ty := o.ty, nan := false,
    pinf := false, ninf := false, nz := true, sum := 0, spilled := spilled, upset := false }

/-- The task of a domain. -/
def domTask (d : Dom) : Nat :=
  match d with
  | .party t _ => t
  | .task t => t

/-- The spill slots of a task on a slice (R132): SPILL KiB, 64 when the header gives 0. -/
def spillSlots (t : Task) : Nat := (if t.decl.spillKiB = 0 then 64 else t.decl.spillKiB) * 16

/-- The spill slots of a task in use on a slice. -/
def spillUsed (s : State) (task slice : Nat) : Nat :=
  ((s.sram.entries.filter fun e => e.spilled && decide (domTask e.dom = task) &&
      decide (sliceOf (e.sector * 32) = slice)).length) +
  ((s.sram.accums.filter fun x => x.spilled && decide (domTask x.dom = task) &&
      decide (sliceOf x.addr = slice)).length)

/-- How a new resource is had (R131): from the buffer, from the task's spill reserve, not yet, or not
at all. -/
inductive Grant where
  | buffer | spill | wait | overflow
  deriving DecidableEq, Repr

/-- Whether a store is a handler write whose step the frontier of its domain has passed: handlers hold no frontier back. -/
def isLate (s : State) (o : Store) : Bool := o.req.isSome && atLeast (frontier s o.dom) (o.step + 1)

/-- Whether a store's step is the priority step of its domain (R131). A handler write keeps its priority when
the frontier passes its step (log entry 14). -/
def hasPriority (s : State) (o : Store) : Bool := decide (frontier s o.dom = some o.step) || isLate s o

/-- Whether every landing of a step below `t` of a domain has taken place, at every slice (R159, R161). -/
def landedBefore (s : State) (d : Dom) (t : Nat) : Bool :=
  !(s.sram.entries.any fun e => decide (e.dom = d) && e.req.isNone && decide (e.step < t)) &&
  !(s.sram.clears.any fun c => decide (c.dom = d) && !c.landed && decide (c.step < t))

/-- The record of a resolution-overflow step fault (R133). -/
def overflowFrec (s : State) (o : Store) : Frec :=
  { kind := 0x13, step := BitVec.ofNat 64 o.step, addr := BitVec.ofNat 32 (sectorOf o.addr * 32),
    rule := BitVec.ofNat 32 o.rule.code,
    count := BitVec.ofNat 32 ((findTask s o.task).elim 0 spillSlots),
    tid0 := BitVec.ofNat 32 o.writer, tid1 := BitVec.allOnes 32, pc := o.pc }

/-- The offer leaves the slice's input. -/
def dropOffer (s : State) (o : Store) : State :=
  { s with sram.offers := s.sram.offers.filter fun x => decide (x.po ≠ o.po) }

/-- The store joins the entry of its key, which is made if there is none. -/
def intoEntry (es : List Entry) (o : Store) (spilled : Bool) : List Entry :=
  if es.any (keyOf o) then updWhere es (keyOf o) fun e => { e with stores := e.stores ++ [o] }
  else es ++ [{ sector := sectorOf o.addr, step := o.step, dom := o.dom, req := o.req, stores := [o],
                spilled := spilled, upset := false }]

/-- The accumulators after a store is accepted: the second floating-point contribution to a cell
under one key claims one and adds both (R129). -/
def intoAccums (xs : List Accum) (o : Store) (first : Option Store) (spilled : Bool) : List Accum :=
  if !floatSum o then xs
  else if xs.any (accumFor o) then updWhere xs (accumFor o) fun x => addTo x (storeValue o)
  else match first with
    | some f => xs ++ [addTo (addTo (newAccum o spilled) (storeValue f)) (storeValue o)]
    | none => xs

/-- The entry of a store's key. -/
def entryFor (s : State) (o : Store) : Option Entry := s.sram.entries.find? (keyOf o)

/-- The accepted floating-point contribution to a store's cell under its key, if any. -/
def priorSum (s : State) (o : Store) : Option Store :=
  ((entryFor s o).map (·.stores)).getD [] |>.find? fun x => floatSum x && sameCell x o

/-- Whether a store needs a new sector entry. -/
def needsEntry (s : State) (o : Store) : Bool := (entryFor s o).isNone

/-- Whether a store needs a new accumulator: it is the second floating-point contribution to its cell (R129). -/
def needsAccum (s : State) (o : Store) : Bool :=
  floatSum o && (priorSum s o).isSome && !(s.sram.accums.any (accumFor o))

/-- Whether a store gives way to a store of a priority step that waits at the same slice for a resource of the
same kind (R131). -/
def yieldsTo (s : State) (o : Store) (need : State → Store → Bool) : Bool :=
  !hasPriority s o && s.sram.offers.any fun x => decide (x.po ≠ o.po) &&
    decide (sliceOf x.addr = sliceOf o.addr) && hasPriority s x && need s x

/-- On whose behalf a store is held: its task, step and sequence, and its `TID`, which is all ones in a handler
(R275, R278). -/
def storeWho (o : Store) : Who :=
  { task := o.task, step := BitVec.ofNat 64 o.step,
    tid := if o.req.isSome then BitVec.allOnes 32 else BitVec.ofNat 32 o.writer, pc := o.pc }

/-- The pending entries of a slice in the buffer. -/
def bufferUsed (s : State) (slice : Nat) : Nat :=
  (s.sram.entries.filter fun e => !e.spilled && decide (sliceOf (e.sector * 32) = slice)).length

/-- The accumulators of a slice in the resolution unit. -/
def accumsUsed (s : State) (slice : Nat) : Nat :=
  (s.sram.accums.filter fun x => !x.spilled && decide (sliceOf x.addr = slice)).length

/-- Whether a step of a domain waits for the frontier that the store `o` holds back: the frontier of a domain of its task
has not passed it, and it is no lower than the step of the store (R131). -/
def awaitsFrontier (s : State) (o : Store) (d : Dom) (n : Nat) : Bool :=
  decide (domTask d = o.task) && decide (o.step ≤ n) && !atLeast (frontier s d) (n + 1)

/-- Whether a drain cannot be written before the store `o` is accepted: a line of it waits for the frontier (R235). -/
def drainAwaits (s : State) (o : Store) (id : Nat) : Bool :=
  s.sram.clears.any fun c => decide (c.req = id) && awaitsFrontier s o c.dom c.step

/-- The drains that a queued operation of an engine finds before it: those of the core's drain buffer, and those earlier
in the queue (R233). -/
def drainsBefore (s : State) (e : Engine) (id : Nat) : List Nat :=
  (s.eng.drains.filter fun d => decide (d.head.core = e.core)).map (·.head.id) ++
    ((e.queue.takeWhile fun x => decide (x.head.id ≠ id)).filter fun x => match x.act with
      | .drain .. => true
      | _ => false).map (·.head.id)

/-- Whether a request is a drain that waits in its queue for room in the drain buffer, which only drains that wait for the
store `o` could make. -/
def turnAwaits (s : State) (o : Store) (id : Nat) : Bool :=
  s.eng.matrix.any fun e => (e.queue.any fun x => decide (x.head.id = id)) &&
    decide (4 ≤ ((drainsBefore s e id).filter (drainAwaits s o)).length)

/-- Whether an outbound copy cannot read its near bytes before the store `o` is accepted: a line of them waits for the
frontier (R98). -/
def readAwaits (s : State) (o : Store) (c : Copy) : Bool :=
  c.outbound && c.nearData.isNone && !toldToStop s c.head.task &&
    (List.range (lineOf (c.near + c.len - 1) - lineOf c.near + 1)).any fun k =>
      (domainOf s ((lineOf c.near + k) * 128)).any fun d => awaitsFrontier s o d c.head.step

/-- The handler groups of a task on a core. -/
def handlerGroups (s : State) (task core : Nat) : List Group :=
  s.groups.filter fun g => decide (g.task = task) && decide (g.core = core) && g.handler.isSome

/-- The handler threads of a task in the bins of a core. -/
def handlersFiled (s : State) (task core : Nat) : Nat :=
  ((s.eng.bins.filter fun b => decide (b.core = core)).map fun b => match b.key with
    | .handler t _ _ => if t = task then b.threads.length else 0
    | .reform _ _ _ => 0).sum

/-- The handler threads of a task alive on a core, in groups and in bins. -/
def handlersAlive (s : State) (task core : Nat) : Nat :=
  ((handlerGroups s task core).map liveCount).sum + handlersFiled s task core

/-- Whether a handler slot of the task is free on a core (R108). -/
def handlerSlot (s : State) (t : Task) (core : Nat) : Bool :=
  decide (handlersAlive s t.uid core < t.decl.hres)

/-- Whether a handler's load cannot be served before the store `o` is accepted: its step waits for the frontier, or a bulk
read of `late` owes it a line (R28, R115). -/
def loadLate (s : State) (o : Store) (late : List Nat) (task : Nat) (r : LoadReq) : Bool :=
  r.accs.any fun x => !allCounters s task x.addr r.ty.size && (domainOf s x.addr).any fun d =>
    (decide (o.step < x.step) && awaitsFrontier s o d (x.step - 1)) ||
    s.sram.clears.any fun c => late.contains c.req && decide (c.step < x.step) && decide (r.own ≠ some c.req) &&
      decide (lineOf x.addr ≤ c.line) && decide (c.line ≤ lineOf (x.addr + r.ty.size - 1))

/-- Whether a path of a handler of request `id` goes on only after the store `o` has been accepted; one that waits at issue
may be a store to a line that a bulk read of `late` owes (R144). -/
def handlerLate (s : State) (o : Store) (late : List Nat) (task id : Nat) (p : Path) : Bool :=
  match p.park with
  | some (.load r) => loadLate s o late task r
  | some .issue => (findBulk s id).any fun b => s.sram.clears.any fun c =>
      late.contains c.req && decide (c.step < b.head.step + 1) && !passesClear s id c
  | _ => false

/-- Whether a handler group keeps its slots until the store `o` has been accepted: every path waits so, or at a rejoin for one
that does. -/
def slotsLate (s : State) (o : Store) (late : List Nat) (g : Group) : Bool :=
  g.paths.all fun p => g.handler.any (fun id => handlerLate s o late g.task id p) ||
    (match p.park with
      | some (.join _) => true
      | _ => false)

/-- Whether a bulk read still needs a handler slot: for a burst, or for its completion handler (R109, R118). -/
def needsSlot (b : Bulk) : Bool :=
  (b.bursts.any fun x => !(isDone x || isFailed x)) || (b.chnd.isSome && !b.landed)

/-- Whether a bulk read has its last-burst event only after the store `o` has been accepted: a handler of it waits so, or it
needs a slot while none is free on its core and every handler there keeps its own (R108, R117). -/
def readLate (s : State) (o : Store) (late : List Nat) (b : Bulk) : Bool :=
  (s.groups.any fun g => decide (g.handler = some b.head.id) &&
    g.paths.any fun p => handlerLate s o late g.task b.head.id p) ||
  (needsSlot b && !(findTask s b.head.task).any (fun t => handlerSlot s t b.head.core) &&
    decide (handlersFiled s b.head.task b.head.core = 0) &&
    (handlerGroups s b.head.task b.head.core).all (slotsLate s o late))

/-- The bulk reads of the store's task that may complete only after it has been accepted, each because of its frontier or of
another of them. -/
def lateReads (s : State) (o : Store) : List Nat :=
  let mine := s.eng.bulks.filter fun b => decide (b.head.task = o.task)
  mine.foldl (fun late _ => (mine.filter fun b => late.contains b.head.id && readLate s o late b).map (·.head.id))
    (mine.map (·.head.id))

/-- Whether the store `o` keeps a queued drain or the read of an outbound copy waiting. -/
def enginesAwait (s : State) (o : Store) : Bool :=
  (s.eng.matrix.any fun e => e.queue.any fun x => turnAwaits s o x.head.id) || s.eng.copies.any (readAwaits s o)

/-- Whether a request of an engine may itself wait for the store `o`, so that the lines it owes may come only after it: a
queued drain or a bulk read of which the handlers wait for one, while the store keeps such a drain waiting; a bulk read whose
handlers or handler slots wait for the store; and one whose handlers may wait for a thread of the store's step, for an item of
step `n` no lower than the store's. -/
def owedLate (s : State) (o : Store) (n req : Nat) : Bool :=
  ((findBulk s req).isSome && (decide (o.step ≤ n) || enginesAwait s o)) || (lateReads s o).contains req ||
    (enginesAwait s o && s.eng.matrix.any fun e => e.queue.any fun x => decide (x.head.id = req))

/-- Whether a thread's item pending for a step at or below `n` of a domain may land only after the store `o` has been
accepted: a line of it is still owed bytes by such a request of an earlier step (R97, R162), or an outbound copy of an
earlier step has still to read there (R98). -/
def itemHeld (s : State) (o : Store) (d : Dom) (n : Nat) : Bool :=
  s.sram.entries.any fun e => decide (e.dom = d) && e.req.isNone && decide (e.step ≤ n) &&
    ((s.sram.clears.any fun c => decide (c.line = lineOf (e.sector * 32)) && decide (c.step < e.step) &&
        owedLate s o n c.req) ||
      (enginesAwait s o && copyUnread s (lineOf (e.sector * 32) * 128) 128 e.step))

/-- Whether an item of step `n` of a domain lands without waiting for the store `o`: the frontier of its domain has passed
its step, and no engine that may wait for the store holds a thread's item; a handler's is of a lower step than the
store, whose handlers wait for no later one, or of its step while the store is a thread's, and its bulk read waits for no
handler slot that the store keeps from being freed (log entry 63). -/
def landsWithout (s : State) (o : Store) (d : Dom) (n : Nat) (req : Option Nat) : Bool :=
  atLeast (frontier s d) (n + 1) &&
    (match req with
      | none => !itemHeld s o d n
      | some id => !enginesAwait s o && !(lateReads s o).contains id && (decide (n < o.step) || (o.req.isNone && decide (n = o.step))))

/-- Whether a spill slot that a store could take is due to be freed: its item lands before the task may run out of slots
(R130, R133). -/
def spillDue (s : State) (o : Store) : Bool :=
  (s.sram.entries.any fun e => e.spilled && decide (domTask e.dom = o.task) &&
      decide (sliceOf (e.sector * 32) = sliceOf o.addr) && landsWithout s o e.dom e.step e.req) ||
  (s.sram.accums.any fun x => x.spilled && decide (domTask x.dom = o.task) && decide (sliceOf x.addr = sliceOf o.addr) &&
      landsWithout s o x.dom x.step x.req)

/-- Whether a priority store that finds no slot waits: for a landing that is due and frees one, or for the landings of earlier
steps of its domain, unless these may only come after it (R133, R161; log entry 63). -/
def slotDue (s : State) (o : Store) : Bool :=
  spillDue s o || (!landedBefore s o.dom o.step && !itemHeld s o o.dom (o.step - 1))

/-- The grant of a new entry or accumulator (R131), with `more` spill slots already taken by this store; a free one
goes first to a store of a priority step that waits, `yields`. A store overflows only when no slot is due (R133; log entry
63). -/
def grant (s : State) (o : Store) (free yields : Bool) (more : Nat) : Grant :=
  if free && !yields then .buffer
  else if hasPriority s o then
    match findTask s o.task with
    | some t =>
      if spillUsed s o.task (sliceOf o.addr) + more < spillSlots t then .spill
      else if slotDue s o then .wait
      else .overflow
    | none => .overflow
  else .wait

/-- How the entry a store needs is had. -/
def entryGrant (s : State) (o : Store) : Grant :=
  if needsEntry s o then
    grant s o (decide (bufferUsed s (sliceOf o.addr) < 4096)) (yieldsTo s o needsEntry) 0
  else .buffer

/-- How the accumulator a store needs is had. -/
def accumGrant (s : State) (o : Store) : Grant :=
  if needsAccum s o then
    grant s o (decide (accumsUsed s (sliceOf o.addr) < 256)) (yieldsTo s o needsAccum)
      (if entryGrant s o = .spill then 1 else 0)
  else .buffer

/-- A slice takes an offered store (R131): into the buffer, into a spill slot, or not yet; a store of
the priority step that finds no slot is the resolution-overflow step fault (R133). A store waits too while an
outbound copy of an earlier step has not read its bytes (R98). -/
def acceptStore (s : State) (o : Store) : State :=
  if sectorBad s (sectorOf o.addr) then dropOffer (stopBad s (storeWho o) (sectorOf o.addr)) o
  else if copyUnread s o.addr o.size o.step then s
  else
    let ge := entryGrant s o
    let ga := accumGrant s o
    if ge = .wait ∨ ga = .wait then s
    else if ge = .overflow ∨ ga = .overflow then stopWith (dropOffer s o) o.task (overflowFrec s o)
    else
      { dropOffer s o with
        sram.entries := intoEntry s.sram.entries o (decide (ge = .spill))
        sram.accums := intoAccums s.sram.accums o (priorSum s o) (decide (ga = .spill)) }

/-! ### Resolution (R145 to R148) -/

/-- Whether a store covers a byte. -/
def covers (o : Store) (a : Nat) : Bool := decide (o.addr ≤ a) && decide (a < o.addr + o.size)

/-- Stores ordered by writer, and the stores of one writer in program order (R148). -/
def byWriter (l : List Store) : List Store :=
  sortBy (fun x y => decide (x.writer < y.writer) || (decide (x.writer = y.writer) && decide (x.po ≤ y.po))) l

/-- The kind of collision of the stores that cover a byte, if any (R145, R146). -/
def collisionKind (l : List Store) : Option Nat :=
  match l with
  | [] => none
  | x :: r =>
    if r.any fun y => decide (y.rule ≠ x.rule) then some 0x11
    else match x.rule with
      | .sum => if r.all fun y => sameCell x y then none else some 0x11
      | .flt => if r.isEmpty then none else some 0x10
      | _ => none

/-- The bytes of a sector. -/
def sectorBytes (sector : Nat) : List Nat := (List.range 32).map fun k => sector * 32 + k

/-- The lowest byte of an entry at which stores collide, with the kind and the stores. -/
def entryCollision (e : Entry) : Option (Nat × Nat × List Store) :=
  (sectorBytes e.sector).findSome? fun a =>
    let l := e.stores.filter fun o => covers o a
    (collisionKind l).map fun k => (a, k, byWriter l)

/-- The collision with the lowest address over a list of entries (R148, R279). -/
def lowestCollision (es : List Entry) : Option (Nat × Nat × List Store) :=
  (es.filterMap entryCollision).foldl (fun best c =>
    match best with
    | some b => if c.1 < b.1 then some c else some b
    | none => some c) none

/-- The record of a collision step fault (R148); a collision among handler writes is a window
collision (R116). -/
def collisionFrec (step : Nat) (window : Bool) (c : Nat × Nat × List Store) : Frec :=
  let w := fun k => match c.2.2[k]? with
    | some o => BitVec.ofNat 32 o.writer
    | none => BitVec.allOnes 32
  { kind := if window then 0x12 else BitVec.ofNat 32 c.2.1
    step := BitVec.ofNat 64 step
    addr := BitVec.ofNat 32 c.1
    rule := match c.2.2.head? with | some o => BitVec.ofNat 32 o.rule.code | none => 0
    count := BitVec.ofNat 32 c.2.2.length
    tid0 := w 0
    tid1 := w 1
    pc := match c.2.2.head? with | some o => o.pc | none => 0 }

/-- The store that decides a byte under `LOW`: the lowest writer's last in program order. -/
def lowWinner (l : List Store) : Option Store :=
  let l := byWriter l
  match l.head? with
  | none => none
  | some x => (l.filter fun y => decide (y.writer = x.writer)).getLast?

/-- The store that survives under `ANY`: a free choice that is one and the same for all bytes that the
same stores cover (R146). -/
def anyWinner (fresh : Nat) (l : List Store) : Option Store :=
  l[Config.anyPick (l.foldl (fun h o => h * (fresh + 1) + o.po) 0) % max l.length 1]?

/-- The value a `SUM` cell lands as (R145, R147), from the cell's old bytes. -/
def sumValue (s : State) (l : List Store) (x : Store) : Nat :=
  let old := natOfBytes (bytesAt s.sram.mem x.addr x.size)
  if floatSum x then
    let f := if x.ty = .bf16 then bf16 else f32
    match s.sram.accums.find? (accumFor x) with
    | some a => sumLands f (f.value old) a.nan a.pinf a.ninf a.nz a.sum.toInt
    | none =>
      let v := storeValue x
      sumLands f (f.value old) v.isNan (decide (v = .inf false)) (decide (v = .inf true))
        (v.isZero && v.neg) (unitsOf v)
  else (l.foldl (fun t o => t + o.data.toNat) old) % 2 ^ (8 * x.size)

/-- The byte that lands at an address, if a store of the entry covers it. -/
def landedByte (s : State) (e : Entry) (a : Nat) : Option (Nat × Byte) :=
  let l := e.stores.filter fun o => covers o a
  let from_ := fun o : Store => (a, byteAt (o.data.toNat) (a - o.addr))
  match l.head? with
  | none => none
  | some x =>
    match x.rule with
    | .low => (lowWinner l).map from_
    | .any => (anyWinner s.fresh l).map from_
    | .sum => some (a, byteAt (sumValue s l x) (a - x.addr))
    | .flt => some (from_ x)

/-- The bytes an entry lands. -/
def landedBytes (s : State) (e : Entry) : List (Nat × Byte) :=
  (sectorBytes e.sector).filterMap (landedByte s e)

/-! ### Landing (R130, R159, R161) -/

/-- On whose behalf an entry lands: its lowest writer. The spec gives no row for a landing that covers part of an
uncorrectable sector; the model discards it and charges the stop to this store (log entry 28). -/
def entryWho (e : Entry) : Who :=
  match (byWriter e.stores).head? with
  | some o => storeWho o
  | none => { task := domTask e.dom, step := 0, tid := 0, pc := 0 }

/-- The step after which the landing of an entry is visible: its own, or for a handler entry the issue
step of its request (R160, R163). -/
def landsAfter (e : Entry) : Nat := if e.req.isSome then e.step - 1 else e.step

/-- A landing that adds to the old bytes reads its sector, and an error in one symbol is corrected and counted (R134). -/
def readForSum (s : State) (e : Entry) : State :=
  if e.stores.any fun o => decide (o.rule = .sum) then readSector s e.sector else s

/-- Land a list of entries, each as one masked sector write, and free them with their
accumulators. A `SUM` that covers a sector which cannot be decoded adds to the bytes as they were last written: the spec
names no old value there (R135, R147; log entry 83). -/
def landEntries (s : State) (es : List Entry) : State :=
  let s1 := es.foldl (fun t e => guardedWrite (readForSum t e) (entryWho e) (some (landsAfter e))
    (landedBytes (readSector s e.sector) e)) s
  { s1 with
    sram.entries := s1.sram.entries.filter fun e => !es.contains e
    sram.accums := s1.sram.accums.filter fun x => !(es.any fun e => e.stores.any fun o => accumFor o x) }

/-- The entries of a step of a domain, over all slices. -/
def stepEntries (s : State) (d : Dom) (t : Nat) : List Entry :=
  s.sram.entries.filter fun e => decide (e.dom = d) && e.req.isNone && decide (e.step = t)

/-- Whether a task may land and write: it runs and has not been told to stop (R161, R277). -/
def landsAllowed (s : State) (task : Nat) : Bool :=
  match findTask s task with
  | some t => t.stop.isNone && decide (t.state = .running)
  | none => false

/-- Whether an entry of step `t` must not land yet: its line is still owed bytes by an engine request
of an earlier step (R97, R162), or an outbound copy of an earlier step has not read it (R98). -/
def entryHeld (s : State) (e : Entry) : Bool :=
  !presentFor s none (e.sector * 32) 32 e.step || copyUnread s (e.sector * 32) 32 e.step

/-- The entries of a step of a domain at one slice. -/
def sliceEntries (s : State) (d : Dom) (t slice : Nat) : List Entry :=
  (stepEntries s d t).filter fun e => decide (sliceOf (e.sector * 32) = slice)

/-- Whether the stores of a step of a domain below `t` collide at some slice: the step fault is still to be raised, and
no later step of the domain lands anywhere (R161, R167). -/
def earlierCollides (s : State) (d : Dom) (t : Nat) : Bool :=
  ((s.sram.entries.filter fun e => decide (e.dom = d) && e.req.isNone && decide (e.step < t)).map (·.step)).dedup.any
    fun u => (lowestCollision (stepEntries s d u)).isSome

/-- Whether the step fault that the landing of a step of a domain would raise must wait: a landing of an earlier
step of the domain is still to take place at some slice (R161). -/
def faultWaits (s : State) (d : Dom) (t : Nat) : Bool :=
  (lowestCollision (stepEntries s d t)).isSome && !landedBefore s d t

/-- The landing of a step of a domain at a slice may take place now (R159). -/
def landingDue (s : State) (d : Dom) (t slice : Nat) : Bool :=
  landsAllowed s (domTask d) && atLeast (knownAt s d slice) (t + 1) && landedBelow s d slice t &&
    !landedBelow s d slice (t + 1) && !((sliceEntries s d t slice).any (entryHeld s)) && !faultWaits s d t &&
    !earlierCollides s d t

/-- Whether a slice learns the frontier of a domain: it holds the party, or a party or region of the
task (R156). -/
def sliceKnows (t : Task) (d : Dom) (slice : Nat) : Bool :=
  match d with
  | .party _ i => t.places.any fun p => decide (p.index = i) && decide (p.core = slice)
  | .task _ => (t.places.any fun p => decide (p.core = slice)) ||
      t.bases.any fun b => decide (b.map sliceOf = some slice)

/-- Whether a frontier value is above another one. -/
def frontierAbove (new old : Option Nat) : Bool :=
  match new, old with
  | none, none => false
  | none, some _ => true
  | some _, none => false
  | some a, some b => decide (b < a)

/-- Whether the frontier of a domain has moved past what a slice knows. -/
def frontierNews (s : State) (d : Dom) (slice : Nat) : Bool :=
  landsAllowed s (domTask d) && ((findTask s (domTask d)).map fun t => sliceKnows t d slice).getD false &&
    frontierAbove (frontier s d) (knownAt s d slice)

/-- Whether a slice would take an offered store now. -/
def offerTaken (s : State) (o : Store) : Bool :=
  landsAllowed s o.task && !((acceptStore s o).sram.offers.any fun x => decide (x.po = o.po))

/-- Whether a slice takes an offered store next: no store that the same core offered earlier to the same slice could be
taken before it, as requests of one core arrive at a slice in issue order (R126). -/
def takesOffer (s : State) (o : Store) : Bool :=
  offerTaken s o && !(s.sram.offers.any fun x => decide (x.core = o.core) &&
    decide (sliceOf x.addr = sliceOf o.addr) && decide (x.po < o.po) && offerTaken s x)

/-! ### Serving loads (R28, R126, R141) -/

/-- Write a loaded element into its destination. -/
def loadInto (g : Group) (p : Path) (r : LoadReq) (x : Access) (ws : List Word) : Group × Path :=
  if r.scalar then
    (g, (ws.mapIdx fun k w => (r.reg + k, w)).foldl (fun p y => setSreg p y.1 y.2) p)
  else
    (modLanes g (BitVec.twoPow 64 x.lane) fun _ t =>
      (ws.mapIdx fun k w => (r.reg + k, w)).foldl (fun t y => setVreg t y.1 y.2) t, p)

/-- Whether a store that a core offered to the slice of `a` before the moment `at_` can be taken there: as requests of one
core arrive at a slice in issue order, a later request of the core is served after it (R126). -/
def storeAhead (s : State) (core a at_ : Nat) : Bool :=
  s.sram.offers.any fun x => decide (x.core = core) && decide (sliceOf x.addr = sliceOf a) && decide (x.po < at_) &&
    offerTaken s x

/-- Whether a range named by a block, an index list or a matrix operation may be read as a load of step `t` of a core: it is
ready, and no store that the core offered to its slices earlier comes first (R28, R103, R126). -/
def blockReady (s : State) (task core a n t : Nat) : Bool :=
  rangeReady s task a n t && !storeAhead s core a s.fresh && !storeAhead s core (a + n - 1) s.fresh

/-- Whether every element of a load may be served (R28, R126). -/
def allReady (s : State) (g : Group) (r : LoadReq) : Bool :=
  r.accs.all fun x => loadReady s r.own g.task x.addr r.ty.size x.step && !storeAhead s g.core x.addr r.issued

/-- Serve a load: the first uncorrectable sector stops the task (R135); otherwise every element is
placed and the path falls through. -/
def serveLoad (s : State) (g : Group) (p : Path) (r : LoadReq) : State :=
  match r.accs.find? fun x => sectorBad s (sectorOf x.addr) with
  | some x =>
    stopBad s { task := g.task, step := (laneOf g x.lane).step, tid := (laneOf g x.lane).tid,
                pc := seqStart p } (sectorOf x.addr)
  | none =>
    let s1 := r.accs.foldl (fun s x => readSector s (sectorOf x.addr)) s
    let gp := r.accs.foldl (fun gp x =>
      loadInto gp.1 gp.2 r x (extend r.ty (natOfBytes (loadBytes s1 g.task x.step x.addr r.ty.size))))
      (g, p)
    putPath s1 gp.1 (advance gp.2)

/-- A checked load: served at once when it may be, otherwise the path parks on it (R28, R141). -/
def tryLoad (s : State) (g : Group) (p : Path) (r : LoadReq) : State :=
  if allReady s g r then serveLoad s g p r else putPath s g (parked p (.load r))

/-! ### Landings that are due -/

/-- The lowest step of a domain that has yet to land at a slice. -/
def nextLanding (s : State) (d : Dom) (slice : Nat) : Option Nat :=
  minOf ((s.sram.entries.filter fun e => decide (e.dom = d) && e.req.isNone &&
      decide (sliceOf (e.sector * 32) = slice)).map (·.step) ++
    (s.sram.clears.filter fun c => decide (c.dom = d) && !c.landed && decide (sliceOf (c.line * 128) = slice)).map (·.step))

/-- Whether a landing of a domain at a slice is due, now or as soon as the slice has learned the frontier. -/
def landingPending (s : State) (d : Dom) (slice : Nat) : Bool :=
  frontierNews s d slice || ((nextLanding s d slice).map fun n => landingDue s d n slice).getD false

/-- Whether the test of a word that a `WATCH` of a group makes now finds what must have reached the slice before it
(R126, R150, R156): the stores its core offered to the slice earlier have been taken where they can be, and in its
own party's scratch what the party frontier lets land has landed, because the slice knows that frontier within 2
cycles and the test takes longer to arrive (log entry 69). -/
def testArrives (s : State) (g : Group) (a : Nat) : Bool :=
  !(s.sram.offers.any fun x => decide (x.core = g.core) && decide (sliceOf x.addr = sliceOf a) && offerTaken s x) &&
  match domainOf s a with
  | some (.party t i) => !landingPending s (.party t i) (sliceOf a)
  | _ => true

/-- Whether an uncorrectable error stands in a pending entry or in an accumulator of its cells (R135). -/
def entryUpset (s : State) (e : Entry) : Bool :=
  e.upset || s.sram.accums.any fun x => x.upset && e.stores.any fun o => accumFor o x

/-- Presence bits are written in three like copies: the lines of a list lose their disagreeing ones (R125). -/
def presenceWritten (l : List CopyErr) (lines : List Nat) : List CopyErr :=
  l.filter fun e => match e with
    | .presence x _ _ => !lines.contains x
    | .tag _ _ _ => true

/-- `land`(D, s) at a slice: a collision anywhere in the step stops the task before any slice lands
it (R161), and so does an uncorrectable error in an entry that is to land (R135); otherwise the slice's entries land and
its clears of the step take effect (R162). -/
def landStep (s : State) (d : Dom) (t slice : Nat) : State :=
  match lowestCollision (stepEntries s d t) with
  | some c => stopWith s (domTask d) (collisionFrec t false c)
  | none =>
    match (sliceEntries s d t slice).find? (entryUpset s) with
    | some e => stopBad s (entryWho e) e.sector
    | none =>
      let s1 := landEntries s (sliceEntries s d t slice)
      let due := fun c : Clear => decide (c.dom = d) && decide (c.step = t) && decide (sliceOf (c.line * 128) = slice)
      rewatch { s1 with
        sram.clears := updWhere s1.sram.clears due fun c => { c with landed := true }
        sram.copies := presenceWritten s1.sram.copies ((s1.sram.clears.filter due).map (·.line)) }

/-- The lines of a request become absent with the landing of its step (R97, R115, R235). -/
def addClears (s : State) (req step : Nat) (lines : List Nat) : State :=
  { s with
    sram.clears := s.sram.clears ++ lines.filterMap fun l =>
      (domainOf s (l * 128)).map fun d => { line := l, req := req, step := step, dom := d, landed := false } }

/-- A request has written a line: the line is present unless another request still owes it bytes. -/
def setPresent (s : State) (req line : Nat) : State :=
  { s with
    sram.clears := s.sram.clears.filter fun c => !(decide (c.req = req) && decide (c.line = line))
    sram.copies := presenceWritten s.sram.copies [line] }

/-- An engine may write a line of its request (R97, R162): the clear has landed and the frontier of
the line's scope is past the issue step. An outbound copy of that step or an earlier one reads its bytes of the line
first, as they stood at the end of its step (R98). -/
def engineMayWrite (s : State) (req line : Nat) : Bool :=
  match s.sram.clears.find? fun c => decide (c.req = req) && decide (c.line = line) with
  | some c => c.landed && atLeast (knownAt s c.dom (sliceOf (line * 128))) (c.step + 1) &&
      !copyUnread s (line * 128) 128 (c.step + 1)
  | none => false

/-- The lines a range of bytes lies in. -/
def linesOf (a n : Nat) : List Nat :=
  if n = 0 then [] else (List.range (lineOf (a + n - 1) - lineOf a + 1)).map fun k => lineOf a + k

end Sys2Proof.Machine
end

