-- ==== Sys2Proof/Machine/MemInstr.lean ====
section
/-!
DEFINITION. The memory instructions, majors 0x1D to 0x2F: `LD` and `LDS` (R141, R142, R149), `ST` and
`STS` (R143, R144, R149), `WATCH` (R150), `PRES` (R151), `ABSA` and `RELA` (R152).
-/

namespace Sys2Proof.Machine

open Sys2Proof

/-! ### Address checks -/

/-- The trap of a failed address check (R140): the handler rule, or a memory address. -/
def addrTrap (s : State) (g : Group) (p : Path) (w : Word) (sp : Space) (store : Bool) (x : AddrFail) :
    State :=
  if x.rule then takeTrap s g p (plainTrap 0x04 x.lane w)
  else memoryTrap s g p x.lane w sp store x.addr

/-- The absolute address of a checked access. -/
def absoluteOf (s : State) (g : Group) (sp : Space) (ea : Nat) : Nat :=
  match sp with
  | .party => scratchBase ((findTask s g.task).getD default) g.party + ea
  | _ => ea

/-- The active lanes of a memory instruction with their effective addresses (R139). -/
def laneAddrs (g : Group) (p : Path) (a imm : BitVec 6) (gd : Guard) : List (Nat × Nat) :=
  (lanesOf (activeMask p gd)).map fun l => (l, effAddr g p a imm l)

/-- The lane that acts for `LDS` and `STS` (R149), with the address `s[A]` and the offset form. -/
def scalarAddr (p : Path) (a imm : BitVec 6) : List (Nat × Nat) :=
  ((lowest p.exec).map fun l => (l, (sreg p a.toNat + imms p imm).toNat)).toList

/-! ### Loads -/

/-- The common course of a load: check, then wait or load (R141). -/
def loadOp (sp : Space) (scalar : Bool) (d : BitVec 6) (ty : Ty) (ls : Group → Path → List (Nat × Nat))
    (s : State) : Host.Outcome State Fault Refusal :=
  onPath s fun g p w =>
    match checkLoad s g sp ty.size (ls g p) with
    | some x => addrTrap s g p w sp false x
    | none =>
      tryLoad s g p { own := if g.completion then g.handler else none, scalar := scalar, reg := d.toNat,
                      ty := ty, accs := (ls g p).map fun x =>
        { lane := x.1, addr := absoluteOf s g sp x.2, step := (laneOf g x.1).step.toNat },
                      issued := s.fresh }

/-- `LD` (R141). -/
def execLd (sp : Space) (d a imm : BitVec 6) (gd : Guard) (ty : Ty) (s : State) :
    Host.Outcome State Fault Refusal :=
  loadOp sp false d ty (fun g p => laneAddrs g p a imm gd) s

/-- `LDS` (R149). -/
def execLds (sp : Space) (d a imm : BitVec 6) (ty : Ty) (s : State) :
    Host.Outcome State Fault Refusal :=
  loadOp sp true d ty (fun _ p => scalarAddr p a imm) s

/-! ### Stores -/

/-- The writer of a store of a lane (R143): its `TID`, or `bc0` in a handler (R116). -/
def writerOf (g : Group) (l : Nat) : Nat :=
  if g.handler.isSome then (laneOf g l).bc[0].toNat else (laneOf g l).tid.toNat

/-- The domain in which a group's store at `a` resolves; an immutable or unowned byte never passes the
checks of R140. -/
def storeDom (s : State) (g : Group) (a : Nat) : Dom := (domainOf s a).getD (.party g.task g.party)

/-- The store a lane offers (R143, R158). -/
def storeOf (s : State) (g : Group) (p : Path) (rule : Rule) (ty : Ty) (l a : Nat) (data : Nat) :
    Store :=
  { po := 0, task := g.task, party := g.party, core := g.core, req := g.handler,
    writer := writerOf g l, addr := a, size := ty.size, ty := ty, rule := rule,
    step := (laneOf g l).step.toNat, dom := storeDom s g a,
    data := BitVec.ofNat 64 (data % 2 ^ (8 * ty.size)), pc := seqStart p }

/-- The common course of a store: check, wait where R144 says so, and offer every lane's element. -/
def storeOp (rule : Rule) (sp : Space) (ty : Ty) (ls : Group → Path → List (Nat × Nat))
    (data : Group → Path → Nat → Nat) (s : State) : Host.Outcome State Fault Refusal :=
  onPath s fun g p w =>
    match checkStore s g sp ty.size (ls g p) with
    | some x => addrTrap s g p w sp true x
    | none =>
      let os := (ls g p).map fun x => storeOf s g p rule ty x.1 (absoluteOf s g sp x.2) (data g p x.1)
      if os.any fun o => storeWaits s g.handler o.addr o.size o.step then
        putPath s g (parked p .issue)
      else putPath (os.foldl land s) g (advance p)

/-- The data of an active lane of `ST` (R143): register D, as MOD SB directs. -/
def storeData (ty : Ty) (d : BitVec 6) (g : Group) (p : Path) (l : Nat) : Nat :=
  if ty.size = 8 then pairNat (opB g p false (.reg d) l) (opB g p false (.reg d) l 1)
  else (opB g p false (.reg d) l).toNat

/-- `ST` to party scratch (R143). -/
def execStP (rule : Rule) (d a imm : BitVec 6) (gd : Guard) (ty : Ty) (s : State) :
    Host.Outcome State Fault Refusal :=
  storeOp rule .party ty (fun g p => laneAddrs g p a imm gd) (storeData ty d) s

/-- `ST` by absolute address (R143). -/
def execStG (rule : Rule) (d a imm : BitVec 6) (gd : Guard) (ty : Ty) (s : State) :
    Host.Outcome State Fault Refusal :=
  storeOp rule .task ty (fun g p => laneAddrs g p a imm gd) (storeData ty d) s

/-- `ST` to an immutable region: the trap of R140 when a lane is active (R143). -/
def execStK (rule : Rule) (d a imm : BitVec 6) (gd : Guard) (ty : Ty) (s : State) :
    Host.Outcome State Fault Refusal :=
  storeOp rule .immutable ty (fun g p => laneAddrs g p a imm gd) (storeData ty d) s

/-- The data of `STS`: scalar register D, or its pair. -/
def scalarData (ty : Ty) (d : BitVec 6) (p : Path) : Nat :=
  if ty.size = 8 then pairNat (sreg p d.toNat) (sreg p (d.toNat + 1)) else (sreg p d.toNat).toNat

/-- `STS` (R149). -/
def execSts (rule : Rule) (sp : Space) (d a imm : BitVec 6) (ty : Ty) (s : State) :
    Host.Outcome State Fault Refusal :=
  storeOp rule sp ty (fun _ p => scalarAddr p a imm) (fun _ p _ => scalarData ty d p) s

/-! ### `WATCH` -/

/-- The distinct aligned words of a `WATCH`, with the lane that named each first (R150). -/
def watchWords (ls : List (Nat × Nat)) : List (Nat × Nat) :=
  ls.foldl (fun ws x => if ws.any fun y => decide (y.2 = x.2) then ws else ws ++ [x]) []

/-- The watch slots of a core in use, by the groups a test admits (R150, R263). -/
def watchSlots (s : State) (ok : Group → Bool) : Nat :=
  ((s.groups.filter ok).flatMap fun g => g.paths.map fun p =>
    match p.park with
    | some (.watch _ ws) => ws.length
    | _ => 0).sum

/-- The partition of a task. -/
def partOf (s : State) (task : Nat) : Nat := (findTask s task).elim 0 (·.part)

/-- Whether `n` watch slots are free on a core for a group's partition (R150, R263). -/
def slotsFree (s : State) (g : Group) (n : Nat) : Bool :=
  decide (n = 0) || decide (watchSlots s (fun x => decide (x.core = g.core)) + n ≤ 32) &&
  (match findPart s (partOf s g.task) with
    | some q => decide (watchSlots s (fun x => decide (x.core = g.core) &&
        decide (partOf s x.task = q.id)) + n ≤ q.wch)
    | none => true)

/-- The first tests of a `WATCH`: each word's sector is read and decoded (R134), and the path goes on or parks on what is
not satisfied. R135 has no row for a test that meets an uncorrectable sector: the model takes it as a load (log entry
83). -/
def watchTest (cond : WCond) (s : State) (g : Group) (p : Path) (ws : List (Nat × Nat)) : State :=
  match ws.find? fun x => sectorBad s (sectorOf x.2) with
  | some x => stopBad s { task := g.task, step := (laneOf g x.1).step, tid := (laneOf g x.1).tid, pc := seqStart p } (sectorOf x.2)
  | none =>
    let s := ws.foldl (fun s x => readSector s (sectorOf x.2)) s
    let tested := testWords s cond (ws.map fun x => (x.2, false))
    if tested.all (·.2) then putPath s g (advance p) else putPath s g (parked p (.watch cond tested))

/-- `WATCH` (R150): check, wait for one slot a word, test each word once, and park on what is not satisfied, holding
the slots. The word waits at issue while slots are missing or its tests would come too early (R126). -/
def execWatch (cond : WCond) (a imm : BitVec 6) (gd : Guard) (sp : Space) (s : State) :
    Host.Outcome State Fault Refusal :=
  onPath s fun g p w =>
    let ls := laneAddrs g p a imm gd
    match firstLane ls (fun ea => decide (ea % 4 ≠ 0)) with
    | some x => memoryTrap s g p x.1 w sp false x.2
    | none =>
      match firstLane ls (fun ea => !(resolve s g sp ea 4).isOk) with
      | some x => memoryTrap s g p x.1 w sp false x.2
      | none =>
        let ws := watchWords ls
        match g.handler, ls, ws[4]? with
        | some _, x :: _, _ => takeTrap s g p (plainTrap 0x04 x.1 w)
        | _, _, some x => memoryTrap s g p x.1 w sp false x.2
        | _, _, none =>
          let words := ws.map fun x => (x.1, absoluteOf s g sp x.2)
          if slotsFree s g words.length && words.all (fun x => testArrives s g x.2) then watchTest cond s g p words
          else putPath s g (parked p .issue)

/-! ### `PRES`, `ABSA` and `RELA` -/

/-- Each active lane computes one register from its effective address after the checks of R140. -/
def addressOp (check : Bool) (sp : Space) (d a imm : BitVec 6) (gd : Guard)
    (f : State → Group → Nat → Word) (s : State) : Host.Outcome State Fault Refusal :=
  onPath s fun g p w =>
    let ls := laneAddrs g p a imm gd
    match firstLane ls (fun ea => check && !(resolve s g sp ea 1).isOk) with
    | some x => memoryTrap s g p x.1 w sp false x.2
    | none =>
      putPath s (modLanes g (activeMask p gd) fun l t =>
        setVreg t d.toNat (f s g (effAddr g p a imm l))) (advance p)

/-- `PRES` (R151). -/
def execPres (d a imm : BitVec 6) (gd : Guard) (sp : Space) (s : State) :
    Host.Outcome State Fault Refusal :=
  addressOp true sp d a imm gd
    (fun s g ea => if linePresent s (lineOf (absoluteOf s g sp ea)) then 1 else 0) s

/-- `ABSA` (R152). -/
def execAbsa (d a imm : BitVec 6) (gd : Guard) (s : State) : Host.Outcome State Fault Refusal :=
  addressOp true .party d a imm gd (fun s g ea => BitVec.ofNat 32 (absoluteOf s g .party ea)) s

/-- `RELA` (R152): the party offset of an address its own party owns, or all ones. Its granules stay the party's own while it
drains (R101, R121). -/
def execRela (d a imm : BitVec 6) (gd : Guard) (s : State) : Host.Outcome State Fault Refusal :=
  addressOp false .task d a imm gd
    (fun s g ea =>
      if sameHolder (ownerAt s ea) (.party g.task g.party) && decide (sliceOf ea = g.core) then
        BitVec.ofNat 32 (ea - absoluteOf s g .party 0)
      else BitVec.allOnes 32) s

end Sys2Proof.Machine
end

