-- ==== Sys2Proof/Machine/Stack.lean ====
section
/-!
DEFINITION. The stacks: the decoding of a device-physical address (R61, R62), the plat check (R64,
R65), activations and targeted refresh (R66, R67), error reports (R68), and where the replicas of a
task's tables lie (R72 to R74).
-/

namespace Sys2Proof.Machine

open Sys2Proof

/-! ### Device-physical addresses (R61, R62) -/

/-- ROW of a device-physical address. -/
def rowOf (dpa : Nat) : Nat := dpa / 2 ^ 23 % 65536
/-- The pseudo-channel of a device-physical address, counted over the device: stack, quadrant, PCH. -/
def pchOf (dpa : Nat) : Nat := (dpa / 2 ^ 8 % 8 * 4 + dpa / 2 ^ 11 % 4) * 16 + dpa / 2 ^ 13 % 16
/-- The bank of a device-physical address, counted over the device. -/
def bankOf (dpa : Nat) : Nat := pchOf dpa * 16 + dpa / 2 ^ 17 % 4 * 4 + dpa / 2 ^ 19 % 4
/-- The 64-byte burst of a device-physical address. -/
def burstOf (dpa : Nat) : Nat := dpa / 64
/-- The last row open to engine and host requests. -/
def lastOpenRow : Nat := 65375
/-- The first row of the table-row group. -/
def firstTableRow : Nat := 65408
/-- The stack of a bank counted over the device. -/
def stackOfBank (bank : Nat) : Nat := bank / 1024

/-- The device-physical address of a column of a row, by stack, quadrant, pseudo-channel, bank (4 ·
BG + BANK), row and column (R61). -/
def dpaOf (stack quad pch bank row col : Nat) : Nat :=
  row * 2 ^ 23 + col / 256 * 2 ^ 21 + bank % 4 * 2 ^ 19 + bank / 4 * 2 ^ 17 + pch * 2 ^ 13 +
    quad * 2 ^ 11 + stack * 2 ^ 8 + col % 256

/-! ### The plat (R64, R65) -/

/-- V of a range entry. -/
def platV (e : BitVec 64) : Bool := e.getLsbD 63
/-- DOM of a range entry. -/
def platDom (e : BitVec 64) : Nat := e.toNat / 2 ^ 56 % 16
/-- LIMIT of a range entry. -/
def platLimit (e : BitVec 64) : Nat := e.toNat / 2 ^ 32 % 65536
/-- BASE of a range entry. -/
def platBase (e : BitVec 64) : Nat := e.toNat / 2 ^ 16 % 65536

/-- Whether a row lies in a valid range of a domain (R65); the other rows never do (R62). -/
def platAllows (plat : Vector (BitVec 64) 16) (dom row : Nat) : Bool :=
  decide (row ≤ lastOpenRow) &&
    plat.toList.any fun e => platV e && decide (platDom e = dom) && decide (platBase e ≤ row) &&
      decide (row ≤ platLimit e)

/-- Whether table block `b` is assigned to a domain (R64). -/
def blockOwned (w : BitVec 64) (b dom : Nat) : Bool :=
  let f := w.toNat / 2 ^ (5 * b) % 32
  decide (f = 16 + dom)

/-! ### Activations, refresh and error counts (R66 to R68) -/

/-- Add one to the count of a key. -/
def bump [DecidableEq α] (l : List (α × Nat)) (k : α) : List (α × Nat) := setAssoc l k (assoc l k 0 + 1)

/-- Count an activation of a normal row of the bank of an address (R66). -/
def activateNormal (d : Dram) (dpa : Nat) : Dram := { d with bankActs := bump d.bankActs (bankOf dpa) }

/-- Cycles of the 400 ns bound at the full clock (R2, R69). -/
def boundCycles : Nat := 520

/-- The moment at which the bound of a queued request expires: the time of up to two refreshes of its bank is added
(R69). -/
def expiryOf (e : QueueEntry) : Nat := e.since + boundCycles + e.refreshes * Config.refreshCycles

/-- Whether a queued request has waited for its bound; with more than two refreshes of its bank the bound does not hold
(R69). -/
def entryExpired (now : Nat) (e : QueueEntry) : Bool := decide (e.refreshes ≤ 2) && decide (expiryOf e ≤ now)

/-- A bank has been refreshed: the requests that wait for it count the refresh, if their bound has not yet expired: only a
refresh within the interval adds to it (R69). -/
def bankRefreshed (now : Nat) (l : List QueueEntry) (bank : Nat) : List QueueEntry :=
  updWhere l (fun e => decide (e.bank = bank) && !entryExpired now e) fun e => { e with refreshes := e.refreshes + 1 }

/-- The targeted refresh of a table row's two neighbours: the row's count is reset, and so are those of
the neighbours, which have just been refreshed (R67). The requests that wait for the bank count it (R69). -/
def targetRow (now : Nat) (d : Dram) (bank row : Nat) : Dram :=
  { d with
    queues := bankRefreshed now d.queues bank
    rowActs := d.rowActs.filter fun x => !(decide (x.1.1 = bank) &&
      (decide (x.1.2 = row) || decide (x.1.2 + 1 = row) || decide (x.1.2 = row + 1)))
    targeted := bump d.targeted (stackOfBank bank) }

/-- Activate a table row (R67): a row whose count stands at 2,048 first has its neighbours refreshed. -/
def activateTableRow (now : Nat) (d : Dram) (bank row : Nat) : Dram :=
  let d := if 2048 ≤ assoc d.rowActs (bank, row) 0 then targetRow now d bank row else d
  { d with rowActs := bump d.rowActs (bank, row) }

/-- What the on-die ECC reports of a burst (R68). -/
def reportOf (d : Dram) (burst : Nat) : ScrubOutcome := assoc d.reports burst .clean

/-- Count what a read of a burst reports, by pseudo-channel (R68). -/
def countReport (d : Dram) (dpa : Nat) : Dram :=
  match reportOf d (burstOf dpa) with
  | .clean => d
  | .corrected => { d with corrected := bump d.corrected (pchOf dpa) }
  | .uncorrectable => { d with uncorrected := bump d.uncorrected (pchOf dpa) }

/-- Read a burst of normal rows on the device's own behalf: one activation, and its error report is counted (R66,
R68). -/
def readNormal (d : Dram) (dpa : Nat) : Dram := countReport (activateNormal d dpa) dpa

/-! ### Tables (R71 to R74) -/

/-- The declaration of table `k` of a task: entry size and entry count. -/
def tableDecl (t : Task) (k : Nat) : Option (Nat × Nat) :=
  (t.decl.regions.find? fun r => decide (r.kind = .table) && decide (r.tbl = k)).map fun r =>
    (2 ^ r.tsz, r.size / 2 ^ r.tsz)

/-- The device-physical address of a byte of table `k` in the replica of a core (R73, R74). -/
def tableDpa (core block k o : Nat) : Nat :=
  let t := tractOf core
  let c := core % 64
  let q := c / 16
  dpaOf ((t + 16 - 2 * q) % 8) q (c % 16) k (firstTableRow + 16 * block + o / 1024) (o % 1024)

/-- The bank of table `k` in the replica of a core. -/
def tableBank (core block k : Nat) : Nat := bankOf (tableDpa core block k 0)

end Sys2Proof.Machine
end

