-- ==== Sys2Proof/Machine/Query.lean ====
section
/-!
DEFINITION. Table queries, major 0x33 (R76 to R84): the issue of `TQ` and `TQB`, and the event that
returns a query's entries.
-/

namespace Sys2Proof.Machine

open Sys2Proof

/-! ### Issue (R77, R79, R81) -/

/-- The outstanding queries of a core. -/
def coreQueries (s : State) (core : Nat) : Nat :=
  (s.eng.queries.filter fun q => decide (q.core = core)).length

/-- The common issue of a query: the active lanes' index words are captured at once (R79). -/
def queryOp (qb : Bool) (d a : BitVec 6) (tbl : BitVec 4) (ix : Bool) (gd : Guard) (ty : Ty) (s : State) :
    Host.Outcome State Fault Refusal :=
  onPath s fun g p _ =>
    let act := activeMask p gd
    if act = 0 then putPath s g (advance p)
    else if 16 ≤ coreQueries s g.core then putPath s g (parked p .issue)
    else
      let (n, s1) := freshId s
      let q : Query := {
        id := n, task := g.task, gid := g.gid, core := g.core, d := d.toNat, tbl := tbl.toNat,
        ix := ix, qb := qb, ty := ty, pc := seqStart p,
        lanes := (lanesOf act).map fun l => (l, laneReg g l a.toNat), opened := 0 }
      putPath { s1 with eng.queries := s1.eng.queries ++ [q] } g (advance p)

/-- `TQ` (R79). -/
def execTq (d a : BitVec 6) (tbl : BitVec 4) (ix : Bool) (gd : Guard) (ty : Ty) (s : State) :
    Host.Outcome State Fault Refusal :=
  queryOp false d a tbl ix gd ty s

/-- `TQB` (R79). -/
def execTqb (d a : BitVec 6) (tbl : BitVec 4) (ix : Bool) (gd : Guard) (ty : Ty) (s : State) :
    Host.Outcome State Fault Refusal :=
  queryOp true d a tbl ix gd ty s

/-! ### Completion (R76, R78, R79, R80, R83) -/

/-- The indices of a lane's index register, in ascending position. -/
def indicesOf (ix : Bool) (w : Word) : List Nat :=
  if ix then (List.range 2).map fun k => w.toNat / 2 ^ (16 * k) % 65536
  else (List.range 4).map fun k => w.toNat / 2 ^ (8 * k) % 256

/-- The byte address of entry `x` of a query's table in the core's replica. -/
def entryDpa (q : Query) (block x : Nat) : Nat := tableDpa q.core block q.tbl (x * q.ty.size)

/-- The entry of an index as placed at admission. -/
def entryValue (s : State) (q : Query) (block x : Nat) : Nat :=
  natOfBytes ((List.range q.ty.size).map fun i =>
    cellGet s.dram.tableRows (tableDpa q.core block q.tbl (x * q.ty.size + i)))

/-- `QSTAT` after the errors of one lane's indices, taken in ascending position (R78, R79). -/
def qstatAfter (decl : Option (Nat × Nat)) (z : Nat) (xs : List Nat) (w : Word) : Word :=
  match decl with
  | none => w ||| 2
  | some (size, count) =>
    if z ≠ size then w ||| 4
    else ((xs.mapIdx fun k x => (k, x)).filter fun y => decide (count ≤ y.2)).foldl (fun w y =>
      if w &&& 1 = 0 then
        (w &&& 0xFF00003F) ||| BitVec.ofNat 32 (y.2 * 256) ||| BitVec.ofNat 32 (y.1 * 64) ||| 1
      else w) w

/-- The entries of a lane: zero where the table is undeclared, mis-sized or the index out of range. -/
def laneEntries (s : State) (q : Query) (block : Nat) (decl : Option (Nat × Nat)) (xs : List Nat) :
    List Nat :=
  xs.map fun x =>
    match decl with
    | some (size, count) =>
      if q.ty.size = size ∧ x < count then entryValue s q block x else 0
    | none => 0

/-- The result registers of a lane (R79): raw bytes packed from the lowest up, or one widened entry
per register. -/
def queryResult (q : Query) (es : List Nat) : List Word :=
  if q.qb then es.map (widen q.ty)
  else
    let bs := es.flatMap (bytesOfNat q.ty.size)
    (List.range (queryRegs q.qb q.ix q.ty)).map fun k =>
      BitVec.ofNat 32 (natOfBytes ((bs.drop (4 * k)).take 4))

/-- The in-range indices of a query, lane by lane. -/
def wanted (q : Query) (decl : Option (Nat × Nat)) : List (Nat × Nat) :=
  match decl with
  | some (size, count) =>
    if q.ty.size = size then
      q.lanes.flatMap fun l => ((indicesOf q.ix l.2).filter fun x => decide (x < count)).map fun x => (l.1, x)
    else []
  | none => []

/-- The rows a query opens (R76): each distinct row once, in ascending order. -/
def queryRows (q : Query) (block : Nat) (ws : List (Nat × Nat)) : List Nat :=
  sortBy (fun a b => decide (a ≤ b)) (ws.map fun w => rowOf (entryDpa q block w.2)).dedup

/-- The bursts a query reads (R76): each distinct one once. -/
def queryBursts (q : Query) (block : Nat) (ws : List (Nat × Nat)) : List Nat :=
  (ws.map fun w => burstOf (entryDpa q block w.2)).dedup

/-- A query that has been answered leaves its core's outstanding queries. -/
def dropQuery (s : State) (id : Nat) : State :=
  { s with eng.queries := s.eng.queries.filter fun q => decide (q.id ≠ id) }

/-- The results of a query written into the lanes that asked. -/
def writeResults (s : State) (q : Query) (block : Nat) (decl : Option (Nat × Nat)) (g : Group) : Group :=
  modLanes g (maskOf (q.lanes.map (·.1))) fun l t =>
    let xs := indicesOf q.ix (assoc q.lanes l 0)
    let ws := queryResult q (laneEntries s q block decl xs)
    let t := (ws.mapIdx fun k w => (q.d + k, w)).foldl (fun t y => setVreg t y.1 y.2) t
    { t with qstat := qstatAfter decl q.ty.size xs t.qstat }

/-- Whether the task of a query lets it go on: it has not been told to stop. -/
def queryActs (s : State) (q : Query) : Bool := (findTask s q.task).any fun t => t.stop.isNone

/-- Whether a query `x` that arrived before `q` goes before it (R76): queries of one core reach one pseudo-channel (R74) and
start in their order of arrival, those to one bank, which is one table, are served one after another, and those of one
group write `QSTAT` in the order of their issue (R33; log entry 74). -/
def goesBefore (x q : Query) : Bool :=
  decide (x.gid = q.gid) || (decide (x.core = q.core) && (decide (x.tbl = q.tbl) || (decide (x.opened = 0) && decide (q.opened = 0))))

/-- Whether a query waits for one that arrived before it. -/
def queryBehind (s : State) (q : Query) : Bool :=
  (s.eng.queries.takeWhile fun x => decide (x.id ≠ q.id)).any fun x => queryActs s x && goesBefore x q

/-! ### The pseudo-channel queue of a bank that a query holds (R63, R69, R70) -/

/-- The bank of the table of a query. -/
def queryBank (s : State) (q : Query) : Option Nat :=
  (findTask s q.task).map fun t => tableBank q.core (t.block.getD 0) q.tbl

/-- Whether a table query holds a bank. From when it does R69 does not say: in the model every outstanding query does from
its issue on, also one that waits behind another, or whose task has been told to stop (log entry 119). -/
def queryAtBank (s : State) (bank : Nat) : Bool := s.eng.queries.any fun q => decide (queryBank s q = some bank)

/-- Whether a query is at a pseudo-channel. -/
def atPch (s : State) (q : Query) (pch : Nat) : Bool := decide ((queryBank s q).map (· / 16) = some pch)

/-- Whether a query of a pseudo-channel has yielded and still has to resume with its next row (R70, step 3). -/
def pchResumes (s : State) (pch : Nat) : Bool :=
  s.eng.queries.any fun q => q.resumes && queryActs s q && atPch s q pch

/-- Whether the bound of a request of a pseudo-channel queue has expired (R69, R70). -/
def boundExpired (s : State) (pch : Nat) : Bool :=
  s.dram.queues.any fun e => decide (e.pch = pch) && entryExpired s.now e

/-- Whether the queries of a pseudo-channel yield now to an expired bound: each that yielded before has resumed, so that a
query yields at most once per expiry (R70). -/
def boundDue (s : State) (pch : Nat) : Bool := boundExpired s pch && !pchResumes s pch

/-- The moments at which bounds of a pseudo-channel queue have expired. -/
def expiries (s : State) (pch : Nat) : List Nat :=
  (s.dram.queues.filter fun e => decide (e.pch = pch) && entryExpired s.now e).map expiryOf

/-- Whether a request stood in a pseudo-channel queue when the first of its bounds expired (R70, step 2). -/
def inAtExpiry (s : State) (pch : Nat) (e : QueueEntry) : Bool :=
  decide (e.pch = pch) && decide (expiries s pch ≠ []) && (expiries s pch).all fun m => decide (e.since ≤ m)

/-- Whether the requests that enter a pseudo-channel queue now wait for a query of it that has to yield or to resume: it
goes ahead of them with its next row (R70, step 3). -/
def pchYields (s : State) (pch : Nat) : Bool :=
  pchResumes s pch || (boundExpired s pch && s.eng.queries.any fun q => queryActs s q && atPch s q pch)

/-- Whether a request waits in a pseudo-channel queue behind a table query (R69, R70). -/
def inQueue (s : State) (req n : Nat) : Bool :=
  s.dram.queues.any fun e => decide (e.req = req) && decide (e.n = n)

/-- Answer a peer's command and keep the response in the window of 4096 (R299). A command that is answered with code 0x04
without being executed enters the window as well (log entry 90). -/
def answerPeer (s : State) (x : Serve) (code : Nat) (data : List Byte) : State :=
  let r : FabDone := { source := x.source, seq := x.seq, code := code, data := data }
  let mine := s.fabric.done.filter fun y => decide (y.source = x.source)
  { s with
    fabric.serving := s.fabric.serving.filter fun y => decide (y.id ≠ x.id)
    fabric.done := (s.fabric.done.filter fun y => decide (y.source ≠ x.source)) ++
      (mine ++ [r]).drop (mine.length + 1 - 4096)
    fabric.answers := s.fabric.answers ++ [r] }

/-- The code and the data with which a request that has been performed is answered; none for one that still waits. -/
def outcomeOf (st : BurstState) : Option (Nat × List Byte) :=
  match st with
  | .got d => some (0, d)
  | .accepted => some (0, [])
  | .failed c => some (c, [])
  | _ => none

/-- Answer a peer's command if it has been performed and its request is no longer queued. -/
def answerIssued (s : State) (x : Serve) : State :=
  match outcomeOf x.state with
  | some r => if inQueue s x.id 0 then s else answerPeer s x r.1 r.2
  | none => s

/-- The requests of the host and of peers that no longer wait in a queue are answered (R69, R70, R294, R299). -/
def answerHeld (s : State) : State :=
  let s1 := { s with
    host.held := s.host.held.filter fun x : Nat × HostResponse => inQueue s x.1 0
    host.responses := s.host.responses ++ s.host.held.filterMap fun x : Nat × HostResponse =>
      if inQueue s x.1 0 then none else some x.2 }
  s1.fabric.serving.foldl answerIssued s1

/-- Release normal requests that wait behind a query (R69, R70). -/
def issueQueued (s : State) (f : QueueEntry → Bool) : State :=
  answerHeld { s with dram.queues := s.dram.queues.filter fun e => !f e }

/-- Whether nothing keeps a queued request any more: no query holds its bank, and none of its pseudo-channel has to yield
or to resume. -/
def entryFree (s : State) (e : QueueEntry) : Bool := !queryAtBank s e.bank && !pchYields s e.pch

/-- The requests that nothing keeps any more are issued. -/
def issueFree (s : State) : State := issueQueued s (entryFree s)

/-- The rows that a query has still to open. -/
def rowsLeft (q : Query) (block : Nat) (ws : List (Nat × Nat)) : List Nat := (queryRows q block ws).drop q.opened

/-- Open a row for a query and gather all it needs there (R70, R76): one activation, and each distinct burst read
once with its report counted. -/
def openRow (now : Nat) (d : Dram) (q : Query) (block : Nat) (ws : List (Nat × Nat)) (row : Nat) : Dram :=
  ((queryBursts q block ws).filter fun b => decide (rowOf (b * 64) = row)).foldl (fun d b => countReport d (b * 64))
    (activateTableRow now d (tableBank q.core block q.tbl) row)

/-- The lane, first in lane order, that consumes an uncorrectable burst of a row, with its index. -/
def badLane (s : State) (q : Query) (block : Nat) (ws : List (Nat × Nat)) (row : Nat) : Option (Nat × Nat) :=
  ws.find? fun w => decide (rowOf (entryDpa q block w.2) = row) &&
    decide (reportOf s.dram (burstOf (entryDpa q block w.2)) = .uncorrectable)

/-- A query is over: the normal requests that wait at its bank are issued, and so are those that nothing else keeps; none
before a query of the pseudo-channel that has still to yield or to resume (R70, step 3). -/
def endQuery (s : State) (q : Query) (block : Nat) : State :=
  issueQueued (dropQuery s q.id) fun e => !pchYields (dropQuery s q.id) e.pch &&
    (decide (e.bank = tableBank q.core block q.tbl) || !queryAtBank (dropQuery s q.id) e.bank)

/-- The thread that consumes an entry of a query. The lanes of a handler group can have ended (R124): no thread is left
then, with `STEP` 0 and `TID` all ones in its place (log entry 74). -/
def consumer (g : Option Group) (l : Nat) : Thread :=
  match g with
  | some g => laneOf g l
  | none => { (default : Thread) with tid := BitVec.allOnes 32 }

/-- The results of a query reach its group, if it has not ended. -/
def takeResults (s : State) (q : Query) (block : Nat) (decl : Option (Nat × Nat)) (g : Option Group) : State :=
  match g with
  | some g => putGroup s (writeResults s q block decl g)
  | none => s

/-- The base die goes on with a query (R76 to R84): it opens the next row, and after the last row every lane's registers
and `QSTAT` are written. An uncorrectable burst stops the task and writes nothing (R83); `FREC` takes the lane's `STEP`
as it stands then, and of several consuming lanes the first in lane order (log entry 74). -/
def advanceQuery (s : State) (q : Query) (g : Option Group) (t : Task) : State :=
  let block := t.block.getD 0
  let decl := tableDecl t q.tbl
  let ws := wanted q decl
  match rowsLeft q block ws with
  | [] => takeResults (endQuery s q block) q block decl g
  | r :: more =>
    let s1 := { s with dram := openRow s.now s.dram q block ws r }
    match badLane s q block ws r with
    | some w => stopWith (endQuery s1 q block) q.task (uncorrectable (consumer g w.1).step (consumer g w.1).tid 0 q.pc)
    | none =>
      if more = [] then takeResults (endQuery s1 q block) q block decl g
      else issueFree { s1 with eng.queries := updWhere s1.eng.queries (fun x => decide (x.id = q.id)) fun x =>
          { x with opened := x.opened + 1, resumes := false } }

/-- Whether a query must let normal requests go first: the bound of one of them has expired, a further row is
needed, and the query has not yielded already and still to resume with it (R70). -/
def queryYields (s : State) (q : Query) (t : Task) : Bool :=
  boundExpired s (tableBank q.core (t.block.getD 0) q.tbl / 16) && !q.resumes &&
    !(rowsLeft q (t.block.getD 0) (wanted q (tableDecl t q.tbl))).isEmpty

/-- Whether the base die goes on with a query: none goes before it, its task has not been told to stop, and no normal
request goes first. -/
def queryMoves (s : State) (q : Query) (t : Task) : Bool := !queryBehind s q && t.stop.isNone && !queryYields s q t

/-- The queries of a pseudo-channel that yield to an expired bound: those that would go on with a further row (R70). The rule
speaks of a query to the bank of the request; that the other queries of the pseudo-channel yield and resume with it is the
model's choice (log entry 106). -/
def yieldsNow (s : State) (pch : Nat) (q : Query) : Bool :=
  match findTask s q.task with
  | some t => !queryBehind s q && t.stop.isNone && queryYields s q t && atPch s q pch
  | none => false

/-- `QUERY_COMPLETE`: the base die goes on with query `id`, and answers it once its last row has been read. -/
def execQueryComplete (id : Nat) (s : State) : Host.Outcome State Fault Refusal :=
  .next (match s.eng.queries.find? fun q => q.id = id with
    | some q =>
      match findTask s q.task with
      | some t =>
        if queryMoves s q t then advanceQuery s q (findGroup s q.gid) t else s
      | none => s
    | none => s)

end Sys2Proof.Machine
end

