-- ==== Sys2Proof/Machine/Far.lean ====
section
/-!
DEFINITION. The far side of an engine request: translation (R283 to R287), the plat and the error
report of a burst (R65, R68), back-invalidate snoops (R295), host memory (R286, R295) and the fabric
(R299, R300).
-/

namespace Sys2Proof.Machine

open Sys2Proof

/-! ### Translation caches and the fault buffer (R283 to R287) -/

/-- The 4 KiB page of a virtual address. -/
def pageOf (va : Nat) : Nat := va / 4096

/-- Whether a cache entry gives a page of a PASID with the permission wanted. -/
def entryHits (e : XlatEntry) (cache : CacheOf) (pasid va : Nat) (write : Bool) : Bool :=
  decide (e.cache = cache) && decide (e.pasid = pasid) && decide (e.base ≤ va) &&
    decide (va < e.base + e.size) && (if write then e.write else e.read)

/-- The entries a cache can hold (R283). -/
def cacheCap (c : CacheOf) : Nat :=
  match c with
  | .tract _ => 16384
  | _ => 256

/-- Put an entry into its cache; the oldest entry of a full cache gives way (R283 names none; log entry 104). -/
def fillCache (l : List XlatEntry) (e : XlatEntry) : List XlatEntry :=
  let mine := l.filter fun x => decide (x.cache = e.cache)
  let rest := l.filter fun x => !(decide (x.cache = e.cache) && decide (x.pasid = e.pasid) &&
    decide (x.base = e.base))
  if mine.length < cacheCap e.cache then rest ++ [e]
  else
    match mine.head? with
    | some o => (rest.filter fun x => !decide (x = o)) ++ [e]
    | none => rest ++ [e]

/-- The translation of a virtual address: from the front end's cache, or from the tract's shared cache,
which then fills the front end's. None is a miss in both. -/
def translate (x : Xlate) (front : CacheOf) (tract pasid va : Nat) (write : Bool) : Option (Nat × Xlate) :=
  match x.caches.find? fun e => entryHits e front pasid va write with
  | some e => some (e.target + (va - e.base), x)
  | none =>
    match x.caches.find? fun e => entryHits e (.tract tract) pasid va write with
    | some e =>
      some (e.target + (va - e.base), { x with caches := fillCache x.caches { e with cache := front } })
    | none => none

/-- A tract sends an ATS request with a PASID, unless one is on its way. -/
def askAts (x : Xlate) (tract pasid page : Nat) (write : Bool) : Xlate :=
  if x.asked.contains (tract, pasid, page, write) then x
  else { x with asked := x.asked ++ [(tract, pasid, page, write)] }

/-- The generation of a tract's fault buffer (R285). -/
def genOf (x : Xlate) (tract : Nat) : Nat := assoc x.gens tract 0

/-- The records of a tract's fault buffer. -/
def bufferOf (x : Xlate) (tract : Nat) : List PageRecord :=
  x.records.filter fun r => decide (r.tract = tract)

/-- Join or add a record of the current generation (R285); none when the buffer is full. A write miss that joins a
record that wants only a read makes it want a write too (log entry 79). -/
def recordPage (x : Xlate) (now tract pasid page : Nat) (write : Bool) : Option Xlate :=
  let here := fun r : PageRecord => decide (r.tract = tract) && decide (r.gen = genOf x tract) &&
    decide (r.pasid = pasid) && decide (r.page = page)
  if x.records.any here then
    some { x with records := updWhere x.records here fun r => { r with write := r.write || write } }
  else if 512 ≤ (bufferOf x tract).length then none
  else some { x with
    records := x.records ++ [{ tract := tract, gen := genOf x tract, pasid := pasid, page := page, write := write,
                               since := now }] }

/-- Enter a code 0x01 in the partition's fault log, a ring of 16 entries (R287). -/
def logFault (x : Xlate) (f : XlatFault) : Xlate :=
  let mine := x.faults.filter fun y => decide (y.part = f.part)
  let rest := x.faults.filter fun y => decide (y.part ≠ f.part)
  { x with faults := rest ++ (mine ++ [f]).drop (mine.length + 1 - 16) }

/-- Count a remote access in an I/O die's table (R286); when all 4096 counters are in use, the lowest one is reused, the
first of several (log entry 105). -/
def countAccess (x : Xlate) (die pasid va : Nat) : Xlate :=
  let blk := va / 65536
  let hit := fun c : AccessCounter => decide (c.die = die) && decide (c.pasid = pasid) && decide (c.block = blk)
  if x.counters.any hit then
    { x with counters := updWhere x.counters hit fun c => { c with count := c.count + 1 } }
  else
    let mine := x.counters.filter fun c => decide (c.die = die)
    let new : AccessCounter := { die := die, pasid := pasid, block := blk, count := 1 }
    if mine.length < 4096 then { x with counters := x.counters ++ [new] }
    else
      let low := mine.foldl (fun b c => if c.count < b.count then c else b) (mine.headD new)
      { x with counters := (x.counters.filter fun c => !decide (c = low)) ++ [new] }

/-! ### On whose behalf a burst travels -/

/-- The client of a far access: partition, PASID, plat domain, the front end and its tract, and the
request and burst it serves. -/
structure Client where
  part : Nat
  pasid : Nat
  dom : Nat
  handle : Nat
  core : Nat
  front : CacheOf
  req : Nat
  n : Nat

/-- The client of an engine request. -/
def clientOf (s : State) (h : ReqHead) (front : CacheOf) (n : Nat) : Client :=
  let t := (findTask s h.task).getD default
  let q := (findPart s t.part).getD default
  { part := t.part, pasid := q.pasid, dom := q.dom, handle := t.handle, core := h.core, front := front,
    req := h.id, n := n }

/-- The fault-log entry of a client for a page it was refused. -/
def faultOf (c : Client) (va : Nat) (write : Bool) (code : Nat) : XlatFault :=
  { part := c.part, page := pageOf va, pasid := c.pasid, write := write, code := code, core := c.core,
    handle := c.handle }

/-! ### Access to the stacks and to host memory -/

/-- The size of the host-managed device memory range (R294). -/
def hdmSize : Nat := 0x7FB0000000

/-- Whether a host physical address lies in the device's range; its device-physical address. -/
def hdmOf (h : HostSide) (hpa : Nat) : Option Nat :=
  if h.hpa0 ≤ hpa ∧ hpa < h.hpa0 + hdmSize then some (hpa - h.hpa0) else none

/-- Whether the pseudo-channel queue of an address has a free entry (R63). -/
def queueFree (s : State) (dpa : Nat) : Bool :=
  decide ((s.dram.queues.filter fun e => decide (e.pch = pchOf dpa)).length < 64)

/-- A request enters its pseudo-channel queue; it is listed while a table query holds its bank, or a query of the
pseudo-channel goes ahead of it (R70). The spec gives no
open-row policy, and each request counts as one activation of its bank, one to a row that is open too (log entry 71). -/
def enterQueue (s : State) (c : Client) (dpa : Nat) : State :=
  let s := { s with dram := activateNormal s.dram dpa }
  if queryAtBank s (bankOf dpa) || pchYields s (pchOf dpa) then
    { s with dram.queues := s.dram.queues ++
        [{ pch := pchOf dpa, bank := bankOf dpa, req := c.req, n := c.n, since := s.now, refreshes := 0 }] }
  else s

/-- Write bytes to the stacks. A burst that is written whole no longer reports an error; one written in part keeps its
report, which is neither read nor counted (log entry 71). -/
def dramWrite (d : Dram) (dpa : Nat) (bs : List Byte) : Dram :=
  let d := { d with mem := cellSetAll d.mem (addressed dpa bs) }
  if 64 ≤ bs.length ∧ dpa % 64 = 0 then
    { d with reports := d.reports.filter fun r => decide (r.1 ≠ burstOf dpa) }
  else d

/-- A burst enters the stacks (R63, R65, R68): refused by the plat, written, or read. -/
def stackAccess (s : State) (c : Client) (write : Option (List Byte)) (dpa len : Nat) :
    State × BurstState :=
  if !platAllows s.dram.plat c.dom (rowOf dpa) then (s, .failed 0x02)
  else
    let s1 := enterQueue s c dpa
    match write with
    | some bs => ({ s1 with dram := dramWrite s1.dram dpa bs }, .accepted)
    | none =>
      let s2 := { s1 with dram := countReport s1.dram dpa }
      if reportOf s.dram (burstOf dpa) = .uncorrectable then (s2, .failed 0x03)
      else (s2, .got (bytesAt s.dram.mem dpa len))

/-- An access to host memory over CXL.cache, counted on I/O die 0, which has the host link (R286, R295). -/
def hostAccess (s : State) (c : Client) (va : Nat) (write : Option (List Byte)) (hpa len : Nat) :
    State × BurstState :=
  let s1 := { s with xlate := countAccess s.xlate 0 c.pasid va }
  match write with
  | some bs => ({ s1 with host.mem := cellSetAll s1.host.mem (addressed hpa bs) }, .accepted)
  | none => (s1, .got (bytesAt s1.host.mem hpa len))

/-- Send a back-invalidate snoop of a burst, `BISnpInv` before a write and `BISnpCur` before a read, unless one of that
kind is on its way (R295). -/
def sendSnoop (h : HostSide) (burst : Nat) (inv : Bool) : HostSide :=
  if h.snoops.contains (burst, inv) then h else { h with snoops := h.snoops ++ [(burst, inv)] }

/-- A translated burst goes on its way: to the stacks, after a snoop where the host may hold the burst
(R295), or to the host. The queue must have room (R63). A write without bytes needs no snoop. -/
def physical (s : State) (c : Client) (va : Nat) (write : Option (List Byte)) (hpa len : Nat) :
    State × BurstState :=
  match hdmOf s.host hpa with
  | some dpa =>
    if s.host.tracked.contains (burstOf dpa) && decide (write ≠ some []) then
      ({ s with host := sendSnoop s.host (burstOf dpa) write.isSome }, .snoop dpa)
    else if queueFree s dpa then stackAccess s c write dpa len
    else (s, .again)
  | none => hostAccess s c va write hpa len

/-- Translate a virtual address of a PASID and go on, or ask the host (R283). -/
def translated (s : State) (c : Client) (va : Nat) (write : Option (List Byte)) (len : Nat) :
    State × BurstState :=
  match translate s.xlate c.front (tractOf c.core) c.pasid va write.isSome with
  | some r => physical { s with xlate := r.2 } c va write r.1 len
  | none => ({ s with xlate := askAts s.xlate (tractOf c.core) c.pasid (pageOf va) write.isSome }, .ats 0)

/-! ### The fabric (R299, R300) -/

/-- Whether a far address is a fabric address. -/
def isFabric (va : Nat) : Bool := decide (va / 2 ^ 63 % 2 = 1)
/-- DEV of a fabric address. -/
def devOf (va : Nat) : Nat := va / 2 ^ 48 % 32768
/-- RVA of a fabric address. -/
def rvaOf (va : Nat) : Nat := va % 2 ^ 48

/-- The number of the flit that carries a command. -/
def flitOf (part seq : Nat) : Nat := part * 2 ^ 32 + seq

/-- Enter a flit in the replay buffer of a port, which holds 512 (R299). -/
def enterReplay (l : List (Nat × Nat)) (port flit : Nat) : List (Nat × Nat) :=
  let mine := l.filter fun x => decide (x.1 = port)
  (l.filter fun x => decide (x.1 ≠ port)) ++ (mine ++ [(port, flit)]).drop (mine.length + 1 - 512)

/-- The I/O die of a fabric port: ports 0 to 23 are on die 0 (R18). -/
def dieOfPort (port : Nat) : Nat := port / 24

/-- Send a command over the fabric (R299): it takes the partition's next sequence number, names the target partition
and PASID of the binding (R300), and leaves by a port that the spec does not name: a free value does (log entry 78). The
port's I/O die counts the access (R286). -/
def sendFabric (s : State) (c : Client) (b : Binding) (va : Nat) (write : Option (List Byte)) (len : Nat) :
    State × BurstState :=
  let seq := assoc s.fabric.nextSeq c.part 0
  let port := Config.firstPort seq % 48
  let cmd : FabOut := {
    part := c.part, seq := seq, dev := devOf va, peer := b.peer, pasid := b.pasid, rva := rvaOf va,
    write := write.isSome, data := write.getD (List.replicate len 0), req := c.req, burst := c.n, port := port,
    sends := 1, since := s.now }
  ({ s with
      fabric.nextSeq := setAssoc s.fabric.nextSeq c.part ((seq + 1) % 2 ^ 32)
      fabric.out := s.fabric.out ++ [cmd]
      fabric.replay := enterReplay s.fabric.replay port (flitOf c.part seq)
      xlate := countAccess s.xlate (dieOfPort port) c.pasid va }, .fabric seq)

/-- Whether a partition of this device answers commands: it exists and no reset of it has begun (R299, R301, R302). -/
def answers (s : State) (part : Nat) : Bool :=
  (findPart s part).isSome && !s.host.resetting.contains part

/-- Send one far burst of a request on its way (R100, R283, R300): its next state. A command to this device's own number
goes to a local partition, and fails while that is reset (R301). -/
def farBurst (s : State) (c : Client) (write : Option (List Byte)) (va len : Nat) : State × BurstState :=
  if isFabric va then
    match s.fabric.bindings.find? fun b => decide (b.part = c.part) && decide (b.dev = devOf va) with
    | none => (s, .failed 0x04)
    | some b =>
      if devOf va = s.fabric.dev then
        if !answers s b.peer then (s, .failed 0x04)
        else translated s { c with pasid := b.pasid, dom := (findPart s b.peer).elim 0 (·.dom) } (rvaOf va)
          write len
      else if s.fabric.reachable.contains (devOf va) then sendFabric s c b va write len
      else (s, .failed 0x04)
  else translated s c va write len

/-! ### The ranges engines may reach (R100, code 0x05) -/

/-- Whether a far range lies inside one region of kind 2 whose AR or AW bit is set. -/
def farAllowed (t : Task) (write : Bool) (a n : Nat) : Bool :=
  t.decl.regions.any fun r => decide (r.kind = .dram) && (if write then r.aw else r.ar) &&
    decide (r.far ≤ a) && decide (a + n ≤ r.far + r.size)

end Sys2Proof.Machine
end

