-- ==== Sys2Proof/Machine/Paths.lean ====
section
/-!
DEFINITION. Paths and groups as a whole: the instruction-buffer pool (R241), lanes that leave a path,
the rejoin (R246), new groups (R110, R188, R251, R266), and what the end of a party's or a task's last
thread does (R101, R121, R127, R265).
-/

namespace Sys2Proof.Machine

open Sys2Proof

/-! ### The instruction-buffer pool (R241) -/

/-- Whether a path holds a pool entry. -/
def isBuffered (p : Path) : Bool := decide (p.slot = .buffered)

/-- The moment a path became held. -/
def heldSince (p : Path) : Option Nat :=
  match p.slot with
  | .held t => some t
  | _ => none

/-- The pool entries of a core in use. -/
def poolUsed (gs : List Group) (core : Nat) : Nat :=
  ((gs.filter fun g => decide (g.core = core)).flatMap fun g => g.paths.filter isBuffered).length

/-- The path of a list that has been held longest. -/
def longestHeld (ps : List (Nat × Path)) : Option (Nat × Path) :=
  ps.foldl (fun best x =>
    match heldSince x.2, best with
    | none, _ => best
    | some _, none => some x
    | some t, some b => if t < (heldSince b.2).getD 0 then some x else best) none

/-- A group keeps one path that needs no entry. Which one takes that place when its first path has ended R241 does not say: in
the model a buffered path, or else the path held longest (log entry 111). -/
def keepFirst (g : Group) : Group :=
  if g.paths.any fun p => decide (p.slot = .first) then g
  else
    match g.paths.find? isBuffered with
    | some p => setPath g { p with slot := .first }
    | none =>
      match longestHeld (g.paths.map fun p => (0, p)) with
      | some p => setPath g { p.2 with slot := .first }
      | none => g

/-- One freed pool entry of a core goes to a held path of the group `gid`, or else to the path of
another group that has been held longest. -/
def grantEntry (s : State) (core gid : Nat) : State :=
  if 32 ≤ poolUsed s.groups core then s
  else
    let here := s.groups.filter fun g => decide (g.core = core)
    let all := here.flatMap fun g => g.paths.map fun p => (g.gid, p)
    let pick := match longestHeld (all.filter fun x => decide (x.1 = gid)) with
      | some x => some x
      | none => longestHeld all
    match pick with
    | none => s
    | some x =>
      match findGroup s x.1 with
      | some g => putPath s g { x.2 with slot := .buffered }
      | none => s

/-- Hand out every free pool entry of a core. -/
def refillPool (s : State) (core gid : Nat) : State :=
  (List.range 32).foldl (fun s _ => grantEntry s core gid) s

/-! ### Rejoin (R246) -/

/-- The mask with which a path is parked at a `JOIN`. -/
def joinMask (p : Path) : Option Mask :=
  match p.park with
  | some (.join m) => some m
  | _ => none

/-- The paths of a group parked with a mask. -/
def parkedWith (g : Group) (m : Mask) : List Path :=
  g.paths.filter fun p => decide (joinMask p = some m)

/-- Whether every lane of a mask is parked with it, has exited or has been filed. -/
def joinReady (g : Group) (m : Mask) : Bool :=
  let here := (parkedWith g m).foldl (fun a p => a ||| p.exec) 0
  (lanesOf m).all fun l => here.getLsbD l ||
    decide ((laneOf g l).state = .exited) || decide ((laneOf g l).state = .filed)

/-- The place of a merged path: the best that one of its parts had. -/
def mergedSlot (ps : List Path) : Slot :=
  if ps.any fun p => decide (p.slot = .first) then .first
  else if ps.any isBuffered then .buffered
  else ((longestHeld (ps.map fun p => (0, p))).map fun x => x.2.slot).getD .first

/-- A predicate of the merged path: each lane brings its bit (R246). The bits of lanes that no merged path had are 0 (log
entry 87). -/
def mergedPred (ps : List Path) (k : Nat) (h : k < 7) : Mask :=
  ps.foldl (fun m p => m ||| (p.p[k] &&& p.exec)) 0

/-- Merge the paths parked with a mask (R246). -/
def mergeJoin (g : Group) (m : Mask) : Group :=
  let ps := parkedWith g m
  let a := ps.foldl (fun a p => a ||| p.exec) 0
  match lowest a with
  | none => g
  | some lo =>
    match ps.find? fun p => p.exec.getLsbD lo with
    | none => g
    | some y =>
      let top := (lanesOf a).foldl (fun t l => max t (laneOf g l).step.toNat) 0
      let q : Path := {
        advance y with
        exec := a
        p := Vector.ofFn fun k => mergedPred ps k.val k.isLt
        slot := mergedSlot ps
        pace := none }
      modLanes { g with paths := g.paths.filterMap fun p =>
          if p.pid = y.pid then some q else if joinMask p = some m then none else some p }
        a fun _ t => { t with step := BitVec.ofNat 64 top }

/-- The first mask of a group on which a rejoin takes place. -/
def readyMask (g : Group) : Option Mask :=
  (g.paths.filterMap joinMask).find? fun m => joinReady g m

/-- Every rejoin of a group that has come due. -/
def rejoin : Nat → Group → Group
  | 0, g => g
  | n + 1, g =>
    match readyMask g with
    | some m => rejoin n (mergeJoin g m)
    | none => g

/-- Put a group back after its paths have changed: rejoins take place, its first path is kept and freed
pool entries are handed out; a group with no path left ends. -/
def settle (s : State) (g : Group) : State :=
  let g := keepFirst (rejoin g.paths.length g)
  if g.paths.isEmpty then
    refillPool { s with groups := s.groups.filter fun x => decide (x.gid ≠ g.gid) } g.core g.gid
  else refillPool (putGroup s g) g.core g.gid

/-- The lanes of a mask leave a path, which ends when it has none left and otherwise stays as `q`. -/
def dropLanes (g : Group) (q : Path) (m : Mask) (st : LaneState) : Group :=
  let g := modLanes g m fun _ t => { t with state := st }
  let rest := q.exec &&& ~~~m
  if rest = 0 then { g with paths := g.paths.filter fun x => decide (x.pid ≠ q.pid) }
  else setPath g { q with exec := rest }

/-! ### New groups (R110, R188, R251, R266) -/

/-- A thread as it starts (R9, R188, R275). -/
def newThread (tid : Word) (index : Nat) (tvec : Word) : Thread :=
  { tid := tid, index := index, state := .live, v := Vector.replicate 64 0, step := 0, flags := 0,
    qstat := 0, bc := Vector.replicate 4 0, tvec := tvec, tret := 0, tkind := 0, tpc := 0, tword := 0,
    taddr := 0, tinfo := 0, tlane := 0, tin := false }

/-- A lane position without a thread. -/
def emptyLane : Thread := { newThread 0 0 0 with state := .empty }

/-- The one path of a fresh group. -/
def newPath (pid : Nat) (pc : Word) (n : Nat) : Path :=
  { pid := pid, pc := pc, exec := fullMask n, s := Vector.replicate 32 0, p := Vector.replicate 7 0,
    j := Vector.replicate 8 0, pre := Prefix.none, park := none, slot := .first, pace := none, turn := 0, owed := [] }

/-- The first free position of a core's active set (R266). -/
def activeSlot (s : State) (core : Nat) : Option Nat :=
  (List.range 8).find? fun k => !(s.groups.any fun g => decide (g.core = core) && decide (g.active = some k))

/-- Whether one more group of a task fits its partition's share of a core, GRP (R263). -/
def groupFits (s : State) (task core : Nat) : Bool :=
  match findPart s (partOf s task) with
  | some q => decide ((s.groups.filter fun g => decide (g.core = core) &&
      decide (partOf s g.task = q.id)).length < q.grp)
  | none => false

/-- A fresh group of a party or of a handler request with its threads in lane order. It takes a free position of the
active set at once, also ahead of pending groups that are ready (R266 does not say where it enters; log entry 103), unless
its core holds GRP groups of its partition already, when it waits in the pending set (R263). -/
def newGroup (s : State) (task party core width : Nat) (handler : Option Nat) (completion : Bool)
    (threads : List Thread) (pc : Word) (params : List Word) : State :=
  let (gid, s1) := freshId s
  let (pid, s2) := freshId s1
  let p := newPath pid pc threads.length
  let p := (params.mapIdx fun k w => (k, w)).foldl (fun p x => setSreg p x.1 x.2) p
  let g : Group := {
    gid := gid, task := task, party := party, core := core, width := width, handler := handler,
    completion := completion, lanes := threads ++ List.replicate (width - threads.length) emptyLane,
    paths := [p], active := if groupFits s task core then activeSlot s core else none, issued := 0,
    lastIssue := 0, packed := false, readySince := s.now }
  { s2 with groups := s2.groups ++ [g] }

/-! ### The end of threads, parties and tasks -/

/-- The live threads of a task that are no handlers, over groups and reform bins, by a test on the
party. -/
def taskThreads (s : State) (task : Nat) (ok : Nat → Bool) : Nat :=
  ((s.groups.filter fun g => decide (g.task = task) && g.handler.isNone && ok g.party).map liveCount).sum +
  (s.eng.bins.map fun b => match b.key with
    | .reform t i _ => if t = task ∧ ok i then b.threads.length else 0
    | .handler _ _ _ => 0).sum

/-- Whether something is still to be written into, or done for, a party's granules (R101, R121, R265). -/
def partyBusy (s : State) (task party : Nat) : Bool :=
  let dom := Dom.party task party
  let mine := fun a : Nat => match ownerAt s a with
    | .party t i => decide (t = task) && decide (i = party)
    | .draining t i => decide (t = task) && decide (i = party)
    | _ => false
  (s.sram.clears.any fun c => decide (c.dom = dom)) ||
  (s.sram.entries.any fun e => decide (e.dom = dom)) ||
  (s.sram.offers.any fun o => decide (o.task = task) && decide (o.party = party)) ||
  (s.eng.copies.any fun c => decide (c.head.task = task) &&
    ((decide (c.head.party = party) && c.outbound) || (match c.cnt with | some a => mine a | none => false))) ||
  (s.eng.bulks.any fun b => decide (b.head.task = task) && decide (b.head.party = party)) ||
  (s.eng.drains.any fun d => decide (d.head.task = task) && decide (d.head.party = party)) ||
  (s.tasks.any fun t => decide (t.parent = some task) && decide (t.state ≠ .ended) &&
    (match t.ccell with | some a => mine a | none => false))

/-- The places of a task's parties that still hold them: threads live there, or something is still to be done for the party
(R101, R281). -/
def heldPlaces (s : State) (t : Task) : List PartyPlace :=
  t.places.filter fun x => decide (taskThreads s t.uid (fun i => decide (i = x.index)) ≠ 0) || partyBusy s t.uid x.index

/-- A party whose last thread has exited drains its granules, or frees them (R101, R127). -/
def releaseParty (s : State) (task party : Nat) : State :=
  if taskThreads s task (fun i => decide (i = party)) ≠ 0 then s
  else
    let own := fun o : Owner => decide (o = .party task party) || decide (o = .draining task party)
    if partyBusy s task party then
      setOwners s (s.sram.owners.map fun x => if own x.2 then (x.1, .draining task party) else x)
    else setOwners s (freeGranules s.sram.owners own)

/-- Every ended party of a running task drains or frees its granules. -/
def releaseParties (s : State) (task : Nat) : State :=
  match findTask s task with
  | some t =>
    if t.state = .running then t.places.foldl (fun s x => releaseParty s task x.index) s else s
  | none => s

/-- Once every thread of a task has exited, its held children are released (R265). -/
def releaseChildren (s : State) (task : Nat) : State :=
  if taskThreads s task (fun _ => true) ≠ 0 then s
  else
    let held := fun t : Task => decide (t.parent = some task) && t.hold && decide (t.state = .waiting)
    { s with tasks := updWhere s.tasks held fun t => { t with hold := false, counter := t.counter - 1 } }

/-- A waiting task whose counter is zero is released (R255). -/
def releaseReady (s : State) : State :=
  let due := fun t : Task => decide (t.state = .waiting) && decide (t.counter = 0)
  { s with tasks := updWhere s.tasks due fun t => { t with state := .released, releasedAt := s.now } }

/-- The line of a stop report for one thread that stands at `pc` (R277): a handler's carries its `bc0` and its
request's TAG. -/
def threadReport (x : Thread) (pc : Word) (tag : Option Nat) : ThreadReport :=
  match tag with
  | some k => { tid := BitVec.allOnes 32, step := x.step, tin := false, pc := pc, bc0 := x.bc[0], tag := k }
  | none => { tid := x.tid, step := x.step, tin := x.tin, pc := pc, bc0 := 0, tag := 0 }

/-- The threads of a mask of lanes have exited at `pc`: their lines of a stop report stand from now on (R277). -/
def noteExits (s : State) (g : Group) (m : Mask) (pc : Word) : State :=
  modTask s g.task fun t =>
    { t with exited := t.exited ++ (lanesOf m).map fun l => threadReport (laneOf g l) pc none }

/-- The lanes of a mask of a path end as threads of the task (R252): the path goes on as `q` or ends. -/
def exitLanes (s : State) (g : Group) (q : Path) (m : Mask) : State :=
  let s1 := settle s (dropLanes g q m .exited)
  if g.handler.isSome then s1
  else releaseReady (releaseChildren (releaseParties s1 g.task) g.task)

end Sys2Proof.Machine
end

