-- ==== Sys2Proof/Machine/Engine.lean ====
section
/-!
DEFINITION. The engine instructions of major 0x32: `COPY` and `CPYS` (R92 to R96, R103), `BRD` and
`BRDI` (R104 to R107, R123) and `HEND` (R124).
-/

namespace Sys2Proof.Machine

open Sys2Proof

/-! ### Traps and blocks -/

/-- An engine-request trap (R274): the address of the request block and the function code. -/
def engineTrap (s : State) (g : Group) (p : Path) (l : Nat) (w addr : Word) (f : Nat) : State :=
  takeTrap s g p { plainTrap 0x05 l w with addr := addr, info := BitVec.ofNat 32 f }

/-- A range named by an instruction: its space, its address in the form of the space, and its length. -/
structure Named where
  sp : Space
  addr : Nat
  len : Nat

/-- The first named range that breaks R25 or R27, with the lowest byte that fails (R140). -/
def firstFailing (s : State) (g : Group) (rs : List Named) : Option (Space × Nat) :=
  rs.findSome? fun r =>
    match resolve s g r.sp r.addr r.len with
    | .ok _ => none
    | .error a => some (r.sp, a)

/-- The course of reading a block of memory as a load of the elected lane's step (R27, R28, R103): a
misaligned or forbidden block traps, one that is not ready waits, one that cannot be decoded stops the
task, and otherwise its bytes go on. -/
def withBlock (s : State) (g : Group) (p : Path) (w : Word) (l : Nat) (sp : Space) (addr align len : Nat)
    (k : State → List Byte → State) : State :=
  if addr % align ≠ 0 then memoryTrap s g p l w sp false addr
  else
    match resolve s g sp addr len with
    | .error a => memoryTrap s g p l w sp false a
    | .ok a =>
      let t := laneOf g l
      if !blockReady s g.task g.core a len t.step.toNat then putPath s g (parked p .issue)
      else
        let r := readRange s a len
        match r.2 with
        | some sec => stopBad s { task := g.task, step := t.step, tid := t.tid, pc := seqStart p } sec
        | none => k r.1 (rangeBytes r.1 g.task a len t.step.toNat)

/-- The bytes of a block as 32-bit words. -/
def wordsOf (bs : List Byte) : List Nat :=
  (List.range (bs.length / 4)).map fun k => natOfBytes ((bs.drop (4 * k)).take 4)

/-- Word `k` of a block. -/
def blockWord (ws : List Nat) (k : Nat) : Nat := ws.getD k 0

/-- Bits `hi : lo` of a word. -/
def bitsOf (w hi lo : Nat) : Nat := w / 2 ^ lo % 2 ^ (hi + 1 - lo)

/-- The space of a one-bit code. -/
def spaceBit (b : Nat) : Space := if b = 1 then .task else .party

/-- The space of a two-bit code. -/
def spaceCode (c : Nat) : Space := if c = 0 then .party else if c = 1 then .task else .immutable

/-- The head of an engine request of a lane. -/
def headOf (g : Group) (p : Path) (l id : Nat) : ReqHead :=
  { id := id, task := g.task, party := g.party, core := g.core, step := (laneOf g l).step.toNat,
    tid := (laneOf g l).tid, pc := seqStart p }

/-- The absolute address of an address in the form of a space, checked or not. -/
def rawAbsolute (s : State) (g : Group) (sp : Space) (a : Nat) : Nat := absoluteOf s g sp a

/-- The indices of a list of 32-bit or 16-bit numbers. -/
def indexList (wide16 : Bool) (bs : List Byte) : List Nat :=
  let z := if wide16 then 2 else 4
  (List.range (bs.length / z)).map fun k => natOfBytes ((bs.drop (z * k)).take z)

/-! ### Copies (R92 to R96) -/

/-- Source and destination element sizes of a conversion (R94). -/
def convSizes (conv : Nat) : Nat × Nat :=
  match conv with
  | 1 => (4, 2)
  | 2 => (2, 4)
  | 3 => (4, 1)
  | 4 => (1, 2)
  | 5 => (2, 4)
  | _ => (1, 1)

/-- The element size on the far side. -/
def farUnit (conv : Nat) (outbound : Bool) : Nat :=
  if outbound then (convSizes conv).2 else (convSizes conv).1

/-- The element size on the near side. -/
def nearUnit (conv : Nat) (outbound : Bool) : Nat :=
  if outbound then (convSizes conv).1 else (convSizes conv).2

/-- The fields of a copy request block (R92, R93). -/
structure CopyReq where
  far : Nat
  near : Nat
  len : Nat
  cnt : Nat
  mode : Nat
  idx : Nat
  w7 : Nat

/-- The request block in its eight words. -/
def copyReqOf (ws : List Nat) : CopyReq :=
  { far := blockWord ws 0 + 2 ^ 32 * blockWord ws 1, near := blockWord ws 2, len := blockWord ws 3,
    cnt := blockWord ws 4, mode := blockWord ws 5, idx := blockWord ws 6, w7 := blockWord ws 7 }

/-- SHAPE 1: the request is indexed. -/
def CopyReq.indexed (q : CopyReq) : Bool := decide (bitsOf q.mode 1 0 = 1)
/-- DIR 1: outbound. -/
def CopyReq.outbound (q : CopyReq) : Bool := decide (bitsOf q.mode 2 2 = 1)
/-- The space of NEAR. -/
def CopyReq.nsp (q : CopyReq) : Space := spaceBit (bitsOf q.mode 3 3)
/-- The space of CNT. -/
def CopyReq.csp (q : CopyReq) : Space := spaceBit (bitsOf q.mode 4 4)
/-- The conversion. -/
def CopyReq.conv (q : CopyReq) : Nat := bitsOf q.mode 7 5
/-- The swizzle. -/
def CopyReq.swz (q : CopyReq) : Nat := bitsOf q.mode 10 8
/-- 16-bit indices. -/
def CopyReq.ixw (q : CopyReq) : Bool := decide (bitsOf q.mode 11 11 = 1)
/-- The space of the index list. -/
def CopyReq.isp (q : CopyReq) : Space := spaceCode (bitsOf q.mode 13 12)
/-- No counter cell. -/
def CopyReq.nocnt (q : CopyReq) : Bool := decide (bitsOf q.mode 14 14 = 1)
/-- The fill byte. -/
def CopyReq.fill (q : CopyReq) : Nat := bitsOf q.mode 23 16
/-- The number of indices. -/
def CopyReq.count (q : CopyReq) : Nat := bitsOf q.w7 31 24
/-- The list position of the first index. -/
def CopyReq.first (q : CopyReq) : Nat := bitsOf q.w7 23 16
/-- The far row length in 32-byte units. -/
def CopyReq.rlen (q : CopyReq) : Nat := bitsOf q.w7 15 8

/-- The near row length NR of R95. -/
def CopyReq.nearRow (q : CopyReq) : Nat :=
  q.rlen * 32 / farUnit q.conv q.outbound * nearUnit q.conv q.outbound

/-- The bytes on the near side. -/
def CopyReq.nearLen (q : CopyReq) : Nat :=
  if q.indexed then q.count * q.nearRow
  else if q.outbound then q.len
  else q.len / (convSizes q.conv).1 * (convSizes q.conv).2

/-- The length of the index list in bytes. -/
def CopyReq.listLen (q : CopyReq) : Nat := q.count * (if q.ixw then 2 else 4)

/-- The field rules of both shapes (R92, R93). -/
def CopyReq.commonOk (q : CopyReq) : Bool :=
  decide (q.far % 32 = 0) && decide (q.near % 32 = 0) && decide (q.cnt % 4 = 0) &&
  (!q.nocnt || decide (q.cnt = 0)) && decide (bitsOf q.mode 31 24 = 0) &&
  decide (bitsOf q.mode 15 15 = 0) && decide (q.conv ≤ 5) && decide (bitsOf q.mode 1 0 ≤ 1)

/-- The field rules of SHAPE 0. -/
def CopyReq.contiguousOk (q : CopyReq) : Bool :=
  decide (32 ≤ q.len) && decide (q.len ≤ 6291456) && decide (q.len % 32 = 0) &&
  decide (q.len / (convSizes q.conv).1 * (convSizes q.conv).2 % 32 = 0) && decide (q.idx = 0) &&
  decide (q.w7 = 0) && decide (bitsOf q.mode 13 8 = 0)

/-- The field rules of SHAPE 1 (R92, R95, R96). -/
def CopyReq.indexedOk (q : CopyReq) : Bool :=
  decide (1 ≤ q.len) && decide (1 ≤ q.count) && decide (q.count ≤ 64) && decide (q.first ≤ 127) &&
  decide (q.first + q.count ≤ 128) && decide (1 ≤ q.rlen) && decide (bitsOf q.w7 7 0 = 0) &&
  decide (q.idx % (if q.ixw then 2 else 4) = 0) && decide (bitsOf q.mode 13 12 ≠ 3) &&
  decide (q.swz ≤ 2) && decide (q.nearRow % 32 = 0) && (decide (q.swz = 0) || decide (q.nearRow % 128 = 0))

/-- The field rules of a copy request (R92 to R96). -/
def CopyReq.ok (q : CopyReq) : Bool :=
  q.commonOk && (if q.indexed then q.indexedOk else q.contiguousOk)

/-- Whether CNT lies within the destination of an inbound copy (R103). -/
def CopyReq.cntInside (s : State) (g : Group) (q : CopyReq) : Bool :=
  let c := rawAbsolute s g q.csp q.cnt
  let n := rawAbsolute s g q.nsp q.near
  !q.nocnt && !q.outbound && decide (c < n + q.nearLen) && decide (n < c + 4)

/-- The far bursts of a contiguous far range, with the list position it belongs to. -/
def splitBursts (far len pos : Nat) : List Burst :=
  (List.range ((far + len - 1) / 64 - far / 64 + 1)).map fun k =>
    let a := max far ((far / 64 + k) * 64)
    { va := a, pos := pos, offset := a - far, coord := (0, 0, 0), state := .todo }

/-- The bursts of a copy: an index out of range is a row that has failed before any address was formed
(R95, R100). -/
def CopyReq.bursts (q : CopyReq) (xs : List Nat) : List Burst :=
  if q.indexed then
    (xs.mapIdx fun k x => (k, x)).flatMap fun y =>
      if y.2 < q.len then splitBursts ((q.far + y.2 * q.rlen * 32) % 2 ^ 64) (q.rlen * 32) y.1
      else [{ va := 0, pos := y.1, offset := 0, coord := (0, 0, 0), state := .failed (0x80 + (q.first + y.1)) }]
  else
    splitBursts q.far (q.nearLen / nearUnit q.conv q.outbound * farUnit q.conv q.outbound) 0

/-- Start a copy (R95 to R102): an inbound one makes its lines absent with its step. -/
def startCopy (s : State) (g : Group) (p : Path) (l : Nat) (q : CopyReq) (xs : List Nat) : State :=
  let (id, s1) := freshId s
  let near := rawAbsolute s g q.nsp q.near
  let lines := if q.outbound then [] else linesOf near q.nearLen
  let c : Copy := {
    head := headOf g p l id, outbound := q.outbound, indexed := q.indexed, conv := q.conv,
    fill := BitVec.ofNat 8 q.fill, swz := q.swz, far := q.far, near := near, len := q.nearLen,
    rows := q.len, first := q.first, rlen := q.rlen, idx := xs,
    cnt := if q.nocnt then none else some (rawAbsolute s g q.csp q.cnt), bursts := q.bursts xs,
    nearData := none, badNear := [], lines := lines, begun := false }
  putPath (addClears { s1 with eng.copies := s1.eng.copies ++ [c] } id c.head.step lines) g (advance p)

/-- A checked request goes on: its index list is read, and it starts when the core has room (R103). -/
def issueCopy (s : State) (g : Group) (p : Path) (w : Word) (l : Nat) (q : CopyReq) : State :=
  let ranges := [⟨q.nsp, q.near, q.nearLen⟩] ++
    (if q.nocnt then [] else [⟨q.csp, q.cnt, 4⟩]) ++
    (if q.indexed then [⟨q.isp, q.idx, q.listLen⟩] else [])
  match firstFailing s g ranges with
  | some x => memoryTrap s g p l w x.1 false x.2
  | none =>
    let go := fun (s : State) (bs : List Byte) =>
      if 64 ≤ (s.eng.copies.filter fun c => decide (c.head.core = g.core)).length then
        putPath s g (parked p .issue)
      else startCopy s g p l q (indexList q.ixw bs)
    if q.indexed then withBlock s g p w l q.isp q.idx 1 q.listLen go else go s []

/-- The block of a copy request has been read: check it and go on. -/
def runCopy (f : Nat) (addr : Word) (s : State) (g : Group) (p : Path) (w : Word) (l : Nat)
    (ws : List Nat) : State :=
  let q := copyReqOf ws
  if !q.ok || q.cntInside s g then engineTrap s g p l w addr f else issueCopy s g p w l q

/-- `COPY` (R103). -/
def execCopy (a imm : BitVec 6) (gd : Guard) (sp : Space) (s : State) :
    Host.Outcome State Fault Refusal :=
  onPath s fun g p w =>
    match lowest (activeMask p gd) with
    | none => putPath s g (advance p)
    | some l =>
      let addr := opA g p false a l + imms p imm
      if g.handler.isSome then engineTrap s g p l w addr 0
      else withBlock s g p w l sp addr.toNat 32 32 fun s bs => runCopy 0 addr s g p w l (wordsOf bs)

/-- `CPYS` (R103): the block stands in eight scalar registers. -/
def execCpys (a : BitVec 6) (gd : Guard) (s : State) : Host.Outcome State Fault Refusal :=
  onPath s fun g p w =>
    match lowest (activeMask p gd) with
    | none => putPath s g (advance p)
    | some l =>
      if g.handler.isSome then engineTrap s g p l w 0 1
      else runCopy 1 0 s g p w l ((List.range 8).map fun k => (sreg p (a.toNat + k)).toNat)

/-! ### Bulk reads (R104 to R107, R123) -/

/-- The fields of a bulk-read request block (R104, R105). -/
structure BulkReq where
  indexed : Bool
  far : Nat
  win : Nat
  w3 : Nat
  cnt : Nat
  mode : Nat
  rows : Nat
  idx : Nat
  params : List Nat

/-- The request block in its sixteen words. -/
def bulkReqOf (indexed : Bool) (ws : List Nat) : BulkReq :=
  { indexed := indexed, far := blockWord ws 0 + 2 ^ 32 * blockWord ws 1, win := blockWord ws 2,
    w3 := blockWord ws 3, cnt := blockWord ws 4, mode := blockWord ws 5, rows := blockWord ws 6,
    idx := blockWord ws 7, params := ws.drop 8 }

/-- Window length in lines. -/
def BulkReq.wln (q : BulkReq) : Nat := bitsOf q.w3 31 16
/-- The number of indices. -/
def BulkReq.count (q : BulkReq) : Nat := bitsOf q.w3 15 8
/-- The row length in bursts. -/
def BulkReq.rlen (q : BulkReq) : Nat := bitsOf q.w3 7 0
/-- The completion handler's number. -/
def BulkReq.chnd (q : BulkReq) : Nat := bitsOf q.mode 31 28
/-- The burst handler's number. -/
def BulkReq.hnd (q : BulkReq) : Nat := bitsOf q.mode 27 24
/-- The request tag. -/
def BulkReq.tag (q : BulkReq) : Nat := bitsOf q.mode 23 16
/-- Run the completion handler. -/
def BulkReq.ce (q : BulkReq) : Bool := decide (bitsOf q.mode 15 15 = 1)
/-- No counter cell. -/
def BulkReq.nocnt (q : BulkReq) : Bool := decide (bitsOf q.mode 14 14 = 1)
/-- The space of the index list. -/
def BulkReq.isp (q : BulkReq) : Space := spaceCode (bitsOf q.mode 13 12)
/-- 16-bit indices. -/
def BulkReq.ixw (q : BulkReq) : Bool := decide (bitsOf q.mode 11 11 = 1)
/-- The space of CNT. -/
def BulkReq.csp (q : BulkReq) : Space := spaceBit (bitsOf q.mode 4 4)
/-- The space of WIN. -/
def BulkReq.wsp (q : BulkReq) : Space := spaceBit (bitsOf q.mode 3 3)
/-- The length of the index list in bytes. -/
def BulkReq.listLen (q : BulkReq) : Nat := q.count * (if q.ixw then 2 else 4)
/-- The window in bytes. -/
def BulkReq.winLen (q : BulkReq) : Nat := q.wln * 128
/-- The total number of bursts (R106). -/
def BulkReq.total (q : BulkReq) : Nat := if q.indexed then q.count * q.rlen else q.rows

/-- The field rules of both forms (R104, R105). -/
def BulkReq.commonOk (q : BulkReq) : Bool :=
  decide (q.far % 64 = 0) && decide (q.win % 128 = 0) && decide (1 ≤ q.wln) && decide (q.wln ≤ 32768) &&
  decide (q.cnt % 4 = 0) && (!q.nocnt || decide (q.cnt = 0)) && (q.ce || decide (q.chnd = 0)) &&
  decide (bitsOf q.mode 10 5 = 0) && decide (bitsOf q.mode 2 0 = 0)

/-- The field rules of `BRDI`. -/
def BulkReq.indexedOk (q : BulkReq) : Bool :=
  decide (1 ≤ q.count) && decide (q.count ≤ 64) && decide (1 ≤ q.rlen) && decide (1 ≤ q.rows) &&
  decide (bitsOf q.mode 13 12 ≠ 3) && decide (q.idx % (if q.ixw then 2 else 4) = 0)

/-- The field rules of `BRD`. -/
def BulkReq.contiguousOk (q : BulkReq) : Bool :=
  decide (q.count = 0) && decide (q.rlen = 0) && decide (1 ≤ q.rows) && decide (q.rows ≤ 65536) &&
  decide (bitsOf q.mode 13 11 = 0) && decide (q.idx = 0)

/-- The handlers a request names are declared, and the task has handler slots (R107, R108). -/
def BulkReq.handlersOk (q : BulkReq) (t : Task) : Bool :=
  let declared := fun n : Nat => t.decl.handlers.any fun h => decide (h.1 = n)
  declared q.hnd && (!q.ce || declared q.chnd) && decide (t.decl.hres ≠ 0)

/-- CNT lies within the window, or the window meets that of an outstanding bulk read of this core
(R123). -/
def BulkReq.clash (s : State) (g : Group) (q : BulkReq) : Bool :=
  let w := rawAbsolute s g q.wsp q.win
  let c := rawAbsolute s g q.csp q.cnt
  (!q.nocnt && decide (c < w + q.winLen) && decide (w < c + 4)) ||
  s.eng.bulks.any fun b => decide (b.head.core = g.core) && meetsWindow b w q.winLen

/-- The bursts of a bulk read with their coordinates (R106); the bursts of an index out of range count
as delivered and carry its code (R120). -/
def BulkReq.bursts (q : BulkReq) (xs : List Nat) : List Burst :=
  if q.indexed then
    (xs.mapIdx fun k x => (k, x)).flatMap fun y => (List.range q.rlen).map fun j =>
      { va := (q.far + (y.2 * q.rlen + j) * 64) % 2 ^ 64, pos := y.1, offset := j * 64,
        coord := (y.1 * q.rlen + j, y.1, y.2),
        state := if y.2 < q.rows then .todo else .failed (0x80 + y.1) }
  else
    (List.range q.rows).map fun n =>
      { va := (q.far + 64 * n) % 2 ^ 64, pos := 0, offset := 64 * n, coord := (n, 64 * n, 0),
        state := .todo }

/-- Start a bulk read (R106 to R122): its window becomes absent with its step (R115). -/
def startBulk (s : State) (g : Group) (p : Path) (l : Nat) (q : BulkReq) (xs : List Nat) : State :=
  let (id, s1) := freshId s
  let win := rawAbsolute s g q.wsp q.win
  let b : Bulk := {
    head := headOf g p l id, win := win, winLines := q.wln, winSpace := q.wsp,
    cnt := if q.nocnt then none else some (rawAbsolute s g q.csp q.cnt), hnd := q.hnd,
    chnd := if q.ce then some q.chnd else none, tag := q.tag,
    params := (List.range 8).map fun k => BitVec.ofNat 32 (blockWord q.params k), indexed := q.indexed,
    total := q.total, rows := q.rows, idx := xs, bursts := q.bursts xs, born := 0, landed := false }
  putPath (addClears { s1 with eng.bulks := s1.eng.bulks ++ [b] } id b.head.step (linesOf win q.winLen)) g
    (advance p)

/-- A checked bulk read goes on: its index list is read, and it starts when the core has room. -/
def issueBulk (s : State) (g : Group) (p : Path) (w : Word) (l : Nat) (q : BulkReq) : State :=
  let ranges := [⟨q.wsp, q.win, q.winLen⟩] ++
    (if q.nocnt then [] else [⟨q.csp, q.cnt, 4⟩]) ++
    (if q.indexed then [⟨q.isp, q.idx, q.listLen⟩] else [])
  match firstFailing s g ranges with
  | some x => memoryTrap s g p l w x.1 false x.2
  | none =>
    let go := fun (s : State) (bs : List Byte) =>
      if 16 ≤ (s.eng.bulks.filter fun b => decide (b.head.core = g.core)).length then
        putPath s g (parked p .issue)
      else startBulk s g p l q (indexList q.ixw bs)
    if q.indexed then withBlock s g p w l q.isp q.idx 1 q.listLen go else go s []

/-- The block of a bulk read has been read: check it and go on (R123). -/
def runBulk (f : Nat) (addr : Word) (s : State) (g : Group) (p : Path) (w : Word) (l : Nat)
    (ws : List Nat) : State :=
  let q := bulkReqOf (decide (f = 3)) ws
  let t := (findTask s g.task).getD default
  if !(q.commonOk && (if q.indexed then q.indexedOk else q.contiguousOk)) || !q.handlersOk t ||
      q.clash s g then engineTrap s g p l w addr f
  else issueBulk s g p w l q

/-- The common course of `BRD` and `BRDI`. -/
def bulkOp (f : Nat) (a imm : BitVec 6) (gd : Guard) (sp : Space) (s : State) :
    Host.Outcome State Fault Refusal :=
  onPath s fun g p w =>
    match lowest (activeMask p gd) with
    | none => putPath s g (advance p)
    | some l =>
      let addr := opA g p false a l + imms p imm
      if g.handler.isSome then engineTrap s g p l w addr f
      else withBlock s g p w l sp addr.toNat 64 64 fun s bs => runBulk f addr s g p w l (wordsOf bs)

/-- `BRD` (R123). -/
def execBrd (a imm : BitVec 6) (gd : Guard) (sp : Space) (s : State) :
    Host.Outcome State Fault Refusal :=
  bulkOp 2 a imm gd sp s

/-- `BRDI` (R123). -/
def execBrdi (a imm : BitVec 6) (gd : Guard) (sp : Space) (s : State) :
    Host.Outcome State Fault Refusal :=
  bulkOp 3 a imm gd sp s

/-- `HEND` (R124): the active lanes of a handler group end; what they stored stands. -/
def execHend (gd : Guard) (s : State) : Host.Outcome State Fault Refusal :=
  onPath s fun g p w =>
    let act := activeMask p gd
    if act = 0 then putPath s g (advance p)
    else if g.handler.isNone then handlerTrap s g p act w
    else exitLanes s g (advance p) act

end Sys2Proof.Machine
end

