-- ==== Sys2Proof/Machine/CopyEvents.lean ====
section
/-!
DEFINITION. The events of the copy engine: bursts on their way, those of bulk reads and of peers' commands
among them (R63, R100, R111, R299), and the lines and bursts of a copy (R94 to R102).
-/

namespace Sys2Proof.Machine

open Sys2Proof

/-! ### The geometry of a copy (R94 to R96) -/

/-- The far bytes of one row, or of a whole contiguous copy. -/
def Copy.farRow (c : Copy) : Nat :=
  if c.indexed then c.rlen * 32 else c.len / nearUnit c.conv c.outbound * farUnit c.conv c.outbound

/-- The near bytes of one row, or of a whole contiguous copy. -/
def Copy.nearRow (c : Copy) : Nat :=
  if c.indexed then c.rlen * 32 / farUnit c.conv c.outbound * nearUnit c.conv c.outbound else c.len

/-- The far bytes of one burst; the one burst of an index out of range stands for its row (R95). -/
def Copy.burstLen (c : Copy) (b : Burst) : Nat :=
  match b.state with
  | .failed code => if 0x80 ≤ code then c.rlen * 32 else min (64 - b.va % 64) (c.farRow - b.offset)
  | _ => min (64 - b.va % 64) (c.farRow - b.offset)

/-- The swizzle of R96, its own inverse, for list position `m`. -/
def swizzle (swz m o : Nat) : Nat :=
  match swz with
  | 1 => ((o / 16) ^^^ (m % 8)) * 16 + o % 16
  | 2 => ((o / 32) ^^^ (m % 4)) * 32 + o % 32
  | _ => o

/-- One element under CONV (R94); no flag is raised. -/
def convElem (conv n : Nat) : Nat :=
  match conv with
  | 1 => (roundTo bf16 .rne (f32.value n)).1
  | 2 => (roundTo f32 .rne (bf16.value n)).1
  | 3 => (roundTo e4m3 .rne (f32.value n)).1
  | 4 => (roundTo bf16 .rne (e4m3.value n)).1
  | 5 => (roundTo f32 .rne (f16.value n)).1
  | _ => n

/-- Byte `i` of the destination element that a source element of little-endian bytes gives. -/
def convByte (conv : Nat) (src : List Byte) (i : Nat) : Byte := byteAt (convElem conv (natOfBytes src)) i

/-- The burst of a copy that carries far byte `f` of row `k`. -/
def Copy.burstFor (c : Copy) (k f : Nat) : Option Burst :=
  c.bursts.find? fun b => decide (b.pos = k) && decide (b.offset ≤ f) && decide (f < b.offset + c.burstLen b)

/-- The byte an inbound copy writes at near offset `o`, once its burst has come or failed. -/
def Copy.nearByte (c : Copy) (o : Nat) : Option Byte :=
  let k := o / c.nearRow
  let u := swizzle c.swz (c.first + k) (o % c.nearRow)
  let nu := nearUnit c.conv false
  let fu := farUnit c.conv false
  let f := u / nu * fu
  match c.burstFor k f with
  | some b =>
    match b.state with
    | .got data => some (convByte c.conv ((data.drop (f - b.offset)).take fu) (u % nu))
    | .failed _ => some c.fill
    | _ => none
  | none => none

/-- The near offsets whose bytes an outbound burst carries, element by element. -/
def Copy.nearOffsets (c : Copy) (b : Burst) : List Nat :=
  let nu := nearUnit c.conv true
  let fu := farUnit c.conv true
  (List.range (c.burstLen b)).flatMap fun i =>
    let u := (b.offset + i) / fu * nu
    (List.range nu).map fun j => b.pos * c.nearRow + swizzle c.swz (c.first + b.pos) (u + j)

/-- The bytes an outbound burst writes at the far side, from the near bytes (R94 to R96). -/
def Copy.farBytes (c : Copy) (near : List Byte) (b : Burst) : List Byte :=
  let nu := nearUnit c.conv true
  let fu := farUnit c.conv true
  (List.range (c.burstLen b)).map fun i =>
    let u := (b.offset + i) / fu * nu
    let src := (List.range nu).map fun j =>
      near.getD (b.pos * c.nearRow + swizzle c.swz (c.first + b.pos) (u + j)) 0
    convByte c.conv src ((b.offset + i) % fu)

/-- Whether the far range of a burst's row, or of the whole copy, lies where the engine may go (code
0x05 of R100). -/
def Copy.farOk (c : Copy) (t : Task) (b : Burst) : Bool :=
  if c.indexed then farAllowed t c.outbound (b.va - b.offset) c.farRow
  else farAllowed t c.outbound c.far c.farRow

/-- The code of the first burst that failed, in list position and byte order (R100, R120). -/
def errorCode (bs : List Burst) : Nat :=
  (bs.findSome? fun b => match b.state with
    | .failed c => some c
    | .done c => if c = 0 then none else some c
    | _ => none).getD 0

/-- On whose behalf an engine request writes. -/
def headWho (h : ReqHead) : Who :=
  { task := h.task, step := BitVec.ofNat 64 h.step, tid := h.tid, pc := h.pc }

/-! ### Putting requests back -/

/-- The copy of a number. -/
def findCopy (s : State) (id : Nat) : Option Copy := s.eng.copies.find? fun c => c.head.id = id

/-- Put a copy back. -/
def putCopy (s : State) (c : Copy) : State :=
  { s with eng.copies := updWhere s.eng.copies (fun x => decide (x.head.id = c.head.id)) fun _ => c }

/-- A copy has made its last counter update. -/
def dropCopy (s : State) (id : Nat) : State :=
  { s with eng.copies := s.eng.copies.filter fun c => decide (c.head.id ≠ id) }

/-- Put a bulk read back. -/
def putBulk (s : State) (b : Bulk) : State :=
  { s with eng.bulks := updWhere s.eng.bulks (fun x => decide (x.head.id = b.head.id)) fun _ => b }

/-- Set the state of burst `n`. -/
def setBurst (bs : List Burst) (n : Nat) (st : BurstState) : List Burst :=
  bs.modify n fun b => { b with state := st }

/-- A task whose engines act: it runs and has not been told to stop. -/
def taskActs (s : State) (task : Nat) : Bool := landsAllowed s task

/-- Whether a task's engines start something new: not while its context is being saved (R102, R122). -/
def taskStarts (s : State) (task : Nat) : Bool :=
  taskActs s task && !((findTask s task).map (·.saving)).getD false

/-- An engine request that has begun is completed even when its task stops or is saved (R102, R277). -/
def copyActs (s : State) (c : Copy) : Bool := c.begun || taskStarts s c.head.task

/-- The counter cell of a request; a task that has been told to stop makes no further update (R277). -/
def liveCounter (s : State) (task : Nat) (cell : Option Nat) : Option Nat :=
  if taskActs s task then cell else none

/-- An uncorrectable DRAM error stops the task that issued the request (R68, R100, R278). -/
def stopDram (s : State) (h : ReqHead) : State :=
  stopWith s h.task (uncorrectable (BitVec.ofNat 64 h.step) h.tid 0 h.pc)

/-! ### `PCH_REQUEST` (R63, R100, R111) -/

/-- A burst of a copy met an uncorrectable error and the task stops (R100, R135, R280). No last update follows the stop,
so the code that the copy reports so far, that of its first failing burst, is entered in the counter cell at once and the
count stays (log entry 28). -/
def failCopy (s : State) (c : Copy) : State :=
  counterUpdate s (headWho c.head) (liveCounter s c.head.task c.cnt) 0 (errorCode c.bursts)

/-- The near sectors that the bursts of an outbound copy need, of those that could not be decoded. -/
def Copy.badFor (c : Copy) (x : Burst) : List Nat :=
  c.badNear.filter fun sec => c.outbound && (c.nearOffsets x).any fun o => decide (sectorOf (c.near + o) = sec)

/-- An uncorrectable error of a burst stops the task: the record reports the near sector that could not be decoded, or
0 for an error of the stacks (R274, R278). -/
def stopCopy (s : State) (h : ReqHead) (bad : List Nat) : State :=
  stopWith s h.task (uncorrectable (BitVec.ofNat 64 h.step) h.tid (BitVec.ofNat 32 (bad.headD 0 * 32)) h.pc)

/-- The near sectors that burst `n` needs, of those that could not be decoded. -/
def Copy.badOf (c : Copy) (n : Nat) : List Nat := (c.bursts[n]?.map c.badFor).getD []

/-- The outcome of burst `n`: one whose near bytes could not be decoded fails with code 0x03 where it would have been
accepted (R100). -/
def Copy.outcome (c : Copy) (n : Nat) (st : BurstState) : BurstState :=
  if st = .accepted ∧ c.badOf n ≠ [] then .failed 0x03 else st

/-- Take the outcome of a burst of a copy into its request. -/
def copyOutcome (c : Copy) (n : Nat) (r : State × BurstState) : State :=
  let c1 := { c with bursts := setBurst c.bursts n (c.outcome n r.2) }
  let s := putCopy r.1 c1
  if c.outcome n r.2 = .failed 0x03 then stopCopy (failCopy s c1) c.head (c.badOf n) else s

/-- Take the outcome of a burst of a bulk read into its request. An uncorrectable error stops the task, and the counter
is not updated (R120). -/
def bulkOutcome (b : Bulk) (n : Nat) (r : State × BurstState) : State :=
  let s := putBulk r.1 { b with bursts := setBurst b.bursts n r.2 }
  if r.2 = .failed 0x03 then stopDram s b.head else s

/-- The write data of a copy's burst; none for an inbound copy. A burst whose near bytes could not be decoded travels
without bytes, for the checks that come before the read of the data (R100; log entry 28). -/
def Copy.writeData (c : Copy) (x : Burst) : Option (List Byte) :=
  if c.outbound then some (if (c.badFor x).isEmpty then c.farBytes (c.nearData.getD []) x else []) else none

/-- The outcome of a burst whose data could not be read at the near side: the checks that come before the read decide
first, those of another device too, and nothing is written (R100). -/
def withoutData (s : State) (r : State × BurstState) : State × BurstState :=
  match r.2 with
  | .failed _ | .ats _ | .again | .fabric _ => r
  | _ => (s, .failed 0x03)

/-- A copy sends burst `n` on its way (R100: the first check it fails decides its code). -/
def requestCopy (s : State) (c : Copy) (n : Nat) (x : Burst) : State :=
  match findTask s c.head.task with
  | none => s
  | some t =>
    if !c.farOk t x then copyOutcome c n (s, .failed 0x05)
    else
      let r := farBurst s (clientOf s c.head (.copy c.head.core) n) (c.writeData x) x.va (c.burstLen x)
      copyOutcome c n (if (c.badFor x).isEmpty then r else withoutData s r)

/-- Whether a burst is to be sent: not yet sent, or to be sent again once its translation has been answered. -/
def toSend (x : BurstState) : Bool := decide (x = .todo) || decide (x = .again)

/-- Whether a burst holds one of its core's outstanding entries (R111). -/
def holdsEntry (b : Burst) : Bool :=
  match b.state with
  | .todo | .done _ | .failed _ => false
  | _ => true

/-- The outstanding bulk-read bursts of a core. -/
def outstandingBursts (s : State) (core : Nat) : Nat :=
  ((s.eng.bulks.filter fun b => decide (b.head.core = core)).flatMap fun b => b.bursts.filter holdsEntry).length

/-- A bulk read sends burst `n` on its way, in ascending order, while entries are free (R111); a burst to be sent again
holds its entry. One whose 64 bytes reach past the end of its region fails with code 0x05 (R120; log entry 100). -/
def requestBulk (s : State) (b : Bulk) (n : Nat) (x : Burst) : State :=
  match findTask s b.head.task with
  | none => s
  | some t =>
    if x.state = .todo ∧ ((b.bursts.take n).any (fun y => decide (y.state = .todo)) ∨
        1024 ≤ outstandingBursts s b.head.core) then s
    else if !farAllowed t false x.va 64 then bulkOutcome b n (s, .failed 0x05)
    else bulkOutcome b n (farBurst s (clientOf s b.head (.bulk b.head.core) n) none x.va 64)

/-- Whether burst `x` of a copy may be sent now. -/
def copySends (s : State) (c : Copy) (x : Burst) : Bool :=
  toSend x.state && copyActs s c && (!c.outbound || c.nearData.isSome)

/-- Whether burst `x` of a bulk read may be sent now: while the context is saved none is newly requested, and one that
has been requested goes on (R122). -/
def bulkSends (s : State) (b : Bulk) (x : Burst) : Bool :=
  (decide (x.state = .todo) && taskStarts s b.head.task) || (decide (x.state = .again) && taskActs s b.head.task)

/-! ### Commands of peers (R299, R300) -/

/-- The client of a peer's command: the fabric endpoint, for the partition and the PASID that the command names. No task or
core of this device issued it, and a fault-log entry for it names core 0 and handle 0 (R287; log entry 89). -/
def serveClient (s : State) (x : Serve) : Client :=
  { part := x.part, pasid := x.pasid, dom := (findPart s x.part).elim 0 (·.dom), handle := 0, core := 0,
    front := .tract 0, req := x.id, n := 0 }

/-- The outcome of a peer's command: it waits, or it has been executed and is answered once its queue has issued it. -/
def serveOutcome (s : State) (x : Serve) (st : BurstState) : State :=
  answerIssued { s with fabric.serving := updWhere s.fabric.serving (fun y => decide (y.id = x.id)) fun y => { y with state := st } }
    { x with state := st }

/-- Execute a command of a peer for a local partition, or make it wait. -/
def serve (s : State) (x : Serve) : State :=
  let r := translated s (serveClient s x) x.va (if x.write then some x.data else none) x.data.length
  serveOutcome r.1 x r.2

/-- The command of a peer with a request number. -/
def findServe (s : State) (id : Nat) : Option Serve := s.fabric.serving.find? fun x => decide (x.id = id)

/-- `PCH_REQUEST`: burst `n` of request `req` is sent, and performed in queue order when it enters its
pseudo-channel queue. -/
def execPchRequest (req n : Nat) (s : State) : Host.Outcome State Fault Refusal :=
  .next (match findCopy s req, findBulk s req, findServe s req with
    | some c, _, _ =>
      match c.bursts[n]? with
      | some x => if copySends s c x then requestCopy s c n x else s
      | none => s
    | none, some b, _ =>
      match b.bursts[n]? with
      | some x => if bulkSends s b x then requestBulk s b n x else s
      | none => s
    | none, none, some x => if toSend x.state then serve s x else s
    | none, none, none => s)

/-! ### The lines of an inbound copy (R97, R99, R100) -/

/-- The near bytes of a copy in a line: address and near offset. -/
def Copy.lineBytes (c : Copy) (line : Nat) : List (Nat × Nat) :=
  ((List.range 128).map fun i => line * 128 + i).filterMap fun a =>
    if c.near ≤ a ∧ a < c.near + c.len then some (a, a - c.near) else none

/-- The bytes an inbound copy writes into a line; none while one is still on its way. -/
def Copy.lineData (c : Copy) (line : Nat) : Option (List (Nat × Byte)) :=
  let l := (c.lineBytes line).map fun x => (x.1, c.nearByte x.2)
  if l.all fun x => x.2.isSome then some (l.map fun x => (x.1, x.2.getD 0)) else none

/-- The bursts of a copy that still wait behind a table query. -/
def copyQueued (s : State) (c : Copy) : Bool := s.dram.queues.any fun e => decide (e.req = c.head.id)

/-- Write one line of an inbound copy, set its presence and count its bytes. -/
def writeCopyLine (s : State) (c : Copy) (line : Nat) (bs : List (Nat × Byte)) : State :=
  let rest := c.lines.filter fun l => decide (l ≠ line)
  let s1 := rewatch (setPresent (guardedWrite s (headWho c.head) (some c.head.step) bs) c.head.id line)
  let s2 := putCopy s1 { c with lines := rest, begun := true }
  let s3 := counterUpdate s2 (headWho c.head) (liveCounter s c.head.task c.cnt) bs.length
    (if rest = [] then errorCode c.bursts else 0)
  releaseParties (if rest = [] then dropCopy s3 c.head.id else s3) c.head.task

/-- `COPY_LINE_WRITE`: a line of an inbound copy is written once its bytes have come, its clear has
landed and the frontier is past the issue step. -/
def execCopyLineWrite (req line : Nat) (s : State) : Host.Outcome State Fault Refusal :=
  .next (match findCopy s req with
    | some c =>
      if !c.outbound ∧ line ∈ c.lines ∧ copyActs s c ∧ engineMayWrite s req line ∧ !copyQueued s c then
        match c.lineData line with
        | some bs => writeCopyLine s c line bs
        | none => s
      else s
    | none => s)

/-! ### Outbound copies (R98, R99) -/

/-- Whether the issue step of a request has landed on every line of a range. -/
def rangeLanded (s : State) (a n step : Nat) : Bool :=
  (linesOf a n).all fun l =>
    match domainOf s (l * 128) with
    | some d => atLeast (knownAt s d (sliceOf (l * 128))) (step + 1) && landedBelow s d (sliceOf (l * 128)) (step + 1)
    | none => true

/-- An outbound copy reads its near bytes (R98). A sector that cannot be decoded is counted, and a burst that needs it
fails when its turn at the far side has come (R100, R135). -/
def readNear (s : State) (c : Copy) : State :=
  let bad := (sectorRange c.near c.len).filter (sectorBad s)
  let s1 := bad.foldl countBad ((sectorRange c.near c.len).foldl readSector s)
  putCopy s1 { c with nearData := some (bytesAt s1.sram.mem c.near c.len), badNear := bad, begun := true }

/-- Whether an outbound copy may read its near bytes: its task runs, and the issue step has landed there. A copy that
no longer waits for the frontier is begun even while the context is being saved, and is then completed (R102). -/
def nearReady (s : State) (c : Copy) : Bool :=
  c.outbound && c.nearData.isNone && taskActs s c.head.task && rangeLanded s c.near c.len c.head.step

/-- `COPY_NEAR_READ`: once the issue step has landed. -/
def execCopyNearRead (req : Nat) (s : State) : Host.Outcome State Fault Refusal :=
  .next (match findCopy s req with
    | some c =>
      if nearReady s c then readNear s c else s
    | none => s)

/-- A burst of an outbound copy that its queue has accepted or that has failed is counted (R99). -/
def countBurst (s : State) (c : Copy) (n : Nat) (x : Burst) : State :=
  let bs := setBurst c.bursts n (.done (errorCode [x]))
  let last := bs.all isDone
  let s1 := putCopy s { c with bursts := bs }
  let s2 := counterUpdate s1 (headWho c.head) (liveCounter s c.head.task c.cnt) (c.burstLen x)
     (if last then errorCode bs else 0)
  releaseParties (if last then dropCopy s2 c.head.id else s2) c.head.task

/-- `COPY_BURST_ACCEPTED`: burst `n` is counted. -/
def execCopyBurstAccepted (req n : Nat) (s : State) : Host.Outcome State Fault Refusal :=
  .next (match findCopy s req with
    | some c =>
      match c.bursts[n]? with
      | some x =>
        if c.outbound ∧ c.nearData.isSome ∧ (x.state = .accepted ∨ isFailed x) then countBurst s c n x else s
      | none => s
    | none => s)

end Sys2Proof.Machine
end

