-- ==== Sys2Proof/Machine/BulkEvents.lean ====
section
/-!
DEFINITION. The events of bulk reads and reform bins: the birth of a handler (R109 to R111), the
drawing of a bin (R110, R251), and the last-burst event (R116 to R120).
-/

namespace Sys2Proof.Machine

open Sys2Proof

/-! ### Birth (R108 to R111) -/

/-- The first free bin of a core's sixteen. -/
def freeBin (s : State) (core : Nat) : Option Nat :=
  (List.range 16).find? fun k => !(s.eng.bins.any fun b => decide (b.core = core) && decide (b.slot = k))

/-- File one thread: into a bin of its key that has room, or into a free bin; none when there is
neither (R110, R250). -/
def fileThread (s : State) (core width : Nat) (key : BinKey) (t : Thread) : Option State :=
  let fits := fun b : Bin => decide (b.core = core) && decide (b.key = key) && decide (b.threads.length < width)
  match s.eng.bins.find? fits with
  | some b =>
    some { s with
      eng.bins := updWhere s.eng.bins (fun x => decide (x.core = core) && decide (x.slot = b.slot))
        fun x => { x with threads := x.threads ++ [t] } }
  | none =>
    (freeBin s core).map fun k =>
      { s with eng.bins := s.eng.bins ++ [{ core := core, slot := k, key := key, threads := [t], since := s.now }] }

/-- A handler thread at birth (R109). -/
def handlerThread (step : Nat) (bc : List Word) (data : List Word) : Thread :=
  let t := newThread (BitVec.allOnes 32) 0 0
  { t with
    v := Vector.ofFn fun k : Fin 64 => data.getD k.val 0
    step := BitVec.ofNat 64 step
    bc := Vector.ofFn fun k : Fin 4 => bc.getD k.val 0 }

/-- The handler of a burst whose data has come. -/
def burstThread (b : Bulk) (x : Burst) (data : List Byte) : Thread :=
  handlerThread (b.head.step + 1)
    [BitVec.ofNat 32 x.coord.1, BitVec.ofNat 32 x.coord.2.1, BitVec.ofNat 32 x.coord.2.2,
      BitVec.ofNat 32 b.tag]
    ((wordsOf data).map (BitVec.ofNat 32))

/-- `BURST_ARRIVAL`: burst `n` of a bulk read arrives and its handler is born, when a handler slot and a
bin have room. -/
def execBurstArrival (req n : Nat) (s : State) : Host.Outcome State Fault Refusal :=
  .next (match findBulk s req with
    | some b =>
      match b.bursts[n]?, findTask s b.head.task with
      | some x, some t =>
        match x.state with
        | .got data =>
          if taskActs s b.head.task ∧ !inQueue s req n ∧ handlerSlot s t b.head.core then
            match fileThread s b.head.core t.decl.width (.handler b.head.task b.head.party req)
                (burstThread b x data) with
            | some s1 => putBulk s1 { b with bursts := setBurst b.bursts n (.done 0), born := b.born + 1 }
            | none => s
          else s
        | _ => s
      | _, _ => s
    | none => s)

/-! ### Drawing a bin (R110, R251) -/

/-- The entry address of a declared handler (R107). -/
def handlerEntry (t : Task) (n : Nat) : Word := assoc t.decl.handlers n 0

/-- The bin of a core by its slot. -/
def findBin (s : State) (core slot : Nat) : Option Bin :=
  s.eng.bins.find? fun b => decide (b.core = core) && decide (b.slot = slot)

/-- The task whose threads a bin holds. -/
def binTask (b : Bin) : Nat :=
  match b.key with
  | .reform t _ _ => t
  | .handler t _ _ => t

/-- The threads of a reform bin in ascending `TID`. -/
def byTid (l : List Thread) : List Thread := sortBy (fun a b => decide (a.tid.toNat ≤ b.tid.toNat)) l

/-- Draw a bin into a fresh group. -/
def drawBin (s : State) (b : Bin) (t : Task) : State :=
  let s1 := { s with eng.bins := s.eng.bins.filter fun x => !(decide (x.core = b.core) && decide (x.slot = b.slot)) }
  match b.key with
  | .reform task party pc =>
    newGroup s1 task party b.core t.decl.width none false (byTid b.threads) pc []
  | .handler task party req =>
    match findBulk s req with
    | some k => newGroup s1 task party b.core t.decl.width (some req) false b.threads (handlerEntry t k.hnd) k.params
    | none => s1

/-- Whether a bin is drawn: it is full, or 256 cycles old (R110, R251). The fresh group may have to wait in the pending
set (R263). -/
def binDue (s : State) (b : Bin) : Bool :=
  match findTask s (binTask b) with
  | some t => taskActs s t.uid && (decide (t.decl.width ≤ b.threads.length) || decide (b.since + 256 ≤ s.now))
  | none => false

/-- `BIN_DRAW`: a bin that is full, or 256 cycles old, is drawn. -/
def execBinDraw (core bin : Nat) (s : State) : Host.Outcome State Fault Refusal :=
  .next (match findBin s core bin with
    | some b =>
      match findTask s (binTask b) with
      | some t => if binDue s b then drawBin s b t else s
      | none => s
    | none => s)

/-! ### The last-burst event (R116 to R120) -/

/-- Whether a bulk read has live handlers, born bursts in bins, or stores its slices have not accepted. -/
def handlersBusy (s : State) (req : Nat) : Bool :=
  (s.groups.any fun g => decide (g.handler = some req)) ||
  (s.eng.bins.any fun b => match b.key with
    | .handler _ _ r => decide (r = req)
    | .reform _ _ _ => false) ||
  (s.sram.offers.any fun o => decide (o.req = some req))

/-- The window lines of a bulk read. -/
def Bulk.lines (b : Bulk) : List Nat := linesOf b.win (128 * b.winLines)

/-- The pending entries of a bulk read. -/
def windowEntries (s : State) (req : Nat) : List Entry := s.sram.entries.filter fun e => decide (e.req = some req)

/-- Whether a step fault among the writes of a bulk read must wait: a landing of an earlier step of the window's domain
is still to take place at some slice (R161). -/
def windowFaultWaits (s : State) (b : Bulk) : Bool :=
  (lowestCollision (windowEntries s b.head.id)).isSome &&
    ((domainOf s b.win).map fun d => !landedBefore s d (b.head.step + 1)).getD false

/-- The five conditions of R117, the last of them apart. -/
def lastBurstDue (s : State) (b : Bulk) : Bool :=
  (taskStarts s b.head.task || (b.landed && taskActs s b.head.task)) &&
    (b.bursts.all fun x => isDone x || isFailed x) && !handlersBusy s b.head.id &&
    (b.lines.all fun l => engineMayWrite s b.head.id l) && !windowFaultWaits s b

/-- The completion handler (R118). -/
def completionThread (b : Bulk) : Thread :=
  handlerThread (b.head.step + 1)
    [BitVec.ofNat 32 b.total, BitVec.ofNat 32 (errorCode b.bursts), BitVec.ofNat 32 b.born,
      BitVec.ofNat 32 b.tag] []

/-- Start the completion handler in a group of its own (R118). -/
def startCompletion (s : State) (b : Bulk) (t : Task) (n : Nat) : State :=
  newGroup (putBulk s { b with landed := true }) t.uid b.head.party b.head.core t.decl.width (some b.head.id)
    true [completionThread b] (handlerEntry t n) b.params

/-- Whether an outstanding bulk read of the task that holds a byte may still have a handler that loads it as it was. -/
def undoNeeded (s : State) (u : Undo) : Bool :=
  s.eng.bulks.any fun b => decide (holderTask (ownerAt s u.addr) = some b.head.task) && decide (b.head.step + 1 ≤ u.step)

/-- The window becomes present and the counter is updated (R117, R119). -/
def finishBulk (s : State) (b : Bulk) : State :=
  let s1 := { s with
    sram.clears := s.sram.clears.filter fun c => decide (c.req ≠ b.head.id)
    sram.copies := presenceWritten s.sram.copies b.lines
    eng.bulks := s.eng.bulks.filter fun x => decide (x.head.id ≠ b.head.id) }
  let s2 := { s1 with sram.undo := s1.sram.undo.filter (undoNeeded s1) }
  releaseParties (counterUpdate s2 (headWho b.head) b.cnt b.total (errorCode b.bursts)) b.head.task

/-- The last-burst event once it is due: a collision stops the task (R116), and so does an uncorrectable error in an
entry (R135); otherwise the writes land together, and the completion handler runs or the window becomes present. A byte
that a copy or a bulk read of another core writes too ends with the bytes of whichever comes last (R115 leaves its value
open; log entry 99). -/
def lastBurst (s : State) (b : Bulk) (t : Task) : State :=
  match lowestCollision (windowEntries s b.head.id), (windowEntries s b.head.id).find? (entryUpset s) with
  | some c, _ => stopWith s b.head.task (collisionFrec (b.head.step + 1) true c)
  | none, some e => stopBad s (entryWho e) e.sector
  | none, none =>
    let s1 := rewatch (landEntries s (windowEntries s b.head.id))
    match b.chnd with
    | some n => if b.landed then finishBulk s1 b else startCompletion s1 b t n
    | none => finishBulk s1 b

/-- Whether the last-burst event of a bulk read may take place: with a completion handler it waits for a handler slot,
and comes a second time when that handler has ended. -/
def lastBurstReady (s : State) (b : Bulk) (t : Task) : Bool :=
  lastBurstDue s b && (b.chnd.isNone || b.landed || handlerSlot s t b.head.core)

/-- `LAST_BURST_EVENT`. -/
def execLastBurstEvent (req : Nat) (s : State) : Host.Outcome State Fault Refusal :=
  .next (match findBulk s req with
    | some b =>
      match findTask s b.head.task with
      | some t => if lastBurstReady s b t then lastBurst s b t else s
      | none => s
    | none => s)

end Sys2Proof.Machine
end

