-- ==== Sys2Proof/Machine/Matrix.lean ====
section
/-!
DEFINITION. The matrix instructions, majors 0x30 and 0x31: claims (R221, R222), operand checks and
issue (R223, R226 to R233, R236, R237). A memory operand is read when its operation enters the queue,
as loads of the elected lane's step; the operation takes effect at its turn (R224).
-/

namespace Sys2Proof.Machine

open Sys2Proof

/-! ### Engines and claims (R220 to R222) -/

/-- An empty plane. -/
def emptyPlane : Plane := { loaded := false, ty := .i8, sparse := false, scale0 := 0, scale1 := 0, img := [] }

/-- The engine of a core, where it is claimed. -/
def findEngine (s : State) (core : Nat) : Option Engine := s.eng.matrix.find? fun e => e.core = core

/-- Put an engine back. -/
def putEngine (s : State) (e : Engine) : State :=
  { s with eng.matrix := updWhere s.eng.matrix (fun x => decide (x.core = e.core)) fun _ => e }

/-- An engine as it is when the claim is made: planes empty, tiles zero (R221). -/
def freshEngine (core : Nat) (claim : Nat × Nat) (follows : Bool) : Engine :=
  { core := core, claim := claim, leads := false, follows := follows, active := emptyPlane,
    shadow := emptyPlane, acc0 := [], acc1 := [], queue := [], softError := false }

/-- Whether the engine of a core is free for a party, or already its own. -/
def engineFor (s : State) (core : Nat) (claim : Nat × Nat) : Bool :=
  match findEngine s core with
  | some e => decide (e.claim = claim)
  | none => true

/-- Claim the engine of a core, as leader or follower. -/
def claimOne (s : State) (core : Nat) (claim : Nat × Nat) (follows : Bool) : State :=
  match findEngine s core with
  | some _ => s
  | none => { s with eng.matrix := s.eng.matrix ++ [freshEngine core claim follows] }

/-- Take the claims of an instruction (R221, R222); none while another party holds an engine. -/
def takeClaims (s : State) (g : Group) (pair : Bool) : Option State :=
  let claim := (g.task, g.party)
  if !engineFor s g.core claim then none
  else if pair && !engineFor s (g.core + 1) claim then none
  else
    let s1 := claimOne s g.core claim false
    if pair then
      let s2 := claimOne s1 (g.core + 1) claim true
      let lead := fun e : Engine => decide (e.core = g.core)
      some { s2 with eng.matrix := updWhere s2.eng.matrix lead fun e => { e with leads := true } }
    else some s1

/-- A PAIR instruction that traps: on an odd core, or with a follower outside the partition (R222). -/
def pairBad (s : State) (g : Group) (pair : Bool) : Bool :=
  pair && (decide (g.core % 2 = 1) ||
    (match findPart s (partOf s g.task) with
      | some q => !(q.cores.getLsbD (g.core + 1))
      | none => true))

/-- A matrix-operand trap. -/
def matrixTrap (s : State) (g : Group) (p : Path) (l : Nat) (w : Word) : State :=
  takeTrap s g p (plainTrap 0x07 l w)

/-- The head of the course of every matrix instruction: nothing with no active lane, the handler-rule
trap in a handler (R112, R221). -/
def matrixOp (gd : Guard) (f : State → Group → Path → Word → Nat → State) (s : State) :
    Host.Outcome State Fault Refusal :=
  onPath s fun g p w =>
    match lowest (activeMask p gd) with
    | none => putPath s g (advance p)
    | some l => if g.handler.isSome then handlerTrap s g p (activeMask p gd) w else f s g p w l

/-- The queue of a core's engine is full (R220). -/
def queueFull (s : State) (core : Nat) : Bool :=
  match findEngine s core with
  | some e => decide (8 ≤ e.queue.length)
  | none => false

/-- An operation enters the matrix queue of its core (R223), and the path goes on as `q`. -/
def enqueueOp (s : State) (g : Group) (p q : Path) (l : Nat) (act : MatrixAct) : State :=
  if queueFull s g.core then putPath s g (parked p .issue)
  else
    let (id, s1) := freshId s
    let op : MatrixOp := { head := headOf g p l id, gid := g.gid, pid := p.pid, lane := l, act := act }
    let mine := fun e : Engine => decide (e.core = g.core)
    putPath { s1 with
      eng.matrix := updWhere s1.eng.matrix mine fun e => { e with queue := e.queue ++ [op] } } g q

/-- Whether several ranges may be read as loads of a step of a core. -/
def rangesReady (s : State) (task core step : Nat) (rs : List (Nat × Nat)) : Bool :=
  rs.all fun r => blockReady s task core r.1 r.2 step

/-- The bytes of several ranges, one after another. -/
def rangesBytes (s : State) (task step : Nat) (rs : List (Nat × Nat)) : List Byte :=
  rs.flatMap fun r => rangeBytes s task r.1 r.2 step

/-- Read the ranges of an operation (R135, R239): the state after corrections, and the sector that stops
the task. -/
def readRanges (s : State) (rs : List (Nat × Nat)) : State × Option Nat :=
  rs.foldl (fun r x => match r.2 with
    | some _ => r
    | none => readRange r.1 x.1 x.2) (s, none)

/-- The canonical cells of a list of bytes, keyed from 0. -/
def cellsOfBytes (bs : List Byte) : Cells 8 :=
  (bs.mapIdx fun i b => (i, b)).filter fun c => decide (c.2 ≠ 0)

/-- The course of an operation that reads memory once its checks have passed: take the claims, wait for
the memory, read it, and enter the queue (R223, R227, R230). -/
def withMemory (s : State) (g : Group) (p : Path) (l : Nat) (pair : Bool) (rs : List (Nat × Nat))
    (k : State → State) : State :=
  match takeClaims s g pair with
  | none => putPath s g (parked p .issue)
  | some s1 =>
    let t := laneOf g l
    if !rangesReady s1 g.task g.core t.step.toNat rs then putPath s1 g (parked p .issue)
    else
      let r := readRanges s1 rs
      match r.2 with
      | some sec => stopBad r.1 { task := g.task, step := t.step, tid := t.tid, pc := seqStart p } sec
      | none => k r.1

/-! ### `MLDW` and `MLDW.S` (R226, R227) -/

/-- The bytes of one weight image. -/
def imageSize (sparse : Bool) (ty : Ty) : Nat := if sparse then 20480 else 16384 * ty.size

/-- The common course of the weight loads. -/
def loadPlane (sparse : Bool) (x y : BitVec 6) (sp : Space) (ty : Ty) (gd : Guard) (pair : Bool)
    (s : State) : Host.Outcome State Fault Refusal :=
  matrixOp gd (fun s g p w l =>
    let a := (laneReg g l x.toNat).toNat
    let span := imageSize sparse ty * (if pair then 2 else 1)
    if pairBad s g pair then matrixTrap s g p l w
    else if a % 128 ≠ 0 then memoryTrap s g p l w sp false a
    else
      match resolve s g sp a span with
      | .error b => memoryTrap s g p l w sp false b
      | .ok b =>
        withMemory s g p l pair [(b, span)] fun s1 =>
          let img := cellsOfBytes (rangeBytes s1 g.task b span (laneOf g l).step.toNat)
          let sc1 := if sparse then sreg p (y.toNat + 1) else sreg p y.toNat
          let next := if sparse then parked p (.selector s1.fresh) else advance p
          enqueueOp s1 g p next l (.load ty sparse pair (sreg p y.toNat) sc1 b img)) s

/-- `MLDW` (R227). -/
def execMldw (x y : BitVec 6) (sp : Space) (ty : Ty) (gd : Guard) (pair : Bool) (s : State) :
    Host.Outcome State Fault Refusal :=
  loadPlane false x y sp ty gd pair s

/-- `MLDW.S` (R227). -/
def execMldwS (x y : BitVec 6) (sp : Space) (ty : Ty) (gd : Guard) (pair : Bool) (s : State) :
    Host.Outcome State Fault Refusal :=
  loadPlane true x y sp ty gd pair s

/-! ### Metadata (R226, R227) -/

/-- An element of `z` bytes at a byte offset of an image or of activation rows. -/
def elemAt (m : Cells 8) (z o : Nat) : Nat := natOfBytes (bytesAt m o z)

/-- The metadata word `w` of column `n` of a 2:4 image. -/
def metaWord (img : Cells 8) (base n w : Nat) : Nat := elemAt img 4 (base + 16384 + 4 * (8 * n + w))

/-- `i0` and `i1` of group `g` of column `n`. -/
def groupIndex (img : Cells 8) (base n g : Nat) : Nat × Nat :=
  let f := metaWord img base n (g / 8) / 2 ^ (4 * (g % 8)) % 16
  (f % 4, f / 4)

/-- The first illegal metadata group of an image, in address order: the word's offset, column and group
(R227). -/
def badMeta (img : Cells 8) (base col : Nat) : Option (Nat × Nat) :=
  (List.range 128).findSome? fun n => (List.range 64).findSome? fun g =>
    let i := groupIndex img base n g
    if i.2 ≤ i.1 then some (base + 16384 + 4 * (8 * n + g / 8), 64 * (col + n) + g) else none

/-- The illegal metadata group of a load, over both images of a pair. -/
def badImage (img : Cells 8) (pair : Bool) : Option (Nat × Nat) :=
  match badMeta img 0 0 with
  | some x => some x
  | none => if pair then badMeta img 20480 128 else none

/-! ### `MMA` and `MMAS` (R228 to R230) -/

/-- The planes of an engine after the operations queued so far, in order. A 2:4 load whose metadata are illegal leaves the
shadow plane empty (R227). -/
def planesAfter (e : Engine) (lead : Bool) (ops : List MatrixOp) : Plane × Plane :=
  ops.foldl (fun ps op => match op.act with
    | .load ty sparse pair c0 c1 _ img =>
      if sparse ∧ (badImage img pair).isSome then (ps.1, if lead ∨ pair then emptyPlane else ps.2)
      else if lead ∨ pair then
        (ps.1, { loaded := true, ty := ty, sparse := sparse, scale0 := c0, scale1 := c1, img := [] })
      else ps
    | .stream _ _ swap pair _ _ _ _ _ => if swap ∧ (lead ∨ pair) then (ps.2, ps.1) else ps
    | _ => ps) (e.active, e.shadow)

/-- The plane that will be active on a core at the turn of an operation that enters the queue now, after
its own SWAP (R230). -/
def planeAhead (s : State) (core lead : Nat) (swap : Bool) : Plane :=
  match findEngine s core with
  | none => emptyPlane
  | some e =>
    let ops := (findEngine s lead).elim [] (·.queue)
    let ps := planesAfter e (decide (core = lead)) ops
    if swap then ps.2 else ps.1

/-- Whether an activation format fits a plane (R230). -/
def planeFits (ty : Ty) (q : Plane) : Bool :=
  q.loaded && (match ty with
    | .i8 => decide (q.ty = .i8)
    | .bf16 => decide (q.ty = .bf16)
    | _ => decide (q.ty = .e4m3) || decide (q.ty = .e5m2))

/-- The bytes of an activation row for a plane (R228). -/
def rowBytes (ty : Ty) (q : Plane) : Nat := if q.sparse then 256 else 128 * ty.size

/-- The stream descriptor's fixed fields are in their sets (R228). -/
def streamOk (w0 stride saddr sstride : Nat) (scaled : Bool) : Bool :=
  decide (bitsOf w0 30 24 = 0) && decide (bitsOf w0 15 9 = 0) && decide (1 ≤ bitsOf w0 8 0) &&
  decide (bitsOf w0 23 16 + bitsOf w0 8 0 ≤ 256) && decide (stride % 32 = 0) &&
  (!scaled || ((decide (saddr % 4 = 0) || decide (saddr = 0xFFFFFFFF)) && decide (sstride % 4 = 0)))

/-- The index of the element that begins at byte `o` of a region of a type: of two 4-bit elements of a byte, the
lower one (R41, R169). None where no element begins there. -/
def elementIndex (ty : Ty) (o : Nat) : Option Nat :=
  if o * 8 % tyBits ty = 0 then some (o * 8 / tyBits ty) else none

/-- The declared scale of a row (R229): the address of its first K-block's scale. -/
def declaredScale (s : State) (g : Group) (sp : Space) (a n : Nat) : Option Nat :=
  match sp with
  | .party => none
  | _ =>
    match findTask s g.task, ownerAt s a with
    | some t, .region u r =>
      if u ≠ g.task then none
      else
        match regionOf t r, (t.bases[r]?).join with
        | some x, some base =>
          (elementIndex x.sfmt (a - base)).bind fun e =>
            if x.blen = 2 ∧ e % 128 = 0 ∧ a + n ≤ base + x.size then
              ((t.bases[x.sclr]?).join).map fun b => b + 4 * (e / 128)
            else none
        | _, _ => none
    | _, _ => none

/-- Read one scale word. -/
def scaleAt (s : State) (task step a : Nat) : Word :=
  BitVec.ofNat 32 (natOfBytes (rangeBytes s task a 4 step))

/-- The course of `MMA` and `MMAS` (R230). A pair of which one engine holds a dense plane and the other a 2:4 one streams rows
of the larger length, with two scales to a row (log entry 85). -/
def streamRows (scaled : Bool) (x y : BitVec 6) (sp : Space) (ty : Ty) (gd : Guard) (pair swap : Bool)
    (s : State) : Host.Outcome State Fault Refusal :=
  matrixOp gd (fun s g p w l =>
    let a := (laneReg g l x.toNat).toNat
    let w0 := (sreg p y.toNat).toNat
    let stride := (sreg p (y.toNat + 1)).toNat
    let saddr := (sreg p (y.toNat + 2)).toNat
    let sstride := (sreg p (y.toNat + 3)).toNat
    let n := bitsOf w0 8 0
    let declared := scaled && decide (saddr = 0xFFFFFFFF)
    if pairBad s g pair || !streamOk w0 stride saddr sstride scaled || (scaled && decide (ty = .i8)) then
      matrixTrap s g p l w
    else if (takeClaims s g pair).isNone then putPath s g (parked p .issue)
    else
      let q := planeAhead s g.core g.core swap
      let qf := if pair then planeAhead s (g.core + 1) g.core swap else q
      let rb := max (rowBytes ty q) (rowBytes ty qf)
      let blocks := if q.sparse || qf.sparse then 2 else 1
      let rows := (List.range n).map fun i => a + i * stride
      if !planeFits ty q || !planeFits ty qf || decide (stride < rb) ||
          (declared && rows.any fun r => (declaredScale s g sp (absoluteOf s g sp r) rb).isNone) then
        matrixTrap s g p l w
      else if a % 32 ≠ 0 then memoryTrap s g p l w sp false a
      else
        let scaleRange := fun i => if scaled && !declared then [(⟨sp, saddr + i * sstride, 4 * blocks⟩ : Named)] else []
        match firstFailing s g ((rows.map fun r => ⟨sp, r, rb⟩) ++ (List.range n).flatMap scaleRange) with
        | some f => memoryTrap s g p l w f.1 false f.2
        | none =>
          let abs := rows.map (absoluteOf s g sp)
          let scs := if declared then abs.map fun r => (declaredScale s g sp r rb).getD 0
            else if scaled then (List.range n).map fun i => absoluteOf s g sp (saddr + i * sstride)
            else []
          let rs := (abs.map fun r => (r, rb)) ++ scs.map fun b => (b, 4 * blocks)
          withMemory s g p l pair rs fun s1 =>
            let st := (laneOf g l).step.toNat
            let scales := scs.map fun b =>
              (scaleAt s1 g.task st b, if blocks = 2 then scaleAt s1 g.task st (b + 4) else 0)
            enqueueOp s1 g p (advance p) l (.stream ty scaled swap pair (decide (bitsOf w0 31 31 = 1))
              (bitsOf w0 23 16) n (cellsOfBytes (rangesBytes s1 g.task st (abs.map fun r => (r, rb)))) scales)) s

/-- `MMA` (R230). -/
def execMma (x y : BitVec 6) (sp : Space) (ty : Ty) (gd : Guard) (pair swap : Bool) (s : State) :
    Host.Outcome State Fault Refusal :=
  streamRows false x y sp ty gd pair swap s

/-- `MMAS` (R229, R230). -/
def execMmas (x y : BitVec 6) (sp : Space) (ty : Ty) (gd : Guard) (pair swap : Bool) (s : State) :
    Host.Outcome State Fault Refusal :=
  streamRows true x y sp ty gd pair swap s

/-! ### `MDRN` (R232, R233) -/

/-- The descriptor of a drain (R232), with the destination of the elected lane. -/
def drainSpecOf (p : Path) (y : BitVec 6) (dest : Nat) (ty : Ty) (tr : Bool) : DrainSpec :=
  let r := fun k => sreg p (y.toNat + k)
  { tile := decide (bitsOf (r 0).toNat 31 31 = 1), rm := bitsOf (r 0).toNat 26 24,
    row0 := bitsOf (r 0).toNat 23 16, n := bitsOf (r 0).toNat 8 0, dstride := (r 1).toNat,
    tstride := (r 3).toNat, dest := dest, tdest := (r 2).toNat, vdest := (r 4).toNat, seed := r 5,
    tc := r 6, ty := ty, tr := tr }

/-- The columns of a drain. -/
def drainCols (pair : Bool) : Nat := if pair then 256 else 128

/-- The checks of R232 and R233 on the fields of a descriptor. -/
def drainFieldsOk (w0 : Nat) (d : DrainSpec) (pair : Bool) : Bool :=
  decide (bitsOf w0 30 27 = 0) && decide (bitsOf w0 15 9 = 0) && decide (d.rm ≤ 4) && decide (1 ≤ d.n) &&
  decide (d.row0 + d.n ≤ 256) && (!d.tr || decide (d.n = 128) || decide (d.n = 256)) &&
  decide (d.dstride % 32 = 0) && decide (drainCols pair * d.ty.size ≤ d.dstride) &&
  (!d.tr || (decide (d.tstride % 32 = 0) && decide (d.n ≤ d.tstride))) &&
  !(d.tr && (decide (d.ty = .i8) || decide (d.ty = .i32))) &&
  !(decide (d.rm ≠ 0) && (decide (d.ty = .f32) || decide (d.ty = .i8) || decide (d.ty = .i32)))

/-- The ranges of the primary output. -/
def primaryRanges (d : DrainSpec) (pair : Bool) : List (Nat × Nat) :=
  (List.range d.n).map fun i => (d.dest + i * d.dstride, drainCols pair * d.ty.size)

/-- The ranges of the transposed copy (R234). -/
def transposedRanges (d : DrainSpec) (pair : Bool) : List (Nat × Nat) :=
  if d.tr then (List.range (drainCols pair)).map fun n => (d.tdest + n * d.tstride, d.n) else []

/-- The range of the vector scales (R234). -/
def vectorRanges (d : DrainSpec) (pair : Bool) : List (Nat × Nat) :=
  if d.tr then [(d.vdest, 4 * drainCols pair * (d.n / 128))] else []

/-- Whether two lists of ranges share a byte. -/
def sharesByte (xs ys : List (Nat × Nat)) : Bool :=
  xs.any fun x => ys.any fun y => decide (x.1 < y.1 + y.2) && decide (y.1 < x.1 + x.2)

/-- Whether two of the three destinations of a drain share a byte (R233). -/
def drainOverlaps (d : DrainSpec) (pair : Bool) : Bool :=
  sharesByte (primaryRanges d pair) (transposedRanges d pair) ||
  sharesByte (primaryRanges d pair) (vectorRanges d pair) ||
  sharesByte (transposedRanges d pair) (vectorRanges d pair)

/-- The destination of a drain that is misaligned (R232, R233). -/
def drainMisaligned (d : DrainSpec) : Option Nat :=
  if d.dest % 32 ≠ 0 then some d.dest
  else if d.tr ∧ d.tdest % 128 ≠ 0 then some d.tdest
  else if d.tr ∧ d.vdest % 4 ≠ 0 then some d.vdest
  else none

/-- Every range a drain writes. -/
def drainRanges (d : DrainSpec) (pair : Bool) : List (Nat × Nat) :=
  primaryRanges d pair ++ transposedRanges d pair ++ vectorRanges d pair

/-- A drain's descriptor with its destinations as absolute addresses. -/
def absoluteSpec (s : State) (g : Group) (sp : Space) (d : DrainSpec) : DrainSpec :=
  { d with dest := absoluteOf s g sp d.dest, tdest := absoluteOf s g sp d.tdest,
           vdest := absoluteOf s g sp d.vdest }

/-- `MDRN` (R233): checked, claimed, and queued; its lines become absent with its step (R235). -/
def execMdrn (x y : BitVec 6) (sp : Space) (ty : Ty) (gd : Guard) (pair tr : Bool) (s : State) :
    Host.Outcome State Fault Refusal :=
  matrixOp gd (fun s g p w l =>
    let d := drainSpecOf p y (laneReg g l x.toNat).toNat ty tr
    if pairBad s g pair || !drainFieldsOk (sreg p y.toNat).toNat d pair || drainOverlaps d pair then
      matrixTrap s g p l w
    else
      match drainMisaligned d with
      | some a => memoryTrap s g p l w sp false a
      | none =>
        match firstFailing s g ((drainRanges d pair).map fun r => ⟨sp, r.1, r.2⟩) with
        | some f => memoryTrap s g p l w f.1 false f.2
        | none =>
          match takeClaims s g pair with
          | none => putPath s g (parked p .issue)
          | some s1 =>
            if queueFull s1 g.core then putPath s1 g (parked p .issue)
            else
              let da := absoluteSpec s g sp d
              let id := s1.fresh
              let s2 := enqueueOp s1 g p (advance p) l (.drain pair da)
              addClears s2 id (laneOf g l).step.toNat
                ((drainRanges da pair).flatMap fun r => linesOf r.1 r.2).dedup) s

/-! ### `MZERO`, `TRD` and `TWR` (R236, R237) -/

/-- `MZERO` (R236). -/
def execMzero (tile : Bool) (gd : Guard) (pair : Bool) (s : State) : Host.Outcome State Fault Refusal :=
  matrixOp gd (fun s g p w l =>
    if pairBad s g pair then matrixTrap s g p l w
    else withMemory s g p l pair [] fun s1 => enqueueOp s1 g p (advance p) l (.zero tile pair)) s

/-- The slice index of `TRD` and `TWR`. -/
def sliceIndex (p : Path) (y imm : BitVec 6) : Word := sreg p y.toNat + immu p imm

/-- `TRD` (R237). -/
def execTrd (x y imm : BitVec 6) (gd : Guard) (tile col : Bool) (s : State) :
    Host.Outcome State Fault Refusal :=
  matrixOp gd (fun s g p _ l =>
    withMemory s g p l false [] fun s1 =>
      enqueueOp s1 g p (advance p) l
        (.readTile tile col (sliceIndex p y imm) x.toNat (lanesOf (activeMask p gd)))) s

/-- `TWR` (R237). -/
def execTwr (x y imm : BitVec 6) (gd : Guard) (tile col : Bool) (s : State) :
    Host.Outcome State Fault Refusal :=
  matrixOp gd (fun s g p _ l =>
    withMemory s g p l false [] fun s1 =>
      enqueueOp s1 g p (advance p) l
        (.writeTile tile col (sliceIndex p y imm)
          ((lanesOf (activeMask p gd)).map fun k => (k, laneReg g k x.toNat)))) s

end Sys2Proof.Machine
end

