-- ==== Sys2Proof/Machine/MatrixEvents.lean ====
section
/-!
DEFINITION. The events of the matrix engine: the turn of a queued operation (R224, R225, R227, R230,
R233, R234, R236, R237), the write of a drain (R235, R239) and the end of a claim (R221).
-/

namespace Sys2Proof.Machine

open Sys2Proof

/-! ### Elements -/

/-- The element of a tile at a row and column. -/
def tileAt (e : Engine) (tile : Bool) (r c : Nat) : Word := cellGet (if tile then e.acc1 else e.acc0) (r * 128 + c)

/-- Write elements of a tile. -/
def tileSet (e : Engine) (tile : Bool) (ws : List (Nat × Word)) : Engine :=
  if tile then { e with acc1 := cellSetAll e.acc1 ws } else { e with acc0 := cellSetAll e.acc0 ws }

/-- The value of an element of a format. -/
def elemValue (ty : Ty) (b : Nat) : FVal := ((fmtOf ty).getD f32).value b

/-! ### Block sums (R226, R230) -/

/-- The operand pairs of a dense block: activation element and weight element, as bit patterns. -/
def densePairs (q : Plane) (ty : Ty) (rows : Cells 8) (row n : Nat) : List (Nat × Nat) :=
  (List.range 128).map fun k =>
    (elemAt rows ty.size (row + k * ty.size), elemAt q.img q.ty.size ((128 * k + n) * q.ty.size))

/-- The operand pairs of K-block `kb` of a 2:4 plane. -/
def sparsePairs (q : Plane) (rows : Cells 8) (row n kb : Nat) : List (Nat × Nat) :=
  (List.range 32).flatMap fun j =>
    let g := 32 * kb + j
    let i := groupIndex q.img 0 n g
    [(elemAt rows 1 (row + 4 * g + i.1), elemAt q.img 1 (128 * (2 * g) + n)),
      (elemAt rows 1 (row + 4 * g + i.2), elemAt q.img 1 (128 * (2 * g + 1) + n))]

/-- The operand pairs of a block. -/
def blockPairs (q : Plane) (ty : Ty) (rows : Cells 8) (row n kb : Nat) : List (Nat × Nat) :=
  if q.sparse then sparsePairs q rows row n kb else densePairs q ty rows row n

/-- An `I8` block: the exact integer sum (R180). -/
def intBlock (ps : List (Nat × Nat)) : Int :=
  ps.foldl (fun t p => t + sextInt p.1 8 * sextInt p.2 8) 0

/-- One tile element after one K-block, with the flags (R183, R230). -/
def accumulate (q : Plane) (ty : Ty) (rows : Cells 8) (row n kb : Nat) (scale : Option (Word × Word))
    (t : Word) : Word × Word :=
  let ps := blockPairs q ty rows row n kb
  if ty = .i8 then (t + BitVec.ofInt 32 (intBlock ps), 0)
  else
    let exact := decide (ty = .e4m3) && decide (q.ty = .e4m3)
    let b := blockSum exact (ps.map fun p => (elemValue ty p.1, elemValue q.ty p.2))
    let r := promote b.1 scale t
    (r.1, b.2 ||| r.2)

/-- One tile element after one activation row: K-block 0 before K-block 1 (R185). -/
def accumulateRow (q : Plane) (ty : Ty) (rows : Cells 8) (row n : Nat) (scales : Option (Word × Word))
    (t : Word) : Word × Word :=
  let s0 := scales.map fun x => (x.1, q.scale0)
  let a := accumulate q ty rows row n 0 s0 t
  if q.sparse then
    let b := accumulate q ty rows row n 1 (scales.map fun x => (x.2, q.scale1)) a.1
    (b.1, a.2 ||| b.2)
  else a

/-- One engine after a stream (R230): its tile and the flags raised. -/
def streamEngine (e : Engine) (ty : Ty) (scaled tile : Bool) (row0 n rb : Nat) (rows : Cells 8)
    (scales : List (Word × Word)) : Engine × Word :=
  (List.range n).foldl (fun r i =>
    let sc := if scaled then some (scales.getD i (0, 0)) else none
    let cols := (List.range 128).map fun c =>
      (c, accumulateRow e.active ty rows (i * rb) c sc (tileAt r.1 tile (row0 + i) c))
    (tileSet r.1 tile (cols.map fun x => ((row0 + i) * 128 + x.1, x.2.1)),
      cols.foldl (fun f x => f ||| x.2.2) r.2)) (e, 0)

/-! ### Drains (R233, R234) -/

/-- The element of a drain's column, which may lie on the follower. -/
def drainElem (e f : Engine) (tile : Bool) (r n : Nat) : Word :=
  if n < 128 then tileAt e tile r n else tileAt f tile r (n - 128)

/-- The rounding mode of a drain's element (R232, R233). -/
def drainMode (d : DrainSpec) (row n : Nat) : RMode :=
  match d.rm with
  | 1 => .rtz
  | 2 => .rup
  | 3 => .rdn
  | 4 => .sr (rotl (rword d.seed d.tc (BitVec.ofNat 32 row)) n)
  | _ => .rne

/-- `CONV` of R233: the destination pattern and the flags. -/
def drainConv (d : DrainSpec) (row n : Nat) (t : Word) : Nat × Word :=
  match d.ty with
  | .i8 => (wrapInt 8 (clampInt true 8 t.toInt), 0)
  | .i32 | .f32 => (t.toNat, 0)
  | ty => roundTo ((fmtOf ty).getD f32) (drainMode d row n) (f32.value t.toNat)

/-- The primary output of a drain: bytes with addresses, and flags. -/
def drainPrimary (e f : Engine) (d : DrainSpec) (cols : Nat) : List (Nat × Byte) × Word :=
  let xs := (List.range d.n).flatMap fun i => (List.range cols).map fun n =>
    (d.dest + i * d.dstride + n * d.ty.size,
      drainConv d (d.row0 + i) n (drainElem e f d.tile (d.row0 + i) n))
  (xs.flatMap fun x => addressed x.1 (bytesOfNat d.ty.size x.2.1), xs.foldl (fun w x => w ||| x.2.2) 0)

/-- One column and half of the transposed copy: its bytes, its scale and flags (R234). -/
def drainVector (e f : Engine) (d : DrainSpec) (n h : Nat) : List (Nat × Byte) × Word :=
  let us := (List.range 128).map fun i => f32.value (drainElem e f d.tile (d.row0 + 128 * h + i) n).toNat
  let k := vscale us
  let rs := us.map fun u => roundTo e4m3 .rne (u.scale (-k))
  let sc := (roundTo f32 .rne (.fin false 1 k)).1
  ((rs.mapIdx fun i r => (d.tdest + n * d.tstride + 128 * h + i, (BitVec.ofNat 8 r.1 : Byte))) ++
      addressed (d.vdest + 4 * (n * (d.n / 128) + h)) (bytesOfNat 4 sc),
    rs.foldl (fun w r => w ||| r.2) 0)

/-- The transposed copy with its scales. -/
def drainTransposed (e f : Engine) (d : DrainSpec) (cols : Nat) : List (Nat × Byte) × Word :=
  if d.tr then
    let vs := (List.range cols).flatMap fun n => (List.range (d.n / 128)).map fun h => drainVector e f d n h
    (vs.flatMap (·.1), vs.foldl (fun w v => w ||| v.2) 0)
  else ([], 0)

/-- The bytes of a drain grouped by line. -/
def byLine (bs : List (Nat × Byte)) : List (Nat × List (Nat × Byte)) :=
  ((bs.map fun b => lineOf b.1).dedup).map fun l => (l, bs.filter fun b => decide (lineOf b.1 = l))

/-! ### `MATRIX_OP_TURN` -/

/-- The engine that serves the follower's share of an operation. -/
def followerOf (s : State) (e : Engine) : Engine := (findEngine s (e.core + 1)).getD (freshEngine (e.core + 1) e.claim true)

/-- Put the engines of an operation back: the leader's, and with PAIR the follower's. -/
def putEngines (s : State) (e f : Engine) (pair : Bool) : State :=
  if pair then putEngine (putEngine s e) f else putEngine s e

/-- The flags of an operation merge into those of its elected lane when it finishes (R225). -/
def mergeFlags (s : State) (op : MatrixOp) (fl : Word) : State :=
  match findGroup s op.gid with
  | some g => putGroup s (modLanes g (BitVec.twoPow 64 op.lane) fun _ t => { t with flags := t.flags ||| fl })
  | none => s

/-- The path that issued an operation. -/
def opPath (s : State) (op : MatrixOp) : Option (Group × Path) :=
  (findGroup s op.gid).bind fun g => (findPath g op.pid).map fun p => (g, p)

/-- The sparse-metadata trap of R227, raised at the sequence of its `MLDW.S`. -/
def sparseTrap (s : State) (op : MatrixOp) (base : Nat) (x : Nat × Nat) : State :=
  match opPath s op with
  | some (g, p) =>
    takeTrap s g { p with park := none } { plainTrap 0x08 op.lane (fetchWord s g.core g.task p.pc) with
      addr := BitVec.ofNat 32 (base + x.1)
      info := BitVec.ofNat 32 x.2 }
  | none => s

/-- The `MLDW.S` of an operation goes on once its metadata has been taken. -/
def selectorDone (s : State) (op : MatrixOp) : State :=
  match opPath s op with
  | some (g, p) => if p.park = some (.selector op.head.id) then putPath s g (advance p) else s
  | none => s

/-- A weight load at its turn (R227). -/
def turnLoad (s : State) (e : Engine) (op : MatrixOp) (ty : Ty) (sparse pair : Bool) (c0 c1 : Word)
    (base : Nat) (img : Cells 8) : State :=
  let f := followerOf s e
  match if sparse then badImage img pair else none with
  | some x =>
    sparseTrap (putEngines s { e with shadow := emptyPlane } { f with shadow := emptyPlane } pair) op base x
  | none =>
    let size := imageSize sparse ty
    let q : Plane := { loaded := true, ty := ty, sparse := sparse, scale0 := c0, scale1 := c1, img := cellsIn img 0 size }
    selectorDone (putEngines s { e with shadow := q } { f with shadow := { q with img := cellsIn img size size } } pair) op

/-- Exchange the planes of an engine. -/
def swapPlanes (e : Engine) (swap : Bool) : Engine :=
  if swap then { e with active := e.shadow, shadow := e.active } else e

/-- A stream at its turn (R230). -/
def turnStream (s : State) (e : Engine) (op : MatrixOp) (ty : Ty) (scaled swap pair tile : Bool)
    (row0 n : Nat) (rows : Cells 8) (scales : List (Word × Word)) : State :=
  let e1 := swapPlanes e swap
  let f1 := swapPlanes (followerOf s e) swap
  let rb := if pair then max (rowBytes ty e1.active) (rowBytes ty f1.active) else rowBytes ty e1.active
  let a := streamEngine e1 ty scaled tile row0 n rb rows scales
  let b := streamEngine f1 ty scaled tile row0 n rb rows scales
  mergeFlags (putEngines s a.1 b.1 pair) op (if pair then a.2 ||| b.2 else a.2)

/-- A drain at its turn (R233, R235). -/
def turnDrain (s : State) (e : Engine) (op : MatrixOp) (pair : Bool) (d : DrainSpec) : State :=
  let f := followerOf s e
  let a := drainPrimary e f d (drainCols pair)
  let b := drainTransposed e f d (drainCols pair)
  let r : Drain := { head := op.head, pieces := byLine (a.1 ++ b.1), begun := false }
  mergeFlags { putEngine s e with eng.drains := s.eng.drains ++ [r] } op (a.2 ||| b.2)

/-- The element a lane of `TRD` or `TWR` reaches (R237). -/
def sliceAt (col : Bool) (x : Word) (l : Nat) : Nat × Nat :=
  if col then ((x.toNat / 2 ^ 8 % 2 ^ 8 + l) % 256, x.toNat % 2 ^ 7)
  else (x.toNat % 2 ^ 8, (x.toNat / 2 ^ 8 % 2 ^ 7 + l) % 128)

/-- `TRD` at its turn. -/
def turnRead (s : State) (e : Engine) (op : MatrixOp) (tile col : Bool) (x : Word) (reg : Nat)
    (lanes : List Nat) : State :=
  let s1 := putEngine s e
  match findGroup s1 op.gid with
  | some g =>
    putGroup s1 (modLanes g (maskOf lanes) fun l t =>
      setVreg t reg (tileAt e tile (sliceAt col x l).1 (sliceAt col x l).2))
  | none => s1

/-- `TWR` at its turn. -/
def turnWrite (s : State) (e : Engine) (tile col : Bool) (x : Word) (lanes : List (Nat × Word)) : State :=
  putEngine s (tileSet e tile (lanes.map fun y =>
    ((sliceAt col x y.1).1 * 128 + (sliceAt col x y.1).2, y.2)))

/-- `MZERO` at its turn (R236). -/
def turnZero (s : State) (e : Engine) (tile pair : Bool) : State :=
  let z := fun e : Engine => if tile then { e with acc1 := [] } else { e with acc0 := [] }
  putEngines s (z e) (z (followerOf s e)) pair

/-- An operation takes effect, the engine `e` having given it up from its queue. -/
def turn (s : State) (e : Engine) (op : MatrixOp) : State :=
  match op.act with
  | .load ty sparse pair c0 c1 base img => turnLoad s e op ty sparse pair c0 c1 base img
  | .stream ty scaled swap pair tile row0 n rows scales =>
    turnStream s e op ty scaled swap pair tile row0 n rows scales
  | .drain pair d => turnDrain s e op pair d
  | .zero tile pair => turnZero s e tile pair
  | .readTile tile col x reg lanes => turnRead s e op tile col x reg lanes
  | .writeTile tile col x lanes => turnWrite s e tile col x lanes

/-- Whether an operation must wait for room in its core's drain buffer (R233). While the context is saved it does not: every
queued operation finishes then, and the drains go into the context (R238; log entry 88). -/
def drainWaits (s : State) (core : Nat) (op : MatrixOp) : Bool :=
  match op.act with
  | .drain _ _ => taskStarts s op.head.task && decide (4 ≤ (s.eng.drains.filter fun d => decide (d.head.core = core)).length)
  | _ => false

/-- Whether an uncorrectable soft error stands in a plane or tile of an engine, or of the follower that it leads
(R222, R239). -/
def engineUpset (s : State) (e : Engine) : Bool :=
  e.softError || (e.leads && ((findEngine s (e.core + 1)).map (·.softError)).getD false)

/-- `MATRIX_OP_TURN`: the first operation of a core's matrix queue takes effect; a soft error in the
engine, or in the engine that follows it, stops the claiming task instead, on behalf of whichever operation comes next, and
with no address to report (R239; log entry 86). -/
def execMatrixOpTurn (core : Nat) (s : State) : Host.Outcome State Fault Refusal :=
  .next (match findEngine s core with
    | some e =>
      match e.queue with
      | op :: rest =>
        if !taskActs s op.head.task ∨ drainWaits s core op then s
        else if engineUpset s e then
          stopWith s op.head.task
            (uncorrectable (BitVec.ofNat 64 op.head.step) op.head.tid 0 op.head.pc)
        else turn s { e with queue := rest } op
      | [] => s
    | none => s)

/-! ### `DRAIN_WRITE` and `MATRIX_CLAIM_END` -/

/-- Write one line of a drain and set its presence (R235). -/
def writeDrainLine (s : State) (d : Drain) (x : Nat × List (Nat × Byte)) : State :=
  let s1 := rewatch (setPresent (guardedWrite s (headWho d.head) (some d.head.step) x.2) d.head.id x.1)
  let rest := d.pieces.filter fun y => decide (y.1 ≠ x.1)
  let mine := fun y : Drain => decide (y.head.id = d.head.id)
  let ds := if rest.isEmpty then s1.eng.drains.filter fun y => !mine y
    else updWhere s1.eng.drains mine fun y => { y with pieces := rest, begun := true }
  releaseParties { s1 with eng.drains := ds } d.head.task

/-- `DRAIN_WRITE`: once the clear has landed and the frontier is past the issue step, while the context is saved too, since
the drain then waits on the frontier no longer (R238). -/
def execDrainWrite (req line : Nat) (s : State) : Host.Outcome State Fault Refusal :=
  .next (match s.eng.drains.find? fun d => d.head.id = req with
    | some d =>
      match d.pieces.find? fun x => x.1 = line with
      | some x => if (d.begun ∨ taskActs s d.head.task) ∧ engineMayWrite s req line then writeDrainLine s d x else s
      | none => s
    | none => s)

/-- Whether the claim of an engine has come to its end (R221). -/
def claimOver (s : State) (e : Engine) : Bool :=
  !e.follows && e.queue.isEmpty && decide (taskThreads s e.claim.1 (fun i => decide (i = e.claim.2)) = 0) &&
    !(s.eng.drains.any fun d => decide (d.head.task = e.claim.1) && decide (d.head.party = e.claim.2))

/-- `MATRIX_CLAIM_END`: planes and tiles are discarded, the follower's with the leader's (R222). -/
def execMatrixClaimEnd (core : Nat) (s : State) : Host.Outcome State Fault Refusal :=
  .next (match findEngine s core with
    | some e =>
      if claimOver s e then
        { s with eng.matrix := s.eng.matrix.filter fun x =>
            !(decide (x.core = core) || (e.leads && decide (x.core = core + 1) && x.follows)) }
      else s
    | none => s)

end Sys2Proof.Machine
end

