-- ==== Sys2Proof/Machine/Control.lean ====
section
/-!
DEFINITION. The prefix words (R50, R52, R55, R58) and control flow, majors 0x34 to 0x38 (R242 to R252),
with the event of a lag stall (R157, R248) and of a load that completes (R28, R141).
-/

namespace Sys2Proof.Machine

open Sys2Proof

/-! ### Prefix words -/

/-- A prefix word of rank `n` (R58): out of order or in the last word of the image it is illegal;
otherwise the path keeps it and the sequence goes on. -/
def prefixOp (n : Nat) (f : Prefix → Prefix) (s : State) : Host.Outcome State Fault Refusal :=
  onPath s fun g p w =>
    if n ≤ p.pre.rank ∨ lastWord s g.task p.pc then illegalTrap s g p w
    else
      let pre := f { p.pre with rank := n, start := seqStart p, words := p.pre.words.tail }
      putPath s g { p with pc := p.pc + 4, pre := pre, park := none }

/-- `HINT` (R55): it changes nothing but the sequence it stands in. -/
def execHint (_br : BitVec 2) (_ra _rb : Bool) (s : State) : Host.Outcome State Fault Refusal :=
  onPath s fun g p w =>
    if 1 ≤ p.pre.rank ∨ lastWord s g.task p.pc then illegalTrap s g p w
    else putPath s g { p with pc := p.pc + 4, pre := { p.pre with
      rank := 1, start := seqStart p, hint := w, words := p.pre.words.tail }, park := none }

/-- `MOD` (R52). -/
def execMod (m : ModWord) (s : State) : Host.Outcome State Fault Refusal :=
  prefixOp 2 (fun q => { q with mod := some m }) s

/-- `IMM` (R50). -/
def execImm (hi : BitVec 26) (s : State) : Host.Outcome State Fault Refusal :=
  prefixOp 3 (fun q => { q with hi := some hi }) s

/-! ### Branches, calls and returns (R243, R244) -/

/-- A displacement in words from the instruction's own address. -/
def target (p : Path) (disp : Word) : Word := p.pc + 4 * disp

/-- `BRA` (R243). -/
def execBra (gd : Guard) (disp : BitVec 22) (s : State) : Host.Outcome State Fault Refusal :=
  onPath s fun g p w =>
    let c := activeMask p gd
    match uniform p c with
    | some true => putPath s g (jumpTo p (target p (disp.signExtend 32)))
    | some false => putPath s g (advance p)
    | none => controlTrap s g p c w

/-- `JMP` (R243). -/
def execJmp (disp : BitVec 26) (s : State) : Host.Outcome State Fault Refusal :=
  onPath s fun g p _ => putPath s g (jumpTo p (target p (disp.signExtend 32)))

/-- `CALL` (R243): the return address goes to `s31`. -/
def execCall (disp : BitVec 26) (s : State) : Host.Outcome State Fault Refusal :=
  onPath s fun g p _ =>
    putPath s g (jumpTo (setSreg p 31 (p.pc + 4)) (target p (disp.signExtend 32)))

/-- The common course of `JMPR` and `RET` (R244). -/
def jumpReg (gd : Guard) (t : Path → Word) (s : State) : Host.Outcome State Fault Refusal :=
  onPath s fun g p w =>
    let c := activeMask p gd
    match uniform p c with
    | some true =>
      if inImage s g.task (t p) then putPath s g (jumpTo p (t p))
      else addressTrap s g p (reportLane p c) w (t p)
    | some false => putPath s g (advance p)
    | none => controlTrap s g p c w

/-- `JMPR` (R244). -/
def execJmpr (a imm : BitVec 6) (gd : Guard) (s : State) : Host.Outcome State Fault Refusal :=
  jumpReg gd (fun p => sreg p a.toNat + imms p imm) s

/-- `RET` (R244). -/
def execRet (a : BitVec 6) (gd : Guard) (s : State) : Host.Outcome State Fault Refusal :=
  jumpReg gd (fun p => sreg p a.toNat) s

/-- `NOP` (R252). -/
def execNop (_gd : Guard) (s : State) : Host.Outcome State Fault Refusal :=
  onPath s fun g p _ => putPath s g (advance p)

/-! ### `SPLIT`, `JOIN` and `JMOV` (R245 to R247) -/

/-- Whether the `HINT` of a sequence marks the target of its transfer as likely (R55). -/
def likelyTarget (p : Path) : Bool := decide (bitsOf p.pre.hint.toNat 25 24 = 1)

/-- The two paths of a parting: `F` keeps the issue position, `T` takes a pool entry or is held. Where `HINT` BR marks
the target path as the likely one, `T` has the earlier turn and issues first when both can (R245). -/
def partPath (s : State) (g : Group) (p : Path) (t f : Mask) (tgt : Word) : State :=
  let (pid, s1) := freshId s
  let slot : Slot := if poolUsed s.groups g.core < 32 then .buffered else .held s.now
  let xt : Path := { jumpTo p tgt with
    pid := pid, exec := t, slot := slot, pace := none, turn := if likelyTarget p then 0 else p.turn }
  let g1 := setPath g { advance p with exec := f }
  putGroup s1 { g1 with paths := g1.paths ++ [xt] }

/-- `SPLIT` (R245): lanes for which the path predicate holds go to the target. -/
def execSplit (jk : BitVec 3) (gd : Guard) (disp : BitVec 19) (s : State) :
    Host.Outcome State Fault Refusal :=
  onPath s fun g p _ =>
    let t := activeMask p gd
    let f := p.exec &&& ~~~t
    let q := setJmask p jk.toNat p.exec
    let tgt := target p (disp.signExtend 32)
    if f = 0 then putPath s g (jumpTo q tgt)
    else if t = 0 then putPath s g (advance q)
    else partPath s g q t f tgt

/-- `JOIN` (R246): park with the mask's value, and rejoin when every lane of it has come. -/
def execJoin (jk : BitVec 3) (gd : Guard) (s : State) : Host.Outcome State Fault Refusal :=
  onPath s fun g p w =>
    let c := activeMask p gd
    match uniform p c with
    | some true =>
      let m := jmask p jk.toNat
      if p.exec &&& ~~~m ≠ 0 then controlTrap s g p c w
      else settle s (setPath g (parked p (.join m)))
    | some false => putPath s g (advance p)
    | none => controlTrap s g p c w

/-- `JMOV` (R247). -/
def execJmov (d a : BitVec 6) (mode : JMode) (gd : Guard) (s : State) :
    Host.Outcome State Fault Refusal :=
  onPath s fun g p _ =>
    if activeMask p gd = 0 then putPath s g (advance p)
    else
      let q := match mode with
        | .jj => setJmask p d.toNat (jmask p a.toNat)
        | .jp => setJmask p d.toNat (if a = 7 then fullMask g.width else predOf p (a.setWidth 3))
        | .sj =>
          let m := jmask p a.toNat &&& fullMask g.width
          setSreg (setSreg p d.toNat (m.setWidth 32)) (d.toNat + 1) ((m >>> 32).setWidth 32)
        | .js =>
          let m : Mask := sreg p (a.toNat + 1) ++ sreg p a.toNat
          setJmask p d.toNat (m &&& fullMask g.width)
      putPath s g (advance q)

/-! ### Steps along paths (R157, R248) -/

/-- Whether every lane of a mask may advance by one (R157). -/
def mayAdvance (s : State) (g : Group) (m : Mask) : Bool :=
  (lanesOf m).all fun l =>
    let n := (laneOf g l).step.toNat + 1
    (match frontier s (.party g.task g.party) with
      | some f => decide (n ≤ f + 8)
      | none => true) &&
    (match frontier s (.task g.task) with
      | some f => decide (n ≤ f + 64)
      | none => true)

/-- The lanes of a mask advance by one step. -/
def advanceSteps (g : Group) (m : Mask) : Group := modLanes g m fun _ t => { t with step := t.step + 1 }

/-- One advance of `r` still to make (R248): made when the windows allow it, and a lag stall for the
rest. -/
def paceOn (s : State) (g : Group) (p : Path) (m : Mask) (r : Nat) : State :=
  if r = 0 then putPath s g { advance p with pace := none }
  else if mayAdvance s g m then
    if r = 1 then putPath s (advanceSteps g m) { advance p with pace := none }
    else putPath s (advanceSteps g m) { parked p (.lag m (r - 1)) with pace := some (r - 1) }
  else putPath s g { parked p (.lag m r) with pace := some r }

/-- The common course of `PACE` and `PACEN` (R248). -/
def paceOp (gd : Guard) (k : Path → Nat) (s : State) : Host.Outcome State Fault Refusal :=
  onPath s fun g p w =>
    let m := activeMask p gd
    let r := p.pace.getD (k p)
    if never gd then putPath s g { advance p with pace := none }
    else if g.handler.isSome then handlerTrap s g p m w
    else if m = 0 ∨ r = 0 then putPath s g { advance p with pace := none }
    else if (lanesOf m).any fun l => decide (2 ^ 64 - 1 < (laneOf g l).step.toNat + r) then
      controlTrap s g p m w
    else paceOn s g p m r

/-- `PACE` (R248). -/
def execPace (gd : Guard) (s : State) : Host.Outcome State Fault Refusal := paceOp gd (fun _ => 1) s

/-- `PACEN` (R248). -/
def execPacen (imm : BitVec 6) (gd : Guard) (s : State) : Host.Outcome State Fault Refusal :=
  paceOp gd (fun p => (immu p imm).toNat) s

/-- The group and path of a pair of numbers, when their task runs (R277). -/
def runningPath (s : State) (gid pid : Nat) : Option (Group × Path) :=
  (findGroup s gid).bind fun g =>
    if landsAllowed s g.task then (findPath g pid).map fun p => (g, p) else none

/-- `LAG_STALL`: a stalled advance is made once the windows allow it (R157), from the issue position (R241). -/
def execLagStall (gid pid : Nat) (s : State) : Host.Outcome State Fault Refusal :=
  .next (match runningPath s gid pid with
    | some (g, p) =>
      match p.park with
      | some (.lag m r) => if (heldSince p).isNone && mayAdvance s g m then paceOn s g p m r else s
      | _ => s
    | none => s)

/-- `LOAD_COMPLETE`: a waiting load is served once its frontier and presence conditions hold (R28). -/
def execLoadComplete (gid pid : Nat) (s : State) : Host.Outcome State Fault Refusal :=
  .next (match runningPath s gid pid with
    | some (g, p) =>
      match p.park with
      | some (.load r) => if allReady s g r then serveLoad s g p r else s
      | _ => s
    | none => s)

/-! ### `REFORM` and `EXIT` (R250, R252) -/

/-- The lanes of a mask in the order `REFORM` files them: by next program counter, then by `TID`. -/
def filingOrder (g : Group) (m : Mask) (t : Nat → Word) : List Nat :=
  sortBy (fun a b => decide ((t a).toNat < (t b).toNat) ||
    (decide (t a = t b) && decide ((laneOf g a).tid.toNat ≤ (laneOf g b).tid.toNat))) (lanesOf m)

/-- File lanes one after another: the state with their bins, and the mask of the lanes filed. -/
def fileLanes (s : State) (g : Group) (w : Nat) (t : Nat → Word) (ls : List Nat) : State × Mask :=
  ls.foldl (fun r l =>
    match fileThread r.1 g.core w (.reform g.task g.party (t l)) (laneOf g l) with
    | some s1 => (s1, r.2 ||| BitVec.twoPow 64 l)
    | none => r) (s, 0)

/-- The common course of `REFORM` (R250): the lanes that find no bin wait at the instruction. -/
def reformOp (gd : Guard) (t : Group → Path → Nat → Word) (s : State) :
    Host.Outcome State Fault Refusal :=
  onPath s fun g p w =>
    let m := activeMask p gd
    if never gd then putPath s g (advance p)
    else if g.handler.isSome then handlerTrap s g p m w
    else if 1 < g.paths.length then controlTrap s g p m w
    else if m = 0 then putPath s g (advance p)
    else
      match (lanesOf m).find? fun l => !inImage s g.task (t g p l) with
      | some l => addressTrap s g p l w (t g p l)
      | none =>
        let width := (findTask s g.task).elim g.width (·.decl.width)
        let r := fileLanes s g width (t g p) (filingOrder g m (t g p))
        let q := if r.2 = m then advance p else parked p .issue
        settle r.1 (dropLanes g q r.2 .filed)

/-- `REFORM` by lane register. -/
def execReform (a : BitVec 6) (gd : Guard) (s : State) : Host.Outcome State Fault Refusal :=
  reformOp gd (fun g _ l => laneReg g l a.toNat) s

/-- `REFORM.NEXT`. -/
def execReformNext (gd : Guard) (s : State) : Host.Outcome State Fault Refusal :=
  reformOp gd (fun _ p _ => p.pc + 4) s

/-- `EXIT` (R252). -/
def execExit (gd : Guard) (s : State) : Host.Outcome State Fault Refusal :=
  onPath s fun g p w =>
    let m := activeMask p gd
    if never gd then putPath s g (advance p)
    else if g.handler.isSome then handlerTrap s g p m w
    else if m = 0 then putPath s g (advance p)
    else exitLanes (noteExits s g m (seqStart p)) g (advance p) m

end Sys2Proof.Machine
end

