-- ==== Sys2Proof/Machine/Flags.lean ====
section
/-!
DEFINITION. Every flag computation (R186, R187, R203): the common end of a float instruction, which
scales, rounds once, clamps and gathers the flags of the operation and of the rounding; the flags of
comparisons; and the writable special registers that hold status.
-/

namespace Sys2Proof.Machine

open Sys2Proof

/-- The end of a float operation (R53, R205): the exact result scaled by SCL, rounded once under RM or
the default mode, clamped; the flags are those of the operation and of the rounding after scaling. -/
def finishFloat (f : Fmt) (m : ModWord) (dflt : RMode) (y : FVal × Word) : Nat × Word :=
  let r := roundTo f (modeOf m dflt) (y.1.scale (sclOf m))
  (if m.clmp then clampUnit f r.1 else r.1, y.2 ||| r.2)

/-- Whether the mode in force rounds toward −∞, which decides the sign of an exact zero (R173). -/
def isRdn (m : ModWord) : Bool := decide (m.rm = 4)

/-- A float comparison (R213): the outcome and its flags; −0.0 and +0.0 are equal, and the ordered
conditions raise NV when an operand is a NaN. -/
def fcond (c : FCond) (x y : FVal) : Bool × Word :=
  let un := x.isNan || y.isNan
  let o := fCompare x y
  match c with
  | .eq => (!un && o == .eq, fNone)
  | .ne => (un || o != .eq, fNone)
  | .lt => (!un && o == .lt, if un then fNV else fNone)
  | .le => (!un && o != .gt, if un then fNV else fNone)
  | .gt => (!un && o == .gt, if un then fNV else fNone)
  | .ge => (!un && o != .lt, if un then fNV else fNone)
  | .un => (un, fNone)
  | .ord => (!un, fNone)

/-- An integer comparison (R196). -/
def icond (c : ICond) (a b : Word) : Bool :=
  match c with
  | .eq => decide (a = b)
  | .ne => decide (a ≠ b)
  | .lt => a.slt b
  | .le => a.sle b
  | .gt => b.slt a
  | .ge => b.sle a
  | .ltu => a.ult b
  | .leu => a.ule b
  | .gtu => b.ult a
  | .geu => b.ule a

/-- Whether a condition of `CMP` compares unsigned and so takes `IMMU` (R196). -/
def icondUnsigned (c : ICond) : Bool :=
  match c with
  | .ltu | .leu | .gtu | .geu => true
  | _ => false

/-- The bits of `FLAGS` that exist (R186). -/
def flagsMask : Word := 0x1F

/-- The bits of `QSTAT` that exist (R78). -/
def qstatMask : Word := 0x00FFFFC7

end Sys2Proof.Machine
end

