-- ==== Sys2Proof/Machine/Special.lean ====
section
/-!
DEFINITION. Traps by instruction, special registers and the return from a trap: `TRAP` and `BKPT`
(R290), `SRD` and `SWR` (R275, R288), `RTE` (R289), `ICINV` (R291, R306).
-/

namespace Sys2Proof.Machine

open Sys2Proof

/-! ### Special registers (R275) -/

/-- The value of a special register for a lane. -/
def specialRead (s : State) (g : Group) (l : Nat) (num : Nat) : Word :=
  let t := laneOf g l
  let k := (findTask s g.task).getD default
  match num with
  | 0x00 => t.step.setWidth 32
  | 0x01 => (t.step >>> 32).setWidth 32
  | 0x02 => t.tid
  | 0x03 => BitVec.ofNat 32 g.party
  | 0x04 => BitVec.ofNat 32 k.handle
  | 0x05 => BitVec.ofNat 32 l
  | 0x06 => BitVec.ofNat 32 g.width
  | 0x07 => BitVec.ofNat 32 (g.core % 64)
  | 0x08 => BitVec.ofNat 32 (tractOf g.core)
  | 0x09 => t.flags
  | 0x0A => t.qstat
  | 0x10 => t.bc[0]
  | 0x11 => t.bc[1]
  | 0x12 => t.bc[2]
  | 0x13 => t.bc[3]
  | 0x20 => k.frec.kind
  | 0x21 => k.frec.step.setWidth 32
  | 0x22 => (k.frec.step >>> 32).setWidth 32
  | 0x23 => k.frec.addr
  | 0x24 => k.frec.rule
  | 0x25 => k.frec.count
  | 0x26 => k.frec.tid0
  | 0x27 => k.frec.tid1
  | 0x28 => k.frec.pc
  | 0x30 => t.tvec
  | 0x31 => t.tret
  | 0x32 => t.tkind
  | 0x33 => t.tpc
  | 0x34 => t.tword
  | 0x35 => t.taddr
  | 0x36 => t.tinfo
  | 0x37 => t.tlane
  | 0x38 => if t.tin then 1 else 0
  | _ => 0

/-- `SRD` (R288). -/
def execSrd (d num : BitVec 6) (gd : Guard) (s : State) : Host.Outcome State Fault Refusal :=
  onPath s fun g p _ =>
    putPath s (modLanes g (activeMask p gd) fun l t => setVreg t d.toNat (specialRead s g l num.toNat))
      (advance p)

/-- A thread after a write of a special register; reserved bits are ignored (R288). -/
def specialWrite (num : Nat) (x : Word) (t : Thread) : Thread :=
  match num with
  | 0x09 => { t with flags := x &&& flagsMask }
  | 0x0A => { t with qstat := x &&& qstatMask }
  | 0x30 => { t with tvec := x }
  | 0x31 => { t with tret := x }
  | _ => t

/-- Whether a value may not be written to `TVEC` or `TRET` (R288). -/
def specialBad (s : State) (task num : Nat) (x : Word) : Bool :=
  ((decide (num = 0x30) && decide (x ≠ 0)) || decide (num = 0x31)) && !inImage s task x

/-- `SWR` (R288): the address check comes before any lane writes. -/
def execSwr (d num : BitVec 6) (gd : Guard) (s : State) : Host.Outcome State Fault Refusal :=
  onPath s fun g p w =>
    let m := activeMask p gd
    if m = 0 then putPath s g (advance p)
    else if g.handler.isSome then handlerTrap s g p m w
    else
      match (lanesOf m).find? fun l => specialBad s g.task num.toNat (laneReg g l d.toNat) with
      | some l => addressTrap s g p l w (laneReg g l d.toNat)
      | none =>
        putPath s (modLanes g m fun _ t => specialWrite num.toNat (vreg t d.toNat) t) (advance p)

/-! ### `RTE` (R289) -/

/-- Whether the lanes of a path may return together: every one is in the trap handler and `TRET` is the
same in all. -/
def mayReturn (g : Group) (p : Path) (t : Word) : Bool :=
  (lanesOf p.exec).all fun l => (laneOf g l).tin && decide ((laneOf g l).tret = t)

/-- `RTE` (R289). -/
def execRte (gd : Guard) (s : State) : Host.Outcome State Fault Refusal :=
  onPath s fun g p w =>
    let m := activeMask p gd
    if m = 0 then putPath s g (advance p)
    else if g.handler.isSome then handlerTrap s g p m w
    else
      let t := (laneOf g ((lowest p.exec).getD 0)).tret
      if uniform p m = none ∨ !mayReturn g p t then controlTrap s g p m w
      else putPath s (leaveTrap g p) (jumpTo p t)

/-! ### `TRAP` and `BKPT` (R290) -/

/-- The trap of `TRAP` or `BKPT`: `TRET` is the word after the sequence. -/
def codeTrap (s : State) (g : Group) (p : Path) (m : Mask) (w : Word) (kind : Nat) (code : Word) : State :=
  takeTrap s g p { plainTrap kind (reportLane p m) w with info := code, after := true }

/-- `TRAP`. -/
def execTrap (imm : BitVec 6) (gd : Guard) (s : State) : Host.Outcome State Fault Refusal :=
  onPath s fun g p w =>
    let m := activeMask p gd
    if m = 0 then putPath s g (advance p) else codeTrap s g p m w 0x09 (immu p imm)

/-- Whether the partition of a task is under debug. -/
def debugOn (s : State) (task : Nat) : Bool :=
  match findPart s (partOf s task) with
  | some q => q.debug
  | none => false

/-- `BKPT`: with debug enabled, the task is held and pre-empted, and execution goes on after the `BKPT`
when it is released. -/
def execBkpt (imm : BitVec 6) (gd : Guard) (s : State) : Host.Outcome State Fault Refusal :=
  onPath s fun g p w =>
    let m := activeMask p gd
    if m = 0 then putPath s g (advance p)
    else if debugOn s g.task ∧ g.handler.isNone then
      modTask (putPath s g (advance p)) g.task fun t => { t with held := true, saving := true }
    else codeTrap s g p m w 0x0A (imm.zeroExtend 32)

/-! ### `ICINV` (R291, R306) -/

/-- The tracts that hold a party of a task. -/
def tractsOf (t : Task) : List Nat := (t.places.map fun x => tractOf x.core).dedup

/-- A path in the middle of a sequence holds the words that the sequence may still need (R306). -/
def holdWords (s : State) (g : Group) (p : Path) : Path :=
  if p.pre.rank ≠ 0 ∧ p.pre.words = [] then
    { p with pre := { p.pre with words := (List.range 3).map fun k => fetchWord s g.core g.task (p.pc + BitVec.ofNat 32 (4 * k)) } }
  else p

/-- Whether a group fetches from a code instance. -/
def fetchesFrom (s : State) (inst : Nat) (g : Group) : Bool := decide ((findTask s g.task).bind (·.inst) = some inst)

/-- Drop the words of a code instance from the core and tract caches of every tract, so that none is left old for a group
of another task, or for a task that comes back to a tract (R306; log entry 117); a path already in the middle of a sequence
keeps the words it has. -/
def invalidateCode (s : State) (inst : Nat) : State :=
  { s with
    groups := updWhere s.groups (fetchesFrom s inst) fun g => { g with paths := g.paths.map (holdWords s g) }
    codeCache := s.codeCache.filter fun c => decide (c.1.2.1 ≠ inst)
    tractCode := s.tractCode.filter fun c => decide (c.1.2.1 ≠ inst) }

/-- `ICINV`. -/
def execIcinv (gd : Guard) (s : State) : Host.Outcome State Fault Refusal :=
  onPath s fun g p w =>
    let m := activeMask p gd
    if m = 0 then putPath s g (advance p)
    else if g.handler.isSome then handlerTrap s g p m w
    else
      let t := (findTask s g.task).getD default
      invalidateCode (putPath s g (advance p)) (t.inst.getD 0)

end Sys2Proof.Machine
end

