-- ==== Sys2Proof/Machine/Tasks.lean ====
section
/-!
DEFINITION. Task records as a whole: footprints and edges (R257 to R259), the creation of a record and
the checks of a launch (R254, R269, R270), placement (R126, R128, R260, R261, R263, R91), and how a
record ends: completion, cancellation and the stop of children (R258, R265).
-/

namespace Sys2Proof.Machine

open Sys2Proof

/-! ### Footprints and derived edges (R259) -/

/-- The bytes of a region's far range. -/
def Region.farBytes (r : Region) : Nat :=
  match r.kind with
  | .immutable | .shared => r.size * tyBits r.dfmt / tyBits r.sfmt
  | .dram | .table => r.size

/-- Whether a region's footprint reads its range. -/
def Region.reads (r : Region) : Bool :=
  match r.kind with
  | .immutable | .table => true
  | .shared => r.stageIn
  | .dram => r.ar

/-- Whether a region's footprint writes its range. -/
def Region.writes (r : Region) : Bool :=
  match r.kind with
  | .immutable | .table => false
  | .shared => r.stageOut
  | .dram => r.aw

/-- Two byte ranges share a byte. -/
def rangesMeet (a n b m : Nat) : Bool := decide (a < b + m) && decide (b < a + n)

/-- Whether two regions' footprints demand an edge. -/
def footprintsClash (x y : Region) : Bool :=
  ((x.writes && (y.reads || y.writes)) || (x.reads && y.writes)) &&
    rangesMeet x.far x.farBytes y.far y.farBytes

/-- Whether an edge is derived between two task declarations. -/
def declsClash (x y : TaskDecl) : Bool := x.regions.any fun a => y.regions.any fun b => footprintsClash a b

/-- The ancestors of a task, as deep as tasks go (R24). -/
def ancestors (s : State) : Nat → Option Nat → List Nat
  | 0, _ => []
  | _, none => []
  | n + 1, some u => u :: ancestors s n ((findTask s u).bind (·.parent))

/-- A record that has not ended. -/
def isLive (t : Task) : Bool := decide (t.state ≠ .ended)

/-- The task of a partition with a handle. -/
def taskByHandle (s : State) (part handle : Nat) : Option Task :=
  s.tasks.find? fun t => decide (t.part = part) && decide (t.handle = handle)

/-! ### Launch descriptors (R269) -/

/-- The fields of a launch descriptor. -/
structure Launch where
  cls : Nat
  hold : Bool
  aov : Bool
  nocc : Bool
  csp : Nat
  tnum : Nat
  nparty : Nat
  nitem : Nat
  ccell : Nat
  args : List Nat
  reserved : Bool

/-- The descriptor in its eight words. -/
def launchOf (ws : List Nat) : Launch :=
  let w0 := blockWord ws 0
  let w1 := blockWord ws 1
  { cls := bitsOf w0 31 30, hold := decide (bitsOf w0 29 29 = 1), aov := decide (bitsOf w0 28 28 = 1),
    nocc := decide (bitsOf w0 27 27 = 1), csp := bitsOf w0 26 26, tnum := bitsOf w0 11 0,
    nparty := bitsOf w1 16 0, nitem := blockWord ws 2, ccell := blockWord ws 3,
    args := (ws.drop 4).take 4,
    reserved := decide (bitsOf w0 25 12 = 0) && decide (bitsOf w1 31 17 = 0) }

/-- The task a descriptor names in an object; none also where the loader has rejected the task (R71, R85). -/
def declOf (o : Option Object) (q : Launch) : Option TaskDecl := o.bind fun o => (o.tasks[q.tnum]?).join

/-- Whether record 0 of a task can take the overlay of ARG0 to ARG3. -/
def overlayOk (d : TaskDecl) : Bool :=
  match d.regions.head? with
  | some r => (decide (r.kind = .immutable) || decide (r.kind = .shared)) && decide (16 ≤ r.size)
  | none => false

/-- The field rules of R269. -/
def Launch.ok (q : Launch) (d : Option TaskDecl) : Bool :=
  match d with
  | none => false
  | some d =>
    q.reserved && decide (1 ≤ q.nparty) && decide (q.nparty ≤ 65536) && decide (q.ccell % 4 = 0) &&
      (!q.nocc || decide (q.ccell = 0)) &&
      (if q.aov then overlayOk d else q.args.all fun a => decide (a = 0))

/-! ### Placement (R126, R128, R260, R261, R263) -/

/-- How the first granule of a run is chosen (R261): the first that fits, one that the event names, or a
free value. -/
inductive Chooser where
  | first
  | given (runs : List Nat)
  | free (seed : Nat)

/-- A placement under way: owner tags, places, bases and reserves so far, and the runs chosen. -/
structure Plan where
  owners : List (Nat × Owner)
  places : List PartyPlace
  bases : List (Option Nat)
  reserves : List Reserve
  made : List Nat

/-- The granules of a slice in use. -/
def usedGran (owners : List (Nat × Owner)) (core : Nat) : Nat :=
  (owners.filter fun x => decide (x.1 / 2048 = core)).length

/-- The maximal free runs of a slice: first granule and length. -/
def gaps (owners : List (Nat × Owner)) (core : Nat) : List (Nat × Nat) :=
  let busy := sortBy (fun a b => decide (a ≤ b))
    ((owners.filter fun x => decide (x.1 / 2048 = core)).map fun x => x.1 % 2048)
  let r := busy.foldl (fun (acc : List (Nat × Nat) × Nat) b =>
    (if acc.2 < b then acc.1 ++ [(acc.2, b - acc.2)] else acc.1, b + 1)) ([], 0)
  if r.2 < 1536 then r.1 ++ [(r.2, 1536 - r.2)] else r.1

/-- The first granules at which a run of `n` fits and leaves room for another of `m`. -/
def starts (gs : List (Nat × Nat)) (n m : Nat) : List Nat :=
  gs.flatMap fun g =>
    if g.2 < n then []
    else (((List.range (g.2 - n + 1)).filter fun i =>
      decide (m = 0) || decide (m ≤ i) || decide (n + i + m ≤ g.2) ||
        gs.any fun h => decide (h ≠ g) && decide (m ≤ h.2)).map fun i => g.1 + i)

/-- Choose one of the possible first granules. -/
def Chooser.pick (c : Chooser) (made : Nat) (l : List Nat) : Option Nat :=
  match c with
  | .first => l.head?
  | .given r => (r[made]?).bind fun x => if x ∈ l then some x else none
  | .free k => l[Config.runPick (k * 2 ^ 20 + made) % max l.length 1]?

/-- Take a run of `n` granules of a slice, leaving room for `m` more, at one of the first granules that
`ok` admits. -/
def takeRun (c : Chooser) (p : Plan) (core n m : Nat) (ok : Nat → Bool) (o : Owner) : Option (Nat × Plan) :=
  (c.pick p.made.length ((starts (gaps p.owners core) n m).filter ok)).map fun a =>
    (a, { p with owners := tagGranules p.owners (core * 2 ^ 23 + a * 4096) n o, made := p.made ++ [a] })

/-- The granules of a task's spill reserve on one slice (R132). -/
def spillGranules (d : TaskDecl) : Nat := (if d.spillKiB = 0 then 64 else d.spillKiB) / 4

/-- Whether a slice already holds the task's spill reserve. -/
def hasSpill (p : Plan) (core : Nat) : Bool := p.reserves.any fun r => decide (r.slice = core)

/-- The spill granules a slice still needs. -/
def spillNeed (d : TaskDecl) (p : Plan) (core : Nat) : Nat := if hasSpill p core then 0 else spillGranules d

/-- Take the spill reserve of a slice, unless the task has it there. -/
def takeSpill (c : Chooser) (t : Task) (core : Nat) (p : Plan) : Option Plan :=
  if hasSpill p core then some p
  else (takeRun c p core (spillGranules t.decl) 0 (fun _ => true) (.spill t.uid)).map fun r =>
    { r.2 with reserves := r.2.reserves ++
        [{ slice := core, base := r.1 * 4096, granules := spillGranules t.decl }] }

/-- The number of tract-to-tract links between two tracts (R126). -/
def links (a b : Nat) : Nat :=
  ((a % 4) - (b % 4)) + ((b % 4) - (a % 4)) + ((a / 4) - (b / 4)) + ((b / 4) - (a / 4))

/-- The cores of a partition. -/
def coresOf (q : Partition) : List Nat := (List.range 512).filter fun c => q.cores.getLsbD c

/-- A task that holds thread slots. -/
def isPlaced (t : Task) : Bool := decide (t.state = .admitted) || decide (t.state = .running)

/-- The threads of a task that have exited and still hold their slots on a core, because a store of theirs has been
offered there and not accepted (R252). -/
def lingering (s : State) (t : Task) (core : Nat) : Nat :=
  (((s.sram.offers.filter fun o => decide (o.task = t.uid) && decide (o.core = core) && o.req.isNone).map
    (·.writer)).dedup.filter fun w => t.exited.any fun r => decide (r.tid.toNat = w)).length

/-- The thread slots of a core (R1). -/
def coreThreads : Nat := 2048

/-- The handler slots that a core has at most (R1). -/
def coreHandlers : Nat := 1024

/-- The thread slots a task uses on a core: threads that live or have yet to start, or whose stores have not been
accepted, and its handler reserve (R108, R252). -/
def taskSlots (s : State) (core : Nat) (t : Task) : Nat :=
  if isPlaced t then
    let here := t.places.filter fun x => decide (x.core = core)
    let live := if t.state = .admitted then here.length * t.decl.partySize
      else (here.map fun x => taskThreads s t.uid fun i => decide (i = x.index)).sum + lingering s t core
    if here.isEmpty then 0 else live + t.decl.hres
  else 0

/-- The handler reserve a task holds on a core (R108). -/
def taskHandlers (core : Nat) (t : Task) : Nat :=
  if isPlaced t ∧ t.places.any fun x => decide (x.core = core) then t.decl.hres else 0

/-- What the tasks of a partition use in all, by a measure of one task. -/
def ofPart (s : State) (part : Nat) (use : Task → Nat) : Nat := ((s.tasks.filter fun t => decide (t.part = part)).map use).sum

/-- The thread slots a partition uses on a core (R263). -/
def threadsUsed (s : State) (part core : Nat) : Nat := ofPart s part (taskSlots s core)

/-- The handler reserves a partition holds on a core (R263). -/
def handlersUsed (s : State) (part core : Nat) : Nat := ofPart s part (taskHandlers core)

/-- The thread slots that are free on a core for a partition: those of its share, and no more than the core itself has free.
Tasks of a partition that owned the core before (R298, command 0x02) still use slots of it (R1, R263). -/
def slotsLeft (s : State) (q : Partition) (core : Nat) : Nat :=
  min (q.thr - threadsUsed s q.id core) (coreThreads - (s.tasks.map (taskSlots s core)).sum)

/-- What a placement is made for: the state, the partition, the task, the admitting tract, and for a
restore the former place of each party and the cores that its matrix claim and its bins allow beside what has been
placed so far. -/
structure PlaceFor where
  s : State
  q : Partition
  t : Task
  adm : Nat
  /-- The parties to place: all of a new task, and those that a pre-empted one still had (R281). -/
  parties : List Nat
  former : Nat → Option PartyPlace
  coreOk : Plan → Nat → Nat → Bool

/-- The share kept for class 0 (R263). -/
def kept0 (t : Task) (n : Nat) : Nat := if t.cls = 0 then 0 else n

/-- Thread slots free on a core beside what has been placed so far. -/
def PlaceFor.freeThreads (f : PlaceFor) (p : Plan) (core : Nat) : Nat :=
  let mine := (p.places.filter fun x => decide (x.core = core)).length
  slotsLeft f.s f.q core - (mine * f.t.decl.partySize + (if mine = 0 then 0 else f.t.decl.hres))

/-- Whether the handler reserve of the task fits on a core: in the partition's bound (R263) and in the core's own (R1). -/
def PlaceFor.handlersFit (f : PlaceFor) (core : Nat) : Bool :=
  decide (handlersUsed f.s f.q.id core + f.t.decl.hres ≤ f.q.hnd) &&
    decide ((f.s.tasks.map (taskHandlers core)).sum + f.t.decl.hres ≤ coreHandlers)

/-- Whether a core takes new placements (R137). -/
def PlaceFor.coreSound (f : PlaceFor) (core : Nat) : Bool := (sliceReg f.s core).fb2.isNone

/-- Whether granules of the partition's share are free on a core. -/
def PlaceFor.granFits (f : PlaceFor) (p : Plan) (core n : Nat) : Bool :=
  decide (usedGran p.owners core + n + kept0 f.t f.q.rgran ≤ f.q.gran)

/-- The first granules a party's scratch may take on a core: on its former core only its former ones
(R128). -/
def PlaceFor.runOk (f : PlaceFor) (i core a : Nat) : Bool :=
  match f.former i with
  | some x => decide (x.core ≠ core) || decide (x.base = a * 4096)
  | none => true

/-- Whether a core can hold party `i` (R260, R261, R263). -/
def PlaceFor.partyFits (f : PlaceFor) (p : Plan) (i core : Nat) : Bool :=
  let first := !(p.places.any fun x => decide (x.core = core))
  let h := if first then f.t.decl.hres else 0
  let n := granules f.t.decl.scratch
  let m := spillNeed f.t.decl p core
  f.coreSound core && f.coreOk p i core &&
    decide (f.t.decl.partySize + h + kept0 f.t f.q.rthr ≤ f.freeThreads p core) &&
    (!first || f.handlersFit core) &&
    f.granFits p core (n + m) &&
    !((starts (gaps p.owners core) n m).filter (f.runOk i core)).isEmpty

/-- Cores in the order of two keys: the greater first value, then the fewer links, then the core. -/
def rankCores (adm : Nat) (cores : List (Nat × Nat)) : List Nat :=
  (sortBy (fun a b => decide (b.2 < a.2) ||
    (decide (a.2 = b.2) && decide (links (tractOf a.1) adm ≤ links (tractOf b.1) adm))) cores).map (·.1)

/-- Put party `i` on a core that can hold it. -/
def PlaceFor.partyOn (f : PlaceFor) (c : Chooser) (p : Plan) (i core : Nat) : Option Plan :=
  (takeRun c p core (granules f.t.decl.scratch) (spillNeed f.t.decl p core) (f.runOk i core)
      (.party f.t.uid i)).bind fun r =>
    takeSpill c f.t core { r.2 with places := r.2.places ++ [{ index := i, core := core, base := r.1 * 4096 }] }

/-- Place party `i` on the first core of the ranking that can hold it. -/
def PlaceFor.placeParty (f : PlaceFor) (c : Chooser) (p : Plan) (i : Nat) : Option Plan :=
  ((rankCores f.adm ((coresOf f.q).map fun c => (c, f.freeThreads p c))).find? (f.partyFits p i)).bind
    (f.partyOn c p i)

/-- Whether a slice can hold a region of `n` granules with the spill reserve it then needs. -/
def PlaceFor.regionFits (f : PlaceFor) (p : Plan) (n core : Nat) : Bool :=
  let m := spillNeed f.t.decl p core
  f.coreSound core && f.granFits p core (n + m) && !(starts (gaps p.owners core) n m).isEmpty

/-- The cores a region may go to, in the order of R261: that of its party, or any by its free granules. A PARTY that is
no party of the launch gives none, so the task never fits (log entry 97). -/
def PlaceFor.regionCores (f : PlaceFor) (p : Plan) (r : Region) : List Nat :=
  match r.party with
  | some i => ((p.places.find? fun x => decide (x.index = i)).map (·.core)).toList
  | none => rankCores f.adm ((coresOf f.q).map fun c => (c, f.q.gran - usedGran p.owners c))

/-- Put region record `k` on a slice that can hold it. -/
def PlaceFor.regionOn (f : PlaceFor) (c : Chooser) (p : Plan) (k : Nat) (r : Region) (core : Nat) : Option Plan :=
  (takeRun c p core (granules r.size) (spillNeed f.t.decl p core) (fun _ => true) (.region f.t.uid k)).bind fun x =>
    takeSpill c f.t core { x.2 with bases := x.2.bases.set k (some (core * 2 ^ 23 + x.1 * 4096)) }

/-- Place region record `k`. A region that has an address already takes the spill reserve its slice may still need, on a
core that takes new placements (R137); kinds 2 and 3 have no address. -/
def PlaceFor.placeRegion (f : PlaceFor) (c : Chooser) (p : Plan) (k : Nat) (r : Region) : Option Plan :=
  match p.bases.getD k none with
  | some a =>
    if hasSpill p (sliceOf a) ||
        (f.coreSound (sliceOf a) && f.granFits p (sliceOf a) (spillGranules f.t.decl)) then takeSpill c f.t (sliceOf a) p
    else none
  | none =>
    if r.kind = .dram ∨ r.kind = .table then some p
    else ((f.regionCores p r).find? (f.regionFits p (granules r.size))).bind (f.regionOn c p k r)

/-- The whole placement: parties in ascending index, then regions in record order (R261). -/
def PlaceFor.place (f : PlaceFor) (c : Chooser) (owners : List (Nat × Owner)) (bases : List (Option Nat)) :
    Option Plan :=
  let p0 : Plan := { owners := owners, places := [], bases := bases, reserves := [], made := [] }
  let p1 := f.parties.foldl (fun p i => p.bind fun p => f.placeParty c p i) (some p0)
  (f.t.decl.regions.mapIdx fun k r => (k, r)).foldl (fun p x => p.bind fun p => f.placeRegion c p x.1 x.2) p1

/-- A first placement has no former places and no matrix claim. -/
def placeNew (s : State) (q : Partition) (t : Task) : PlaceFor :=
  { s := s, q := q, t := t, adm := t.tract, parties := List.range t.nparty, former := fun _ => none, coreOk := fun _ _ _ => true }

/-- No address yet for any region. -/
def noBases (d : TaskDecl) : List (Option Nat) := d.regions.map fun _ => none

/-- Every plan that puts the next parties on cores that can hold them, whatever the ranking. -/
def PlaceFor.partyWays (f : PlaceFor) (ps : List Plan) (i : Nat) : List Plan :=
  ps.flatMap fun p => ((coresOf f.q).filter (f.partyFits p i)).filterMap (f.partyOn .first p i)

/-- Every plan that puts the next region on a slice that can hold it. -/
def PlaceFor.regionWays (f : PlaceFor) (ps : List Plan) (x : Nat × Region) : List Plan :=
  if x.2.kind = .dram ∨ x.2.kind = .table then ps
  else ps.flatMap fun p => ((f.regionCores p x.2).filter (f.regionFits p (granules x.2.size))).filterMap
    (f.regionOn .first p x.1 x.2)

/-- Every placement of a task that has nothing placed yet. -/
def PlaceFor.ways (f : PlaceFor) : List Plan :=
  let p0 : Plan := { owners := [], places := [], bases := noBases f.t.decl, reserves := [], made := [] }
  (f.t.decl.regions.mapIdx fun k r => (k, r)).foldl f.regionWays (f.parties.foldl f.partyWays [p0])

/-- Whether a task fits its partition's quotas on some placement (R270, code 6): on a device that holds nothing else and
whose banks are sound. The placement of R261 is tried first. -/
def everFits (s : State) (q : Partition) (t : Task) : Bool :=
  let f := placeNew { s with tasks := [], groups := [], sram.owners := [], sram.slices := [] } q t
  (f.place .first [] (noBases t.decl)).isSome || !f.ways.isEmpty

/-! ### Creating a record (R254 to R259) -/

/-- A record as a launch creates it, before its handle and edges. -/
def newTask (uid : Nat) (part tract object : Nat) (d : TaskDecl) (q : Launch) (cls depth : Nat)
    (parent fn ccell : Option Nat) : Task :=
  { uid := uid, part := part, tract := tract, object := object, tnum := q.tnum, decl := d,
    nparty := q.nparty, cls := cls, handle := 0, depth := depth, parent := parent, fn := fn, counter := 0,
    hold := q.hold, preds := [], args := if q.aov then some (q.args.map (BitVec.ofNat 32)) else none,
    pool := { items := q.nitem, begun := 0, current := [] }, ccell := ccell, state := .waiting,
    releasedAt := 0, blocking := false, frec := Frec.zero, stop := none, places := [], bases := [],
    adopted := [], reserves := [], block := none, inst := none, replicas := [], xfers := [], saving := false, held := false,
    saved := none, exited := [] }

/-- Records of a partition that are held (R254, R263). -/
def recordsHeld (s : State) (part : Nat) : Nat :=
  (s.tasks.filter fun t => isLive t && decide (t.part = part)).length

/-- Whether the domain of a partition has a table block (R72). -/
def hasBlock (s : State) (dom : Nat) : Bool :=
  (List.range 8).any fun b => blockOwned s.dram.tableBlocks b dom

/-- Whether a task declares tables. -/
def declaresTables (d : TaskDecl) : Bool := d.regions.any fun r => decide (r.kind = .table)

/-- The refusal code of R270, or 0; `leader` says whether the elected lane is its party's leader. -/
def refusal (s : State) (q : Partition) (d : Option TaskDecl) (l : Launch) (okFields leader : Bool) (depth : Nat)
    (t : Task) : Nat :=
  if 10 < depth then 1
  else if (d.map declaresTables).getD false && !hasBlock s q.dom then 2
  else if q.recs ≤ recordsHeld s q.id then 3
  else if !okFields || !l.ok d then 4
  else if !leader then 5
  else if !everFits s q t then 6
  else if 2 ^ 32 - 1 ≤ q.lastHandle then 7
  else 0

/-- Create a record: it takes the partition's next handle, and its counter counts the derived edges and
the hold (R257 to R259). -/
def createRecord (s : State) (t : Task) : State :=
  let handle := ((findPart s t.part).elim 0 (·.lastHandle)) + 1
  let up := ancestors s 10 t.parent
  let preds := (s.tasks.filter fun e => isLive e && decide (e.part = t.part) && !up.contains e.uid &&
    declsClash e.decl t.decl).map (·.uid)
  let t1 := { t with handle := handle, preds := preds, counter := preds.length + (if t.hold then 1 else 0) }
  releaseReady { s with
    tasks := s.tasks ++ [t1]
    parts := updWhere s.parts (fun q => decide (q.id = t.part)) fun q => { q with lastHandle := handle } }

/-! ### Completion (R258) -/

/-- The cell of a completion update that lies in the saved scratch of a pre-empted parent. -/
def savedCell (t : Task) (a : Nat) : Option (Nat × Nat) :=
  t.saved.bind fun v => (v.places.find? fun p =>
    decide (p.core * 2 ^ 23 + p.base ≤ a) && decide (a < p.core * 2 ^ 23 + p.base + t.decl.scratch)).map fun p =>
      (p.index, a - (p.core * 2 ^ 23 + p.base))

/-- Update a counter cell in saved scratch. -/
def updateSaved (t : Task) (party o code : Nat) : Task :=
  { t with saved := t.saved.map fun v =>
      { v with scratch := v.scratch.map fun x =>
          if x.1 = party then
            (x.1, cellSetAll x.2 (addressed o (bytesOfNat 4 (counterWord (wordAt x.2 o) 1 code).toNat)))
          else x } }

/-- The completion update of a child at its parent's cell; a party that has ended may then free the granule (R265). -/
def cellCompletion (s : State) (parent a code : Nat) : State :=
  match findTask s parent with
  | none => s
  | some t =>
    match savedCell t a with
    | some x => putTask s (updateSaved t x.1 x.2 code)
    | none =>
      if isLive t then
        releaseParties
          (counterUpdate s { task := parent, step := 0, tid := BitVec.allOnes 32, pc := 0 } (some a) 1 code) parent
      else s

/-- The completion of a task: at its completion cell, or to the host queue it was launched through. The record of a host
launch is freed with the entry so queued, also while the completion ring is full (R254; log entry 121). -/
def completion (s : State) (t : Task) (code : Nat) : State :=
  match t.fn with
  | some f =>
    { s with host.fns := updWhere s.host.fns (fun x => decide (x.fn = f)) fun x =>
        { x with waiting := x.waiting ++ [(t.handle, code)] } }
  | none =>
    match t.ccell, t.parent with
    | some a, some p => cellCompletion s p a code
    | _, _ => s

/-- The tasks that wait for the end of a task. -/
def successors (s : State) (uid : Nat) : List Nat :=
  (s.tasks.filter fun t => decide (t.state = .waiting) && t.preds.contains uid).map (·.uid)

/-- Cancel waiting tasks, and with each its own successors (R258); one that has been told to stop is stopped instead
(R302). -/
def cancelAll : Nat → State → List Nat → State
  | 0, s, _ => s
  | _, s, [] => s
  | n + 1, s, u :: us =>
    match findTask s u with
    | some t =>
      if t.state = .waiting ∧ t.stop.isNone then
        cancelAll n (completion (putTask s { t with state := .ended, stop := some 0x15 }) t 0x22)
          (us ++ successors s u)
      else cancelAll n s us
    | none => cancelAll n s us

/-- The number of edges that wait, which bounds a cascade of cancellations. -/
def edgeCount (s : State) : Nat := (s.tasks.map fun t => t.preds.length + 1).sum

/-- Cancel a waiting task. -/
def cancelTask (s : State) (uid : Nat) : State := cancelAll (edgeCount s + 1) s [uid]

/-- The record of a stop that no thread caused (R278). -/
def outsideFrec (kind : Nat) : Frec :=
  { kind := BitVec.ofNat 32 kind, step := 0, addr := 0, rule := 0, count := 0, tid0 := BitVec.allOnes 32,
    tid1 := BitVec.allOnes 32, pc := 0 }

/-- Tell a task to stop with kind 0x14 or 0x15: a waiting one is cancelled by its parent's stop, and any
other one is stopped (R265, R277). -/
def stopOrCancel (s : State) (uid kind : Nat) : State :=
  match findTask s uid with
  | some t =>
    if t.state = .waiting ∧ kind = 0x15 then cancelTask s uid
    else if isLive t then stopWith s uid (outsideFrec kind)
    else s
  | none => s

/-- When a parent stops, its children that have not ended are stopped or cancelled (R265). -/
def stopChildren (s : State) (uid : Nat) : State :=
  ((s.tasks.filter fun t => decide (t.parent = some uid) && isLive t).map (·.uid)).foldl
    (fun s u => stopOrCancel s u 0x15) s

/-- Free everything a task still holds: granules, its table block, its claims and its places. -/
def freeTask (s : State) (uid : Nat) : State :=
  let mine := fun o : Owner => match o with
    | .party t _ => decide (t = uid)
    | .draining t _ => decide (t = uid)
    | .region t _ => decide (t = uid)
    | .spill t => decide (t = uid)
    | _ => false
  let s1 := modTask s uid fun t =>
    { t with places := [], bases := [], adopted := [], reserves := [], block := none, replicas := [], xfers := [], saved := none,
             saving := false, held := false }
  { setOwners s1 (freeGranules s1.sram.owners mine) with
    sram.known := s1.sram.known.filter fun k => decide (domTask k.dom ≠ uid)
    eng.matrix := s1.eng.matrix.filter fun e => decide (e.claim.1 ≠ uid) }

/-- A code instance is kept while a task runs it, or while a kept region stands at one of its addresses; the others go,
and with them their words in the code caches (R303). -/
def pruneInstances (s : State) : State :=
  let stays := fun i : Instance => (s.tasks.any fun t => isLive t && decide (t.inst = some i.id)) ||
    s.kept.any fun k => decide (k.part = i.part) && i.bases.contains k.base
  let ids := (s.instances.filter stays).map (·.id)
  { s with
    instances := s.instances.filter stays
    codeCache := s.codeCache.filter fun c => ids.contains c.1.2.1
    tractCode := s.tractCode.filter fun c => ids.contains c.1.2.1 }

/-- A retired task counts down its successors (R258). -/
def countDown (s : State) (uid : Nat) : State :=
  releaseReady { s with tasks := s.tasks.map fun t =>
    if t.state = .waiting ∧ uid ∈ t.preds then
      { t with counter := t.counter - t.preds.count uid, preds := t.preds.filter fun u => decide (u ≠ uid) }
    else t }

/-- A task retires with a completion code (R90, R258). -/
def retire (s : State) (t : Task) (code : Nat) : State :=
  countDown (completion (freeTask (modTask s t.uid fun x => { x with state := .ended }) t.uid) t code) t.uid

/-- A stopped task ends: its successors are cancelled (R258, R277). Its children have ended before (R265). -/
def endStopped (s : State) (t : Task) (kind code : Nat) : State :=
  let s1 := pruneInstances (freeTask (modTask s t.uid fun x => { x with state := .ended, stop := some kind }) t.uid)
  let s2 := completion s1 t code
  cancelAll (edgeCount s2 + 1) s2 (successors s2 t.uid)

/-! ### Kept regions (R91) -/

/-- The granules of a kept region. -/
def keptGranule (k : Kept) (g : Nat) : Bool :=
  decide (granuleOf k.base ≤ g) && decide (g < granuleOf k.base + granules k.size)

/-- The far bytes of a kept region. -/
def Kept.farBytes (k : Kept) : Nat := k.size * tyBits k.dfmt / tyBits k.sfmt

/-- Drop a kept region: its granules are free, and the code instances that stood with it go (R91, R303). -/
def dropKept (s : State) (k : Kept) : State :=
  pruneInstances (setOwners { s with kept := s.kept.filter fun x => decide (x ≠ k) }
    (s.sram.owners.filter fun x => !(keptGranule k x.1)))

/-- Drop every kept region of a partition that meets a test. -/
def dropKeptWhere (s : State) (part : Nat) (f : Kept → Bool) : State :=
  (s.kept.filter fun k => decide (k.part = part) && f k).foldl dropKept s

/-- Whether a region record adopts a kept region. -/
def adopts (part : Nat) (r : Region) (k : Kept) : Bool :=
  decide (k.part = part) && (r.keep || r.stageIn) && decide (k.far = r.far) && decide (k.size = r.size) &&
    decide (k.kind = r.kind) && decide (k.sfmt = r.sfmt) && decide (k.dfmt = r.dfmt)

/-- The regions of a task that adopt a kept one: for each record the kept region, each taken once. -/
def adoptions (part : Nat) (kept : List Kept) (rs : List Region) : List (Option Kept) :=
  (rs.foldl (fun (a : List (Option Kept) × List Kept) r =>
    match a.2.find? (adopts part r) with
    | some k => (a.1 ++ [some k], a.2.filter fun x => decide (x ≠ k))
    | none => (a.1 ++ [none], a.2)) ([], kept)).1

/-- The owner tags after a task has adopted its kept regions. -/
def adoptOwners (uid : Nat) (owners : List (Nat × Owner)) (ad : List (Option Kept)) : List (Nat × Owner) :=
  owners.map fun x =>
    match (ad.mapIdx fun k a => (k, a)).find? fun y => (y.2.map fun a => keptGranule a x.1).getD false with
    | some y => (x.1, .region uid y.1)
    | none => x

/-- Whether a task's hamper can write a far range. -/
def canWrite (d : TaskDecl) (a n : Nat) : Bool :=
  d.regions.any fun r => r.writes && rangesMeet r.far r.farBytes a n

end Sys2Proof.Machine
end

