-- ==== Sys2Proof/Machine/Launch.lean ====
section
/-!
DEFINITION. The three instructions with which running tasks take part in scheduling, major 0x39: `ENQ`
(R269 to R271), `DEQ` (R272) and `DEPD` (R273). Their scalar results come with a response (R271).
-/

namespace Sys2Proof.Machine

open Sys2Proof

/-- The head of the course of R271: nothing with no active lane, the handler-rule trap in a handler, and
otherwise the elected lane acts once. -/
def launchOp (gd : Guard) (f : State → Group → Path → Word → Nat → State) (s : State) :
    Host.Outcome State Fault Refusal :=
  onPath s fun g p w =>
    let m := activeMask p gd
    match lowest m with
    | none => putPath s g (advance p)
    | some l => if g.handler.isSome then handlerTrap s g p m w else f s g p w l

/-- The task a path runs for. -/
def taskOf (s : State) (g : Group) : Task := (findTask s g.task).getD default

/-- The path falls through and its scalars wait for the response with the values it brings (R271). -/
def awaitScalars (p : Path) (l : List (Nat × Word)) : Path := { advance p with owed := p.owed ++ l }

/-- The responses that a path waits for have arrived: its scalars are written (R271). -/
def deliver (p : Path) : Path := { p.owed.foldl (fun p x => setSreg p x.1 x.2) p with owed := [] }

/-- Answer with a pair of scalars. -/
def answerPair (s : State) (g : Group) (p : Path) (d : Nat) (x y : Word) : State :=
  putPath s g (awaitScalars p [(d, x), (d + 1, y)])

/-! ### `ENQ` (R269 to R271) -/

/-- The object of a task. -/
def objectOf (s : State) (handle : Nat) : Option Object := s.objects.find? fun o => o.handle = handle

/-- The child a descriptor asks for. -/
def childOf (s : State) (g : Group) (t : Task) (q : Launch) (d : TaskDecl) (uid : Nat) : Task :=
  newTask uid t.part (tractOf g.core) t.object d q (max q.cls t.cls) (t.depth + 1) (some t.uid) none
    (if q.nocc then none else some (rawAbsolute s g (spaceBit q.csp) q.ccell))

/-- A checked descriptor is refused with a code, or its record is created. -/
def enqueue (d : Nat) (s : State) (g : Group) (p : Path) (l : Nat) (q : Launch) : State :=
  let t := taskOf s g
  let part := (findPart s t.part).getD default
  let decl := declOf (objectOf s t.object) q
  let (uid, s1) := freshId s
  let child := childOf s g t q (decl.getD default) uid
  let code := refusal s part decl q true (decide ((laneOf g l).index = 0)) (t.depth + 1) child
  if code ≠ 0 then answerPair s g p d (BitVec.ofNat 32 code) (BitVec.allOnes 32)
  else
    let s2 := createRecord s1 child
    answerPair s2 g p d 0 (BitVec.ofNat 32 ((findTask s2 uid).elim 0 (·.handle)))

/-- `ENQ`: the descriptor is read as a load, CCELL is checked, and the first code of R270 decides. -/
def execEnq (d a : BitVec 6) (sp : Space) (gd : Guard) (s : State) : Host.Outcome State Fault Refusal :=
  launchOp gd (fun s g p w l =>
    withBlock s g p w l sp (laneReg g l a.toNat).toNat 32 32 fun s bs =>
      let q := launchOf (wordsOf bs)
      match firstFailing s g (if q.nocc then [] else [⟨spaceBit q.csp, q.ccell, 4⟩]) with
      | some x => memoryTrap s g p l w x.1 false x.2
      | none => enqueue d.toNat s g p l q) s

/-! ### `DEQ` (R272) -/

/-- The order in which a tract turns to the others (R262). -/
def tractOrder (t : Nat) : List Nat :=
  let near := [t ^^^ 1, t ^^^ 4, t ^^^ 5]
  near ++ (List.range 8).filter fun x => decide (x ≠ t) && !near.contains x

/-- A tract's current range: the next index and the end. -/
def rangeOf (p : Pool) (t : Nat) : Nat × Nat := assoc p.current t (0, 0)

/-- Set a tract's current range. -/
def setRange (p : Pool) (t : Nat) (r : Nat × Nat) : Pool := { p with current := setAssoc p.current t r }

/-- A tract whose current range is used up begins the lowest chunk not yet begun, or steals the upper half
of what another tract has left. -/
def replenish (p : Pool) (t : Nat) : Pool :=
  let r := rangeOf p t
  if r.1 < r.2 then p
  else if p.begun * 256 < p.items then
    { setRange p t (p.begun * 256, min p.items (p.begun * 256 + 256)) with begun := p.begun + 1 }
  else
    match (tractOrder t).find? fun x => decide ((rangeOf p x).1 < (rangeOf p x).2) with
    | none => p
    | some x =>
      let v := rangeOf p x
      let n := max 1 ((v.2 - v.1) / 2)
      setRange (setRange p x (v.1, v.2 - n)) t (v.2 - n, v.2)

/-- Take up to `k` indices for a tract: the first index and their number, none of them when the pool is
empty. -/
def takeItems (p : Pool) (t k : Nat) : Nat × Nat × Pool :=
  let p := replenish p t
  let r := rangeOf p t
  let n := min k (r.2 - r.1)
  (r.1, n, setRange p t (r.1 + n, r.2))

/-- `DEQ`. -/
def execDeq (d imm : BitVec 6) (gd : Guard) (s : State) : Host.Outcome State Fault Refusal :=
  launchOp gd (fun s g p _ _ =>
    let k := if imm = 0 then 64 else imm.toNat
    let r := takeItems (taskOf s g).pool (tractOf g.core) k
    if r.2.1 = 0 then answerPair s g p d.toNat (BitVec.allOnes 32) 0
    else
      answerPair (modTask s g.task fun t => { t with pool := r.2.2 }) g p d.toNat (BitVec.ofNat 32 r.1)
        (BitVec.ofNat 32 r.2.1)) s

/-! ### `DEPD` (R273) -/

/-- Whether a handle was never issued by a partition. -/
def neverIssued (q : Partition) (h : Nat) : Bool := decide (h = 0) || decide (q.lastHandle < h)

/-- A waiting task with its hold still set that a task launched. -/
def heldChild (t : Option Task) (parent : Nat) : Bool :=
  match t with
  | some t => decide (t.state = .waiting) && t.hold && decide (t.parent = some parent)
  | none => false

/-- Add an edge (R273): the new state and the status. -/
def addEdge (s : State) (issuer : Task) (a b : Nat) : State × Nat :=
  let q := (findPart s issuer.part).getD default
  if neverIssued q a || neverIssued q b then (s, 4)
  else
    let succ := taskByHandle s issuer.part b
    let fit := heldChild succ issuer.uid && decide (a < b)
    match (taskByHandle s issuer.part a).filter isLive with
    | none =>
      let cancelled := ((taskByHandle s issuer.part a).map fun t => t.stop.isSome).getD false
      match succ with
      | some t => (if cancelled && fit then cancelTask s t.uid else s, 1)
      | none => (s, 1)
    | some e =>
      match succ with
      | some t =>
        if !heldChild succ issuer.uid then (s, 2)
        else if b ≤ a then (s, 3)
        else (putTask s { t with counter := t.counter + 1, preds := t.preds ++ [e.uid] }, 0)
      | none => (s, 2)

/-- `DEPD.EDGE`. A cancellation makes a completion update, which a sibling path may watch (R150, R258): the group is taken as
that update leaves it. -/
def execDepdEdge (d a : BitVec 6) (gd : Guard) (s : State) : Host.Outcome State Fault Refusal :=
  launchOp gd (fun s g p _ _ =>
    let r := addEdge s (taskOf s g) (sreg p a.toNat).toNat (sreg p (a.toNat + 1)).toNat
    putPath r.1 ((findGroup r.1 g.gid).getD g) (awaitScalars p [(d.toNat, BitVec.ofNat 32 r.2)])) s

/-- Drop the hold of a waiting task. -/
def dropHold (s : State) (uid : Nat) : State :=
  releaseReady (modTask s uid fun t => { t with hold := false, counter := t.counter - 1 })

/-- Release a held child (R273): the new state and the status. -/
def releaseHeld (s : State) (issuer : Task) (h : Nat) : State × Nat :=
  let q := (findPart s issuer.part).getD default
  if neverIssued q h then (s, 4)
  else
    match taskByHandle s issuer.part h with
    | some t => if heldChild (some t) issuer.uid then (dropHold s t.uid, 0) else (s, 2)
    | none => (s, 2)

/-- `DEPD.REL`. -/
def execDepdRel (d a : BitVec 6) (gd : Guard) (s : State) : Host.Outcome State Fault Refusal :=
  launchOp gd (fun s g p _ _ =>
    let r := releaseHeld s (taskOf s g) (sreg p a.toNat).toNat
    putPath r.1 g (awaitScalars p [(d.toNat, BitVec.ofNat 32 r.2)])) s

end Sys2Proof.Machine
end

