-- ==== Sys2Proof/Machine/SliceEvents.lean ====
section
/-!
DEFINITION. The events of the slices: a store is taken (R131), a frontier value reaches a slice (R156), a
step lands (R159), scrub (R136) and the rebuild pass (R137).
-/

namespace Sys2Proof.Machine

open Sys2Proof

/-- `STORE_OFFER`: the slice takes an offered store, when no earlier one of the same core goes first (R126) and what
it needs is free; stores of priority steps come first (R131). -/
def execStoreOffer (po : Nat) (s : State) : Host.Outcome State Fault Refusal :=
  .next (match s.sram.offers.find? fun o => decide (o.po = po) with
    | some o => if takesOffer s o then releaseParties (acceptStore s o) o.task else s
    | none => s)

/-- Set the frontier value a slice knows. -/
def setKnown (l : List Known) (d : Dom) (slice : Nat) (v : Option Nat) : List Known :=
  (l.filter fun k => !(decide (k.dom = d) && decide (k.slice = slice))) ++ [{ dom := d, slice := slice, value := v }]

/-- `FRONTIER_CHANGE`: a slice learns the current frontier of a domain; the value never decreases. -/
def execFrontierChange (dom : Dom) (slice : Nat) (s : State) : Host.Outcome State Fault Refusal :=
  .next (if frontierNews s dom slice then
      { s with sram.known := setKnown s.sram.known dom slice (frontier s dom) }
    else s)

/-- `STEP_LANDING`: a slice lands the entries of a step of a domain, and clears take effect with them. -/
def execStepLanding (dom : Dom) (step slice : Nat) (s : State) : Host.Outcome State Fault Refusal :=
  .next (if landingDue s dom step slice then releaseParties (landStep s dom step slice) (domTask dom) else s)

/-! ### Scrub and rebuild (R136, R137) -/

/-- The sectors of a slice. -/
def sectorsPerSlice : Nat := sliceBytes / 32

/-- A bank fails (R137): it is marked, and the rebuild pass begins. The management event of R138 names the slice; the
spec gives it no content (log entry 34). -/
def failBank (s : State) (slice bank : Nat) : State :=
  let r := sliceReg s slice
  let s1 := { s with mgmt.events := s.mgmt.events ++ [slice] }
  match r.fb1, r.fb2 with
  | none, _ => putSliceReg s1 { r with fb1 := some bank, rebuildAt := some 0 }
  | some b, none => if b = bank then s else putSliceReg s1 { r with fb2 := some bank, rebuildAt := some 0 }
  | some _, some _ => s

/-- A bank not yet marked of which the pass has corrected 64 symbols. -/
def failingBank (r : SliceReg) : Option Nat :=
  (r.passCorr.find? fun x => decide (64 ≤ x.2) && !(failedBanks r).contains x.1).map (·.1)

/-- The copies of a granule's owner tag that disagree with their majority. -/
def strayTags (s : State) (granule : Nat) : Nat :=
  ((List.range 3).filter fun k => decide (tagCopy s granule k ≠ ownerTag s granule)).length

/-- The copies of a line's presence bit that disagree with their majority. -/
def strayBits (s : State) (line : Nat) : Nat :=
  ((List.range 3).filter fun k => decide (presenceCopy s line k ≠ linePresent s line)).length

/-- Owner tags with the tag of a granule as it reads. -/
def tagAsRead (s : State) (granule : Nat) : List (Nat × Owner) :=
  match ownerTag s granule with
  | .free => s.sram.owners.filter fun x => decide (x.1 ≠ granule)
  | o => setAssoc s.sram.owners granule o

/-- The copies of presence bits once those of a line are alike: none is listed when they read as written. -/
def bitsAsRead (s : State) (line : Nat) : List CopyErr :=
  presenceWritten s.sram.copies [line] ++
    (if presenceWrong s line then (List.range 3).map fun k => .presence line k (linePresent s line) else [])

/-- The scrub finds disagreeing copies of a sector's owner tag and presence bit: each is corrected and counted (R135).
The spec names no moment; it is the scrub's visit (log entry 34). -/
def fixCopies (s : State) (sector : Nat) : State :=
  match s.sram.copies with
  | [] => s
  | _ =>
    let granule := granuleOf (sector * 32)
    let line := lineOf (sector * 32)
    let n := strayTags s granule + strayBits s line
    let bits := bitsAsRead s line
    let s1 := if strayTags s granule = 0 then { s with sram.copies := bits }
      else setOwners { s with sram.copies := bits.filter fun e => match e with
        | .tag g _ _ => decide (g ≠ granule)
        | .presence _ _ _ => true } (tagAsRead s granule)
    let r := sliceReg s1 (sliceOf (sector * 32))
    putSliceReg s1 { r with slcorr := min (r.slcorr + n) 0xFFFFFFFF }

/-- Scrub one sector (R136): a single symbol is corrected and counted, an uncorrectable sector is counted
and no task is stopped. -/
def scrubSector (s : State) (slice : Nat) : State :=
  let r := sliceReg s slice
  let sector := slice * 2 ^ 18 + r.scrubAt
  let last := decide (r.scrubAt + 1 = sectorsPerSlice)
  let s1 := fixCopies (if sectorBad s sector then countBad s sector else readSector s sector) sector
  let r1 := sliceReg s1 slice
  let r2 := { r1 with passCorr := (correctedBank s sector).toList.foldl bump r1.passCorr }
  let s2 := putSliceReg s1 { r2 with
    scrubAt := if last then 0 else r.scrubAt + 1
    passCorr := if last then [] else r2.passCorr }
  match failingBank r2 with
  | some b => failBank s2 slice b
  | none => s2

/-- `SLICE_SCRUB`. -/
def execSliceScrub (slice : Nat) (s : State) : Host.Outcome State Fault Refusal :=
  .next (if slice < 512 then scrubSector s slice else s)

/-- One sector of the rebuild pass (R137): decoded with full correction, as `erasedBanks` has it, and rewritten. -/
def rebuildOne (s : State) (slice at_ : Nat) : State :=
  let sector := slice * 2 ^ 18 + at_
  let s1 := if sectorBad s sector then countBad s sector else readSector s sector
  putSliceReg s1 { sliceReg s1 slice with
    rebuildAt := if at_ + 1 = sectorsPerSlice then none else some (at_ + 1) }

/-- `REBUILD_SECTOR`. -/
def execRebuildSector (slice : Nat) (s : State) : Host.Outcome State Fault Refusal :=
  .next (match (sliceReg s slice).rebuildAt with
    | some a => rebuildOne s slice a
    | none => s)

/-- `SLSTAT_WRITE` (R138): a write of zero clears `UNC` and `SLCORR`. Its reserved bits are ignored (R5), and a write of
any other value changes nothing (log entry 34). -/
def execSlstatWrite (slice : Nat) (value : Word) (s : State) : Host.Outcome State Fault Refusal :=
  .next (if value &&& 0xFFF0FF00 = 0 ∧ slice < 512 then
      putSliceReg s { sliceReg s slice with unc := 0, slcorr := 0 }
    else s)

/-- `SLSTAT` as system software reads it (R138). -/
def slstat (r : SliceReg) : Word :=
  BitVec.ofNat 32 ((if r.fb2.isSome then 2 ^ 31 else 0) + (if r.fb1.isSome then 2 ^ 30 else 0) +
    r.fb1.getD 0 * 2 ^ 25 + r.fb2.getD 0 * 2 ^ 20 + r.unc * 2 ^ 8)

end Sys2Proof.Machine
end

