-- ==== Sys2Proof/Machine/DramEvents.lean ====
section
/-!
DEFINITION. The events of the stacks: the latency bound (R69, R70), refresh (R66, R67) and the background
scrub (R68).
-/

namespace Sys2Proof.Machine

open Sys2Proof

/-- `LATENCY_BOUND_EXPIRY`: the query that holds the bank yields once: every request that stood in the queue when the
bound expired is issued before the query resumes, and one that entered later waits until the query has opened its next
row (R70). -/
def execLatencyBoundExpiry (pch : Nat) (s : State) : Host.Outcome State Fault Refusal :=
  .next (if boundDue s pch then
      { issueQueued s (inAtExpiry s pch) with
        eng.queries := updWhere s.eng.queries (yieldsNow s pch) fun q => { q with resumes := true } }
    else s)

/-- `PER_BANK_REFRESH`: the normal and guard rows of a bank are refreshed (R66). -/
def execPerBankRefresh (bank : Nat) (s : State) : Host.Outcome State Fault Refusal :=
  .next (if bank < 8192 then { s with
        dram.refreshed := setAssoc s.dram.refreshed bank s.now
        dram.queues := bankRefreshed s.now s.dram.queues bank }
    else s)

/-- The place of the table-row group of a bank among the moments of refresh. -/
def tableGroupKey (bank : Nat) : Nat := 8192 + bank

/-- `TABLE_ROW_REFRESH`: a table row is refreshed, and its count starts again (R67). -/
def execTableRowRefresh (bank row : Nat) (s : State) : Host.Outcome State Fault Refusal :=
  .next (if bank < 8192 ∧ firstTableRow ≤ row ∧ row < 65536 then
      { s with
        dram.rowActs := s.dram.rowActs.filter fun x => decide (x.1 ≠ (bank, row))
        dram.refreshed := setAssoc s.dram.refreshed (tableGroupKey bank) s.now
        dram.queues := bankRefreshed s.now s.dram.queues bank }
    else s)

/-- `TARGETED_REFRESH`: the neighbours of a row whose count has reached 2,048 are refreshed (R67). -/
def execTargetedRefresh (bank row : Nat) (s : State) : Host.Outcome State Fault Refusal :=
  .next (if 2048 ≤ assoc s.dram.rowActs (bank, row) 0 then
      { s with dram := targetRow s.now s.dram bank row }
    else s)

/-- `ECS_SCRUB`: the background scrub finds a burst clean, correctable or not; errors are counted by
pseudo-channel and no task is faulted (R68). What becomes of a corrected error the spec does not say: the scrub
repairs the burst, and a read that corrects it leaves it to be reported again (log entry 71). -/
def execEcsScrub (burst : Nat) (outcome : ScrubOutcome) (s : State) : Host.Outcome State Fault Refusal :=
  .next (if burst < 2 ^ 33 then
      match outcome with
      | .clean => s
      | .corrected =>
        { s with
          dram.corrected := bump s.dram.corrected (pchOf (burst * 64))
          dram.reports := s.dram.reports.filter fun r => decide (r.1 ≠ burst) }
      | .uncorrectable =>
        { s with
          dram.uncorrected := bump s.dram.uncorrected (pchOf (burst * 64))
          dram.reports := setAssoc s.dram.reports burst .uncorrectable }
    else s)

/-- `REFRESH_MANAGEMENT`: a bank whose counted activations have reached the part's threshold is given
refresh management (R66). Its count starts again, which a per-bank refresh does not do: the spec leaves both to the part
(log entry 93). That it counts among the refreshes that extend a request's bound, of which R69 names two other kinds, is the
model's choice (log entry 118). -/
def execRefreshManagement (bank : Nat) (s : State) : Host.Outcome State Fault Refusal :=
  .next (if Config.managementThreshold ≤ assoc s.dram.bankActs bank 0 then
      { s with
        dram.bankActs := s.dram.bankActs.filter fun x => decide (x.1 ≠ bank)
        dram.refreshed := setAssoc s.dram.refreshed bank s.now
        dram.queues := bankRefreshed s.now s.dram.queues bank }
    else s)

end Sys2Proof.Machine
end

