-- ==== Sys2Proof/Machine/Ready.lean ====
section
/-!
DEFINITION. When a path can issue its next word: the scoreboard (R33, R77, R223, R252, R271), stopping and
saving (R277, R281), parks, turns and held paths (R241), residency (R263), and the choice of the active set
(R266, R267).
-/

namespace Sys2Proof.Machine

open Sys2Proof

/-! ### The scoreboard (R33) -/

/-- What the scoreboard of a group tracks in this model: lane registers, the path's scalar registers, the planes and tiles
of the core's engine, and the thread words `FLAGS` and `QSTAT`. -/
inductive Res where
  | lane (r : Nat)
  | scalar (r : Nat)
  | active | shadow
  | tile (t : Bool)
  | flags | qstat
  deriving DecidableEq, Repr

/-- `n` lane registers from `r`. -/
def laneRegs (r : BitVec 6) (n : Nat) : List Res := (List.range n).map fun k => .lane (r.toNat + k)

/-- `n` scalar registers from `r`. -/
def scalars (r : BitVec 6) (n : Nat) : List Res := (List.range n).map fun k => .scalar (r.toNat + k)

/-- `n` registers of the kind that S chooses (R36). -/
def regs (sc : Bool) (r : BitVec 6) (n : Nat) : List Res := if sc then scalars r n else laneRegs r n

/-- A source under a source selector of `MOD` (R53): its own kind, scalar registers, or zero. -/
def source (sel : BitVec 2) (sc : Bool) (r : BitVec 6) (n : Nat) : List Res :=
  if sel = 0 then regs sc r n else if sel = 1 then scalars r n else []

/-- The registers of operand A. -/
def srcA (p : Path) (sc : Bool) (a : BitVec 6) (n : Nat) : List Res := source (modOf p).sa sc a n

/-- The registers of operand B. -/
def srcB (p : Path) (sc : Bool) (b : BitVec 6) (n : Nat) : List Res := source (modOf p).sb sc b n

/-- Registers that a type fills. -/
def regsOf (ty : Ty) : Nat := if tyBits ty = 64 then 2 else 1

/-- The tile a matrix descriptor in scalar registers names. -/
def descTile (p : Path) (y : BitVec 6) : Res := .tile (decide (bitsOf (sreg p y.toNat).toNat 31 31 = 1))

/-- `FLAGS`, for a stream that rounds (R223, R225). -/
def roundingFlags (ty : Ty) : List Res := if ty = .i8 then [] else [.flags]

/-- `FLAGS`, for a drain that rounds: one to a narrower float format, or one that also quantises the
transposed values (R223, R233, R234). -/
def drainFlags (ty : Ty) (tr : Bool) : List Res :=
  if tr ∨ ty ∈ [Ty.bf16, .f16, .e4m3, .e5m2] then [.flags] else []

/-- The scalar registers a drain reads: its descriptor, with SEED and TC under SR (R232). -/
def drainScalars (p : Path) (y : BitVec 6) (tr : Bool) : List Res :=
  if tr then scalars y 8
  else scalars y 2 ++ (if bitsOf (sreg p y.toNat).toNat 26 24 = 4 then [.scalar (y.toNat + 5), .scalar (y.toNat + 6)] else [])

/-- What an instruction reads or writes of the tracked results. -/
def uses (p : Path) : Instr → List Res
  | .add d a b _ sc | .sub d a b _ sc | .mul d a b _ sc | .mulhi d a b _ sc | .mulhu d a b _ sc
  | .mad d a b _ sc | .min d a b _ sc | .max d a b _ sc | .minu d a b _ sc | .maxu d a b _ sc
  | .and d a b _ sc | .or d a b _ sc | .xor d a b _ sc | .andn d a b _ sc | .rol d a b _ sc
  | .shl d a b _ sc | .shr d a b _ sc | .sar d a b _ sc | .divs d a b _ sc | .divu d a b _ sc
  | .rems d a b _ sc | .remu d a b _ sc | .lea d a b _ sc | .bfx d a b _ sc | .bfxu d a b _ sc
  | .bfi d a b _ sc | .sel d a b _ sc _ => regs sc d 1 ++ srcA p sc a 1 ++ srcB p sc b 1
  | .addImm d a _ _ sc | .subImm d a _ _ sc | .mulImm d a _ _ sc | .mulhiImm d a _ _ sc
  | .mulhuImm d a _ _ sc | .madImm d a _ _ sc | .minImm d a _ _ sc | .maxImm d a _ _ sc
  | .minuImm d a _ _ sc | .maxuImm d a _ _ sc | .andImm d a _ _ sc | .orImm d a _ _ sc
  | .xorImm d a _ _ sc | .andnImm d a _ _ sc | .rolImm d a _ _ sc | .shlImm d a _ _ sc
  | .shrImm d a _ _ sc | .sarImm d a _ _ sc | .divsImm d a _ _ sc | .divuImm d a _ _ sc
  | .remsImm d a _ _ sc | .remuImm d a _ _ sc | .leaImm d a _ _ sc | .bfxImm d a _ _ sc
  | .bfxuImm d a _ _ sc | .bfiImm d a _ _ sc | .mov d a _ sc | .clz d a _ sc | .popc d a _ sc
  | .brev d a _ sc => regs sc d 1 ++ srcA p sc a 1
  | .movi d _ _ sc => regs sc d 1
  | .add64 d a b _ sc | .sub64 d a b _ sc => regs sc d 2 ++ srcA p sc a 2 ++ srcB p sc b 2
  | .shl64 d a b _ sc | .shr64 d a b _ sc => regs sc d 2 ++ srcA p sc a 2 ++ srcB p sc b 1
  | .add64Imm d a _ _ sc | .sub64Imm d a _ _ sc | .shl64Imm d a _ _ sc | .shr64Imm d a _ _ sc =>
    regs sc d 2 ++ srcA p sc a 2
  | .cmp _ a b _ sc _ => srcA p sc a 1 ++ srcB p sc b 1
  | .cmpImm _ a _ _ sc _ => srcA p sc a 1
  | .fcmp _ a b _ sc _ => .flags :: (srcA p sc a 1 ++ srcB p sc b 1)
  | .fcmpImm _ a _ _ sc _ => .flags :: srcA p sc a 1
  | .dcmp _ a b _ _ => .flags :: (srcA p false a 2 ++ srcB p false b 2)
  | .pand .. | .por .. | .pxor .. | .pnot .. | .elect .. => []
  | .vote d _ mode _ => if mode = .bal then scalars d 2 else []
  | .shfl d a b _ | .bcast d a b _ => laneRegs d 1 ++ laneRegs a 1 ++ laneRegs b 1
  | .rdlane d a b _ => scalars d 1 ++ laneRegs a 1 ++ scalars b 1
  | .rdlaneImm d a _ _ => scalars d 1 ++ laneRegs a 1
  | .wrlane d a b _ => laneRegs d 1 ++ scalars a 1 ++ scalars b 1
  | .wrlaneImm d a _ _ => laneRegs d 1 ++ scalars a 1
  | .popm d _ _ _ => laneRegs d 1
  | .redl d a _ _ | .scanl d a _ _ _ => .flags :: (laneRegs d 1 ++ laneRegs a 1)
  | .shflImm d a _ _ | .bcastImm d a _ _ => laneRegs d 1 ++ laneRegs a 1
  | .fadd d a b _ sc | .fsub d a b _ sc | .fmul d a b _ sc | .ffma d a b _ sc | .fmin d a b _ sc
  | .fmax d a b _ sc | .fscale d a b _ sc =>
    .flags :: (regs sc d 1 ++ srcA p sc a 1 ++ srcB p sc b 1)
  | .faddImm d a _ _ sc | .fsubImm d a _ _ sc | .fmulImm d a _ _ sc | .ffmaImm d a _ _ sc
  | .fminImm d a _ _ sc | .fmaxImm d a _ _ sc | .fscaleImm d a _ _ sc | .frcpe d a _ sc
  | .frsqe d a _ sc | .frnd d a _ sc | .fclass d a _ sc => .flags :: (regs sc d 1 ++ srcA p sc a 1)
  | .dadd d a b _ | .dsub d a b _ | .dmul d a b _ | .dfma d a b _ | .dmin d a b _ | .dmax d a b _ =>
    .flags :: (laneRegs d 2 ++ srcA p false a 2 ++ srcB p false b 2)
  | .hadd2F16 d a b _ | .hmul2F16 d a b _ | .hfma2F16 d a b _ | .hadd2Bf16 d a b _ | .hmul2Bf16 d a b _
  | .hfma2Bf16 d a b _ => .flags :: (laneRegs d 1 ++ srcA p false a 1 ++ srcB p false b 1)
  | .cvt d a src _ ty => .flags :: (laneRegs d (regsOf ty) ++ srcA p false a (regsOf src))
  | .cvtsr d a b _ _ => .flags :: (laneRegs d 1 ++ srcA p false a 1 ++ scalars b 2)
  | .pack8 d a b _ _ => .flags :: (laneRegs d 1 ++ srcA p false a 2 ++ srcB p false b 2)
  | .unpk8 d a _ _ => .flags :: (laneRegs d 4 ++ srcA p false a 1)
  | .pack4 d a b _ _ => .flags :: (laneRegs d 1 ++ srcA p false a 4 ++ srcB p false b 4)
  | .unpk4 d a _ _ => .flags :: (laneRegs d 8 ++ srcA p false a 1)
  | .lds _ d a _ ty | .sts _ _ d a _ ty => scalars d (regsOf ty) ++ scalars a 1
  | .watch _ a _ _ _ => srcA p false a 1
  | .pres d a _ _ _ | .absa d a _ _ | .rela d a _ _ => laneRegs d 1 ++ srcA p false a 1
  | .ld _ d a _ _ ty => laneRegs d (regsOf ty) ++ srcA p false a 1
  | .stP _ d a _ _ ty | .stG _ d a _ _ ty | .stK _ d a _ _ ty => srcB p false d (regsOf ty) ++ srcA p false a 1
  | .mldw x y _ _ _ _ | .mldwS x y _ _ _ _ => .shadow :: (laneRegs x 1 ++ scalars y 2)
  | .mma x y _ ty _ _ swap =>
    [.active, descTile p y] ++ (if swap then [.shadow] else []) ++ roundingFlags ty ++ laneRegs x 1 ++ scalars y 2
  | .mmas x y _ ty _ _ swap =>
    [.active, descTile p y] ++ (if swap then [.shadow] else []) ++ roundingFlags ty ++ laneRegs x 1 ++ scalars y 4
  | .mdrn x y _ ty _ _ tr => descTile p y :: (drainFlags ty tr ++ laneRegs x 1 ++ drainScalars p y tr)
  | .mzero tile _ _ => [.tile tile]
  | .trd x y _ _ tile _ | .twr x y _ _ tile _ => .tile tile :: (laneRegs x 1 ++ scalars y 1)
  | .copy a _ _ _ | .brd a _ _ _ | .brdi a _ _ _ => srcA p false a 1
  | .cpys a _ => scalars a 8
  | .tq d a _ ix _ ty => laneRegs d (queryRegs false ix ty) ++ laneRegs a 1
  | .tqb d a _ ix _ ty => laneRegs d (queryRegs true ix ty) ++ laneRegs a 1
  | .enq d a _ _ => scalars d 2 ++ laneRegs a 1
  | .deq d _ _ => scalars d 2
  | .depdEdge d a _ => scalars d 1 ++ scalars a 2
  | .depdRel d a _ => scalars d 1 ++ scalars a 1
  | .srd d n _ | .swr d n _ =>
    laneRegs d 1 ++ (if n = 9 then [.flags] else []) ++ (if n = 10 then [.qstat] else [])
  | .call _ => [.scalar 31]
  | .jmpr a _ _ | .ret a _ => scalars a 1
  | .jmov d a mode _ =>
    match mode with
    | .jj | .jp => []
    | .sj => scalars d 2
    | .js => scalars a 2
  | .reform a _ => laneRegs a 1
  | _ => []

/-- What a queued matrix operation leaves pending for its group (R223). -/
def opPending (op : MatrixOp) : List Res :=
  match op.act with
  | .load .. => [.shadow]
  | .stream ty _ swap _ tile .. => [.tile tile] ++ (if swap then [.active, .shadow] else []) ++ roundingFlags ty
  | .drain _ d => drainFlags d.ty d.tr
  | .zero tile _ => [.tile tile]
  | .readTile tile _ _ reg _ => [.tile tile, .lane reg]
  | .writeTile tile .. => [.tile tile]

/-- What the outstanding queries of a group leave pending (R77). -/
def queryPending (s : State) (g : Group) : List Res :=
  (s.eng.queries.filter fun q => decide (q.gid = g.gid)).flatMap fun q =>
    .qstat :: (List.range (queryRegs q.qb q.ix q.ty)).map fun k => .lane (q.d + k)

/-- The queued matrix operations of a group. -/
def groupOps (s : State) (g : Group) : List MatrixOp :=
  (s.eng.matrix.flatMap (·.queue)).filter fun op => decide (op.gid = g.gid)

/-- What the queued matrix operations of a group leave pending, each with its elected lane. -/
def matrixPending (s : State) (g : Group) : List (Nat × Res) :=
  (groupOps s g).flatMap fun op => (opPending op).map fun r => (op.lane, r)

/-- What is pending for a path: the results of its group's queries and matrix operations, and the scalars that wait for a
response (R271). `FLAGS` is pending where the elected lane is one of the path's own. -/
def pending (s : State) (g : Group) (p : Path) : List Res :=
  queryPending s g ++ (((matrixPending s g).filter fun x => decide (x.2 ≠ .flags) || p.exec.getLsbD x.1).map (·.2)) ++
    p.owed.map fun x => .scalar x.1

/-- The word that stands at a path's address: one that it holds (R306), or one that is fetched. -/
def pathWord (s : State) (g : Group) (p : Path) : Word :=
  match p.pre.words with
  | w :: _ => w
  | [] => fetchWord s g.core g.task p.pc

/-- The word a path would issue; none when its address lies outside the image. -/
def nextWord (s : State) (g : Group) (p : Path) : Option Word :=
  if inImage s g.task p.pc then some (pathWord s g p) else none

/-- The instruction a path would issue, if its next word is one. -/
def nextInstrOf (s : State) (g : Group) (p : Path) : Option Instr :=
  match (nextWord s g p).map decode with
  | some (.ok i) => some i
  | _ => none

/-! ### What lanes that exit keep waiting (R155, R249, R252) -/

/-- Whether lanes of a group hold back the frontier that a load of the group waits for (R141, R155). -/
def holdsBack (s : State) (g : Group) (m : Mask) (r : LoadReq) : Bool :=
  r.accs.any fun x => (domainOf s x.addr).isSome && !allCounters s g.task x.addr r.ty.size &&
    (lanesOf m).any fun l => decide ((laneOf g l).step.toNat < x.step)

/-- Whether lanes of a group keep a domain of theirs from passing step `n` (R155). -/
def keepsBelow (g : Group) (m : Mask) (d : Dom) (n : Nat) : Bool :=
  (decide (d = .party g.task g.party) || decide (d = .task g.task)) &&
    (lanesOf m).any fun l => decide ((laneOf g l).step.toNat ≤ n)

/-- Whether lanes of a group keep the request of an engine waiting for its frontier: it writes no line before (R97, R115,
R235), and an outbound copy reads none (R98). -/
def keepsRequest (s : State) (g : Group) (m : Mask) (id : Nat) : Bool :=
  (s.sram.clears.any fun c => decide (c.req = id) && keepsBelow g m c.dom c.step) ||
  s.eng.copies.any fun c => decide (c.head.id = id) && c.outbound && c.nearData.isNone &&
    (linesOf c.near c.len).any fun l => (domainOf s (l * 128)).any fun d => keepsBelow g m d c.head.step

/-- Whether lanes of a group keep a queued operation from its turn: it is a drain, and they keep four drains before it from
being written, so that the drain buffer has no room for it (R233, R235). -/
def keepsTurn (s : State) (g : Group) (m : Mask) (e : Engine) (op : MatrixOp) : Bool :=
  (match op.act with
    | .drain .. => true
    | _ => false) && decide (4 ≤ ((drainsBefore s e op.head.id).filter (keepsRequest s g m)).length)

/-- The operations in the matrix queue of a group's core that lanes of the group keep from their turn: the first such drain,
and all behind it. Those before it have theirs. -/
def keptOps (s : State) (g : Group) (m : Mask) : List Nat :=
  (s.eng.matrix.filter fun e => decide (e.core = g.core)).flatMap fun e =>
    (e.queue.dropWhile fun op => !keepsTurn s g m e op).map (·.head.id)

/-- Whether lanes of a group keep the matrix queue of its core as full as it is: they keep its first operation. -/
def keepsQueue (s : State) (g : Group) (m : Mask) : Bool :=
  (s.eng.matrix.filter fun e => decide (e.core = g.core)).any fun e => (e.queue.head?).any (keepsTurn s g m e)

/-- Whether the lane that a path would elect under a guard is in a later step than one of the lanes of a mask: what the
instruction reads, it reads as a load of that lane's step (R28). -/
def laterThan (g : Group) (m : Mask) (q : Path) (gd : Guard) : Bool :=
  (lowest (activeMask q gd)).any fun l =>
    (lanesOf m).any fun k => decide ((laneOf g k).step.toNat < (laneOf g l).step.toNat)

/-- Whether lanes of a group keep a store of the group waiting at issue: through a request whose line it writes or whose
bytes it would change (R144). -/
def keepsStore (s : State) (g : Group) (m : Mask) (sp : Space) (z : Nat) (ls : List (Nat × Nat)) : Bool :=
  ls.any fun x =>
    let a := absoluteOf s g sp x.2
    let t := (laneOf g x.1).step.toNat
    (s.sram.clears.any fun c => decide (c.step < t) && decide (lineOf a ≤ c.line) && decide (c.line ≤ lineOf (a + z - 1)) &&
      keepsRequest s g m c.req) ||
    s.eng.copies.any fun c => decide (c.head.step < t) && decide (a < c.near + c.len) && decide (c.near < a + z) &&
      c.outbound && c.nearData.isNone && keepsRequest s g m c.head.id

/-- Whether a wait at issue is one for an engine that is full, for an outstanding query or for a bin: R241 does not name
these as parks, and such a path keeps its place. -/
def waitsForRoom (s : State) (g : Group) : Instr → Bool
  | .copy .. | .cpys .. => decide (64 ≤ (s.eng.copies.filter fun c => decide (c.head.core = g.core)).length)
  | .brd .. | .brdi .. => decide (16 ≤ (s.eng.bulks.filter fun b => decide (b.head.core = g.core)).length)
  | .tq .. | .tqb .. | .reform .. | .reformNext .. => true
  | .mldw .. | .mldwS .. | .mma .. | .mmas .. | .mdrn .. | .mzero .. | .trd .. | .twr .. =>
    queueFull s g.core && engineFor s g.core (g.task, g.party)
  | _ => false

/-- Whether lanes of a group keep an engine that is full from having room again. -/
def keepsRoom (s : State) (g : Group) (m : Mask) : Instr → Bool
  | .copy .. | .cpys .. => (s.eng.copies.filter fun c => decide (c.head.core = g.core)).all fun c => keepsRequest s g m c.head.id
  | .brd .. | .brdi .. => (s.eng.bulks.filter fun b => decide (b.head.core = g.core)).all fun b => keepsRequest s g m b.head.id
  | .mldw .. | .mldwS .. | .mma .. | .mmas .. | .mdrn .. | .mzero .. | .trd .. | .twr .. => keepsQueue s g m
  | _ => false

/-- Whether no claim of another party keeps a matrix instruction waiting (R221, R222). -/
def claimsOpen (s : State) (g : Group) (pair : Bool) : Bool :=
  engineFor s g.core (g.task, g.party) && (!pair || engineFor s (g.core + 1) (g.task, g.party))

/-- Whether lanes of a group keep an instruction of a path waiting at issue: a store through a request; one whose engine is
full by its room; and one that reads memory as a load of its step by the frontier of an earlier step (R28, R103). -/
def keepsIssue (s : State) (g : Group) (m : Mask) (q : Path) (i : Instr) : Bool :=
  if waitsForRoom s g i then keepsRoom s g m i
  else
    match i with
    | .stP _ _ a imm gd ty => keepsStore s g m .party ty.size (laneAddrs g q a imm gd)
    | .stG _ _ a imm gd ty => keepsStore s g m .task ty.size (laneAddrs g q a imm gd)
    | .sts _ sp _ a imm ty => keepsStore s g m sp ty.size (scalarAddr q a imm)
    | .copy _ _ gd _ | .cpys _ gd | .brd _ _ gd _ | .brdi _ _ gd _ | .enq _ _ _ gd => laterThan g m q gd
    | .mldw _ _ _ _ gd pair | .mldwS _ _ _ _ gd pair | .mma _ _ _ _ gd pair _ | .mmas _ _ _ _ gd pair _ =>
      claimsOpen s g pair && laterThan g m q gd
    | _ => false

/-- Whether the counter cell of a request that lanes of a group keep waiting stands at an address. -/
def keepsCounter (s : State) (g : Group) (m : Mask) (a : Nat) : Bool :=
  (s.eng.copies.any fun c => decide (c.cnt = some a) && keepsRequest s g m c.head.id) ||
    s.eng.bulks.any fun b => decide (b.cnt = some a) && keepsRequest s g m b.head.id

/-- Whether a path of a group cannot go on before lanes `m` of the group do: they hold back the frontier that its load waits
for, or the window of its lag stall (R157); its `JOIN` waits for one of them (R246); a cell that it watches counts a request
that they keep waiting; or they keep it waiting at issue, or its selector in the matrix queue. -/
def stuckBehind (s : State) (g : Group) (m : Mask) (q : Path) : Bool :=
  match q.park with
  | none => false
  | some (.join j) => decide (j &&& m ≠ 0)
  | some (.load r) => holdsBack s g m r
  | some (.lag a _) => (lanesOf a).any fun l => (lanesOf m).any fun k =>
      decide ((laneOf g k).step.toNat + 8 < (laneOf g l).step.toNat + 1)
  | some (.watch _ ws) => ws.any fun w => !w.2 && keepsCounter s g m w.1
  | some .issue => (nextInstrOf s g q).any (keepsIssue s g m q)
  | some (.selector id) => (keptOps s g m).contains id

/-- Lanes `m` of a group with the lanes of all paths that cannot go on before they do. -/
def stuckLanes (s : State) (g : Group) (m : Mask) : Mask :=
  g.paths.foldl (fun m _ => g.paths.foldl (fun m q => if stuckBehind s g m q then m ||| q.exec else m) m) m

/-- Whether a group awaits a result that a path with lanes `m` must wait for at `EXIT`: of a query, a matrix operation or a
launch instruction, or of a load. A load or a matrix operation that those lanes themselves keep waiting, or paths that wait
for them, is not waited for: only their `EXIT` lets it come (R249, R252; log entry 73). -/
def awaitsResult (s : State) (g : Group) (m : Mask) : Bool :=
  let stuck := stuckLanes s g m
  !(queryPending s g).isEmpty ||
  ((groupOps s g).any fun op => !(opPending op).isEmpty && !(keptOps s g stuck).contains op.head.id) ||
  g.paths.any fun q => !q.owed.isEmpty ||
    (match q.park with
      | some (.load r) => !holdsBack s g stuck r
      | _ => false)

/-- Whether a pending result belongs to a thread: `REFORM` takes the registers of its lanes along (R33, R250). -/
def ofThread : Res → Bool
  | .lane _ | .flags | .qstat => true
  | _ => false

/-- Whether a path traps at `REFORM` before anything else, or files nothing (R250). -/
def reformAtOnce (g : Group) (p : Path) (gd : Guard) : Bool :=
  never gd || g.handler.isSome || decide (1 < g.paths.length) || decide (activeMask p gd = 0)

/-- Whether an instruction waits for pending results: `EXIT` for all that its group awaits, unless it traps (R252), `REFORM`
for those of its threads, unless it traps (R250), and any other one for what it reads or writes (R33). -/
def waitsFor (s : State) (g : Group) (p : Path) (ps : List Res) : Instr → Bool
  | .exit gd => !never gd && g.handler.isNone && awaitsResult s g p.exec
  | .reform _ gd | .reformNext gd => !reformAtOnce g p gd && ps.any ofThread
  | i => (uses p i).any fun r => ps.contains r

/-- Whether the scoreboard lets a word issue; a word that is no instruction has nothing to wait for. -/
def scoreboardFree (s : State) (g : Group) (p : Path) (w : Word) : Bool :=
  match decode w with
  | .ok i => !waitsFor s g p (pending s g p) i
  | .error _ => true

/-! ### Whether a path issues (R241, R266) -/

/-- Whether a path's task lets it issue: the task runs, has not been told to stop, and saves no context. A path in the middle
of a sequence still goes on, to its next boundary (R277, R281), and so does a handler while the context is saved (R122). -/
def taskIssues (s : State) (g : Group) (p : Path) : Bool :=
  match findTask s g.task with
  | some t =>
    decide (t.state = .running) &&
      (decide (p.pre.rank ≠ 0) || (t.stop.isNone && (!t.saving || g.handler.isSome)))
  | none => false

/-- The meaning of an instruction that may wait at issue. -/
def retried : Instr → Option (State → Host.Outcome State Fault Refusal)
  | .stP rule d a imm gd ty => some (execStP rule d a imm gd ty)
  | .stG rule d a imm gd ty => some (execStG rule d a imm gd ty)
  | .stK rule d a imm gd ty => some (execStK rule d a imm gd ty)
  | .sts rule sp d a imm ty => some (execSts rule sp d a imm ty)
  | .watch cond a imm gd sp => some (execWatch cond a imm gd sp)
  | .mldw x y sp ty gd pair => some (execMldw x y sp ty gd pair)
  | .mldwS x y sp ty gd pair => some (execMldwS x y sp ty gd pair)
  | .mma x y sp ty gd pair swap => some (execMma x y sp ty gd pair swap)
  | .mmas x y sp ty gd pair swap => some (execMmas x y sp ty gd pair swap)
  | .mdrn x y sp ty gd pair tr => some (execMdrn x y sp ty gd pair tr)
  | .mzero tile gd pair => some (execMzero tile gd pair)
  | .trd x y imm gd tile col => some (execTrd x y imm gd tile col)
  | .twr x y imm gd tile col => some (execTwr x y imm gd tile col)
  | .copy a imm gd sp => some (execCopy a imm gd sp)
  | .cpys a gd => some (execCpys a gd)
  | .brd a imm gd sp => some (execBrd a imm gd sp)
  | .brdi a imm gd sp => some (execBrdi a imm gd sp)
  | .tq d a tbl ix gd ty => some (execTq d a tbl ix gd ty)
  | .tqb d a tbl ix gd ty => some (execTqb d a tbl ix gd ty)
  | .reform a gd => some (execReform a gd)
  | .reformNext gd => some (execReformNext gd)
  | .enq d a sp gd => some (execEnq d a sp gd)
  | _ => none

/-- Whether an instruction that waits at issue would change nothing. One that would change anything goes on: it leaves its
place, takes a claim (R221), or stops its task by a trap or by a sector it cannot read (R239, R277). -/
def wouldWait (s : State) (g : Group) (p : Path) (w : Word) (i : Instr) : Bool :=
  match retried i with
  | none => false
  | some f =>
    match f { s with cursor := some { gid := g.gid, pid := p.pid, pc := p.pc, word := w } } with
    | .next t => decide ({ t with cursor := s.cursor } = s)
    | _ => false

/-- Whether a path waits at issue, and its wait is not over (R241, R266). -/
def issueWaits (s : State) (g : Group) (p : Path) : Bool :=
  decide (p.park = some .issue) && (match nextWord s g p with
    | some w => (match decode w with
      | .ok i => wouldWait s g p w i
      | .error _ => false)
    | none => false)

/-- Whether nothing parks a path: a wait at issue that is over issues its word again. -/
def unparked (s : State) (g : Group) (p : Path) : Bool :=
  decide (p.park = none) || (decide (p.park = some .issue) && !issueWaits s g p)

/-- Whether the scoreboard lets a path go on. -/
def unblocked (s : State) (g : Group) (p : Path) : Bool :=
  match nextWord s g p with
  | some w => scoreboardFree s g p w
  | none => true

/-- Whether an instruction waits in the pending set: for the result of a query (R77), or at `EXIT` or `REFORM` for results
(R250, R252). -/
def waitsParked (s : State) (g : Group) (p : Path) (i : Instr) : Bool :=
  match i with
  | .exit _ | .reform _ _ | .reformNext _ => waitsFor s g p (pending s g p) i
  | i => waitsFor s g p (queryPending s g) i

/-- Whether a path parks as R266 has it, the waits at issue among its parks. -/
def parkedNow (s : State) (g : Group) (p : Path) : Bool :=
  !unparked s g p || ((nextInstrOf s g p).map (waitsParked s g p)).getD false

/-- Whether a path parks as R241 has it, and cannot go on: a lag stall that the windows allow to end has ended. -/
def parksPath (s : State) (g : Group) (p : Path) : Bool :=
  match p.park with
  | some .issue => issueWaits s g p && !((nextInstrOf s g p).map (waitsForRoom s g)).getD false
  | some (.lag m _) => !mayAdvance s g m
  | some _ => true
  | none => ((nextInstrOf s g p).map (waitsParked s g p)).getD false

/-- Whether a path could issue its next word from the issue position. -/
def canGo (s : State) (g : Group) (p : Path) : Bool := taskIssues s g p && unparked s g p && unblocked s g p

/-- The path of a group with a pool entry, or its first one, that parks and gives its place up (R241). -/
def givesWay (s : State) (g : Group) : Option Path :=
  g.paths.find? fun q => (heldSince q).isNone && parksPath s g q

/-- The path of a group that has been held longest. -/
def heldLongest (g : Group) : Option Path := (longestHeld (g.paths.map fun q => (0, q))).map (·.2)

/-- A path that parks changes places with the held path of its group that has waited longest, and becomes held (R241). -/
def exchange (s : State) (g : Group) : Group :=
  match heldLongest g with
  | none => g
  | some p =>
    match givesWay s g with
    | some q => setPath (setPath g { q with slot := .held s.now }) { p with slot := q.slot }
    | none => g

/-- The exchanges of all groups (R241; log entry 75). -/
def exchangeHeld (s : State) : State := { s with groups := s.groups.map (exchange s) }

/-- Whether a path can issue its next word; a held one does not issue (R241). -/
def pathReady (s : State) (g : Group) (p : Path) : Bool := canGo s g p && (heldSince p).isNone

/-- The paths of a group that can issue; one in the middle of a sequence that waits for nothing goes first
(R32, R241). -/
def readyPaths (s : State) (g : Group) : List Path :=
  let ps := g.paths.filter (pathReady s g)
  let mid := ps.filter fun p => decide (p.pre.rank ≠ 0) && p.park.isNone
  if mid.isEmpty then ps else mid

/-- The path that a group issues from: of those that can issue, the one whose last issue is longest ago (R241). -/
def issuingPath (s : State) (g : Group) : Option Path :=
  (readyPaths s g).foldl (fun best p =>
    match best with
    | some b => if p.turn < b.turn then some p else some b
    | none => some p) none

/-- A group is ready when one of its paths can issue. -/
def groupReady (s : State) (g : Group) : Bool := g.paths.any (pathReady s g)

/-- Whether a group is among those its partition may have resident on its core: the first GRP of them, in the order in which
they came to the core (R263). -/
def resident (s : State) (g : Group) : Bool :=
  match findPart s (partOf s g.task) with
  | some q =>
    decide (((s.groups.takeWhile fun x => decide (x.gid ≠ g.gid)).filter fun x => decide (x.core = g.core) &&
      decide (partOf s x.task = q.id)).length < q.grp)
  | none => false

/-! ### The active set (R266, R267) -/

/-- Whether no path of a group goes on: each parks, or its task lets it issue nothing more, because it has been told to stop
or saves its context. Such a group gives its position up, so that groups of the task that still have to reach a sequence
boundary or to end can enter the active set (R253, R281; log entry 108). -/
def allParked (s : State) (g : Group) : Bool := g.paths.all fun p => parkedNow s g p || !taskIssues s g p

/-- The groups of a core in its pending set that are ready. -/
def readyPending (s : State) (core : Nat) : List Group :=
  s.groups.filter fun g => decide (g.core = core) && g.active.isNone && resident s g && groupReady s g

/-- The pending group that has been ready longest; of several, the first in the list of groups (log entry 122). -/
def longestReady (s : State) (core : Nat) : Option Group :=
  (readyPending s core).foldl (fun best g =>
    match best with
    | some b => if g.readySince < b.readySince then some g else some b
    | none => some g) none

/-- The active group of a core that parks, at the lowest position. -/
def parkedActive (s : State) (core : Nat) : Option Group :=
  (List.range 8).findSome? fun k => s.groups.find? fun g =>
    decide (g.core = core) && decide (g.active = some k) && allParked s g

/-- A group leaves the active set. -/
def deactivate (s : State) (g : Group) : State := putGroup s { g with active := none, readySince := s.now }

/-- A group enters the active set at a position. -/
def activate (s : State) (g : Group) (k : Nat) : State := putGroup s { g with active := some k, issued := 0 }

/-- The pending group that has been ready longest takes a free position. -/
def fillActive (s : State) (core : Nat) : State :=
  match activeSlot s core, longestReady s core with
  | some k, some g => activate s g k
  | _, _ => s

/-- `ACTIVE_SET_EXCHANGE` (R266). -/
def execActiveSetExchange (core : Nat) (s : State) : Host.Outcome State Fault Refusal :=
  .next (match parkedActive s core with
    | some g => fillActive (deactivate s g) core
    | none => fillActive s core)

/-- The active group of a core that has issued 256 sequences since it entered; of several, the first in the list of groups
(log entry 122). -/
def longIssued (s : State) (core : Nat) : Option Group :=
  s.groups.find? fun g => decide (g.core = core) && g.active.isSome && decide (256 ≤ g.issued)

/-- `ROTATION` (R266). -/
def execRotation (core : Nat) (s : State) : Host.Outcome State Fault Refusal :=
  .next (match longIssued s core, longestReady s core with
    | some g, some h =>
      match g.active with
      | some k => activate (deactivate s g) h k
      | none => s
    | _, _ => s)

/-- Note the moment of every pending group that is not ready, so that `readySince` is the moment from which
a group has been ready. -/
def noteReady (s : State) : State :=
  { s with groups := s.groups.map fun g =>
      if g.active.isNone ∧ !groupReady s g then { g with readySince := s.now } else g }

/-- The ready active groups of a core. -/
def readyActive (s : State) (core : Nat) : List Group :=
  s.groups.filter fun g => decide (g.core = core) && g.active.isSome && resident s g && groupReady s g

/-- Of a list of groups, the one that issued least recently, at the lowest position among equals. -/
def leastRecent (l : List Group) : Option Group :=
  l.foldl (fun best g =>
    match best with
    | some b =>
      if g.lastIssue < b.lastIssue ∨ (g.lastIssue = b.lastIssue ∧ g.active.getD 0 < b.active.getD 0) then some g
      else some b
    | none => some g) none

/-- The group whose word a core issues (R267): a group packed with the last issue takes its share of it first; otherwise
the ready active group that issued least recently, at the lowest position among equals. -/
def issuer (s : State) (core : Nat) : Option Group :=
  (leastRecent ((readyActive s core).filter (·.packed))).or (leastRecent (readyActive s core))

/-- Whether the issuing paths of two groups stand at the same word of the same sequence. -/
def sameWord (s : State) (g h : Group) : Bool :=
  match issuingPath s g, issuingPath s h with
  | some p, some q => decide (p.pc = q.pc) && decide (seqStart p = seqStart q)
  | _, _ => false

/-- The groups that packing adds to an issue of group `g` (R22, R267): ready active ones of its task that stand at the
same word, in order of least recent issue, while the total width stays within 64 lanes. -/
def packedWith (s : State) (g : Group) : List Nat :=
  let others := sortBy (fun a b => decide (a.lastIssue < b.lastIssue) ||
      (decide (a.lastIssue = b.lastIssue) && decide (a.active.getD 0 ≤ b.active.getD 0)))
    ((readyActive s g.core).filter fun h => decide (h.gid ≠ g.gid) && decide (h.task = g.task) &&
      decide (h.width < 64) && sameWord s g h)
  (others.foldl (fun acc h => if acc.1 + h.width ≤ 64 then (acc.1 + h.width, acc.2 ++ [h.gid]) else acc)
    (g.width, [])).2

end Sys2Proof.Machine
end

