-- ==== Sys2Proof/Machine/Admission.lean ====
section
/-!
DEFINITION. Admission (R260 to R263), the blocking task, class pre-emption and stealing (R262), the code
instance of a task (R303) and staging (R75, R89, R269, R304).
-/

namespace Sys2Proof.Machine

open Sys2Proof

/-! ### The queues of a tract (R256, R262) -/

/-- A task that waits for admission: a pre-empted one has gone back to Released (R255, R262). -/
def awaits (t : Task) : Bool := t.stop.isNone && decide (t.state = .released)

/-- Whether a blocking task of a partition keeps a task out (R262). -/
def blockedOut (s : State) (t : Task) : Bool :=
  s.tasks.any fun b => b.blocking && awaits b && decide (b.part = t.part) && decide (b.cls ≤ t.cls) &&
    decide (b.uid ≠ t.uid)

/-- The order of a queue: by class, oldest first within a class. -/
def queueBefore (a b : Task) : Bool :=
  decide (a.cls < b.cls) || (decide (a.cls = b.cls) && decide (a.handle ≤ b.handle))

/-- The tasks of a partition in the queues of a tract, in order. -/
def queueOf (s : State) (tract part : Nat) : List Task :=
  sortBy queueBefore (s.tasks.filter fun t => awaits t && decide (t.tract = tract) && decide (t.part = part))

/-! ### A placement for a task (R72, R91, R260) -/

/-- The table block a task takes: none where it declares no table; no answer where no block is free. -/
def blockFor (s : State) (q : Partition) (t : Task) : Option (Option Nat) :=
  if declaresTables t.decl then
    ((List.range 8).find? fun b => blockOwned s.dram.tableBlocks b q.dom &&
      !(s.tasks.any fun x => isLive x && decide (x.block = some b))).map some
  else some none

/-- The addresses of adopted regions. -/
def adoptBases (ad : List (Option Kept)) : List (Option Nat) := ad.map fun k => k.map (·.base)

/-- Owner tags without the granules of some kept regions. -/
def withoutKept (owners : List (Nat × Owner)) (ks : List Kept) : List (Nat × Owner) :=
  owners.filter fun x => !(ks.any fun k => keptGranule k x.1)

/-- The kept regions that must be dropped for a placement, of some that stand oldest first: the fewest oldest ones with
which it fits, and of these only those whose granules it needs (R91). None when it does not fit at all. -/
def neededDrops (fit : List Kept → Bool) (ks : List Kept) : Option (List Kept) :=
  (((List.range (ks.length + 1)).map ks.take).find? fit).map fun d =>
    d.foldl (fun d k => if fit (d.filter fun x => decide (x ≠ k)) then d.filter fun x => decide (x ≠ k) else d) d

/-- The regions of a task that adopt a kept one once some kept regions are gone. -/
def adoptionsWithout (s : State) (t : Task) (ds : List Kept) : List (Option Kept) :=
  adoptions t.part (s.kept.filter fun k => !ds.contains k) t.decl.regions

/-- A placement of a released task once some kept regions have been dropped. -/
def placeWithout (c : Chooser) (s : State) (q : Partition) (t : Task) (ds : List Kept) : Option Plan :=
  let ad := adoptionsWithout s t ds
  (placeNew s q t).place c (adoptOwners t.uid (withoutKept s.sram.owners ds) ad) (adoptBases ad)

/-- A placement of a released task (R91, R260): the state after the kept regions whose granules it needs have been
dropped, the adopted regions and the plan. Those that the task could adopt itself are dropped last. -/
def admitPlan (c : Chooser) (q : Partition) (t : Task) (s : State) : Option (State × List (Option Kept) × Plan) :=
  let ad := adoptionsWithout s t []
  let mine := s.kept.filter fun k => decide (k.part = t.part)
  let ks := (mine.filter fun k => !ad.contains (some k)) ++ mine.filter fun k => ad.contains (some k)
  (neededDrops (fun ds => (placeWithout .first s q t ds).isSome) ks).bind fun ds =>
    (placeWithout c s q t ds).map fun p => (ds.foldl dropKept s, adoptionsWithout s t ds, p)

/-- The former place of a party of a pre-empted task. -/
def formerPlace (t : Task) (i : Nat) : Option PartyPlace :=
  t.saved.bind fun v => v.places.find? fun p => decide (p.index = i)

/-- The party of a reform bin. -/
def binParty (b : Bin) : Nat :=
  match b.key with
  | .reform _ i _ => i
  | .handler _ i _ => i

/-- The engines that the saved claims of a party take on a core: the pair of a leader, or one (R222, R238). -/
def claimCores (v : Saved) (i core : Nat) : List Nat :=
  (v.engines.filter fun e => decide (e.claim.2 = i) && !e.follows).flatMap fun e =>
    if e.leads then [core, core + 1] else [core]

/-- Whether a core can take the matrix claim and the reform bins of a saved party beside the parties already placed: no
engine is claimed twice, and the core's sixteen bins hold those of all (R238, R253). -/
def restoreCoreOk (s : State) (q : Partition) (v : Saved) (p : Plan) (i core : Nat) : Bool :=
  let mine := claimCores v i core
  let taken := s.eng.matrix.map (·.core) ++ p.places.flatMap fun x => claimCores v x.index x.core
  let here := i :: (p.places.filter fun x => decide (x.core = core)).map (·.index)
  (mine.all fun c => !taken.contains c) &&
  (decide (mine.length ≤ 1) || (decide (core % 2 = 0) && q.cores.getLsbD (core + 1))) &&
  decide ((v.bins.filter fun b => here.contains (binParty b)).length +
    (s.eng.bins.filter fun b => decide (b.core = core)).length ≤ 16)

/-- What a pre-empted task is placed for (R128, R282). -/
def placeAgain (s : State) (q : Partition) (t : Task) : PlaceFor :=
  { s := s, q := q, t := t, adm := t.tract, former := formerPlace t,
    parties := match t.saved with
      | some v => v.places.map (·.index)
      | none => List.range t.nparty
    coreOk := match t.saved with
      | some v => restoreCoreOk s q v
      | none => fun _ _ _ => true }

/-- A placement of a pre-empted task, whose regions keep their addresses, with the kept regions dropped that it needs
the granules of (R91, R282): the state after the drops, and the plan. -/
def restorePlan (c : Chooser) (s : State) (q : Partition) (t : Task) : Option (State × Plan) :=
  let place := fun (c : Chooser) (ds : List Kept) => (placeAgain s q t).place c (withoutKept s.sram.owners ds) t.bases
  (neededDrops (fun ds => (place .first ds).isSome) (s.kept.filter fun k => decide (k.part = t.part))).bind fun ds =>
    (place c ds).map fun p => (ds.foldl dropKept s, p)

/-- Whether a task could be admitted now (R260). -/
def fits (s : State) (t : Task) : Bool :=
  match findPart s t.part with
  | some q =>
    if t.saved.isSome then (restorePlan .first s q t).isSome
    else (blockFor s q t).isSome && (admitPlan .first q t s).isSome
  | none => false

/-- The task a tract scheduler admits next: the first of its queue that fits and is not kept out. -/
def nextAdmitted (s : State) (tract part : Nat) : Option Task :=
  (queueOf s tract part).find? fun t => !blockedOut s t && fits s t

/-! ### Code instances (R303) -/

/-- Replace `n` bits of a word from bit `lo`. -/
def setBits (w : Word) (lo n v : Nat) : Word :=
  (w &&& ~~~(BitVec.ofNat 32 ((2 ^ n - 1) * 2 ^ lo))) ||| BitVec.ofNat 32 (v % 2 ^ n * 2 ^ lo)

/-- The address a relocation resolves to. -/
def relocValue (bases : List (Option Nat)) (record addend : Nat) : Nat :=
  ((bases.getD record none).getD 0 + addend) % 2 ^ 32

/-- Set one region relocation of an image at `dpa`: the `IMM` word takes the upper 26 bits and the next
word's immediate field the lower six. -/
def relocateCode (bases : List (Option Nat)) (dpa : Nat) (m : Cells 8) (r : CodeReloc) : Cells 8 :=
  let v := relocValue bases r.record r.addend
  let a := dpa + 4 * r.word
  let hi := setBits (wordAt m a) 0 26 (v / 64)
  let lo := setBits (wordAt m (a + 4)) r.lo 6 v
  cellSetAll m (addressed a (bytesOfNat 4 hi.toNat) ++ addressed (a + 4) (bytesOfNat 4 lo.toNat))

/-- The addresses of a task's regions that an instance depends on. -/
def instanceBases (bases : List (Option Nat)) : List Nat := bases.map (·.getD 0)

/-- The bursts of an object's image, which are read when an instance is formed. -/
def imageBursts (o : Object) : List Nat :=
  (List.range ((o.dpa + 4 * o.words + 63) / 64 - o.dpa / 64)).map fun k => o.dpa / 64 + k

/-- The bursts that a new instance of an object fills. -/
def instanceBursts (o : Object) (dpa : Nat) : List Nat := (List.range ((4 * o.words + 63) / 64)).map fun k => dpa / 64 + k

/-- The code instance of a task placed at some addresses: one that exists, or a new one. The image is read and the
instance written burst by burst, each an activation (R66), and each read's error report is counted; the device takes the words as they come (R68; log entry 70). -/
def formInstance (s : State) (t : Task) (bases : List (Option Nat)) : State × Option Nat :=
  match objectOf s t.object with
  | none => (s, none)
  | some o =>
    match s.instances.find? fun i => decide (i.object = o.handle) && decide (i.tnum = t.tnum) &&
        decide (i.bases = instanceBases bases) with
    | some i => (s, some i.id)
    | none =>
      let (id, s1) := freshId s
      let dpa := Config.instanceAt id * 64
      let d := (imageBursts o).foldl (fun d b => readNormal d (b * 64)) s1.dram
      let d := (instanceBursts o dpa).foldl (fun d b => activateNormal d (b * 64)) d
      let m := cellSetAll d.mem (addressed dpa (bytesAt d.mem o.dpa (4 * o.words)))
      let m := t.decl.relocs.foldl (relocateCode bases dpa) m
      let i : Instance := { id := id, object := o.handle, tnum := t.tnum, part := t.part, bases := instanceBases bases,
                            pcBase := o.pcBase, words := o.words, dpa := dpa }
      ({ s1 with dram := { d with mem := m }, instances := s1.instances ++ [i] }, some id)

/-- Whether the image of a task's object holds a burst with an uncorrectable error that forming a new instance would
read. -/
def imageBad (s : State) (t : Task) (inst : Option Nat) : Bool :=
  match objectOf s t.object with
  | none => false
  | some o => !(s.instances.any fun i => decide (some i.id = inst)) &&
      (imageBursts o).any fun b => decide (reportOf s.dram b = .uncorrectable)

/-! ### `TASK_ADMISSION` (R260) -/

/-- The bursts of the far range of region record `record`, requested by a core. -/
def rangeBursts (record core far n : Nat) : List Xfer :=
  (List.range ((n + 63) / 64)).map fun k =>
    { core := core, va := far + 64 * k, len := min 64 (n - 64 * k), write := false, data := [], state := .todo,
      record := record }

/-- The core whose staging front end serves a region. -/
def stagingCore (t : Task) (k : Nat) : Nat :=
  match t.bases.getD k none with
  | some a => sliceOf a
  | none => ((t.places.head?).map (·.core)).getD 0

/-- Whether a region is read by staging: an adopted one is not copied again (R89, R91). -/
def isStaged (ad : List (Option Kept)) (k : Nat) (r : Region) : Bool :=
  r.reads && decide (r.kind ≠ .dram) && decide (ad.getD k none = none)

/-- The core whose staging front end reads tables for a tract: that of the task's first party there. -/
def tableCore (t : Task) (tract : Nat) : Nat :=
  ((t.places.find? fun x => decide (tractOf x.core = tract)).map (·.core)).getD 0

/-- The bursts that staging reads: a table's image is read by each tract that holds a party of the task (R75). -/
def stagingXfers (t : Task) (ad : List (Option Kept)) : List Xfer :=
  (t.decl.regions.mapIdx fun k r => (k, r)).flatMap fun x =>
    if !isStaged ad x.1 x.2 then []
    else if x.2.kind = .table then (tractsOf t).flatMap fun c => rangeBursts x.1 (tableCore t c) x.2.far x.2.farBytes
    else rangeBursts x.1 (stagingCore t x.1) x.2.far x.2.farBytes

/-- Request the translation of one page, unless the tract's cache has it (R260, R284). -/
def askPage (x : Xlate) (tract pasid page : Nat) (write : Bool) : Xlate :=
  if x.caches.any fun e => entryHits e (.tract tract) pasid (page * 4096) write then x
  else askAts x tract pasid page write

/-- Request the translation of every page of a region (R260, R284): a fabric address is never translated locally, and a
task-shared region with neither IN nor OUT has no range (R304). -/
def askRegion (x : Xlate) (tract pasid : Nat) (r : Region) : Xlate :=
  if isFabric r.far ∨ (r.kind = .shared ∧ !r.reads ∧ !r.writes) then x
  else
    (List.range ((r.farBytes + 4095) / 4096)).foldl (fun x k =>
      let p := pageOf r.far + k
      let x := if r.reads || !r.writes then askPage x tract pasid p false else x
      if r.writes then askPage x tract pasid p true else x) x

/-- Request the translations of all regions of a task. -/
def askRegions (x : Xlate) (q : Partition) (t : Task) : Xlate :=
  t.decl.regions.foldl (fun x r => askRegion x t.tract q.pasid r) x

/-- Admit a task with a plan. A kept region that its own record matches is adopted even where its hamper can also write
the range: R91 would have it dropped as well as adopted, and the model takes adoption first (log
entry 33). -/
def admitTask (s : State) (q : Partition) (t : Task) (ad : List (Option Kept)) (p : Plan) (block : Option Nat) : State :=
  let (s1, inst) := formInstance s t p.bases
  let t1 := { t with state := .admitted, blocking := false, places := p.places, bases := p.bases,
                     adopted := (List.range ad.length).filter fun k => (ad.getD k none).isSome,
                     reserves := p.reserves, block := block, inst := inst }
  let t2 := { t1 with xfers := stagingXfers t1 ad }
  let s2 := putTask { setOwners s1 p.owners with xlate := askRegions s1.xlate q t } t2
  let s3 := { s2 with kept := s2.kept.filter fun k => !ad.contains (some k) }
  let s4 := dropKeptWhere s3 t.part fun k => canWrite t.decl k.far k.farBytes
  if imageBad s t inst then stopWith s4 t.uid (uncorrectable 0 (BitVec.allOnes 32) 0 0) else s4

/-- `TASK_ADMISSION`: the first task of its tract's queue that fits is placed whole, at the runs the event
names. -/
def execTaskAdmission (task : Nat) (place : Placement) (s : State) : Host.Outcome State Fault Refusal :=
  .next (match findTask s task with
    | some t =>
      if t.state = .released ∧ t.saved.isNone ∧ (nextAdmitted s t.tract t.part).map (·.uid) = some task then
        match findPart s t.part with
        | some q =>
          match blockFor s q t, admitPlan (.given place.runs) q t s with
          | some b, some r =>
            if r.2.2.made.length = place.runs.length then admitTask r.1 q t r.2.1 r.2.2 b else s
          | _, _ => s
        | none => s
      else s
    | none => s)

/-! ### `BLOCKING_TASK`, `CLASS_PREEMPTION` and `TASK_STEAL` (R262) -/

/-- Cycles of 1 ms at the full clock (R2). -/
def blockingCycles : Nat := 1300000
/-- Cycles of 100 µs at the full clock. -/
def preemptionCycles : Nat := 130000

/-- Whether a task may become its partition's blocking task for its class. -/
def mayBlock (s : State) (t : Task) : Bool :=
  awaits t && !t.blocking && decide (t.releasedAt + blockingCycles ≤ s.now) &&
    !(s.tasks.any fun b => b.blocking && awaits b && decide (b.part = t.part) && decide (b.cls = t.cls) &&
      decide (b.handle < t.handle))

/-- `BLOCKING_TASK`: an older task takes the place of a younger one of its class. -/
def execBlockingTask (task : Nat) (s : State) : Host.Outcome State Fault Refusal :=
  .next (match findTask s task with
    | some t =>
      if mayBlock s t then
        { s with tasks := s.tasks.map fun b =>
            if b.part = t.part ∧ b.cls = t.cls then { b with blocking := decide (b.uid = task) } else b }
      else s
    | none => s)

/-- The size of a context: threads, scratch bytes and pending items. -/
def contextSize (s : State) (t : Task) : Nat :=
  let threads := ((s.groups.filter fun g => decide (g.task = t.uid)).map fun g => g.lanes.length).sum
  let items := (s.sram.entries.filter fun e => decide (domTask e.dom = t.uid)).length +
    (s.sram.accums.filter fun x => decide (domTask x.dom = t.uid)).length +
    (s.sram.offers.filter fun o => decide (o.task = t.uid)).length
  Config.contextBytes threads ((heldPlaces s t).length * t.decl.scratch) items

/-- The size of a context that has been saved. -/
def savedSize (t : Task) (v : Saved) : Nat :=
  Config.contextBytes (v.groups.map fun g => g.lanes.length).sum (v.places.length * t.decl.scratch)
    (v.entries.length + v.accums.length + v.offers.length)

/-- The bytes of a partition's context area that hold contexts already. -/
def contextsHeld (s : State) (part : Nat) : Nat :=
  ((s.tasks.filter fun t => decide (t.part = part)).map fun t => (t.saved.map (savedSize t)).getD 0).sum

/-- Whether the partition's context area can hold the context of a task beside those it holds (R281). -/
def contextFits (s : State) (t : Task) : Bool :=
  match findPart s t.part with
  | some q => decide (contextsHeld s t.part + contextSize s t ≤ q.ctxSize)
  | none => false

/-- A task that may be told to save its context: one that runs. Whether class pre-emption reaches a task that is admitted and
still being staged R262 does not say, and the model passes it over (log entry 112). -/
def maySave (s : State) (t : Task) : Bool :=
  decide (t.state = .running) && t.stop.isNone && !t.saving && contextFits s t

/-- The youngest admitted task of a partition whose class is numerically above `c`. -/
def youngestAbove (s : State) (part c : Nat) : Option Task :=
  (s.tasks.filter fun t => maySave s t && decide (t.part = part) && decide (c < t.cls)).foldl (fun best t =>
    match best with
    | some b => if b.handle < t.handle then some t else some b
    | none => some t) none

/-- Whether a task of a partition is saving its context. -/
def savingIn (s : State) (part : Nat) : Bool := s.tasks.any fun t => decide (t.part = part) && t.saving

/-- `CLASS_PREEMPTION`: a task that has waited 100 µs makes the youngest task of a lower class save its
context; the scheduler goes on, one task after another, until the task fits. -/
def execClassPreemption (task : Nat) (s : State) : Host.Outcome State Fault Refusal :=
  .next (match findTask s task with
    | some t =>
      if awaits t ∧ t.releasedAt + preemptionCycles ≤ s.now ∧ !fits s t ∧ !savingIn s t.part then
        match youngestAbove s t.part t.cls with
        | some v => modTask s v.uid fun v => { v with saving := true }
        | none => s
      else s
    | none => s)

/-- Whether a tract has free capacity for a partition: the spec gives no measure, and the model takes a free thread slot
of the partition's share on one of its cores (R262; log entry 102). -/
def tractCapacity (s : State) (q : Partition) (tract : Nat) : Bool :=
  (coresOf q).any fun c => decide (tractOf c = tract) && decide (0 < slotsLeft s q c)

/-- The task a tract steals for a partition: the oldest released task of the highest class of the first
tract in order that has one. -/
def stealable (s : State) (tract part : Nat) : Option Task :=
  (tractOrder tract).findSome? fun x => (queueOf s x part).head?

/-- Whether a tract scheduler steals for a partition: it has capacity and no task of its own that it could admit. One that
fits but that a blocking task keeps out does not count: the model's choice (log entry 102). -/
def maySteal (s : State) (tract part : Nat) : Bool :=
  match findPart s part with
  | some q => decide (tract < 8) && tractCapacity s q tract && (nextAdmitted s tract part).isNone
  | none => false

/-- `TASK_STEAL`. -/
def execTaskSteal (tract task : Nat) (s : State) : Host.Outcome State Fault Refusal :=
  .next (match findTask s task with
    | some t =>
      if maySteal s tract t.part ∧ (stealable s tract t.part).map (·.uid) = some task then
        modTask s task fun t => { t with tract := tract }
      else s
    | none => s)

/-! ### Bursts of staging and write-back -/

/-- The client of a task's staging or write-back burst. -/
def xferClient (s : State) (t : Task) (x : Xfer) (n : Nat) : Client :=
  let q := (findPart s t.part).getD default
  { part := t.part, pasid := q.pasid, dom := q.dom, handle := t.handle, core := x.core,
    front := .staging x.core, req := t.uid, n := n }

/-- Set the state of burst `n` of a task's staging or write-back. An uncorrectable error stops the task with kind 0x0B as
well (R280); no lane consumes it, so `STEP` is 0, `TID0` all ones and `PC` 0 (log entry 28). -/
def setXfer (s : State) (uid n : Nat) (st : BurstState) : State :=
  let s1 := modTask s uid fun t => { t with xfers := t.xfers.modify n fun x => { x with state := st } }
  if st = .failed 0x03 then stopWith s1 uid (uncorrectable 0 (BitVec.allOnes 32) 0 0) else s1

/-- Send one burst on its way. -/
def sendXfer (t : Task) (s : State) (y : Nat × Xfer) : State :=
  let r := farBurst s (xferClient s t y.2 y.1) (if y.2.write then some y.2.data else none) y.2.va y.2.len
  setXfer r.1 t.uid y.1 r.2

/-- Whether burst `n` of a task may be sent. Reads go at once; a write goes once every burst before it has been accepted
or has failed, so regions are written back in record order and in ascending addresses (R90). -/
def xferSends (t : Task) (n : Nat) (x : Xfer) : Bool :=
  toSend x.state && (!x.write || (t.xfers.take n).all fun y =>
    match y.state with
    | .accepted | .failed _ => true
    | _ => false)

/-- The bursts of a task that may be sent now. -/
def sendable (t : Task) : List (Nat × Xfer) :=
  (t.xfers.mapIdx fun n x => (n, x)).filter fun y => xferSends t y.1 y.2

/-- Send every burst that may be sent. -/
def sendXfers (s : State) (t : Task) : State := (sendable t).foldl (sendXfer t) s

/-- Whether a burst has failed. -/
def xferFailed (x : Xfer) : Bool :=
  match x.state with
  | .failed _ => true
  | _ => false

/-- Whether a burst has come to its end: a write once its queue has accepted it (R90), a read once it has left the queue with
its data. -/
def xferDone (s : State) (uid n : Nat) (x : Xfer) : Bool :=
  match x.state with
  | .failed _ | .accepted => true
  | .got _ => !inQueue s uid n
  | _ => false

/-- Whether every burst of a task has come to its end. -/
def xfersDone (s : State) (t : Task) : Bool := (t.xfers.mapIdx fun n x => xferDone s t.uid n x).all id

/-! ### `TASK_STAGING` (R75, R89, R269, R304) -/

/-- The conversion of R94 from one format to another; 0 where they are equal. -/
def convBetween (src dst : Ty) : Nat :=
  if src = dst then 0
  else if src = .f32 then (if dst = .bf16 then 1 else 3)
  else if src = .bf16 then 2
  else if src = .e4m3 then 4
  else 5

/-- Convert a list of bytes element by element. -/
def convBytes (conv : Nat) (bs : List Byte) : List Byte :=
  let z := (convSizes conv).1
  (List.range (bs.length / z)).flatMap fun k =>
    bytesOfNat (convSizes conv).2 (convElem conv (natOfBytes ((bs.drop (z * k)).take z)))

/-- The bytes the staging front end of a core has read of the far range of region record `record`. -/
def stagedBytes (t : Task) (record core far n : Nat) : List Byte :=
  (List.range ((n + 63) / 64)).flatMap fun k =>
    match t.xfers.find? fun x => decide (x.record = record) && decide (x.core = core) && decide (x.va = far + 64 * k) && !x.write with
    | some x =>
      match x.state with
      | .got d => d.take (min 64 (n - 64 * k))
      | _ => []
    | none => []

/-- The sectors of a range in which a symbol is in error. -/
def errorsIn (s : State) (a n : Nat) : List Nat :=
  (s.sram.flips.map (·.1.1)).dedup.filter fun x => decide (sectorOf a ≤ x) && decide (x * 32 < a + n)

/-- The sectors of a range that cannot be decoded. -/
def badIn (s : State) (a n : Nat) : List Nat := (errorsIn s a n).filter (sectorBad s)

/-- The sectors and presence bits of a range of a slice are written: an uncorrectable sector is counted, no error stands
in them, and no earlier byte is kept for a load (R89, R125, R135, R160). -/
def freshRange (s : State) (a n : Nat) (m : Cells 8) : State :=
  let s := (badIn s a n).foldl countBad s
  { s with
    sram.mem := m
    sram.flips := s.sram.flips.filter fun e => !(decide (sectorOf a ≤ e.1.1) && decide (e.1.1 * 32 < a + n))
    sram.undo := s.sram.undo.filter fun u => !(decide (a ≤ u.addr) && decide (u.addr < a + n))
    sram.copies := s.sram.copies.filter fun e => match e with
      | .presence l _ _ => !(decide (lineOf a ≤ l) && decide (l * 128 < a + n))
      | .tag _ _ _ => true }

/-- Write bytes over whole sectors of a slice that nothing reads yet. -/
def stageWrite (s : State) (a : Nat) (bs : List Byte) : State :=
  freshRange s a bs.length (cellSetAll s.sram.mem (addressed a bs))

/-- Fill a range of a slice with zero. -/
def stageZero (s : State) (a n : Nat) : State := freshRange s a n (cellsClear s.sram.mem a n)

/-- On whose behalf staging writes into a sector: no lane and no sequence (log entry 28). -/
def stagingWho (t : Task) : Who := { task := t.uid, step := 0, tid := BitVec.allOnes 32, pc := 0 }

/-- Write bytes that do not fill their sectors, under the bank code (R135). -/
def stagePart (t : Task) (s : State) (a : Nat) (bs : List Byte) : State :=
  guardedWrite s (stagingWho t) none (addressed a bs)

/-- Write the addresses of a region's relocated words (R89, R304). -/
def stageRelocs (t : Task) (a : Nat) (r : Region) (s : State) : State :=
  r.relocs.foldl (fun s x => stagePart t s (a + x.1) (bytesOfNat 4 (relocValue t.bases x.2.1 x.2.2))) s

/-- Stage region record `k`. -/
def stageRegion (t : Task) (s : State) (x : Nat × Region) : State :=
  match t.bases.getD x.1 none with
  | none => s
  | some a =>
    if t.adopted.contains x.1 then s
    else if x.2.reads then
      stageRelocs t a x.2 (stageWrite s a (convBytes (convBetween x.2.dfmt x.2.sfmt)
        (stagedBytes t x.1 (stagingCore t x.1) x.2.far x.2.farBytes)))
    else stageZero s a x.2.size

/-- The launch arguments overlay the start of record 0's region (R269). -/
def stageArgs (t : Task) (s : State) : State :=
  match t.args, t.bases.head? with
  | some ws, some (some a) => stagePart t s a (ws.flatMap fun w => bytesOfNat 4 w.toNat)
  | _, _ => s

/-- Write one table into the replica of a core: every row is activated once (R67, R73 to R75). The spec does not say
whether placement clears an error report of a burst: the model keeps it (log entry 71). -/
def placeReplica (now block k : Nat) (bs : List Byte) (d : Dram) (core : Nat) : Dram :=
  let d := { d with tableRows := cellSetAll d.tableRows (bs.mapIdx fun o b => (tableDpa core block k o, b)) }
  (List.range ((bs.length + 1023) / 1024)).foldl (fun d r =>
    activateTableRow now d (tableBank core block k) (firstTableRow + 16 * block + r)) d

/-- The cores of a tract. -/
def tractCores (tract : Nat) : List Nat := (List.range 64).map fun c => tract * 64 + c

/-- Place every table of a task on its tracts. -/
def placeTables (t : Task) (s : State) : State :=
  match t.block with
  | none => s
  | some b =>
    ((t.decl.regions.mapIdx fun k r => (k, r)).filter fun x => decide (x.2.kind = .table)).foldl (fun s x =>
      { s with dram := (tractsOf t).foldl (fun d c =>
          (tractCores c).foldl (placeReplica s.now b x.2.tbl
            (stagedBytes t x.1 (tableCore t c) x.2.far x.2.farBytes)) d) s.dram }) s

/-- The threads of group `n` of a party as they start (R22, R188). -/
def groupThreads (t : Task) (party n : Nat) : List Thread :=
  (List.range (min t.decl.width (t.decl.partySize - n * t.decl.width))).map fun l =>
    let i := n * t.decl.width + l
    newThread (BitVec.ofNat 32 (party * t.decl.partySize + i)) i t.decl.trap

/-- Start the groups of a party. -/
def startParty (t : Task) (s : State) (x : PartyPlace) : State :=
  (List.range ((t.decl.partySize + t.decl.width - 1) / t.decl.width)).foldl (fun s n =>
    newGroup s t.uid x.index x.core t.decl.width none false (groupThreads t x.index n) t.decl.entry []) s

/-- Staging is complete: scratch is zero, tables and regions are placed, and the first instruction may
issue. -/
def startTask (s : State) (t : Task) : State :=
  let s1 := t.places.foldl (fun s x => stageZero s (x.core * 2 ^ 23 + x.base) t.decl.scratch) s
  let s2 := placeTables t ((t.decl.regions.mapIdx fun k r => (k, r)).foldl (stageRegion t) s1)
  let s3 := modTask (stageArgs t s2) t.uid fun t =>
    { t with state := .running, xfers := [], replicas := if t.block.isSome then tractsOf t else [] }
  t.places.foldl (startParty t) s3

/-- `TASK_STAGING`: bursts are sent; once all have come the task starts, or ends with code 0x21 when one
has failed. -/
def execTaskStaging (task : Nat) (s : State) : Host.Outcome State Fault Refusal :=
  .next (match findTask s task with
    | some t =>
      if t.state = .admitted ∧ t.stop.isNone then
        if xfersDone s t then
          if t.xfers.any xferFailed then endStopped s t 0 0x21 else startTask s t
        else sendXfers s t
      else s
    | none => s)

end Sys2Proof.Machine
end

