-- ==== Sys2Proof/Machine/Convert.lean ====
section
/-!
DEFINITION. Conversion, stochastic rounding and packing, majors 0x17 to 0x1C (R214 to R218).
-/

namespace Sys2Proof.Machine

open Sys2Proof

/-- An integer as an exact value. -/
def valueOfInt (x : Int) : FVal := .fin (decide (x < 0)) x.natAbs 0

/-- The conversion of R215: the destination pattern of `tyBits dst` bits and the flags. -/
def convert (m : ModWord) (dst src : Ty) (b : Nat) : Nat × Word :=
  match fmtOf src, fmtOf dst with
  | some fs, some fd =>
    let x := (fs.value (signMod fs m.aa m.na b)).scale (sclOf m)
    roundTo fd (modeOf m .rne) x
  | some fs, none =>
    let x := (fs.value (signMod fs m.aa m.na b)).scale (sclOf m)
    let r := floatToInt (modeOf m .rtz) dst x
    (wrapInt (tyBits dst) r.1, r.2)
  | none, some fd => roundTo fd (modeOf m .rne) (valueOfInt (intOf src b))
  | none, none =>
    let x := intOf src b
    (wrapInt (tyBits dst) (if m.sat = 0 then x else clampInt (tySigned dst) (tyBits dst) x), fNone)

/-- A converted pattern as it is written to a register (R214): narrow integers are extended, narrow
floats stand in the low bits with zero above. -/
def placed (t : Ty) (b : Nat) : Word :=
  if tySigned t then BitVec.ofInt 32 (sextInt b (tyBits t)) else BitVec.ofNat 32 b

/-- `CVT` (R214, R215). -/
def execCvt (d a : BitVec 6) (src : Ty) (gd : Guard) (ty : Ty) (s : State) :
    Host.Outcome State Fault Refusal :=
  laneOp gd false (fun g p l =>
    let b := if src.size = 8 then pairA g p false a l
      else (opA g p false a l).toNat % 2 ^ tyBits src
    let r := convert (modOf p) ty src b
    if ty.size = 8 then out2 d r.1 r.2 else { regs := [(d.toNat, placed ty r.1)], flags := r.2 }) s

/-- `CVTSR` (R216): the random word depends on the seed, the coordinate and the lane alone. -/
def execCvtsr (d a b : BitVec 6) (gd : Guard) (ty : Ty) (s : State) :
    Host.Outcome State Fault Refusal :=
  laneOp gd false (fun g p l =>
    let m := modOf p
    let x := (f32.value (signMod f32 m.aa m.na (opA g p false a l).toNat)).scale (sclOf m)
    let w := rotl (rword (sreg p b.toNat) (sreg p (b.toNat + 1)) (BitVec.ofNat 32 (l / 32))) l
    let r := roundTo ((fmtOf ty).getD f16) (.sr w) x
    { regs := [(d.toNat, BitVec.ofNat 32 r.1)], flags := r.2 }) s

/-- One element of `PACK8` or `PACK4` (R217, R218): binary32 rounded to a float type, or an `I32`
clamped to the range of an integer type without a flag. -/
def packElem (m : ModWord) (ty : Ty) (x : Word) : Nat × Word :=
  match fmtOf ty with
  | some f => roundTo f (modeOf m .rne) (f32.value x.toNat)
  | none => (wrapInt (tyBits ty) (clampInt (tySigned ty) (tyBits ty) x.toInt), fNone)

/-- Elements packed from the lowest bits up, with the union of their flags. -/
def packAll (m : ModWord) (ty : Ty) (xs : List Word) : Nat × Word :=
  let es := xs.map (packElem m ty)
  ((es.mapIdx fun k e => e.1 * 2 ^ (tyBits ty * k)).sum, es.foldl (fun f e => f ||| e.2) 0)

/-- `PACK8` (R217). -/
def execPack8 (d a b : BitVec 6) (gd : Guard) (ty : Ty) (s : State) :
    Host.Outcome State Fault Refusal :=
  laneOp gd false (fun g p l =>
    let r := packAll (modOf p) ty [opA g p false a l, opA g p false a l 1,
      opB g p false (.reg b) l, opB g p false (.reg b) l 1]
    { regs := [(d.toNat, BitVec.ofNat 32 r.1)], flags := r.2 }) s

/-- `PACK4` (R218). -/
def execPack4 (d a b : BitVec 6) (gd : Guard) (ty : Ty) (s : State) :
    Host.Outcome State Fault Refusal :=
  laneOp gd false (fun g p l =>
    let r := packAll (modOf p) ty ((List.range 4).map (fun k => opA g p false a l k) ++
      (List.range 4).map fun k => opB g p false (.reg b) l k)
    { regs := [(d.toNat, BitVec.ofNat 32 r.1)], flags := r.2 }) s

/-- The elements of a word widened into registers from D upward (R80, R217, R218). -/
def unpack (d a : BitVec 6) (ty : Ty) (n : Nat) (gd : Guard) (s : State) :
    Host.Outcome State Fault Refusal :=
  laneOp gd false (fun g p l =>
    let x := (opA g p false a l).toNat
    { regs := (List.range n).map fun k => (d.toNat + k, widen ty (x / 2 ^ (tyBits ty * k) % 2 ^ tyBits ty)),
      flags := 0 }) s

/-- `UNPK8` (R217). -/
def execUnpk8 (d a : BitVec 6) (gd : Guard) (ty : Ty) (s : State) :
    Host.Outcome State Fault Refusal :=
  unpack d a ty 4 gd s

/-- `UNPK4` (R218). -/
def execUnpk4 (d a : BitVec 6) (gd : Guard) (ty : Ty) (s : State) :
    Host.Outcome State Fault Refusal :=
  unpack d a ty 8 gd s

end Sys2Proof.Machine
end

