-- ==== Sys2Proof/Machine/TaskEvents.lean ====
section
/-!
DEFINITION. How a task leaves its cores: retirement with write-back (R90, R91), the stop (R277), and
pre-emption and restore (R102, R122, R128, R238, R253, R281, R282).
-/

namespace Sys2Proof.Machine

open Sys2Proof

/-! ### `TASK_RETIREMENT` (R90, R91) -/

/-- Whether anything of a task is still under way in its slices, engines or children (R90, R101, R121). -/
def taskBusy (s : State) (uid : Nat) : Bool :=
  decide (taskThreads s uid (fun _ => true) ≠ 0) ||
  (s.groups.any fun g => decide (g.task = uid)) ||
  (s.tasks.any fun c => decide (c.parent = some uid) && isLive c) ||
  (s.sram.offers.any fun o => decide (o.task = uid)) ||
  (s.sram.entries.any fun e => decide (domTask e.dom = uid)) ||
  (s.sram.clears.any fun c => decide (domTask c.dom = uid)) ||
  (s.eng.copies.any fun c => decide (c.head.task = uid)) ||
  (s.eng.bulks.any fun b => decide (b.head.task = uid)) ||
  (s.eng.drains.any fun d => decide (d.head.task = uid)) ||
  (s.eng.queries.any fun q => decide (q.task = uid))

/-- Whether a task meets the conditions of R90 but for its write-back. -/
def mayRetire (s : State) (t : Task) : Bool :=
  decide (t.state = .running) && t.stop.isNone && !t.saving && !taskBusy s t.uid

/-- The regions a task writes back, with their SRAM addresses, in record order. -/
def outRegions (t : Task) : List (Region × Nat) :=
  (t.decl.regions.mapIdx fun k r => (k, r)).filterMap fun x =>
    if x.2.stageOut then (t.bases.getD x.1 none).map fun a => (x.2, a) else none

/-- The bursts that write one region back, in ascending address order. -/
def writeBackRegion (s : State) (x : Region × Nat) : List Xfer :=
  let bs := convBytes (convBetween x.1.sfmt x.1.dfmt) (bytesAt s.sram.mem x.2 x.1.size)
  (List.range ((bs.length + 63) / 64)).map fun k =>
    { core := sliceOf x.2, va := x.1.far + 64 * k, len := min 64 (bs.length - 64 * k), write := true,
      data := (bs.drop (64 * k)).take 64, state := .todo }

/-- Begin the write-back: the regions are read through the bank code, and a sector that cannot be decoded
stops the task (R135). Write-back has no lane and no sequence: `FREC` takes `STEP` 0, `TID0` all ones and `PC` 0 (log
entry 28). -/
def beginWriteBack (s : State) (t : Task) : State :=
  let secs := (outRegions t).flatMap fun x => sectorRange x.2 x.1.size
  match secs.find? fun x => sectorBad s x with
  | some x => stopBad s { task := t.uid, step := 0, tid := BitVec.allOnes 32, pc := 0 } x
  | none =>
    let s1 := secs.foldl readSector s
    let t1 := { t with xfers := (outRegions t).flatMap (writeBackRegion s1) }
    sendXfers (putTask s1 t1) t1

/-- The kept records of a retiring task. -/
def keptOf (t : Task) : List Kept :=
  (t.decl.regions.mapIdx fun k r => (k, r)).filterMap fun x =>
    if x.2.keep then
      (t.bases.getD x.1 none).map fun a =>
        { part := t.part, far := x.2.far, size := x.2.size, kind := x.2.kind, sfmt := x.2.sfmt,
          dfmt := x.2.dfmt, base := a }
    else none

/-- Tag the granules of a kept region. -/
def tagKept (owners : List (Nat × Owner)) (k : Kept) : List (Nat × Owner) :=
  tagGranules owners k.base (granules k.size) (.kept k.part k.far)

/-- The task retires: written-back ranges drop kept regions that overlap them, its own kept regions keep
their granules, and everything else is freed. Its code instance stays with its kept regions (R303). -/
def finishTask (s : State) (t : Task) : State :=
  let s1 := (outRegions t).foldl (fun s x =>
    dropKeptWhere s t.part fun k => rangesMeet k.far k.farBytes x.1.far x.1.farBytes) s
  let ks := keptOf t
  let s2 := { setOwners s1 (ks.foldl tagKept s1.sram.owners) with kept := s1.kept ++ ks }
  pruneInstances (retire s2 t (if t.xfers.any xferFailed then 0x23 else 0))

/-- `TASK_RETIREMENT`: write-back begins, goes on, and ends with the task. -/
def execTaskRetirement (task : Nat) (s : State) : Host.Outcome State Fault Refusal :=
  .next (match findTask s task with
    | some t =>
      if mayRetire s t then
        if t.xfers.isEmpty ∧ !(outRegions t).isEmpty then beginWriteBack s t
        else if xfersDone s t then finishTask s t
        else sendXfers s t
      else s
    | none => s)

/-! ### `TASK_STOP` (R277) -/

/-- The live threads of a group in a stop report, each at the sequence of its path. -/
def groupReports (s : State) (g : Group) : List ThreadReport :=
  let tag := g.handler.map fun id => ((findBulk s id).map (·.tag)).getD 0
  g.paths.flatMap fun p => (lanesOf p.exec).map fun l => threadReport (laneOf g l) (seqStart p) tag

/-- The threads of a bin in a stop report. -/
def binReports (s : State) (t : Task) (b : Bin) : List ThreadReport :=
  match b.key with
  | .reform _ _ pc => b.threads.map fun x => threadReport x pc none
  | .handler _ _ id =>
    match findBulk s id with
    | some k => b.threads.map fun x => threadReport x (handlerEntry t k.hnd) (some k.tag)
    | none => []

/-- The stop report of a task, on its cores or in its saved context: every thread of it has a line, those that have exited
too (R277). -/
def stopReport (s : State) (t : Task) : StopReport :=
  let gs := (s.groups.filter fun g => decide (g.task = t.uid)) ++ (t.saved.map (·.groups)).getD []
  let bs := (s.eng.bins.filter fun b => decide (binTask b = t.uid)) ++ (t.saved.map (·.bins)).getD []
  { part := t.part, handle := t.handle, frec := t.frec,
    threads := t.exited ++ gs.flatMap (groupReports s) ++ bs.flatMap (binReports s t) }

/-- Whether a line of a drain that has been begun can still be written; its other lines wait on a frontier (R235). -/
def drainGoesOn (s : State) (d : Drain) : Bool := d.begun && d.pieces.any fun x => engineMayWrite s d.head.id x.1

/-- Whether a copy that has begun can still go on: an outbound one does, and an inbound one while a line of it can be
written. Its other lines wait on a frontier that a stop leaves where it stands (R161, R277). -/
def copyGoesOn (s : State) (c : Copy) : Bool := c.begun && (c.outbound || c.lines.any (engineMayWrite s c.head.id))

/-- Whether an engine write of a task has begun and not been completed (R277). The lines of a copy or a drain that wait on a
frontier are requests of their own kind: they have not begun. -/
def writesBegun (s : State) (uid : Nat) : Bool :=
  (s.eng.copies.any fun c => decide (c.head.task = uid) && copyGoesOn s c) ||
  (s.eng.drains.any fun d => decide (d.head.task = uid) && drainGoesOn s d)

/-- The request numbers of a task. -/
def requestsOf (s : State) (uid : Nat) : List Nat :=
  uid :: ((s.eng.copies.filter fun c => decide (c.head.task = uid)).map (·.head.id) ++
    (s.eng.bulks.filter fun b => decide (b.head.task = uid)).map (·.head.id))

/-- Everything of a task goes from slices, engines, queues and cores; the banks its queries held are left to the normal
requests that wait there. -/
def discardTask (s : State) (uid : Nat) : State :=
  let reqs := requestsOf s uid
  let s1 := { s with
    groups := s.groups.filter fun g => decide (g.task ≠ uid)
    sram.offers := s.sram.offers.filter fun o => decide (o.task ≠ uid)
    sram.entries := s.sram.entries.filter fun e => decide (domTask e.dom ≠ uid)
    sram.accums := s.sram.accums.filter fun x => decide (domTask x.dom ≠ uid)
    sram.clears := s.sram.clears.filter fun c => decide (domTask c.dom ≠ uid)
    eng.copies := s.eng.copies.filter fun c => decide (c.head.task ≠ uid)
    eng.bulks := s.eng.bulks.filter fun b => decide (b.head.task ≠ uid)
    eng.drains := s.eng.drains.filter fun d => decide (d.head.task ≠ uid)
    eng.queries := s.eng.queries.filter fun q => decide (q.task ≠ uid)
    eng.bins := s.eng.bins.filter fun b => decide (binTask b ≠ uid)
    eng.matrix := s.eng.matrix.filter fun e => decide (e.claim.1 ≠ uid)
    dram.queues := s.dram.queues.filter fun e => !reqs.contains e.req }
  if s.eng.queries.any fun q => decide (q.task = uid) then issueFree s1 else s1

/-- Hand out the pool entries of every core a task had parties on. -/
def refillCores (s : State) (t : Task) : State := t.places.foldl (fun s x => refillPool s x.core 0) s

/-- The completion code of a stop (R258, R277). -/
def stopCode (kind : Nat) : Nat :=
  if kind = 0x14 then 0x24 else if kind = 0x15 then 0x22 else 0x20

/-- The stop of a task takes place: its report enters the stop log. -/
def stopTask (s : State) (t : Task) (kind : Nat) : State :=
  let r := stopReport s t
  let s1 := refillCores (discardTask { s with mgmt.stopLog := s.mgmt.stopLog ++ [r] } t.uid) t
  endStopped s1 t kind (stopCode kind)

/-- The children of a task that have not ended. -/
def liveChildren (s : State) (uid : Nat) : List Task :=
  s.tasks.filter fun c => decide (c.parent = some uid) && isLive c

/-- Whether every path of a task has stopped issuing: none in the middle of a sequence can go on to its boundary (R277). -/
def pathsStopped (s : State) (uid : Nat) : Bool :=
  s.groups.all fun g => decide (g.task ≠ uid) || !resident s g ||
    g.paths.all fun p => decide (p.pre.rank = 0) || (heldSince p).isSome || !canGo s g p

/-- Whether the stop of a task can go on: its children have all been told to stop and have ended, so that each has made
its completion update (R265), its groups have stopped at a sequence boundary, and the engine writes that have begun are
complete (R277). -/
def stopReady (s : State) (t : Task) : Bool :=
  isLive t && (((liveChildren s t.uid).any fun c => c.stop.isNone) ||
    ((liveChildren s t.uid).isEmpty && pathsStopped s t.uid && !writesBegun s t.uid))

/-- `TASK_STOP`: the children are stopped first; then, once the groups stand at sequence boundaries and the engine writes
that have begun are complete, the stop takes place. -/
def execTaskStop (task : Nat) (s : State) : Host.Outcome State Fault Refusal :=
  .next (match findTask s task with
    | some t =>
      match t.stop with
      | some kind =>
        if !stopReady s t then s
        else if (liveChildren s task).isEmpty then stopTask s t kind
        else stopChildren s task
      | none => s
    | none => s)

/-! ### `PREEMPTION` (R102, R122, R238, R253, R281) -/

/-- Whether a burst of a bulk read is at rest: not requested, failed, or its handler born. One that is to be sent again
has been requested (R122). -/
def burstAtRest (b : Burst) : Bool := decide (b.state = .todo) || isDone b || isFailed b

/-- Whether a path is settled for a save: it stands at a sequence boundary, or it is held or waits in the middle of a
sequence, which it issues again after the restore (R32, R241, R253). An `EXIT` or a `REFORM` that awaits results is such a
wait (R250, R252): the load that it awaits may need a frontier that the stopped threads hold back. -/
def pathSettled (s : State) (g : Group) (p : Path) : Bool :=
  decide (p.pre.rank = 0) || p.park.isSome || (heldSince p).isSome || (nextInstrOf s g p).any (waitsParked s g p)

/-- Whether a line of an engine request waits on a frontier no longer (R97). -/
def lineFree (s : State) (req line : Nat) : Bool :=
  s.sram.clears.any fun c => decide (c.req = req) && decide (c.line = line) && atLeast (frontier s c.dom) (c.step + 1)

/-- Whether a copy is to run to completion before its context is saved: it has begun, and it does not wait on the frontier
with all that is left of it (R102; log entry 88). -/
def copyCompletes (s : State) (c : Copy) : Bool := c.begun && (c.outbound || c.lines.any (lineFree s c.head.id))

/-- Whether the groups and engines of a task are settled for a save. -/
def settledForSave (s : State) (uid : Nat) : Bool :=
  (s.groups.all fun g => decide (g.task ≠ uid) || (g.handler.isNone && g.paths.all (pathSettled s g))) &&
  (s.eng.bins.all fun b => decide (binTask b ≠ uid) || (match b.key with
    | .reform _ _ _ => true
    | .handler _ _ _ => false)) &&
  (s.eng.queries.all fun q => decide (q.task ≠ uid)) &&
  (s.eng.copies.all fun c => decide (c.head.task ≠ uid) || !copyCompletes s c) &&
  (s.eng.bulks.all fun b => decide (b.head.task ≠ uid) || (!b.landed && b.bursts.all burstAtRest)) &&
  (s.eng.drains.all fun d => decide (d.head.task ≠ uid) || !drainGoesOn s d) &&
  (s.eng.matrix.all fun e => decide (e.claim.1 ≠ uid) || e.queue.isEmpty) &&
  (s.sram.offers.all fun o => decide (o.task ≠ uid) || o.req.isNone)

/-- A path at the boundary before the sequence that it stands in, which is the address that a stop reports (R32, R277). -/
def toBoundary (p : Path) : Path := { p with pc := seqStart p, pre := Prefix.none }

/-- A path as it is saved: a wait at issue, on a load or on a `WATCH` issues its sequence again; a `JOIN`
and the advances of a `PACEN` are kept. -/
def savePath (p : Path) : Path :=
  match p.park with
  | some (.join _) => p
  | _ => { toBoundary p with park := none }

/-- A copy as it is saved: its bursts are requested again (R102). -/
def saveCopy (c : Copy) : Copy :=
  let again := fun b : Burst => match b.state with
    | .failed n => if 0x80 ≤ n then b else { b with state := .todo }
    | _ => { b with state := .todo }
  { c with bursts := c.bursts.map again }

/-- Whether an address belongs to a task. -/
def ownedBy (s : State) (uid a : Nat) : Bool :=
  match ownerAt s a with
  | .party t _ => decide (t = uid)
  | .draining t _ => decide (t = uid)
  | .region t _ => decide (t = uid)
  | _ => false

/-- The context of a task: of a party that has ended and freed its granules nothing is left to save (R101, R281). -/
def contextOf (s : State) (t : Task) : Saved :=
  { places := heldPlaces s t
    groups := (s.groups.filter fun g => decide (g.task = t.uid)).map fun g => { g with paths := g.paths.map savePath }
    bins := s.eng.bins.filter fun b => decide (binTask b = t.uid)
    scratch := (heldPlaces s t).map fun x => (x.index, cellsIn s.sram.mem (x.core * 2 ^ 23 + x.base) t.decl.scratch)
    clears := s.sram.clears.filter fun c => decide (domTask c.dom = t.uid)
    undo := s.sram.undo.filter fun u => ownedBy s t.uid u.addr
    offers := s.sram.offers.filter fun o => decide (o.task = t.uid)
    entries := s.sram.entries.filter fun e => decide (domTask e.dom = t.uid)
    accums := s.sram.accums.filter fun x => decide (domTask x.dom = t.uid)
    known := s.sram.known.filter fun k => decide (domTask k.dom = t.uid)
    copies := (s.eng.copies.filter fun c => decide (c.head.task = t.uid)).map saveCopy
    bulks := s.eng.bulks.filter fun b => decide (b.head.task = t.uid)
    drains := s.eng.drains.filter fun d => decide (d.head.task = t.uid)
    engines := s.eng.matrix.filter fun e => decide (e.claim.1 = t.uid) &&
      (heldPlaces s t).any fun x => decide (x.index = e.claim.2) }

/-- Save a task (R281): party granules and reserves are released, those of regions stay held. The task goes back to
Released with its age, to be restored (R255, R262); one that is held for debug stays pre-empted until it is released
(R290). -/
def saveTask (s : State) (t : Task) : State :=
  let v := contextOf s t
  let gone := fun o : Owner => match o with
    | .party u _ => decide (u = t.uid)
    | .draining u _ => decide (u = t.uid)
    | .spill u => decide (u = t.uid)
    | _ => false
  let s1 := refillCores (discardTask s t.uid) t
  let s2 := { s1 with
    sram.known := s1.sram.known.filter fun k => decide (domTask k.dom ≠ t.uid)
    sram.undo := s1.sram.undo.filter fun u => !(v.undo.contains u) }
  putTask (setOwners s2 (freeGranules s2.sram.owners gone))
    { t with state := if t.held then .preempted else .released, places := [], reserves := [], saving := false,
             saved := some v, releasedAt := s.now }

/-- The sectors of a task's scratch in which a symbol is in error. -/
def scratchErrors (s : State) (t : Task) : List Nat :=
  (heldPlaces s t).flatMap fun x => errorsIn s (x.core * 2 ^ 23 + x.base) t.decl.scratch

/-- Save a task whose engines are settled. The scratch is read through the bank code (R134). R135 has no row for the save of
a sector that cannot be decoded: the model stops the task, as a write-back of that sector would (log entries 28 and 83). -/
def saveSettled (s : State) (t : Task) : State :=
  match (scratchErrors s t).find? (sectorBad s) with
  | some x => stopBad s (stagingWho t) x
  | none => saveTask ((scratchErrors s t).foldl readSector s) t

/-- `PREEMPTION`: a running task is told to save its context, and the save takes place when its engines
are settled; when the context area cannot hold the context, the task runs on. -/
def execPreemption (task : Nat) (s : State) : Host.Outcome State Fault Refusal :=
  .next (match findTask s task with
    | some t =>
      if t.state = .running ∧ t.stop.isNone then
        if !contextFits s t then modTask s task fun t => { t with saving := false, held := false }
        else if !t.saving then modTask s task fun t => { t with saving := true }
        else if settledForSave s task then saveSettled s t
        else s
      else s
    | none => s)

/-! ### `RESTORE` (R128, R238, R253, R282) -/

/-- How addresses and cores of a task move: the former and the new place of each party. -/
structure Move where
  size : Nat
  old : List PartyPlace
  new : List PartyPlace

/-- The party whose former granules hold an address. -/
def Move.party (m : Move) (a : Nat) : Option PartyPlace :=
  m.old.find? fun p => decide (p.core * 2 ^ 23 + p.base ≤ a) && decide (a < p.core * 2 ^ 23 + p.base + m.size)

/-- The new place of a party. -/
def Move.to (m : Move) (i : Nat) : PartyPlace := (m.new.find? fun p => decide (p.index = i)).getD default

/-- An absolute address after the move: party scratch moves, regions stay. -/
def Move.addr (m : Move) (a : Nat) : Nat :=
  match m.party a with
  | some p => (m.to p.index).core * 2 ^ 23 + (m.to p.index).base + (a - (p.core * 2 ^ 23 + p.base))
  | none => a

/-- A line after the move. -/
def Move.line (m : Move) (l : Nat) : Nat := lineOf (m.addr (l * 128))

/-- The core of a party after the move; what is left of a party that has ended stays on its former core (log entry 94). -/
def Move.core (m : Move) (i old : Nat) : Nat := ((m.new.find? fun p => decide (p.index = i)).map (·.core)).getD old

/-- The head of a request after the move. -/
def Move.head (m : Move) (h : ReqHead) : ReqHead := { h with core := m.core h.party h.core }

/-- A store after the move. -/
def Move.store (m : Move) (o : Store) : Store := { o with addr := m.addr o.addr, core := m.core o.party o.core }

/-- A frontier value after the move: a party's is known where the party is. -/
def Move.known (m : Move) (k : Known) : Known :=
  match k.dom with
  | .party _ i => { k with slice := m.core i k.slice }
  | .task _ => k

/-- The task frontier, as it was known at each former core, at the new one. -/
def Move.taskKnown (m : Move) (uid : Nat) (ks : List Known) : List Known :=
  m.old.filterMap fun p => (ks.find? fun k => decide (k.dom = .task uid) && decide (k.slice = p.core)).map fun k =>
    { k with slice := m.core p.index p.core }

/-- Join lists of frontier values; the first value for a slice stands. -/
def joinKnown (ks : List Known) : List Known :=
  ks.foldl (fun a k => if a.any fun x => decide (x.dom = k.dom) && decide (x.slice = k.slice) then a else a ++ [k]) []

/-- A copy after the move: an absolute address in the granules of a party of the task moves with them, one that the
block gave in space `G` too (R102; log entry 98). -/
def Move.copy (m : Move) (c : Copy) : Copy :=
  { c with head := m.head c.head, near := m.addr c.near, cnt := c.cnt.map m.addr, lines := c.lines.map m.line }

/-- A bulk read after the move (R122; log entry 98). -/
def Move.bulk (m : Move) (b : Bulk) : Bulk :=
  { b with head := m.head b.head, win := m.addr b.win, cnt := b.cnt.map m.addr }

/-- A drain after the move, wherever in the granules of the task's parties its bytes go (R238; log entry 110). -/
def Move.drain (m : Move) (d : Drain) : Drain :=
  { d with head := m.head d.head
           pieces := d.pieces.map fun x => (m.line x.1, x.2.map fun y => (m.addr y.1, y.2)) }

/-- A matrix engine's state after the move: the follower of a pair is beside its leader. -/
def Move.engine (m : Move) (e : Engine) : Engine :=
  { e with core := if e.follows then m.core e.claim.2 (e.core - 1) + 1 else m.core e.claim.2 e.core }

/-- Put a saved group back: one path is its first, the others are held until the pool has entries. A group beyond its
partition's share of the core waits in the pending set (R263), another one enters the active set at once (log entry
103). -/
def restoreGroup (m : Move) (s : State) (g : Group) : State :=
  let core := m.core g.party g.core
  let ps := g.paths.mapIdx fun k p => { p with slot := if k = 0 then Slot.first else Slot.held s.now }
  refillPool { s with groups := s.groups ++
    [{ g with core := core, active := if groupFits s g.task core then activeSlot s core else none, packed := false, paths := ps, issued := 0, readySince := s.now }] } core g.gid

/-- Put a saved reform bin back, its age counted from now. -/
def restoreBin (m : Move) (s : State) (b : Bin) : State :=
  let core := match b.key with
    | .reform _ i _ => m.core i b.core
    | .handler _ i _ => m.core i b.core
  match freeBin s core with
  | some k => { s with eng.bins := s.eng.bins ++ [{ b with core := core, slot := k, since := s.now }] }
  | none => s

/-- Reload the scratch of a party at its new granules. -/
def restoreScratch (m : Move) (s : State) (x : Nat × Cells 8) : State :=
  let a := (m.to x.1).core * 2 ^ 23 + (m.to x.1).base
  let s1 := stageZero s a m.size
  { s1 with sram.mem := cellSetAll s1.sram.mem (placeAt x.2 a) }

/-- The tables of a task on tracts that have no replica yet (R75): the entries as placed at admission. The spec names no
source: the model takes them from an old replica, and counts nothing for the reading (log entry 95). -/
def replicateTables (t : Task) (news : List Nat) (s : State) : State :=
  match t.block, t.replicas.head? with
  | some b, some old =>
    (t.decl.regions.filter fun r => decide (r.kind = .table)).foldl (fun s r =>
      let bs := (List.range r.size).map fun o => cellGet s.dram.tableRows (tableDpa (old * 64) b r.tbl o)
      { s with dram := (news.flatMap tractCores).foldl (placeReplica s.now b r.tbl bs) s.dram }) s
  | _, _ => s

/-- The saved slice and engine state comes back. Every saved copy is issued again at once, on a core that holds copies of
others too (R102; log entry 82), and every saved bulk read comes back at once, though its core then holds more than 16
(R111, R122; log entry 101). So do the pending entries and accumulators, each in the buffer or the spill reserve as it was,
though the slice may then hold more than its capacity (R125, R131, R282; log entry 109). -/
def restoreUnits (s : State) (t : Task) (v : Saved) (m : Move) : State :=
  { s with
    sram.clears := s.sram.clears ++ v.clears.map fun c => { c with line := m.line c.line }
    sram.undo := s.sram.undo ++ v.undo.map fun u => { u with addr := m.addr u.addr }
    sram.offers := s.sram.offers ++ v.offers.map m.store
    sram.entries := s.sram.entries ++ v.entries.map fun e =>
      { e with sector := sectorOf (m.addr (e.sector * 32)), stores := e.stores.map m.store }
    sram.accums := s.sram.accums ++ v.accums.map fun x => { x with addr := m.addr x.addr }
    sram.known := s.sram.known ++ joinKnown (v.known.map m.known ++ m.taskKnown t.uid v.known)
    eng.copies := s.eng.copies ++ v.copies.map m.copy
    eng.bulks := s.eng.bulks ++ v.bulks.map m.bulk
    eng.drains := s.eng.drains ++ v.drains.map m.drain
    eng.matrix := s.eng.matrix ++ v.engines.map m.engine }

/-- A restored task runs at its new places (R282). -/
def restoreTask (s : State) (t : Task) (v : Saved) (p : Plan) : State :=
  let m : Move := { size := t.decl.scratch, old := v.places, new := p.places }
  let t1 := { t with state := .running, places := p.places, reserves := p.reserves, saved := none, blocking := false }
  let news := (tractsOf t1).filter fun x => !t.replicas.contains x
  let t2 := { t1 with replicas := if t.block.isSome then t.replicas ++ news else [] }
  let s1 := v.scratch.foldl (restoreScratch m) (putTask (setOwners s p.owners) t2)
  let s2 := replicateTables t news (restoreUnits s1 t v m)
  let s3 := v.bins.foldl (restoreBin m) (v.groups.foldl (restoreGroup m) s2)
  { s3 with tasks := s3.tasks.map fun c =>
      if c.parent = some t.uid ∧ isLive c then { c with ccell := c.ccell.map m.addr } else c }

/-- `RESTORE`: a pre-empted task is admitted again, at the runs the event names; the translation of every page of its
regions is requested as at any admission (R260, R282). -/
def execRestore (task : Nat) (place : Placement) (s : State) : Host.Outcome State Fault Refusal :=
  .next (match findTask s task with
    | some t =>
      if t.state = .released ∧ (nextAdmitted s t.tract t.part).map (·.uid) = some task then
        match findPart s t.part, t.saved with
        | some q, some v =>
          match restorePlan (.given place.runs) s q t with
          | some r =>
            if r.2.made.length = place.runs.length then
              restoreTask { r.1 with xlate := askRegions r.1.xlate q t } t v r.2
            else s
          | none => s
        | _, _ => s
      else s
    | none => s)

end Sys2Proof.Machine
end

