-- ==== Sys2Proof/Machine/XlateEvents.lean ====
section
/-!
DEFINITION. The events of translation (R283 to R287): ATS completions, invalidations, the fault buffer
and its page requests, and the access counters.
-/

namespace Sys2Proof.Machine

open Sys2Proof

/-! ### Bursts that wait on the far side -/

/-- A burst under way: its request and number, on whose behalf it travels, and its access. -/
structure Waiter where
  client : Client
  va : Nat
  write : Option (List Byte)
  len : Nat
  state : BurstState

/-- Numbered elements of a list. -/
def numbered (l : List α) : List (Nat × α) := l.mapIdx fun n x => (n, x)

/-- The bursts of the copies. -/
def copyWaiters (s : State) : List Waiter :=
  s.eng.copies.flatMap fun c => (numbered c.bursts).map fun y =>
    { client := clientOf s c.head (.copy c.head.core) y.1, va := y.2.va, write := c.writeData y.2,
      len := c.burstLen y.2, state := y.2.state }

/-- The bursts of the bulk reads. -/
def bulkWaiters (s : State) : List Waiter :=
  s.eng.bulks.flatMap fun b => (numbered b.bursts).map fun y =>
    { client := clientOf s b.head (.bulk b.head.core) y.1, va := y.2.va, write := none, len := 64,
      state := y.2.state }

/-- The bursts of staging and write-back. -/
def xferWaiters (s : State) : List Waiter :=
  s.tasks.flatMap fun t => (numbered t.xfers).map fun y =>
    { client := xferClient s t y.2 y.1, va := y.2.va, write := if y.2.write then some y.2.data else none,
      len := y.2.len, state := y.2.state }

/-- The commands of peers that wait. -/
def serveWaiters (s : State) : List Waiter :=
  s.fabric.serving.map fun x =>
    { client := serveClient s x, va := x.va, write := if x.write then some x.data else none,
      len := x.data.length, state := x.state }

/-- Every burst under way, in the order of copies, bulk reads, staging and peers' commands. -/
def waiters (s : State) : List Waiter := copyWaiters s ++ bulkWaiters s ++ xferWaiters s ++ serveWaiters s

/-- Give a waiting burst its next state. -/
def setWaiter (s : State) (w : Waiter) (st : BurstState) : State :=
  match findCopy s w.client.req with
  | some c => copyOutcome c w.client.n (s, st)
  | none =>
    match findBulk s w.client.req with
    | some b => bulkOutcome b w.client.n (s, st)
    | none =>
      match s.fabric.serving.find? fun x => decide (x.id = w.client.req) with
      | some x => serveOutcome s x st
      | none => setXfer s w.client.req w.client.n st

/-- The PASID and virtual address that a burst needs translated here; none for another device (R300). -/
def xlateKey (s : State) (w : Waiter) : Option (Nat × Nat) :=
  if isFabric w.va then
    (s.fabric.bindings.find? fun b => decide (b.part = w.client.part) && decide (b.dev = devOf w.va)).bind fun b =>
      if b.dev = s.fabric.dev then some (b.pasid, rvaOf w.va) else none
  else some (w.client.pasid, w.va)

/-- Whether a burst needs a page of a PASID on a tract. -/
def needsPage (s : State) (w : Waiter) (tract pasid page : Nat) (write : Bool) : Bool :=
  decide (tractOf w.client.core = tract) && decide (w.write.isSome = write) &&
    decide ((xlateKey s w).map (fun k => (k.1, pageOf k.2)) = some (pasid, page))

/-! ### Refused pages (R285, R287) -/

/-- The page of a burst that a fault is entered under: the one translated here, or that of the fabric address. -/
def faultPage (s : State) (w : Waiter) : Nat := pageOf (((xlateKey s w).map (·.2)).getD w.va)

/-- Whether another burst of the same request has been refused the same page. -/
def pageRefused (s : State) (w : Waiter) : Bool :=
  (waiters s).any fun x => decide (x.client.req = w.client.req) && decide (x.state = .failed 0x01) &&
    decide (faultPage s x = faultPage s w)

/-- Enter a code 0x01 of a burst in its partition's fault log, one entry for each request and page (R287). -/
def noteFault (s : State) (w : Waiter) (code : Nat) : State :=
  let c := { w.client with pasid := ((xlateKey s w).map (·.1)).getD w.client.pasid }
  if pageRefused s w then s
  else { s with xlate := logFault s.xlate (faultOf c (((xlateKey s w).map (·.2)).getD w.va) w.write.isSome code) }

/-- A burst is refused its page: code 0x01, and an entry in the fault log. -/
def refusePage (s : State) (w : Waiter) (code : Nat) : State := setWaiter (noteFault s w code) w (.failed 0x01)

/-- A burst joins or adds a page request of the current generation, and waits on it. With the buffer full it sends its ATS
request again, and the successful responses it has had still count (log entry 92). -/
def waitPage (s : State) (w : Waiter) (tries : Nat) : State :=
  match xlateKey s w with
  | none => s
  | some k =>
    let tract := tractOf w.client.core
    match recordPage s.xlate s.now tract k.1 (pageOf k.2) w.write.isSome with
    | some x => setWaiter { s with xlate := x } w (.page (genOf x tract) tries)
    | none => setWaiter { s with xlate := askAts s.xlate tract k.1 (pageOf k.2) w.write.isSome } w (.ats tries)

/-- The host has no page for a burst: after three successful page responses in a row it fails, with the
response code of a success. -/
def missPage (s : State) (w : Waiter) : State :=
  match w.state with
  | .ats tries => if 3 ≤ tries then refusePage s w 0 else waitPage s w tries
  | _ => s

/-! ### `ATS_COMPLETION` (R283) -/

/-- A translation has a size of the completion's kinds and is aligned to it. -/
def atsOk (va : Nat) (a : AtsAnswer) : Bool :=
  match a with
  | .page base size target _ _ =>
    decide (4096 ≤ size) && decide (size ≤ 2 ^ 30) && decide (2 ^ size.log2 = size) && decide (base % size = 0) &&
      decide (target % size = 0) && decide (base ≤ va) && decide (va < base + size)
  | .notPresent => true

/-- Whether an answer gives what a request asked for. -/
def atsGrants (a : AtsAnswer) (write : Bool) : Bool :=
  match a with
  | .page _ _ _ r w => if write then w else r
  | .notPresent => false

/-- Fill a tract's cache with an answer. -/
def atsFill (x : Xlate) (tract pasid : Nat) (a : AtsAnswer) : Xlate :=
  match a with
  | .page base size target r w =>
    { x with caches := fillCache x.caches { cache := .tract tract, pasid := pasid, base := base, size := size,
                                            target := target, read := r, write := w } }
  | .notPresent => x

/-- Whether a burst waits on an ATS answer. -/
def waitsAts (w : Waiter) : Bool :=
  match w.state with
  | .ats _ => true
  | _ => false

/-- Take the answer to one request: the bursts that waited go on or ask for the page. -/
def takeAts (a : AtsAnswer) (s : State) (r : Nat × Nat × Nat × Bool) : State :=
  let s1 := { s with xlate := atsFill { s.xlate with asked := s.xlate.asked.filter fun y => decide (y ≠ r) } r.1 r.2.1 a }
  ((waiters s).filter fun w => waitsAts w && needsPage s w r.1 r.2.1 r.2.2.1 r.2.2.2).foldl (fun s w =>
    if atsGrants a r.2.2.2 then setWaiter s w .again else missPage s w) s1

/-- `ATS_COMPLETION`: the host answers the requests for a page. -/
def execAtsCompletion (pasid va : Nat) (answer : AtsAnswer) (s : State) : Host.Outcome State Fault Refusal :=
  .next (if atsOk va answer then
      (s.xlate.asked.filter fun r => decide (r.2.1 = pasid) && decide (r.2.2.1 = pageOf va)).foldl (takeAts answer) s
    else s)

/-! ### `INVALIDATE_REQUEST` (R283) -/

/-- Whether an entry meets an invalidated range. -/
def entryMeets (pasid va size : Nat) (e : XlatEntry) : Bool :=
  decide (e.pasid = pasid) && rangesMeet e.base e.size va size

/-- Whether a burst has been translated and not yet been accepted by its queue: it waits for a snoop (R295). -/
def underWay (w : Waiter) : Bool :=
  match w.state with
  | .snoop _ => true
  | _ => false

/-- Whether a burst has used one of a list of entries, of its front end's cache or its tract's, or an address of an
invalidated range. -/
def usesEntry (s : State) (es : List XlatEntry) (pasid va size : Nat) (w : Waiter) : Bool :=
  match xlateKey s w with
  | some k => (decide (k.1 = pasid) && rangesMeet k.2 w.len va size) ||
      es.any fun e => decide (e.pasid = k.1) && decide (e.base ≤ k.2) && decide (k.2 < e.base + e.size) &&
        (decide (e.cache = w.client.front) || decide (e.cache = .tract (tractOf w.client.core)))
  | none => false

/-- The bursts under way, by request and number, that used an entry which an invalidation removes. -/
def removedUsers (s : State) (pasid va size : Nat) : List (Nat × Nat) :=
  let gone := s.xlate.caches.filter (entryMeets pasid va size)
  ((waiters s).filter fun w => underWay w && usesEntry s gone pasid va size w).map fun w => (w.client.req, w.client.n)

/-- Whether one of a list of bursts is still under way. -/
def anyUnderWay (s : State) (us : List (Nat × Nat)) : Bool :=
  (waiters s).any fun w => underWay w && us.contains (w.client.req, w.client.n)

/-- Send the completions of invalidations whose accesses have been accepted. -/
def completeInvalidations (s : State) : State :=
  let done := s.xlate.invalidating.filter fun r => !anyUnderWay s r.2
  { s with
    xlate.invalidating := s.xlate.invalidating.filter fun r => anyUnderWay s r.2
    xlate.completions := s.xlate.completions ++ done.map (·.1) }

/-- `INVALIDATE_REQUEST`: every matching entry leaves every cache, and the completion waits for every access that used one
(R283). -/
def execInvalidateRequest (pasid va size : Nat) (s : State) : Host.Outcome State Fault Refusal :=
  .next (completeInvalidations { s with
    xlate.caches := s.xlate.caches.filter fun e => !entryMeets pasid va size e
    xlate.invalidating := s.xlate.invalidating ++ [((pasid, va, size), removedUsers s pasid va size)] })

/-! ### The fault buffer (R285) -/

/-- The records of the current generation of a tract. -/
def currentRecords (x : Xlate) (tract : Nat) : List PageRecord :=
  (bufferOf x tract).filter fun r => decide (r.gen = genOf x tract)

/-- Cycles of 1 µs at the full clock (R2). -/
def microsecond : Nat := 1300

/-- Whether a tract's buffer is due to be flushed: 32 records, or 1 µs after the first. -/
def flushDue (s : State) (tract : Nat) : Bool :=
  let rs := currentRecords s.xlate tract
  decide (32 ≤ rs.length) || rs.any fun r => decide (r.since + microsecond ≤ s.now)

/-- `FAULT_BUFFER_FLUSH`: the buffer goes out as one page request group, and the generation advances. -/
def execFaultBufferFlush (tract : Nat) (s : State) : Host.Outcome State Fault Refusal :=
  .next (if flushDue s tract then
      let g := genOf s.xlate tract
      { s with
        xlate.sent := s.xlate.sent ++ [(tract, g)]
        xlate.gens := setAssoc s.xlate.gens tract (g + 1) }
    else s)

/-- The bursts that wait on a generation of a tract. -/
def waitsOn (s : State) (tract gen : Nat) : List Waiter :=
  (waiters s).filter fun w => decide (tractOf w.client.core = tract) && (match w.state with
    | .page g _ => decide (g = gen)
    | _ => false)

/-- A page response wakes a burst: it sends its ATS request again. -/
def wakePage (s : State) (w : Waiter) : State :=
  match w.state, xlateKey s w with
  | .page _ tries, some k =>
    setWaiter { s with xlate := askAts s.xlate (tractOf w.client.core) k.1 (pageOf k.2) w.write.isSome } w (.ats (tries + 1))
  | _, _ => s

/-- The response code of a page request group in the fault log (PCIe, log entry 18). -/
def prgCode (c : PrgCode) : Nat :=
  match c with
  | .success => 0
  | .invalid => 1
  | .failure => 15

/-- `PAGE_REQUEST_RESPONSE`: a response of a generation that has been discarded is discarded. -/
def execPageRequestResponse (tract gen : Nat) (code : PrgCode) (s : State) : Host.Outcome State Fault Refusal :=
  .next (if s.xlate.sent.contains (tract, gen) then
      let s1 := { s with
        xlate.sent := s.xlate.sent.filter fun x => decide (x ≠ (tract, gen))
        xlate.records := s.xlate.records.filter fun r => !(decide (r.tract = tract) && decide (r.gen = gen)) }
      (waitsOn s tract gen).foldl (fun s w =>
        if code = .success then wakePage s w else refusePage s w (prgCode code)) s1
    else s)

/-- A burst that waited on a discarded record sends exactly one new request. -/
def renewPage (s : State) (w : Waiter) : State :=
  match w.state with
  | .page _ tries => waitPage s w tries
  | _ => s

/-- The generation of a tract advances, and older records and responses are discarded. -/
def advanceGen (s : State) (tract : Nat) : State :=
  let ws := (waiters s).filter fun w => decide (tractOf w.client.core = tract)
  let s1 := { s with
    xlate.gens := setAssoc s.xlate.gens tract (genOf s.xlate tract + 1)
    xlate.sent := s.xlate.sent.filter fun x => decide (x.1 ≠ tract)
    xlate.records := s.xlate.records.filter fun r => decide (r.tract ≠ tract) }
  ws.foldl renewPage s1

/-- `STOP_MARKER`. -/
def execStopMarker (tract : Nat) (s : State) : Host.Outcome State Fault Refusal :=
  .next (if tract < 8 then advanceGen s tract else s)

/-! ### `ACCESS_COUNTER_NOTIFY` (R286) -/

/-- The counters of an I/O die. -/
def dieCounters (x : Xlate) (die : Nat) : List AccessCounter := x.counters.filter fun c => decide (c.die = die)

/-- The threshold of a counter: that of the partition whose PASID it counts for (R286, R298). Zero has not been set. -/
def thresholdOf (s : State) (c : AccessCounter) : Nat :=
  match s.parts.find? fun q => decide (q.pasid = c.pasid) with
  | some q => assoc s.xlate.thresholds q.id 0
  | none => 0

/-- Whether a counter has reached its threshold. -/
def counterDue (s : State) (c : AccessCounter) : Bool := decide (thresholdOf s c ≠ 0) && decide (thresholdOf s c ≤ c.count)

/-- `ACCESS_COUNTER_NOTIFY`: a counter that has reached the threshold posts a notification and is reset. -/
def execAccessCounterNotify (die slot : Nat) (s : State) : Host.Outcome State Fault Refusal :=
  .next (match (dieCounters s.xlate die)[slot]? with
    | some c =>
      if counterDue s c then
        { s with
          xlate.counters := updWhere s.xlate.counters (fun x => decide (x = c)) fun x => { x with count := 0 }
          xlate.notices := s.xlate.notices ++ [(c.pasid, c.block)] }
      else s
    | none => s)

end Sys2Proof.Machine
end

