-- ==== Sys2Proof/Machine/HostEvents.lean ====
section
/-!
DEFINITION. The events of the host link: host access to device memory (R294), snoop responses (R295), host
launches (R296) and the ring registers (R297).
-/

namespace Sys2Proof.Machine

open Sys2Proof

/-- The function of a number, once the physical function has been presented (R310). -/
def findFn (s : State) (fn : Nat) : Option HostFn :=
  if s.mgmt.up then s.host.fns.find? fun f => decide (f.fn = fn) else none

/-- Change a function. -/
def modFn (s : State) (fn : Nat) (f : HostFn → HostFn) : State :=
  { s with host.fns := updWhere s.host.fns (fun x => decide (x.fn = fn)) f }

/-- Whether a function's partition is being reset: its doorbells are ignored (R302). -/
def isResetting (s : State) (f : HostFn) : Bool := s.host.resetting.contains f.part

/-- The plat domain of a function's requests (R263, R294). -/
def fnDom (s : State) (f : HostFn) : Nat := (findPart s f.part).elim 0 (·.dom)

/-! ### Host access to device memory (R63, R65, R294, R295) -/

/-- The response to a host request: the data of a read, or the status of a refused or uncorrectable one, which is its
code of R100 (R63, R65, R68). -/
def hostResponse (fn dpa : Nat) (st : BurstState) : HostResponse :=
  match st with
  | .got d => { fn := fn, dpa := dpa, status := 0, data := d }
  | .failed c => { fn := fn, dpa := dpa, status := c, data := [] }
  | _ => { fn := fn, dpa := dpa, status := 0, data := [] }

/-- A host request to the stacks: refused by the plat it touches no row; a read gives the burst from its address on and
leaves it possibly cached by the host. The host gets a response once the queue has issued the request. -/
def hostDram (s : State) (f : HostFn) (dpa : Nat) (data : Option (List Byte)) : State :=
  let (id, s1) := freshId s
  let c : Client := { part := f.part, pasid := 0, dom := fnDom s f, handle := 0, core := 0, front := .tract 0,
                      req := id, n := 0 }
  let r := stackAccess s1 c data dpa (64 - dpa % 64)
  let s2 := if inQueue r.1 id 0 then { r.1 with host.held := r.1.host.held ++ [(id, hostResponse f.fn dpa r.2)] }
    else { r.1 with host.responses := r.1.host.responses ++ [hostResponse f.fn dpa r.2] }
  match r.2 with
  | .got _ =>
    { s2 with host.tracked := if s2.host.tracked.contains (burstOf dpa) then s2.host.tracked
                              else s2.host.tracked ++ [burstOf dpa] }
  | _ => s2

/-- `HOST_MEMORY_ACCESS`: a read, or a write of bytes, of one 64-byte burst. -/
def execHostMemoryAccess (fn hpa : Nat) (data : Option (List Byte)) (s : State) :
    Host.Outcome State Fault Refusal :=
  .next (match findFn s fn, hdmOf s.host hpa with
    | some f, some dpa =>
      if dpa % 64 + (data.map (·.length)).getD 0 ≤ 64 ∧ queueFree s dpa then hostDram s f dpa data else s
    | _, _ => s)

/-! ### `SNOOP_RESPONSE` (R295) -/

/-- Whether a burst waits for the snoop of a burst address: a write for `BISnpInv`, a read for `BISnpCur`. -/
def waitsSnoop (burst : Nat) (inv : Bool) (w : Waiter) : Option Nat :=
  match w.state with
  | .snoop dpa => if burstOf dpa = burst ∧ w.write.isSome = inv then some dpa else none
  | _ => none

/-- The plat domain a burst carries here: that of the partition it names (R64, R300). -/
def waiterDom (s : State) (w : Waiter) : Client :=
  if isFabric w.va then
    match s.fabric.bindings.find? fun b => decide (b.part = w.client.part) && decide (b.dev = devOf w.va) with
    | some b => { w.client with dom := (findPart s b.peer).elim 0 (·.dom) }
    | none => w.client
  else w.client

/-- A snooped burst enters its queue; with the queue full it waits and is sent again. -/
def snooped (burst : Nat) (inv : Bool) (s : State) (w : Waiter) : State :=
  match waitsSnoop burst inv w with
  | none => s
  | some dpa =>
    if queueFree s dpa then
      let r := stackAccess s (waiterDom s w) w.write dpa w.len
      setWaiter r.1 w r.2
    else setWaiter s w .again

/-- `SNOOP_RESPONSE`: after a `BISnpInv` the host holds the burst no more; a `BISnpCur` leaves its mark. -/
def execSnoopResponse (snoop : Snoop) (s : State) : Host.Outcome State Fault Refusal :=
  .next (if s.host.snoops.contains (snoop.burst, snoop.inv) then
      let s1 := { s with
        host.snoops := s.host.snoops.filter fun b => decide (b ≠ (snoop.burst, snoop.inv))
        host.tracked := if snoop.inv then s.host.tracked.filter fun b => decide (b ≠ snoop.burst) else s.host.tracked }
      completeInvalidations ((waiters s).foldl (snooped snoop.burst snoop.inv) s1)
    else s)

/-! ### The ring registers (R297) -/

/-- A register write of a function. -/
def onFn (fn : Nat) (s : State) (g : HostFn → HostFn) : State :=
  match findFn s fn with
  | some _ => modFn s fn g
  | none => s

/-- A doorbell of a function: ignored while its partition is reset (R302, step 1). -/
def onDoorbell (fn : Nat) (s : State) (g : HostFn → HostFn) : State :=
  match findFn s fn with
  | some f => if isResetting s f then s else modFn s fn g
  | none => s

/-- `SQTAIL`: the doorbell. -/
def execSqtail (fn : Nat) (value : Word) (s : State) : Host.Outcome State Fault Refusal :=
  .next (onDoorbell fn s fun f => if f.sqEn then { f with sqTail := value.toNat % 4096 % 2 ^ f.sqN } else f)

/-- `CQHEAD`: the doorbell. -/
def execCqhead (fn : Nat) (value : Word) (s : State) : Host.Outcome State Fault Refusal :=
  .next (onDoorbell fn s fun f => if f.cqEn then { f with cqHead := value.toNat % 4096 % 2 ^ f.cqM } else f)

/-- A ring size is one of those allowed. -/
def ringOk (n : Nat) : Bool := decide (4 ≤ n) && decide (n ≤ 12)

/-- `SQCFG`: the size is ignored while EN is 1, and setting EN resets head and tail. -/
def execSqcfg (fn : Nat) (value : Word) (s : State) : Host.Outcome State Fault Refusal :=
  .next (onFn fn s fun f =>
    let en := value.getLsbD 31
    let n := bitsOf value.toNat 3 0
    if f.sqEn then { f with sqEn := en }
    else if en && ringOk n then { f with sqN := n, sqEn := true, sqHead := 0, sqTail := 0 }
    else { f with sqN := n })

/-- `CQCFG`: as `SQCFG`, with the MSI-X vector; setting EN also starts the first pass with phase 1. IEN may
change at any time. -/
def execCqcfg (fn : Nat) (value : Word) (s : State) : Host.Outcome State Fault Refusal :=
  .next (onFn fn s fun f =>
    let en := value.getLsbD 31
    let ien := value.getLsbD 30
    let m := bitsOf value.toNat 3 0
    let v := bitsOf value.toNat 21 16
    if f.cqEn then { f with cqEn := en, cqIen := ien }
    else if en && ringOk m then
      { f with cqM := m, cqVector := v, cqIen := ien, cqEn := true, cqHead := 0, cqTail := 0, phase := true }
    else { f with cqM := m, cqVector := v, cqIen := ien })

/-- A 64-bit base with one of its words replaced; bits 11:0 are zero. -/
def setBase (b : BitVec 64) (high : Bool) (x : Word) : BitVec 64 :=
  if high then x ++ b.setWidth 32 else (b >>> 32).setWidth 32 ++ (x &&& 0xFFFFF000)

/-- `REGISTER_WRITE`: SQBASE and CQBASE, while their ring is not enabled; every other offset has no register
without behaviour of its own. -/
def execRegisterWrite (fn offset : Nat) (value : Word) (s : State) : Host.Outcome State Fault Refusal :=
  .next (onFn fn s fun f =>
    if offset = 0x1000 ∧ !f.sqEn then { f with sqBase := setBase f.sqBase false value }
    else if offset = 0x1004 ∧ !f.sqEn then { f with sqBase := setBase f.sqBase true value }
    else if offset = 0x1018 ∧ !f.cqEn then { f with cqBase := setBase f.cqBase false value }
    else if offset = 0x101C ∧ !f.cqEn then { f with cqBase := setBase f.cqBase true value }
    else f)

/-! ### `HOST_LAUNCH` (R296) -/

/-- A submission entry in its sixteen words. -/
def sqEntry (s : State) (f : HostFn) : List Nat := wordsOf (bytesAt s.host.mem (f.sqBase.toNat + 64 * f.sqHead) 64)

/-- The field rules a host launch adds: no completion cell, and zero words at the end. -/
def hostFieldsOk (ws : List Nat) (q : Launch) : Bool :=
  q.nocc && decide (q.ccell = 0) && decide (q.csp = 0) && (ws.drop 10).all fun w => decide (w = 0)

/-- The object an entry names, if the function's partition has it. -/
def hostObject (s : State) (f : HostFn) (handle : Nat) : Option Object :=
  (objectOf s handle).filter fun o => decide (o.part = f.part)

/-- Check a submission entry and create its record, or report the refusal. R270 has no row for an OBJ that names no object of
the function's partition: the model refuses it with code 0x44, as a descriptor that breaks R269 (log entry 113). -/
def hostLaunch (s : State) (f : HostFn) : State :=
  let ws := sqEntry s f
  let q := launchOf ((ws.drop 2).take 8)
  let handle := blockWord ws 0 + 2 ^ 32 * blockWord ws 1
  let part := (findPart s f.part).getD default
  let decl := declOf (hostObject s f handle) q
  let s1 := modFn s f.fn fun f => { f with sqHead := (f.sqHead + 1) % 2 ^ f.sqN }
  let (uid, s2) := freshId s1
  let t := newTask uid f.part 0 handle (decl.getD default) q q.cls 1 none (some f.fn) none
  let code := refusal s part decl q (hostFieldsOk ws q) true 1 t
  if code ≠ 0 then modFn s1 f.fn fun f => { f with waiting := f.waiting ++ [(0, 0x40 + code)] }
  else createRecord s2 t

/-- Whether a function has a submission entry to read. -/
def sqReady (s : State) (f : HostFn) : Bool := f.sqEn && decide (f.sqHead ≠ f.sqTail) && !isResetting s f

/-- `HOST_LAUNCH`: the next entry of the submission ring is read. -/
def execHostLaunch (fn : Nat) (s : State) : Host.Outcome State Fault Refusal :=
  .next (match findFn s fn with
    | some f => if sqReady s f then hostLaunch s f else s
    | none => s)

/-! ### `COMPLETION_ENTRY_WRITE` (R296, R297) -/

/-- The bytes of a completion entry. -/
def cqEntry (f : HostFn) (x : Nat × Nat) : List Byte :=
  bytesOfNat 4 x.1 ++ bytesOfNat 4 ((if f.phase then 2 ^ 31 else 0) + x.2 % 256) ++ List.replicate 8 0

/-- Write one completion entry: the phase flips when the index wraps, and MSI-X is signalled when IEN is
set. -/
def writeCompletion (s : State) (f : HostFn) (x : Nat × Nat) : State :=
  let tail := (f.cqTail + 1) % 2 ^ f.cqM
  let s1 := { s with
    host.mem := cellSetAll s.host.mem (addressed (f.cqBase.toNat + 16 * f.cqTail) (cqEntry f x))
    host.msix := if f.cqIen then s.host.msix ++ [(f.fn, f.cqVector)] else s.host.msix }
  modFn s1 f.fn fun f =>
    { f with waiting := f.waiting.drop 1, cqTail := tail, phase := if tail = 0 then !f.phase else f.phase }

/-- Whether a function's completion ring takes an entry. -/
def cqRoom (s : State) (f : HostFn) : Bool :=
  f.cqEn && decide ((f.cqTail + 1) % 2 ^ f.cqM ≠ f.cqHead) && !isResetting s f

/-- `COMPLETION_ENTRY_WRITE`: the oldest waiting entry is written when the ring has room. -/
def execCompletionEntryWrite (fn : Nat) (s : State) : Host.Outcome State Fault Refusal :=
  .next (match findFn s fn with
    | some f =>
      match f.waiting.head? with
      | some x => if cqRoom s f then writeCompletion s f x else s
      | none => s
    | none => s)

end Sys2Proof.Machine
end

