-- ==== Sys2Proof/Machine/MgmtEvents.lean ====
section
/-!
DEFINITION. The commands of the management interface (R298): plat and quota records (R64, R65, R263), the
context area (R281), stops (R277), kept regions (R91), logs (R277, R287), fault buffers (R285), access
counters (R286), debug (R290), bank repair (R137), fabric bindings (R300), margins (R308, R309), held
launches, and the attestation report (R307).
-/

namespace Sys2Proof.Machine

open Sys2Proof

/-- Report the status of a mailbox command. -/
def setStatus (s : State) (fn status : Nat) : State := modFn s fn fun f => { f with status := status }

/-- A command of any function, on its own partition. -/
def anyFn (fn : Nat) (s : State) (g : HostFn → State) : State :=
  match findFn s fn with
  | some f => g f
  | none => s

/-- A command marked PF: refused with status 1 on a VF. -/
def pfOnly (fn : Nat) (s : State) (g : HostFn → State) : State :=
  anyFn fn s fun f => if fn = 0 then g f else setStatus s fn 1

/-- A command that is refused for a reason of its own (log entry 16). -/
def refuse (s : State) (fn : Nat) : State := setStatus s fn Config.refusedStatus

/-! ### The plat (R64, R65) -/

/-- The fields of a range entry are in their sets. -/
def entryFieldsOk (e : BitVec 64) : Bool :=
  decide (platBase e ≤ lastOpenRow) && decide (platLimit e ≤ lastOpenRow) && decide (platBase e ≤ platLimit e) &&
    decide (e.toNat / 2 ^ 60 % 8 = 0) && decide (e.toNat / 2 ^ 48 % 256 = 0) && decide (e.toNat % 65536 = 0)

/-- Two ranges leave at least two rows between them. -/
def apart (x y : BitVec 64) : Bool :=
  decide (platLimit x + 3 ≤ platBase y) || decide (platLimit y + 3 ≤ platBase x)

/-- Two entries that may stand beside each other: one is not in force, they belong to one domain, or they
are apart. -/
def compatible (x y : BitVec 64) : Bool :=
  !platV x || !platV y || decide (platDom x = platDom y) || apart x y

/-- Whether a range entry may be written at an index. -/
def platWriteOk (plat : Vector (BitVec 64) 16) (index : Nat) (e : BitVec 64) : Bool :=
  entryFieldsOk e && (List.range 16).all fun k => decide (k = index) || compatible e (plat[k]?.getD 0)

/-- `WRITE_PLAT_ENTRY`: range entries 0 to 15, and the table-block word as index 16. -/
def execWritePlatEntry (fn index : Nat) (value : BitVec 64) (s : State) : Host.Outcome State Fault Refusal :=
  .next (pfOnly fn s fun _ =>
    if h : index < 16 then
      if platWriteOk s.dram.plat index value then
        setStatus { s with dram.plat := s.dram.plat.set index value } fn 0
      else refuse s fn
    else if index = 16 then setStatus { s with dram.tableBlocks := value &&& 0xFFFFFFFFFF } fn 0
    else refuse s fn)

/-! ### The quota record (R263) -/

/-- The core mask of a quota record: words 8 to 23. -/
def coreMask (ws : List Word) : BitVec 512 :=
  BitVec.ofNat 512 ((ws.drop 8).foldr (fun w n => w.toNat + 2 ^ 32 * n) 0)

/-- The partition a quota record describes; its reserved bits are ignored (R5). -/
def quotaOf (q : Partition) (ws : List Word) : Partition :=
  let w := fun k => (ws.getD k 0).toNat
  { q with
    thr := bitsOf (w 0) 31 20, grp := bitsOf (w 0) 19 11, wch := bitsOf (w 0) 10 5,
    hnd := bitsOf (w 1) 31 21, gran := bitsOf (w 1) 20 10,
    recs := bitsOf (w 2) 31 17, dom := bitsOf (w 2) 3 0,
    rthr := bitsOf (w 3) 31 20, rgran := bitsOf (w 3) 19 9,
    cores := coreMask ws }

/-- The fields of a quota record are in their sets, and no core belongs to another partition. -/
def quotaOk (s : State) (q : Partition) : Bool :=
  decide (q.thr ≤ 2048) && decide (q.grp ≤ 256) && decide (q.wch ≤ 32) && decide (q.hnd ≤ 1024) &&
    decide (q.gran ≤ 1536) && decide (q.recs ≤ 16384) && decide (q.rthr ≤ q.thr) && decide (q.rgran ≤ q.gran) &&
    s.parts.all fun x => decide (x.id = q.id) || decide (x.cores &&& q.cores = 0)

/-- `WRITE_QUOTA_RECORD` (R263, R298). The new record holds at once, for tasks that run too (log entry 91). -/
def execWriteQuotaRecord (fn part : Nat) (words : List Word) (s : State) : Host.Outcome State Fault Refusal :=
  .next (pfOnly fn s fun _ =>
    match findPart s part with
    | some q =>
      if words.length = 24 ∧ quotaOk s (quotaOf q words) then
        setStatus { s with parts := updWhere s.parts (fun x => decide (x.id = part)) fun q => quotaOf q words } fn 0
      else refuse s fn
    | none => refuse s fn)

/-! ### Partitions and tasks -/

/-- Change a partition. -/
def modPart (s : State) (part : Nat) (f : Partition → Partition) : State :=
  { s with parts := updWhere s.parts (fun q => decide (q.id = part)) f }

/-- Whether a range of device memory lies in the last 240 MiB of normal rows, where the DMP keeps context areas (R294). -/
def areaOk (base size : Nat) : Bool := decide (hdmSize ≤ base) && decide (base + size ≤ hdmSize + 240 * 2 ^ 20)

/-- `SET_CONTEXT_AREA` (R281, R294). -/
def execSetContextArea (fn part base size : Nat) (s : State) : Host.Outcome State Fault Refusal :=
  .next (pfOnly fn s fun _ =>
    match findPart s part with
    | some _ =>
      if areaOk base size then setStatus (modPart s part fun q => { q with ctxBase := base, ctxSize := size }) fn 0
      else refuse s fn
    | none => refuse s fn)

/-- A live task of a function's partition. -/
def liveByHandle (s : State) (f : HostFn) (handle : Nat) : Option Task :=
  (taskByHandle s f.part handle).filter isLive

/-- `STOP_TASK`: kind 0x14 (R277). -/
def execStopTask (fn handle : Nat) (s : State) : Host.Outcome State Fault Refusal :=
  .next (anyFn fn s fun f =>
    match liveByHandle s f handle with
    | some t => setStatus (stopOrCancel s t.uid 0x14) fn 0
    | none => refuse s fn)

/-- `DROP_KEPT_REGION` (R91). -/
def execDropKeptRegion (fn far : Nat) (s : State) : Host.Outcome State Fault Refusal :=
  .next (anyFn fn s fun f =>
    if s.kept.any fun k => decide (k.part = f.part) && decide (k.far = far) then
      setStatus (dropKeptWhere s f.part fun k => decide (k.far = far)) fn 0
    else refuse s fn)

/-- `READ_STOP_LOG`: the stop log and the translation fault log; the PF reads every partition's and its
reading clears the stop log (R302). -/
def execReadStopLog (fn : Nat) (s : State) : Host.Outcome State Fault Refusal :=
  .next (anyFn fn s fun f =>
    let mine := fun part : Nat => decide (fn = 0) || decide (part = f.part)
    let r := Reply.logs (s.mgmt.stopLog.filter fun x => mine x.part) (s.xlate.faults.filter fun x => mine x.part)
    let s1 := modFn s fn fun f => { f with reply := r, status := 0 }
    if fn = 0 then { s1 with mgmt.stopLog := [] } else s1)

/-- `FLUSH_FAULT_BUFFERS` (R285): the tracts on which the function's partition has cores, or all for the
PF (log entry 115). -/
def execFlushFaultBuffers (fn : Nat) (s : State) : Host.Outcome State Fault Refusal :=
  .next (anyFn fn s fun f =>
    let cores := ((findPart s f.part).map coresOf).getD []
    let ts := if fn = 0 then List.range 8 else (cores.map tractOf).dedup
    setStatus (ts.foldl advanceGen s) fn 0)

/-- `SET_ACCESS_COUNTER_THRESHOLD` (R286, R298): a VF sets the threshold of its own partition, and the PF that of every
partition (log entry 80). -/
def execSetAccessCounterThreshold (fn value : Nat) (s : State) : Host.Outcome State Fault Refusal :=
  .next (anyFn fn s fun f =>
    let ids := if fn = 0 then s.parts.map (·.id) else [f.part]
    setStatus { s with xlate.thresholds := ids.foldl (fun l p => setAssoc l p value) s.xlate.thresholds } fn 0)

/-- Release a task held at a breakpoint; one whose context has been saved goes back to Released, where its wait for admission
begins (R255, R262, R290). -/
def releaseDebug (s : State) (f : HostFn) (handle : Nat) : State :=
  match liveByHandle s f handle with
  | some t => if t.held then
      setStatus (modTask s t.uid fun t =>
        if t.state = .preempted then { t with held := false, state := .released, releasedAt := s.now }
        else { t with held := false }) f.fn 0
    else refuse s f.fn
  | none => refuse s f.fn

/-- `SET_DEBUG_ENABLE` (R290). -/
def execSetDebugEnable (fn : Nat) (enable : Bool) (release : Option Nat) (s : State) :
    Host.Outcome State Fault Refusal :=
  .next (anyFn fn s fun f =>
    let s1 := setStatus (modPart s f.part fun q => { q with debug := enable }) fn 0
    match release with
    | some h => releaseDebug s1 f h
    | none => s1)

/-- `REPAIR_BANK` (R137): a spare row set has taken the place of the failed banks. R137 is silent on what it holds: in the
model, the symbols of the stored data, without any flip of the failed banks (log entry 120). -/
def execRepairBank (fn slice : Nat) (s : State) : Host.Outcome State Fault Refusal :=
  .next (pfOnly fn s fun _ =>
    if slice < 512 then
      let r := sliceReg s slice
      let s1 := putSliceReg s { r with fb1 := none, fb2 := none, rebuildAt := none, passCorr := [] }
      setStatus { s1 with sram.flips := s1.sram.flips.filter fun e =>
        !(decide (sliceOf (e.1.1 * 32) = slice) && (failedBanks r).contains e.1.2) } fn 0
    else refuse s fn)

/-- `BIND_FABRIC_PEER` (R300): a device number has 15 bits, and a PASID 20 (R293). -/
def execBindFabricPeer (fn dev part pasid : Nat) (s : State) : Host.Outcome State Fault Refusal :=
  .next (anyFn fn s fun f =>
    let old := fun b : Binding => decide (b.part = f.part) && decide (b.dev = dev)
    let b : Binding := { part := f.part, dev := dev, peer := part, pasid := pasid }
    if dev < 2 ^ 15 ∧ pasid < 2 ^ 20 then
      setStatus { s with fabric.bindings := (s.fabric.bindings.filter fun b => !old b) ++ [b] } fn 0
    else refuse s fn)

/-- `READ_MARGINS` (R308, R309). -/
def execReadMargins (fn : Nat) (s : State) : Host.Outcome State Fault Refusal :=
  .next (anyFn fn s fun _ =>
    let r := Reply.margins s.mgmt.plan s.mgmt.clocks s.mgmt.shares
    modFn s fn fun f => { f with reply := r, status := 0 })

/-- `RELEASE_HELD_HOST_LAUNCH` (R298): status 2 when the handle names no such task. -/
def execReleaseHeldHostLaunch (fn handle : Nat) (s : State) : Host.Outcome State Fault Refusal :=
  .next (anyFn fn s fun f =>
    match taskByHandle s f.part handle with
    | some t =>
      if t.state = .waiting ∧ t.hold ∧ t.fn = some fn then setStatus (dropHold s t.uid) fn 0 else setStatus s fn 2
    | none => setStatus s fn 2)

/-! ### Attestation (R307) -/

/-- The failed-bank marks. -/
def bankMarks (s : State) : List (Nat × Option Nat × Option Nat) :=
  (s.sram.slices.filter fun r => r.fb1.isSome || r.fb2.isSome).map fun r => (r.slice, r.fb1, r.fb2)

/-- What is signed: the contents of the report as numbers. -/
def reportNumbers (s : State) (nonce : BitVec 256) : List Nat :=
  [nonce.toNat, s.mgmt.fwDigest.toNat, s.dram.tableBlocks.toNat] ++ s.dram.plat.toList.map (·.toNat) ++
    (s.parts.flatMap fun q => [q.id, q.thr, q.grp, q.wch, q.hnd, q.gran, q.recs, q.dom, q.rthr, q.rgran, q.cores.toNat]) ++
    (bankMarks s).flatMap fun m => [m.1, m.2.1.getD 32, m.2.2.getD 32]

/-- The report over a nonce, signed with both algorithms. -/
def attest (s : State) (nonce : BitVec 256) : Report :=
  let n := reportNumbers s nonce
  { nonce := nonce, digests := [s.mgmt.fwDigest], plat := s.dram.plat.toList, tableBlocks := s.dram.tableBlocks,
    quotas := s.parts, marks := bankMarks s, ed25519 := Config.ed25519Sign n, mldsa := Config.mldsaSign n }

/-- `ATTESTATION_REPORT`. -/
def execAttestationReport (nonce : BitVec 256) (s : State) : Host.Outcome State Fault Refusal :=
  .next (if s.mgmt.up then { s with mgmt.reports := s.mgmt.reports ++ [attest s nonce] } else s)

end Sys2Proof.Machine
end

