-- ==== Sys2Proof/Machine/FabricEvents.lean ====
section
/-!
DEFINITION. The events of the scale-up fabric (R299 to R301) and the function-level reset (R302).
-/

namespace Sys2Proof.Machine

open Sys2Proof

/-! ### Links (R299) -/

/-- `FLIT_NAK`: a flit that the replay buffer of a port holds is sent again. -/
def execFlitNak (port flit : Nat) (s : State) : Host.Outcome State Fault Refusal :=
  .next (if s.fabric.replay.contains (port, flit) then
      { s with fabric.resent := s.fabric.resent ++ [(port, flit)] }
    else s)

/-- Cycles of 10 µs at the full clock (R2). -/
def timeoutCycles : Nat := 13000

/-- `END_TO_END_TIMEOUT`: a command not acknowledged within 10 µs is sent again, over a port that is not
specified. -/
def execEndToEndTimeout (part seq : Nat) (s : State) : Host.Outcome State Fault Refusal :=
  .next (match s.fabric.out.find? fun o => decide (o.part = part) && decide (o.seq = seq) with
    | some o =>
      if o.since + timeoutCycles ≤ s.now then
        let (n, s1) := freshId s
        let port := Config.choice n % 48
        let mine := fun x : FabOut => decide (x.part = part) && decide (x.seq = seq)
        { s1 with
          fabric.out := updWhere s1.fabric.out mine fun x => { x with sends := x.sends + 1, since := s1.now, port := port }
          fabric.replay := enterReplay s1.fabric.replay port (flitOf part seq) }
      else s
    | none => s)

/-! ### Commands (R299 to R301) -/

/-- A command of a peer: a repeat gets the saved response, a partition under reset answers with code 0x04,
and a command that waits goes on. -/
def peerCommand (s : State) (x : Serve) : State :=
  match s.fabric.done.find? fun r => decide (r.source = x.source) && decide (r.seq = x.seq) with
  | some r => { s with fabric.answers := s.fabric.answers ++ [r] }
  | none =>
    if !answers s x.part then answerPeer s x 0x04 []
    else
      match s.fabric.serving.find? fun y => decide (y.source = x.source) && decide (y.seq = x.seq) with
      | some y => if toSend y.state then serve s y else s
      | none =>
        let (id, s1) := freshId s
        let y := { x with id := id }
        serve { s1 with fabric.serving := s1.fabric.serving ++ [y] } y

/-- A command of this device leaves the list of those outstanding. -/
def dropOut (s : State) (o : FabOut) : State :=
  { s with
    fabric.out := s.fabric.out.filter fun x => !(decide (x.part = o.part) && decide (x.seq = o.seq))
    fabric.replay := s.fabric.replay.filter fun x => decide (x.2 ≠ flitOf o.part o.seq) }

/-- Give the burst a command served its outcome. -/
def resolveOut (s : State) (o : FabOut) (st : BurstState) : State :=
  match (waiters s).find? fun w => decide (w.client.req = o.req) && decide (w.client.n = o.burst) &&
      decide (w.state = .fabric o.seq) with
  | some w => setWaiter (dropOut s o) w st
  | none => dropOut s o

/-- Give the burst a command served an error code; code 0x01, a translation that failed at the target, is entered in the
fault log (R287, R300). The target names no response code, and a free value stands for it (log entry 18). -/
def failOut (s : State) (o : FabOut) (code : Nat) : State :=
  let s1 := match (waiters s).find? fun w => decide (w.client.req = o.req) && decide (w.client.n = o.burst) &&
      decide (w.state = .fabric o.seq) with
    | some w => if code = 0x01 then noteFault s w (Config.remoteFaultCode o.seq) else s
    | none => s
  resolveOut s1 o (.failed code)

/-- The end-to-end answer to a command; one to a command that is no longer outstanding is discarded, as all are once a reset
of the partition has come to its step 5 (R302). -/
def peerAnswer (s : State) (part seq code : Nat) (data : List Byte) : State :=
  match s.fabric.out.find? fun o => decide (o.part = part) && decide (o.seq = seq) with
  | none => s
  | some o =>
    if code ≠ 0 then failOut s o code
    else if o.write then resolveOut s o .accepted
    else resolveOut s o (.got (data.take o.data.length))

/-- `FABRIC_COMMAND`. -/
def execFabricCommand (msg : FabMsg) (s : State) : Host.Outcome State Fault Refusal :=
  .next (if s.mgmt.up then
      match msg with
      | .read source part pasid seq address =>
        peerCommand s { source := source, part := part, pasid := pasid % 2 ^ 20, seq := seq, va := rvaOf address,
                        write := false, data := List.replicate (64 - address % 64) 0, id := 0, state := .todo }
      | .write source part pasid seq address data =>
        peerCommand s { source := source, part := part, pasid := pasid % 2 ^ 20, seq := seq, va := rvaOf address,
                        write := true, data := data.take (64 - address % 64), id := 0, state := .todo }
      | .answer part seq code data => peerAnswer s part seq code data
    else s)

/-- `PEER_RESET`: every command to a device, or to one partition of it, that is not yet acknowledged fails with code 0x04
(R301). -/
def execPeerReset (scope : PeerScope) (s : State) : Host.Outcome State Fault Refusal :=
  .next ((s.fabric.out.filter fun o => decide (o.dev = scope.dev) &&
      (scope.part.map fun q => decide (o.peer = q)).getD true).foldl
    (fun s o => resolveOut s o (.failed 0x04)) s)

/-! ### `FUNCTION_LEVEL_RESET` (R302) -/

/-- The live tasks of a partition. -/
def liveTasks (s : State) (part : Nat) : List Task := s.tasks.filter fun t => decide (t.part = part) && isLive t

/-- Steps 1 and 2: the rings are disabled and abandoned, and every task is told to stop. -/
def beginReset (s : State) (f : HostFn) : State :=
  let s1 := modFn { s with host.resetting := s.host.resetting ++ [f.part] } f.fn fun f =>
    { f with sqEn := false, cqEn := false, waiting := [] }
  (liveTasks s f.part).foldl (fun s t => stopOrCancel s t.uid 0x14) s1

/-- Commands of peers to a partition that have not been executed are answered with code 0x04; one that has been keeps its
response (R299, R301, R302). -/
def answerServing (s : State) (part : Nat) : State :=
  (s.fabric.serving.filter fun x => decide (x.part = part) && (outcomeOf x.state).isNone).foldl (fun s x => answerPeer s x 0x04 []) s

/-- Whether a burst of this device is a command to one of its own partitions, sent and not yet executed (R300, R301). -/
def ownCommand (s : State) (part : Nat) (w : Waiter) : Bool :=
  isFabric w.va && decide (devOf w.va = s.fabric.dev) &&
  (s.fabric.bindings.any fun b => decide (b.part = w.client.part) && decide (b.dev = s.fabric.dev) && decide (b.peer = part)) &&
  (match w.state with
    | .again | .ats _ | .page _ _ | .snoop _ => true
    | _ => false)

/-- Commands of this device to one of its own partitions that have not been executed fail with code 0x04 (R301, R302). -/
def failOwn (s : State) (part : Nat) : State :=
  ((waiters s).filter (ownCommand s part)).foldl (fun s w => setWaiter s w (.failed 0x04)) s

/-- Steps 3 to 5, once every task has ended: kept regions, records, the fault buffers' generation, cached
translations, peers' commands and outstanding commands. The rule does not say of which fault buffers the generation
advances: the model takes the tracts on which the partition has cores (log entry 115). -/
def finishReset (s : State) (f : HostFn) : State :=
  let q := (findPart s f.part).getD default
  let s1 := dropKeptWhere s f.part fun _ => true
  let s2 := ((coresOf q).map tractOf).dedup.foldl advanceGen (failOwn (answerServing s1 f.part) f.part)
  let s3 := modFn (modPart s2 f.part fun q => { q with lastHandle := 0 }) f.fn fun f => { f with waiting := [] }
  { s3 with
    tasks := s3.tasks.filter fun t => decide (t.part ≠ f.part)
    xlate.caches := s3.xlate.caches.filter fun e => decide (e.pasid ≠ q.pasid)
    fabric.out := s3.fabric.out.filter fun o => decide (o.part ≠ f.part)
    host.resetting := s3.host.resetting.filter fun p => decide (p ≠ f.part) }

/-- `FUNCTION_LEVEL_RESET` of a VF: it begins, and ends when the tasks of the partition have. R302 speaks of no reset of the
physical function, and the model lets one change nothing (log entry 114). -/
def execFunctionLevelReset (fn : Nat) (s : State) : Host.Outcome State Fault Refusal :=
  .next (match findFn s fn with
    | some f =>
      if fn = 0 then s
      else if !isResetting s f then beginReset s f
      else if (liveTasks s f.part).isEmpty then finishReset s f
      else s
    | none => s)

end Sys2Proof.Machine
end

