-- ==== Sys2Proof/Machine/Float.lean ====
section
/-!
DEFINITION. Floating-point computation, majors 0x0D and 0x12 to 0x16 (R203 to R213): binary32,
binary64 and packed halves over the exact operations of Num and the one rounding of `finishFloat`.
-/

namespace Sys2Proof.Machine

open Sys2Proof

/-! ### The shapes of the family -/

/-- An exact operation on values *a*, *b* and the addend *d*, given whether the mode is RDN. -/
abbrev FloatOp := Bool → FVal → FVal → FVal → FVal × Word

/-- `FADD` (R205, R206). -/
def opAdd : FloatOp := fun r a b _ => fAdd r a b
/-- `FSUB`: the difference is the sum with the negated operand (R205, R206). -/
def opSub : FloatOp := fun r a b _ => fAdd r a b.negate
/-- `FMUL` (R205, R206). -/
def opMul : FloatOp := fun _ a b _ => fMul a b
/-- `FFMA` (R205, R206). -/
def opFma : FloatOp := fun r a b d => fFma r a b d
/-- `FMIN` (R207). -/
def opMin : FloatOp := fun _ a b _ => (fMinMax false a b, fNone)
/-- `FMAX` (R207). -/
def opMax : FloatOp := fun _ a b _ => (fMinMax true a b, fNone)

/-- One element: the sign modifiers, the operation, and the common end (R53, R205). -/
def floatElem (f : Fmt) (m : ModWord) (op : FloatOp) (a b d : Nat) : Nat × Word :=
  finishFloat f m .rne (op (isRdn m) (f.value (signMod f m.aa m.na a)) (f.value (signMod f m.ab m.nb b))
    (f.value d))

/-- A binary32 instruction (R205). -/
def float32 (d a : BitVec 6) (b : BSrc) (gd : Guard) (sc : Bool) (op : FloatOp) (s : State) :
    Host.Outcome State Fault Refusal :=
  laneOp gd sc (fun g p l =>
    let r := floatElem f32 (modOf p) op (opA g p sc a l).toNat (opB g p sc b l).toNat
      (regRead g p sc l d.toNat).toNat
    { regs := [(d.toNat, BitVec.ofNat 32 r.1)], flags := r.2 }) s

/-- A binary64 instruction on pairs (R211). -/
def float64 (d a b : BitVec 6) (gd : Guard) (op : FloatOp) (s : State) :
    Host.Outcome State Fault Refusal :=
  laneOp gd false (fun g p l =>
    let r := floatElem f64 (modOf p) op (pairA g p false a l) (pairB g p false (.reg b) l)
      (pairNat (laneReg g l d.toNat) (laneReg g l (d.toNat + 1)))
    out2 d r.1 r.2) s

/-- A packed instruction on two 16-bit elements (R212); the lane takes the union of the flags. -/
def float16 (f : Fmt) (d a b : BitVec 6) (gd : Guard) (op : FloatOp) (s : State) :
    Host.Outcome State Fault Refusal :=
  laneOp gd false (fun g p l =>
    let x := (opA g p false a l).toNat
    let y := (opB g p false (.reg b) l).toNat
    let z := (laneReg g l d.toNat).toNat
    let e := fun k => floatElem f (modOf p) op (x / 2 ^ k % 2 ^ 16) (y / 2 ^ k % 2 ^ 16) (z / 2 ^ k % 2 ^ 16)
    { regs := [(d.toNat, BitVec.ofNat 32 ((e 0).1 + 2 ^ 16 * (e 16).1))],
      flags := (e 0).2 ||| (e 16).2 }) s

/-- `FSCALE`: *a* times a power of two, the count a signed integer (R205, R206). -/
def fscale (d a : BitVec 6) (b : BSrc) (gd : Guard) (sc : Bool) (s : State) :
    Host.Outcome State Fault Refusal :=
  laneOp gd sc (fun g p l =>
    let m := modOf p
    let x := f32.value (signMod f32 m.aa m.na (opA g p sc a l).toNat)
    let x := if x.isNan then .nan false else x
    let r := finishFloat f32 m .rne (x.scale (opB g p sc b l).toInt, fNone)
    { regs := [(d.toNat, BitVec.ofNat 32 r.1)], flags := r.2 }) s

/-- An instruction of major 0x14 on one binary32 operand, after the sign modifiers. -/
def floatUn (d a : BitVec 6) (gd : Guard) (sc : Bool) (f : ModWord → Nat → Nat × Word) (s : State) :
    Host.Outcome State Fault Refusal :=
  laneOp gd sc (fun g p l =>
    let m := modOf p
    let r := f m (signMod f32 m.aa m.na (opA g p sc a l).toNat)
    { regs := [(d.toNat, BitVec.ofNat 32 r.1)], flags := r.2 }) s

/-- A float comparison of two patterns of a format after the sign modifiers (R213). -/
def floatCond (f : Fmt) (m : ModWord) (c : FCond) (a b : Nat) : Bool × Word :=
  fcond c (f.value (signMod f m.aa m.na a)) (f.value (signMod f m.ab m.nb b))

/-! ### The meanings -/

/-- `FCMP` (R213). -/
def execFcmp (cond : FCond) (a : BitVec 6) (b : BitVec 6) (gd : Guard) (sc : Bool) (pd : BitVec 3) (s : State) :
    Host.Outcome State Fault Refusal :=
  compareOp gd sc pd (fun g p l =>
    floatCond f32 (modOf p) cond (opA g p sc a l).toNat (opB g p sc (.reg b) l).toNat) s

/-- `FCMP` (R213). Immediate form. -/
def execFcmpImm (cond : FCond) (a : BitVec 6) (imm : BitVec 6) (gd : Guard) (sc : Bool) (pd : BitVec 3) (s : State) :
    Host.Outcome State Fault Refusal :=
  compareOp gd sc pd (fun g p l =>
    floatCond f32 (modOf p) cond (opA g p sc a l).toNat (opB g p sc (.imms imm) l).toNat) s

/-- `DCMP` (R213). -/
def execDcmp (cond : FCond) (a : BitVec 6) (b : BitVec 6) (gd : Guard) (pd : BitVec 3) (s : State) :
    Host.Outcome State Fault Refusal :=
  compareOp gd false pd (fun g p l =>
    floatCond f64 (modOf p) cond (pairA g p false a l) (pairB g p false (.reg b) l)) s

/-- `FADD` (R205, R206). -/
def execFadd (d : BitVec 6) (a : BitVec 6) (b : BitVec 6) (gd : Guard) (sc : Bool) (s : State) :
    Host.Outcome State Fault Refusal :=
  float32 d a (.reg b) gd sc opAdd s

/-- `FSUB` (R205, R206). -/
def execFsub (d : BitVec 6) (a : BitVec 6) (b : BitVec 6) (gd : Guard) (sc : Bool) (s : State) :
    Host.Outcome State Fault Refusal :=
  float32 d a (.reg b) gd sc opSub s

/-- `FMUL` (R205, R206). -/
def execFmul (d : BitVec 6) (a : BitVec 6) (b : BitVec 6) (gd : Guard) (sc : Bool) (s : State) :
    Host.Outcome State Fault Refusal :=
  float32 d a (.reg b) gd sc opMul s

/-- `FFMA` (R205, R206). -/
def execFfma (d : BitVec 6) (a : BitVec 6) (b : BitVec 6) (gd : Guard) (sc : Bool) (s : State) :
    Host.Outcome State Fault Refusal :=
  float32 d a (.reg b) gd sc opFma s

/-- `FMIN` (R207). -/
def execFmin (d : BitVec 6) (a : BitVec 6) (b : BitVec 6) (gd : Guard) (sc : Bool) (s : State) :
    Host.Outcome State Fault Refusal :=
  float32 d a (.reg b) gd sc opMin s

/-- `FMAX` (R207). -/
def execFmax (d : BitVec 6) (a : BitVec 6) (b : BitVec 6) (gd : Guard) (sc : Bool) (s : State) :
    Host.Outcome State Fault Refusal :=
  float32 d a (.reg b) gd sc opMax s

/-- `FSCALE` (R205, R206). -/
def execFscale (d : BitVec 6) (a : BitVec 6) (b : BitVec 6) (gd : Guard) (sc : Bool) (s : State) :
    Host.Outcome State Fault Refusal :=
  fscale d a (.reg b) gd sc s

/-- `FADD` (R205, R206). Immediate form. -/
def execFaddImm (d : BitVec 6) (a : BitVec 6) (imm : BitVec 6) (gd : Guard) (sc : Bool) (s : State) :
    Host.Outcome State Fault Refusal :=
  float32 d a (.imms imm) gd sc opAdd s

/-- `FSUB` (R205, R206). Immediate form. -/
def execFsubImm (d : BitVec 6) (a : BitVec 6) (imm : BitVec 6) (gd : Guard) (sc : Bool) (s : State) :
    Host.Outcome State Fault Refusal :=
  float32 d a (.imms imm) gd sc opSub s

/-- `FMUL` (R205, R206). Immediate form. -/
def execFmulImm (d : BitVec 6) (a : BitVec 6) (imm : BitVec 6) (gd : Guard) (sc : Bool) (s : State) :
    Host.Outcome State Fault Refusal :=
  float32 d a (.imms imm) gd sc opMul s

/-- `FFMA` (R205, R206). Immediate form. -/
def execFfmaImm (d : BitVec 6) (a : BitVec 6) (imm : BitVec 6) (gd : Guard) (sc : Bool) (s : State) :
    Host.Outcome State Fault Refusal :=
  float32 d a (.imms imm) gd sc opFma s

/-- `FMIN` (R207). Immediate form. -/
def execFminImm (d : BitVec 6) (a : BitVec 6) (imm : BitVec 6) (gd : Guard) (sc : Bool) (s : State) :
    Host.Outcome State Fault Refusal :=
  float32 d a (.imms imm) gd sc opMin s

/-- `FMAX` (R207). Immediate form. -/
def execFmaxImm (d : BitVec 6) (a : BitVec 6) (imm : BitVec 6) (gd : Guard) (sc : Bool) (s : State) :
    Host.Outcome State Fault Refusal :=
  float32 d a (.imms imm) gd sc opMax s

/-- `FSCALE` (R205, R206). Immediate form. -/
def execFscaleImm (d : BitVec 6) (a : BitVec 6) (imm : BitVec 6) (gd : Guard) (sc : Bool) (s : State) :
    Host.Outcome State Fault Refusal :=
  fscale d a (.imms imm) gd sc s

/-- `FRCPE` (R208). -/
def execFrcpe (d : BitVec 6) (a : BitVec 6) (gd : Guard) (sc : Bool) (s : State) :
    Host.Outcome State Fault Refusal :=
  floatUn d a gd sc (fun _ x => fRcpe (f32.value x)) s

/-- `FRSQE` (R209). -/
def execFrsqe (d : BitVec 6) (a : BitVec 6) (gd : Guard) (sc : Bool) (s : State) :
    Host.Outcome State Fault Refusal :=
  floatUn d a gd sc (fun _ x => fRsqe (f32.value x)) s

/-- `FRND` (R210). -/
def execFrnd (d : BitVec 6) (a : BitVec 6) (gd : Guard) (sc : Bool) (s : State) :
    Host.Outcome State Fault Refusal :=
  floatUn d a gd sc (fun m x => (fRnd (modeOf m .rne) (f32.value x), fNone)) s

/-- `FCLASS` (R210). -/
def execFclass (d : BitVec 6) (a : BitVec 6) (gd : Guard) (sc : Bool) (s : State) :
    Host.Outcome State Fault Refusal :=
  floatUn d a gd sc (fun _ x => (fClass x, fNone)) s

/-- `DADD` (R211). -/
def execDadd (d : BitVec 6) (a : BitVec 6) (b : BitVec 6) (gd : Guard) (s : State) :
    Host.Outcome State Fault Refusal :=
  float64 d a b gd opAdd s

/-- `DSUB` (R211). -/
def execDsub (d : BitVec 6) (a : BitVec 6) (b : BitVec 6) (gd : Guard) (s : State) :
    Host.Outcome State Fault Refusal :=
  float64 d a b gd opSub s

/-- `DMUL` (R211). -/
def execDmul (d : BitVec 6) (a : BitVec 6) (b : BitVec 6) (gd : Guard) (s : State) :
    Host.Outcome State Fault Refusal :=
  float64 d a b gd opMul s

/-- `DFMA` (R211). -/
def execDfma (d : BitVec 6) (a : BitVec 6) (b : BitVec 6) (gd : Guard) (s : State) :
    Host.Outcome State Fault Refusal :=
  float64 d a b gd opFma s

/-- `DMIN` (R211). -/
def execDmin (d : BitVec 6) (a : BitVec 6) (b : BitVec 6) (gd : Guard) (s : State) :
    Host.Outcome State Fault Refusal :=
  float64 d a b gd opMin s

/-- `DMAX` (R211). -/
def execDmax (d : BitVec 6) (a : BitVec 6) (b : BitVec 6) (gd : Guard) (s : State) :
    Host.Outcome State Fault Refusal :=
  float64 d a b gd opMax s

/-- `HADD2.F16` (R212). -/
def execHadd2F16 (d : BitVec 6) (a : BitVec 6) (b : BitVec 6) (gd : Guard) (s : State) :
    Host.Outcome State Fault Refusal :=
  float16 f16 d a b gd opAdd s

/-- `HMUL2.F16` (R212). -/
def execHmul2F16 (d : BitVec 6) (a : BitVec 6) (b : BitVec 6) (gd : Guard) (s : State) :
    Host.Outcome State Fault Refusal :=
  float16 f16 d a b gd opMul s

/-- `HFMA2.F16` (R212). -/
def execHfma2F16 (d : BitVec 6) (a : BitVec 6) (b : BitVec 6) (gd : Guard) (s : State) :
    Host.Outcome State Fault Refusal :=
  float16 f16 d a b gd opFma s

/-- `HADD2.BF16` (R212). -/
def execHadd2Bf16 (d : BitVec 6) (a : BitVec 6) (b : BitVec 6) (gd : Guard) (s : State) :
    Host.Outcome State Fault Refusal :=
  float16 bf16 d a b gd opAdd s

/-- `HMUL2.BF16` (R212). -/
def execHmul2Bf16 (d : BitVec 6) (a : BitVec 6) (b : BitVec 6) (gd : Guard) (s : State) :
    Host.Outcome State Fault Refusal :=
  float16 bf16 d a b gd opMul s

/-- `HFMA2.BF16` (R212). -/
def execHfma2Bf16 (d : BitVec 6) (a : BitVec 6) (b : BitVec 6) (gd : Guard) (s : State) :
    Host.Outcome State Fault Refusal :=
  float16 bf16 d a b gd opFma s

end Sys2Proof.Machine
end

