-- ==== Sys2Proof/Machine/Integer.lean ====
section
/-!
DEFINITION. The integer and address family, majors 0x01 to 0x0C (R190 to R196): the results as
functions of words, and one meaning per row of the table over `laneOp`.
-/

namespace Sys2Proof.Machine

open Sys2Proof

/-! ### Results (R191 to R194) -/

/-- An exact result wrapped or saturated to `n` bits, its operands read as signed (SAT 0 and 1) or
unsigned (SAT 2) numbers (R53, R191). -/
def satResult (m : ModWord) (n : Nat) (f : Int → Int → Int → Int) (a b d : Nat) : Nat :=
  let rd := fun x : Nat => if m.sat = 2 then (x : Int) else sextInt x n
  let y := f (rd a) (rd b) (rd d)
  if m.sat = 0 then wrapInt n y
  else wrapInt n (clampInt (decide (m.sat = 1)) n y)

/-- `MULHI` (R191). -/
def mulhi (a b : Word) : Word := BitVec.ofInt 32 (a.toInt * b.toInt / 2 ^ 32)
/-- `MULHU` (R191). -/
def mulhu (a b : Word) : Word := BitVec.ofNat 32 (a.toNat * b.toNat / 2 ^ 32)
/-- `MIN` (R191). -/
def minS (a b : Word) : Word := if a.slt b then a else b
/-- `MAX` (R191). -/
def maxS (a b : Word) : Word := if a.slt b then b else a
/-- `MINU` (R191). -/
def minU (a b : Word) : Word := if a.ult b then a else b
/-- `MAXU` (R191). -/
def maxU (a b : Word) : Word := if a.ult b then b else a
/-- `SHL`: a shift count is the whole unsigned value of b (R192). -/
def shl (a b : Word) : Word := if 32 ≤ b.toNat then 0 else a <<< b.toNat
/-- `SHR` (R192). -/
def shr (a b : Word) : Word := if 32 ≤ b.toNat then 0 else a >>> b.toNat
/-- `SAR` (R192). -/
def sar (a b : Word) : Word := a.sshiftRight (min b.toNat 31)
/-- `TDIV` of R192. -/
def tdiv (a b : Word) : Word :=
  if b = 0 then 0xFFFFFFFF
  else if a = 0x80000000 ∧ b = 0xFFFFFFFF then 0x80000000
  else
    let q := a.toInt.natAbs / b.toInt.natAbs
    if a.msb != b.msb then -(BitVec.ofNat 32 q) else BitVec.ofNat 32 q
/-- `DIVU` (R192). -/
def divu (a b : Word) : Word := if b = 0 then 0xFFFFFFFF else a / b
/-- `REMS` (R192). -/
def rems (a b : Word) : Word := if b = 0 then a else a - b * tdiv a b
/-- `REMU` (R192). -/
def remu (a b : Word) : Word := if b = 0 then a else a % b
/-- `LEA` (R192). -/
def lea (a b : Word) : Word := a + 4 * b
/-- `CLZ` (R194). -/
def clz (a : Word) : Word := if a = 0 then 32 else BitVec.ofNat 32 (31 - a.toNat.log2)
/-- `POPC` (R194). -/
def popc (a : Word) : Word := BitVec.ofNat 32 (((List.range 32).filter fun i => a.getLsbD i).length)
/-- `BREV` (R194). -/
def brev (a : Word) : Word := a.reverse

/-- The position and the effective length of a field word (R194). -/
def fieldOf (f : Word) : Nat × Nat :=
  let pos := f.toNat % 32
  (pos, min (min (f.toNat / 64 % 128) 32) (32 - pos))

/-- `BFX` (R194). -/
def bfx (a f : Word) : Word :=
  let (pos, len) := fieldOf f
  BitVec.ofInt 32 (sextInt (a.toNat / 2 ^ pos) len)
/-- `BFXU` (R194). -/
def bfxu (a f : Word) : Word :=
  let (pos, len) := fieldOf f
  BitVec.ofNat 32 (a.toNat / 2 ^ pos % 2 ^ len)
/-- `BFI` (R194). -/
def bfi (a f d : Word) : Word :=
  let (pos, len) := fieldOf f
  let m : Word := BitVec.ofNat 32 ((2 ^ len - 1) * 2 ^ pos)
  (d &&& ~~~m) ||| ((a <<< pos) &&& m)

/-! ### The shapes of the family (R190) -/

/-- A two-operand word instruction. -/
def intBin (d a : BitVec 6) (b : BSrc) (gd : Guard) (sc : Bool) (f : Word → Word → Word) (s : State) :
    Host.Outcome State Fault Refusal :=
  laneOp gd sc (fun g p l => out1 d (f (opA g p sc a l) (opB g p sc b l))) s

/-- A two- or three-operand word instruction that takes SAT. -/
def intSat (d a : BitVec 6) (b : BSrc) (gd : Guard) (sc : Bool) (f : Int → Int → Int → Int)
    (s : State) : Host.Outcome State Fault Refusal :=
  laneOp gd sc (fun g p l => out1 d (BitVec.ofNat 32 (satResult (modOf p) 32 f
    (opA g p sc a l).toNat (opB g p sc b l).toNat (regRead g p sc l d.toNat).toNat))) s

/-- A 64-bit addition or subtraction (R193). -/
def intSat64 (d a : BitVec 6) (b : BSrc) (gd : Guard) (sc : Bool) (f : Int → Int → Int) (s : State) :
    Host.Outcome State Fault Refusal :=
  laneOp gd sc (fun g p l => out2 d (satResult (modOf p) 64 (fun x y _ => f x y)
    (pairA g p sc a l) (pairB g p sc b l) 0) 0) s

/-- A 64-bit shift by a 32-bit count (R193). -/
def intShift64 (d a : BitVec 6) (b : BSrc) (gd : Guard) (sc : Bool) (f : Nat → Nat → Nat) (s : State) :
    Host.Outcome State Fault Refusal :=
  laneOp gd sc (fun g p l => out2 d (f (pairA g p sc a l) (opB g p sc b l).toNat) 0) s

/-- A one-operand word instruction (R194). -/
def intUn (d a : BitVec 6) (gd : Guard) (sc : Bool) (f : Word → Word) (s : State) :
    Host.Outcome State Fault Refusal :=
  laneOp gd sc (fun g p l => out1 d (f (opA g p sc a l))) s

/-- `SHL64` (R193). -/
def shl64 (a b : Nat) : Nat := if 64 ≤ b then 0 else a * 2 ^ b % 2 ^ 64
/-- `SHR64` (R193). -/
def shr64 (a b : Nat) : Nat := if 64 ≤ b then 0 else a / 2 ^ b

/-! ### The meanings -/

/-- `ADD` (R191). -/
def execAdd (d : BitVec 6) (a : BitVec 6) (b : BitVec 6) (gd : Guard) (sc : Bool) (s : State) :
    Host.Outcome State Fault Refusal :=
  intSat d a (.reg b) gd sc (fun x y _ => x + y) s

/-- `SUB` (R191). -/
def execSub (d : BitVec 6) (a : BitVec 6) (b : BitVec 6) (gd : Guard) (sc : Bool) (s : State) :
    Host.Outcome State Fault Refusal :=
  intSat d a (.reg b) gd sc (fun x y _ => x - y) s

/-- `MUL` (R191). -/
def execMul (d : BitVec 6) (a : BitVec 6) (b : BitVec 6) (gd : Guard) (sc : Bool) (s : State) :
    Host.Outcome State Fault Refusal :=
  intSat d a (.reg b) gd sc (fun x y _ => x * y) s

/-- `MULHI` (R191). -/
def execMulhi (d : BitVec 6) (a : BitVec 6) (b : BitVec 6) (gd : Guard) (sc : Bool) (s : State) :
    Host.Outcome State Fault Refusal :=
  intBin d a (.reg b) gd sc mulhi s

/-- `MULHU` (R191). -/
def execMulhu (d : BitVec 6) (a : BitVec 6) (b : BitVec 6) (gd : Guard) (sc : Bool) (s : State) :
    Host.Outcome State Fault Refusal :=
  intBin d a (.reg b) gd sc mulhu s

/-- `MAD` (R191). -/
def execMad (d : BitVec 6) (a : BitVec 6) (b : BitVec 6) (gd : Guard) (sc : Bool) (s : State) :
    Host.Outcome State Fault Refusal :=
  intSat d a (.reg b) gd sc (fun x y z => x * y + z) s

/-- `MIN` (R191). -/
def execMin (d : BitVec 6) (a : BitVec 6) (b : BitVec 6) (gd : Guard) (sc : Bool) (s : State) :
    Host.Outcome State Fault Refusal :=
  intBin d a (.reg b) gd sc minS s

/-- `MAX` (R191). -/
def execMax (d : BitVec 6) (a : BitVec 6) (b : BitVec 6) (gd : Guard) (sc : Bool) (s : State) :
    Host.Outcome State Fault Refusal :=
  intBin d a (.reg b) gd sc maxS s

/-- `ADD` (R191). Immediate form. -/
def execAddImm (d : BitVec 6) (a : BitVec 6) (imm : BitVec 6) (gd : Guard) (sc : Bool) (s : State) :
    Host.Outcome State Fault Refusal :=
  intSat d a (.imms imm) gd sc (fun x y _ => x + y) s

/-- `SUB` (R191). Immediate form. -/
def execSubImm (d : BitVec 6) (a : BitVec 6) (imm : BitVec 6) (gd : Guard) (sc : Bool) (s : State) :
    Host.Outcome State Fault Refusal :=
  intSat d a (.imms imm) gd sc (fun x y _ => x - y) s

/-- `MUL` (R191). Immediate form. -/
def execMulImm (d : BitVec 6) (a : BitVec 6) (imm : BitVec 6) (gd : Guard) (sc : Bool) (s : State) :
    Host.Outcome State Fault Refusal :=
  intSat d a (.imms imm) gd sc (fun x y _ => x * y) s

/-- `MULHI` (R191). Immediate form. -/
def execMulhiImm (d : BitVec 6) (a : BitVec 6) (imm : BitVec 6) (gd : Guard) (sc : Bool) (s : State) :
    Host.Outcome State Fault Refusal :=
  intBin d a (.imms imm) gd sc mulhi s

/-- `MULHU` (R191). Immediate form. -/
def execMulhuImm (d : BitVec 6) (a : BitVec 6) (imm : BitVec 6) (gd : Guard) (sc : Bool) (s : State) :
    Host.Outcome State Fault Refusal :=
  intBin d a (.immu imm) gd sc mulhu s

/-- `MAD` (R191). Immediate form. -/
def execMadImm (d : BitVec 6) (a : BitVec 6) (imm : BitVec 6) (gd : Guard) (sc : Bool) (s : State) :
    Host.Outcome State Fault Refusal :=
  intSat d a (.imms imm) gd sc (fun x y z => x * y + z) s

/-- `MIN` (R191). Immediate form. -/
def execMinImm (d : BitVec 6) (a : BitVec 6) (imm : BitVec 6) (gd : Guard) (sc : Bool) (s : State) :
    Host.Outcome State Fault Refusal :=
  intBin d a (.imms imm) gd sc minS s

/-- `MAX` (R191). Immediate form. -/
def execMaxImm (d : BitVec 6) (a : BitVec 6) (imm : BitVec 6) (gd : Guard) (sc : Bool) (s : State) :
    Host.Outcome State Fault Refusal :=
  intBin d a (.imms imm) gd sc maxS s

/-- `MINU` (R191). -/
def execMinu (d : BitVec 6) (a : BitVec 6) (b : BitVec 6) (gd : Guard) (sc : Bool) (s : State) :
    Host.Outcome State Fault Refusal :=
  intBin d a (.reg b) gd sc minU s

/-- `MAXU` (R191). -/
def execMaxu (d : BitVec 6) (a : BitVec 6) (b : BitVec 6) (gd : Guard) (sc : Bool) (s : State) :
    Host.Outcome State Fault Refusal :=
  intBin d a (.reg b) gd sc maxU s

/-- `AND` (R191). -/
def execAnd (d : BitVec 6) (a : BitVec 6) (b : BitVec 6) (gd : Guard) (sc : Bool) (s : State) :
    Host.Outcome State Fault Refusal :=
  intBin d a (.reg b) gd sc (fun x y => x &&& y) s

/-- `OR` (R191). -/
def execOr (d : BitVec 6) (a : BitVec 6) (b : BitVec 6) (gd : Guard) (sc : Bool) (s : State) :
    Host.Outcome State Fault Refusal :=
  intBin d a (.reg b) gd sc (fun x y => x ||| y) s

/-- `XOR` (R191). -/
def execXor (d : BitVec 6) (a : BitVec 6) (b : BitVec 6) (gd : Guard) (sc : Bool) (s : State) :
    Host.Outcome State Fault Refusal :=
  intBin d a (.reg b) gd sc (fun x y => x ^^^ y) s

/-- `ANDN` (R191). -/
def execAndn (d : BitVec 6) (a : BitVec 6) (b : BitVec 6) (gd : Guard) (sc : Bool) (s : State) :
    Host.Outcome State Fault Refusal :=
  intBin d a (.reg b) gd sc (fun x y => x &&& ~~~y) s

/-- `ROL` (R191). -/
def execRol (d : BitVec 6) (a : BitVec 6) (b : BitVec 6) (gd : Guard) (sc : Bool) (s : State) :
    Host.Outcome State Fault Refusal :=
  intBin d a (.reg b) gd sc (fun x y => rotl x y.toNat) s

/-- `MINU` (R191). Immediate form. -/
def execMinuImm (d : BitVec 6) (a : BitVec 6) (imm : BitVec 6) (gd : Guard) (sc : Bool) (s : State) :
    Host.Outcome State Fault Refusal :=
  intBin d a (.immu imm) gd sc minU s

/-- `MAXU` (R191). Immediate form. -/
def execMaxuImm (d : BitVec 6) (a : BitVec 6) (imm : BitVec 6) (gd : Guard) (sc : Bool) (s : State) :
    Host.Outcome State Fault Refusal :=
  intBin d a (.immu imm) gd sc maxU s

/-- `AND` (R191). Immediate form. -/
def execAndImm (d : BitVec 6) (a : BitVec 6) (imm : BitVec 6) (gd : Guard) (sc : Bool) (s : State) :
    Host.Outcome State Fault Refusal :=
  intBin d a (.immu imm) gd sc (fun x y => x &&& y) s

/-- `OR` (R191). Immediate form. -/
def execOrImm (d : BitVec 6) (a : BitVec 6) (imm : BitVec 6) (gd : Guard) (sc : Bool) (s : State) :
    Host.Outcome State Fault Refusal :=
  intBin d a (.immu imm) gd sc (fun x y => x ||| y) s

/-- `XOR` (R191). Immediate form. -/
def execXorImm (d : BitVec 6) (a : BitVec 6) (imm : BitVec 6) (gd : Guard) (sc : Bool) (s : State) :
    Host.Outcome State Fault Refusal :=
  intBin d a (.immu imm) gd sc (fun x y => x ^^^ y) s

/-- `ANDN` (R191). Immediate form. -/
def execAndnImm (d : BitVec 6) (a : BitVec 6) (imm : BitVec 6) (gd : Guard) (sc : Bool) (s : State) :
    Host.Outcome State Fault Refusal :=
  intBin d a (.immu imm) gd sc (fun x y => x &&& ~~~y) s

/-- `ROL` (R191). Immediate form. -/
def execRolImm (d : BitVec 6) (a : BitVec 6) (imm : BitVec 6) (gd : Guard) (sc : Bool) (s : State) :
    Host.Outcome State Fault Refusal :=
  intBin d a (.immu imm) gd sc (fun x y => rotl x y.toNat) s

/-- `SHL` (R192). -/
def execShl (d : BitVec 6) (a : BitVec 6) (b : BitVec 6) (gd : Guard) (sc : Bool) (s : State) :
    Host.Outcome State Fault Refusal :=
  intBin d a (.reg b) gd sc shl s

/-- `SHR` (R192). -/
def execShr (d : BitVec 6) (a : BitVec 6) (b : BitVec 6) (gd : Guard) (sc : Bool) (s : State) :
    Host.Outcome State Fault Refusal :=
  intBin d a (.reg b) gd sc shr s

/-- `SAR` (R192). -/
def execSar (d : BitVec 6) (a : BitVec 6) (b : BitVec 6) (gd : Guard) (sc : Bool) (s : State) :
    Host.Outcome State Fault Refusal :=
  intBin d a (.reg b) gd sc sar s

/-- `DIVS` (R192). -/
def execDivs (d : BitVec 6) (a : BitVec 6) (b : BitVec 6) (gd : Guard) (sc : Bool) (s : State) :
    Host.Outcome State Fault Refusal :=
  intBin d a (.reg b) gd sc tdiv s

/-- `DIVU` (R192). -/
def execDivu (d : BitVec 6) (a : BitVec 6) (b : BitVec 6) (gd : Guard) (sc : Bool) (s : State) :
    Host.Outcome State Fault Refusal :=
  intBin d a (.reg b) gd sc divu s

/-- `REMS` (R192). -/
def execRems (d : BitVec 6) (a : BitVec 6) (b : BitVec 6) (gd : Guard) (sc : Bool) (s : State) :
    Host.Outcome State Fault Refusal :=
  intBin d a (.reg b) gd sc rems s

/-- `REMU` (R192). -/
def execRemu (d : BitVec 6) (a : BitVec 6) (b : BitVec 6) (gd : Guard) (sc : Bool) (s : State) :
    Host.Outcome State Fault Refusal :=
  intBin d a (.reg b) gd sc remu s

/-- `LEA` (R192). -/
def execLea (d : BitVec 6) (a : BitVec 6) (b : BitVec 6) (gd : Guard) (sc : Bool) (s : State) :
    Host.Outcome State Fault Refusal :=
  intBin d a (.reg b) gd sc lea s

/-- `SHL` (R192). Immediate form. -/
def execShlImm (d : BitVec 6) (a : BitVec 6) (imm : BitVec 6) (gd : Guard) (sc : Bool) (s : State) :
    Host.Outcome State Fault Refusal :=
  intBin d a (.immu imm) gd sc shl s

/-- `SHR` (R192). Immediate form. -/
def execShrImm (d : BitVec 6) (a : BitVec 6) (imm : BitVec 6) (gd : Guard) (sc : Bool) (s : State) :
    Host.Outcome State Fault Refusal :=
  intBin d a (.immu imm) gd sc shr s

/-- `SAR` (R192). Immediate form. -/
def execSarImm (d : BitVec 6) (a : BitVec 6) (imm : BitVec 6) (gd : Guard) (sc : Bool) (s : State) :
    Host.Outcome State Fault Refusal :=
  intBin d a (.immu imm) gd sc sar s

/-- `DIVS` (R192). Immediate form. -/
def execDivsImm (d : BitVec 6) (a : BitVec 6) (imm : BitVec 6) (gd : Guard) (sc : Bool) (s : State) :
    Host.Outcome State Fault Refusal :=
  intBin d a (.imms imm) gd sc tdiv s

/-- `DIVU` (R192). Immediate form. -/
def execDivuImm (d : BitVec 6) (a : BitVec 6) (imm : BitVec 6) (gd : Guard) (sc : Bool) (s : State) :
    Host.Outcome State Fault Refusal :=
  intBin d a (.immu imm) gd sc divu s

/-- `REMS` (R192). Immediate form. -/
def execRemsImm (d : BitVec 6) (a : BitVec 6) (imm : BitVec 6) (gd : Guard) (sc : Bool) (s : State) :
    Host.Outcome State Fault Refusal :=
  intBin d a (.imms imm) gd sc rems s

/-- `REMU` (R192). Immediate form. -/
def execRemuImm (d : BitVec 6) (a : BitVec 6) (imm : BitVec 6) (gd : Guard) (sc : Bool) (s : State) :
    Host.Outcome State Fault Refusal :=
  intBin d a (.immu imm) gd sc remu s

/-- `LEA` (R192). Immediate form. -/
def execLeaImm (d : BitVec 6) (a : BitVec 6) (imm : BitVec 6) (gd : Guard) (sc : Bool) (s : State) :
    Host.Outcome State Fault Refusal :=
  intBin d a (.imms imm) gd sc lea s

/-- `ADD64` (R193). -/
def execAdd64 (d : BitVec 6) (a : BitVec 6) (b : BitVec 6) (gd : Guard) (sc : Bool) (s : State) :
    Host.Outcome State Fault Refusal :=
  intSat64 d a (.reg b) gd sc (fun x y => x + y) s

/-- `SUB64` (R193). -/
def execSub64 (d : BitVec 6) (a : BitVec 6) (b : BitVec 6) (gd : Guard) (sc : Bool) (s : State) :
    Host.Outcome State Fault Refusal :=
  intSat64 d a (.reg b) gd sc (fun x y => x - y) s

/-- `SHL64` (R193). -/
def execShl64 (d : BitVec 6) (a : BitVec 6) (b : BitVec 6) (gd : Guard) (sc : Bool) (s : State) :
    Host.Outcome State Fault Refusal :=
  intShift64 d a (.reg b) gd sc shl64 s

/-- `SHR64` (R193). -/
def execShr64 (d : BitVec 6) (a : BitVec 6) (b : BitVec 6) (gd : Guard) (sc : Bool) (s : State) :
    Host.Outcome State Fault Refusal :=
  intShift64 d a (.reg b) gd sc shr64 s

/-- `ADD64` (R193). Immediate form. -/
def execAdd64Imm (d : BitVec 6) (a : BitVec 6) (imm : BitVec 6) (gd : Guard) (sc : Bool) (s : State) :
    Host.Outcome State Fault Refusal :=
  intSat64 d a (.imms imm) gd sc (fun x y => x + y) s

/-- `SUB64` (R193). Immediate form. -/
def execSub64Imm (d : BitVec 6) (a : BitVec 6) (imm : BitVec 6) (gd : Guard) (sc : Bool) (s : State) :
    Host.Outcome State Fault Refusal :=
  intSat64 d a (.imms imm) gd sc (fun x y => x - y) s

/-- `SHL64` (R193). Immediate form. -/
def execShl64Imm (d : BitVec 6) (a : BitVec 6) (imm : BitVec 6) (gd : Guard) (sc : Bool) (s : State) :
    Host.Outcome State Fault Refusal :=
  intShift64 d a (.immu imm) gd sc shl64 s

/-- `SHR64` (R193). Immediate form. -/
def execShr64Imm (d : BitVec 6) (a : BitVec 6) (imm : BitVec 6) (gd : Guard) (sc : Bool) (s : State) :
    Host.Outcome State Fault Refusal :=
  intShift64 d a (.immu imm) gd sc shr64 s

/-- `MOV` (R194). -/
def execMov (d : BitVec 6) (a : BitVec 6) (gd : Guard) (sc : Bool) (s : State) :
    Host.Outcome State Fault Refusal :=
  intUn d a gd sc (fun x => x) s

/-- `CLZ` (R194). -/
def execClz (d : BitVec 6) (a : BitVec 6) (gd : Guard) (sc : Bool) (s : State) :
    Host.Outcome State Fault Refusal :=
  intUn d a gd sc clz s

/-- `POPC` (R194). -/
def execPopc (d : BitVec 6) (a : BitVec 6) (gd : Guard) (sc : Bool) (s : State) :
    Host.Outcome State Fault Refusal :=
  intUn d a gd sc popc s

/-- `BREV` (R194). -/
def execBrev (d : BitVec 6) (a : BitVec 6) (gd : Guard) (sc : Bool) (s : State) :
    Host.Outcome State Fault Refusal :=
  intUn d a gd sc brev s

/-- `BFX` (R194). -/
def execBfx (d : BitVec 6) (a : BitVec 6) (b : BitVec 6) (gd : Guard) (sc : Bool) (s : State) :
    Host.Outcome State Fault Refusal :=
  intBin d a (.reg b) gd sc bfx s

/-- `BFXU` (R194). -/
def execBfxu (d : BitVec 6) (a : BitVec 6) (b : BitVec 6) (gd : Guard) (sc : Bool) (s : State) :
    Host.Outcome State Fault Refusal :=
  intBin d a (.reg b) gd sc bfxu s

/-- `BFI` (R194). -/
def execBfi (d : BitVec 6) (a : BitVec 6) (b : BitVec 6) (gd : Guard) (sc : Bool) (s : State) :
    Host.Outcome State Fault Refusal :=
  laneOp gd sc (fun g p l => out1 d
    (bfi (opA g p sc a l) (opB g p sc (.reg b) l) (regRead g p sc l d.toNat))) s

/-- `MOVI` (R194). -/
def execMovi (d : BitVec 6) (imm : BitVec 6) (gd : Guard) (sc : Bool) (s : State) :
    Host.Outcome State Fault Refusal :=
  laneOp gd sc (fun _ p _ => out1 d (imms p imm)) s

/-- `BFX` (R194). Immediate form. -/
def execBfxImm (d : BitVec 6) (a : BitVec 6) (imm : BitVec 6) (gd : Guard) (sc : Bool) (s : State) :
    Host.Outcome State Fault Refusal :=
  intBin d a (.immu imm) gd sc bfx s

/-- `BFXU` (R194). Immediate form. -/
def execBfxuImm (d : BitVec 6) (a : BitVec 6) (imm : BitVec 6) (gd : Guard) (sc : Bool) (s : State) :
    Host.Outcome State Fault Refusal :=
  intBin d a (.immu imm) gd sc bfxu s

/-- `BFI` (R194). Immediate form. -/
def execBfiImm (d : BitVec 6) (a : BitVec 6) (imm : BitVec 6) (gd : Guard) (sc : Bool) (s : State) :
    Host.Outcome State Fault Refusal :=
  laneOp gd sc (fun g p l => out1 d
    (bfi (opA g p sc a l) (opB g p sc (.immu imm) l) (regRead g p sc l d.toNat))) s

/-- `SEL` (R195). -/
def execSel (d : BitVec 6) (a : BitVec 6) (b : BitVec 6) (gd : Guard) (sc : Bool) (k : BitVec 3) (s : State) :
    Host.Outcome State Fault Refusal :=
  laneOp gd sc (fun g p l => out1 d
    (if (predOf p k).getLsbD l then opA g p sc a l else opB g p sc (.reg b) l)) s

/-- `CMP` (R196). -/
def execCmp (cond : ICond) (a : BitVec 6) (b : BitVec 6) (gd : Guard) (sc : Bool) (pd : BitVec 3) (s : State) :
    Host.Outcome State Fault Refusal :=
  compareOp gd sc pd (fun g p l =>
    (icond cond (opA g p sc a l) (opB g p sc (.reg b) l), 0)) s

/-- `CMP` (R196). Immediate form. -/
def execCmpImm (cond : ICond) (a : BitVec 6) (imm : BitVec 6) (gd : Guard) (sc : Bool) (pd : BitVec 3) (s : State) :
    Host.Outcome State Fault Refusal :=
  compareOp gd sc pd (fun g p l => (icond cond (opA g p sc a l)
    (opB g p sc (if icondUnsigned cond then .immu imm else .imms imm) l), 0)) s

end Sys2Proof.Machine
end

