-- ==== Sys2Proof/Machine/Lane.lean ====
section
/-!
DEFINITION. Predicate logic and the instructions that move values between the lanes of one group,
majors 0x0E to 0x11 (R197 to R201).
-/

namespace Sys2Proof.Machine

open Sys2Proof

/-! ### Predicate logic (R197) -/

/-- The common effect of major 0x0E: every source is read before the destination is written, and
inactive lanes keep their bits. -/
def predLogic (pd : BitVec 3) (id : Bool) (gd : Guard) (r : Path → Mask) (s : State) :
    Host.Outcome State Fault Refusal :=
  onPath s fun g p _ =>
    let y := r p
    putPath s g (advance (setPred p pd.toNat (activeMask p gd) (if id then ~~~y else y)))

/-- A predicate source with its invert bit. -/
def predSrc (p : Path) (n : BitVec 3) (inv : Bool) : Mask := if inv then ~~~(predOf p n) else predOf p n

/-- `PAND` (R197). -/
def execPand (pd : BitVec 3) (id : Bool) (pa : BitVec 3) (ia : Bool) (pb : BitVec 3) (ib : Bool)
    (gd : Guard) (s : State) : Host.Outcome State Fault Refusal :=
  predLogic pd id gd (fun p => predSrc p pa ia &&& predSrc p pb ib) s

/-- `POR` (R197). -/
def execPor (pd : BitVec 3) (id : Bool) (pa : BitVec 3) (ia : Bool) (pb : BitVec 3) (ib : Bool)
    (gd : Guard) (s : State) : Host.Outcome State Fault Refusal :=
  predLogic pd id gd (fun p => predSrc p pa ia ||| predSrc p pb ib) s

/-- `PXOR` (R197). -/
def execPxor (pd : BitVec 3) (id : Bool) (pa : BitVec 3) (ia : Bool) (pb : BitVec 3) (ib : Bool)
    (gd : Guard) (s : State) : Host.Outcome State Fault Refusal :=
  predLogic pd id gd (fun p => predSrc p pa ia ^^^ predSrc p pb ib) s

/-- `PNOT` (R197). -/
def execPnot (pd : BitVec 3) (id : Bool) (pa : BitVec 3) (ia : Bool) (gd : Guard) (s : State) :
    Host.Outcome State Fault Refusal :=
  predLogic pd id gd (fun p => ~~~(predSrc p pa ia)) s

/-! ### Reading another lane (R198, R199) -/

/-- `X(k)` of R199: a lane register of lane `k`, or 0 when the lane is not in `EXEC`. -/
def crossLane (g : Group) (p : Path) (a : BitVec 6) (k : Nat) : Word :=
  if p.exec.getLsbD k then laneReg g k a.toNat else 0

/-- `SHFL` by register: each active lane reads the lane its own B names. -/
def execShfl (d a b : BitVec 6) (gd : Guard) (s : State) : Host.Outcome State Fault Refusal :=
  laneOp gd false (fun g p l => out1 d (crossLane g p a ((laneReg g l b.toNat).toNat % g.width))) s

/-- `SHFL` by immediate: a butterfly on lane numbers. -/
def execShflImm (d a imm : BitVec 6) (gd : Guard) (s : State) : Host.Outcome State Fault Refusal :=
  laneOp gd false (fun g p l => out1 d (crossLane g p a ((l ^^^ (immu p imm).toNat) % g.width))) s

/-- `BCAST`: every active lane reads the one lane `k` names. -/
def bcast (d a : BitVec 6) (k : Group → Path → Nat) (gd : Guard) (s : State) :
    Host.Outcome State Fault Refusal :=
  laneOp gd false (fun g p _ => out1 d (crossLane g p a (k g p % g.width))) s

/-- `BCAST` by register: the lane is named by the elected lane's B. -/
def execBcast (d a b : BitVec 6) (gd : Guard) (s : State) : Host.Outcome State Fault Refusal :=
  bcast d a (fun g p => (laneReg g ((lowest (activeMask p gd)).getD 0) b.toNat).toNat) gd s

/-- `BCAST` by immediate. -/
def execBcastImm (d a imm : BitVec 6) (gd : Guard) (s : State) : Host.Outcome State Fault Refusal :=
  bcast d a (fun _ p => (immu p imm).toNat) gd s

/-- `RDLANE`: once, when a lane is active. -/
def rdlane (d a : BitVec 6) (k : Path → Nat) (gd : Guard) (s : State) :
    Host.Outcome State Fault Refusal :=
  onPath s fun g p _ =>
    if activeMask p gd = 0 then putPath s g (advance p)
    else putPath s g (advance (setSreg p d.toNat (crossLane g p a (k p % g.width))))

/-- `RDLANE` by scalar register. -/
def execRdlane (d a b : BitVec 6) (gd : Guard) (s : State) : Host.Outcome State Fault Refusal :=
  rdlane d a (fun p => (sreg p b.toNat).toNat) gd s

/-- `RDLANE` by immediate. -/
def execRdlaneImm (d a imm : BitVec 6) (gd : Guard) (s : State) : Host.Outcome State Fault Refusal :=
  rdlane d a (fun p => (immu p imm).toNat) gd s

/-- `WRLANE`: once; an inactive target lane is not written. -/
def wrlane (d a : BitVec 6) (k : Path → Nat) (gd : Guard) (s : State) :
    Host.Outcome State Fault Refusal :=
  onPath s fun g p _ =>
    let m := activeMask p gd &&& BitVec.twoPow 64 (k p % g.width)
    putPath s (modLanes g m fun _ t => setVreg t d.toNat (sreg p a.toNat)) (advance p)

/-- `WRLANE` by scalar register. -/
def execWrlane (d a b : BitVec 6) (gd : Guard) (s : State) : Host.Outcome State Fault Refusal :=
  wrlane d a (fun p => (sreg p b.toNat).toNat) gd s

/-- `WRLANE` by immediate. -/
def execWrlaneImm (d a imm : BitVec 6) (gd : Guard) (s : State) : Host.Outcome State Fault Refusal :=
  wrlane d a (fun p => (immu p imm).toNat) gd s

/-! ### Reductions and scans (R200) -/

/-- The operator of a reduction with the flags it raises. -/
def laneCombine (op : LaneOp) (x y : Word) : Word × Word :=
  match op with
  | .add => (x + y, 0)
  | .min => (if x.slt y then x else y, 0)
  | .max => (if x.slt y then y else x, 0)
  | .minu => (if x.ult y then x else y, 0)
  | .maxu => (if x.ult y then y else x, 0)
  | .and => (x &&& y, 0)
  | .or => (x ||| y, 0)
  | .xor => (x ^^^ y, 0)
  | .fadd =>
    let r := fAdd false (f32.value x.toNat) (f32.value y.toNat)
    let z := rne32 r.1
    (BitVec.ofNat 32 z.1, r.2 ||| z.2)
  | .fmin => (BitVec.ofNat 32 (rne32 (fMinMax false (f32.value x.toNat) (f32.value y.toNat))).1, 0)
  | .fmax => (BitVec.ofNat 32 (rne32 (fMinMax true (f32.value x.toNat) (f32.value y.toNat))).1, 0)

/-- The identity that stands in for an inactive position. -/
def laneIdentity (op : LaneOp) : Word :=
  match op with
  | .add => 0
  | .min => 0x7FFFFFFF
  | .max => 0x80000000
  | .minu => 0xFFFFFFFF
  | .maxu => 0
  | .and => 0xFFFFFFFF
  | .or => 0
  | .xor => 0
  | .fadd => 0x80000000
  | .fmin => 0x7F800000
  | .fmax => 0xFF800000

/-- One level of the reduction tree: neighbours combined in pairs, with the flags of the level. -/
def pairLevel (op : LaneOp) : List Word → List Word × Word
  | x :: y :: r =>
    let c := laneCombine op x y
    let q := pairLevel op r
    (c.1 :: q.1, c.2 ||| q.2)
  | l => (l, 0)

/-- The reduction tree of `REDL`: `n` levels (R200). -/
def reduceTree (op : LaneOp) : Nat → List Word → Word × Word
  | 0, l => (l.headD 0, 0)
  | n + 1, l =>
    let q := pairLevel op l
    let r := reduceTree op n q.1
    (r.1, q.2 ||| r.2)

/-- One level of `SCANL` at distance `m`: both operands from the previous level (R200). -/
def scanLevel (op : LaneOp) (m : Nat) (y : List Word) : List Word × Word :=
  let cs := List.zipWith (laneCombine op) y (y.drop m)
  (y.take m ++ cs.map (·.1), cs.foldl (fun f c => f ||| c.2) 0)

/-- The levels of `SCANL` at distances `m`, `2m`, … (R200). -/
def scanTree (op : LaneOp) : Nat → Nat → List Word → List Word × Word
  | 0, _, y => (y, 0)
  | n + 1, m, y =>
    let q := scanLevel op m y
    let r := scanTree op n (2 * m) q.1
    (r.1, q.2 ||| r.2)

/-- The operands of a reduction: the identity in every inactive position. -/
def laneOperands (op : LaneOp) (a : BitVec 6) (gd : Guard) (g : Group) (p : Path) : List Word :=
  (List.range g.width).map fun k =>
    if (activeMask p gd).getLsbD k then laneReg g k a.toNat else laneIdentity op

/-- `REDL` (R200): one value in every active lane; the union of the flags in every active lane. -/
def execRedl (d a : BitVec 6) (op : LaneOp) (gd : Guard) (s : State) :
    Host.Outcome State Fault Refusal :=
  laneOp gd false (fun g p _ =>
    let r := reduceTree op g.width.log2 (laneOperands op a gd g p)
    { regs := [(d.toNat, r.1)], flags := r.2 }) s

/-- `SCANL` and `SCANL.EX` (R200). -/
def execScanl (d a : BitVec 6) (ex : Bool) (op : LaneOp) (gd : Guard) (s : State) :
    Host.Outcome State Fault Refusal :=
  laneOp gd false (fun g p l =>
    let x := laneOperands op a gd g p
    let y := if ex then laneIdentity op :: x.dropLast else x
    let r := scanTree op g.width.log2 1 y
    { regs := [(d.toNat, r.1.getD l 0)], flags := r.2 }) s

/-! ### Votes (R201) -/

/-- `VOTE`: nothing changes with no active lane; a predicate result is written into every bit, and
`VOTE.BAL` writes the mask into a scalar pair. -/
def execVote (d : BitVec 6) (pa : BitVec 3) (mode : VoteMode) (gd : Guard) (s : State) :
    Host.Outcome State Fault Refusal :=
  onPath s fun g p _ =>
    let act := activeMask p gd
    let yes := predOf p pa &&& act
    let put := fun b : Bool =>
      putPath s g (advance (setPred p d.toNat (fullMask g.width) (if b then BitVec.allOnes 64 else 0)))
    if act = 0 then putPath s g (advance p)
    else match mode with
      | .all => put (decide (yes = act))
      | .any => put (decide (yes ≠ 0))
      | .uni => put (decide (yes = act) || decide (yes = 0))
      | .bal =>
        putPath s g (advance (setSreg (setSreg p d.toNat (yes.setWidth 32)) (d.toNat + 1)
          ((yes >>> 32).setWidth 32)))

/-- `POPM`: the number of active lanes whose bit is set, all of them or those below the lane. -/
def execPopm (d : BitVec 6) (pa : BitVec 3) (mode : PopMode) (gd : Guard) (s : State) :
    Host.Outcome State Fault Refusal :=
  laneOp gd false (fun _ p l =>
    let ks := lanesOf (predOf p pa &&& activeMask p gd)
    out1 d (BitVec.ofNat 32 (match mode with
      | .all => ks.length
      | .below => (ks.filter fun k => decide (k < l)).length))) s

/-- `ELECT`: the bit of the elected lane, zero elsewhere. -/
def execElect (pd : BitVec 3) (gd : Guard) (s : State) : Host.Outcome State Fault Refusal :=
  onPath s fun g p _ =>
    match lowest (activeMask p gd) with
    | none => putPath s g (advance p)
    | some l =>
      putPath s g (advance (setPred p pd.toNat (fullMask g.width) (BitVec.twoPow 64 l)))

end Sys2Proof.Machine
end

