-- ==== Sys2Proof/Machine/PowerEvents.lean ====
section
/-!
DEFINITION. Power and ageing (R308, R309), firmware (R307), bring-up and SR-IOV (R310).
-/

namespace Sys2Proof.Machine

open Sys2Proof

/-! ### Power and margins (R308, R309) -/

/-- Eight clock steps, each within its tract's ceiling: step `k` is 650 MHz + `k` × 81.25 MHz. -/
def clocksOk (ceilings clocks : List Nat) : Bool :=
  decide (clocks.length = 8) && (List.range 8).all fun k => decide (clocks.getD k 0 ≤ ceilings.getD k 8)

/-- Eight shares: share `k` is 50 % + `k` × 6.25 %. -/
def sharesOk (shares : List Nat) : Bool := decide (shares.length = 8) && shares.all fun x => decide (x ≤ 8)

/-- `POWER_ARBITRATION`: a grant at an interval boundary, 1 µs after the last; it changes timing alone. -/
def execPowerArbitration (clocks shares : List Nat) (s : State) : Host.Outcome State Fault Refusal :=
  .next (if s.mgmt.up ∧ clocksOk s.mgmt.ceilings clocks ∧ sharesOk shares ∧ s.mgmt.lastGrant + microsecond ≤ s.now then
      { s with mgmt.clocks := clocks, mgmt.shares := shares, mgmt.lastGrant := s.now }
    else s)

/-- A plan of margins: a voltage for each of the nine clock steps, then the highest step of each tract. -/
def planOk (plan : List Nat) : Bool := decide (plan.length = 17) && (plan.drop 9).all fun x => decide (x ≤ 8)

/-- A plan made in operation lowers a tract's highest step by at most one. -/
def planMild (old new : List Nat) : Bool :=
  (List.range 8).all fun k => decide (new.getD k 0 ≤ old.getD k 0) && decide (old.getD k 0 ≤ new.getD k 0 + 1)

/-- Cycles of 1000 hours at the full clock (R2, R309). -/
def ageCycles : Nat := 1000 * 3600 * 1300000000

/-- Whether a plan may be made: at reset once firmware runs, before the device is up; in operation after 1000 hours, at an
interval boundary (R308 to R310). -/
def planDue (s : State) (atReset : Bool) : Bool :=
  if atReset then !s.mgmt.up && s.mgmt.running
  else s.mgmt.up && decide (s.mgmt.plannedAt + ageCycles ≤ s.now) && decide (s.mgmt.lastGrant + microsecond ≤ s.now)

/-- `MARGIN_PLAN`: a plan at reset may change any step, one in operation lowers a tract's highest step by at most one; each
plan is reported by a management event. No tract runs above its highest step. -/
def execMarginPlan (atReset : Bool) (plan : List Nat) (s : State) : Host.Outcome State Fault Refusal :=
  .next (if planOk plan ∧ planDue s atReset ∧ (atReset ∨ planMild s.mgmt.ceilings (plan.drop 9)) then
      { s with
        mgmt.plan := plan
        mgmt.ceilings := plan.drop 9
        mgmt.clocks := List.zipWith min s.mgmt.clocks (plan.drop 9)
        mgmt.plans := s.mgmt.plans + 1
        mgmt.plannedAt := s.now
        mgmt.events := s.mgmt.events ++ [0x1000 + s.mgmt.plans] }
    else s)

/-- A plan that the DMP makes by itself: its voltages and steps are free values (log entry 81). -/
def freePlan (s : State) (atReset : Bool) : List Nat :=
  (List.range 9).map (Config.marginPlan s.mgmt.plans) ++ (List.range 8).map fun k =>
    let x := Config.marginPlan s.mgmt.plans (9 + k)
    if atReset then x % 9 else s.mgmt.ceilings.getD k 0 - x % 2

/-! ### Firmware (R307) -/

/-- An image that the DMP runs: both signatures verify and its version is at least the fused counter. -/
def imageRuns (s : State) (i : FwImage) : Bool :=
  Config.ed25519Verifies i.digest i.ed25519 && Config.mldsaVerifies i.digest i.mldsa && decide (s.mgmt.rollback ≤ i.version)

/-- Run an image. -/
def runImage (s : State) (i : FwImage) : State :=
  { s with mgmt.image := i, mgmt.fwVersion := i.version, mgmt.fwDigest := i.digest, mgmt.running := true, mgmt.recovery := false }

/-- `NEW_FIRMWARE_IMAGE`: run, or refused and the previous image kept. -/
def execNewFirmwareImage (image : FwImage) (s : State) : Host.Outcome State Fault Refusal :=
  .next (if s.mgmt.up ∨ s.mgmt.recovery then (if imageRuns s image then runImage s image else s) else s)

/-! ### Bring-up (R310) -/

/-- A function as it appears: its rings disabled. -/
def newFn (fn part : Nat) : HostFn :=
  { fn := fn, part := part, sqBase := 0, sqN := 0, sqEn := false, sqTail := 0, sqHead := 0, cqBase := 0, cqM := 0,
    cqVector := 0, cqIen := false, cqEn := false, cqHead := 0, cqTail := 0, phase := false, waiting := [],
    status := 0, reply := .none }

/-- A partition with a zero quota record; its PASID is its number. R310 gives a new VF an empty plat, while the DOM of its zero
record is 0: the model lets DOM decide, so ranges of domain 0 that have been written are its ranges too (R64, R263; log
entry 116). -/
def newPart (id : Nat) : Partition :=
  { id := id, thr := 0, grp := 0, wch := 0, hnd := 0, gran := 0, recs := 0, dom := 0, rthr := 0, rgran := 0,
    cores := 0, pasid := id, ctxBase := 0, ctxSize := 0, debug := false, lastHandle := 0 }

/-- The device is up and presents the physical function. Every slice has been tested; the marks of failed banks stand as
they are, and one that the test finds is set as R137 has system software set it (log entry 81). -/
def present (s : State) : State :=
  { s with
    mgmt.up := true
    mgmt.clocks := s.mgmt.ceilings
    mgmt.shares := List.replicate 8 8
    mgmt.lastGrant := s.now
    fabric.dev := Config.deviceNumber % 32768
    fabric.reachable := Config.reachableDevices
    host.hpa0 := Config.hdmBlock * 2 ^ 28
    host.fns := [newFn 0 0]
    parts := [newPart 0] }

/-- `BRING_UP`: with an image that verifies firmware runs, and without one the device stays in recovery; once margins are
planned, the slices, the link and the ports come up and the PF is presented. -/
def execBringUp (s : State) : Host.Outcome State Fault Refusal :=
  .next (if s.mgmt.up then s
    else if !s.mgmt.running then
      (if imageRuns s s.mgmt.image then runImage s s.mgmt.image else { s with mgmt.recovery := true })
    else if s.mgmt.plan.isEmpty then s
    else present s)

/-- `SRIOV_ENABLE`: the VFs appear, each a partition with a zero quota record (log entry 116). -/
def execSriovEnable (count : Nat) (s : State) : Host.Outcome State Fault Refusal :=
  .next (if s.mgmt.up ∧ s.mgmt.vfs = 0 ∧ count ≤ 15 then
      let ids := (List.range count).map fun k => k + 1
      { s with
        mgmt.vfs := count
        host.fns := s.host.fns ++ ids.map fun k => newFn k k
        parts := s.parts ++ ids.map newPart }
    else s)

end Sys2Proof.Machine
end

