-- ==== Sys2Proof/Machine/Dispatch.lean ====
section
/-!
DEFINITION. Dispatch: one arm per row of the opcode table, each a direct call of that row's meaning.
-/

namespace Sys2Proof.Machine

open Sys2Proof

/-- The meaning of every instruction word and event. -/
def exec (i : Instr) (s : State) : Host.Outcome State Fault Refusal :=
  match i with
  | .hint br ra rb => Sys2Proof.Machine.execHint br ra rb s
  | .mod m => Sys2Proof.Machine.execMod m s
  | .imm hi => Sys2Proof.Machine.execImm hi s
  | .add d a b gd sc => Sys2Proof.Machine.execAdd d a b gd sc s
  | .sub d a b gd sc => Sys2Proof.Machine.execSub d a b gd sc s
  | .mul d a b gd sc => Sys2Proof.Machine.execMul d a b gd sc s
  | .mulhi d a b gd sc => Sys2Proof.Machine.execMulhi d a b gd sc s
  | .mulhu d a b gd sc => Sys2Proof.Machine.execMulhu d a b gd sc s
  | .mad d a b gd sc => Sys2Proof.Machine.execMad d a b gd sc s
  | .min d a b gd sc => Sys2Proof.Machine.execMin d a b gd sc s
  | .max d a b gd sc => Sys2Proof.Machine.execMax d a b gd sc s
  | .addImm d a imm gd sc => Sys2Proof.Machine.execAddImm d a imm gd sc s
  | .subImm d a imm gd sc => Sys2Proof.Machine.execSubImm d a imm gd sc s
  | .mulImm d a imm gd sc => Sys2Proof.Machine.execMulImm d a imm gd sc s
  | .mulhiImm d a imm gd sc => Sys2Proof.Machine.execMulhiImm d a imm gd sc s
  | .mulhuImm d a imm gd sc => Sys2Proof.Machine.execMulhuImm d a imm gd sc s
  | .madImm d a imm gd sc => Sys2Proof.Machine.execMadImm d a imm gd sc s
  | .minImm d a imm gd sc => Sys2Proof.Machine.execMinImm d a imm gd sc s
  | .maxImm d a imm gd sc => Sys2Proof.Machine.execMaxImm d a imm gd sc s
  | .minu d a b gd sc => Sys2Proof.Machine.execMinu d a b gd sc s
  | .maxu d a b gd sc => Sys2Proof.Machine.execMaxu d a b gd sc s
  | .and d a b gd sc => Sys2Proof.Machine.execAnd d a b gd sc s
  | .or d a b gd sc => Sys2Proof.Machine.execOr d a b gd sc s
  | .xor d a b gd sc => Sys2Proof.Machine.execXor d a b gd sc s
  | .andn d a b gd sc => Sys2Proof.Machine.execAndn d a b gd sc s
  | .rol d a b gd sc => Sys2Proof.Machine.execRol d a b gd sc s
  | .minuImm d a imm gd sc => Sys2Proof.Machine.execMinuImm d a imm gd sc s
  | .maxuImm d a imm gd sc => Sys2Proof.Machine.execMaxuImm d a imm gd sc s
  | .andImm d a imm gd sc => Sys2Proof.Machine.execAndImm d a imm gd sc s
  | .orImm d a imm gd sc => Sys2Proof.Machine.execOrImm d a imm gd sc s
  | .xorImm d a imm gd sc => Sys2Proof.Machine.execXorImm d a imm gd sc s
  | .andnImm d a imm gd sc => Sys2Proof.Machine.execAndnImm d a imm gd sc s
  | .rolImm d a imm gd sc => Sys2Proof.Machine.execRolImm d a imm gd sc s
  | .shl d a b gd sc => Sys2Proof.Machine.execShl d a b gd sc s
  | .shr d a b gd sc => Sys2Proof.Machine.execShr d a b gd sc s
  | .sar d a b gd sc => Sys2Proof.Machine.execSar d a b gd sc s
  | .divs d a b gd sc => Sys2Proof.Machine.execDivs d a b gd sc s
  | .divu d a b gd sc => Sys2Proof.Machine.execDivu d a b gd sc s
  | .rems d a b gd sc => Sys2Proof.Machine.execRems d a b gd sc s
  | .remu d a b gd sc => Sys2Proof.Machine.execRemu d a b gd sc s
  | .lea d a b gd sc => Sys2Proof.Machine.execLea d a b gd sc s
  | .shlImm d a imm gd sc => Sys2Proof.Machine.execShlImm d a imm gd sc s
  | .shrImm d a imm gd sc => Sys2Proof.Machine.execShrImm d a imm gd sc s
  | .sarImm d a imm gd sc => Sys2Proof.Machine.execSarImm d a imm gd sc s
  | .divsImm d a imm gd sc => Sys2Proof.Machine.execDivsImm d a imm gd sc s
  | .divuImm d a imm gd sc => Sys2Proof.Machine.execDivuImm d a imm gd sc s
  | .remsImm d a imm gd sc => Sys2Proof.Machine.execRemsImm d a imm gd sc s
  | .remuImm d a imm gd sc => Sys2Proof.Machine.execRemuImm d a imm gd sc s
  | .leaImm d a imm gd sc => Sys2Proof.Machine.execLeaImm d a imm gd sc s
  | .add64 d a b gd sc => Sys2Proof.Machine.execAdd64 d a b gd sc s
  | .sub64 d a b gd sc => Sys2Proof.Machine.execSub64 d a b gd sc s
  | .shl64 d a b gd sc => Sys2Proof.Machine.execShl64 d a b gd sc s
  | .shr64 d a b gd sc => Sys2Proof.Machine.execShr64 d a b gd sc s
  | .add64Imm d a imm gd sc => Sys2Proof.Machine.execAdd64Imm d a imm gd sc s
  | .sub64Imm d a imm gd sc => Sys2Proof.Machine.execSub64Imm d a imm gd sc s
  | .shl64Imm d a imm gd sc => Sys2Proof.Machine.execShl64Imm d a imm gd sc s
  | .shr64Imm d a imm gd sc => Sys2Proof.Machine.execShr64Imm d a imm gd sc s
  | .mov d a gd sc => Sys2Proof.Machine.execMov d a gd sc s
  | .clz d a gd sc => Sys2Proof.Machine.execClz d a gd sc s
  | .popc d a gd sc => Sys2Proof.Machine.execPopc d a gd sc s
  | .brev d a gd sc => Sys2Proof.Machine.execBrev d a gd sc s
  | .bfx d a b gd sc => Sys2Proof.Machine.execBfx d a b gd sc s
  | .bfxu d a b gd sc => Sys2Proof.Machine.execBfxu d a b gd sc s
  | .bfi d a b gd sc => Sys2Proof.Machine.execBfi d a b gd sc s
  | .movi d imm gd sc => Sys2Proof.Machine.execMovi d imm gd sc s
  | .bfxImm d a imm gd sc => Sys2Proof.Machine.execBfxImm d a imm gd sc s
  | .bfxuImm d a imm gd sc => Sys2Proof.Machine.execBfxuImm d a imm gd sc s
  | .bfiImm d a imm gd sc => Sys2Proof.Machine.execBfiImm d a imm gd sc s
  | .sel d a b gd sc k => Sys2Proof.Machine.execSel d a b gd sc k s
  | .cmp cond a b gd sc pd => Sys2Proof.Machine.execCmp cond a b gd sc pd s
  | .cmpImm cond a imm gd sc pd => Sys2Proof.Machine.execCmpImm cond a imm gd sc pd s
  | .fcmp cond a b gd sc pd => Sys2Proof.Machine.execFcmp cond a b gd sc pd s
  | .fcmpImm cond a imm gd sc pd => Sys2Proof.Machine.execFcmpImm cond a imm gd sc pd s
  | .dcmp cond a b gd pd => Sys2Proof.Machine.execDcmp cond a b gd pd s
  | .pand pd id pa ia pb ib gd => Sys2Proof.Machine.execPand pd id pa ia pb ib gd s
  | .por pd id pa ia pb ib gd => Sys2Proof.Machine.execPor pd id pa ia pb ib gd s
  | .pxor pd id pa ia pb ib gd => Sys2Proof.Machine.execPxor pd id pa ia pb ib gd s
  | .pnot pd id pa ia gd => Sys2Proof.Machine.execPnot pd id pa ia gd s
  | .shfl d a b gd => Sys2Proof.Machine.execShfl d a b gd s
  | .bcast d a b gd => Sys2Proof.Machine.execBcast d a b gd s
  | .rdlane d a b gd => Sys2Proof.Machine.execRdlane d a b gd s
  | .wrlane d a b gd => Sys2Proof.Machine.execWrlane d a b gd s
  | .redl d a op gd => Sys2Proof.Machine.execRedl d a op gd s
  | .scanl d a ex op gd => Sys2Proof.Machine.execScanl d a ex op gd s
  | .shflImm d a imm gd => Sys2Proof.Machine.execShflImm d a imm gd s
  | .bcastImm d a imm gd => Sys2Proof.Machine.execBcastImm d a imm gd s
  | .rdlaneImm d a imm gd => Sys2Proof.Machine.execRdlaneImm d a imm gd s
  | .wrlaneImm d a imm gd => Sys2Proof.Machine.execWrlaneImm d a imm gd s
  | .vote d pa mode gd => Sys2Proof.Machine.execVote d pa mode gd s
  | .popm d pa mode gd => Sys2Proof.Machine.execPopm d pa mode gd s
  | .elect pd gd => Sys2Proof.Machine.execElect pd gd s
  | .fadd d a b gd sc => Sys2Proof.Machine.execFadd d a b gd sc s
  | .fsub d a b gd sc => Sys2Proof.Machine.execFsub d a b gd sc s
  | .fmul d a b gd sc => Sys2Proof.Machine.execFmul d a b gd sc s
  | .ffma d a b gd sc => Sys2Proof.Machine.execFfma d a b gd sc s
  | .fmin d a b gd sc => Sys2Proof.Machine.execFmin d a b gd sc s
  | .fmax d a b gd sc => Sys2Proof.Machine.execFmax d a b gd sc s
  | .fscale d a b gd sc => Sys2Proof.Machine.execFscale d a b gd sc s
  | .faddImm d a imm gd sc => Sys2Proof.Machine.execFaddImm d a imm gd sc s
  | .fsubImm d a imm gd sc => Sys2Proof.Machine.execFsubImm d a imm gd sc s
  | .fmulImm d a imm gd sc => Sys2Proof.Machine.execFmulImm d a imm gd sc s
  | .ffmaImm d a imm gd sc => Sys2Proof.Machine.execFfmaImm d a imm gd sc s
  | .fminImm d a imm gd sc => Sys2Proof.Machine.execFminImm d a imm gd sc s
  | .fmaxImm d a imm gd sc => Sys2Proof.Machine.execFmaxImm d a imm gd sc s
  | .fscaleImm d a imm gd sc => Sys2Proof.Machine.execFscaleImm d a imm gd sc s
  | .frcpe d a gd sc => Sys2Proof.Machine.execFrcpe d a gd sc s
  | .frsqe d a gd sc => Sys2Proof.Machine.execFrsqe d a gd sc s
  | .frnd d a gd sc => Sys2Proof.Machine.execFrnd d a gd sc s
  | .fclass d a gd sc => Sys2Proof.Machine.execFclass d a gd sc s
  | .dadd d a b gd => Sys2Proof.Machine.execDadd d a b gd s
  | .dsub d a b gd => Sys2Proof.Machine.execDsub d a b gd s
  | .dmul d a b gd => Sys2Proof.Machine.execDmul d a b gd s
  | .dfma d a b gd => Sys2Proof.Machine.execDfma d a b gd s
  | .dmin d a b gd => Sys2Proof.Machine.execDmin d a b gd s
  | .dmax d a b gd => Sys2Proof.Machine.execDmax d a b gd s
  | .hadd2F16 d a b gd => Sys2Proof.Machine.execHadd2F16 d a b gd s
  | .hmul2F16 d a b gd => Sys2Proof.Machine.execHmul2F16 d a b gd s
  | .hfma2F16 d a b gd => Sys2Proof.Machine.execHfma2F16 d a b gd s
  | .hadd2Bf16 d a b gd => Sys2Proof.Machine.execHadd2Bf16 d a b gd s
  | .hmul2Bf16 d a b gd => Sys2Proof.Machine.execHmul2Bf16 d a b gd s
  | .hfma2Bf16 d a b gd => Sys2Proof.Machine.execHfma2Bf16 d a b gd s
  | .cvt d a src gd ty => Sys2Proof.Machine.execCvt d a src gd ty s
  | .cvtsr d a b gd ty => Sys2Proof.Machine.execCvtsr d a b gd ty s
  | .pack8 d a b gd ty => Sys2Proof.Machine.execPack8 d a b gd ty s
  | .unpk8 d a gd ty => Sys2Proof.Machine.execUnpk8 d a gd ty s
  | .pack4 d a b gd ty => Sys2Proof.Machine.execPack4 d a b gd ty s
  | .unpk4 d a gd ty => Sys2Proof.Machine.execUnpk4 d a gd ty s
  | .lds sp d a imm ty => Sys2Proof.Machine.execLds sp d a imm ty s
  | .sts rule sp d a imm ty => Sys2Proof.Machine.execSts rule sp d a imm ty s
  | .watch cond a imm gd sp => Sys2Proof.Machine.execWatch cond a imm gd sp s
  | .pres d a imm gd sp => Sys2Proof.Machine.execPres d a imm gd sp s
  | .absa d a imm gd => Sys2Proof.Machine.execAbsa d a imm gd s
  | .rela d a imm gd => Sys2Proof.Machine.execRela d a imm gd s
  | .ld sp d a imm gd ty => Sys2Proof.Machine.execLd sp d a imm gd ty s
  | .stP rule d a imm gd ty => Sys2Proof.Machine.execStP rule d a imm gd ty s
  | .stG rule d a imm gd ty => Sys2Proof.Machine.execStG rule d a imm gd ty s
  | .stK rule d a imm gd ty => Sys2Proof.Machine.execStK rule d a imm gd ty s
  | .mldw x y sp ty gd pair => Sys2Proof.Machine.execMldw x y sp ty gd pair s
  | .mldwS x y sp ty gd pair => Sys2Proof.Machine.execMldwS x y sp ty gd pair s
  | .mma x y sp ty gd pair swap => Sys2Proof.Machine.execMma x y sp ty gd pair swap s
  | .mmas x y sp ty gd pair swap => Sys2Proof.Machine.execMmas x y sp ty gd pair swap s
  | .mdrn x y sp ty gd pair tr => Sys2Proof.Machine.execMdrn x y sp ty gd pair tr s
  | .mzero tile gd pair => Sys2Proof.Machine.execMzero tile gd pair s
  | .trd x y imm gd tile col => Sys2Proof.Machine.execTrd x y imm gd tile col s
  | .twr x y imm gd tile col => Sys2Proof.Machine.execTwr x y imm gd tile col s
  | .copy a imm gd sp => Sys2Proof.Machine.execCopy a imm gd sp s
  | .cpys a gd => Sys2Proof.Machine.execCpys a gd s
  | .brd a imm gd sp => Sys2Proof.Machine.execBrd a imm gd sp s
  | .brdi a imm gd sp => Sys2Proof.Machine.execBrdi a imm gd sp s
  | .hend gd => Sys2Proof.Machine.execHend gd s
  | .tq d a tbl ix gd ty => Sys2Proof.Machine.execTq d a tbl ix gd ty s
  | .tqb d a tbl ix gd ty => Sys2Proof.Machine.execTqb d a tbl ix gd ty s
  | .bra gd disp => Sys2Proof.Machine.execBra gd disp s
  | .jmp disp => Sys2Proof.Machine.execJmp disp s
  | .call disp => Sys2Proof.Machine.execCall disp s
  | .split jk gd disp => Sys2Proof.Machine.execSplit jk gd disp s
  | .nop gd => Sys2Proof.Machine.execNop gd s
  | .jmpr a imm gd => Sys2Proof.Machine.execJmpr a imm gd s
  | .ret a gd => Sys2Proof.Machine.execRet a gd s
  | .join jk gd => Sys2Proof.Machine.execJoin jk gd s
  | .jmov d a mode gd => Sys2Proof.Machine.execJmov d a mode gd s
  | .pace gd => Sys2Proof.Machine.execPace gd s
  | .pacen imm gd => Sys2Proof.Machine.execPacen imm gd s
  | .reform a gd => Sys2Proof.Machine.execReform a gd s
  | .reformNext gd => Sys2Proof.Machine.execReformNext gd s
  | .exit gd => Sys2Proof.Machine.execExit gd s
  | .trap imm gd => Sys2Proof.Machine.execTrap imm gd s
  | .bkpt imm gd => Sys2Proof.Machine.execBkpt imm gd s
  | .enq d a sp gd => Sys2Proof.Machine.execEnq d a sp gd s
  | .deq d imm gd => Sys2Proof.Machine.execDeq d imm gd s
  | .depdEdge d a gd => Sys2Proof.Machine.execDepdEdge d a gd s
  | .depdRel d a gd => Sys2Proof.Machine.execDepdRel d a gd s
  | .srd d num gd => Sys2Proof.Machine.execSrd d num gd s
  | .swr d num gd => Sys2Proof.Machine.execSwr d num gd s
  | .rte gd => Sys2Proof.Machine.execRte gd s
  | .icinv gd => Sys2Proof.Machine.execIcinv gd s
  | .lagStall gid pid => Sys2Proof.Machine.execLagStall gid pid s
  | .loadComplete gid pid => Sys2Proof.Machine.execLoadComplete gid pid s
  | .storeOffer po => Sys2Proof.Machine.execStoreOffer po s
  | .frontierChange dom slice => Sys2Proof.Machine.execFrontierChange dom slice s
  | .stepLanding dom step slice => Sys2Proof.Machine.execStepLanding dom step slice s
  | .copyLineWrite req line => Sys2Proof.Machine.execCopyLineWrite req line s
  | .copyNearRead req => Sys2Proof.Machine.execCopyNearRead req s
  | .copyBurstAccepted req n => Sys2Proof.Machine.execCopyBurstAccepted req n s
  | .burstArrival req n => Sys2Proof.Machine.execBurstArrival req n s
  | .binDraw core bin => Sys2Proof.Machine.execBinDraw core bin s
  | .lastBurstEvent req => Sys2Proof.Machine.execLastBurstEvent req s
  | .queryComplete q => Sys2Proof.Machine.execQueryComplete q s
  | .pchRequest req n => Sys2Proof.Machine.execPchRequest req n s
  | .latencyBoundExpiry pch => Sys2Proof.Machine.execLatencyBoundExpiry pch s
  | .perBankRefresh bank => Sys2Proof.Machine.execPerBankRefresh bank s
  | .tableRowRefresh bank row => Sys2Proof.Machine.execTableRowRefresh bank row s
  | .targetedRefresh bank row => Sys2Proof.Machine.execTargetedRefresh bank row s
  | .ecsScrub burst outcome => Sys2Proof.Machine.execEcsScrub burst outcome s
  | .sliceScrub slice => Sys2Proof.Machine.execSliceScrub slice s
  | .rebuildSector slice => Sys2Proof.Machine.execRebuildSector slice s
  | .matrixOpTurn core => Sys2Proof.Machine.execMatrixOpTurn core s
  | .drainWrite req line => Sys2Proof.Machine.execDrainWrite req line s
  | .matrixClaimEnd core => Sys2Proof.Machine.execMatrixClaimEnd core s
  | .activeSetExchange core => Sys2Proof.Machine.execActiveSetExchange core s
  | .rotation core => Sys2Proof.Machine.execRotation core s
  | .taskAdmission task place => Sys2Proof.Machine.execTaskAdmission task place s
  | .blockingTask task => Sys2Proof.Machine.execBlockingTask task s
  | .classPreemption task => Sys2Proof.Machine.execClassPreemption task s
  | .taskSteal tract task => Sys2Proof.Machine.execTaskSteal tract task s
  | .taskStaging task => Sys2Proof.Machine.execTaskStaging task s
  | .taskRetirement task => Sys2Proof.Machine.execTaskRetirement task s
  | .taskStop task => Sys2Proof.Machine.execTaskStop task s
  | .preemption task => Sys2Proof.Machine.execPreemption task s
  | .restore task place => Sys2Proof.Machine.execRestore task place s
  | .atsCompletion pasid va answer => Sys2Proof.Machine.execAtsCompletion pasid va answer s
  | .invalidateRequest pasid va size => Sys2Proof.Machine.execInvalidateRequest pasid va size s
  | .faultBufferFlush tract => Sys2Proof.Machine.execFaultBufferFlush tract s
  | .pageRequestResponse tract gen code => Sys2Proof.Machine.execPageRequestResponse tract gen code s
  | .stopMarker tract => Sys2Proof.Machine.execStopMarker tract s
  | .accessCounterNotify die slot => Sys2Proof.Machine.execAccessCounterNotify die slot s
  | .hostMemoryAccess fn hpa data => Sys2Proof.Machine.execHostMemoryAccess fn hpa data s
  | .snoopResponse snoop => Sys2Proof.Machine.execSnoopResponse snoop s
  | .sqtail fn value => Sys2Proof.Machine.execSqtail fn value s
  | .hostLaunch fn => Sys2Proof.Machine.execHostLaunch fn s
  | .completionEntryWrite fn => Sys2Proof.Machine.execCompletionEntryWrite fn s
  | .cqhead fn value => Sys2Proof.Machine.execCqhead fn value s
  | .sqcfg fn value => Sys2Proof.Machine.execSqcfg fn value s
  | .cqcfg fn value => Sys2Proof.Machine.execCqcfg fn value s
  | .registerWrite fn offset value => Sys2Proof.Machine.execRegisterWrite fn offset value s
  | .slstatWrite slice value => Sys2Proof.Machine.execSlstatWrite slice value s
  | .functionLevelReset fn => Sys2Proof.Machine.execFunctionLevelReset fn s
  | .writePlatEntry fn index value => Sys2Proof.Machine.execWritePlatEntry fn index value s
  | .writeQuotaRecord fn part words => Sys2Proof.Machine.execWriteQuotaRecord fn part words s
  | .setContextArea fn part base size => Sys2Proof.Machine.execSetContextArea fn part base size s
  | .stopTask fn handle => Sys2Proof.Machine.execStopTask fn handle s
  | .dropKeptRegion fn far => Sys2Proof.Machine.execDropKeptRegion fn far s
  | .readStopLog fn => Sys2Proof.Machine.execReadStopLog fn s
  | .flushFaultBuffers fn => Sys2Proof.Machine.execFlushFaultBuffers fn s
  | .setAccessCounterThreshold fn value => Sys2Proof.Machine.execSetAccessCounterThreshold fn value s
  | .setDebugEnable fn enable release => Sys2Proof.Machine.execSetDebugEnable fn enable release s
  | .repairBank fn slice => Sys2Proof.Machine.execRepairBank fn slice s
  | .bindFabricPeer fn dev part pasid => Sys2Proof.Machine.execBindFabricPeer fn dev part pasid s
  | .readMargins fn => Sys2Proof.Machine.execReadMargins fn s
  | .releaseHeldHostLaunch fn handle => Sys2Proof.Machine.execReleaseHeldHostLaunch fn handle s
  | .attestationReport nonce => Sys2Proof.Machine.execAttestationReport nonce s
  | .flitNak port flit => Sys2Proof.Machine.execFlitNak port flit s
  | .endToEndTimeout part seq => Sys2Proof.Machine.execEndToEndTimeout part seq s
  | .fabricCommand msg => Sys2Proof.Machine.execFabricCommand msg s
  | .peerReset scope => Sys2Proof.Machine.execPeerReset scope s
  | .powerArbitration clocks shares => Sys2Proof.Machine.execPowerArbitration clocks shares s
  | .marginPlan atReset plan => Sys2Proof.Machine.execMarginPlan atReset plan s
  | .bringUp => Sys2Proof.Machine.execBringUp s
  | .refreshManagement bank => Sys2Proof.Machine.execRefreshManagement bank s
  | .sriovEnable count => Sys2Proof.Machine.execSriovEnable count s
  | .newFirmwareImage image => Sys2Proof.Machine.execNewFirmwareImage image s

end Sys2Proof.Machine
end

