-- ==== Sys2Proof/Machine/Hamper.lean ====
section
/-!
DEFINITION. What the loader takes: the layout and the limits of a hamper (R85 to R87, R71) and of a task's
declaration (R21, R107), and the rejection of a task that breaks one. Then what happens to the machine
without a row of the opcode table (log entry 68).
-/

namespace Sys2Proof.Machine

open Sys2Proof

/-! ### The header (R85) -/

/-- The words of a header or record as numbers. -/
def wordNats (ws : List Word) : List Nat := ws.map (·.toNat)

/-- NREC of a header. -/
def headerNrec (ws : List Nat) : Nat := bitsOf (blockWord ws 0) 6 0
/-- SPILL of a header, in KiB. -/
def headerSpill (ws : List Nat) : Nat := bitsOf (blockWord ws 1) 15 0
/-- HRES of a header. -/
def headerHres (ws : List Nat) : Nat := bitsOf (blockWord ws 2) 10 0

/-- A header of eight words whose fields have values of R85 and whose reserved bits are zero. -/
def headerOk (ws : List Nat) : Bool :=
  decide (ws.length = 8) &&
  decide (bitsOf (blockWord ws 0) 31 7 = 0) && decide (headerNrec ws ≤ 80) &&
  decide (bitsOf (blockWord ws 1) 31 16 = 0) &&
  (decide (headerSpill ws = 0) ||
    (decide (64 ≤ headerSpill ws) && decide (headerSpill ws ≤ 1024) && decide (headerSpill ws % 64 = 0))) &&
  decide (bitsOf (blockWord ws 2) 31 11 = 0) && decide (headerHres ws ≤ 1024) &&
  (ws.drop 3).all fun w => decide (w = 0)

/-! ### Region records (R86) -/

/-- The kind of region of a KIND code. -/
def kindOfCode (k : Nat) : Option RegionKind :=
  match k with
  | 0 => some .immutable
  | 1 => some .shared
  | 2 => some .dram
  | 3 => some .table
  | _ => none

/-- Whether a record of eight words has its reserved bits zero and no illegal TSZ or BLEN. -/
def recordShape (ws : List Nat) : Bool :=
  let w3 := blockWord ws 3
  decide (ws.length = 8) && decide (bitsOf w3 31 30 = 0) && decide (bitsOf w3 29 28 < 3) &&
  decide (bitsOf w3 23 18 = 0) && decide (bitsOf w3 17 16 < 3) && decide (bitsOf (blockWord ws 5) 31 7 = 0) &&
  decide (blockWord ws 6 = 0) && decide (blockWord ws 7 = 0)

/-- The region that a record of eight words describes, with the relocations of its image. -/
def recordOf (ws : List Nat) (relocs : List (Nat × Nat × Nat)) : Option Region :=
  let w3 := blockWord ws 3
  if !recordShape ws then none
  else
    match kindOfCode (bitsOf w3 2 0), Ty.ofCode (bitsOf w3 11 8), Ty.ofCode (bitsOf w3 15 12) with
    | some kind, some sfmt, some dfmt =>
      some { far := blockWord ws 0 + 2 ^ 32 * blockWord ws 1
             size := blockWord ws 2
             kind := kind
             stageIn := decide (bitsOf w3 3 3 = 1)
             stageOut := decide (bitsOf w3 4 4 = 1)
             keep := decide (bitsOf w3 5 5 = 1)
             ar := decide (bitsOf w3 6 6 = 1)
             aw := decide (bitsOf w3 7 7 = 1)
             sfmt := sfmt
             dfmt := dfmt
             blen := bitsOf w3 17 16
             sclr := bitsOf (blockWord ws 5) 6 0
             party := if blockWord ws 4 = 0xFFFFFFFF then none else some (blockWord ws 4)
             tbl := bitsOf w3 27 24
             tsz := bitsOf w3 29 28
             relocs := relocs }
    | _, _, _ => none

/-! ### The settings a kind admits (R87) -/

/-- The conversions of R94. -/
def convPairs : List (Ty × Ty) := [(.f32, .bf16), (.bf16, .f32), (.f32, .e4m3), (.e4m3, .bf16), (.f16, .f32)]

/-- Whether the device converts one format to another: equal ones need nothing. -/
def convExists (src dst : Ty) : Bool := decide (src = dst) || convPairs.contains (src, dst)

/-- The conversions that a region of kind 0 or 1 needs exist. That the far bytes be a multiple of 32 as well is not
demanded (R94 demands it of copies; log entry 96). -/
def formatsOk (r : Region) : Bool :=
  (!r.stageIn || convExists r.dfmt r.sfmt) && (!r.stageOut || convExists r.sfmt r.dfmt) &&
  (convExists r.dfmt r.sfmt || convExists r.sfmt r.dfmt)

/-- The SRAM size of a region of kind 0 or 1. -/
def sramSizeOk (n : Nat) : Bool := decide (32 ≤ n) && decide (n ≤ 6291456) && decide (n % 32 = 0)

/-- The elements of a block by BLEN. -/
def blockElements (blen : Nat) : Nat := if blen = 1 then 32 else 128

/-- The scales of a region stand in a region of kind 0 or 1 of `F32` with room for one to each block. -/
def scalesOk (rs : List Region) (r : Region) : Bool :=
  if r.blen = 0 then decide (r.sclr = 0)
  else
    match rs[r.sclr]? with
    | some x =>
      let elements := 8 * r.size / tyBits r.sfmt
      (decide (x.kind = .immutable) || decide (x.kind = .shared)) && decide (x.sfmt = .f32) &&
        decide ((elements + blockElements r.blen - 1) / blockElements r.blen * 4 ≤ x.size)
    | none => false

/-- A region that engines reach has no format, block geometry or PARTY, and is neither staged nor kept. -/
def bareOk (r : Region) : Bool :=
  !r.stageIn && !r.stageOut && !r.keep && decide (r.sfmt = .i4) && decide (r.dfmt = .i4) && decide (r.blen = 0) &&
    decide (r.sclr = 0) && r.party.isNone

/-- TBL and TSZ belong to tables. -/
def noTable (r : Region) : Bool := decide (r.tbl = 0) && decide (r.tsz = 0)

/-- A region record has settings that its kind admits. -/
def regionOk (rs : List Region) (r : Region) : Bool :=
  decide (r.far % 4096 = 0) &&
  match r.kind with
  | .immutable => r.stageIn && !r.stageOut && !r.ar && !r.aw && noTable r && sramSizeOk r.size && formatsOk r && scalesOk rs r
  | .shared =>
    !r.ar && !r.aw && noTable r && sramSizeOk r.size && formatsOk r && scalesOk rs r &&
      (r.stageIn || r.stageOut || decide (r.far = 0))
  | .dram => bareOk r && noTable r && decide (32 ≤ r.size) && decide (r.size ≤ 2 ^ 40) && decide (r.size % 32 = 0)
  | .table =>
    bareOk r && !r.ar && !r.aw && decide (r.size % 2 ^ r.tsz = 0) && decide (1 ≤ r.size / 2 ^ r.tsz) &&
      decide (r.size / 2 ^ r.tsz ≤ 4096)

/-- The bytes of an image fit its record: a table's image fills the table and is never missing (R71), any other is
bounded by the DRAM range of its region, and a region without a range takes none (R304, R319). -/
def imageOk (r : Region) (given : Option Nat) : Bool :=
  match r.kind with
  | .table => decide (given = some r.size)
  | .immutable | .dram => decide (given.getD 0 ≤ r.farBytes)
  | .shared => if r.stageIn || r.stageOut then decide (given.getD 0 ≤ r.farBytes) else given.isNone

/-- Every record has an image that fits it; each image is one record's, and no record has two. -/
def imagesOk (rs : List Region) (images : List (Nat × Nat)) : Bool :=
  ((numbered rs).all fun y => imageOk y.2 ((images.find? fun i => decide (i.1 = y.1)).map (·.2))) &&
  (images.all fun i => decide (i.1 < rs.length)) && decide ((images.map (·.1)).Nodup)

/-- No table number is declared twice (R71). -/
def tablesOk (rs : List Region) : Bool :=
  let ks := (rs.filter fun r => decide (r.kind = .table)).map (·.tbl)
  decide (ks.length ≤ 16) && decide (ks.dedup.length = ks.length)

/-! ### A task and an object (R21, R85, R107, R303) -/

/-- The tiers of R21: group width, party size and scratch. -/
def tiersOk (t : RawTask) : Bool :=
  [8, 16, 32, 64].contains t.width && decide (8 ≤ t.partySize) && decide (t.partySize ≤ 1024) &&
  decide (t.partySize % t.width = 0) && decide (4096 ≤ t.scratch) && decide (t.scratch ≤ 2 ^ 22) &&
  decide (t.scratch % 4096 = 0)

/-- Up to 16 handlers, with numbers from 0 to 15, each declared once (R107). -/
def handlersOk (t : RawTask) : Bool :=
  let ks := t.handlers.map (·.1)
  (ks.all fun k => decide (k < 16)) && decide (ks.dedup.length = ks.length)

/-- The regions that the records of a hamper describe; none when a record is no region. -/
def regionsOf (t : RawTask) : Option (List Region) :=
  (t.records.mapIdx fun k ws => recordOf (wordNats ws) (t.regionRelocs.getD k [])).foldr
    (fun r acc => r.bind fun r => acc.map fun l => r :: l) (some [])

/-- The declaration of a task, or none when it breaks a limit: then the loader rejects it (R21, R71, R85). -/
def declOfRaw (t : RawTask) : Option TaskDecl :=
  let h := wordNats t.header
  (regionsOf t).bind fun rs =>
    if headerOk h && decide (headerNrec h = t.records.length) && (rs.all (regionOk rs)) && tablesOk rs && imagesOk rs t.images &&
        tiersOk t && handlersOk t then
      some { partySize := t.partySize, scratch := t.scratch, width := t.width, entry := t.entry, trap := t.trap,
             handlers := t.handlers, regions := rs, spillKiB := headerSpill h, hres := headerHres h, relocs := t.relocs }
    else none

/-- The loader hands over an object. A task that breaks a limit is rejected alone, and a launch of it names no task: it
is never queued (R71, R85; log entry 77). The writes of the images are host accesses that come before the handle (R304). -/
def loadObject (s : State) (o : RawObject) : State :=
  if (findPart s o.part).isSome && (objectOf s o.handle).isNone then
    { s with objects := s.objects ++ [{ handle := o.handle, part := o.part, tasks := o.tasks.map declOfRaw,
                                        pcBase := o.pcBase, words := o.words, dpa := o.dpa }] }
  else s

/-! ### What happens without a row of the opcode table -/

/-- The response of a launch instruction reaches its path (R271). -/
def responseArrives (s : State) (gid pid : Nat) : State :=
  match findGroup s gid with
  | some g =>
    match findPath g pid with
    | some p => putPath s g (deliver p)
    | none => s
  | none => s

/-- The management interface marks a bank failed (R137): a slice has 18, and one that is marked stays so. -/
def markBank (s : State) (slice bank : Nat) : State :=
  if slice < 512 ∧ bank < 18 ∧ !(failedBanks (sliceReg s slice)).contains bank then failBank s slice bank else s

/-- Bits of a stored symbol flip: the symbol of one of the sector's 18 banks (R134). -/
def flipSymbol (s : State) (sector bank : Nat) (bits : Symbol) : State :=
  let was := assoc s.sram.flips (sector, bank) 0
  if bank < 18 then
    { s with sram.flips := (s.sram.flips.filter fun e => decide (e.1 ≠ (sector, bank))) ++
        (if was ^^^ bits = 0 then [] else [((sector, bank), was ^^^ bits)]) }
  else s

/-- A copy of an owner tag or presence bit changes (R125, R135): one of three. -/
def flipCopy (s : State) (e : CopyErr) : State :=
  let mine := fun x : CopyErr => match x, e with
    | .tag g k _, .tag h l _ => decide (g = h) && decide (k = l)
    | .presence g k _, .presence h l _ => decide (g = h) && decide (k = l)
    | _, _ => false
  { s with sram.copies := e :: s.sram.copies.filter fun x => !mine x }

/-- What happens. -/
def happening (h : Happening) (s : State) : State :=
  match h with
  | .response gid pid => responseArrives s gid pid
  | .markBank slice bank => markBank s slice bank
  | .flipSymbol sector bank bits => flipSymbol s sector bank bits
  | .flipCopy e => flipCopy s e
  | .upsetEntry sector step dom =>
    let hit := fun e : Entry => decide (e.sector = sector) && decide (e.step = step) && decide (e.dom = dom)
    { s with sram.entries := updWhere s.sram.entries hit fun e => { e with upset := true } }
  | .upsetAccum a step dom =>
    let hit := fun x : Accum => decide (x.addr = a) && decide (x.step = step) && decide (x.dom = dom)
    { s with sram.accums := updWhere s.sram.accums hit fun x => { x with upset := true } }
  | .upsetEngine core =>
    { s with eng.matrix := updWhere s.eng.matrix (fun e => decide (e.core = core)) fun e => { e with softError := true } }
  | .burstError burst report =>
    if burst < 2 ^ 33 then
      { s with dram.reports := if report = .clean then s.dram.reports.filter fun r => decide (r.1 ≠ burst)
          else setAssoc s.dram.reports burst report }
    else s
  | .loadObject o => if s.mgmt.up then loadObject s o else s

end Sys2Proof.Machine
end

