-- ==== Sys2Proof/Machine/Sched.lean ====
section
/-!
DEFINITION. What moves next. The issue of a path's next word (R31, R32, R57, R241, R267, R303), the moves
that the device's own agents can make in a state, and the choice among them. Orders that the spec leaves
open are left to a free value (log entries 3 and 4).
-/

namespace Sys2Proof.Machine

open Sys2Proof

/-! ### Issue -/

/-- Whether a path may issue now: its group is the one its core issues from, and the path the one whose turn it is (R241,
R266, R267). -/
def mayIssue (s : State) (g : Group) (p : Path) : Bool :=
  decide ((issuer s g.core).map (·.gid) = some g.gid) && decide ((issuingPath s g).map (·.pid) = some p.pid)

/-- A group issues. One that leads an issue has others packed with it, which count as having issued with it and issue their
share next; one that was packed has had its share (R22, R267; log entry 76). -/
def packIssue (s : State) (g : Group) : State :=
  if g.packed then putGroup s { g with packed := false }
  else
    let mates := packedWith s g
    let here := fun h : Group => decide (h.core = g.core)
    { s with groups := updWhere s.groups here fun h =>
        let with_ := h.gid = g.gid ∨ h.gid ∈ mates
        { h with packed := decide (h.gid ∈ mates), lastIssue := if with_ then s.now else h.lastIssue } }

/-! ### Code caches (R303) -/

/-- The words of a core's code cache: 64 KiB. -/
def coreCodeWords : Nat := 0x4000
/-- The words of a tract's code cache: 4 MiB. -/
def tractCodeWords : Nat := 0x100000

/-- Whether a code cache holds a word. -/
def cached (l : List ((Nat × Nat × Nat) × Word)) (k : Nat × Nat × Nat) : Bool := l.any fun c => decide (c.1 = k)

/-- The place of a code address: its task's instance and the index of the word. -/
def codePlace (s : State) (task : Nat) (a : Word) : Option (Instance × Nat) :=
  ((findTask s task).bind (instanceOf s)).map fun i => (i, (a.toNat - i.pcBase.toNat) / 4)

/-- Whether fetching a word reads DRAM: neither the core's cache nor its tract's holds it. -/
def codeMisses (s : State) (core : Nat) (y : Instance × Nat) : Bool :=
  !cached s.codeCache (core, y.1.id, y.2) && !cached s.tractCode (tractOf core, y.1.id, y.2)

/-- The tract's cache takes a burst of an instance from DRAM; the read's error report is counted (R68). -/
def fillTract (s : State) (core : Nat) (y : Instance × Nat) : State :=
  { s with
    dram := readNormal s.dram (y.1.dpa + 4 * y.2)
    tractCode := cacheWords s s.tractCode tractCodeWords (tractOf core) y.1 (burstMates y.1 y.2) }

/-- The core's cache takes from its tract's the words of a burst. -/
def fillCore (s : State) (core : Nat) (y : Instance × Nat) : State :=
  { s with codeCache := (burstMates y.1 y.2).foldl (fun l k =>
      match s.tractCode.find? fun c => decide (c.1 = (tractOf core, y.1.id, k)) with
      | some c => cacheWord l coreCodeWords (core, y.1.id, k) c.2
      | none => l) s.codeCache }

/-- Fetching a word fills the code caches on its way (R303; log entry 70). -/
def cacheFetched (s : State) (core task : Nat) (a : Word) : State :=
  match codePlace s task a with
  | none => s
  | some y =>
    if cached s.codeCache (core, y.1.id, y.2) then s
    else fillCore (if codeMisses s core y then fillTract s core y else s) core y

/-- Whether a word would be fetched from a burst with an uncorrectable error (R68). -/
def codeBad (s : State) (core task : Nat) (a : Word) : Bool :=
  match codePlace s task a with
  | some y => codeMisses s core y && decide (reportOf s.dram (burstOf (y.1.dpa + 4 * y.2)) = .uncorrectable)
  | none => false

/-- A word cannot be fetched: the burst is counted and the task stops. No SRAM address is reported (R68, R278; log entry
70). -/
def stopFetch (s : State) (g : Group) (p : Path) : State :=
  let s1 := match codePlace s g.task p.pc with
    | some y => { s with dram := readNormal s.dram (y.1.dpa + 4 * y.2) }
    | none => s
  let x := laneOf g (reportLane p 0)
  stopWith s1 g.task (uncorrectable x.step x.tid 0 (seqStart p))

/-! ### The issue of a word -/

/-- The outcome of fetching and decoding: the step is over, by a trap or because nothing may issue, or an
instruction executes. -/
inductive Issue where
  | done (s : State)
  | run (i : Instr) (s : State)

/-- A prefix word counts as no sequence of its own. -/
def isPrefix : Instr → Bool
  | .hint _ _ _ | .mod _ | .imm _ => true
  | _ => false

/-- The word of a path in the image goes to the decoder: no instruction, or a sequence whose prefixes it
does not accept, is the illegal-instruction trap (R57). One that has waited at issue is not counted again. -/
def dispatchWord (s : State) (g : Group) (p : Path) (waited : Bool) (w : Word) : Issue :=
  match decode w with
  | .error _ => .done (illegalTrap s g p w)
  | .ok i =>
    if isPrefix i || prefixOk p i then
      let g1 := if isPrefix i || waited then g else { g with issued := g.issued + 1 }
      .run i { putGroup s g1 with cursor := some { gid := g.gid, pid := p.pid, pc := p.pc, word := w } }
    else .done (illegalTrap s g p w)

/-- The group and the path at the issue position: the path waits no longer, and its turn is over (R241). -/
def atIssue (s : State) (g : Group) (p : Path) : Group × Path :=
  let p1 := { (findPath g p.pid).getD p with turn := s.now, park := none }
  (setPath g p1, p1)

/-- Issue the next word of a path: a fetch outside the image traps (R31), words that the path holds need none (R306), and
one that cannot be read stops the task. -/
def issueFrom (s : State) (g : Group) (p : Path) : Issue :=
  let s1 := packIssue s g
  let y := atIssue s1 ((findGroup s1 g.gid).getD g) p
  let s2 := { putGroup s1 y.1 with cursor := some { gid := g.gid, pid := p.pid, pc := p.pc, word := 0 } }
  if !inImage s g.task p.pc then .done (addressTrap s2 y.1 y.2 (reportLane p 0) 0 p.pc)
  else
    match p.pre.words with
    | w :: _ => dispatchWord s2 y.1 y.2 p.park.isSome w
    | [] =>
      if codeBad s g.core g.task p.pc then .done (stopFetch s2 y.1 y.2)
      else dispatchWord (cacheFetched s2 g.core g.task p.pc) y.1 y.2 p.park.isSome (fetchWord s g.core g.task p.pc)

/-- Issue from a path of a group, if it may. -/
def issue (gid pid : Nat) (s : State) : Issue :=
  match findGroup s gid with
  | none => .done s
  | some g =>
    match findPath g pid with
    | none => .done s
    | some p => if mayIssue s g p then issueFrom s g p else .done s

/-! ### What the agents can do -/

/-- The cores that hold groups. -/
def busyCores (s : State) : List Nat := (s.groups.map (·.core)).dedup

/-- The words that cores can issue. -/
def issueMoves (s : State) : List Decision :=
  (busyCores s).flatMap fun c =>
    match issuer s c with
    | some g => (issuingPath s g).toList.map fun p => .issue g.gid p.pid
    | none => []

/-- The event a parked path is ready for. -/
def parkMove (s : State) (g : Group) (p : Path) : List Decision :=
  match p.park with
  | some (.load r) => if allReady s g r then [.event (.loadComplete g.gid p.pid)] else []
  | some (.lag m _) => if (heldSince p).isNone && mayAdvance s g m then [.event (.lagStall g.gid p.pid)] else []
  | _ => []

/-- Loads and stalled advances that can go on. -/
def parkMoves (s : State) : List Decision :=
  (s.groups.filter fun g => landsAllowed s g.task).flatMap fun g => g.paths.flatMap (parkMove s g)

/-- Responses of launch instructions that can reach their paths (R271). -/
def responseMoves (s : State) : List Decision :=
  s.groups.flatMap fun g => (g.paths.filter fun p => !p.owed.isEmpty).map fun p => .happen (.response g.gid p.pid)

/-- Stores that slices can take. -/
def offerMoves (s : State) : List Decision :=
  (s.sram.offers.filter (takesOffer s)).map fun o => .event (.storeOffer o.po)

/-- The slices that hold a party or a region of a task. -/
def slicesOf (t : Task) : List Nat := (t.places.map (·.core) ++ t.bases.filterMap fun b => b.map sliceOf).dedup

/-- The domains of a task with the slices that know their frontiers. -/
def domainSlices (t : Task) : List (Dom × Nat) :=
  (t.places.map fun p => (Dom.party t.uid p.index, p.core)) ++ (slicesOf t).map fun c => (Dom.task t.uid, c)

/-- The tasks that run. -/
def runningTasks (s : State) : List Task := s.tasks.filter fun t => decide (t.state = .running) && t.stop.isNone

/-- Frontier values that have moved. -/
def frontierMoves (s : State) : List Decision :=
  ((runningTasks s).flatMap domainSlices).filterMap fun x =>
    if frontierNews s x.1 x.2 then some (.event (.frontierChange x.1 x.2)) else none

/-- Steps that can land. -/
def landingMoves (s : State) : List Decision :=
  ((runningTasks s).flatMap domainSlices).filterMap fun x =>
    (nextLanding s x.1 x.2).bind fun n =>
      if landingDue s x.1 n x.2 then some (.event (.stepLanding x.1 n x.2)) else none

/-- What a copy can do. -/
def copyMove (s : State) (c : Copy) : List Decision :=
  let id := c.head.id
  let sends := (numbered c.bursts).filterMap fun y => if copySends s c y.2 then some (.event (.pchRequest id y.1)) else none
  let counts := (numbered c.bursts).filterMap fun y =>
    if c.outbound ∧ c.nearData.isSome ∧ (y.2.state = .accepted ∨ isFailed y.2) then
      some (.event (.copyBurstAccepted id y.1)) else none
  let lines := c.lines.filterMap fun l =>
    if !c.outbound ∧ copyActs s c ∧ engineMayWrite s id l ∧ !copyQueued s c ∧ (c.lineData l).isSome then
      some (.event (.copyLineWrite id l)) else none
  sends ++ counts ++ lines ++ (if nearReady s c then [.event (.copyNearRead id)] else [])

/-- The bursts a bulk read can send: the lowest not yet sent, when it gets an entry, and those to be sent again. -/
def bulkSend (s : State) (b : Bulk) : List Decision :=
  let first := (numbered b.bursts).find? fun y => decide (y.2.state = .todo)
  let again := (numbered b.bursts).filter fun y => decide (y.2.state = .again)
  ((first.filter fun _ => decide (outstandingBursts s b.head.core < 1024)).toList ++ again).filterMap fun y =>
    if bulkSends s b y.2 then some (.event (.pchRequest b.head.id y.1)) else none

/-- A burst whose handler can be born. -/
def birthReady (s : State) (b : Bulk) (t : Task) (n : Nat) (x : Burst) : Bool :=
  match x.state with
  | .got data =>
    taskActs s t.uid && !inQueue s b.head.id n && handlerSlot s t b.head.core &&
      (fileThread s b.head.core t.decl.width (.handler b.head.task b.head.party b.head.id) (burstThread b x data)).isSome
  | _ => false

/-- What a bulk read can do. -/
def bulkMove (s : State) (b : Bulk) : List Decision :=
  match findTask s b.head.task with
  | none => []
  | some t =>
    let births := (numbered b.bursts).filterMap fun y =>
      if birthReady s b t y.1 y.2 then some (.event (.burstArrival b.head.id y.1)) else none
    bulkSend s b ++ births ++ (if lastBurstReady s b t then [.event (.lastBurstEvent b.head.id)] else [])

/-- Whether the base die can go on with a query. -/
def queryReady (s : State) (q : Query) : Bool :=
  ((findTask s q.task).map (queryMoves s q)).getD false

/-- Whether the first operation of an engine's queue can take its turn. -/
def turnReady (s : State) (e : Engine) : Bool :=
  match e.queue.head? with
  | some op => taskActs s op.head.task && !drainWaits s e.core op
  | none => false

/-- What the engines can do. -/
def engineMoves (s : State) : List Decision :=
  s.eng.copies.flatMap (copyMove s) ++ s.eng.bulks.flatMap (bulkMove s) ++
  ((s.eng.bins.filter (binDue s)).map fun b => .event (.binDraw b.core b.slot)) ++
  ((s.eng.queries.filter (queryReady s)).map fun q => .event (.queryComplete q.id)) ++
  ((s.eng.matrix.filter (turnReady s)).map fun e => .event (.matrixOpTurn e.core)) ++
  ((s.eng.matrix.filter (claimOver s)).map fun e => .event (.matrixClaimEnd e.core)) ++
  s.eng.drains.flatMap fun d => (d.pieces.filter fun x =>
      (d.begun || taskActs s d.head.task) && engineMayWrite s d.head.id x.1).map fun x => .event (.drainWrite d.head.id x.1)

/-- What the stacks can do by themselves: the latency bound, targeted refresh and refresh management (R66, R67, R70). -/
def stackMoves (s : State) : List Decision :=
  ((s.dram.bankActs.filter fun x => decide (Config.managementThreshold ≤ x.2)).map fun x =>
    .event (.refreshManagement x.1)) ++
  (((s.dram.queues.map (·.pch)).dedup.filter (boundDue s)).map fun c => .event (.latencyBoundExpiry c)) ++
  ((s.dram.rowActs.filter fun x => decide (2048 ≤ x.2)).map fun x => .event (.targetedRefresh x.1.1 x.1.2)) ++
  (s.sram.slices.filter fun r => r.rebuildAt.isSome).map fun r => .event (.rebuildSector r.slice)

/-- Exchanges and rotations of active sets. -/
def activeMoves (s : State) : List Decision :=
  (busyCores s).flatMap fun c =>
    (if (parkedActive s c).isSome ∨ ((activeSlot s c).isSome ∧ (longestReady s c).isSome) then
      [.event (.activeSetExchange c)] else []) ++
    (if (longIssued s c).isSome ∧ (longestReady s c).isSome then [.event (.rotation c)] else [])

/-- The granule runs that placement takes for a task, chosen by a free value (R261); the first that fit where that choice
leaves no room for the rest. -/
def placementFor (s : State) (t : Task) : Option Placement :=
  match findPart s t.part with
  | none => none
  | some q =>
    let made := fun c : Chooser =>
      if t.saved.isSome then (restorePlan c s q t).map fun r => r.2.made else (admitPlan c q t s).map fun r => r.2.2.made
    ((made (.free s.fresh)).or (made .first)).map fun l => { runs := l }

/-- Admissions and restores. -/
def admissionMoves (s : State) : List Decision :=
  s.parts.flatMap fun q => (List.range 8).filterMap fun x =>
    (nextAdmitted s x q.id).bind fun t => (placementFor s t).map fun p =>
      if t.saved.isSome then .event (.restore t.uid p) else .event (.taskAdmission t.uid p)

/-- Whether staging of a task can go on. -/
def stagingReady (s : State) (t : Task) : Bool :=
  decide (t.state = .admitted) && t.stop.isNone && (xfersDone s t || !(sendable t).isEmpty)

/-- Whether the retirement of a task can go on. -/
def retirementReady (s : State) (t : Task) : Bool :=
  mayRetire s t && (t.xfers.isEmpty || xfersDone s t || !(sendable t).isEmpty)

/-- What a task's scheduler can do with it. -/
def taskMove (s : State) (t : Task) : List Decision :=
  (if stagingReady s t then [.event (.taskStaging t.uid)] else []) ++
  (if retirementReady s t then [.event (.taskRetirement t.uid)] else []) ++
  (if t.stop.isSome && stopReady s t then [.event (.taskStop t.uid)] else []) ++
  (if t.saving && t.stop.isNone && decide (t.state = .running) && (settledForSave s t.uid || !contextFits s t) then
    [.event (.preemption t.uid)] else []) ++
  (if mayBlock s t then [.event (.blockingTask t.uid)] else []) ++
  (if awaits t && decide (t.releasedAt + preemptionCycles ≤ s.now) && !fits s t && !savingIn s t.part &&
      (youngestAbove s t.part t.cls).isSome then [.event (.classPreemption t.uid)] else [])

/-- Steals. -/
def stealMoves (s : State) : List Decision :=
  s.parts.flatMap fun q => (List.range 8).filterMap fun x =>
    if maySteal s x q.id then (stealable s x q.id).map fun t => .event (.taskSteal x t.uid) else none

/-- What translation, the host link and the fabric can do by themselves. -/
def linkMoves (s : State) : List Decision :=
  (((List.range 8).filter (flushDue s)).map fun t => .event (.faultBufferFlush t)) ++
  ((s.host.fns.filter fun f => sqReady s f).map fun f => .event (.hostLaunch f.fn)) ++
  ((s.host.fns.filter fun f => cqRoom s f && !f.waiting.isEmpty).map fun f => .event (.completionEntryWrite f.fn)) ++
  ((s.host.fns.filter fun f => isResetting s f && (liveTasks s f.part).isEmpty).map fun f =>
    .event (.functionLevelReset f.fn)) ++
  ((s.fabric.out.filter fun o => decide (o.since + timeoutCycles ≤ s.now)).map fun o =>
    .event (.endToEndTimeout o.part o.seq)) ++
  ((s.fabric.serving.filter fun x => toSend x.state).map fun x => .event (.pchRequest x.id 0)) ++
  [0, 1].flatMap fun d => (numbered (dieCounters s.xlate d)).filterMap fun y =>
    if counterDue s y.2 then some (.event (.accessCounterNotify d y.1)) else none

/-- What the DMP does: bring-up with its plan of margins (R309, R310), and a plan after 1000 hours of operation. -/
def managementMoves (s : State) : List Decision :=
  if s.mgmt.up then (if planDue s false then [.event (.marginPlan false (freePlan s false))] else [])
  else if s.mgmt.recovery then []
  else if s.mgmt.running ∧ s.mgmt.plan.isEmpty then [.event (.marginPlan true (freePlan s true))]
  else [.event .bringUp]

/-- Every move that the device can make by itself. -/
def candidates (s : State) : List Decision :=
  managementMoves s ++
  if s.mgmt.up then
    issueMoves s ++ parkMoves s ++ responseMoves s ++ offerMoves s ++ frontierMoves s ++ landingMoves s ++ engineMoves s ++
      stackMoves s ++ activeMoves s ++ admissionMoves s ++ s.tasks.flatMap (taskMove s) ++ stealMoves s ++ linkMoves s
  else []

/-- Choose a move: the only one, or one that a free value names. -/
def schedule (s : State) : Option Decision × State :=
  match candidates s with
  | [] => (none, s)
  | [d] => (some d, s)
  | ds => (ds[Config.choice s.fresh % ds.length]?, { s with fresh := s.fresh + 1 })

/-! ### The clock and the first decision of a step -/

/-- Whether a path stands where it stood when its word of the step before was executed, in the middle of a sequence that its
task, told to stop, does not go on with: it trapped, or its word or data could not be read (R277). -/
def givesUp (s : State) (c : Cursor) (g : Group) (p : Path) : Bool :=
  decide (p.pid = c.pid) && decide (p.pc = c.pc) && decide (p.pre.rank ≠ 0) && decide (p.park = none) && toldToStop s g.task

/-- The groups once the path that issued in the step before has given up its sequence, if it does. -/
def afterIssue (s : State) : List Group :=
  match s.cursor with
  | none => s.groups
  | some c => updWhere s.groups (fun g => decide (g.gid = c.gid)) fun g =>
      { g with paths := updWhere g.paths (givesUp s c g) toBoundary }

/-- The start of a step: the model's clock advances, a path that its word has stopped gives its sequence up, paths that park
give way to held ones, and groups that wait are noted. -/
def tick (s : State) : State :=
  noteReady (exchangeHeld { s with now := s.now + 1, cursor := none, groups := afterIssue s })

/-- The decision of a step: the first of the agenda, or one that the device makes. -/
def nextDecision (s : State) : Option Decision × State :=
  match s.agenda with
  | d :: rest => (some d, { s with agenda := rest })
  | [] => schedule s

/-- Carry a decision as far as the instruction or event that it executes. A word comes only from a path. -/
def carryOut (d : Option Decision × State) : Issue :=
  match d.1 with
  | some (.issue gid pid) => issue gid pid d.2
  | some (.event i) => if i.isWord then .done d.2 else .run i d.2
  | some (.happen h) => .done (happening h d.2)
  | none => .done d.2

/-- What a step executes, after the clock has moved. -/
def nextInstr (s : State) : Issue := carryOut (nextDecision (tick s))

end Sys2Proof.Machine
end

