-- ==== Sys2Proof/Machine/Program.lean ====
section
/-!
DEFINITION. A program put into the machine from outside. Programs reach the device as objects that a loader
places (R303, R304) and tasks that a scheduler admits and stages (R254 to R269). The load here stands for
all of that at once: one running task of one group, whose first word is the word given (log entry 6).
-/

namespace Sys2Proof.Machine

open Sys2Proof

/-- The address of the first word of a placed program. -/
def programEntry : Word := 0x1000

/-- The word of `NOP` with no guard (R46). -/
def nopWord : Nat := encodeNat (.nop { inv := false, p := 7 })

/-- The task of a placed program: one party of eight threads in one group, with 4 KiB of scratch. -/
def programDecl : TaskDecl :=
  { partySize := 8, scratch := 4096, width := 8, entry := programEntry, trap := 0, handlers := [], regions := [],
    spillKiB := 0, hres := 0, relocs := [] }

/-- The partition of a placed program: core 0, and room for its one group. -/
def programPart (id : Nat) : Partition :=
  { id := id, thr := 64, grp := 64, wch := 64, hnd := 64, gran := 1536, recs := 16, dom := 16, rthr := 0,
    rgran := 0, cores := 1, pasid := id, ctxBase := 0, ctxSize := 0, debug := false, lastHandle := 1 }

/-- The object of a placed program. -/
def programObject (id : Nat) : Object :=
  { handle := id, part := id, tasks := [some programDecl], pcBase := programEntry, words := 2, dpa := 0 }

/-- The code instance of a placed program: its word and a `NOP` at device-physical address 0. -/
def programInstance (id : Nat) : Instance :=
  { id := id, object := id, tnum := 0, part := id, bases := [], pcBase := programEntry, words := 2, dpa := 0 }

/-- The record of a placed program's task, as it stands when its first instruction may issue. -/
def programTask (id : Nat) : Task :=
  { uid := id, part := id, tract := 0, object := id, tnum := 0, decl := programDecl, nparty := 1, cls := 0,
    handle := 1, depth := 1, parent := none, fn := none, counter := 0, hold := false, preds := [], args := none,
    pool := { items := 0, begun := 0, current := [] }, ccell := none, state := .running, releasedAt := 0,
    blocking := false, frec := Frec.zero, stop := none, places := [{ index := 0, core := 0, base := 0 }],
    bases := [], adopted := [], reserves := [], block := none, inst := some id, replicas := [], xfers := [],
    saving := false, held := false, saved := none, exited := [] }

/-- The group of a placed program. -/
def programGroup (id : Nat) : Group :=
  { gid := id, task := id, party := 0, core := 0, width := 8, handler := none, completion := false,
    lanes := (List.range 8).map fun l => newThread (BitVec.ofNat 32 l) l 0,
    paths := [newPath id programEntry 8], active := some 0, issued := 0, lastIssue := 0, packed := false,
    readySince := 0 }

/-- Place the word `w` as the program that core 0 runs next. Other groups of core 0 leave the active set, and
granule 0 of core 0 becomes the program's scratch; no error stands in the burst that holds the word. -/
def placeProgram (s : State) (w : Nat) : State :=
  let id := s.fresh
  let off := updWhere s.groups (fun g => decide (g.core = 0)) fun g => { g with active := none }
  let image := cellSetAll s.dram.mem (addressed 0 (bytesOfNat 4 w ++ bytesOfNat 4 nopWord))
  let s1 := setOwners s (setAssoc s.sram.owners 0 (.party id 0))
  { s1 with
    fresh := id + 1
    agenda := .issue id id :: s.agenda
    groups := programGroup id :: off
    dram.mem := image
    dram.reports := s.dram.reports.filter fun r => decide (r.1 ≠ 0)
    objects := programObject id :: s.objects
    instances := programInstance id :: s.instances
    codeCache := s.codeCache.filter fun c => decide (c.1.2.1 ≠ id)
    tractCode := s.tractCode.filter fun c => decide (c.1.2.1 ≠ id)
    tasks := programTask id :: s.tasks
    parts := programPart id :: s.parts
    mgmt.up := true }

end Sys2Proof.Machine
end

