-- ==== Sys2Proof/Machine/Step.lean ====
section
/-!
DEFINITION. One step of the machine: the clock moves on, one decision is taken, and the word or event it
names is executed. Beside it, how a program is put where a step fetches.
-/

namespace Sys2Proof.Machine

open Sys2Proof

/-- One step. -/
def step (s : State) : Host.Outcome State Fault Refusal :=
  match nextInstr s with
  | .done t => .next t
  | .run i t => exec i t

/-- The state with the instruction of `nbits` bits `w` placed where `step` fetches its next instruction. -/
def State.withFetchWord (s : State) (nbits w : Nat) : State := placeProgram s (w % 2 ^ min nbits 32)

end Sys2Proof.Machine
end

