-- ==== Sys2Proof/Safety.lean ====
section
/-!
DEFINITION. The terms in which claims about the machine are stated: the path an instruction word
executes for, what a lane instruction, a comparison or a transfer of control writes and what it
leaves alone, the results the rules give in plain arithmetic, and the invariant of a good machine.
-/

namespace Sys2Proof.Machine

open Sys2Proof

/-! ### The issuing path and its frame -/

/-- The machine executes the word `w` for path `p` of group `g`. -/
structure Issuing (s : State) (g : Group) (p : Path) (w : Word) : Prop where
  cursor : s.cursor = some { gid := g.gid, pid := p.pid, pc := p.pc, word := w }
  group : findGroup s g.gid = some g
  path : findPath g p.pid = some p

/-- Every line of `z` bytes at `a` is present to an access of step `t` (R97, R115, R162): no engine request of an earlier step,
but for the request `own`, still has to write it. A line whose presence bit reads wrong is as it reads (R125). -/
def PresentTo (s : State) (own : Option Nat) (a z t : Nat) : Prop :=
  (∀ c ∈ s.sram.clears, a / 128 ≤ c.line → c.line ≤ (a + z - 1) / 128 → own ≠ some c.req →
    presenceWrong s c.line = false → t ≤ c.step) ∧
  ∀ l k b, CopyErr.presence l k b ∈ s.sram.copies → a / 128 ≤ l → l ≤ (a + z - 1) / 128 → presenceWrong s l = true →
    linePresent s l = true

/-- Every landing of a step below `t` of a domain has taken place at a slice, of its entries and of the clears of its engine
requests (R97, R159). -/
def LandedTo (s : State) (d : Dom) (slice t : Nat) : Prop :=
  (∀ e ∈ s.sram.entries, e.dom = d → e.req = none → sliceOf (e.sector * 32) = slice → t ≤ e.step) ∧
  ∀ c ∈ s.sram.clears, c.dom = d → c.landed = false → sliceOf (c.line * 128) = slice → t ≤ c.step

/-- `t` is `s` with nothing changed but the lanes of group `g`, which becomes `g'`, and its path `p`,
which becomes `p'`: every other group, every other path of the group, every byte of the slices, of
DRAM, of the table rows and of the host, and every other field of the machine reads as before. -/
structure PathOnly (s : State) (g : Group) (p : Path) (t : State) (g' : Group) (p' : Path) :
    Prop where
  group : findGroup t g.gid = some g'
  path : findPath g' p.pid = some p'
  groups : ∀ id, id ≠ g.gid → findGroup t id = findGroup s id
  paths : ∀ id, id ≠ p.pid → findPath g' id = findPath g id
  lanes : g'.lanes.length = g.lanes.length
  groupRest : g' = { g with lanes := g'.lanes, paths := g'.paths }
  sram : ∀ a, cellGet t.sram.mem a = cellGet s.sram.mem a
  dram : ∀ a, cellGet t.dram.mem a = cellGet s.dram.mem a
  tables : ∀ a, cellGet t.dram.tableRows a = cellGet s.dram.tableRows a
  host : ∀ a, cellGet t.host.mem a = cellGet s.host.mem a
  rest : t = { s with groups := t.groups }

/-- The threads of `g'` are those of `g` but for the registers and flags. -/
def OnlyRegisters (g g' : Group) : Prop :=
  ∀ l, laneOf g' l = { laneOf g l with v := (laneOf g' l).v, flags := (laneOf g' l).flags }

/-- What a lane instruction with guard `gd` and scalar bit `sc` does (R190, R203): each active lane
`l` writes the registers `val l` lists and gathers the flags `fl l`; with `sc` it runs once, for the
lowest active lane, on scalar registers, and that lane gathers the flags (R187). No other register,
flag, lane, predicate or mask changes, the path goes on to the next word, and the word's prefixes are
used up. -/
def LaneWrites (s : State) (g : Group) (p : Path) (gd : Guard) (sc : Bool)
    (val : Nat → List (Nat × Word)) (fl : Nat → Word) (t : State) : Prop :=
  ∃ g' p', PathOnly s g p t g' p' ∧ OnlyRegisters g g' ∧
    p' = { p with pc := p.pc + 4, pre := Prefix.none, park := none, s := p'.s } ∧
    (∀ l, l < g.lanes.length → ∀ r, r < 64 → laneReg g' l r =
      if sc = false ∧ (activeMask p gd).getLsbD l = true then assoc (val l) r (laneReg g l r)
      else laneReg g l r) ∧
    (∀ l, l < g.lanes.length → (laneOf g' l).flags =
      if (if sc then lowest (activeMask p gd) = some l else (activeMask p gd).getLsbD l = true)
      then (laneOf g l).flags ||| fl l else (laneOf g l).flags) ∧
    (∀ r, r < 32 → sreg p' r =
      match sc, lowest (activeMask p gd) with
      | true, some l => assoc (val l) r (sreg p r)
      | _, _ => sreg p r)

/-- The path past its word: the next word begins a sequence (R32). -/
def Path.past (p : Path) : Path := { p with pc := p.pc + 4, pre := Prefix.none, park := none }

/-- The path at another address, where a sequence begins. -/
def Path.at (p : Path) (a : Word) : Path := { p with pc := a, pre := Prefix.none, park := none }

/-- The word `i`, executed at `s`, completes and changes nothing but path `p`, which becomes `q`. -/
def MovesPath (i : Instr) (s : State) (g : Group) (p q : Path) : Prop :=
  ∃ t g', exec i s = .next t ∧ PathOnly s g p t g' q ∧ g'.lanes = g.lanes

/-- The word `i`, executed at `s`, takes the synchronous trap `x`, and has no other effect. -/
def Traps (i : Instr) (s : State) (g : Group) (p : Path) (x : TrapOf) : Prop :=
  exec i s = .next (takeTrap s g p x)

/-- The word `i`, executed at `s`, completes and writes one register per active lane, with no flag. -/
def WritesWord (i : Instr) (s : State) (g : Group) (p : Path) (d : BitVec 6) (gd : Guard) (sc : Bool)
    (val : Nat → Word) : Prop :=
  ∃ t, exec i s = .next t ∧ LaneWrites s g p gd sc (fun l => [(d.toNat, val l)]) (fun _ => 0) t

/-- The word `i` completes and writes a register pair per active lane, low word first, with flags. -/
def WritesPair (i : Instr) (s : State) (g : Group) (p : Path) (d : BitVec 6) (gd : Guard) (sc : Bool)
    (val : Nat → BitVec 64) (fl : Nat → Word) : Prop :=
  ∃ t, exec i s = .next t ∧ LaneWrites s g p gd sc
    (fun l => [(d.toNat, (val l).setWidth 32), (d.toNat + 1, (val l >>> 32).setWidth 32)]) fl t

/-- The word `i` completes and writes one register per active lane, with flags. -/
def WritesFlagged (i : Instr) (s : State) (g : Group) (p : Path) (d : BitVec 6) (gd : Guard)
    (sc : Bool) (val : Nat → Word) (fl : Nat → Word) : Prop :=
  ∃ t, exec i s = .next t ∧ LaneWrites s g p gd sc (fun l => [(d.toNat, val l)]) fl t

/-- The register form `r` and the immediate form `i` of one instruction write `f` of operands A and B;
the immediate is read as `IMMS` where `signed` says so and as `IMMU` otherwise (R190). -/
def BothForms (r i : Instr) (s : State) (g : Group) (p : Path) (d a b : BitVec 6) (gd : Guard)
    (sc signed : Bool) (f : Nat → Word → Word → Word) : Prop :=
  WritesWord r s g p d gd sc (fun l => f l (opA g p sc a l) (opB g p sc (.reg b) l)) ∧
  WritesWord i s g p d gd sc
    (fun l => f l (opA g p sc a l) (if signed then imms p b else immu p b))

/-- A result under `MOD` SAT (R53, R191): wrapped, clamped to the signed range of the width, or, the
operands read as unsigned, clamped to the unsigned range. -/
def saturated (m : ModWord) (n : Nat) (wrapped : BitVec n) (signed unsigned : Int) : BitVec n :=
  if m.sat = 0 then wrapped
  else if m.sat = 1 then BitVec.ofInt n (max (-2 ^ (n - 1)) (Min.min (2 ^ (n - 1) - 1) signed))
  else BitVec.ofInt n (max 0 (Min.min (2 ^ n - 1) unsigned))

/-- The word `i` completes, and of the whole machine only predicates, scalar registers and flags of
its path and group may change: predicate `k`, bit `l`, becomes `pv k l`, and scalar `r` becomes
`sv r`; flags of lane `l` become `fl l`. -/
def WritesPath (i : Instr) (s : State) (g : Group) (p : Path) (pv : Nat → Nat → Bool)
    (sv : Nat → Word) (fl : Nat → Word) : Prop :=
  ∃ t g' p', exec i s = .next t ∧ PathOnly s g p t g' p' ∧
    p' = { p with pc := p.pc + 4, pre := Prefix.none, park := none, s := p'.s, p := p'.p } ∧
    (∀ l, l < g.lanes.length → laneOf g' l = { laneOf g l with flags := fl l }) ∧
    (∀ k l, (h : k < 7) → l < 64 → p'.p[k].getLsbD l = pv k l) ∧
    (∀ r, r < 32 → sreg p' r = sv r)

/-! ### The trees of R200, by position -/

/-- `x[k]` of `REDL` after `n` levels. -/
def redAt (op : LaneOp) (x : Nat → Word) : Nat → Nat → Word
  | 0, k => x k
  | n + 1, k => (laneCombine op (redAt op x n k) (redAt op x n (k + 2 ^ n))).1

/-- `y[k]` of `SCANL` after `n` levels. -/
def scanAt (op : LaneOp) (y : Nat → Word) : Nat → Nat → Word
  | 0, k => y k
  | n + 1, k =>
    if 2 ^ n ≤ k then (laneCombine op (scanAt op y n (k - 2 ^ n)) (scanAt op y n k)).1
    else scanAt op y n k

/-! ### Numbers -/

/-- The number a finite value stands for (R171); infinities and NaNs stand for none and give 0. -/
def FVal.toRat : FVal → ℚ
  | .fin neg m e => (if neg then -1 else 1) * (m : ℚ) * (2 : ℚ) ^ e
  | _ => 0

/-- Whether a value is finite. -/
def FVal.isFin : FVal → Bool
  | .fin _ _ _ => true
  | _ => false

/-- The register form `r` and the immediate form `i` of a binary32 instruction write the element that
`f` makes of the patterns of operands A and B, the immediate read as `IMMS`, and gather its flags
(R203, R205). -/
def BothFloatForms (r i : Instr) (s : State) (g : Group) (p : Path) (d a b : BitVec 6) (gd : Guard)
    (sc : Bool) (f : Nat → Nat → Nat → Nat × Word) : Prop :=
  let x := fun l => (opA g p sc a l).toNat
  let y := fun l => (opB g p sc (.reg b) l).toNat
  WritesFlagged r s g p d gd sc (fun l => BitVec.ofNat 32 (f l (x l) (y l)).1)
    (fun l => (f l (x l) (y l)).2) ∧
  WritesFlagged i s g p d gd sc (fun l => BitVec.ofNat 32 (f l (x l) (imms p b).toNat).1)
    (fun l => (f l (x l) (imms p b).toNat).2)

/-! ### Memory -/

/-- Every element of an access list is aligned, resolves in its space at `adr`, and is no load of a
handler from its own request's window (R140). -/
def AccessesPass (s : State) (g : Group) (sp : Space) (z : Nat) (ls : List (Nat × Nat))
    (adr : Nat → Nat) : Prop :=
  ∀ x ∈ ls, x.2 % z = 0 ∧ resolve s g sp x.2 z = .ok (adr x.1) ∧
    ∀ b, bulkOf s g = some b → g.completion = false →
      ¬ (adr x.1 < b.win + 128 * b.winLines ∧ b.win < adr x.1 + z)

/-- The number a load of `z` bytes of step `t` at `a` returns, little-endian (R141): every byte as the
step finds it, or as it is now in a word that is the counter cell of an outstanding request. -/
def loadedNumber (s : State) (task t a z : Nat) : Nat :=
  natOfBytes ((List.range z).map fun k =>
    if isCounter s task ((a + k) / 4) then cellGet s.sram.mem (a + k) else byteAsOf s t (a + k))

/-- `EXT` of R142: the words of a loaded element, low word first. -/
def loadedWords (ty : Ty) (m : Nat) : List Word :=
  match ty with
  | .i8 => [(BitVec.ofNat 8 m).signExtend 32]
  | .i16 => [(BitVec.ofNat 16 m).signExtend 32]
  | .i64 | .f64 => [BitVec.ofNat 32 m, BitVec.ofNat 32 (m / 2 ^ 32)]
  | _ => [BitVec.ofNat 32 m]

/-- The machine apart from the offers at the slices' inputs and the counter that numbers them. -/
def withoutOffers (s t : State) : State :=
  { t with
    fresh := s.fresh
    sram := { t.sram with offers := s.sram.offers } }

/-- `t` is `s` where an access on behalf of `w` has met a sector that cannot be decoded (R135, R274, R278): the slice
counts it in `UNC` and names it in `SLUADDR`, the task of `w`, unless it has been stopped already, takes the
uncorrectable-memory stop with its record, and nothing else changes. -/
def StopsAt (s : State) (w : Who) (sector : Nat) (t : State) : Prop :=
  let r := sliceReg s (sliceOf (sector * 32))
  t = { s with tasks := t.tasks, sram.slices := t.sram.slices } ∧
  (∀ n, sliceReg t n = if n = sliceOf (sector * 32)
    then { r with unc := min (r.unc + 1) 255, sluaddr := sector * 32 % 2 ^ 23 } else sliceReg s n) ∧
  t.tasks = s.tasks.map fun x => if x.uid = w.task ∧ x.stop = none
    then { x with
      stop := some 0x0B
      frec := { kind := 0x0B, step := w.step, addr := BitVec.ofNat 32 (sector * 32), rule := 0, count := 0,
                tid0 := w.tid, tid1 := BitVec.allOnes 32, pc := w.pc } }
    else x

/-- `t` is `s` where sectors that can all be decoded have been read whole (R134): what the code delivers stands in each,
no symbol of them is in error, each slice counts in `SLCORR` those whose one wrong symbol was corrected, and nothing
else changes. -/
structure ReadsSectors (s : State) (secs : List Nat) (t : State) : Prop where
  rest : t = { s with sram.mem := t.sram.mem, sram.flips := t.sram.flips, sram.slices := t.sram.slices }
  clean : ∀ x ∈ secs, sectorErrors t x = []
  delivered : ∀ x ∈ secs, ∀ c, (sectorOutcome s x = .clean c ∨ sectorOutcome s x = .rebuilt c ∨
    ∃ b, sectorOutcome s x = .corrected c b) → bytesAt t.sram.mem (x * 32) 32 = bytesOfSymbols (c.take 16)
  others : ∀ a, sectorOf a ∉ secs → cellGet t.sram.mem a = cellGet s.sram.mem a
  errors : ∀ x, x ∉ secs → sectorErrors t x = sectorErrors s x
  counted : ∀ n,
    let k := (secs.dedup.filter fun x => decide (sliceOf (x * 32) = n) && (correctedBank s x).isSome).length
    let r := sliceReg s n
    sliceReg t n = { r with slcorr := if k = 0 then r.slcorr else min (r.slcorr + k) 0xFFFFFFFF }

/-- Byte `o` of the bytes of a region after the conversion of R94 from one format to another, element by element. -/
def convertedByte (src dst : Ty) (bs : List Byte) (o : Nat) : Byte :=
  if src = dst then bs.getD o 0
  else
    let n := tyBits src / 8
    let m := tyBits dst / 8
    let x := natOfBytes ((bs.drop (o / m * n)).take n)
    let y := match src with
      | .f32 => if dst = Ty.bf16 then roundTo bf16 .rne (f32.value x) else roundTo e4m3 .rne (f32.value x)
      | .bf16 => roundTo f32 .rne (bf16.value x)
      | .e4m3 => roundTo bf16 .rne (e4m3.value x)
      | _ => roundTo f32 .rne (f16.value x)
    byteAt y.1 (o % m)

/-- A block of memory as the elected lane `l` reads it whole (R27, R28, R103): aligned, addressable in
its space, readable as a load of the lane's step, in sectors without an error; its bytes are `bs`. -/
def ReadableBlock (s : State) (g : Group) (l : Nat) (sp : Space) (addr align len : Nat) (bs : List Byte) :
    Prop :=
  addr % align = 0 ∧ ∃ a, resolve s g sp addr len = .ok a ∧
    blockReady s g.task g.core a len (laneOf g l).step.toNat = true ∧
    (∀ sec ∈ sectorRange a len, sectorErrors s sec = []) ∧
    bs = rangeBytes s g.task a len (laneOf g l).step.toNat

/-- The word `i`, executed at `s`, takes the memory-address trap of lane `l` that reports `a` in space `sp` (R140, R274). -/
def AddressTraps (i : Instr) (s : State) (g : Group) (p : Path) (w : Word) (l : Nat) (sp : Space) (a : Nat) : Prop :=
  Traps i s g p { kind := 3, lane := l, word := w, addr := BitVec.ofNat 32 a, info := spaceBits sp, after := false }

/-- The first of the ranges `rs` that breaks R25 or R27 makes `i` take the memory-address trap, which reports its lowest
byte that fails (R140). -/
def NamedTraps (i : Instr) (s : State) (g : Group) (p : Path) (w : Word) (l : Nat) (rs : List Named) : Prop :=
  ∀ (k : Nat) (r : Named) (a : Nat), rs[k]? = some r → resolve s g r.sp r.addr r.len = .error a →
    (∀ (j : Nat) (y : Named), j < k → rs[j]? = some y → ∃ x, resolve s g y.sp y.addr y.len = .ok x) →
    AddressTraps i s g p w l r.sp a

/-- What stops or holds `i` at the block of `len` bytes at `addr` that lane `l` reads as a load of its step (R27, R28, R103,
R135, R140): a misaligned block, or one that its space does not hold, traps; one that is not ready is waited for; and the
first sector that cannot be decoded stops the task. -/
def BlockCourse (i : Instr) (s : State) (g : Group) (p : Path) (w : Word) (l : Nat) (sp : Space) (addr align len : Nat) :
    Prop :=
  let x := laneOf g l
  (addr % align ≠ 0 → AddressTraps i s g p w l sp addr) ∧
  (addr % align = 0 → ∀ a, resolve s g sp addr len = .error a → AddressTraps i s g p w l sp a) ∧
  (addr % align = 0 → ∀ a, resolve s g sp addr len = .ok a →
    (blockReady s g.task g.core a len x.step.toNat = false → MovesPath i s g p { p with park := some .issue }) ∧
    (blockReady s g.task g.core a len x.step.toNat = true → ∀ (k sec : Nat), (sectorRange a len)[k]? = some sec →
      sectorBad s sec = true → (∀ (j y : Nat), j < k → (sectorRange a len)[j]? = some y → sectorBad s y = false) →
      ∃ t, exec i s = .next t ∧
        StopsAt s { task := g.task, step := x.step, tid := x.tid, pc := seqStart p } sec t))

/-- The groups of `t` are those of `s`, with nothing changed but path `p`, which became `q`. -/
def GoesOn (s : State) (g : Group) (p q : Path) (t : State) : Prop :=
  ∃ g', PathOnly s g p { s with groups := t.groups } g' q ∧ g'.lanes = g.lanes

/-- The counter word of a copy or bulk read after one update by `n` (R99, R119): the 24-bit count falls by
`n`, and an error code is taken where none stands. -/
def Counted (old new : Word) (n code : Nat) : Prop :=
  new.toNat % 2 ^ 24 = (old.toNat + (2 ^ 24 - n % 2 ^ 24)) % 2 ^ 24 ∧
  new.toNat / 2 ^ 24 = if old.toNat / 2 ^ 24 = 0 then code % 256 else old.toNat / 2 ^ 24

/-! ### The invariant -/

/-- What holds of the machine at all times: the four memories are in canonical form, the valid entries of
the plat are compatible (R65), and no two partitions share a core (R263). -/
structure Inv (s : State) : Prop where
  sram : Memory.wf s.sram.mem = true
  dram : Memory.wf s.dram.mem = true
  tables : Memory.wf s.dram.tableRows = true
  host : Memory.wf s.host.mem = true
  plat : ∀ i j, (hi : i < 16) → (hj : j < 16) → i ≠ j → compatible s.dram.plat[i] s.dram.plat[j] = true
  cores : s.parts.Pairwise fun x y => x.id ≠ y.id → x.cores &&& y.cores = 0

/-! ### Paths and pools -/

/-- No path waits for an entry of the instruction-buffer pool, and the group keeps a first path. -/
def NoneHeld (s : State) (g : Group) : Prop :=
  (∀ x ∈ s.groups, ∀ p ∈ x.paths, heldSince p = none) ∧ (∀ p ∈ g.paths, heldSince p = none) ∧
    ∃ p ∈ g.paths, p.slot = .first

/-- A path but for its place in the instruction-buffer pool. -/
def Path.unplaced (p : Path) : Path := { p with slot := .first }

/-- Whether every lane of `m` is parked in `g` at a `JOIN` with that mask, has exited or has been filed (R246). -/
def Arrived (g : Group) (m : Mask) : Prop :=
  ∀ l, m.getLsbD l = true → (∃ x ∈ g.paths, joinMask x = some m ∧ x.exec.getLsbD l = true) ∨
    (laneOf g l).state = .exited ∨ (laneOf g l).state = .filed

/-- A rejoin on `m`, and on no other mask, is due in `g`, whose paths share no lane (R246). -/
structure RejoinDue (g : Group) (m : Mask) : Prop where
  pids : (g.paths.map (·.pid)).Nodup
  apart : g.paths.Pairwise fun x y => x.exec &&& y.exec = 0
  parked : ∃ x ∈ g.paths, joinMask x = some m ∧ x.exec ≠ 0
  arrived : Arrived g m
  only : ∀ x ∈ g.paths, ∀ y, joinMask x = some y → y ≠ m → ¬ Arrived g y

/-- `g'` is `g` after the rejoin on `m` (R246): the paths parked with the mask are one path `r` with the lanes of all of
them, which goes on past the `JOIN` of the path `y` that holds the lowest lane, with its scalar registers and masks;
each lane brings its predicate bits, and the steps of all lanes are the highest of theirs. The other paths and lanes
stay as they are. -/
def Merges (g g' : Group) (m : Mask) : Prop :=
  let in_ := fun (x : Path) (l : Nat) => x ∈ g.paths ∧ joinMask x = some m ∧ x.exec.getLsbD l = true
  ∃ (y r : Path) (lo : Nat) (top : Step), in_ y lo ∧ (∀ x l, in_ x l → lo ≤ l) ∧
    r = { y.past with exec := r.exec, p := r.p, slot := r.slot, pace := none } ∧
    (∀ l, l < 64 → (r.exec.getLsbD l = true ↔ ∃ x, in_ x l)) ∧
    (∀ x l, in_ x l → ∀ k, (h : k < 7) → r.p[k].getLsbD l = x.p[k].getLsbD l) ∧
    g'.paths.map Path.unplaced =
      ((g.paths.filter fun x => decide (x.pid = y.pid) || decide (joinMask x ≠ some m)).map fun x =>
        if x.pid = y.pid then r.unplaced else x.unplaced) ∧
    (∃ x l, in_ x l ∧ (laneOf g l).step = top) ∧ (∀ x l, in_ x l → (laneOf g l).step.toNat ≤ top.toNat) ∧
    (∀ l, l < g.lanes.length → (r.exec.getLsbD l = true → laneOf g' l = { laneOf g l with step := top }) ∧
      (r.exec.getLsbD l = false → laneOf g' l = laneOf g l)) ∧
    g' = { g with paths := g'.paths, lanes := g'.lanes }

/-- The group `h` is `g` after the lanes of `m` have left path `p`, which is done or goes on as `q` with the rest of its
lanes. -/
def LanesLeave (g : Group) (p q : Path) (m : Mask) (st : LaneState) (h : Group) : Prop :=
  h = { g with paths := h.paths, lanes := h.lanes } ∧ h.lanes.length = g.lanes.length ∧
  (∀ l, l < g.lanes.length → laneOf h l = if m.getLsbD l = true then { laneOf g l with state := st } else laneOf g l) ∧
  h.paths = if p.exec &&& ~~~m = 0 then g.paths.filter fun x => decide (x.pid ≠ p.pid)
    else g.paths.map fun x => if x.pid = p.pid then { q with exec := p.exec &&& ~~~m } else x

/-- The lanes of a group after `m` of them have advanced by one step. -/
def StepsOn (g g' : Group) (m : Mask) : Prop :=
  ∀ l, laneOf g' l = if l < g.lanes.length ∧ m.getLsbD l = true
    then { laneOf g l with step := (laneOf g l).step + 1 } else laneOf g l

end Sys2Proof.Machine
end

