-- ==== Sys2Proof/Certificates/Slice0/Obligations.lean ====
section
/-!
DEFINITION. The statements about the machine. Each says what the rules it names say of the instructions or
events it names: that they complete with the effect given, and what they leave alone.
-/

section

open Sys2Proof Sys2Proof.Machine

/-! ### Encodings and steps -/

/-- R31, R34 to R48: words of the register-integer, compare, predicate and lane, float, convert,
scalar-memory, watch, memory, matrix, engine, query, control-transfer, control, launch, special-register and
prefix formats, each field put in its place by the spec's format tables, decode to the instructions they
stand for; the first fifteen are the spec's own worked encodings or follow them. -/
def Obligations.DecodedWordsAreTheSpecs : Prop :=
  let all : Guard := { inv := false, p := 7 }
  let not2 : Guard := { inv := true, p := 2 }
  decode 0x48408370 = .ok (.fadd 4 2 3 all false) ∧
  decode 0x30604071 = .ok (.cmpImm .ne 1 0 all false 1) ∧
  decode 0xF4000800 = .ok (.mod { sat := 0, clmp := false, na := false, aa := false, nb := false, ab := false,
                                  scl := 0, rm := 0, sa := 2, sb := 0 }) ∧
  decode 0xF8000002 = .ok (.imm 2) ∧
  decode 0x90100076 = .ok (.stP .low 1 0 0 all .i32) ∧
  decode 0x98204076 = .ok (.stP .sum 2 1 0 all .i32) ∧
  decode 0xAC31C87E = .ok (.stG .flt 3 7 8 all .f32) ∧
  decode 0xCC408072 = .ok (.tq 4 2 0 false all .i8) ∧
  decode 0xCC80D77D = .ok (.tqb 8 3 5 true all .bf16) ∧
  decode 0xE0000070 = .ok (.nop all) ∧
  decode 0x8040C076 = .ok (.ld .party 4 3 0 all .i32) ∧
  decode 0xC8019070 = .ok (.copy 6 0x10 all .party) ∧
  decode 0xC8820070 = .ok (.cpys 8 all) ∧
  decode 0xC9810078 = .ok (.brdi 4 0 all .immutable) ∧
  decode 0xCA000070 = .ok (.hend all) ∧
  decode 0x05846A70 = .ok (.add 24 17 42 all false) ∧
  decode 0x1437C9AA = .ok (.sar 3 31 9 not2 true) ∧
  decode 0x1CAF8871 = .ok (.sub64 10 62 8 all false) ∧
  decode 0x24518071 = .ok (.clz 5 6 all false) ∧
  decode 0x2C108375 = .ok (.sel 1 2 3 all false 5) ∧
  decode 0x35910673 = .ok (.dcmp .un 4 6 all 3) ∧
  decode 0x3C720970 = .ok (.shfl 7 8 9 all) ∧
  decode 0x5C41847E = .ok (.cvt 4 6 .i16 all .f32) ∧
  decode 0x744B2656 = .ok (.lds .task 11 9 37 .i32) ∧
  decode 0x790B2656 = .ok (.sts .any .party 11 9 37 .i32) ∧
  decode 0x7D020574 = .ok (.watch .ze 8 5 all .task) ∧
  decode 0x7C320575 = .ok (.pres 3 8 5 all .task) ∧
  decode 0xC0C1ED72 = .ok (.mldw 12 7 .immutable .bf16 all true) ∧
  decode 0xC0C21279 = .ok (.mma 12 8 .task .i8 all false true) ∧
  decode 0xC4100076 = .ok (.mzero true all true) ∧
  decode 0xD2FFFFFF = .ok (.bra { inv := true, p := 3 } 0x3FFFFF) ∧
  decode 0xD6000001 = .ok (.jmp 0x2000001) ∧
  decode 0xDED40001 = .ok (.split 5 not2 0x40001) ∧
  decode 0xE5644170 = .ok (.enq 22 17 .task all) ∧
  decode 0xE8400970 = .ok (.srd 4 9 all) ∧
  decode 0xE8403171 = .ok (.swr 4 0x31 all)

/-- R31, R37 to R52: for every instruction word, whatever its operands, decoding the word encoded from its
fields gives that instruction back. -/
def Obligations.EncodeThenDecodeGivesTheInstruction : Prop :=
  ∀ i : Instr, i.wf = true → i.isWord = true → decode (encode i) = .ok i

/-- R5, R48, R49, R56: no word has two readings and no bit of a word goes unread: what decodes is a
well-formed instruction word and encodes to the word it was read from. The majors 0x00, 0x23, 0x3B and 0x3F
decode to nothing. -/
def Obligations.EveryWordHasAtMostOneReading : Prop :=
  (∀ (w : Word) (i : Instr), decode w = .ok i → i.wf = true ∧ i.isWord = true ∧ encode i = w) ∧
  ∀ w : Word, (w.extractLsb' 26 6 = 0x00 ∨ w.extractLsb' 26 6 = 0x23 ∨ w.extractLsb' 26 6 = 0x3B ∨
    w.extractLsb' 26 6 = 0x3F) → decode w = .error .major

/-- R31, R57, R68, R241, R267, R276, R303, R306: a step takes the first decision of the agenda, or with an
empty one the only move the device can make, or of several the one a free value names, or none. A path that
may issue runs the word at its program counter, or the word it holds. At the state with the clock moved on
(and held paths exchanged), the path as it stood but for the moment of its turn and a wait at issue that is
over, packing noted, the fetched word in the core's code cache and the issue counted (a word issued again
after a wait counts once), a word the path's prefixes allow executes as `exec` says, and any other word
takes the illegal-instruction trap. A program counter outside the code image takes the instruction-address
trap, and a word whose burst has an uncorrectable error stops the task. An event runs as `exec` says; a
decision that is not possible changes nothing. The lane that an illegal word reports, one move per step of
the clock, what happens without a row of the opcode table, the code caches and what an unreadable word
leaves in FREC, and packing one share at a step, are the model's (log entries 3, 7, 13, 68, 70, 76). -/
def Obligations.StepRunsTheDecodedInstruction : Prop :=
  ∀ s : State, (s.agenda = [] → candidates (tick s) = [] → step s = .next (tick s)) ∧
    ∀ (d : Decision) (u : State),
      ((∃ rest, s.agenda = d :: rest ∧ u = { tick s with agenda := rest }) ∨
        (s.agenda = [] ∧ candidates (tick s) = [d] ∧ u = tick s) ∨
        (s.agenda = [] ∧ 2 ≤ (candidates (tick s)).length ∧ u = { tick s with fresh := (tick s).fresh + 1 } ∧
          (candidates (tick s))[Config.choice (tick s).fresh % (candidates (tick s)).length]? = some d)) →
      (∀ e : Instr, d = .event e → step s = if e.isWord then .next u else exec e u) ∧
      (∀ h : Happening, d = .happen h → step s = .next (happening h u)) ∧
      (∀ gid pid : Nat, d = .issue gid pid →
        (¬ ∃ g p, findGroup u gid = some g ∧ findPath g pid = some p ∧ mayIssue u g p = true) → step s = .next u) ∧
      ∀ (gid pid : Nat) (g : Group) (p : Path), d = .issue gid pid → findGroup u gid = some g →
        findPath g pid = some p → mayIssue u g p = true →
        let held := !p.pre.words.isEmpty
        let w := if held then p.pre.words.headD 0 else fetchWord u g.core g.task p.pc
        let lane := (lowest p.exec).getD 0
        let q := { p with turn := u.now, park := none }
        let share := fun (x : Group) => { x with packed := false, lastIssue := 0 }
        let shape := fun (v : State) (g' : Group) (issued : Nat) =>
          findGroup v gid = some g' ∧ findPath g' pid = some q ∧ (∀ id, id ≠ pid → findPath g' id = findPath g id) ∧
          (∀ id, id ≠ gid → (findGroup v id).map share = (findGroup u id).map share) ∧
          v.cursor.map (fun c => (c.gid, c.pid, c.pc)) = some (gid, pid, p.pc) ∧
          g' = { g with lastIssue := if g.packed then g.lastIssue else u.now, packed := false, paths := g'.paths,
                        issued := issued }
        let bad := !held && codeBad u g.core g.task p.pc
        (inImage u g.task p.pc = true → bad = false →
          (∀ i, decode w = .ok i → (isPrefix i = true ∨ prefixOk p i = true) → ∃ v g',
            step s = exec i v ∧ Issuing v g' q w ∧
            shape v g' (if isPrefix i = true ∨ p.park.isSome = true then g.issued else g.issued + 1) ∧
            (held = false → fetchWord v g.core g.task p.pc = w) ∧
            v = { u with groups := v.groups, codeCache := v.codeCache, tractCode := v.tractCode, dram := v.dram,
                         cursor := v.cursor } ∧ v.dram.mem = u.dram.mem) ∧
          (((∃ e, decode w = .error e) ∨
              ∃ i, decode w = .ok i ∧ isPrefix i = false ∧ prefixOk p i = false) → ∃ v g',
            step s = .next (takeTrap v g' q { kind := 1, lane := (lowest (wordActive q w)).getD lane, word := w,
                                              addr := 0, info := 0, after := false }) ∧ shape v g' g.issued ∧
            v = { u with groups := v.groups, codeCache := v.codeCache, tractCode := v.tractCode, dram := v.dram,
                         cursor := v.cursor } ∧
            v.dram.mem = u.dram.mem)) ∧
        (inImage u g.task p.pc = true → bad = true → ∃ v g',
          step s = .next (stopWith v g.task
            { kind := 0x0B, step := (laneOf g lane).step, addr := 0, rule := 0, count := 0, tid0 := (laneOf g lane).tid,
              tid1 := BitVec.allOnes 32, pc := seqStart p }) ∧ shape v g' g.issued ∧
          v = { u with groups := v.groups, dram := v.dram, cursor := v.cursor } ∧ v.dram.mem = u.dram.mem) ∧
        (inImage u g.task p.pc = false → ∃ v g',
          step s = .next (takeTrap v g' q { kind := 2, lane := lane, word := 0, addr := p.pc, info := 0,
                                            after := false }) ∧ shape v g' g.issued ∧
          v = { u with groups := v.groups, cursor := v.cursor })

/-- No step of the machine ends in a fault or a refusal: whatever the state, the program and the data, the
machine goes on. That a move which is not possible changes nothing but the clock is the model's choice (log
entry 62). -/
def Obligations.EveryStepAnswersANextState : Prop :=
  ∀ s : State, ∃ t, step s = .next t

/-- From any state where the four memories are in the model's canonical form (log entries 1 and 2), the
valid entries of the plat are compatible (R65) and no two partitions share a core (R263), a step leaves them
so. -/
def Obligations.StepsKeepTheInvariant : Prop :=
  ∀ s t : State, Inv s → step s = .next t → Inv t

/-- R307, R310: after reset firmware is not up and does not run, and the first step begins to bring the
device up. That there is no program, group, task, partition, object, request, pending store or queue entry,
that the agenda is empty and every memory lists nothing and reads as zero, and that bring-up is the first
move, are the model's choices (log entries 1, 2, 4, 6 and 8); the invariant holds. -/
def Obligations.ResetIsAGoodEmptyMachine : Prop :=
  Inv State.reset ∧ State.reset.groups = [] ∧ State.reset.tasks = [] ∧ State.reset.parts = [] ∧
  State.reset.objects = [] ∧ State.reset.instances = [] ∧ State.reset.kept = [] ∧
  State.reset.eng.copies = [] ∧ State.reset.eng.bulks = [] ∧ State.reset.eng.drains = [] ∧
  State.reset.eng.queries = [] ∧ State.reset.eng.matrix = [] ∧ State.reset.eng.bins = [] ∧
  State.reset.sram.offers = [] ∧ State.reset.sram.entries = [] ∧ State.reset.sram.accums = [] ∧
  State.reset.sram.clears = [] ∧ State.reset.dram.queues = [] ∧ State.reset.host.fns = [] ∧
  State.reset.fabric.out = [] ∧ State.reset.fabric.serving = [] ∧ State.reset.codeCache = [] ∧
  State.reset.agenda = [] ∧ State.reset.mgmt.up = false ∧ State.reset.mgmt.running = false ∧
  candidates (tick State.reset) = [.event .bringUp] ∧
  step State.reset = exec .bringUp (tick State.reset) ∧
  ∀ a, cellGet State.reset.sram.mem a = 0 ∧ cellGet State.reset.dram.mem a = 0 ∧
    cellGet State.reset.dram.tableRows a = 0 ∧ cellGet State.reset.host.mem a = 0

/-- R9, R22, R188, R275: when a party starts, its threads stand in groups of the task's width in order of
`TID`; every register, `STEP` and `FLAGS` of each is zero, `TVEC` is the task's trap entry and `TIN` is
clear; and each group's one path holds exactly the lanes with a thread and begins at the entry with zero
scalar registers, predicates `p0` to `p6` and masks, `p7` reading as all ones. No other group changes. -/
def Obligations.PartiesStartAllZero : Prop :=
  ∀ (t : Task) (s : State) (x : PartyPlace), 0 < t.decl.width → t.decl.width ≤ 64 →
    let w := t.decl.width
    let size := t.decl.partySize
    let u := startParty t s x
    u = { s with groups := u.groups, fresh := u.fresh } ∧
    ∃ new, u.groups = s.groups ++ new ∧ new.length = (size + w - 1) / w ∧
      ∀ n, (h : n < new.length) →
        let g := new[n]
        let holds := fun l => l < w ∧ n * w + l < size
        g.task = t.uid ∧ g.party = x.index ∧ g.core = x.core ∧ g.width = w ∧ g.lanes.length = w ∧
        g.handler = none ∧
        (∀ l, holds l → (laneOf g l).state = .live ∧ (laneOf g l).tvec = t.decl.trap ∧
          (laneOf g l).tid = BitVec.ofNat 32 (x.index * size + n * w + l)) ∧
        (∀ l, l < w → (∀ r, laneReg g l r = 0) ∧ (laneOf g l).step = 0 ∧ (laneOf g l).flags = 0 ∧
          (laneOf g l).tin = false ∧ (¬ holds l → (laneOf g l).state = .empty)) ∧
        ∃ p, g.paths = [p] ∧ p.pc = t.decl.entry ∧ (∀ l, p.exec.getLsbD l = true ↔ holds l) ∧
          (∀ r, sreg p r = 0) ∧ (∀ k, (h : k < 7) → p.p[k] = 0) ∧ predOf p 7 = BitVec.allOnes 64 ∧
          (∀ k, jmask p k = 0) ∧ p.pre = Prefix.none ∧ p.park = none

/-! ### Operands and the integer family -/

/-- R51: the immediates with and without an `IMM` prefix. R53: operands A and B are the lane's registers, a
scalar register under selector 1, or zero under selector 2. A selector of an operand that an instruction
does not have selects nothing (the model's reading, log entry 31). -/
def Obligations.OperandsAreAsTheirPrefixesSay : Prop :=
  ∀ (g : Group) (p : Path) (f a b : BitVec 6) (l k : Nat),
    (∀ h, p.pre.hi = some h → imms p f = h ++ f ∧ immu p f = h ++ f) ∧
    (p.pre.hi = none → imms p f = f.signExtend 32 ∧ immu p f = f.zeroExtend 32) ∧
    (p.pre.mod = none → opA g p false a l k = laneReg g l (a.toNat + k) ∧
      opA g p true a l k = sreg p (a.toNat + k) ∧
      opB g p false (.reg b) l k = laneReg g l (b.toNat + k) ∧
      opB g p true (.reg b) l k = sreg p (b.toNat + k)) ∧
    (∀ m, p.pre.mod = some m →
      (m.sa = 0 → opA g p false a l k = laneReg g l (a.toNat + k)) ∧
      (m.sa = 1 → opA g p false a l k = sreg p (a.toNat + k)) ∧
      (m.sa = 2 → opA g p false a l k = 0) ∧
      (m.sb = 0 → opB g p false (.reg b) l k = laneReg g l (b.toNat + k)) ∧
      (m.sb = 1 → opB g p false (.reg b) l k = sreg p (b.toNat + k)) ∧
      (m.sb = 2 → opB g p false (.reg b) l k = 0))

/-- R191, R192, with the frame of R190: what every two-operand word instruction without SAT writes, in its
register and its immediate form, vector or scalar. -/
def Obligations.WordArithmeticWritesTheRuleValues : Prop :=
  ∀ (s : State) (g : Group) (p : Path) (w : Word) (d a b : BitVec 6) (gd : Guard) (sc : Bool),
    Issuing s g p w →
    BothForms (.mulhi d a b gd sc) (.mulhiImm d a b gd sc) s g p d a b gd sc true
      (fun _ x y => ((x.signExtend 64 * y.signExtend 64) >>> 32).setWidth 32) ∧
    BothForms (.mulhu d a b gd sc) (.mulhuImm d a b gd sc) s g p d a b gd sc false
      (fun _ x y => ((x.zeroExtend 64 * y.zeroExtend 64) >>> 32).setWidth 32) ∧
    BothForms (.min d a b gd sc) (.minImm d a b gd sc) s g p d a b gd sc true
      (fun _ x y => BitVec.ofInt 32 (Min.min x.toInt y.toInt)) ∧
    BothForms (.max d a b gd sc) (.maxImm d a b gd sc) s g p d a b gd sc true
      (fun _ x y => BitVec.ofInt 32 (Max.max x.toInt y.toInt)) ∧
    BothForms (.minu d a b gd sc) (.minuImm d a b gd sc) s g p d a b gd sc false
      (fun _ x y => BitVec.ofNat 32 (Min.min x.toNat y.toNat)) ∧
    BothForms (.maxu d a b gd sc) (.maxuImm d a b gd sc) s g p d a b gd sc false
      (fun _ x y => BitVec.ofNat 32 (Max.max x.toNat y.toNat)) ∧
    BothForms (.and d a b gd sc) (.andImm d a b gd sc) s g p d a b gd sc false
      (fun _ x y => x &&& y) ∧
    BothForms (.or d a b gd sc) (.orImm d a b gd sc) s g p d a b gd sc false
      (fun _ x y => x ||| y) ∧
    BothForms (.xor d a b gd sc) (.xorImm d a b gd sc) s g p d a b gd sc false
      (fun _ x y => x ^^^ y) ∧
    BothForms (.andn d a b gd sc) (.andnImm d a b gd sc) s g p d a b gd sc false
      (fun _ x y => x &&& ~~~y) ∧
    BothForms (.rol d a b gd sc) (.rolImm d a b gd sc) s g p d a b gd sc false
      (fun _ x y => (x <<< (y.toNat % 32)) ||| (x >>> (32 - y.toNat % 32))) ∧
    BothForms (.shl d a b gd sc) (.shlImm d a b gd sc) s g p d a b gd sc false
      (fun _ x y => BitVec.ofNat 32 (x.toNat * 2 ^ y.toNat)) ∧
    BothForms (.shr d a b gd sc) (.shrImm d a b gd sc) s g p d a b gd sc false
      (fun _ x y => BitVec.ofNat 32 (x.toNat / 2 ^ y.toNat)) ∧
    BothForms (.sar d a b gd sc) (.sarImm d a b gd sc) s g p d a b gd sc false
      (fun _ x y => BitVec.ofInt 32 (x.toInt / 2 ^ Min.min y.toNat 31)) ∧
    BothForms (.lea d a b gd sc) (.leaImm d a b gd sc) s g p d a b gd sc true
      (fun _ x y => x + 4 * y)

/-- R192, with the frame of R190: division and remainder, by zero too; the quotient is truncated toward zero
and the remainder has the sign of the dividend. -/
def Obligations.DivisionTruncatesAndNeverTraps : Prop :=
  ∀ (s : State) (g : Group) (p : Path) (w : Word) (d a b : BitVec 6) (gd : Guard) (sc : Bool),
    Issuing s g p w →
    BothForms (.divs d a b gd sc) (.divsImm d a b gd sc) s g p d a b gd sc true
      (fun _ x y => if y = 0 then 0xFFFFFFFF else BitVec.ofInt 32 (x.toInt.tdiv y.toInt)) ∧
    BothForms (.rems d a b gd sc) (.remsImm d a b gd sc) s g p d a b gd sc true
      (fun _ x y => if y = 0 then x else BitVec.ofInt 32 (x.toInt.tmod y.toInt)) ∧
    BothForms (.divu d a b gd sc) (.divuImm d a b gd sc) s g p d a b gd sc false
      (fun _ x y => if y = 0 then 0xFFFFFFFF else BitVec.ofNat 32 (x.toNat / y.toNat)) ∧
    BothForms (.remu d a b gd sc) (.remuImm d a b gd sc) s g p d a b gd sc false
      (fun _ x y => if y = 0 then x else BitVec.ofNat 32 (x.toNat % y.toNat))

/-- R191, R53, with the frame of R190: `ADD`, `SUB`, `MUL` and `MAD` wrap, or clamp the exact result under
SAT 1 or 2; `MAD` reads D before it writes it. R193, with the frame of R190: the 64-bit instructions on
pairs; an immediate of `ADD64` or `SUB64` is sign-extended, a shift count is one whole word. -/
def Obligations.SaturatingAndPairArithmetic : Prop :=
  (∀ (s : State) (g : Group) (p : Path) (w : Word) (d a b : BitVec 6) (gd : Guard) (sc : Bool),
     Issuing s g p w → (modOf p).sat ≠ 3 →
     BothForms (.add d a b gd sc) (.addImm d a b gd sc) s g p d a b gd sc true
       (fun _ x y => saturated (modOf p) 32 (x + y) (x.toInt + y.toInt) (x.toNat + y.toNat)) ∧
     BothForms (.sub d a b gd sc) (.subImm d a b gd sc) s g p d a b gd sc true
       (fun _ x y => saturated (modOf p) 32 (x - y) (x.toInt - y.toInt) (x.toNat - y.toNat)) ∧
     BothForms (.mul d a b gd sc) (.mulImm d a b gd sc) s g p d a b gd sc true
       (fun _ x y => saturated (modOf p) 32 (x * y) (x.toInt * y.toInt) (x.toNat * y.toNat)) ∧
     BothForms (.mad d a b gd sc) (.madImm d a b gd sc) s g p d a b gd sc true
       (fun l x y =>
         let z := regRead g p sc l d.toNat
         saturated (modOf p) 32 (x * y + z) (x.toInt * y.toInt + z.toInt)
           (x.toNat * y.toNat + z.toNat))) ∧
  (∀ (s : State) (g : Group) (p : Path) (w : Word) (d a b : BitVec 6) (gd : Guard) (sc : Bool),
     Issuing s g p w → (modOf p).sat ≠ 3 →
     let x := fun l => opA g p sc a l 1 ++ opA g p sc a l
     let y := fun l => opB g p sc (.reg b) l 1 ++ opB g p sc (.reg b) l
     let n := fun l => (opB g p sc (.reg b) l).toNat
     let i : BitVec 64 := (imms p b).signExtend 64
     let u := (immu p b).toNat
     let none : Nat → Word := fun _ => 0
     WritesPair (.add64 d a b gd sc) s g p d gd sc (fun l => saturated (modOf p) 64 (x l + y l)
       ((x l).toInt + (y l).toInt) ((x l).toNat + (y l).toNat)) none ∧
     WritesPair (.sub64 d a b gd sc) s g p d gd sc (fun l => saturated (modOf p) 64 (x l - y l)
       ((x l).toInt - (y l).toInt) ((x l).toNat - (y l).toNat)) none ∧
     WritesPair (.add64Imm d a b gd sc) s g p d gd sc (fun l => saturated (modOf p) 64 (x l + i)
       ((x l).toInt + i.toInt) ((x l).toNat + i.toNat)) none ∧
     WritesPair (.sub64Imm d a b gd sc) s g p d gd sc (fun l => saturated (modOf p) 64 (x l - i)
       ((x l).toInt - i.toInt) ((x l).toNat - i.toNat)) none ∧
     WritesPair (.shl64 d a b gd sc) s g p d gd sc (fun l => x l <<< n l) none ∧
     WritesPair (.shr64 d a b gd sc) s g p d gd sc (fun l => x l >>> n l) none ∧
     WritesPair (.shl64Imm d a b gd sc) s g p d gd sc (fun l => x l <<< u) none ∧
     WritesPair (.shr64Imm d a b gd sc) s g p d gd sc (fun l => x l >>> u) none)

/-- R194, with the frame of R190: the one-operand instructions, their values given bit by bit or by the
property the rule names. R194, with the frame of R190: the bit-field instructions, bit by bit, for a field
word `f` from B or the immediate: `pos` is its bits 4:0 and `len'` the least of its bits 12:6, 32 and 32 −
pos. -/
def Obligations.OneOperandAndBitFieldInstructions : Prop :=
  (∀ (s : State) (g : Group) (p : Path) (w : Word) (d a b : BitVec 6) (gd : Guard) (sc : Bool)
     (r : Nat → Word), Issuing s g p w →
     let x := fun l => opA g p sc a l
     WritesWord (.mov d a gd sc) s g p d gd sc x ∧
     WritesWord (.movi d b gd sc) s g p d gd sc (fun _ => imms p b) ∧
     ((∀ l, (r l).toNat ≤ 32 ∧ (x l).toNat < 2 ^ (32 - (r l).toNat) ∧
         ((r l).toNat < 32 → 2 ^ (31 - (r l).toNat) ≤ (x l).toNat)) →
       WritesWord (.clz d a gd sc) s g p d gd sc r) ∧
     ((∀ l, (r l).toNat = ∑ i ∈ Finset.range 32, ((x l).getLsbD i).toNat) →
       WritesWord (.popc d a gd sc) s g p d gd sc r) ∧
     ((∀ l i, i < 32 → (r l).getLsbD i = (x l).getLsbD (31 - i)) →
       WritesWord (.brev d a gd sc) s g p d gd sc r)) ∧
  (∀ (s : State) (g : Group) (p : Path) (w : Word) (d a b : BitVec 6) (gd : Guard) (sc : Bool)
     (r : Nat → Word) (imm : Bool), Issuing s g p w →
     let x := fun l => opA g p sc a l
     let f := fun l => if imm then immu p b else opB g p sc (.reg b) l
     let pos := fun l => ((f l).extractLsb' 0 5).toNat
     let len := fun l => Min.min (Min.min ((f l).extractLsb' 6 7).toNat 32) (32 - pos l)
     ((∀ l i, i < 32 → (r l).getLsbD i =
         (decide (0 < len l) && (x l).getLsbD (pos l + Min.min i (len l - 1)))) →
       WritesWord (if imm then .bfxImm d a b gd sc else .bfx d a b gd sc) s g p d gd sc r) ∧
     ((∀ l i, i < 32 → (r l).getLsbD i = (decide (i < len l) && (x l).getLsbD (pos l + i))) →
       WritesWord (if imm then .bfxuImm d a b gd sc else .bfxu d a b gd sc) s g p d gd sc r) ∧
     ((∀ l i, i < 32 → (r l).getLsbD i =
         if pos l ≤ i ∧ i < pos l + len l then (x l).getLsbD (i - pos l)
         else (regRead g p sc l d.toNat).getLsbD i) →
       WritesWord (if imm then .bfiImm d a b gd sc else .bfi d a b gd sc) s g p d gd sc r))

/-- R195, R196, R197, with their frames: `SEL` selects by the lane's predicate bit; `CMP` writes the bits of
active lanes, or with S = 1 every bit of the destination; `CMP` sets no flag. -/
def Obligations.SelectAndCompareFollowThePredicates : Prop :=
  ∀ (s : State) (g : Group) (p : Path) (w : Word) (c : ICond) (d a b : BitVec 6) (k pd : BitVec 3)
    (gd : Guard) (sc imm : Bool), Issuing s g p w → g.width ≤ 64 →
    let act := activeMask p gd
    let x := fun l => opA g p sc a l
    let y := fun l => if imm then (if c ∈ [.ltu, .leu, .gtu, .geu] then immu p b else imms p b)
      else opB g p sc (.reg b) l
    let holds := fun l => match c with
      | .eq => decide ((x l).toNat = (y l).toNat)
      | .ne => decide ((x l).toNat ≠ (y l).toNat)
      | .lt => decide ((x l).toInt < (y l).toInt)
      | .le => decide ((x l).toInt ≤ (y l).toInt)
      | .gt => decide ((x l).toInt > (y l).toInt)
      | .ge => decide ((x l).toInt ≥ (y l).toInt)
      | .ltu => decide ((x l).toNat < (y l).toNat)
      | .leu => decide ((x l).toNat ≤ (y l).toNat)
      | .gtu => decide ((x l).toNat > (y l).toNat)
      | .geu => decide ((x l).toNat ≥ (y l).toNat)
    WritesWord (.sel d a b gd sc k) s g p d gd sc
      (fun l => if (predOf p k).getLsbD l then x l else opB g p sc (.reg b) l) ∧
    WritesPath (if imm then .cmpImm c a b gd sc pd else .cmp c a b gd sc pd) s g p
      (fun n l => if n = pd.toNat then
          (if sc then (match lowest act with
            | some e => if l < g.width then holds e else (predOf p pd).getLsbD l
            | none => (predOf p pd).getLsbD l)
          else if act.getLsbD l then holds l else (predOf p pd).getLsbD l)
        else (predOf p (BitVec.ofNat 3 n)).getLsbD l)
      (fun r => sreg p r) (fun l => (laneOf g l).flags)

/-! ### Predicates and lanes -/

/-- R197, with its frame: predicate logic writes the active lanes' bits of the destination from sources read
before, with their inverts, and changes nothing else but the program counter. R201, with its frame: votes,
counts and the election over the active lanes; with no active lane nothing changes but the program counter.
-/
def Obligations.PredicateLogicAndVotes : Prop :=
  (∀ (s : State) (g : Group) (p : Path) (w : Word) (pd pa pb : BitVec 3) (id ia ib : Bool)
     (gd : Guard), Issuing s g p w →
     let x := fun l => (predOf p pa).getLsbD l ^^ ia
     let y := fun l => (predOf p pb).getLsbD l ^^ ib
     let wr := fun (i : Instr) (r : Nat → Bool) => WritesPath i s g p
       (fun n l => if n = pd.toNat ∧ (activeMask p gd).getLsbD l = true then r l ^^ id
         else (predOf p (BitVec.ofNat 3 n)).getLsbD l)
       (fun r => sreg p r) (fun l => (laneOf g l).flags)
     wr (.pand pd id pa ia pb ib gd) (fun l => x l && y l) ∧
     wr (.por pd id pa ia pb ib gd) (fun l => x l || y l) ∧
     wr (.pxor pd id pa ia pb ib gd) (fun l => x l ^^ y l) ∧
     wr (.pnot pd id pa ia gd) (fun l => !(x l))) ∧
  (∀ (s : State) (g : Group) (p : Path) (w : Word) (d : BitVec 6) (pd pa : BitVec 3) (gd : Guard),
     Issuing s g p w → g.width ≤ 64 →
     let act := fun l => (activeMask p gd).getLsbD l
     let yes := fun l => act l && (predOf p pa).getLsbD l
     let old := fun n l => (predOf p (BitVec.ofNat 3 n)).getLsbD l
     let flags := fun l => (laneOf g l).flags
     let some' := ∃ l, act l = true
     let put := fun (m : VoteMode) (b : Bool) => WritesPath (.vote d pa m gd) s g p
       (fun n l => if n = d.toNat ∧ l < g.width then b else old n l) (sreg p) flags
     let nothing := fun i => WritesPath i s g p old (sreg p) flags
     (some' → ∀ b, (b = true ↔ ∀ l, act l = true → yes l = true) → put .all b) ∧
     (some' → ∀ b, (b = true ↔ ∃ l, yes l = true) → put .any b) ∧
     (some' → ∀ b, (b = true ↔ ∀ k l, act k = true → act l = true → yes k = yes l) → put .uni b) ∧
     (some' → ∀ m : BitVec 64, (∀ l, l < 64 → m.getLsbD l = yes l) →
       WritesPath (.vote d pa .bal gd) s g p old
         (fun r => if r = d.toNat + 1 then m.extractLsb' 32 32
           else if r = d.toNat then m.extractLsb' 0 32 else sreg p r) flags) ∧
     (∀ e, act e = true → (∀ l, act l = true → e ≤ l) → WritesPath (.elect pd gd) s g p
       (fun n l => if n = pd.toNat ∧ l < g.width then decide (l = e) else old n l) (sreg p) flags) ∧
     (¬ some' → nothing (.elect pd gd) ∧ ∀ m, nothing (.vote d pa m gd)) ∧
     WritesWord (.popm d pa .all gd) s g p d gd false
       (fun _ => BitVec.ofNat 32 (∑ k ∈ Finset.range 64, (yes k).toNat)) ∧
     WritesWord (.popm d pa .below gd) s g p d gd false
       (fun l => BitVec.ofNat 32 (∑ k ∈ Finset.range (Min.min l 64), (yes k).toNat)))

/-- R198, R199, with their frames: the instructions that read or write another lane of the group; a source
lane outside `EXEC` yields 0, and `WRLANE` writes only an active lane. -/
def Obligations.LaneMovesReadWithinTheGroup : Prop :=
  ∀ (s : State) (g : Group) (p : Path) (w : Word) (d a b : BitVec 6) (gd : Guard),
    Issuing s g p w → 0 < g.width → g.width ≤ 64 →
    let act := fun l => (activeMask p gd).getLsbD l
    let x := fun k => if p.exec.getLsbD k then laneReg g k a.toNat else 0
    let old := fun n l => (predOf p (BitVec.ofNat 3 n)).getLsbD l
    let flags := fun l => (laneOf g l).flags
    let imm := (immu p b).toNat
    let sb := (sreg p b.toNat).toNat
    let rd := fun (i : Instr) (k : Nat) => WritesPath i s g p old
      (fun r => if r = d.toNat ∧ activeMask p gd ≠ 0 then x (k % g.width) else sreg p r) flags
    let wr := fun (i : Instr) (k : Nat) => ∃ t g' p', exec i s = .next t ∧ PathOnly s g p t g' p' ∧
      OnlyRegisters g g' ∧ p' = { p with pc := p.pc + 4, pre := Prefix.none, park := none } ∧
      ∀ l, l < g.lanes.length → (laneOf g' l).flags = (laneOf g l).flags ∧ ∀ r, r < 64 →
        laneReg g' l r = if act l = true ∧ l = k % g.width ∧ r = d.toNat then sreg p a.toNat
          else laneReg g l r
    WritesWord (.shfl d a b gd) s g p d gd false
      (fun l => x ((laneReg g l b.toNat).toNat % g.width)) ∧
    WritesWord (.shflImm d a b gd) s g p d gd false (fun l => x ((l ^^^ imm) % g.width)) ∧
    (∀ e, act e = true → (∀ l, act l = true → e ≤ l) → WritesWord (.bcast d a b gd) s g p d gd false
      (fun _ => x ((laneReg g e b.toNat).toNat % g.width))) ∧
    ((∀ l, act l = false) → WritesWord (.bcast d a b gd) s g p d gd false (fun _ => 0)) ∧
    WritesWord (.bcastImm d a b gd) s g p d gd false (fun _ => x (imm % g.width)) ∧
    rd (.rdlane d a b gd) sb ∧ rd (.rdlaneImm d a b gd) imm ∧
    wr (.wrlane d a b gd) sb ∧ wr (.wrlaneImm d a b gd) imm

/-- R200, with its frame: `REDL` and `SCANL` combine the active lanes' values, the operator's identity
standing in elsewhere, in the fixed trees; the flags of every active lane gather those of every rounding in
the tree. R200: what the operators combine, with their identities; `FADD` is the exact sum rounded once to
the nearest binary32 value, with its flags; `FMIN` and `FMAX` choose one of their operands, raise no flag,
and give the canonical NaN of two NaNs (R207). -/
def Obligations.ReductionsFollowTheFixedTrees : Prop :=
  (∀ (s : State) (g : Group) (p : Path) (w : Word) (d a : BitVec 6) (op : LaneOp) (ex : Bool)
     (gd : Guard) (n : Nat), Issuing s g p w → g.width = 2 ^ n → n ≤ 6 → g.lanes.length = g.width →
     let x := fun k => if (activeMask p gd).getLsbD k then laneReg g k a.toNat else laneIdentity op
     let y := fun k => if ex then (if k = 0 then laneIdentity op else x (k - 1)) else x k
     (∀ fl : Word, (∀ i, fl.getLsbD i = true ↔ ∃ m k, m < n ∧ k < g.width ∧ k % 2 ^ (m + 1) = 0 ∧
         (laneCombine op (redAt op x m k) (redAt op x m (k + 2 ^ m))).2.getLsbD i = true) →
       WritesFlagged (.redl d a op gd) s g p d gd false (fun _ => redAt op x n 0) (fun _ => fl)) ∧
     (∀ fl : Word, (∀ i, fl.getLsbD i = true ↔ ∃ m k, m < n ∧ 2 ^ m ≤ k ∧ k < g.width ∧
         (laneCombine op (scanAt op y m (k - 2 ^ m)) (scanAt op y m k)).2.getLsbD i = true) →
       WritesFlagged (.scanl d a ex op gd) s g p d gd false (fun l => scanAt op y n l) (fun _ => fl))) ∧
  (∀ x y : Word,
     laneCombine .add x y = (x + y, 0) ∧
     laneCombine .min x y = (if x.toInt ≤ y.toInt then x else y, 0) ∧
     laneCombine .max x y = (if x.toInt ≤ y.toInt then y else x, 0) ∧
     laneCombine .minu x y = (if x.toNat ≤ y.toNat then x else y, 0) ∧
     laneCombine .maxu x y = (if x.toNat ≤ y.toNat then y else x, 0) ∧
     laneCombine .and x y = (x &&& y, 0) ∧ laneCombine .or x y = (x ||| y, 0) ∧
     laneCombine .xor x y = (x ^^^ y, 0) ∧
     (∀ op ∈ [LaneOp.add, .min, .max, .minu, .maxu, .and, .or, .xor],
       laneCombine op (laneIdentity op) x = (x, 0)) ∧
     laneIdentity .fadd = 0x80000000 ∧ laneIdentity .fmin = 0x7F800000 ∧
     laneIdentity .fmax = 0xFF800000 ∧
     (∀ z fl, fAdd false (f32.value x.toNat) (f32.value y.toNat) = (z, fl) →
       laneCombine .fadd x y =
         (BitVec.ofNat 32 (roundTo f32 .rne z).1, fl ||| (roundTo f32 .rne z).2)) ∧
     (∀ op b, (op = LaneOp.fmin ∧ b = false) ∨ (op = .fmax ∧ b = true) →
       let u := f32.value x.toNat
       let v := f32.value y.toNat
       (u.isNan = true → v.isNan = true → laneCombine op x y = (0x7FC00000, 0)) ∧
       (u.isNan = false → fMinMax b u v = u → laneCombine op x y = (x, 0)) ∧
       (v.isNan = false → fMinMax b u v = v → laneCombine op x y = (y, 0))))

/-! ### Numbers and the float family -/

/-- R173, R174, with the flags of R186: `ROUND` of every value to every format under every mode. A NaN gives
the canonical NaN of the format with its sign (R172), an infinity itself, a zero itself, and where the
format has no NaN or infinity, zero or the largest finite number, raising NV. A finite non-zero value is
rounded over the rationals, by its spacing `q`, its lower neighbour `lo * q` and its fraction `fr`, as the
mode chooses; a result past the largest finite number is the overflowed result of the table. -/
def Obligations.RoundingFollowsTheRule : Prop :=
  ∀ (f : Fmt) (mode : RMode) (neg : Bool) (m : Nat) (e : Int),
    f ∈ [e2m1, e4m3, e5m2, f16, bf16, f32, f64] →
    let hasInf := f ∉ [e2m1, e4m3]
    let most := f.value (f.signBit neg + f.maxBits)
    (∀ x, (roundTo f mode x).1 < 2 ^ f.bits) ∧
    (f ≠ e2m1 → f.value (roundTo f mode (.nan neg)).1 = .nan neg ∧ (roundTo f mode (.nan neg)).2 = fNone) ∧
    (∀ c ∈ [(e4m3, 0x7F, 0xFF), (e5m2, 0x7E, 0xFE), (f16, 0x7E00, 0xFE00), (bf16, 0x7FC0, 0xFFC0),
        (f32, 0x7FC00000, 0xFFC00000), (f64, 0x7FF8000000000000, 0xFFF8000000000000)],
      f = c.1 → (roundTo f mode (.nan neg)).1 = if neg then c.2.2 else c.2.1) ∧
    (f = e2m1 → roundTo f mode (.nan neg) = (0, fNV)) ∧
    (hasInf → f.value (roundTo f mode (.inf neg)).1 = .inf neg ∧ (roundTo f mode (.inf neg)).2 = fNone) ∧
    (¬ hasInf → f.value (roundTo f mode (.inf neg)).1 = most ∧ (roundTo f mode (.inf neg)).2 = fNV) ∧
    (m = 0 → (f.value (roundTo f mode (.fin neg m e)).1).isZero = true ∧
      (f.value (roundTo f mode (.fin neg m e)).1).neg = neg ∧ (roundTo f mode (.fin neg m e)).2 = fNone) ∧
    (0 < m →
      let x : ℚ := (m : ℚ) * (2 : ℚ) ^ e
      let q : ℚ := (2 : ℚ) ^ (max (Int.log 2 x) f.emin - f.mant)
      let lo : Int := ⌊x / q⌋
      let fr : ℚ := x / q - lo
      let up : Prop := match mode with
        | .rne => 1 / 2 < fr ∨ (fr = 1 / 2 ∧ lo % 2 = 1)
        | .rtz => False
        | .rup => 0 < fr ∧ neg = false
        | .rdn => 0 < fr ∧ neg = true
        | .sr w => (w.toNat : Int) < ⌊fr * 2 ^ 32⌋
      let r := roundTo f mode (.fin neg m e)
      ∀ y : ℚ, ((up → y = (lo + 1) * q) ∧ (¬ up → y = lo * q)) →
        (y ≤ (f.value f.maxBits).toRat →
          (f.value r.1).isFin = true ∧ (f.value r.1).neg = neg ∧
          (f.value r.1).toRat = (if neg then -y else y) ∧
          r.2 = if fr = 0 then fNone else if x < (2 : ℚ) ^ f.emin then fUF ||| fNX else fNX) ∧
        ((f.value f.maxBits).toRat < y → r.2 = fOF ||| fNX ∧
          (¬ hasInf → f.value r.1 = most) ∧
          (hasInf → f.value r.1 = match mode with
            | .rtz => most
            | .rup => if neg then most else .inf false
            | .rdn => if neg then .inf true else most
            | _ => .inf neg)))

/-- R182: a block that meets special values is decided before any sum is formed, and `E4M3` has no infinity.
R180, R181, R183, R184: the values of the matrix arithmetic. A block of finite operands sums exactly, or, in
the aligned scheme, each product is truncated toward zero onto the grid of the largest and the terms are
summed exactly; the sum is rounded once, the product of the scales once, and the fused product and sum with
the accumulator once, each with its flags, a NaN giving the canonical one of sign 0; the power of `VSCALE`
is the least one under which no element that is not NaN exceeds 448, within ±127. That a NaN operand does
not hide the NV of an invalid pair of the block is the model's reading (log entry 32). -/
def Obligations.MatrixArithmeticFollowsItsRules : Prop :=
  ((∀ (exact : Bool) (xs : List (FVal × FVal)),
     let nan := ∃ p ∈ xs, p.1.isNan = true ∨ p.2.isNan = true
     let zeroInf := ∃ p ∈ xs, (p.1.isZero = true ∧ p.2.isInf = true) ∨ (p.1.isInf = true ∧ p.2.isZero = true)
     let inf := fun neg : Bool => ∃ p ∈ xs, p.1.isNan = false ∧ p.2.isNan = false ∧
       ((p.1.isInf = true ∧ p.2.isZero = false) ∨ (p.2.isInf = true ∧ p.1.isZero = false)) ∧
       (p.1.neg != p.2.neg) = neg
     let both := inf false ∧ inf true
     ((zeroInf ∨ both) → blockSum exact xs = (.nan false, fNV)) ∧
     (nan → ¬ zeroInf → ¬ both → blockSum exact xs = (.nan false, fNone)) ∧
     (¬ nan → ¬ zeroInf → ∀ neg, inf neg → ¬ inf (!neg) → blockSum exact xs = (.inf neg, fNone)) ∧
     (¬ nan → ¬ zeroInf → (∀ neg, ¬ inf neg) → (blockSum exact xs).1.isFin = true ∧ (blockSum exact xs).2 = fNone)) ∧
   ∀ b, (e4m3.value b).isInf = false) ∧
  ((∀ xs : List (FVal × FVal), (∀ p ∈ xs, p.1.isFin = true ∧ p.2.isFin = true) →
     let prod := fun p : FVal × FVal => p.1.toRat * p.2.toRat
     (blockSum true xs).1.toRat = (xs.map prod).sum ∧
     ((∀ p ∈ xs, prod p = 0) → (blockSum false xs).1.toRat = 0) ∧
     ∀ top : Int, (∃ p ∈ xs, prod p ≠ 0 ∧ Int.log 2 |prod p| = top) → (∀ p ∈ xs, prod p ≠ 0 → Int.log 2 |prod p| ≤ top) →
       let u : ℚ := (2 : ℚ) ^ (top - 39)
       let term := fun p => if prod p < 0 then -⌊|prod p| / u⌋ else ⌊|prod p| / u⌋
       (blockSum false xs).1.toRat = u * ((xs.map term).sum : Int)) ∧
   (∀ (block : FVal) (a w acc : Word),
     let s := fMul (f32.value a.toNat) (f32.value w.toNat)
     let rs := roundTo f32 .rne s.1
     let c := roundTo f32 .rne block
     let fused := fun scale : FVal => fFma false (f32.value c.1) scale (f32.value acc.toNat)
     let r := fun scale : FVal => roundTo f32 .rne (fused scale).1
     let scaled := promote block (some (a, w)) acc
     let plain := promote block none acc
     scaled = (BitVec.ofNat 32 (r (f32.value rs.1)).1,
       s.2 ||| rs.2 ||| c.2 ||| (fused (f32.value rs.1)).2 ||| (r (f32.value rs.1)).2) ∧
     plain = (BitVec.ofNat 32 (r (.fin false 1 0)).1, c.2 ||| (fused (.fin false 1 0)).2 ||| (r (.fin false 1 0)).2) ∧
     (block.isNan = true ∨ (f32.value acc.toNat).isNan = true → scaled.1 = 0x7FC00000 ∧ plain.1 = 0x7FC00000) ∧
     ((f32.value a.toNat).isNan = true ∨ (f32.value w.toNat).isNan = true → scaled.1 = 0x7FC00000)) ∧
   ∀ xs : List FVal,
     ((∀ x ∈ xs, x.isNan = true ∨ x.isZero = true) → vscale xs = 0) ∧
     ((∃ x ∈ xs, x.isInf = true) → vscale xs = 127) ∧
     ((∀ x ∈ xs, x.isInf = false) → ∀ (amax : ℚ) (k : Int), 0 < amax → (∃ x ∈ xs, x.isFin = true ∧ |x.toRat| = amax) →
       (∀ x ∈ xs, x.isFin = true → |x.toRat| ≤ amax) → amax ≤ 448 * (2 : ℚ) ^ k → 448 * (2 : ℚ) ^ (k - 1) < amax →
       vscale xs = min 127 (max (-127) k)))

/-- R142: `EXT` places a loaded element of `m` in one register, sign-extended, zero-extended or moved as
bits, or in a pair, low word first. -/
def Obligations.LoadedElementsExtendByType : Prop :=
  ∀ m : Nat,
    (m < 2 ^ 8 → extend .i8 m = [(BitVec.ofNat 8 m).signExtend 32] ∧
      extend .ui8 m = [(BitVec.ofNat 8 m).zeroExtend 32]) ∧
    (m < 2 ^ 16 → extend .i16 m = [(BitVec.ofNat 16 m).signExtend 32] ∧
      extend .ui16 m = [(BitVec.ofNat 16 m).zeroExtend 32] ∧
      extend .f16 m = [(0 : BitVec 16) ++ BitVec.ofNat 16 m] ∧
      extend .bf16 m = [(0 : BitVec 16) ++ BitVec.ofNat 16 m]) ∧
    (m < 2 ^ 32 → extend .i32 m = [BitVec.ofNat 32 m] ∧ extend .ui32 m = [BitVec.ofNat 32 m] ∧
      extend .f32 m = [BitVec.ofNat 32 m]) ∧
    (m < 2 ^ 64 →
      extend .i64 m = [(BitVec.ofNat 64 m).extractLsb' 0 32, (BitVec.ofNat 64 m).extractLsb' 32 32] ∧
      extend .f64 m = [(BitVec.ofNat 64 m).extractLsb' 0 32, (BitVec.ofNat 64 m).extractLsb' 32 32])

/-- R205, R206: the exact results that the float instructions round: sums, products and fused products of
finite values are the rational ones and raise no flag, the sign of an exact zero is as R206 and R173 say,
and every case with an infinity or a NaN gives the value of the table and raises NV exactly where the table
has it. -/
def Obligations.FloatOperationsAreExact : Prop :=
  ∀ (rdn : Bool) (x y d : FVal),
    (x.isFin = true → y.isFin = true →
      (fAdd rdn x y).1.isFin = true ∧ (fAdd rdn x y).1.toRat = x.toRat + y.toRat ∧
      (fMul x y).1.isFin = true ∧ (fMul x y).1.toRat = x.toRat * y.toRat ∧
      (fMul x y).1.neg = (x.neg != y.neg) ∧
      (fAdd rdn x y).2 = fNone ∧ (fMul x y).2 = fNone ∧
      (x.toRat + y.toRat = 0 → (fAdd rdn x y).1.neg =
        if x.isZero && y.isZero && x.neg == y.neg then x.neg else rdn)) ∧
    (x.isFin = true → y.isFin = true → d.isFin = true →
      (fFma rdn x y d).1.isFin = true ∧
      (fFma rdn x y d).1.toRat = x.toRat * y.toRat + d.toRat ∧ (fFma rdn x y d).2 = fNone ∧
      (x.toRat * y.toRat + d.toRat = 0 → (fFma rdn x y d).1.neg =
        if (x.isZero || y.isZero) && d.isZero && (x.neg != y.neg) == d.neg then d.neg else rdn)) ∧
    (zeroTimesInf x y = true → fMul x y = (.nan false, fNV) ∧ fFma rdn x y d = (.nan false, fNV)) ∧
    (zeroTimesInf x y = false → (x.isNan || y.isNan) = true → fMul x y = (.nan false, fNone)) ∧
    (zeroTimesInf x y = false → (x.isNan || y.isNan || d.isNan) = true →
      fFma rdn x y d = (.nan false, fNone)) ∧
    ((x.isNan || y.isNan) = true → fAdd rdn x y = (.nan false, fNone)) ∧
    (∀ b, fAdd rdn (.inf b) (.inf !b) = (.nan false, fNV) ∧
      fAdd rdn (.inf b) (.inf b) = (.inf b, fNone) ∧
      (x.isFin = true → fAdd rdn x (.inf b) = (.inf b, fNone) ∧
        fAdd rdn (.inf b) x = (.inf b, fNone) ∧
        (x.isZero = false → fMul x (.inf b) = (.inf (x.neg != b), fNone) ∧
          fMul (.inf b) x = (.inf (b != x.neg), fNone)))) ∧
    (∀ b c, fMul (.inf b) (.inf c) = (.inf (b != c), fNone)) ∧
    (∀ b, fMul x y = (.inf b, fNone) →
      (d.isFin = true → fFma rdn x y d = (.inf b, fNone)) ∧
      fFma rdn x y (.inf b) = (.inf b, fNone) ∧ fFma rdn x y (.inf !b) = (.nan false, fNV)) ∧
    (∀ b, x.isFin = true → y.isFin = true → fFma rdn x y (.inf b) = (.inf b, fNone))

/-- R207: `FMIN` and `FMAX` of two values: the smaller or larger, −0.0 below +0.0 and an infinity beyond
every other value; a single NaN gives way to the other operand and two give the canonical NaN. R213: the
order in which finite values compare is that of the numbers they stand for, and an infinity stands beyond
every one of them. R213 with the frame of R203: float comparisons write the bits of active lanes, or with S
= 1 every bit; a NaN makes the ordered conditions false and raises NV, and the zeros are equal. -/
def Obligations.FloatOrderAndComparisons : Prop :=
  (∀ x y : FVal,
     (x.isFin = true → y.isFin = true →
       (x.toRat < y.toRat → fMinMax false x y = x ∧ fMinMax true x y = y) ∧
       (y.toRat < x.toRat → fMinMax false x y = y ∧ fMinMax true x y = x) ∧
       (x.isZero = true → y.isZero = true → x.neg = true → y.neg = false →
         fMinMax false x y = x ∧ fMinMax true x y = y ∧ fMinMax false y x = x ∧ fMinMax true y x = y)) ∧
     (x.isNan = false → y.isNan = true → ∀ b, fMinMax b x y = x ∧ fMinMax b y x = x) ∧
     (x.isNan = false → ∀ n, fMinMax (!n) x (.inf n) = .inf n ∧ fMinMax (!n) (.inf n) x = .inf n ∧
       fMinMax n x (.inf n) = x ∧ fMinMax n (.inf n) x = x) ∧
     (x.isNan = true → y.isNan = true → ∀ b, fMinMax b x y = .nan false)) ∧
  (∀ x y : FVal, x.isFin = true → y.isFin = true →
     (fCompare x y = .lt ↔ x.toRat < y.toRat) ∧ (fCompare x y = .gt ↔ y.toRat < x.toRat) ∧
     (fCompare x y = .eq ↔ x.toRat = y.toRat) ∧
     fCompare x (.inf false) = .lt ∧ fCompare x (.inf true) = .gt ∧
     fCompare (.inf false) y = .gt ∧ fCompare (.inf true) y = .lt ∧
     fCompare (.inf true) (.inf false) = .lt ∧ fCompare (.inf false) (.inf true) = .gt ∧ ∀ n, fCompare (.inf n) (.inf n) = .eq) ∧
  (∀ (s : State) (g : Group) (p : Path) (w : Word) (c : FCond) (a b : BitVec 6) (pd : BitVec 3)
     (gd : Guard) (sc imm wide : Bool), Issuing s g p w → g.width ≤ 64 → (wide = true → sc = false) →
     let m := modOf p
     let act := activeMask p gd
     let x := fun l => if wide
       then f64.value (signMod f64 m.aa m.na (opA g p false a l 1 ++ opA g p false a l).toNat)
       else f32.value (signMod f32 m.aa m.na (opA g p sc a l).toNat)
     let y := fun l => if wide
       then f64.value (signMod f64 m.ab m.nb
         (opB g p false (.reg b) l 1 ++ opB g p false (.reg b) l).toNat)
       else f32.value (signMod f32 m.ab m.nb
         (if imm then imms p b else opB g p sc (.reg b) l).toNat)
     let nan := fun l => (x l).isNan || (y l).isNan
     let o := fun l => fCompare (x l) (y l)
     let holds := fun l => match c with
       | .eq => !nan l && o l == .eq
       | .ne => nan l || o l != .eq
       | .lt => !nan l && o l == .lt
       | .le => !nan l && o l != .gt
       | .gt => !nan l && o l == .gt
       | .ge => !nan l && o l != .lt
       | .un => nan l
       | .ord => !nan l
     let nv := fun l => if nan l && c ∈ [.lt, .le, .gt, .ge] then fNV else fNone
     let i : Instr := if wide then .dcmp c a b gd pd
       else if imm then .fcmpImm c a b gd sc pd else .fcmp c a b gd sc pd
     WritesPath i s g p
       (fun n l => if n = pd.toNat then
           (if sc then (match lowest act with
             | some e => if l < g.width then holds e else (predOf p pd).getLsbD l
             | none => (predOf p pd).getLsbD l)
           else if act.getLsbD l then holds l else (predOf p pd).getLsbD l)
         else (predOf p (BitVec.ofNat 3 n)).getLsbD l)
       (sreg p)
       (fun l => if (if sc then lowest act = some l else act.getLsbD l = true)
         then (laneOf g l).flags ||| nv l else (laneOf g l).flags))

/-- R208, R209: the estimates of 1/a and 1/√a of a finite positive value are positive, within a relative
error of 2^−8, and exact to the bit: μ is the midpoint of the operand's interval, and the estimate is the
multiple of 2^−12, which are 12 significant bits below 1, that lies nearest to 1/μ or 1/√μ, scaled by the
operand's power of two. No tie can occur. R210: the class word has exactly one of bits 9:0 set, by the sign
and kind of the operand, an exponent field of zero beside a non-zero fraction being subnormal; an integral
rounding keeps the sign and gives the integer that its mode names, at most one away, and it returns zeros
and infinities unchanged and the canonical NaN for a NaN. -/
def Obligations.EstimatesClassesAndIntegralRounding : Prop :=
  (∀ (m : Nat) (e : Int), 0 < m →
     let x : ℚ := (m : ℚ) * (2 : ℚ) ^ e
     |(rcpEst m e).toRat * x - 1| < 1 / 2 ^ 8 ∧
     (1 - 1 / 2 ^ 8) ^ 2 < (rsqEst m e).toRat ^ 2 * x ∧
     (rsqEst m e).toRat ^ 2 * x < (1 + 1 / 2 ^ 8) ^ 2 ∧
     (rcpEst m e).isFin = true ∧ (rcpEst m e).neg = false ∧ (rsqEst m e).isFin = true ∧ (rsqEst m e).neg = false ∧
     let k : Int := Int.log 2 x
     let even : Int := k - k % 2
     (let μ : ℚ := (⌊x / 2 ^ k * 2 ^ 8⌋ + 1 / 2) / 2 ^ 8
      ∃ n : Nat, (rcpEst m e).toRat = n / 2 ^ 12 * (2 : ℚ) ^ (-k) ∧ |n - 2 ^ 12 / μ| < 1 / 2) ∧
     (let μ : ℚ := (⌊x / 2 ^ even * 2 ^ 7⌋ + 1 / 2) / 2 ^ 7
      ∃ n : Nat, (rsqEst m e).toRat = n / 2 ^ 12 * (2 : ℚ) ^ (-even / 2) ∧ 0 < n ∧
        (2 * n - 1) ^ 2 * μ < 2 ^ 26 ∧ 2 ^ 26 < (2 * n + 1) ^ 2 * μ)) ∧
  (∀ (b : Nat) (mode : RMode), b < 2 ^ 32 →
     (∃ k, k ≤ 9 ∧ fClass b = 2 ^ k ∧
       ((f32.value b).isNan = true ↔ 8 ≤ k) ∧ ((f32.value b).isInf = true ↔ k = 0 ∨ k = 7) ∧
       ((f32.value b).isZero = true ↔ k = 3 ∨ k = 4) ∧
       ((f32.value b).neg = true ↔ k ≤ 3 ∨ k = 9) ∧
       (k = 1 ∨ k = 6 ↔ 0 < b / 2 ^ 23 % 256 ∧ b / 2 ^ 23 % 256 < 255) ∧
       (k = 2 ∨ k = 5 ↔ b / 2 ^ 23 % 256 = 0 ∧ b % 2 ^ 23 ≠ 0)) ∧
     ((f32.value b).isFin = true →
       let r := f32.value (fRnd mode (f32.value b))
       r.neg = (f32.value b).neg ∧ r.isFin = true ∧ (∃ n : Int, r.toRat = n) ∧
       |r.toRat - (f32.value b).toRat| < 1 ∧
       let x := (f32.value b).toRat
       let fr : ℚ := x - ⌊x⌋
       (mode = .rne → r.toRat = if 1 / 2 < fr ∨ (fr = 1 / 2 ∧ ⌊x⌋ % 2 = 1) then (⌊x⌋ : ℚ) + 1 else ⌊x⌋) ∧
       (mode = .rtz → r.toRat = if x < 0 then (⌈x⌉ : ℚ) else ⌊x⌋) ∧
       (mode = .rup → r.toRat = ⌈x⌉) ∧ (mode = .rdn → r.toRat = ⌊x⌋)) ∧
     ((f32.value b).isInf = true ∨ (f32.value b).isZero = true → fRnd mode (f32.value b) = b) ∧
     ((f32.value b).isNan = true → fRnd mode (f32.value b) = 0x7FC00000))

/-- R205 to R210 with the frame of R203: every binary32 instruction completes, writes its element, rounded
once under `MOD`, and gathers its flags; D is read before it is written. R52, R53, R203: the common end of a
float instruction: the exact result is scaled by `SCL`, rounded once under `RM` or to nearest, and under
`CLMP` brought into [+0.0, 1.0]; the flags are those of the operation and of the rounding. -/
def Obligations.BinaryThirtyTwoInstructionsRoundOnce : Prop :=
  (∀ (s : State) (g : Group) (p : Path) (w : Word) (d a b : BitVec 6) (gd : Guard) (sc : Bool),
     Issuing s g p w →
     let m := modOf p
     let v := fun x => f32.value (signMod f32 m.aa m.na x)
     let u := fun x => f32.value (signMod f32 m.ab m.nb x)
     let z := fun l => f32.value (regRead g p sc l d.toNat).toNat
     let one := fun (i : Instr) (f : Nat → Nat × Word) => WritesFlagged i s g p d gd sc
       (fun l => BitVec.ofNat 32 (f (signMod f32 m.aa m.na (opA g p sc a l).toNat)).1)
       (fun l => (f (signMod f32 m.aa m.na (opA g p sc a l).toNat)).2)
     BothFloatForms (.fadd d a b gd sc) (.faddImm d a b gd sc) s g p d a b gd sc
       (fun _ x y => finishFloat f32 m .rne (fAdd (decide (m.rm = 4)) (v x) (u y))) ∧
     BothFloatForms (.fsub d a b gd sc) (.fsubImm d a b gd sc) s g p d a b gd sc
       (fun _ x y => finishFloat f32 m .rne (fAdd (decide (m.rm = 4)) (v x) (u y).negate)) ∧
     BothFloatForms (.fmul d a b gd sc) (.fmulImm d a b gd sc) s g p d a b gd sc
       (fun _ x y => finishFloat f32 m .rne (fMul (v x) (u y))) ∧
     BothFloatForms (.ffma d a b gd sc) (.ffmaImm d a b gd sc) s g p d a b gd sc
       (fun l x y => finishFloat f32 m .rne (fFma (decide (m.rm = 4)) (v x) (u y) (z l))) ∧
     BothFloatForms (.fmin d a b gd sc) (.fminImm d a b gd sc) s g p d a b gd sc
       (fun _ x y => finishFloat f32 m .rne (fMinMax false (v x) (u y), fNone)) ∧
     BothFloatForms (.fmax d a b gd sc) (.fmaxImm d a b gd sc) s g p d a b gd sc
       (fun _ x y => finishFloat f32 m .rne (fMinMax true (v x) (u y), fNone)) ∧
     BothFloatForms (.fscale d a b gd sc) (.fscaleImm d a b gd sc) s g p d a b gd sc
       (fun _ x y => finishFloat f32 m .rne (match v x with
         | .nan _ => .nan false
         | .inf n => .inf n
         | .fin n c e => .fin n c (e + (BitVec.ofNat 32 y).toInt), fNone)) ∧
     one (.frcpe d a gd sc) (fun x => match f32.value x with
       | .nan _ => (0x7FC00000, fNone)
       | .inf n => (if n then 0x80000000 else 0, fNone)
       | .fin n c e => if c = 0 then (if n then 0xFF800000 else 0x7F800000, fDZ)
         else roundTo f32 .rne (if n then (rcpEst c e).negate else rcpEst c e)) ∧
     one (.frsqe d a gd sc) (fun x => match f32.value x with
       | .nan _ => (0x7FC00000, fNone)
       | .inf n => if n then (0x7FC00000, fNV) else (0, fNone)
       | .fin n c e => if c = 0 then (if n then 0xFF800000 else 0x7F800000, fDZ)
         else if n then (0x7FC00000, fNV) else ((roundTo f32 .rne (rsqEst c e)).1, fNone)) ∧
     one (.frnd d a gd sc) (fun x => (fRnd (modeOf m .rne) (f32.value x), fNone)) ∧
     one (.fclass d a gd sc) (fun x => (fClass x, fNone))) ∧
  (∀ (f : Fmt) (m : ModWord) (y : FVal) (fl : Word), f ∈ [f16, bf16, f32, f64] →
     let mode : RMode := if m.rm = 2 then .rtz else if m.rm = 3 then .rup else if m.rm = 4 then .rdn else .rne
     let z : FVal := match y with
       | .fin n c e => .fin n c (e + m.scl.toInt)
       | x => x
     let q := roundTo f mode z
     let v := f.value q.1
     let r := finishFloat f m .rne (y, fl)
     z.toRat = y.toRat * (2 : ℚ) ^ m.scl.toInt ∧ z.neg = y.neg ∧ z.isNan = y.isNan ∧ z.isInf = y.isInf ∧
     r.2 = fl ||| q.2 ∧
     (m.clmp = false → r.1 = q.1) ∧
     (m.clmp = true →
       (v.isNan = true ∨ v.neg = true ∨ v.isZero = true → r.1 = 0) ∧
       (v.isFin = true → v.neg = false → v.isZero = false → v.toRat ≤ 1 → r.1 = q.1) ∧
       (v = .inf false ∨ (v.isFin = true ∧ 1 < v.toRat) →
         (f.value r.1).toRat = 1 ∧ r.1 < 2 ^ (f.bits - 1))))

/-- R211, R212 with the frame of R203: the binary64 instructions on pairs and the packed instructions on
halves; each element is rounded once and a lane gathers the flags of both. -/
def Obligations.PairAndPackedFloatsRoundOnce : Prop :=
  ∀ (s : State) (g : Group) (p : Path) (w : Word) (d a b : BitVec 6) (gd : Guard),
    Issuing s g p w →
    let m := modOf p
    let rdn := decide (m.rm = 4)
    let pairs := fun (i : Instr) (op : FVal → FVal → FVal → FVal × Word) =>
      let r := fun l => finishFloat f64 m .rne (op
        (f64.value (signMod f64 m.aa m.na (opA g p false a l 1 ++ opA g p false a l).toNat))
        (f64.value (signMod f64 m.ab m.nb (opB g p false (.reg b) l 1 ++ opB g p false (.reg b) l).toNat))
        (f64.value (laneReg g l (d.toNat + 1) ++ laneReg g l d.toNat).toNat))
      WritesPair i s g p d gd false (fun l => BitVec.ofNat 64 (r l).1) (fun l => (r l).2)
    let halves := fun (i : Instr) (f : Fmt) (op : FVal → FVal → FVal → FVal × Word) =>
      let r := fun l k => finishFloat f m .rne (op
        (f.value (signMod f m.aa m.na ((opA g p false a l).extractLsb' k 16).toNat))
        (f.value (signMod f m.ab m.nb ((opB g p false (.reg b) l).extractLsb' k 16).toNat))
        (f.value ((laneReg g l d.toNat).extractLsb' k 16).toNat))
      WritesFlagged i s g p d gd false
        (fun l => BitVec.ofNat 16 (r l 16).1 ++ BitVec.ofNat 16 (r l 0).1)
        (fun l => (r l 0).2 ||| (r l 16).2)
    pairs (.dadd d a b gd) (fun x y _ => fAdd rdn x y) ∧
    pairs (.dsub d a b gd) (fun x y _ => fAdd rdn x y.negate) ∧
    pairs (.dmul d a b gd) (fun x y _ => fMul x y) ∧
    pairs (.dfma d a b gd) (fun x y z => fFma rdn x y z) ∧
    pairs (.dmin d a b gd) (fun x y _ => (fMinMax false x y, fNone)) ∧
    pairs (.dmax d a b gd) (fun x y _ => (fMinMax true x y, fNone)) ∧
    halves (.hadd2F16 d a b gd) f16 (fun x y _ => fAdd rdn x y) ∧
    halves (.hmul2F16 d a b gd) f16 (fun x y _ => fMul x y) ∧
    halves (.hfma2F16 d a b gd) f16 (fun x y z => fFma rdn x y z) ∧
    halves (.hadd2Bf16 d a b gd) bf16 (fun x y _ => fAdd rdn x y) ∧
    halves (.hmul2Bf16 d a b gd) bf16 (fun x y _ => fMul x y) ∧
    halves (.hfma2Bf16 d a b gd) bf16 (fun x y z => fFma rdn x y z)

/-- R214 to R218 with the frame of R203: conversions, stochastic rounding and packing complete and write the
converted elements. R215: a float converts to the integer that its value rounds to in its mode, clamped to
the destination's range with NV, or with NX where it changed; integers convert by their low bits, or clamp
under `SAT`; an integer or a float becomes a float by one rounding; `CLMP`, and `SAT` beside a float, are
refused with `CVT`. R217, R218: the elements of a packed word, from the lowest bits up: each is its source
rounded to the float type, or clamped to the range of the integer type without a flag; the flags are the
union. R80: a widened entry is its integer extended, its 32 bits, or the exact binary32 value, and a NaN
keeps its sign. -/
def Obligations.ConversionsWriteTheConvertedElements : Prop :=
  (∀ (s : State) (g : Group) (p : Path) (w : Word) (d a b : BitVec 6) (src ty : Ty) (gd : Guard),
     Issuing s g p w →
     let m := modOf p
     let A := fun l k => opA g p false a l k
     let B := fun l k => opB g p false (.reg b) l k
     let x := fun l => if src.size = 8 then (A l 1 ++ A l 0).toNat else (A l 0).toNat % 2 ^ tyBits src
     let r := fun l => convert m ty src (x l)
     let pack := fun (xs : List Word) => packAll m ty xs
     (ty.size = 8 → WritesPair (.cvt d a src gd ty) s g p d gd false
       (fun l => BitVec.ofNat 64 (r l).1) (fun l => (r l).2)) ∧
     (ty.size ≠ 8 → WritesFlagged (.cvt d a src gd ty) s g p d gd false
       (fun l => if tySigned ty then BitVec.ofInt 32 (sextInt (r l).1 (tyBits ty))
         else BitVec.ofNat 32 (r l).1) (fun l => (r l).2)) ∧
     (∀ f, fmtOf ty = some f →
       let sr := fun l => roundTo f (.sr ((rword (sreg p b.toNat) (sreg p (b.toNat + 1))
           (BitVec.ofNat 32 (l / 32))).rotateLeft (l % 32)))
         ((f32.value (signMod f32 m.aa m.na (A l 0).toNat)).scale m.scl.toInt)
       WritesFlagged (.cvtsr d a b gd ty) s g p d gd false (fun l => BitVec.ofNat 32 (sr l).1)
         (fun l => (sr l).2)) ∧
     WritesFlagged (.pack8 d a b gd ty) s g p d gd false
       (fun l => BitVec.ofNat 32 (pack [A l 0, A l 1, B l 0, B l 1]).1)
       (fun l => (pack [A l 0, A l 1, B l 0, B l 1]).2) ∧
     WritesFlagged (.pack4 d a b gd ty) s g p d gd false
       (fun l => BitVec.ofNat 32 (pack [A l 0, A l 1, A l 2, A l 3, B l 0, B l 1, B l 2, B l 3]).1)
       (fun l => (pack [A l 0, A l 1, A l 2, A l 3, B l 0, B l 1, B l 2, B l 3]).2) ∧
     (∃ t, exec (.unpk8 d a gd ty) s = .next t ∧ LaneWrites s g p gd false
       (fun l => (List.range 4).map fun k => (d.toNat + k,
         widen ty (((A l 0).toNat >>> (tyBits ty * k)) % 2 ^ tyBits ty))) (fun _ => 0) t) ∧
     (∃ t, exec (.unpk4 d a gd ty) s = .next t ∧ LaneWrites s g p gd false
       (fun l => (List.range 8).map fun k => (d.toNat + k,
         widen ty (((A l 0).toNat >>> (tyBits ty * k)) % 2 ^ tyBits ty))) (fun _ => 0) t)) ∧
  (∀ (m : ModWord) (mode : RMode) (dst src : Ty) (neg : Bool) (c : Nat) (e : Int) (n : Nat),
     (∀ w, mode ≠ .sr w) →
     let lo : Int := if tySigned dst then -2 ^ (tyBits dst - 1) else 0
     let hi : Int := if tySigned dst then 2 ^ (tyBits dst - 1) - 1 else 2 ^ tyBits dst - 1
     let near : RMode := if m.rm = 2 then .rtz else if m.rm = 3 then .rup else if m.rm = 4 then .rdn else .rne
     let zero : RMode := if m.rm = 1 then .rne else if m.rm = 3 then .rup else if m.rm = 4 then .rdn else .rtz
     let val := fun f : Fmt => match f.value (signMod f m.aa m.na n) with
       | .fin s c e => FVal.fin s c (e + m.scl.toInt)
       | x => x
     (fmtOf dst = none →
       (let x := (FVal.fin neg c e).toRat
        let fr : ℚ := x - ⌊x⌋
        let r := floatToInt mode dst (.fin neg c e)
        ∀ k : Int, (mode = .rne → k = if 1 / 2 < fr ∨ (fr = 1 / 2 ∧ ⌊x⌋ % 2 = 1) then ⌊x⌋ + 1 else ⌊x⌋) →
          (mode = .rtz → k = if x < 0 then ⌈x⌉ else ⌊x⌋) → (mode = .rup → k = ⌈x⌉) →
          (mode = .rdn → k = ⌊x⌋) →
          r = if k < lo then (lo, fNV) else if hi < k then (hi, fNV)
            else (k, if (k : ℚ) = x then fNone else fNX)) ∧
       floatToInt mode dst (.nan neg) = (0, fNV) ∧
       floatToInt mode dst (.inf neg) = (if neg then lo else hi, fNV)) ∧
     (∀ f, fmtOf src = some f →
       (∀ h, fmtOf dst = some h → convert m dst src n = roundTo h near (val f)) ∧
       (fmtOf dst = none → (convert m dst src n).1 = ((floatToInt zero dst (val f)).1 % 2 ^ tyBits dst).toNat ∧
         (convert m dst src n).2 = (floatToInt zero dst (val f)).2)) ∧
     (fmtOf src = none →
       (∀ h, fmtOf dst = some h →
         convert m dst src n = roundTo h near (.fin (decide (intOf src n < 0)) (intOf src n).natAbs 0)) ∧
       (fmtOf dst = none → (convert m dst src n).2 = fNone ∧
         (m.sat = 0 → (convert m dst src n).1 = (intOf src n % 2 ^ tyBits dst).toNat) ∧
         (m.sat ≠ 0 → (convert m dst src n).1 =
           (max lo (Min.min hi (intOf src n)) % 2 ^ tyBits dst).toNat))) ∧
     (∀ d a gd, m.clmp = true ∨ (m.sat ≠ 0 ∧ (fmtOf src ≠ none ∨ fmtOf dst ≠ none)) →
       acceptsMod m (.cvt d a src gd dst) = false)) ∧
  ((∀ (m : ModWord) (ty : Ty) (xs : List Word),
     let bits := tyBits ty
     let mode : RMode := if m.rm = 2 then .rtz else if m.rm = 3 then .rup else if m.rm = 4 then .rdn else .rne
     let lo : Int := if tySigned ty then -2 ^ (bits - 1) else 0
     let hi : Int := if tySigned ty then 2 ^ (bits - 1) - 1 else 2 ^ bits - 1
     let elem := fun x : Word => match fmtOf ty with
       | some f => roundTo f mode (f32.value x.toNat)
       | none => ((max lo (Min.min hi x.toInt) % 2 ^ bits).toNat, fNone)
     (∀ k x, xs[k]? = some x → (packAll m ty xs).1 / 2 ^ (bits * k) % 2 ^ bits = (elem x).1) ∧
     (packAll m ty xs).1 < 2 ^ (bits * xs.length) ∧
     (∀ i, (packAll m ty xs).2.getLsbD i = true ↔ ∃ x ∈ xs, (elem x).2.getLsbD i = true)) ∧
   ∀ (ty : Ty) (b : Nat), b < 2 ^ tyBits ty → tyBits ty ≤ 32 →
     (ty ∈ [Ty.i4, .i8, .i16] → (widen ty b).toInt =
       if b < 2 ^ (tyBits ty - 1) then (b : Int) else b - 2 ^ tyBits ty) ∧
     (ty ∈ [Ty.ui4, .ui8, .ui16, .i32, .ui32, .f32] → (widen ty b).toNat = b) ∧
     (∀ f, fmtOf ty = some f → ty ≠ .f32 →
       let v := f.value b
       let r := f32.value (widen ty b).toNat
       (v.isFin = true → r.isFin = true ∧ r.toRat = v.toRat ∧ r.neg = v.neg) ∧
       (v.isInf = true → r = v) ∧
       (v.isNan = true → widen ty b = if v.neg then 0xFFC00000 else 0x7FC00000)))

/-! ### Memory -/

/-- R126, R139, R141, R142, R149: a load whose lanes pass the checks and whose words may be served, with no
store that its core offered to their slices earlier still to be taken, places every active lane's element in
its registers, or for `LDS` the elected lane's in scalar registers; no flag, no byte of memory and no other
register changes. R134: sectors with symbol errors that the code corrects are read as corrected, and written
back. R135: the first lane, in lane order, whose sector cannot be decoded stops the task. R28, R126, R141,
R149: a load that passes the checks and may not be served, or that a store its core offered to the slice
earlier goes before, parks its path on it, and nothing else of the machine changes. R28, R97, R115, R118,
R141, R160: a load of step `t` may be served once its slice knows that the frontier of its domain has
reached `t`, every landing of an earlier step of the domain has taken place there, and no engine request of
an earlier step still has to write one of its lines; the lines of its own request do not hold a completion
handler back. A counter cell of an outstanding request of the task, and a word of an immutable region, are
served at once. The bytes that a step finds, what holds a completion handler's load back, and a presence bit
that reads wrong, are the model's (log entries 19, 34, 51). -/
def Obligations.LoadsPlaceTheElementsOrWait : Prop :=
  (∀ (s : State) (g : Group) (p : Path) (w : Word) (sp : Space) (d a imm : BitVec 6) (ty : Ty)
     (gd : Guard) (adr : Nat → Nat) (scalar : Bool),
     Issuing s g p w → 0 < ty.size →
     let mask := if scalar then p.exec else activeMask p gd
     let ls := if scalar
       then ((lowest p.exec).map fun l => (l, (sreg p a.toNat + imms p imm).toNat)).toList
       else (lanesOf mask).map fun l => (l, (opA g p false a l + imms p imm).toNat)
     let step := fun l => (laneOf g l).step.toNat
     let own := if g.completion then g.handler else none
     let i : Instr := if scalar then .lds sp d a imm ty else .ld sp d a imm gd ty
     let places := fun u t => LaneWrites u g p (if scalar then { inv := false, p := 7 } else gd) scalar
       (fun l => (loadedWords ty (loadedNumber u g.task (step l) (adr l) ty.size)).mapIdx fun k x => (d.toNat + k, x))
       (fun _ => 0) t
     AccessesPass s g sp ty.size ls adr →
     (∀ x ∈ ls, loadReady s own g.task (adr x.1) ty.size (step x.1) = true ∧
       storeAhead s g.core (adr x.1) s.fresh = false) →
     ((∀ x ∈ ls, sectorErrors s (sectorOf (adr x.1)) = []) → ∃ t, exec i s = .next t ∧ places s t) ∧
     (Memory.wf s.sram.mem = true → (∀ x ∈ ls, sectorBad s (sectorOf (adr x.1)) = false) → ∃ u t,
       exec i s = .next t ∧ ReadsSectors s (ls.map fun x => sectorOf (adr x.1)) u ∧ places u t) ∧
     (∀ x ∈ ls, sectorBad s (sectorOf (adr x.1)) = true →
       (∀ y ∈ ls, y.1 < x.1 → sectorBad s (sectorOf (adr y.1)) = false) → ∃ t, exec i s = .next t ∧
         StopsAt s { task := g.task, step := (laneOf g x.1).step, tid := (laneOf g x.1).tid, pc := seqStart p }
           (sectorOf (adr x.1)) t)) ∧
  (∀ (s : State) (g : Group) (p : Path) (w : Word) (sp : Space) (d a imm : BitVec 6) (ty : Ty)
     (gd : Guard) (adr : Nat → Nat) (scalar : Bool),
     Issuing s g p w →
     let ls := if scalar
       then ((lowest p.exec).map fun l => (l, (sreg p a.toNat + imms p imm).toNat)).toList
       else (lanesOf (activeMask p gd)).map fun l => (l, (opA g p false a l + imms p imm).toNat)
     let step := fun l => (laneOf g l).step.toNat
     let own := if g.completion then g.handler else none
     AccessesPass s g sp ty.size ls adr →
     (∃ x ∈ ls, loadReady s own g.task (adr x.1) ty.size (step x.1) = false ∨
       storeAhead s g.core (adr x.1) s.fresh = true) →
     ∃ t g', exec (if scalar then .lds sp d a imm ty else .ld sp d a imm gd ty) s = .next t ∧
       PathOnly s g p t g' { p with park := some (.load
         { own := own, scalar := scalar, reg := d.toNat, ty := ty,
           accs := ls.map fun x => { lane := x.1, addr := adr x.1, step := step x.1 }
           issued := s.fresh }) } ∧
       g'.lanes = g.lanes) ∧
  (∀ (s : State) (own : Option Nat) (task a z t : Nat), 0 < z →
     let counter := fun w : Nat => (∃ c ∈ s.eng.copies, c.head.task = task ∧ c.cnt = some (4 * w)) ∨
       ∃ b ∈ s.eng.bulks, b.head.task = task ∧ b.cnt = some (4 * w)
     (loadReady s own task a z t = true ↔ (∀ w, a / 4 ≤ w → w ≤ (a + z - 1) / 4 → counter w) ∨
       ∀ d, domainOf s a = some d → (∀ f, knownAt s d (sliceOf a) = some f → t ≤ f) ∧ LandedTo s d (sliceOf a) t ∧
         PresentTo s own a z t))

/-- R139, R143, R144, R149, R158: a store whose lanes pass the checks and need not wait is offered to its
slices, lane by lane, with its rule, type, step, writer and data; no byte of memory, register or flag
changes, and the group issues on. It waits with its group while a copy or a bulk read of an earlier step has
still to write one of its lines, or an outbound copy of an earlier step to read one of its bytes; which
clears a handler's store passes over is the model's reading. The wait on an outbound copy is the model's
reading of the third case (log entry 23), and the lines that a handler's store passes over are its choice
(log entry 107). -/
def Obligations.StoresAreOfferedAndLandLater : Prop :=
  ∀ (s : State) (g : Group) (p : Path) (w : Word) (rule : Rule) (sp : Space) (d a imm : BitVec 6)
    (ty : Ty) (gd : Guard) (adr : Nat → Nat) (scalar : Bool),
    Issuing s g p w → sp ≠ .immutable →
    let ls := if scalar
      then ((lowest p.exec).map fun l => (l, (sreg p a.toNat + imms p imm).toNat)).toList
      else (lanesOf (activeMask p gd)).map fun l => (l, (opA g p false a l + imms p imm).toNat)
    let step := fun l => (laneOf g l).step.toNat
    let data : Nat → BitVec 64 := fun l =>
      if scalar then (if ty.size = 8 then sreg p (d.toNat + 1) else 0) ++ sreg p d.toNat
      else (if ty.size = 8 then opB g p false (.reg d) l 1 else 0) ++ opB g p false (.reg d) l
    (∀ x ∈ ls, x.2 % ty.size = 0 ∧ resolve s g sp x.2 ty.size = .ok (adr x.1)) →
    (∀ b, bulkOf s g = some b → ∀ x ∈ ls,
      b.win ≤ adr x.1 ∧ adr x.1 + ty.size ≤ b.win + 128 * b.winLines ∧ sp = b.winSpace) →
    let i : Instr := if scalar then .sts rule sp d a imm ty
      else if sp = .party then .stP rule d a imm gd ty else .stG rule d a imm gd ty
    let held := fun c : Clear => ∀ id, g.handler = some id →
      c.req ≠ id ∧ (findBulk s c.req = none ∨ ∀ b, findBulk s id = some b → c.step < b.head.step)
    let owed := fun l => ∃ c ∈ s.sram.clears, c.step < step l ∧ adr l / 128 ≤ c.line ∧
      c.line ≤ (adr l + ty.size - 1) / 128 ∧ held c
    let unread := fun l => ∃ c ∈ s.eng.copies, c.outbound = true ∧ c.nearData = none ∧ c.head.step < step l ∧
      (∀ k, findTask s c.head.task = some k → k.stop = none) ∧ adr l < c.near + c.len ∧ c.near < adr l + ty.size
    (s.sram.copies = [] → (∃ x ∈ ls, owed x.1 ∨ unread x.1) → MovesPath i s g p { p with park := some .issue }) ∧
    (s.sram.copies = [] → ∀ l, storeWaits s g.handler (adr l) ty.size (step l) = true ↔ owed l ∨ unread l) ∧
    ((∃ x ∈ ls, storeWaits s g.handler (adr x.1) ty.size (step x.1) = true) →
      MovesPath i s g p { p with park := some .issue }) ∧
    ((∀ x ∈ ls, storeWaits s g.handler (adr x.1) ty.size (step x.1) = false) →
    ∃ t g' os, exec i s = .next t ∧
      PathOnly s g p (withoutOffers s t) g'
        { p with pc := p.pc + 4, pre := Prefix.none, park := none } ∧
      g'.lanes = g.lanes ∧ t.sram.offers = s.sram.offers ++ os ∧ os.length = ls.length ∧
      ∀ k (h : k < ls.length), ∃ o, os[k]? = some o ∧ o.po = s.fresh + k ∧
        o.addr = adr ls[k].1 ∧ o.size = ty.size ∧ o.ty = ty ∧ o.rule = rule ∧
        o.step = step ls[k].1 ∧ o.task = g.task ∧ o.party = g.party ∧ o.core = g.core ∧
        o.req = g.handler ∧ o.data = data ls[k].1 % 2 ^ (8 * ty.size) ∧
        o.writer = if g.handler.isSome then ((laneOf g ls[k].1).bc[0]).toNat
          else (laneOf g ls[k].1).tid.toNat)

/-- R140, R143, R149: the lowest lane of `ST` or `STS` to an immutable region, aligned and addressing the
region, takes the memory-address trap that reports its address and a store in space K; with no lane the
instruction does nothing. R140: an access that is not aligned, or that does not resolve in its space, takes
the memory-address trap of the first failing row and of its lowest lane, and no lane takes effect. R112 to
R114: so does a handler's store outside its request's window or in another space, and a handler's load of
its own window takes the handler-rule trap. -/
def Obligations.BadAccessesTrapBeforeAnyEffect : Prop :=
  (∀ (s : State) (g : Group) (p : Path) (w : Word) (rule : Rule) (d a imm : BitVec 6) (ty : Ty)
     (gd : Guard) (scalar : Bool),
     Issuing s g p w →
     let act := fun k => if scalar then lowest p.exec = some k else (activeMask p gd).getLsbD k = true
     let ea := fun k => (if scalar then sreg p a.toNat + imms p imm else opA g p false a k + imms p imm).toNat
     let i : Instr := if scalar then .sts rule .immutable d a imm ty else .stK rule d a imm gd ty
     ((∀ k, ¬ act k) → ∃ t g', exec i s = .next t ∧
       PathOnly s g p t g' { p with pc := p.pc + 4, pre := Prefix.none, park := none } ∧
       g'.lanes = g.lanes) ∧
     (∀ l, act l → (∀ k, k < l → ¬ act k) →
       (∀ k, act k → ea k % ty.size = 0 ∧ resolve s g .immutable (ea k) ty.size = .ok (ea k)) →
       exec i s = .next (takeTrap s g p
         { kind := 3, lane := l, word := w, addr := BitVec.ofNat 32 (ea l), info := 6, after := false }))) ∧
  (∀ (s : State) (g : Group) (p : Path) (w : Word) (rule : Rule) (d a imm : BitVec 6) (ty : Ty)
     (gd : Guard) (l : Nat) (store scalar : Bool) (sp : Space),
     Issuing s g p w →
     let act := fun k => if scalar then lowest p.exec = some k else (activeMask p gd).getLsbD k = true
     let ea := fun k => (if scalar then sreg p a.toNat + imms p imm else opA g p false a k + imms p imm).toNat
     let i : Instr :=
       if scalar then (if store then .sts rule sp d a imm ty else .lds sp d a imm ty)
       else if store then (match sp with
         | .party => .stP rule d a imm gd ty
         | .task => .stG rule d a imm gd ty
         | .immutable => .stK rule d a imm gd ty)
       else .ld sp d a imm gd ty
     let space : Word := match sp with
       | .party => 0
       | .task => 1
       | .immutable => 2
     let address := exec i s = .next (takeTrap s g p
       { kind := 3, lane := l, word := w, addr := BitVec.ofNat 32 (ea l),
         info := space ||| (if store then 4 else 0), after := false })
     let bad := fun k => ea k % ty.size ≠ 0 ∨ ((∀ j, act j → ea j % ty.size = 0) ∧
       ∀ x, resolve s g sp (ea k) ty.size ≠ .ok x)
     act l →
     (bad l → (∀ k, k < l → act k → ¬ bad k) → address) ∧
     (∀ (b : Bulk) (adr : Nat → Nat), bulkOf s g = some b →
       (∀ k, act k → ea k % ty.size = 0 ∧ resolve s g sp (ea k) ty.size = .ok (adr k)) →
       let own := fun k => adr k < b.win + 128 * b.winLines ∧ b.win < adr k + ty.size
       let inside := fun k => b.win ≤ adr k ∧ adr k + ty.size ≤ b.win + 128 * b.winLines ∧ sp = b.winSpace
       (store = true → sp ≠ .immutable → ¬ inside l → (∀ k, k < l → act k → inside k) → address) ∧
       (store = false → g.completion = false → own l → (∀ k, k < l → act k → ¬ own k) →
         exec i s = .next (takeTrap s g p
           { kind := 4, lane := l, word := w, addr := 0, info := 0, after := false }))))

/-- R150: a `WATCH` takes one slot for each distinct word; with its slots free and its tests arrived it goes
on at once when every word meets the condition, and otherwise parks on its words and holds its slots;
without them it waits, and issues again. It writes no register and changes no step. R134: sectors with
symbol errors that the code corrects are tested as corrected, and written back. R140: a bad address, a fifth
word and a handler's `WATCH` trap first. That a word in a sector that cannot be decoded stops the task, as a
load's would, is the model's choice. When its tests have arrived is the model's reading (log entry 69), the
test of a sector that cannot be decoded its choice (log entry 83). -/
def Obligations.WatchTestsOrParks : Prop :=
  ∀ (s : State) (g : Group) (p : Path) (w : Word) (c : WCond) (a imm : BitVec 6) (gd : Guard)
    (sp : Space) (adr : Nat → Nat),
    Issuing s g p w →
    let ls := (lanesOf (activeMask p gd)).map fun l => (l, (opA g p false a l + imms p imm).toNat)
    let words := (watchWords ls).map fun x => adr x.1
    let met := fun (u : State) a => let x := wordAt u.sram.mem a; match c with
      | .z => x.extractLsb' 0 24 = 0
      | .nz => x.extractLsb' 0 24 ≠ 0
      | .ze => x.extractLsb' 0 24 = 0 ∨ x.extractLsb' 24 8 ≠ 0
      | .e => x.extractLsb' 24 8 ≠ 0
    let arrives := ∀ x ∈ words, testArrives s g x = true
    let becomes := fun (u : State) (q : Path) => ∃ t g', exec (.watch c a imm gd sp) s = .next t ∧
      PathOnly u g p t g' q ∧ g'.lanes = g.lanes
    let tests := fun u : State =>
      ((∀ x ∈ words, met u x) → becomes u { p with pc := p.pc + 4, pre := Prefix.none, park := none }) ∧
      ((∃ x ∈ words, ¬ met u x) → ∃ ws, becomes u { p with park := some (.watch c ws) } ∧
        ws.map (·.1) = words ∧ ∀ x ∈ ws, (x.2 = true ↔ met u x.1))
    let lost := fun x : Nat × Nat => sectorBad s (sectorOf (adr x.1)) = true
    let bad := fun x : Nat × Nat => x.2 % 4 ≠ 0 ∨ ((∀ y ∈ ls, y.2 % 4 = 0) ∧ ∀ r, resolve s g sp x.2 4 ≠ .ok r)
    let address := fun x : Nat × Nat => Traps (.watch c a imm gd sp) s g p
      { kind := 3, lane := x.1, word := w, addr := BitVec.ofNat 32 x.2,
        info := match sp with
          | .party => 0
          | .task => 1
          | .immutable => 2
        after := false }
    (∀ x ∈ ls, bad x → (∀ y ∈ ls, y.1 < x.1 → ¬ bad y) → address x) ∧
    ((∀ x ∈ ls, x.2 % 4 = 0 ∧ resolve s g sp x.2 4 = .ok (adr x.1)) →
      (g.handler.isSome = true → ∀ l, lowest (activeMask p gd) = some l → Traps (.watch c a imm gd sp) s g p
        { kind := 4, lane := l, word := w, addr := 0, info := 0, after := false }) ∧
      (g.handler = none → ∀ x, (watchWords ls)[4]? = some x → address x) ∧
      (g.handler = none → (watchWords ls).length ≤ 4 →
        (slotsFree s g words.length = true → arrives →
          ((∀ x ∈ words, sectorErrors s (sectorOf x) = []) → tests s) ∧
          (Memory.wf s.sram.mem = true → (∀ x ∈ watchWords ls, ¬ lost x) →
            ∃ u, ReadsSectors s (words.map sectorOf) u ∧ tests u) ∧
          (∀ (k : Nat) x, (watchWords ls)[k]? = some x → lost x →
            (∀ (j : Nat) y, j < k → (watchWords ls)[j]? = some y → ¬ lost y) →
            ∃ t, exec (.watch c a imm gd sp) s = .next t ∧
              StopsAt s { task := g.task, step := (laneOf g x.1).step, tid := (laneOf g x.1).tid, pc := seqStart p }
                (sectorOf (adr x.1)) t)) ∧
        (slotsFree s g words.length = false ∨ ¬ arrives → becomes s { p with park := some .issue })))

/-- R101, R125, R140, R151, R152: `PRES` gives the presence of the line, which reads by majority of its
three copies; `ABSA` the absolute address of a party offset, and `RELA` the offset of an address in a
granule that the thread's party owns, while it drains too, or all ones. The lowest lane of `PRES` or `ABSA`
whose address its space does not hold takes the memory-address trap, and no lane takes effect; `RELA` makes
no check. That three copies of an owner tag which all differ leave a free one is the model's choice (log
entry 34). -/
def Obligations.PresenceAndTranslationWriteOneRegister : Prop :=
  ∀ (s : State) (g : Group) (p : Path) (w : Word) (d a imm : BitVec 6) (gd : Guard) (sp : Space)
    (adr : Nat → Nat),
    Issuing s g p w →
    let ea := fun l => (opA g p false a l + imms p imm).toNat
    let base := scratchBase ((findTask s g.task).getD default) g.party
    let written := fun x : Nat => !(s.sram.clears.any fun c => c.landed && decide (c.line = x))
    let copy := fun x k : Nat => ((s.sram.copies.filterMap fun e => match e with
      | .presence y j b => if y = x ∧ j = k then some b else none
      | .tag _ _ _ => none).head?).getD (written x)
    let present := fun x => (copy x 0 && copy x 1) || (copy x 0 && copy x 2) || (copy x 1 && copy x 2)
    ((∀ l, (activeMask p gd).getLsbD l = true → resolve s g sp (ea l) 1 = .ok (adr l)) →
      WritesWord (.pres d a imm gd sp) s g p d gd false (fun l => if present (adr l / 128) then 1 else 0)) ∧
    ((∀ l, (activeMask p gd).getLsbD l = true → resolve s g .party (ea l) 1 = .ok (adr l)) →
      WritesWord (.absa d a imm gd) s g p d gd false (fun l => BitVec.ofNat 32 (base + ea l))) ∧
    (∀ (l : Nat) (sq : Space),
      let bad := fun k => ∀ x, resolve s g sq (ea k) 1 ≠ .ok x
      (activeMask p gd).getLsbD l = true → bad l → (∀ k, k < l → (activeMask p gd).getLsbD k = true → ¬ bad k) →
      AddressTraps (.pres d a imm gd sq) s g p w l sq (ea l) ∧
      (sq = .party → AddressTraps (.absa d a imm gd) s g p w l sq (ea l))) ∧
    WritesWord (.rela d a imm gd) s g p d gd false (fun l =>
      if (ownerAt s (ea l) = .party g.task g.party ∨ ownerAt s (ea l) = .draining g.task g.party) ∧
        sliceOf (ea l) = g.core
      then BitVec.ofNat 32 (ea l - base) else 0xFFFFFFFF)

/-- R145, R146: what lands at a byte that stores of one rule cover: under `LOW` the lowest writer's last
store, under `ANY` one of the stores, the same one at every byte that the same stores cover, under integer
`SUM` the old value plus every contribution modulo the cell, under `FLT` the one store. R147, R179: what
lands in a cell of floating-point `SUM` stores of one type, from the old value and every contribution, which
an accumulator holds exactly where there are several: the canonical NaN, an infinity, or the exact sum
rounded once to nearest; an exact zero is −0.0 only when the old value and every contribution are. R145,
R146: the stores that cover a byte collide exactly when two rules meet, when sums do not name one cell, or
when an `FLT` store is not alone. -/
def Obligations.LandedBytesAndCollisions : Prop :=
  (∀ (s : State) (e : Entry) (a : Nat) (x : Store),
     let l := e.stores.filter fun o => covers o a
     x ∈ l → (l.map (·.po)).Nodup → (∀ y ∈ l, y.rule = x.rule) →
     let byte := fun o : Store => byteAt o.data.toNat (a - o.addr)
     (x.rule = .low → (∀ y ∈ l, x.writer < y.writer ∨ (x.writer = y.writer ∧ y.po ≤ x.po)) →
       landedByte s e a = some (a, byte x)) ∧
     (x.rule = .any → ∃ y ∈ l, ∀ b, (e.stores.filter fun o => covers o b) = l →
       landedByte s e b = some (b, byteAt y.data.toNat (b - y.addr))) ∧
     (x.rule = .sum → x.ty ≠ .f32 → x.ty ≠ .bf16 → (∀ y ∈ l, y.addr = x.addr ∧ y.size = x.size) →
       (∀ y ∈ l, y.ty ≠ .f32 ∧ y.ty ≠ .bf16) →
       landedByte s e a = some (a, byteAt ((natOfBytes (bytesAt s.sram.mem x.addr x.size) +
         (l.map fun y => y.data.toNat).sum) % 2 ^ (8 * x.size)) (a - x.addr))) ∧
     (x.rule = .flt → l = [x] → landedByte s e a = some (a, byte x))) ∧
  (∀ (s : State) (e : Entry) (a r : Nat) (x : Store),
     let l := e.stores.filter fun o => covers o a
     let half := x.ty = .bf16
     let f := if half then bf16 else f32
     let v := fun y : Store => f.value (y.data.toNat % 2 ^ f.bits)
     let old := f.value (natOfBytes (bytesAt s.sram.mem x.addr x.size))
     let sum : Int := unitsOf old + (l.map fun y => unitsOf (v y)).sum
     let inf := fun n => old = .inf n ∨ ∃ y ∈ l, v y = .inf n
     let nan := old.isNan = true ∨ (∃ y ∈ l, (v y).isNan = true) ∨ (inf false ∧ inf true)
     x ∈ l → x.rule = .sum → (half ∨ x.ty = .f32) → 8 * x.size = f.bits →
     (∀ y ∈ l, y.rule = x.rule ∧ y.addr = x.addr ∧ y.ty = x.ty ∧ y.size = x.size ∧ y.step = x.step ∧
       y.dom = x.dom ∧ y.req = x.req) →
     (match s.sram.accums.find? (accumFor x) with
       | none => l = [x]
       | some c => (c.nan = true ↔ ∃ y ∈ l, (v y).isNan = true) ∧ (c.pinf = true ↔ ∃ y ∈ l, v y = .inf false) ∧
           (c.ninf = true ↔ ∃ y ∈ l, v y = .inf true) ∧
           (c.nz = true ↔ ∀ y ∈ l, (v y).isZero = true ∧ (v y).neg = true) ∧
           c.sum.toInt = (l.map fun y => unitsOf (v y)).sum) →
     (nan → r = if half then 0x7FC0 else 0x7FC00000) →
     (¬ nan → inf false → r = if half then 0x7F80 else 0x7F800000) →
     (¬ nan → inf true → r = if half then 0xFF80 else 0xFF800000) →
     (¬ nan → ¬ inf false → ¬ inf true → sum ≠ 0 →
       r = (roundTo f .rne (.fin (decide (sum < 0)) sum.natAbs (-149))).1) →
     (¬ nan → ¬ inf false → ¬ inf true → sum = 0 →
       r = if old.isZero && old.neg && l.all (fun y => (v y).isZero && (v y).neg) then 2 ^ (f.bits - 1) else 0) →
     landedByte s e a = some (a, byteAt r (a - x.addr))) ∧
  (∀ (x : Store) (l : List Store),
     let mixed := ∃ y ∈ l, y.rule ≠ x.rule
     (collisionKind (x :: l) = some 0x11 ↔ mixed ∨
       (x.rule = .sum ∧ ∃ y ∈ l, ¬ (x.addr = y.addr ∧ cellTy x.ty = cellTy y.ty))) ∧
     (collisionKind (x :: l) = some 0x10 ↔ ¬ mixed ∧ x.rule = .flt ∧ l ≠ []) ∧
     collisionKind [] = none)

/-- R126, R129, R131 to R133, R135, R148, R156, R159, R161, R28, R141: a `STORE_OFFER` that finds room,
before which none comes, enters its key's entry and changes no byte; the second floating-point contribution
to a cell claims an accumulator, which sums exactly (R179). With 4,096 entries pending, or 256 accumulators,
a store of the priority step takes spill slots of its task, any other waits; one that finds no slot waits
for landings that are due or stops its task. A `FRONTIER_CHANGE` sets what a slice knows, never downwards. A
`STEP_LANDING` is due once the slice knows the step passed, earlier steps have landed there and no owed
engine byte holds an entry; it writes what each entry lands, frees the entries and makes the step's clears
take effect, or, where stores collide or an entry cannot be read, stops the task and writes nothing. A due
`LOAD_COMPLETE` places its load's elements; one not due changes nothing. R155: a frontier is the least step
of the live threads, in the trap handler or filed too, and of their stores not yet accepted; handlers and
exited threads do not count. R136 to R138: scrub rewrites a sector as it decodes where one symbol is in
error and counts it, counts an uncorrectable one and stops no task; the rebuild pass goes from sector to
sector; a write of zero to `SLSTAT` clears its counts, reserved bits ignored (R5). R66 to R70: refresh
resets the counts of the rows it reaches and is counted by requests that wait for the bank; the latency
bound lets those that waited when it expired go ahead, once before the query's next row; error reports are
counted by pseudo-channel; none of them changes a byte or a task. What holds a landing back, the STEP, TID
and PC of an entry in error, the bytes of a late load, when a targeted refresh is due, the count after
refresh management, which queries yield, and where the spec is silent on copies, activations and reports,
are the model's (log entries 14, 19, 28, 34, 50, 51, 61, 63, 71, 72, 93, 106, 118, 119). -/
def Obligations.SliceAndStackEventsFollowTheirRules : Prop :=
  (∀ (s : State) (o : Store) (d : Dom) (slice n : Nat) (g : Group) (p : Path) (r : LoadReq),
     (o ∈ s.sram.offers → (s.sram.offers.map (·.po)).Nodup → landsAllowed s o.task = true →
       sectorErrors s (sectorOf o.addr) = [] → copyUnread s o.addr o.size o.step = false →
       (∀ x ∈ s.sram.offers, x.po ≠ o.po → sliceOf x.addr = sliceOf o.addr → ¬ (x.core = o.core ∧ x.po < o.po)) →
       ∀ k, findTask s o.task = some k →
       let sl := sliceOf o.addr
       let noEntry := needsEntry s o = true ∧ 4096 ≤ bufferUsed s sl
       let noAccum := needsAccum s o = true ∧ 256 ≤ accumsUsed s sl
       let slots := spillUsed s o.task sl + (if noEntry then 1 else 0) + (if noAccum then 1 else 0) ≤ spillSlots k
       let due := slotDue s o = true
       (hasPriority s o = false → noEntry ∨ noAccum → exec (.storeOffer o.po) s = .next s) ∧
       (hasPriority s o = true → noEntry ∨ noAccum → ¬ slots → due → exec (.storeOffer o.po) s = .next s) ∧
       (hasPriority s o = true → noEntry ∨ noAccum → ¬ slots → ¬ due → ∃ t, exec (.storeOffer o.po) s = .next t ∧
         findTask t o.task = some { k with
           stop := some 0x13
           frec := { kind := 0x13, step := BitVec.ofNat 64 o.step, addr := BitVec.ofNat 32 (o.addr / 32 * 32),
                     rule := BitVec.ofNat 32 o.rule.code, count := BitVec.ofNat 32 (spillSlots k),
                     tid0 := BitVec.ofNat 32 o.writer, tid1 := BitVec.allOnes 32, pc := o.pc } } ∧
         (∀ id, id ≠ o.task → findTask t id = findTask s id) ∧
         t.sram.offers = s.sram.offers.filter (fun x => decide (x.po ≠ o.po)) ∧ t.sram.entries = s.sram.entries ∧
         t.sram.accums = s.sram.accums ∧ t.sram.mem = s.sram.mem) ∧
       (hasPriority s o = true ∨ (∀ x ∈ s.sram.offers, x.po ≠ o.po → sliceOf x.addr = sl → hasPriority s x = false) →
         ¬ (noEntry ∨ noAccum) ∨ (hasPriority s o = true ∧ slots) →
       let cellOf := fun x : Store => (x.addr, x.ty)
       let before := ((s.sram.entries.find? (keyOf o)).map (·.stores)).getD []
       let float := o.rule = .sum ∧ (o.ty = .f32 ∨ o.ty = .bf16)
       let prior := before.find? fun x => decide (x.rule = .sum) && decide (cellOf x = cellOf o)
       let v := fun x : Store => (if x.ty = .bf16 then bf16 else f32).value (x.data.toNat % 2 ^ (8 * x.size))
       let gathers := fun (c b : Accum) (x : Store) => b.nan = (c.nan || (v x).isNan) ∧
         b.pinf = (c.pinf || decide (v x = .inf false)) ∧ b.ninf = (c.ninf || decide (v x = .inf true)) ∧
         b.nz = (c.nz && (v x).isZero && (v x).neg) ∧ b.sum = c.sum + BitVec.ofInt 312 (unitsOf (v x))
       ∃ t, exec (.storeOffer o.po) s = .next t ∧
         t.sram.offers = s.sram.offers.filter (fun x => decide (x.po ≠ o.po)) ∧
         (∃ e ∈ t.sram.entries, keyOf o e = true ∧ e.stores = before ++ [o] ∧
           (s.sram.entries.find? (keyOf o) = none → (e.spilled = true ↔ noEntry))) ∧
         (∀ e, keyOf o e = false → (e ∈ t.sram.entries ↔ e ∈ s.sram.entries)) ∧
         (∀ c, accumFor o c = false → (c ∈ t.sram.accums ↔ c ∈ s.sram.accums)) ∧
         (¬ float ∨ (prior = none ∧ ∀ c ∈ s.sram.accums, accumFor o c = false) →
           t.sram.accums = s.sram.accums) ∧
         (float → ∀ c ∈ s.sram.accums, accumFor o c = true →
           ∃ b ∈ t.sram.accums, accumFor o b = true ∧ gathers c b o) ∧
         (float → (∀ c ∈ s.sram.accums, accumFor o c = false) → ∀ x, prior = some x →
           ∃ b c z, b ∈ t.sram.accums ∧ accumFor o b = true ∧ gathers c b o ∧ gathers z c x ∧
             (b.spilled = true ↔ noAccum) ∧ z.nan = false ∧ z.pinf = false ∧ z.ninf = false ∧ z.nz = true ∧ z.sum = 0) ∧
         (∀ a, cellGet t.sram.mem a = cellGet s.sram.mem a) ∧
         t = { s with sram := { s.sram with
           offers := t.sram.offers, entries := t.sram.entries, accums := t.sram.accums, owners := t.sram.owners,
           undo := t.sram.undo, copies := t.sram.copies } })) ∧
     (∃ t, exec (.frontierChange d slice) s = .next t ∧
       (∀ d' sl, frontierAbove (knownAt s d' sl) (knownAt t d' sl) = false) ∧
       (∀ k, findTask s (domTask d) = some k → landsAllowed s (domTask d) = true → sliceKnows k d slice = true →
         frontierAbove (frontier s d) (knownAt s d slice) = true → knownAt t d slice = frontier s d) ∧
       (∀ d' sl, ¬ (d' = d ∧ sl = slice) → knownAt t d' sl = knownAt s d' sl) ∧
       t = { s with sram := { s.sram with known := t.sram.known } }) ∧
     (landingDue s d n slice = true ↔ landsAllowed s (domTask d) = true ∧
       (∀ f, knownAt s d slice = some f → n + 1 ≤ f) ∧ LandedTo s d slice n ∧ ¬ LandedTo s d slice (n + 1) ∧
       (∀ e ∈ sliceEntries s d n slice, PresentTo s none (e.sector * 32) 32 n ∧
         ∀ c ∈ s.eng.copies, c.outbound = true → c.nearData = none → c.head.step < n → toldToStop s c.head.task = false →
           c.near + c.len ≤ e.sector * 32 ∨ e.sector * 32 + 32 ≤ c.near) ∧
       (∀ u, u < n → lowestCollision (stepEntries s d u) = none) ∧
       (lowestCollision (stepEntries s d n) ≠ none → ∀ sl, LandedTo s d sl n)) ∧
     (landingDue s d n slice = false → exec (.stepLanding d n slice) s = .next s) ∧
     (landingDue s d n slice = true → lowestCollision (stepEntries s d n) = none →
       (∀ e ∈ sliceEntries s d n slice, entryUpset s e = false) → Memory.wf s.sram.mem = true → (∀ sec, sectorErrors s sec = []) → ((sliceEntries s d n slice).map (·.sector)).Nodup →
       ∃ t, exec (.stepLanding d n slice) s = .next t ∧
         (∀ e ∈ sliceEntries s d n slice, ∀ a, a / 32 = e.sector →
           cellGet t.sram.mem a = ((landedByte s e a).map (·.2)).getD (cellGet s.sram.mem a)) ∧
         (∀ a, (∀ e ∈ sliceEntries s d n slice, e.sector ≠ a / 32) →
           cellGet t.sram.mem a = cellGet s.sram.mem a) ∧
         (∀ e, e ∈ t.sram.entries ↔ e ∈ s.sram.entries ∧ e ∉ sliceEntries s d n slice) ∧
         (∀ c ∈ t.sram.clears, c.dom = d → c.step = n → sliceOf (c.line * 128) = slice → c.landed = true) ∧
         t.tasks = s.tasks ∧ t.dram = s.dram ∧ t.host = s.host ∧ t.eng = s.eng) ∧
     (∀ c, landingDue s d n slice = true → lowestCollision (stepEntries s d n) = some c →
       ∃ t, exec (.stepLanding d n slice) s = .next t ∧
         (∀ a, cellGet t.sram.mem a = cellGet s.sram.mem a) ∧ t.sram.entries = s.sram.entries ∧
         (∃ k, findTask t (domTask d) = some k ∧ k.stop = some ((BitVec.ofNat 32 c.2.1).toNat) ∧
           k.frec.kind = BitVec.ofNat 32 c.2.1 ∧ k.frec.addr = BitVec.ofNat 32 c.1 ∧
           ∃ e ∈ stepEntries s d n, e.sector = c.1 / 32 ∧
             let at_ := fun (e : Entry) (a : Nat) => e.stores.filter fun o => covers o a
             let l := at_ e c.1
             let first := fun (x : Store) (l : List Store) => x ∈ l ∧ ∀ y ∈ l, x.writer < y.writer ∨ (x.writer = y.writer ∧ x.po ≤ y.po)
             collisionKind l = some c.2.1 ∧
             (∀ e' ∈ stepEntries s d n, ∀ a, a / 32 = e'.sector → a < c.1 → collisionKind (at_ e' a) = none) ∧
             ((l.map (·.po)).Nodup → ∀ x y, first x l → first y (l.filter fun z => decide (z.po ≠ x.po)) → k.frec = {
               kind := BitVec.ofNat 32 c.2.1, step := BitVec.ofNat 64 n, addr := BitVec.ofNat 32 c.1
               rule := BitVec.ofNat 32 x.rule.code, count := BitVec.ofNat 32 l.length
               tid0 := BitVec.ofNat 32 x.writer, tid1 := BitVec.ofNat 32 y.writer, pc := x.pc })) ∧
         (∀ id, id ≠ domTask d → findTask t id = findTask s id)) ∧
     (∀ (k : Nat) e, landingDue s d n slice = true → lowestCollision (stepEntries s d n) = none →
       (sliceEntries s d n slice)[k]? = some e → entryUpset s e = true →
       (∀ (j : Nat) y, j < k → (sliceEntries s d n slice)[j]? = some y → entryUpset s y = false) →
       ∃ u, exec (.stepLanding d n slice) s = .next (releaseParties u (domTask d)) ∧ StopsAt s (entryWho e) e.sector u) ∧
     (findGroup s g.gid = some g → findPath g p.pid = some p → landsAllowed s g.task = true →
       p.park = some (.load r) → r.scalar = false → (r.accs.map (·.lane)).Nodup →
       (∀ x ∈ r.accs, x.lane < 64 ∧ loadReady s r.own g.task x.addr r.ty.size x.step = true ∧
         storeAhead s g.core x.addr r.issued = false ∧
         sectorErrors s (sectorOf x.addr) = []) →
       ∃ t g', exec (.loadComplete g.gid p.pid) s = .next t ∧ PathOnly s g p t g' p.past ∧
         (∀ l, laneOf g' l = { laneOf g l with v := (laneOf g' l).v }) ∧
         (∀ x ∈ r.accs, x.lane < g.lanes.length → ∀ k, k < 64 → laneReg g' x.lane k =
           assoc ((loadedWords r.ty (loadedNumber s g.task x.step x.addr r.ty.size)).mapIdx
             fun j y => (r.reg + j, y)) k (laneReg g x.lane k)) ∧
         (∀ l, (∀ x ∈ r.accs, x.lane ≠ l) → ∀ k, laneReg g' l k = laneReg g l k)) ∧
     (findGroup s g.gid = some g → findPath g p.pid = some p → p.park = some (.load r) →
       (∃ x ∈ r.accs, loadReady s r.own g.task x.addr r.ty.size x.step = false ∨
         storeAhead s g.core x.addr r.issued = true) → exec (.loadComplete g.gid p.pid) s = .next s)) ∧
  (∀ (s : State) (d : Dom),
     let within := fun task party : Nat => match d with
       | .party t i => t = task ∧ i = party
       | .task t => t = task
     let counts := fun n : Nat =>
       (∃ g ∈ s.groups, g.handler = none ∧ within g.task g.party ∧ ∃ x ∈ g.lanes, x.state = .live ∧ x.step.toNat = n) ∨
       (∃ b ∈ s.eng.bins, ∃ t i pc, b.key = .reform t i pc ∧ within t i ∧ ∃ x ∈ b.threads, x.step.toNat = n) ∨
       ∃ o ∈ s.sram.offers, o.req = none ∧ within o.task o.party ∧ o.step = n
     (frontier s d = none ↔ ∀ n, ¬ counts n) ∧ ∀ f, frontier s d = some f ↔ counts f ∧ ∀ n, counts n → f ≤ n) ∧
  (∀ (s : State) (slice bank row burst pch at_ : Nat) (v : Word),
     let sector := slice * 2 ^ 18 + (sliceReg s slice).scrubAt
     let quiet := fun t : State => t.dram.mem = s.dram.mem ∧
       t.dram.tableRows = s.dram.tableRows ∧ t.host.mem = s.host.mem ∧ t.tasks = s.tasks ∧ t.groups = s.groups
     let on := fun (i : Instr) (P : State → Prop) => ∃ t, exec i s = .next t ∧ quiet t ∧ P t
     let does := fun (i : Instr) (P : State → Prop) => on i fun t => t.sram.mem = s.sram.mem ∧ P t
     let bound := fun (e : QueueEntry) => e.since + 520 + e.refreshes * Config.refreshCycles
     let expired := fun (e : QueueEntry) => e ∈ s.dram.queues ∧ e.pch = pch ∧ e.refreshes ≤ 2 ∧ bound e ≤ s.now
     let counted := fun (t : State) => t.dram.queues =
       s.dram.queues.map fun e => if e.bank = bank ∧ ¬ (e.refreshes ≤ 2 ∧ bound e ≤ s.now) then
         { e with refreshes := e.refreshes + 1 } else e
     let holds := fun (q : Query) (k : Task) => q ∈ s.eng.queries ∧ findTask s q.task = some k ∧ k.stop = none ∧
       tableBank q.core (k.block.getD 0) q.tbl / 16 = pch
     (slice < 512 → (sliceReg s slice).scrubAt < 0x600000 / 32 → s.sram.copies = [] →
       on (.sliceScrub slice) fun t =>
         (sectorErrors s sector = [] → t.sram.mem = s.sram.mem ∧
           (sliceReg t slice).slcorr = (sliceReg s slice).slcorr ∧
           (sliceReg t slice).unc = (sliceReg s slice).unc) ∧
         (sectorBad s sector = true → t.sram.mem = s.sram.mem ∧
           (sliceReg t slice).unc = min ((sliceReg s slice).unc + 1) 255) ∧
         (∀ c b, sectorErrors s sector ≠ [] → sectorOutcome s sector = .corrected c b →
           sectorErrors t sector = [] ∧
           (sliceReg t slice).slcorr = min ((sliceReg s slice).slcorr + 1) 0xFFFFFFFF ∧
           (Memory.wf s.sram.mem = true →
             (∀ k x, (bytesOfSymbols (c.take 16))[k]? = some x → cellGet t.sram.mem (sector * 32 + k) = x) ∧
             ∀ a, a / 32 ≠ sector → cellGet t.sram.mem a = cellGet s.sram.mem a))) ∧
     ((sliceReg s slice).rebuildAt = some at_ → at_ < 0x600000 / 32 → on (.rebuildSector slice) fun t =>
       (sectorErrors s (slice * 2 ^ 18 + at_) = [] → t.sram.mem = s.sram.mem) ∧
       (sliceReg t slice).rebuildAt = if at_ + 1 = 0x600000 / 32 then none else some (at_ + 1)) ∧
     (slice < 512 → v &&& 0xFFF0FF00 = 0 → does (.slstatWrite slice v) fun t =>
       sliceReg t slice = { sliceReg s slice with unc := 0, slcorr := 0 } ∧
       ∀ k, k ≠ slice → sliceReg t k = sliceReg s k) ∧
     (v &&& 0xFFF0FF00 ≠ 0 → exec (.slstatWrite slice v) s = .next s) ∧
     ((∃ e, expired e) → (∀ q k, holds q k → q.resumes = false) → does (.latencyBoundExpiry pch) fun t =>
       (∀ e, e ∈ t.dram.queues ↔ e ∈ s.dram.queues ∧ ¬ (e.pch = pch ∧ ∀ x, expired x → e.since ≤ bound x)) ∧
       ∀ q k, holds q k → queryBehind s q = false →
         rowsLeft q (k.block.getD 0) (wanted q (tableDecl k q.tbl)) ≠ [] → { q with resumes := true } ∈ t.eng.queries) ∧
     (∀ q k, holds q k → q.resumes = true → exec (.latencyBoundExpiry pch) s = .next s) ∧
     (bank < 8192 → does (.perBankRefresh bank) fun t => counted t ∧ assoc t.dram.refreshed bank 0 = s.now ∧
       ∀ k, k ≠ bank → assoc t.dram.refreshed k 0 = assoc s.dram.refreshed k 0) ∧
     (bank < 8192 → 65408 ≤ row → row < 65536 → does (.tableRowRefresh bank row) fun t => counted t ∧
       assoc t.dram.rowActs (bank, row) 0 = 0 ∧
       ∀ k, k ≠ (bank, row) → assoc t.dram.rowActs k 0 = assoc s.dram.rowActs k 0) ∧
     (2048 ≤ assoc s.dram.rowActs (bank, row) 0 → does (.targetedRefresh bank row) fun t => counted t ∧
       (∀ k, assoc t.dram.rowActs k 0 =
         if k.1 = bank ∧ (k.2 = row ∨ k.2 + 1 = row ∨ k.2 = row + 1) then 0 else assoc s.dram.rowActs k 0) ∧
       assoc t.dram.targeted (bank / 1024) 0 = assoc s.dram.targeted (bank / 1024) 0 + 1) ∧
     (burst < 2 ^ 33 →
       exec (.ecsScrub burst .clean) s = .next s ∧
       (does (.ecsScrub burst .corrected) fun t => reportOf t.dram burst = .clean ∧
         assoc t.dram.corrected (pchOf (burst * 64)) 0 = assoc s.dram.corrected (pchOf (burst * 64)) 0 + 1) ∧
       does (.ecsScrub burst .uncorrectable) fun t => reportOf t.dram burst = .uncorrectable ∧
         assoc t.dram.uncorrected (pchOf (burst * 64)) 0 = assoc s.dram.uncorrected (pchOf (burst * 64)) 0 + 1) ∧
     (Config.managementThreshold ≤ assoc s.dram.bankActs bank 0 → does (.refreshManagement bank) fun t => counted t ∧
       assoc t.dram.bankActs bank 0 = 0 ∧ assoc t.dram.refreshed bank 0 = s.now ∧
       ∀ k, k ≠ bank → assoc t.dram.bankActs k 0 = assoc s.dram.bankActs k 0))

/-! ### Control flow and steps -/

/-- R32, R50, R52, R55, R58: a prefix word extends the sequence it stands in and changes nothing else; out
of the order HINT, MOD, IMM, or in the last word of the image, it takes the illegal-instruction trap. Words
that the sequence holds already (R306) are used up one by one. Which word of a bad sequence traps, and the
lane it reports, are the model's readings (log entries 13, 58). -/
def Obligations.PrefixWordsExtendTheSequence : Prop :=
  ∀ (s : State) (g : Group) (p : Path) (w : Word) (br : BitVec 2) (ra rb : Bool) (m : ModWord)
    (hi : BitVec 26), Issuing s g p w →
    let start := if p.pre.rank = 0 then p.pc else p.pre.start
    let on := fun q : Prefix =>
      { p with pc := p.pc + 4, pre := { q with words := p.pre.words.tail }, park := none }
    let ill : TrapOf := { kind := 1, lane := (lowest (wordActive p w)).getD ((lowest p.exec).getD 0), word := w
                          addr := 0, info := 0, after := false }
    (lastWord s g.task p.pc = false →
      (p.pre.rank = 0 → MovesPath (.hint br ra rb) s g p
        (on { p.pre with rank := 1, start := p.pc, hint := w })) ∧
      (p.pre.rank ≤ 1 → MovesPath (.mod m) s g p (on { p.pre with rank := 2, start := start, mod := some m })) ∧
      (p.pre.rank ≤ 2 → MovesPath (.imm hi) s g p (on { p.pre with rank := 3, start := start, hi := some hi }))) ∧
    (lastWord s g.task p.pc = true ∨ 1 ≤ p.pre.rank → Traps (.hint br ra rb) s g p ill) ∧
    (lastWord s g.task p.pc = true ∨ 2 ≤ p.pre.rank → Traps (.mod m) s g p ill) ∧
    (lastWord s g.task p.pc = true ∨ 3 ≤ p.pre.rank → Traps (.imm hi) s g p ill)

/-- R242, R243, R244, R252: branches, jumps, calls and returns: taken when the condition holds in every lane
of the path, fallen through when it holds in none, and otherwise a control trap; a register target outside
the image is an instruction-address trap. `NOP` only goes on. The lane that the control trap of a split
condition reports, and displacements against one worked example, are the model's readings (log entries 48,
49). -/
def Obligations.BranchesFollowAUniformCondition : Prop :=
  ∀ (s : State) (g : Group) (p : Path) (w : Word) (gd : Guard) (d22 : BitVec 22) (d26 : BitVec 26)
    (a imm : BitVec 6), Issuing s g p w →
    let act := activeMask p gd
    let lane := (lowest act).getD ((lowest p.exec).getD 0)
    let mixed : TrapOf := { kind := 6, lane := lane, word := w, addr := 0, info := 0, after := false }
    let reg := fun (i : Instr) (t : Word) =>
      (p.exec &&& ~~~act = 0 → inImage s g.task t = true → MovesPath i s g p (p.at t)) ∧
      (p.exec &&& ~~~act = 0 → inImage s g.task t = false → Traps i s g p
        { kind := 2, lane := lane, word := w, addr := t, info := 0, after := false }) ∧
      (p.exec ≠ 0 → act = 0 → MovesPath i s g p p.past) ∧
      (p.exec &&& ~~~act ≠ 0 → act ≠ 0 → Traps i s g p mixed)
    (p.exec &&& ~~~act = 0 → MovesPath (.bra gd d22) s g p (p.at (p.pc + 4 * d22.signExtend 32))) ∧
    (p.exec ≠ 0 → act = 0 → MovesPath (.bra gd d22) s g p p.past) ∧
    (p.exec &&& ~~~act ≠ 0 → act ≠ 0 → Traps (.bra gd d22) s g p mixed) ∧
    MovesPath (.jmp d26) s g p (p.at (p.pc + 4 * d26.signExtend 32)) ∧
    MovesPath (.call d26) s g p
      ((setSreg p 31 (p.pc + 4)).at (p.pc + 4 * d26.signExtend 32)) ∧
    reg (.jmpr a imm gd) (sreg p a.toNat + imms p imm) ∧ reg (.ret a gd) (sreg p a.toNat) ∧
    MovesPath (.nop gd) s g p p.past

/-- R245: `SPLIT` writes the rejoin mask, and sends the lanes for which the predicate holds to the target:
all of them, none, or in a new path that takes a pool entry or is held. Where the sequence's HINT marks the
target as likely (BR = 1, R55), the new path has the earlier turn, so that it issues first. -/
def Obligations.SplitPartsAPath : Prop :=
  ∀ (s : State) (g : Group) (p : Path) (w : Word) (jk : BitVec 3) (gd : Guard) (disp : BitVec 19),
    Issuing s g p w → (∀ q ∈ g.paths, q.pid < s.fresh) →
    let act := activeMask p gd
    let q := setJmask p jk.toNat p.exec
    let tgt := p.pc + 4 * disp.signExtend 32
    (p.exec &&& ~~~act = 0 → MovesPath (.split jk gd disp) s g p (q.at tgt)) ∧
    (p.exec ≠ 0 → act = 0 → MovesPath (.split jk gd disp) s g p q.past) ∧
    (p.exec &&& ~~~act ≠ 0 → act ≠ 0 → ∃ t g', exec (.split jk gd disp) s = .next t ∧
      findGroup t g.gid = some g' ∧ g'.lanes = g.lanes ∧
      findPath g' p.pid = some { q.past with exec := p.exec &&& ~~~act } ∧
      findPath g' s.fresh = some { q.at tgt with
        pid := s.fresh, exec := act, pace := none
        turn := if p.pre.hint.toNat / 2 ^ 24 % 4 = 1 then 0 else p.turn
        slot := if poolUsed s.groups g.core < 32 then .buffered else .held s.now } ∧
      (∀ id, id ≠ p.pid → id ≠ s.fresh → findPath g' id = findPath g id) ∧
      (∀ id, id ≠ g.gid → findGroup t id = findGroup s id) ∧
      t = { s with groups := t.groups, fresh := s.fresh + 1 })

/-- R246: a `JOIN` whose condition is uniformly true parks its path with the mask while a lane of the mask
is still to come; a lane outside the mask is a control trap, and a false condition goes on. R246: when the
last lanes of the mask come, by a `JOIN` or because an `EXIT` ends them, all the paths parked with the mask
rejoin: one path holds the lanes of all, continues past the `JOIN`, keeps the scalar registers and masks of
the path that holds the lowest lane, and every lane's step is the highest of them. A `REFORM` sets off no
rejoin: in a group with a second path it traps (R250). That lanes which hold no thread never arrive, and the
0 in the predicate bits of lanes that no merged path had, are the model's (log entries 39, 87). -/
def Obligations.JoinsParkAndRejoinMerges : Prop :=
  (∀ (s : State) (g : Group) (p : Path) (w : Word) (jk : BitVec 3) (gd : Guard),
     Issuing s g p w → NoneHeld s g → (g.paths.map (·.pid)).Nodup →
     let act := activeMask p gd
     let m := jmask p jk.toNat
     let q := { p with park := some (.join m) }
     let trap : TrapOf := { kind := 6, lane := (lowest act).getD ((lowest p.exec).getD 0), word := w,
                            addr := 0, info := 0, after := false }
     (p.exec &&& ~~~act = 0 → p.exec &&& ~~~m = 0 →
       (∀ x ∈ (setPath g q).paths, ∀ y, joinMask x = some y → joinReady (setPath g q) y = false) →
       MovesPath (.join jk gd) s g p q) ∧
     (p.exec &&& ~~~act = 0 → p.exec &&& ~~~m ≠ 0 → Traps (.join jk gd) s g p trap) ∧
     (p.exec ≠ 0 → act = 0 → MovesPath (.join jk gd) s g p p.past) ∧
     (p.exec &&& ~~~act ≠ 0 → act ≠ 0 → Traps (.join jk gd) s g p trap)) ∧
  (∀ (s : State) (g : Group) (p : Path) (w : Word) (jk : BitVec 3) (gd : Guard) (m : Mask),
     Issuing s g p w → NoneHeld s g →
     let act := activeMask p gd
     let merged := fun (i : Instr) (h : Group) => ∃ t g', exec i s = .next t ∧ findGroup t g.gid = some g' ∧
       Merges h g' m ∧ (∀ id, id ≠ g.gid → findGroup t id = findGroup s id) ∧
       t = { s with groups := t.groups, tasks := t.tasks, sram := { s.sram with
         owners := t.sram.owners, undo := t.sram.undo, copies := t.sram.copies } }
     (p.exec &&& ~~~act = 0 → p.exec &&& ~~~m = 0 → jmask p jk.toNat = m →
       RejoinDue (setPath g { p with park := some (.join m) }) m →
       merged (.join jk gd) (setPath g { p with park := some (.join m) })) ∧
     (g.handler = none → act ≠ 0 → ∀ h, LanesLeave g p p.past act .exited h → RejoinDue h m → merged (.exit gd) h))

/-- R247: `JMOV` moves a rejoin mask to or from another register of the path's control set, once for the
path and within the group's width; with no active lane nothing happens. Its operands are those of the table,
a mode above 3 is illegal, and `HINT` is accepted before it but neither `MOD` nor `IMM`. -/
def Obligations.JmovMovesMasks : Prop :=
  (∀ (s : State) (g : Group) (p : Path) (w : Word) (d a : BitVec 6) (gd : Guard),
    Issuing s g p w → g.width ≤ 64 →
    let wide := fun m : Mask => m &&& fullMask g.width
    (activeMask p gd = 0 → ∀ mode, MovesPath (.jmov d a mode gd) s g p p.past) ∧
    (activeMask p gd ≠ 0 →
      MovesPath (.jmov d a .jj gd) s g p (setJmask p d.toNat (jmask p a.toNat)).past ∧
      (a.toNat < 7 → MovesPath (.jmov d a .jp gd) s g p
        (setJmask p d.toNat (predOf p (a.setWidth 3))).past) ∧
      MovesPath (.jmov d 7 .jp gd) s g p (setJmask p d.toNat (fullMask g.width)).past ∧
      MovesPath (.jmov d a .sj gd) s g p (setSreg (setSreg p d.toNat
        ((wide (jmask p a.toNat)).extractLsb' 0 32)) (d.toNat + 1)
        ((wide (jmask p a.toNat)).extractLsb' 32 32)).past ∧
      MovesPath (.jmov d a .js gd) s g p (setJmask p d.toNat
        (wide (sreg p (a.toNat + 1) ++ sreg p a.toNat))).past)) ∧
  (∀ (d a : BitVec 6) (mode : JMode) (gd : Guard), (Instr.jmov d a mode gd).wf = true ↔
    match mode with
    | .jj | .jp => d.toNat < 8 ∧ a.toNat < 8
    | .sj => d.toNat < 32 ∧ d.toNat % 2 = 0 ∧ a.toNat < 8
    | .js => d.toNat < 8 ∧ a.toNat < 32 ∧ a.toNat % 2 = 0) ∧
  (∀ x : Word, x.extractLsb' 26 6 = 0x38 → x.extractLsb' 0 4 = 4 → 4 ≤ (x.extractLsb' 8 6).toNat →
    ∃ e, decode x = .error e) ∧
  ∀ (p : Path) (d a : BitVec 6) (mode : JMode) (gd : Guard) (m : ModWord) (h : BitVec 26),
    acceptsMod m (.jmov d a mode gd) = false ∧ acceptsImm h (.jmov d a mode gd) = false ∧
    (p.pre.mod = none → p.pre.hi = none → prefixOk p (.jmov d a mode gd) = true)

/-- R157, R248: `PACE` and `PACEN` advance the steps of the active lanes one at a time, while the windows of
8 and 64 steps above the party and the task frontier allow it, and otherwise stall with the advances left;
`LAG_STALL` makes the advance later. Nothing but those steps and the path changes. In a handler they take
the handler-rule trap (R112), and an advance that a lane's `STEP` cannot hold is a control trap. Under the
guard 0b1111 they have no effect, in a handler too (R34). -/
def Obligations.StepsAdvanceWithinTheWindows : Prop :=
  ∀ (s : State) (g : Group) (p : Path) (w : Word) (imm : BitVec 6) (gd : Guard) (n : Nat) (m : Mask),
    let may := fun m : Mask => ∀ l, m.getLsbD l = true →
      (∀ f, frontier s (.party g.task g.party) = some f → (laneOf g l).step.toNat + 1 ≤ f + 8) ∧
      (∀ f, frontier s (.task g.task) = some f → (laneOf g l).step.toNat + 1 ≤ f + 64)
    let lag := fun (m : Mask) (r : Nat) => { p with park := some (.lag m r), pace := some r }
    let course := fun (i : Instr) (m : Mask) (r : Nat) =>
      (¬ may m → MovesPath i s g p (lag m r)) ∧
      (may m → ∃ t g', exec i s = .next t ∧ StepsOn g g' m ∧
        PathOnly s g p t g' (if r = 1 then { p.past with pace := none } else lag m (r - 1)))
    (Issuing s g p w → g.handler = none → activeMask p gd ≠ 0 →
      (∀ l, (activeMask p gd).getLsbD l = true → (laneOf g l).step.toNat + n < 2 ^ 64) →
      (p.pace = none → n = 1 → course (.pace gd) (activeMask p gd) 1) ∧
      (n = p.pace.getD (immu p imm).toNat → 1 ≤ n → course (.pacen imm gd) (activeMask p gd) n)) ∧
    (Issuing s g p w → gd.inv = true → gd.p = 7 → ∀ i ∈ [.pace gd, .pacen imm gd],
      MovesPath i s g p { p.past with pace := none }) ∧
    (Issuing s g p w → ∀ x ∈ [(Instr.pace gd, p.pace.getD 1), (.pacen imm gd, p.pace.getD (immu p imm).toNat)],
      let trap := fun k : Nat => Traps x.1 s g p
        { kind := k, lane := (lowest (activeMask p gd)).getD ((lowest p.exec).getD 0), word := w, addr := 0, info := 0,
          after := false }
      (g.handler.isSome = true → ¬ (gd.inv = true ∧ gd.p = 7) → trap 4) ∧
      (g.handler = none → x.2 ≠ 0 → ∀ l, (activeMask p gd).getLsbD l = true →
        2 ^ 64 - 1 < (laneOf g l).step.toNat + x.2 → trap 6)) ∧
    (Issuing s g p w → g.handler = none → activeMask p gd = 0 → ∀ i ∈ [.pace gd, .pacen imm gd],
      MovesPath i s g p { p.past with pace := none }) ∧
    (Issuing s g p w → g.handler = none → p.pace.getD (immu p imm).toNat = 0 →
      MovesPath (.pacen imm gd) s g p { p.past with pace := none }) ∧
    (findGroup s g.gid = some g → findPath g p.pid = some p → landsAllowed s g.task = true →
      p.park = some (.lag m n) → heldSince p = none → 1 ≤ n → may m → ∃ t g', exec (.lagStall g.gid p.pid) s = .next t ∧
        StepsOn g g' m ∧
        PathOnly s g p t g' (if n = 1 then { p.past with pace := none } else lag m (n - 1)))

/-- R124, R252: `EXIT` ends the active lanes of a task's group and `HEND` those of a handler group: lanes
left over go on past the word, and a group whose last lane ends is gone; a thread that exits leaves its line
for a stop report (R277). Of the rest of the machine only the owner tags of the task, with what stands for
its granules, and task records may change, and those only for `EXIT`. An `EXIT` in a handler group and a
`HEND` of active lanes in a task's group take the handler-rule trap; with no lane active, in its own kind of
group, either has no effect. Under the guard 0b1111 both have no effect, in any group (R34). -/
def Obligations.ExitEndsTheActiveLanes : Prop :=
  (∀ (s : State) (g : Group) (p : Path) (w : Word) (gd : Guard), Issuing s g p w → gd.inv = true → gd.p = 7 →
    MovesPath (.exit gd) s g p p.past ∧ MovesPath (.hend gd) s g p p.past) ∧
  (∀ (s : State) (g : Group) (p : Path) (w : Word) (gd : Guard), Issuing s g p w →
    let trap : TrapOf := { kind := 4, lane := (lowest (activeMask p gd)).getD ((lowest p.exec).getD 0), word := w,
                           addr := 0, info := 0, after := false }
    (g.handler.isSome = true → ¬ (gd.inv = true ∧ gd.p = 7) → Traps (.exit gd) s g p trap) ∧
    (g.handler = none → activeMask p gd ≠ 0 → Traps (.hend gd) s g p trap) ∧
    (activeMask p gd = 0 → MovesPath (.hend gd) s g p p.past ∧
      (g.handler = none → MovesPath (.exit gd) s g p p.past))) ∧
  ∀ (s : State) (g : Group) (p : Path) (w : Word) (gd : Guard) (handler : Bool),
    Issuing s g p w → NoneHeld s g → g.handler.isSome = handler → (g.paths.map (·.pid)).Nodup →
    activeMask p gd ≠ 0 →
    let act := activeMask p gd
    let i : Instr := if handler then .hend gd else .exit gd
    (∀ h, LanesLeave g p p.past act .exited h → ∀ x ∈ h.paths, ∀ m, joinMask x = some m → ¬ Arrived h m) →
    ∃ t, exec i s = .next t ∧
      (act ≠ p.exec → ∃ g', findGroup t g.gid = some g' ∧
        findPath g' p.pid = some { p.past with exec := p.exec &&& ~~~act } ∧
        (∀ id, id ≠ p.pid → findPath g' id = findPath g id) ∧
        ∀ l, l < g.lanes.length → laneOf g' l =
          if act.getLsbD l then { laneOf g l with state := .exited } else laneOf g l) ∧
      (act = p.exec → g.paths = [p] → findGroup t g.gid = none) ∧
      (act = p.exec → g.paths ≠ [p] → ∃ g', findGroup t g.gid = some g' ∧
        g'.paths.map Path.unplaced = (g.paths.filter fun x => decide (x.pid ≠ p.pid)).map Path.unplaced ∧
        ∀ l, l < g.lanes.length → laneOf g' l =
          if act.getLsbD l then { laneOf g l with state := .exited } else laneOf g l) ∧
      (∀ id, id ≠ g.gid → findGroup t id = findGroup s id) ∧
      (∀ k, handler = false → findTask s g.task = some k → ∃ k', findTask t g.task = some k' ∧
        k'.exited = k.exited ++ (lanesOf act).map fun l => { tid := (laneOf g l).tid, step := (laneOf g l).step, tin := (laneOf g l).tin, pc := if p.pre.rank = 0 then p.pc else p.pre.start, bc0 := 0, tag := 0 }) ∧
      t = { s with groups := t.groups, tasks := t.tasks, sram := { s.sram with
        owners := t.sram.owners, undo := t.sram.undo, copies := t.sram.copies } } ∧
      (handler = true → t.tasks = s.tasks ∧ t.sram = s.sram)

/-- R250: `REFORM` files the active lanes of an undiverged group into bins by their next program counter,
when every target lies in the image and the bins have room; the lanes filed leave their path, and lanes that
find neither a bin of their key with room nor a free one wait in it at the `REFORM`. In a handler group it
takes the handler-rule trap, in a group of more than one path the control trap, and with a target outside
the image the instruction-address trap of the lowest such lane. Under the guard 0b1111 it has no effect, in
any group (R34). -/
def Obligations.ReformFilesTheActiveLanes : Prop :=
  (∀ (s : State) (g : Group) (p : Path) (w : Word) (a : BitVec 6) (gd : Guard), Issuing s g p w → gd.inv = true →
    gd.p = 7 → MovesPath (.reform a gd) s g p p.past ∧ MovesPath (.reformNext gd) s g p p.past) ∧
  ∀ (s : State) (g : Group) (p : Path) (w : Word) (a : BitVec 6) (gd : Guard) (next : Bool), Issuing s g p w →
    let act := activeMask p gd
    let tgt := fun l => if next then p.pc + 4 else laneReg g l a.toNat
    let i : Instr := if next then .reformNext gd else .reform a gd
    let trap := fun (k lane : Nat) (x : Word) => Traps i s g p
      { kind := k, lane := lane, word := w, addr := x, info := 0, after := false }
    let lane := (lowest act).getD ((lowest p.exec).getD 0)
    let files := fun (m : Mask) (t : State) =>
      (∀ l, m.getLsbD l = true → ∃ b ∈ t.eng.bins, b.core = g.core ∧
        b.key = .reform g.task g.party (tgt l) ∧ laneOf g l ∈ b.threads) ∧
      (∀ id, id ≠ g.gid → findGroup t id = findGroup s id) ∧
      t = { s with groups := t.groups, eng := { s.eng with bins := t.eng.bins } }
    let stays := fun (q : Path) (m : Mask) (t : State) => ∃ g', findGroup t g.gid = some g' ∧
      findPath g' p.pid = some { q with exec := p.exec &&& ~~~m } ∧
      ∀ l, l < g.lanes.length → laneOf g' l =
        if m.getLsbD l then { laneOf g l with state := .filed } else laneOf g l
    (g.handler.isSome = true → ¬ (gd.inv = true ∧ gd.p = 7) → trap 4 lane 0) ∧
    (g.handler = none → ¬ (gd.inv = true ∧ gd.p = 7) → 1 < g.paths.length → trap 6 lane 0) ∧
    (g.handler = none → g.paths = [p] → act = 0 → MovesPath i s g p p.past) ∧
    (g.handler = none → g.paths = [p] → ∀ l, act.getLsbD l = true → inImage s g.task (tgt l) = false →
      (∀ k, k < l → act.getLsbD k = true → inImage s g.task (tgt k) = true) → trap 2 l (tgt l)) ∧
    (NoneHeld s g → g.handler = none → g.paths = [p] → act ≠ 0 →
      (∀ k, findTask s g.task = some k → 0 < k.decl.width) → 0 < g.width →
      (∀ l, act.getLsbD l = true → inImage s g.task (tgt l) = true) →
      ((s.eng.bins.filter fun b => decide (b.core = g.core)).length + (lanesOf act).length ≤ 16 →
        ∃ t, exec i s = .next t ∧ files act t ∧ (act = p.exec → findGroup t g.gid = none) ∧
          (act ≠ p.exec → stays p.past act t)) ∧
      (∀ m : Mask, (∀ k, k < 16 → ∃ b ∈ s.eng.bins, b.core = g.core ∧ b.slot = k) →
        let width := (findTask s g.task).elim g.width (·.decl.width)
        let mine := fun (b : Bin) (l : Nat) => b.core = g.core ∧ b.key = .reform g.task g.party (tgt l)
        (∀ l, m.getLsbD l = true → act.getLsbD l = true ∧
          ∃ b ∈ s.eng.bins, mine b l ∧ b.threads.length + (lanesOf act).length ≤ width) →
        (∀ l, act.getLsbD l = true → m.getLsbD l = false →
          ∀ b ∈ s.eng.bins, mine b l → width ≤ b.threads.length) → m ≠ act →
        ∃ t, exec i s = .next t ∧ files m t ∧ stays { p with park := some .issue } m t))

/-! ### Traps and special registers -/

/-- R276, R278: a synchronous trap of a task's group whose lanes are not in the trap handler enters it:
every lane of the path, active or not, records the trap and sets `TIN`, the path goes to the `TVEC` of the
reported lane with its prefixes discarded, `FREC` records the trap, and nothing else changes. R276, R277,
R278: a trap in a handler group, a second trap of a lane in the trap handler, and a trap of a task that has
no trap handler tell the task to stop, with kind 0x0C for the second trap; `FREC` records it with the step,
`TID` and information of the reported lane, the kind of a second trap, or a handler's request: its step, TAG
and `bc0`. No register, path or byte of memory changes. -/
def Obligations.TrapsEnterTheHandlerOrStopTheTask : Prop :=
  (∀ (s : State) (g : Group) (p : Path) (w : Word) (x : TrapOf) (k : Task),
     Issuing s g p w → g.handler = none → findTask s g.task = some k → k.stop = none →
     (∀ l, p.exec.getLsbD l = true → (laneOf g l).tin = false) → (laneOf g x.lane).tvec ≠ 0 →
     let t := takeTrap s g p x
     let first := if p.pre.rank = 0 then p.pc else p.pre.start
     (∃ g', findGroup t g.gid = some g' ∧ findPath g' p.pid = some (p.at (laneOf g x.lane).tvec) ∧
       (∀ id, id ≠ p.pid → findPath g' id = findPath g id) ∧
       ∀ l, l < g.lanes.length → laneOf g' l = if p.exec.getLsbD l then
         { laneOf g l with
           tkind := BitVec.ofNat 32 x.kind, tpc := first, tword := x.word, taddr := x.addr,
           tinfo := x.info, tlane := BitVec.ofNat 32 x.lane,
           tret := if x.after then p.pc + 4 else first, tin := true }
         else laneOf g l) ∧
     (∀ id, id ≠ g.gid → findGroup t id = findGroup s id) ∧
     findTask t g.task = some { k with frec :=
       { kind := BitVec.ofNat 32 x.kind, step := (laneOf g x.lane).step, addr := x.addr, rule := 0,
         count := x.info, tid0 := (laneOf g x.lane).tid, tid1 := 0xFFFFFFFF, pc := first } } ∧
     (∀ id, id ≠ g.task → findTask t id = findTask s id) ∧
     t = { s with groups := t.groups, tasks := t.tasks }) ∧
  (∀ (s : State) (g : Group) (p : Path) (w : Word) (x : TrapOf) (k : Task),
     Issuing s g p w → findTask s g.task = some k → k.stop = none →
     let t := takeTrap s g p x
     let inside := ∃ l, p.exec.getLsbD l = true ∧ (laneOf g l).tin = true
     let first := if p.pre.rank = 0 then p.pc else p.pre.start
     (g.handler.isSome = true ∨ inside ∨ (laneOf g x.lane).tvec = 0) →
     (∀ kd : Nat, (g.handler = none ∧ inside → kd = 0x0C) → (¬ (g.handler = none ∧ inside) → kd = x.kind) →
       ∃ f : Frec, findTask t g.task = some { k with stop := some kd, frec := f } ∧
         f.kind = BitVec.ofNat 32 kd ∧ f.pc = first ∧ f.addr = x.addr ∧ f.rule = 0 ∧ f.tid1 = 0xFFFFFFFF ∧
         (g.handler = none → f.step = (laneOf g x.lane).step ∧ f.tid0 = (laneOf g x.lane).tid ∧
           (inside → f.count = BitVec.ofNat 32 x.kind) ∧ (¬ inside → f.count = x.info)) ∧
         ∀ id b, g.handler = some id → findBulk s id = some b → f.step = BitVec.ofNat 64 (b.head.step + 1) ∧
           f.tid0 = (laneOf g x.lane).bc[0] ∧ f.count = BitVec.ofNat 32 b.tag) ∧
     (∀ id, id ≠ g.task → findTask t id = findTask s id) ∧ t = { s with tasks := t.tasks })

/-- R290: `TRAP` and `BKPT` trap with their code and go on after the sequence; with no active lane they do
nothing; a `BKPT` under debug holds the task and has it saved, the path going on after it. How a held task
goes on is the model's reading (log entry 54). -/
def Obligations.TrapAndBreakpointReportTheirCodes : Prop :=
  ∀ (s : State) (g : Group) (p : Path) (w : Word) (imm : BitVec 6) (gd : Guard) (l : Nat),
    Issuing s g p w →
    let act := activeMask p gd
    let x := fun (kind : Nat) (code : Word) =>
      ({ kind := kind, lane := l, word := w, addr := 0, info := code, after := true } : TrapOf)
    (act = 0 → MovesPath (.trap imm gd) s g p p.past ∧ MovesPath (.bkpt imm gd) s g p p.past) ∧
    (lowest act = some l → Traps (.trap imm gd) s g p (x 9 (immu p imm))) ∧
    (lowest act = some l → (debugOn s g.task = false ∨ g.handler.isSome = true) →
      Traps (.bkpt imm gd) s g p (x 10 (imm.zeroExtend 32))) ∧
    (lowest act = some l → debugOn s g.task = true → g.handler = none →
      ∃ t g', exec (.bkpt imm gd) s = .next t ∧
        PathOnly s g p { t with tasks := s.tasks } g' p.past ∧ g'.lanes = g.lanes ∧
        (∀ k, findTask s g.task = some k →
          findTask t g.task = some { k with held := true, saving := true }) ∧
        ∀ id, id ≠ g.task → findTask t id = findTask s id)

/-- R289: `RTE` of a path whose lanes are all active, all in the trap handler, and agree on `TRET` returns
there, clears `TIN` and changes nothing else. With no active lane it does nothing; in a handler group it is
a handler-rule trap; an active lane beside an inactive one, a lane outside the handler or unequal `TRET` are
a control trap. Its operand fields are reserved, and neither `MOD` nor `IMM` is accepted before it. -/
def Obligations.ReturnFromTheTrapHandler : Prop :=
  (∀ (s : State) (g : Group) (p : Path) (w : Word) (gd : Guard) (a : Word) (l e : Nat),
    Issuing s g p w → lowest p.exec = some l →
    let act := activeMask p gd
    let trap := fun k : Nat => ({ kind := k, lane := e, word := w, addr := 0, info := 0, after := false } : TrapOf)
    (act = 0 → MovesPath (.rte gd) s g p p.past) ∧
    (lowest act = some e → g.handler.isSome = true → Traps (.rte gd) s g p (trap 4)) ∧
    (act = p.exec → g.handler = none →
      (∀ k, p.exec.getLsbD k = true → (laneOf g k).tin = true ∧ (laneOf g k).tret = a) →
      ∃ t g', exec (.rte gd) s = .next t ∧ PathOnly s g p t g' (p.at a) ∧
        ∀ k, k < g.lanes.length → laneOf g' k =
          if p.exec.getLsbD k then { laneOf g k with tin := false } else laneOf g k) ∧
    (lowest act = some e → g.handler = none → (act ≠ p.exec ∨ ∃ k, p.exec.getLsbD k = true ∧
        ((laneOf g k).tin = false ∨ (laneOf g k).tret ≠ (laneOf g l).tret)) →
      Traps (.rte gd) s g p (trap 6))) ∧
  (∀ x : Word, x.extractLsb' 26 6 = 0x3A → x.extractLsb' 0 4 = 2 → x.extractLsb' 8 18 ≠ 0 →
    decode x = .error .reserved) ∧
  ∀ (p : Path) (gd : Guard) (m : ModWord) (h : BitVec 26),
    acceptsMod m (.rte gd) = false ∧ acceptsImm h (.rte gd) = false ∧
    (p.pre.mod = none → p.pre.hi = none → prefixOk p (.rte gd) = true)

/-- R275, R288: `SRD` writes the value that the numbered special register has for each active lane. R275,
R288, R186, R78: `SWR` writes `FLAGS`, `QSTAT`, `TVEC` and `TRET` of the active lanes, reserved bits
ignored; an address outside the image, but for a zero in `TVEC`, is refused before any lane writes, and
`SWR` in a handler takes the handler-rule trap. That a word with no active lane has no effect, in a handler
too, is the model's reading (log entry 37). -/
def Obligations.SpecialRegistersAreReadAndWritten : Prop :=
  (∀ (s : State) (g : Group) (p : Path) (w : Word) (d n : BitVec 6) (gd : Guard) (k : Task),
     Issuing s g p w → findTask s g.task = some k →
     let rd := fun (n : BitVec 6) (v : Nat → Word) => WritesWord (.srd d n gd) s g p d gd false v
     let x := fun l => laneOf g l
     rd 0x00 (fun l => (x l).step.extractLsb' 0 32) ∧ rd 0x01 (fun l => (x l).step.extractLsb' 32 32) ∧
     rd 0x02 (fun l => (x l).tid) ∧ rd 0x03 (fun _ => BitVec.ofNat 32 g.party) ∧
     rd 0x04 (fun _ => BitVec.ofNat 32 k.handle) ∧ rd 0x05 (fun l => BitVec.ofNat 32 l) ∧
     rd 0x06 (fun _ => BitVec.ofNat 32 g.width) ∧ rd 0x07 (fun _ => BitVec.ofNat 32 (g.core % 64)) ∧
     rd 0x08 (fun _ => BitVec.ofNat 32 (g.core / 64)) ∧ rd 0x09 (fun l => (x l).flags) ∧
     rd 0x0A (fun l => (x l).qstat) ∧ rd 0x10 (fun l => (x l).bc[0]) ∧ rd 0x11 (fun l => (x l).bc[1]) ∧
     rd 0x12 (fun l => (x l).bc[2]) ∧ rd 0x13 (fun l => (x l).bc[3]) ∧
     rd 0x20 (fun _ => k.frec.kind) ∧ rd 0x21 (fun _ => k.frec.step.extractLsb' 0 32) ∧
     rd 0x22 (fun _ => k.frec.step.extractLsb' 32 32) ∧ rd 0x23 (fun _ => k.frec.addr) ∧
     rd 0x24 (fun _ => k.frec.rule) ∧ rd 0x25 (fun _ => k.frec.count) ∧
     rd 0x26 (fun _ => k.frec.tid0) ∧ rd 0x27 (fun _ => k.frec.tid1) ∧ rd 0x28 (fun _ => k.frec.pc) ∧
     rd 0x30 (fun l => (x l).tvec) ∧ rd 0x31 (fun l => (x l).tret) ∧ rd 0x32 (fun l => (x l).tkind) ∧
     rd 0x33 (fun l => (x l).tpc) ∧ rd 0x34 (fun l => (x l).tword) ∧ rd 0x35 (fun l => (x l).taddr) ∧
     rd 0x36 (fun l => (x l).tinfo) ∧ rd 0x37 (fun l => (x l).tlane) ∧
     rd 0x38 (fun l => if (x l).tin then 1 else 0)) ∧
  (∀ (s : State) (g : Group) (p : Path) (w : Word) (d : BitVec 6) (gd : Guard) (l : Nat),
     Issuing s g p w →
     let act := activeMask p gd
     let v := fun l => laneReg g l d.toNat
     let ok := fun x => inImage s g.task x = true
     let wr := fun (n : BitVec 6) (f : Nat → Thread → Thread) => ∃ t g', exec (.swr d n gd) s = .next t ∧
       PathOnly s g p t g' p.past ∧ ∀ l, l < g.lanes.length →
         laneOf g' l = if act.getLsbD l then f l (laneOf g l) else laneOf g l
     (act = 0 → ∀ n, MovesPath (.swr d n gd) s g p p.past) ∧
     (g.handler = none → wr 0x09 (fun l t => { t with flags := v l &&& 0x0000001F }) ∧
       wr 0x0A (fun l t => { t with qstat := v l &&& 0x00FFFFC7 }) ∧
       ((∀ l, act.getLsbD l = true → v l = 0 ∨ ok (v l)) → wr 0x30 (fun l t => { t with tvec := v l })) ∧
       ((∀ l, act.getLsbD l = true → ok (v l)) → wr 0x31 (fun l t => { t with tret := v l })) ∧
       (act.getLsbD l = true → v l ≠ 0 → ¬ ok (v l) → (∀ k, k < l → act.getLsbD k = true → v k = 0 ∨ ok (v k)) →
         Traps (.swr d 0x30 gd) s g p
           { kind := 2, lane := l, word := w, addr := v l, info := 0, after := false }) ∧
       (act.getLsbD l = true → ¬ ok (v l) → (∀ k, k < l → act.getLsbD k = true → ok (v k)) →
         Traps (.swr d 0x31 gd) s g p
           { kind := 2, lane := l, word := w, addr := v l, info := 0, after := false })) ∧
     (g.handler.isSome = true → lowest act = some l → ∀ n, Traps (.swr d n gd) s g p
       { kind := 4, lane := l, word := w, addr := 0, info := 0, after := false }))

/-- R291, R306: `ICINV` drops the words of the task's code instance from the code caches of every tract and
of its cores; a path in the middle of a sequence of that instance keeps the words that it has (at most the
three that its sequence may still need); it changes no register, no step and no byte of memory. With no
active lane it does nothing, and in a handler thread it is a handler-rule trap. Its operand fields are
reserved, and neither `MOD` nor `IMM` is accepted before it. The tracts beyond those with a party of the
task, and the three words, are the model's choice (log entry 117). -/
def Obligations.IcinvDropsTheCachedCode : Prop :=
  (∀ (s : State) (g : Group) (p : Path) (w : Word) (gd : Guard) (k : Task) (l : Nat),
    Issuing s g p w → findTask s g.task = some k →
    (activeMask p gd = 0 → MovesPath (.icinv gd) s g p p.past) ∧
    (lowest (activeMask p gd) = some l → g.handler.isSome = true → Traps (.icinv gd) s g p
      { kind := 4, lane := l, word := w, addr := 0, info := 0, after := false }) ∧
    (activeMask p gd ≠ 0 → g.handler = none → ∃ t, exec (.icinv gd) s = .next t ∧
      (∀ id h, findGroup s id = some h → ∃ h', findGroup t id = some h' ∧ h' = { h with paths := h'.paths } ∧
        ∀ pid q, findPath h pid = some q → ∃ q', findPath h' pid = some q' ∧
          if id = g.gid ∧ pid = p.pid then q' = p.past
          else q' = { q with pre := { q.pre with words := q'.pre.words } } ∧
            q'.pre.words = if q.pre.rank ≠ 0 ∧ q.pre.words = [] ∧
                (findTask s h.task).bind (·.inst) = some (k.inst.getD 0)
              then (List.range 3).map fun j => fetchWord s h.core h.task (q.pc + BitVec.ofNat 32 (4 * j))
              else q.pre.words) ∧
      t = { s with groups := t.groups, codeCache := t.codeCache, tractCode := t.tractCode } ∧
      (∀ c, c ∈ t.codeCache ↔ c ∈ s.codeCache ∧ c.1.2.1 ≠ k.inst.getD 0) ∧
      ∀ c, c ∈ t.tractCode ↔ c ∈ s.tractCode ∧ c.1.2.1 ≠ k.inst.getD 0)) ∧
  (∀ x : Word, x.extractLsb' 26 6 = 0x3A → x.extractLsb' 0 4 = 3 → x.extractLsb' 8 18 ≠ 0 →
    decode x = .error .reserved) ∧
  ∀ (p : Path) (gd : Guard) (m : ModWord) (h : BitVec 26),
    acceptsMod m (.icinv gd) = false ∧ acceptsImm h (.icinv gd) = false ∧
    (p.pre.mod = none → p.pre.hi = none → prefixOk p (.icinv gd) = true)

/-! ### Engines -/

/-- R92 to R97, R103: a `COPY` whose block the elected lane can read, or a `CPYS` whose block stands in
scalar registers, that keeps every field rule, names ranges its threads may address and finds the core with
fewer than 64 copies, becomes an outstanding copy of its block's fields, issued in the lane's step; an
inbound copy marks its destination lines to become absent; no byte is written and the path goes on. With 64
copies outstanding, or a block or an index list that cannot be read yet, it waits; with no active lane it
does nothing; one that breaks a rule, or stands in a handler, takes the engine-request trap; and a
misaligned block, or a block or a named range outside its space, takes the memory-address trap (R140). R104
to R107, R115, R123: a `BRD` or `BRDI` whose block the elected lane can read, that keeps every field rule,
declares its handlers, clashes with no window and finds the core with fewer than 16 bulk reads, becomes an
outstanding bulk read whose window lines are to become absent, with the bursts and coordinates that its
block and its indices give, an index out of range being a failure of each of its bursts; no byte is written
and the path goes on. With 16 outstanding, or a block or an index list that cannot be read yet, it waits;
with no active lane it does nothing; one that breaks a rule, or stands in a handler, takes the
engine-request trap; and a misaligned block, or a block or a named range outside its space, takes the
memory-address trap (R140). Bit 2 of TINFO for a named range is the model's reading (log entry 30). -/
def Obligations.CopiesAndBulkReadsStartFromTheirBlocks : Prop :=
  (∀ (s : State) (g : Group) (p : Path) (w : Word) (a imm : BitVec 6) (gd : Guard) (sp : Space)
     (scalar : Bool) (bs ls : List Byte),
     Issuing s g p w →
     let i : Instr := if scalar then .cpys a gd else .copy a imm gd sp
     (activeMask p gd = 0 → MovesPath i s g p p.past) ∧
     ∀ l, lowest (activeMask p gd) = some l →
     let ea := opA g p false a l + imms p imm
     let ws := if scalar then (List.range 8).map fun k => (sreg p (a.toNat + k)).toNat else wordsOf bs
     let q := copyReqOf ws
     let bad : TrapOf := { kind := 5, lane := l, word := w, addr := if scalar then 0 else ea,
                           info := if scalar then 1 else 0, after := false }
     let near := absoluteOf s g q.nsp q.near
     let named := [⟨q.nsp, q.near, q.nearLen⟩] ++ (if q.nocnt then [] else [⟨q.csp, q.cnt, 4⟩]) ++
       (if q.indexed then [⟨q.isp, q.idx, q.listLen⟩] else [])
     (g.handler.isSome = true → Traps i s g p bad) ∧
     (g.handler = none → scalar = false → BlockCourse i s g p w l sp ea.toNat 32 32) ∧
     (g.handler = none → (scalar = false → ReadableBlock s g l sp ea.toNat 32 32 bs) →
       (q.ok = false ∨ q.cntInside s g = true → Traps i s g p bad) ∧
       (q.ok = true → q.cntInside s g = false → NamedTraps i s g p w l named) ∧
       (q.ok = true → q.cntInside s g = false → firstFailing s g named = none → q.indexed = true →
         BlockCourse i s g p w l q.isp q.idx 1 q.listLen) ∧
       (q.ok = true → q.cntInside s g = false → firstFailing s g named = none →
         (q.indexed = true → ReadableBlock s g l q.isp q.idx 1 q.listLen ls) →
         (64 ≤ (s.eng.copies.filter fun c => decide (c.head.core = g.core)).length →
           MovesPath i s g p { p with park := some .issue }) ∧
         ((s.eng.copies.filter fun c => decide (c.head.core = g.core)).length < 64 →
           ∃ t c, exec i s = .next t ∧ GoesOn s g p p.past t ∧
             t.eng.copies = s.eng.copies ++ [c] ∧
             c.head = { id := s.fresh, task := g.task, party := g.party, core := g.core,
                        step := (laneOf g l).step.toNat, tid := (laneOf g l).tid,
                        pc := if p.pre.rank = 0 then p.pc else p.pre.start } ∧
             c.far = ws.getD 0 0 + 2 ^ 32 * ws.getD 1 0 ∧ c.near = near ∧ c.len = q.nearLen ∧
             c.outbound = decide (ws.getD 5 0 / 4 % 2 = 1) ∧ c.conv = ws.getD 5 0 / 32 % 8 ∧
             c.fill = BitVec.ofNat 8 (ws.getD 5 0 / 2 ^ 16) ∧
             c.cnt = (if ws.getD 5 0 / 2 ^ 14 % 2 = 1 then none else some (absoluteOf s g q.csp q.cnt)) ∧
             c.idx = (if q.indexed then indexList q.ixw ls else []) ∧ c.bursts = q.bursts c.idx ∧
             c.indexed = decide (ws.getD 5 0 % 4 = 1) ∧ c.swz = ws.getD 5 0 / 2 ^ 8 % 8 ∧
             c.first = ws.getD 7 0 / 2 ^ 16 % 256 ∧ c.rlen = ws.getD 7 0 / 2 ^ 8 % 256 ∧ c.begun = false ∧ c.nearData = none ∧
             (∀ line, line ∈ c.lines ↔ c.outbound = false ∧ line ∈ linesOf near q.nearLen) ∧
             (c.outbound = true → t.sram = s.sram) ∧
             (∀ k, k ∈ t.sram.clears ↔ k ∈ s.sram.clears ∨ (k.line ∈ c.lines ∧ k.req = s.fresh ∧
               k.step = c.head.step ∧ k.landed = false ∧ domainOf s (k.line * 128) = some k.dom)) ∧
             t = { s with
               fresh := s.fresh + 1, groups := t.groups, eng := { s.eng with copies := t.eng.copies }
               sram := { s.sram with clears := t.sram.clears } })))) ∧
  (∀ (s : State) (g : Group) (p : Path) (w : Word) (a imm : BitVec 6) (gd : Guard) (sp : Space)
     (indexed : Bool) (bs ls : List Byte) (k : Task),
     Issuing s g p w → findTask s g.task = some k →
     let i : Instr := if indexed then .brdi a imm gd sp else .brd a imm gd sp
     (activeMask p gd = 0 → MovesPath i s g p p.past) ∧
     ∀ l, lowest (activeMask p gd) = some l →
     let ea := opA g p false a l + imms p imm
     let ws := wordsOf bs
     let q := bulkReqOf indexed ws
     let bad : TrapOf := { kind := 5, lane := l, word := w, addr := ea, info := if indexed then 3 else 2,
                           after := false }
     let win := absoluteOf s g q.wsp q.win
     let good := q.commonOk = true ∧ (if indexed then q.indexedOk else q.contiguousOk) = true ∧
       q.handlersOk k = true ∧ q.clash s g = false
     let named := [⟨q.wsp, q.win, q.winLen⟩] ++ (if q.nocnt then [] else [⟨q.csp, q.cnt, 4⟩]) ++
       (if indexed then [⟨q.isp, q.idx, q.listLen⟩] else [])
     let core := s.eng.bulks.filter fun b => decide (b.head.core = g.core)
     let far := ws.getD 0 0 + 2 ^ 32 * ws.getD 1 0
     let burst := fun y : Burst => (y.va, y.coord, y.state)
     (g.handler.isSome = true → Traps i s g p bad) ∧
     (g.handler = none → BlockCourse i s g p w l sp ea.toNat 64 64) ∧
     (g.handler = none → ReadableBlock s g l sp ea.toNat 64 64 bs →
       (¬ good → Traps i s g p bad) ∧
       (good → NamedTraps i s g p w l named) ∧
       (good → firstFailing s g named = none → indexed = true → BlockCourse i s g p w l q.isp q.idx 1 q.listLen) ∧
       (good → firstFailing s g named = none →
         (indexed = true → ReadableBlock s g l q.isp q.idx 1 q.listLen ls) →
         (16 ≤ core.length → MovesPath i s g p { p with park := some .issue }) ∧
         (core.length < 16 → ∃ t b, exec i s = .next t ∧ GoesOn s g p p.past t ∧
             t.eng.bulks = s.eng.bulks ++ [b] ∧
             b.head = { id := s.fresh, task := g.task, party := g.party, core := g.core,
                        step := (laneOf g l).step.toNat, tid := (laneOf g l).tid,
                        pc := if p.pre.rank = 0 then p.pc else p.pre.start } ∧
             b.win = win ∧ b.winLines = ws.getD 3 0 / 2 ^ 16 % 2 ^ 16 ∧ b.hnd = ws.getD 5 0 / 2 ^ 24 % 16 ∧
             b.tag = ws.getD 5 0 / 2 ^ 16 % 256 ∧
             b.chnd = (if ws.getD 5 0 / 2 ^ 15 % 2 = 1 then some (ws.getD 5 0 / 2 ^ 28 % 16) else none) ∧
             b.cnt = (if ws.getD 5 0 / 2 ^ 14 % 2 = 1 then none else some (absoluteOf s g q.csp q.cnt)) ∧
             b.params = (List.range 8).map (fun j => BitVec.ofNat 32 (ws.getD (8 + j) 0)) ∧
             b.total = (if indexed then ws.getD 3 0 / 2 ^ 8 % 256 * (ws.getD 3 0 % 256) else ws.getD 6 0) ∧
             b.bursts.length = b.total ∧
             (∀ n, indexed = false → n < ws.getD 6 0 → (b.bursts[n]?).map burst = some ((far + 64 * n) % 2 ^ 64, (n, 64 * n, 0), .todo)) ∧
             (∀ m j, indexed = true → m < ws.getD 3 0 / 2 ^ 8 % 256 → j < ws.getD 3 0 % 256 →
               let z := if ws.getD 5 0 / 2 ^ 11 % 2 = 1 then 2 else 4
               let rlen := ws.getD 3 0 % 256
               let index := natOfBytes ((ls.drop (z * m)).take z)
               (b.bursts[m * rlen + j]?).map burst = some ((far + (index * rlen + j) * 64) % 2 ^ 64, (m * rlen + j, m, index),
                 if index < ws.getD 6 0 then .todo else .failed (0x80 + m))) ∧
             b.born = 0 ∧ b.landed = false ∧
             (∀ c, c ∈ t.sram.clears ↔ c ∈ s.sram.clears ∨ (c.line ∈ linesOf win q.winLen ∧
               c.req = s.fresh ∧ c.step = b.head.step ∧ c.landed = false ∧
               domainOf s (c.line * 128) = some c.dom)) ∧
             t = { s with
               fresh := s.fresh + 1, groups := t.groups, eng := { s.eng with bulks := t.eng.bulks }
               sram := { s.sram with clears := t.sram.clears } }))))

/-- R61, R67, R73 to R75: where table bytes stand. A byte of table k of a task with block b lies, for a
core, in the pseudo-channel of the core's home quadrant that bears its number, in bank k, from row 65,408 +
16b upward, 1,024 bytes to a row. Staging that is complete puts each image there for every core of every
tract with a party, one activation for each of its rows, and leaves every other byte of the table rows. R76
to R80, R83: `TQ` and `TQB` capture the index words of the active lanes in a query, and wait while sixteen
queries of the core are outstanding. Queries of a core start in their order of arrival, and those to one
bank are served one after another. A query opens each distinct row that its in-range indices lie in once, in
ascending order, one row at an event, and lets normal requests whose bound has expired go first (R70); its
last row read, it writes, for each of those lanes, the entries of its in-range indices and zero for the
others, raw bytes packed low to high with zero above for `TQ` and one widened entry a register for `TQB`. A
lane whose indices are all in range keeps its `QSTAT`; an undeclared table sets bit 1, a size mismatch bit
2, and the first index out of range bit 0 with FIX and FPOS, where bit 0 was clear. An uncorrectable burst
stops the task and writes nothing. No other register and no byte of memory changes. The order of two
queries, which lane of several a bad burst is charged to, and which queries yield to a bound, are the
model's (log entries 60, 74, 106). -/
def Obligations.QueriesReturnTheirEntries : Prop :=
  ((∀ core b tbl o : Nat, core < 512 → b < 8 → tbl < 16 → o < 16384 →
     let quad := core % 64 / 16
     let a := tableDpa core b tbl o
     a / 2 ^ 23 = 65408 + 16 * b + o / 1024 ∧ a / 2 ^ 21 % 4 * 256 + a % 256 = o % 1024 ∧
     a / 2 ^ 8 % 8 = (core / 64 + 8 - 2 * quad) % 8 ∧ a / 2 ^ 11 % 4 = quad ∧ a / 2 ^ 13 % 16 = core % 16 ∧
     a / 2 ^ 17 % 4 = tbl / 4 ∧ a / 2 ^ 19 % 4 = tbl % 4) ∧
   ∀ (s : State) (k : Task) (b : Nat), findTask s k.uid = some k → k.state = .admitted → k.stop = none → k.block = some b →
     b < 8 → xfersDone s k = true → (∀ x ∈ k.xfers, xferFailed x = false) → Memory.wf s.dram.tableRows = true →
     (∀ x ∈ k.places, x.core < 512) →
     let table := fun (j : Nat) (r : Region) => k.decl.regions[j]? = some r ∧ r.kind = .table
     let placed := fun core : Nat => core < 512 ∧ ∃ x ∈ k.places, x.core / 64 = core / 64
     (∀ j r, table j r → r.tbl < 16 ∧ r.size ≤ 16384) → (∀ i j r r', table i r → table j r' → i ≠ j → r.tbl ≠ r'.tbl) →
     ∃ t, exec (.taskStaging k.uid) s = .next t ∧ t.dram.mem = s.dram.mem ∧
       (∀ j r core, ∀ image : List Byte, table j r → placed core → image.length = r.size →
         (∀ m, 64 * m < image.length → ∃ x ∈ k.xfers, x.record = j ∧ x.core = tableCore k (core / 64) ∧
           x.va = r.far + 64 * m ∧ x.write = false) →
         (∀ x ∈ k.xfers, ∀ m, x.record = j → x.core = tableCore k (core / 64) → x.va = r.far + 64 * m → x.write = false →
           x.state = .got ((image.drop (64 * m)).take 64)) →
         (∀ o v, image[o]? = some v → cellGet t.dram.tableRows (tableDpa core b r.tbl o) = v) ∧
         ((∀ y, assoc s.dram.rowActs y 0 < 2048) → ∀ m, 1024 * m < r.size →
           let row := (bankOf (tableDpa core b r.tbl 0), 65408 + 16 * b + m)
           assoc t.dram.rowActs row 0 = assoc s.dram.rowActs row 0 + 1)) ∧
       ∀ a, (∀ j r core o, table j r → placed core → o < r.size → a ≠ tableDpa core b r.tbl o) →
         cellGet t.dram.tableRows a = cellGet s.dram.tableRows a) ∧
  (∀ (s : State) (g : Group) (p : Path) (w : Word) (d a : BitVec 6) (tbl : BitVec 4) (ix qb : Bool)
     (gd : Guard) (ty : Ty) (q : Query) (k : Task),
     let i : Instr := if qb then .tqb d a tbl ix gd ty else .tq d a tbl ix gd ty
     let ask : Query := { id := s.fresh, task := g.task, gid := g.gid, core := g.core, d := d.toNat,
                          tbl := tbl.toNat, ix := ix, qb := qb, ty := ty,
                          pc := if p.pre.rank = 0 then p.pc else p.pre.start,
                          lanes := (lanesOf (activeMask p gd)).map fun l => (l, laneReg g l a.toNat), opened := 0 }
     let here := s.eng.queries.filter fun x => decide (x.core = g.core)
     (Issuing s g p w →
       (activeMask p gd = 0 → MovesPath i s g p p.past) ∧
       (activeMask p gd ≠ 0 → 16 ≤ here.length → MovesPath i s g p { p with park := some .issue }) ∧
       (activeMask p gd ≠ 0 → here.length < 16 → ∃ t, exec i s = .next t ∧ GoesOn s g p p.past t ∧
         t = { s with fresh := s.fresh + 1, groups := t.groups,
                      eng := { s.eng with queries := s.eng.queries ++ [ask] } })) ∧
     (∀ before after x, s.eng.queries = before ++ q :: after → (s.eng.queries.map (·.id)).Nodup → x ∈ before →
       x.core = q.core → x.tbl = q.tbl ∨ (x.opened = 0 ∧ q.opened = 0) → findTask s x.task = some k → k.stop = none →
       exec (.queryComplete q.id) s = .next s) ∧
     (q ∈ s.eng.queries → (s.eng.queries.map (·.id)).Nodup → queryBehind s q = false →
       findGroup s q.gid = some g → findTask s q.task = some k → k.stop = none →
       (q.lanes.map (·.1)).Nodup → (∀ x ∈ q.lanes, x.1 < 64) →
       let n := fun (x : Word) (j : Nat) =>
         if q.ix then x.toNat / 2 ^ (16 * j) % 65536 else x.toNat / 2 ^ (8 * j) % 256
       let many := if q.ix then 2 else 4
       let z := q.ty.size
       let block := k.block.getD 0
       let inside := fun (x : Word) (j : Nat) => match tableDecl k q.tbl with
         | some (size, count) => z = size ∧ n x j < count
         | none => False
       let entry := fun (x : Word) (j : Nat) => match tableDecl k q.tbl with
         | some (size, count) => if z = size ∧ n x j < count then natOfBytes ((List.range z).map fun b =>
             cellGet s.dram.tableRows (tableDpa q.core block q.tbl (n x j * z + b))) else 0
         | none => 0
       let ws := wanted q (tableDecl k q.tbl)
       let rows := rowsLeft q block ws
       let quiet := fun t : State => t.sram = s.sram ∧ t.dram.mem = s.dram.mem ∧
         t.dram.tableRows = s.dram.tableRows ∧ t.host.mem = s.host.mem ∧ t.host.fns = s.host.fns ∧
         t.host.tracked = s.host.tracked
       ((queryRows q block ws).Pairwise (· < ·) ∧ ∀ r, r ∈ queryRows q block ws ↔
         ∃ x ∈ q.lanes, ∃ j, j < many ∧ inside x.2 j ∧ r = rowOf (tableDpa q.core block q.tbl (n x.2 j * z))) ∧
       (queryYields s q k = true → exec (.queryComplete q.id) s = .next s) ∧
       (queryYields s q k = false → ∀ r more x, rows = r :: more → badLane s q block ws r = some x →
         ∃ t k', exec (.queryComplete q.id) s = .next t ∧ findTask t q.task = some k' ∧ k'.stop = some 0x0B ∧
           k'.frec.kind = 0x0B ∧ k'.frec.addr = 0 ∧ k'.frec.tid0 = (laneOf g x.1).tid ∧ k'.frec.pc = q.pc ∧
           t.groups = s.groups ∧ quiet t) ∧
       (queryYields s q k = false → (∀ r ∈ rows, badLane s q block ws r = none) →
         (2 ≤ rows.length → ∃ t, exec (.queryComplete q.id) s = .next t ∧
           t.eng.queries = s.eng.queries.map (fun x => if x.id = q.id then
             { x with opened := x.opened + 1, resumes := false } else x) ∧
           t.groups = s.groups ∧ t.tasks = s.tasks ∧ quiet t) ∧
         (rows.length ≤ 1 →
           ∃ t g', exec (.queryComplete q.id) s = .next t ∧ findGroup t q.gid = some g' ∧
           (∀ id, id ≠ q.gid → findGroup t id = findGroup s id) ∧
           g' = { g with lanes := g'.lanes } ∧ g'.lanes.length = g.lanes.length ∧
           (∀ l, laneOf g' l = { laneOf g l with v := (laneOf g' l).v, qstat := (laneOf g' l).qstat }) ∧
           (∀ l, l ∉ q.lanes.map (·.1) → laneOf g' l = laneOf g l) ∧
           (∀ x ∈ q.lanes, x.1 < g.lanes.length →
             let was := (laneOf g x.1).qstat
             let now := (laneOf g' x.1).qstat
             (q.qb = true → ∀ j, j < many → q.d + j < 64 →
               laneReg g' x.1 (q.d + j) = widen q.ty (entry x.2 j)) ∧
             (q.qb = false → ∀ j, j < 4 * queryRegs q.qb q.ix q.ty → q.d + j / 4 < 64 →
               (laneReg g' x.1 (q.d + j / 4)).extractLsb' (8 * (j % 4)) 8 =
                 if j < many * z then byteAt (entry x.2 (j / z)) (j % z) else 0) ∧
             (∀ r, r < 64 → r < q.d ∨ q.d + queryRegs q.qb q.ix q.ty ≤ r → laneReg g' x.1 r = laneReg g x.1 r) ∧
             (∀ size count, tableDecl k q.tbl = some (size, count) →
               (z = size → (∀ j, j < many → n x.2 j < count) → now = was) ∧
               (z = size → ∀ j, j < many → count ≤ n x.2 j → (∀ m, m < j → n x.2 m < count) →
                 (was.getLsbD 0 = true → now = was) ∧
                 (was.getLsbD 0 = false → now.getLsbD 0 = true ∧ now.extractLsb' 8 16 = BitVec.ofNat 16 (n x.2 j) ∧
                   now.extractLsb' 6 2 = BitVec.ofNat 2 j ∧ now.extractLsb' 1 5 = was.extractLsb' 1 5 ∧
                   now.extractLsb' 24 8 = was.extractLsb' 24 8)) ∧
               (z ≠ size → now = was ||| 4)) ∧
             (tableDecl k q.tbl = none → now = was ||| 2)) ∧
           t.eng.queries = s.eng.queries.filter (fun x => decide (x.id ≠ q.id)) ∧ t.tasks = s.tasks ∧ quiet t))))

/-- R63, R65, R98 to R100, R135: the events of a copy. An inbound burst brings its bytes, or fails: code 5
outside its regions, 2 by the plat, 3 where it cannot be corrected, which stops the task and enters the
first failing burst's code in the counter cell; an outbound burst writes its bytes, or fails with 3 where a
near sector was undecodable; an outbound copy reads its near bytes once its step has landed, counting the
sectors that cannot be decoded; an accepted burst is counted; a line whose bytes have come is written, made
present and counted; the last update ends the copy. Every byte that it does not write, of the line too
(R97), but for the counter cell, reads as before. R20, R284, R286, R295, R299 to R301: where a burst goes
once it is sent. A page that no cache gives is asked for once, and the burst waits; one that the host may
hold waits for its snoop; one that the plat refuses fails with code 2; one to host memory is read or written
there and counted. A fabric address of this device is served by the partition of its binding; one of another
leaves as a command with its partition's next sequence number, by some port, counted on that port's die; one
unbound, unreachable or under reset fails with code 4. R94 to R97: what the bytes of a copy are. Its bursts
cover its far bytes, or the far row of each index in range, once, and an index out of range stands failed
with its code; a line is written with the near bytes that lie in it, once all have come; a near byte of an
inbound copy is a byte of the converted element that its far bytes give, at its swizzled place, or the fill
byte where its burst failed; a burst of an outbound copy carries the converted elements of the near bytes,
read through the swizzle. When a burst takes effect, and what a stop leaves of a copy, are the model's
readings (log entries 20, 28, 50, 52), and code 4 for a fabric address of this device bound to a partition
that does not exist its choice (log entry 90); the port is a free value (78). -/
def Obligations.CopyEventsMoveTheBytes : Prop :=
  (∀ (s : State) (c : Copy) (n line : Nat) (x : Burst) (k : Task) (q : Partition) (dpa : Nat)
     (bs : List (Nat × Byte)),
     findCopy s c.head.id = some c → findTask s c.head.task = some k → k.stop = none → k.state = .running →
     k.saving = false → findPart s k.part = some q → c.bursts[n]? = some x →
     (c.outbound = true → c.nearData = none → rangeLanded s c.near c.len c.head.step = true →
       let bad := (sectorRange c.near c.len).filter (sectorBad s)
       ∃ t, exec (.copyNearRead c.head.id) s = .next t ∧ t.tasks = s.tasks ∧ findCopy t c.head.id =
           some { c with nearData := some (bytesAt t.sram.mem c.near c.len), badNear := bad, begun := true } ∧
         ∀ j, let here := (bad.filter fun y => decide (sliceOf (y * 32) = j)).length
           (sliceReg t j).unc = if here = 0 then (sliceReg s j).unc else Nat.min ((sliceReg s j).unc + here) 255) ∧
     ((∀ sec, sectorErrors s sec = []) → Memory.wf s.sram.mem = true →
     let sends := fun st : BurstState => { c with bursts := c.bursts.set n { x with state := st } }
     let becomes := fun (i : Instr) (c' : Copy) => ∃ t, exec i s = .next t ∧
       findCopy t c.head.id = some c' ∧ t.sram.mem = s.sram.mem ∧ t.dram.mem = s.dram.mem ∧ t.tasks = s.tasks
     let ends := fun (t : State) (c' : Copy) (last : Bool) =>
       findCopy t c.head.id = if last then none else some c'
     let cells := fun a : Nat => (List.range 4).map fun j => a + j
     let lost := fun (sec : Nat) => ∃ t k', exec (.pchRequest c.head.id n) s = .next t ∧
       findCopy t c.head.id = some (sends (.failed 3)) ∧ findTask t c.head.task = some k' ∧ k'.stop = some 0x0B ∧
       k'.frec.kind = 0x0B ∧ k'.frec.addr = BitVec.ofNat 32 (sec * 32) ∧ t.dram.mem = s.dram.mem ∧
       (c.cnt = none → t.sram.mem = s.sram.mem) ∧
       (∀ a, c.cnt = some a → a % 4 = 0 →
         Counted (wordAt s.sram.mem a) (wordAt t.sram.mem a) 0 (errorCode (sends (.failed 3)).bursts) ∧
         ∀ b, b ∉ cells a → cellGet t.sram.mem b = cellGet s.sram.mem b)
     (x.state = .todo → c.outbound = true → c.nearData.isSome = true → c.farOk k x = true → isFabric x.va = false →
       dpa < hdmSize → queueFree s dpa = true → Memory.wf s.dram.mem = true →
       translate s.xlate (.copy c.head.core) (tractOf c.head.core) q.pasid x.va true =
         some (s.host.hpa0 + dpa, s.xlate) → burstOf dpa ∉ s.host.tracked →
       platAllows s.dram.plat q.dom (rowOf dpa) = true →
       (c.badFor x ≠ [] → lost ((c.badFor x).headD 0)) ∧
       (c.badFor x = [] → ∃ t, exec (.pchRequest c.head.id n) s = .next t ∧ findCopy t c.head.id = some (sends .accepted) ∧
         (∀ j b, (c.farBytes (c.nearData.getD []) x)[j]? = some b → cellGet t.dram.mem (dpa + j) = b) ∧
         (∀ j, j < dpa ∨ dpa + c.burstLen x ≤ j → cellGet t.dram.mem j = cellGet s.dram.mem j) ∧
         t.sram.mem = s.sram.mem ∧ t.tasks = s.tasks)) ∧
     (x.state = .todo → c.outbound = false →
       (c.farOk k x = false → becomes (.pchRequest c.head.id n) (sends (.failed 5))) ∧
       (c.farOk k x = true → isFabric x.va = false → dpa < hdmSize → queueFree s dpa = true →
         translate s.xlate (.copy c.head.core) (tractOf c.head.core) q.pasid x.va false =
           some (s.host.hpa0 + dpa, s.xlate) → burstOf dpa ∉ s.host.tracked →
         (platAllows s.dram.plat q.dom (rowOf dpa) = false →
           becomes (.pchRequest c.head.id n) (sends (.failed 2))) ∧
         (platAllows s.dram.plat q.dom (rowOf dpa) = true → reportOf s.dram (burstOf dpa) ≠ .uncorrectable →
           becomes (.pchRequest c.head.id n) (sends (.got (bytesAt s.dram.mem dpa (c.burstLen x))))) ∧
         (platAllows s.dram.plat q.dom (rowOf dpa) = true → reportOf s.dram (burstOf dpa) = .uncorrectable → lost 0))) ∧
     (c.outbound = true → c.nearData = none → rangeLanded s c.near c.len c.head.step = true →
       becomes (.copyNearRead c.head.id)
         { c with nearData := some (bytesAt s.sram.mem c.near c.len), badNear := [], begun := true }) ∧
     (c.outbound = true → c.nearData.isSome = true → x.state = .accepted →
       ∃ t, exec (.copyBurstAccepted c.head.id n) s = .next t ∧
         ends t (sends (.done 0)) ((sends (.done 0)).bursts.all isDone) ∧ t.dram.mem = s.dram.mem ∧
         (c.cnt = none → t.sram.mem = s.sram.mem) ∧
         (∀ a, c.cnt = some a → a % 4 = 0 →
           Counted (wordAt s.sram.mem a) (wordAt t.sram.mem a) (c.burstLen x)
             (if (sends (.done 0)).bursts.all isDone then errorCode (sends (.done 0)).bursts else 0) ∧
           ∀ b, b ∉ cells a → cellGet t.sram.mem b = cellGet s.sram.mem b)) ∧
     (c.outbound = false → line ∈ c.lines → engineMayWrite s c.head.id line = true →
       copyQueued s c = false → c.lineData line = some bs →
       let rest := c.lines.filter fun y => decide (y ≠ line)
       ∃ t, exec (.copyLineWrite c.head.id line) s = .next t ∧
         ends t { c with lines := rest, begun := true } (decide (rest = [])) ∧
         (∀ y ∈ t.sram.clears, ¬ (y.req = c.head.id ∧ y.line = line)) ∧ t.dram.mem = s.dram.mem ∧
         (c.cnt = none → (∀ y ∈ bs, cellGet t.sram.mem y.1 = y.2) ∧
           ∀ a, (∀ y ∈ bs, y.1 ≠ a) → cellGet t.sram.mem a = cellGet s.sram.mem a) ∧
         (∀ a, c.cnt = some a → a % 4 = 0 → a / 128 ≠ line → (∀ y ∈ bs, cellGet t.sram.mem y.1 = y.2) ∧
           Counted (wordAt s.sram.mem a) (wordAt t.sram.mem a) bs.length
             (if rest = [] then errorCode c.bursts else 0) ∧
           ∀ b, (∀ y ∈ bs, y.1 ≠ b) → b ∉ cells a → cellGet t.sram.mem b = cellGet s.sram.mem b)))) ∧
  (∀ (s : State) (c : Copy) (n : Nat) (x : Burst) (k : Task) (q p : Partition) (b : Binding) (xl : Xlate)
     (pasid dom va hpa dpa : Nat),
     findCopy s c.head.id = some c → findTask s c.head.task = some k → k.stop = none → k.state = .running →
     k.saving = false → findPart s k.part = some q → c.bursts[n]? = some x → x.state = .todo →
     c.farOk k x = true → (c.outbound = true → c.nearData.isSome = true) →
     let fabric := x.va / 2 ^ 63 % 2 = 1
     let dev := x.va / 2 ^ 48 % 2 ^ 15
     let bound := s.fabric.bindings.find? fun y => decide (y.part = k.part) && decide (y.dev = dev)
     let sound := c.badFor x = []
     let data := if c.outbound then c.farBytes (c.nearData.getD []) x else List.replicate (c.burstLen x) 0
     let sent := fun (t : State) (st : BurstState) => exec (.pchRequest c.head.id n) s = .next t ∧
       findCopy t c.head.id = some { c with bursts := c.bursts.set n { x with state := st } } ∧
       t.sram.mem = s.sram.mem ∧ t.tasks = s.tasks
     let goes := fun (t : State) (st : BurstState) => sent t st ∧ t.dram.mem = s.dram.mem
     let counts := fun (was : List AccessCounter) (t : State) (die place : Nat) =>
       let same := fun y : AccessCounter => y.die = die ∧ y.pasid = pasid ∧ y.block = place / 65536
       let first : AccessCounter := { die := die, pasid := pasid, block := place / 65536, count := 1 }
       ((∃ y ∈ was, same y) → t.xlate.counters =
         was.map fun y => if same y then { y with count := y.count + 1 } else y) ∧
       ((∀ y ∈ was, ¬ same y) →
         ((was.filter fun y => decide (y.die = die)).length < 4096 → t.xlate.counters = was ++ [first]) ∧
         (4096 ≤ (was.filter fun y => decide (y.die = die)).length → ∃ low ∈ was, low.die = die ∧
           (∀ y ∈ was, y.die = die → low.count ≤ y.count) ∧
           ∀ y, y ∈ t.xlate.counters ↔ (y ∈ was ∧ y ≠ low) ∨ y = first))
     ((¬ fabric ∧ pasid = q.pasid ∧ dom = q.dom ∧ va = x.va) ∨
       (fabric ∧ bound = some b ∧ dev = s.fabric.dev ∧ findPart s b.peer = some p ∧ b.peer ∉ s.host.resetting ∧
         pasid = b.pasid ∧ dom = p.dom ∧ va = x.va % 2 ^ 48) →
       let page := (tractOf c.head.core, pasid, va / 4096, c.outbound)
       let found := translate s.xlate (.copy c.head.core) (tractOf c.head.core) pasid va c.outbound
       (found = none → ∃ t, goes t (.ats 0) ∧ t.host = s.host ∧ t.fabric = s.fabric ∧
         t.xlate = { s.xlate with asked := t.xlate.asked } ∧
         (page ∈ s.xlate.asked → t.xlate.asked = s.xlate.asked) ∧
         (page ∉ s.xlate.asked → t.xlate.asked = s.xlate.asked ++ [page])) ∧
       (found = some (s.host.hpa0 + dpa, xl) → dpa < hdmSize →
         (burstOf dpa ∈ s.host.tracked → sound → 0 < c.burstLen x → ∃ t, goes t (.snoop dpa) ∧ t.xlate = xl ∧ t.dram = s.dram ∧
           ((burstOf dpa, c.outbound) ∈ s.host.snoops → t.host = s.host) ∧
           ((burstOf dpa, c.outbound) ∉ s.host.snoops → t.host =
             { s.host with snoops := s.host.snoops ++ [(burstOf dpa, c.outbound)] })) ∧
         (burstOf dpa ∉ s.host.tracked ∨ (c.outbound = true ∧ ¬ sound) → queueFree s dpa = true →
           platAllows s.dram.plat dom (rowOf dpa) = false →
           ∃ t, goes t (.failed 2) ∧ t.xlate = xl ∧ t.dram = s.dram ∧ t.host = s.host) ∧
         (burstOf dpa ∉ s.host.tracked → queueFree s dpa = true → platAllows s.dram.plat dom (rowOf dpa) = true →
           (c.outbound = true → sound → Memory.wf s.dram.mem = true → ∃ t, sent t .accepted ∧ t.xlate = xl ∧
             ∀ a, cellGet t.dram.mem a =
               if dpa ≤ a ∧ a < dpa + c.burstLen x then data.getD (a - dpa) 0 else cellGet s.dram.mem a) ∧
           (c.outbound = false → reportOf s.dram (burstOf dpa) ≠ .uncorrectable → ∃ t,
             goes t (.got (bytesAt s.dram.mem dpa (c.burstLen x))) ∧ t.xlate = xl))) ∧
       (found = some (hpa, xl) → hpa < s.host.hpa0 ∨ s.host.hpa0 + hdmSize ≤ hpa →
         (c.outbound = true → sound → Memory.wf s.host.mem = true → ∃ t, goes t .accepted ∧ t.dram = s.dram ∧
           counts xl.counters t 0 va ∧ ∀ a, cellGet t.host.mem a =
             if hpa ≤ a ∧ a < hpa + c.burstLen x then data.getD (a - hpa) 0 else cellGet s.host.mem a) ∧
         (c.outbound = false → ∃ t, goes t (.got (bytesAt s.host.mem hpa (c.burstLen x))) ∧ t.dram = s.dram ∧
           counts xl.counters t 0 va ∧ t.host = s.host))) ∧
     (fabric → bound = none ∨ (bound = some b ∧ dev = s.fabric.dev ∧
         (findPart s b.peer = none ∨ b.peer ∈ s.host.resetting)) ∨
         (bound = some b ∧ dev ≠ s.fabric.dev ∧ dev ∉ s.fabric.reachable) →
       ∃ t, goes t (.failed 4) ∧ t.fabric = s.fabric ∧ t.xlate = s.xlate ∧ t.host = s.host ∧ t.dram = s.dram) ∧
     (fabric → bound = some b → dev ≠ s.fabric.dev → dev ∈ s.fabric.reachable → sound → pasid = q.pasid →
       let seq := assoc s.fabric.nextSeq k.part 0
       ∃ t port, goes t (.fabric seq) ∧ port < 48 ∧ t.host = s.host ∧ t.dram = s.dram ∧
         t.fabric.out = s.fabric.out ++ [{
           part := k.part, seq := seq, dev := dev, peer := b.peer, pasid := b.pasid, rva := x.va % 2 ^ 48,
           write := c.outbound, data := data, req := c.head.id, burst := n, port := port, sends := 1,
           since := s.now }] ∧
         (∀ y, assoc t.fabric.nextSeq y 0 = if y = k.part then (seq + 1) % 2 ^ 32 else assoc s.fabric.nextSeq y 0) ∧
         counts s.xlate.counters t (port / 24) x.va)) ∧
  ((∀ (q : CopyReq) (xs : List Nat) (m x : Nat), q.indexed = true → 1 ≤ q.rlen → q.far % 32 = 0 → xs[m]? = some x →
     let row := (q.far + x * q.rlen * 32) % 2 ^ 64
     let covers := fun (b : Burst) (f : Nat) => b ∈ q.bursts xs ∧ b.pos = m ∧ b.offset ≤ f ∧
       f < b.offset + Min.min (64 - b.va % 64) (q.rlen * 32 - b.offset)
     (x < q.len → ∀ f, f < q.rlen * 32 → ∃ b, covers b f ∧ b.va = row + b.offset ∧ b.state = .todo ∧
       ∀ y, covers y f → y = b) ∧
     (q.len ≤ x → ∀ b, (b ∈ q.bursts xs ∧ b.pos = m ↔
       b = { va := 0, pos := m, offset := 0, coord := (0, 0, 0), state := .failed (0x80 + (q.first + m)) }))) ∧
   (∀ (q : CopyReq) (xs : List Nat), q.ok = true → q.indexed = false →
     let sizes := [(1, 1), (4, 2), (2, 4), (4, 1), (1, 2), (2, 4)].getD q.conv (1, 1)
     let total := if q.outbound then q.len / sizes.1 * sizes.2 else q.len
     let covers := fun (b : Burst) (f : Nat) => b ∈ q.bursts xs ∧ b.offset ≤ f ∧
       f < b.offset + Min.min (64 - b.va % 64) (total - b.offset)
     (∀ f, f < total → ∃ b, covers b f ∧ ∀ y, covers y f → y = b) ∧
     ∀ b ∈ q.bursts xs, b.pos = 0 ∧ b.va = q.far + b.offset ∧ b.offset < total ∧ b.state = .todo ∧
       (b.offset = 0 ∨ b.va % 64 = 0)) ∧
   (∀ (c : Copy) (b : Burst), (∀ code, b.state ≠ .failed code) → c.conv ≤ 5 →
     let sizes := [(1, 1), (4, 2), (2, 4), (4, 1), (1, 2), (2, 4)].getD c.conv (1, 1)
     c.burstLen b = Min.min (64 - b.va % 64) ((if c.indexed then c.rlen * 32 else
       if c.outbound then c.len / sizes.1 * sizes.2 else c.len / sizes.2 * sizes.1) - b.offset)) ∧
   (∀ (c : Copy) (line : Nat),
     let here := fun o => o < c.len ∧ (c.near + o) / 128 = line
     (c.lineData line = none ↔ ∃ o, here o ∧ c.nearByte o = none) ∧
     ∀ bs, c.lineData line = some bs → (bs.map (·.1)).Nodup ∧
       ∀ a v, (a, v) ∈ bs ↔ ∃ o, here o ∧ a = c.near + o ∧ c.nearByte o = some v) ∧
   ∀ (c : Copy) (b : Burst) (k e i : Nat), c.conv ≤ 5 → c.swz ≤ 2 →
     let sizes := [(1, 1), (4, 2), (2, 4), (4, 1), (1, 2), (2, 4)].getD c.conv (1, 1)
     let fu := if c.outbound then sizes.2 else sizes.1
     let nu := if c.outbound then sizes.1 else sizes.2
     let value := fun bs : List Byte => let x := natOfBytes bs
       [x, (roundTo bf16 .rne (f32.value x)).1, (roundTo f32 .rne (bf16.value x)).1,
         (roundTo e4m3 .rne (f32.value x)).1, (roundTo bf16 .rne (e4m3.value x)).1,
         (roundTo f32 .rne (f16.value x)).1].getD c.conv 0
     let row := if c.indexed then c.rlen * 32 / fu * nu else c.len
     let place := fun u : Nat =>
       if c.swz = 1 then ((u / 16) ^^^ ((c.first + k) % 8)) * 16 + u % 16
       else if c.swz = 2 then ((u / 32) ^^^ ((c.first + k) % 4)) * 32 + u % 32 else u
     (c.swz ≠ 0 → row % 128 = 0) → (c.indexed = false → c.swz = 0 ∧ k = 0) →
     b.pos = k →
     (c.outbound = false → b ∈ c.bursts → i < nu → e * nu + i < row → b.offset ≤ e * fu →
       e * fu < b.offset + c.burstLen b →
       (∀ y ∈ c.bursts, y.pos = k → y.offset ≤ e * fu → e * fu < y.offset + c.burstLen y → y = b) →
       (∀ data, b.state = .got data → c.nearByte (k * row + place (e * nu + i)) =
         some (byteAt (value ((data.drop (e * fu - b.offset)).take fu)) i)) ∧
       (∀ code, b.state = .failed code → c.nearByte (k * row + place (e * nu + i)) = some c.fill)) ∧
     (c.outbound = true → ∀ near : List Byte, (c.farBytes near b).length = c.burstLen b ∧
       ∀ j, j < c.burstLen b → (c.farBytes near b)[j]? = some (byteAt
         (value ((List.range nu).map fun t => near.getD (k * row + place ((b.offset + j) / fu * nu + t)) 0))
         ((b.offset + j) % fu))))

/-- R106, R109 to R111, R116 to R120, R251: the events of a bulk read. A burst is requested once those
before it have been, while fewer than 1,024 of its core are outstanding: it fails with code 5 outside the
regions of kind 2 that may be read, 1 to 4 and the wait for a page as a copy's does, and an uncorrectable
one stops the task and leaves the counter. A burst that has come becomes a handler thread of the step after
the request, with the burst in its registers and its coordinates, in a bin of its request; a bin that is
full or 256 cycles old becomes a fresh group at the entry of its handler, or of its next program counter in
ascending `TID`, which waits in the pending set where its core holds GRP groups already (R263); the
last-burst event lands the handlers' stores together and ends the request, subtracting its bursts from the
counter cell with its code (R119), or starts its completion handler, and two stores that collide stop the
task with kind 0x12 instead. What late handlers and completion handlers see, where a fresh group enters, and
that a burst whose last bytes lie past its region fails with code 5, are the model's (log entries 19, 51,
100, 103). -/
def Obligations.BulkReadEventsRunTheHandlers : Prop :=
  ∀ (s : State) (b : Bulk) (n : Nat) (x : Burst) (k : Task) (data : List Byte) (bin : Bin) (key : Nat) (q : Partition)
    (dpa hpa : Nat) (xl : Xlate),
    (findCopy s b.head.id = none → findBulk s b.head.id = some b → findTask s b.head.task = some k → k.stop = none →
      k.state = .running → k.saving = false → findPart s k.part = some q → b.bursts[n]? = some x →
      x.state = .todo ∨ x.state = .again →
      let core := b.head.core
      let out := (s.eng.bulks.filter fun y => decide (y.head.core = core)).flatMap fun y => y.bursts.filter fun z =>
        match z.state with
        | .todo | .done _ | .failed _ => false
        | _ => true
      let waits := x.state = .todo ∧ ((∃ j y, j < n ∧ b.bursts[j]? = some y ∧ y.state = .todo) ∨ 1024 ≤ out.length)
      let allowed := ∃ r ∈ k.decl.regions, r.kind = .dram ∧ r.ar = true ∧ r.far ≤ x.va ∧ x.va + 64 ≤ r.far + r.size
      let becomes := fun (st : BurstState) (P : State → Prop) => ∃ t, exec (.pchRequest b.head.id n) s = .next t ∧
        findBulk t b.head.id = some { b with bursts := b.bursts.set n { x with state := st } } ∧ t.sram = s.sram ∧
        t.dram.mem = s.dram.mem ∧ t.host.mem = s.host.mem ∧ P t
      let same := fun t : State => t.tasks = s.tasks
      let finds := translate s.xlate (.bulk core) (tractOf core) q.pasid x.va false
      (waits → exec (.pchRequest b.head.id n) s = .next s) ∧
      (¬ waits → ¬ allowed → becomes (.failed 5) same) ∧
      (¬ waits → allowed → isFabric x.va = true → (s.fabric.bindings.find? fun y => decide (y.part = k.part) &&
        decide (y.dev = x.va / 2 ^ 48 % 2 ^ 15)) = none → becomes (.failed 4) same) ∧
      (¬ waits → allowed → isFabric x.va = false →
        (finds = none → becomes (.ats 0) fun t => same t ∧ (tractOf core, q.pasid, x.va / 4096, false) ∈ t.xlate.asked) ∧
        (finds = some (s.host.hpa0 + dpa, xl) → dpa < hdmSize → queueFree s dpa = true → burstOf dpa ∉ s.host.tracked →
          (platAllows s.dram.plat q.dom (rowOf dpa) = false → becomes (.failed 2) same) ∧
          (platAllows s.dram.plat q.dom (rowOf dpa) = true → reportOf s.dram (burstOf dpa) ≠ .uncorrectable →
            becomes (.got (bytesAt s.dram.mem dpa 64)) same) ∧
          (platAllows s.dram.plat q.dom (rowOf dpa) = true → reportOf s.dram (burstOf dpa) = .uncorrectable →
            becomes (.failed 3) fun t => ∃ k', findTask t b.head.task = some k' ∧ k'.stop = some 0x0B ∧ k'.frec.kind = 0x0B)) ∧
        (finds = some (hpa, xl) → hpa < s.host.hpa0 ∨ s.host.hpa0 + hdmSize ≤ hpa →
          becomes (.got (bytesAt s.host.mem hpa 64)) same))) ∧
    ((∀ g ∈ s.groups, g.gid < s.fresh) →
    (findBulk s b.head.id = some b → findTask s b.head.task = some k → k.stop = none →
      k.state = .running → b.bursts[n]? = some x → x.state = .got data → data.length = 64 →
      inQueue s b.head.id n = false → handlerSlot s k b.head.core = true →
      (s.eng.bins.filter fun y => decide (y.core = b.head.core)).length < 16 →
      ∃ t, exec (.burstArrival b.head.id n) s = .next t ∧
        findBulk t b.head.id = some { b with
          bursts := b.bursts.set n { x with state := .done 0 }, born := b.born + 1 } ∧
        (∃ y ∈ t.eng.bins, y.core = b.head.core ∧ y.key = .handler b.head.task b.head.party b.head.id ∧
          ∃ h ∈ y.threads, h.step = BitVec.ofNat 64 (b.head.step + 1) ∧
            (∀ r, r < 16 → vreg h r = BitVec.ofNat 32 (natOfBytes ((data.drop (4 * r)).take 4))) ∧
            (∀ r, 16 ≤ r → r < 64 → vreg h r = 0) ∧
            h.bc = #v[BitVec.ofNat 32 x.coord.1, BitVec.ofNat 32 x.coord.2.1, BitVec.ofNat 32 x.coord.2.2,
              BitVec.ofNat 32 b.tag]) ∧
        t = { s with eng := { s.eng with bins := t.eng.bins, bulks := t.eng.bulks } }) ∧
    (findBin s bin.core bin.slot = some bin → findTask s (binTask bin) = some k → k.stop = none →
      k.state = .running →
      k.decl.width ≤ bin.threads.length ∨ bin.since + 256 ≤ s.now → bin.threads.length ≤ 64 →
      (∀ tk pt rq, bin.key = .handler tk pt rq → findBulk s rq = some b ∧ b.params.length = 8) →
      ∃ t g' p', exec (.binDraw bin.core bin.slot) s = .next t ∧
        (∀ y, y ∈ t.eng.bins ↔ y ∈ s.eng.bins ∧ ¬ (y.core = bin.core ∧ y.slot = bin.slot)) ∧
        t.groups = s.groups ++ [g'] ∧ g'.gid = s.fresh ∧ g'.core = bin.core ∧ g'.paths = [p'] ∧
        g'.active = (if groupFits s g'.task bin.core then activeSlot s bin.core else none) ∧
        p'.exec = fullMask bin.threads.length ∧ p'.pre = Prefix.none ∧ p'.park = none ∧
        (∀ tk pt pc, bin.key = .reform tk pt pc → p'.pc = pc ∧ g'.task = tk ∧ g'.party = pt ∧
          g'.handler = none ∧ (g'.lanes.take bin.threads.length).Perm bin.threads ∧
          (g'.lanes.take bin.threads.length).Pairwise (fun u v => u.tid.toNat ≤ v.tid.toNat) ∧
          ∀ r, sreg p' r = 0) ∧
        (∀ tk pt rq, bin.key = .handler tk pt rq → p'.pc = assoc k.decl.handlers b.hnd 0 ∧ g'.task = tk ∧
          g'.party = pt ∧ g'.handler = some rq ∧ g'.lanes.take bin.threads.length = bin.threads ∧
          (∀ r, r < 8 → sreg p' r = b.params.getD r 0) ∧ ∀ r, 8 ≤ r → sreg p' r = 0)) ∧
    (findBulk s b.head.id = some b → findTask s b.head.task = some k → k.uid = b.head.task →
      k.stop = none → lastBurstReady s b k = true →
      (∀ sec, sectorErrors s sec = []) → Memory.wf s.sram.mem = true →
      ((windowEntries s b.head.id).map (·.sector)).Nodup →
      let written := fun (t : State) (cell : List Nat) =>
        (∀ e ∈ windowEntries s b.head.id, ∀ a, a / 32 = e.sector →
          cellGet t.sram.mem a = ((landedByte s e a).map (·.2)).getD (cellGet s.sram.mem a)) ∧
        (∀ a, a ∉ cell → (∀ e ∈ windowEntries s b.head.id, e.sector ≠ a / 32) →
          cellGet t.sram.mem a = cellGet s.sram.mem a)
      let ended := fun t : State => findBulk t b.head.id = none ∧ (∀ c ∈ t.sram.clears, c.req ≠ b.head.id) ∧
        t.tasks = s.tasks
      (lowestCollision (windowEntries s b.head.id) = none →
        (∀ e ∈ windowEntries s b.head.id, entryUpset s e = false) →
        (b.chnd = none ∨ b.landed = true → b.cnt = none →
          ∃ t, exec (.lastBurstEvent b.head.id) s = .next t ∧ written t [] ∧ ended t) ∧
        (b.chnd = none ∨ b.landed = true → ∀ a, b.cnt = some a → a % 4 = 0 →
          (∀ e ∈ windowEntries s b.head.id, e.sector ≠ a / 32) →
          ∃ t, exec (.lastBurstEvent b.head.id) s = .next t ∧ written t ((List.range 4).map fun j => a + j) ∧
            ended t ∧ Counted (wordAt s.sram.mem a) (wordAt t.sram.mem a) b.total (errorCode b.bursts)) ∧
        (b.chnd = some key → b.landed = false →
          ∃ t g' p', exec (.lastBurstEvent b.head.id) s = .next t ∧ written t [] ∧
            findBulk t b.head.id = some { b with landed := true } ∧ t.groups.getLast? = some g' ∧
            g'.completion = true ∧ g'.handler = some b.head.id ∧ g'.paths = [p'] ∧
            p'.pc = assoc k.decl.handlers key 0 ∧ (laneOf g' 0).step = BitVec.ofNat 64 (b.head.step + 1) ∧
            (laneOf g' 0).bc = #v[BitVec.ofNat 32 b.total, BitVec.ofNat 32 (errorCode b.bursts),
              BitVec.ofNat 32 b.born, BitVec.ofNat 32 b.tag])) ∧
      (∀ c, lowestCollision (windowEntries s b.head.id) = some c →
        ∃ t k', exec (.lastBurstEvent b.head.id) s = .next t ∧ t.sram = s.sram ∧
          findTask t b.head.task = some k' ∧ k'.stop = some 0x12 ∧ k'.frec.kind = 0x12 ∧
          k'.frec.addr = BitVec.ofNat 32 c.1 ∧ k'.frec.step = BitVec.ofNat 64 (b.head.step + 1))))

/-- R220 to R223, R226 to R233, R236, R237: a matrix instruction that passes its checks claims the engine of
its core, and with PAIR that of the next, as its follower, enters the matrix queue with the values its
elected lane, scalar registers and readable memory hold, and writes no byte and no register; a drain marks
its lines to become absent. It waits while the queue is full or another party holds an engine it wants, does
nothing with no active lane, and takes the handler-rule trap in a handler. PAIR on an odd core, or with a
follower outside the partition, takes the matrix-operand trap (R222), and so do a stream descriptor outside
its sets (R228), `MMAS` with `I8`, an empty plane or one that the format does not fit, a stride below the
row bytes, a declared scale that no region declares (R229, R230), a drain descriptor outside its sets and
destinations that share a byte (R232, R233); a misaligned image, row or destination, or one outside its
space, the memory-address trap (R140). A weight load that meets an uncorrectable sector stops its task and
enters no queue (R135, R239). That operands are read at entry to the queue, and bit 2 of TINFO, are the
model's readings (log entries 29, 30), and the rows of a pair of a dense and a 2:4 plane its choice (log
entry 85). -/
def Obligations.MatrixInstructionsEnterTheQueue : Prop :=
  ∀ (s : State) (g : Group) (p : Path) (w : Word) (x y imm : BitVec 6) (sp : Space) (ty : Ty) (gd : Guard)
    (pair swap tr tile col scaled : Bool) (l b : Nat) (bs : List Byte) (i : Instr),
    Issuing s g p w →
    i ∈ [.mldw x y sp ty gd pair, .mldwS x y sp ty gd pair, .mma x y sp ty gd pair swap,
      .mmas x y sp ty gd pair swap, .mdrn x y sp ty gd pair tr, .mzero tile gd pair,
      .trd x y imm gd tile col, .twr x y imm gd tile col] →
    let step := (laneOf g l).step.toNat
    let head : ReqHead :=
      { id := s.fresh, task := g.task, party := g.party, core := g.core, step := step, tid := (laneOf g l).tid,
        pc := if p.pre.rank = 0 then p.pc else p.pre.start }
    let claim := (g.task, g.party)
    let engine := (findEngine s g.core).getD (freshEngine g.core claim false)
    let ours := fun c => ∀ e, findEngine s c = some e → e.claim = claim
    let inPartition := ∃ q, findPart s (partOf s g.task) = some q ∧ q.cores.getLsbD (g.core + 1) = true
    let paired := fun pr : Bool => pr = true → g.core % 2 = 0 ∧ inPartition
    let leads := (∃ f, findEngine s (g.core + 1) = some f) ∧ ∀ e ∈ s.eng.matrix, e.core = g.core → e.leads = true
    let waits := fun i => MovesPath i s g p { p with park := some .issue }
    let enters := fun (i : Instr) (pr : Bool) (q : Path) (act : MatrixAct) (cl : List Clear) =>
      (¬ ours g.core ∨ (pr = true ∧ ¬ ours (g.core + 1)) → waits i) ∧
      (ours g.core → (pr = true → ours (g.core + 1)) →
        (8 ≤ engine.queue.length → (pr = true → leads) → waits i) ∧
        (engine.queue.length < 8 → ∃ t, exec i s = .next t ∧ GoesOn s g p q t ∧
          findEngine t g.core = some { engine with
            leads := engine.leads || pr
            queue := engine.queue ++ [{ head := head, gid := g.gid, pid := p.pid, lane := l, act := act }] } ∧
          (pr = true → findEngine t (g.core + 1) =
            some ((findEngine s (g.core + 1)).getD (freshEngine (g.core + 1) claim true))) ∧
          (∀ c, c ≠ g.core → (pr = true → c ≠ g.core + 1) → findEngine t c = findEngine s c) ∧
          (∀ c, c ∈ t.sram.clears ↔ c ∈ s.sram.clears ∨ c ∈ cl) ∧
          t = { s with
            fresh := s.fresh + 1, groups := t.groups, eng := { s.eng with matrix := t.eng.matrix }
            sram := { s.sram with clears := t.sram.clears } }))
    let a := (laneReg g l x.toNat).toNat
    let sr := fun k => (sreg p (y.toNat + k)).toNat
    (activeMask p gd = 0 → MovesPath i s g p p.past) ∧
    (lowest (activeMask p gd) = some l → g.handler.isSome = true →
      Traps i s g p { kind := 4, lane := l, word := w, addr := 0, info := 0, after := false }) ∧
    (lowest (activeMask p gd) = some l → g.handler = none →
      (g.core % 2 = 1 ∨ ¬ inPartition →
        ∀ j ∈ [.mldw x y sp ty gd true, .mldwS x y sp ty gd true, .mma x y sp ty gd true swap,
            .mmas x y sp ty gd true swap, .mdrn x y sp ty gd true tr, .mzero tile gd true],
          Traps j s g p { kind := 7, lane := l, word := w, addr := 0, info := 0, after := false }) ∧
      (paired pair →
        let traps := fun j => Traps j s g p { kind := 7, lane := l, word := w, addr := 0, info := 0, after := false }
        let n := sr 0 % 2 ^ 9
        let row0 := sr 0 / 2 ^ 16 % 2 ^ 8
        let cols := if pair then 256 else 128
        let d := drainSpecOf p y a ty tr
        let badStream := sr 0 / 2 ^ 24 % 2 ^ 7 ≠ 0 ∨ sr 0 / 2 ^ 9 % 2 ^ 7 ≠ 0 ∨ n = 0 ∨ 256 < row0 + n ∨ sr 1 % 32 ≠ 0
        let badScales := (sr 2 % 4 ≠ 0 ∧ sr 2 ≠ 0xFFFFFFFF) ∨ sr 3 % 4 ≠ 0
        let badDrain := sr 0 / 2 ^ 27 % 2 ^ 4 ≠ 0 ∨ sr 0 / 2 ^ 9 % 2 ^ 7 ≠ 0 ∨ 4 < sr 0 / 2 ^ 24 % 2 ^ 3 ∨ n = 0 ∨
          256 < row0 + n ∨ (tr = true ∧ n ≠ 128 ∧ n ≠ 256) ∨ sr 1 % 32 ≠ 0 ∨ sr 1 < cols * ty.size ∨
          (tr = true ∧ (sr 3 % 32 ≠ 0 ∨ sr 3 < n ∨ ty = .i8 ∨ ty = .i32)) ∨
          (sr 0 / 2 ^ 24 % 2 ^ 3 ≠ 0 ∧ (ty = .f32 ∨ ty = .i8 ∨ ty = .i32))
        let primary := fun b => ∃ k, k < n ∧ a + k * sr 1 ≤ b ∧ b < a + k * sr 1 + cols * ty.size
        let transposed := fun b => ∃ c, c < cols ∧ sr 2 + c * sr 3 ≤ b ∧ b < sr 2 + c * sr 3 + n
        let scales := fun b => sr 4 ≤ b ∧ b < sr 4 + 4 * cols * (n / 128)
        let shared := tr = true ∧ ∃ b, (primary b ∧ transposed b) ∨ (primary b ∧ scales b) ∨ (transposed b ∧ scales b)
        let declared := scaled && decide (sr 2 = 0xFFFFFFFF)
        let q := planeAhead s g.core g.core swap
        let qf := if pair then planeAhead s (g.core + 1) g.core swap else q
        let rb := max (rowBytes ty q) (rowBytes ty qf)
        let fits := fun h : Plane => h.loaded = true ∧ (if ty = .i8 ∨ ty = .bf16 then h.ty = ty else h.ty = .e4m3 ∨ h.ty = .e5m2)
        let stream : Instr := if scaled then .mmas x y sp ty gd pair swap else .mma x y sp ty gd pair swap
        (badStream → traps (.mma x y sp ty gd pair swap) ∧ traps (.mmas x y sp ty gd pair swap)) ∧
        (badScales → traps (.mmas x y sp ty gd pair swap)) ∧ traps (.mmas x y sp .i8 gd pair swap) ∧
        (streamOk (sr 0) (sr 1) (sr 2) (sr 3) scaled = true ↔ ¬ (badStream ∨ (scaled = true ∧ badScales))) ∧
        (ours g.core → (pair = true → ours (g.core + 1)) → (scaled = true → ty ≠ .i8) →
          ¬ (badStream ∨ (scaled = true ∧ badScales)) →
          (¬ fits q ∨ ¬ fits qf ∨ sr 1 < rb ∨ (declared = true ∧ ∃ k, k < n ∧
            declaredScale s g sp (absoluteOf s g sp (a + k * sr 1)) rb = none)) → traps stream) ∧
        (0 < ty.size → badDrain ∨ shared → traps (.mdrn x y sp ty gd pair tr)) ∧
        (0 < ty.size → ((drainFieldsOk (sr 0) d pair = true ∧ drainOverlaps d pair = false) ↔ ¬ (badDrain ∨ shared)))) ∧
      (a % 128 = 0 → resolve s g sp a (16384 * ty.size) = .ok b →
        blockReady s g.task g.core b (16384 * ty.size) step = false → ours g.core →
        ∃ t, exec (.mldw x y sp ty gd false) s = .next t ∧ GoesOn s g p { p with park := some .issue } t ∧
          findEngine t g.core = some engine ∧ t.sram = s.sram) ∧
      (paired pair → ∀ j ∈ [(Instr.mldw x y sp ty gd pair, 16384 * ty.size), (.mldwS x y sp ty gd pair, 20480)],
        (a % 128 ≠ 0 → AddressTraps j.1 s g p w l sp a) ∧
        (a % 128 = 0 → NamedTraps j.1 s g p w l [⟨sp, a, j.2 * if pair then 2 else 1⟩])) ∧
      (paired pair →
        let d := drainSpecOf p y a ty tr
        let drain : Instr := .mdrn x y sp ty gd pair tr
        drainFieldsOk (sr 0) d pair = true → drainOverlaps d pair = false →
        (d.dest % 32 ≠ 0 → AddressTraps drain s g p w l sp d.dest) ∧
        (d.dest % 32 = 0 → tr = true → d.tdest % 128 ≠ 0 → AddressTraps drain s g p w l sp d.tdest) ∧
        (d.dest % 32 = 0 → tr = true → d.tdest % 128 = 0 → d.vdest % 4 ≠ 0 → AddressTraps drain s g p w l sp d.vdest) ∧
        (drainMisaligned d = none →
          NamedTraps drain s g p w l ((drainRanges d pair).map fun r => ⟨sp, r.1, r.2⟩))) ∧
      (paired pair → enters (.mzero tile gd pair) pair p.past (.zero tile pair) []) ∧
      enters (.trd x y imm gd tile col) false p.past
        (.readTile tile col (sreg p y.toNat + immu p imm) x.toNat (lanesOf (activeMask p gd))) [] ∧
      enters (.twr x y imm gd tile col) false p.past (.writeTile tile col (sreg p y.toNat + immu p imm)
        ((lanesOf (activeMask p gd)).map fun k => (k, laneReg g k x.toNat))) [] ∧
      (paired pair → (let n := 16384 * ty.size * if pair then 2 else 1
          ReadableBlock s g l sp a 128 n bs ∧ resolve s g sp a n = .ok b) →
        enters (.mldw x y sp ty gd pair) pair p.past
          (.load ty false pair (sreg p y.toNat) (sreg p y.toNat) b (cellsOfBytes bs)) []) ∧
      (paired pair → (let n := 20480 * if pair then 2 else 1
          ReadableBlock s g l sp a 128 n bs ∧ resolve s g sp a n = .ok b) →
        enters (.mldwS x y sp ty gd pair) pair { p with park := some (.selector s.fresh) }
          (.load ty true pair (sreg p y.toNat) (sreg p (y.toNat + 1)) b (cellsOfBytes bs)) []) ∧
      (a % 128 = 0 → resolve s g sp a (16384 * ty.size) = .ok b →
        blockReady s g.task g.core b (16384 * ty.size) step = true → ours g.core →
        (∃ sec ∈ sectorRange b (16384 * ty.size), sectorBad s sec = true) → (∃ k, findTask s g.task = some k ∧ k.stop = none) →
        ∃ t k, exec (.mldw x y sp ty gd false) s = .next t ∧ findTask t g.task = some k ∧ k.stop = some 0x0B ∧
          findEngine t g.core = some engine ∧ t.sram.mem = s.sram.mem ∧ t.groups = s.groups) ∧
      (paired pair → (scaled = true → ty ≠ .i8) →
        let declared := scaled && decide (sr 2 = 0xFFFFFFFF)
        let n := sr 0 % 2 ^ 9
        let q := planeAhead s g.core g.core swap
        let qf := if pair then planeAhead s (g.core + 1) g.core swap else q
        let rb := max (rowBytes ty q) (rowBytes ty qf)
        let bl := if q.sparse || qf.sparse then 2 else 1
        let row := fun k => absoluteOf s g sp (a + k * sr 1)
        let scale := fun k => if declared then (declaredScale s g sp (row k) rb).getD 0
          else absoluteOf s g sp (sr 2 + k * sr 3)
        let clean := fun a n => blockReady s g.task g.core a n step = true ∧
          ∀ sec ∈ sectorRange a n, sectorErrors s sec = []
        let stream : Instr := if scaled then .mmas x y sp ty gd pair swap else .mma x y sp ty gd pair swap
        streamOk (sr 0) (sr 1) (sr 2) (sr 3) scaled = true → planeFits ty q = true →
        planeFits ty qf = true → rb ≤ sr 1 →
        (ours g.core → (pair = true → ours (g.core + 1)) →
          (declared = true → ∀ k, k < n → (declaredScale s g sp (row k) rb).isSome = true) →
          (a % 32 ≠ 0 → AddressTraps stream s g p w l sp a) ∧
          (a % 32 = 0 → NamedTraps stream s g p w l (((List.range n).map fun k => ⟨sp, a + k * sr 1, rb⟩) ++
            if scaled && !declared then (List.range n).map fun k => ⟨sp, sr 2 + k * sr 3, 4 * bl⟩ else []))) ∧
        (a % 32 = 0 →
        (∀ k, k < n → resolve s g sp (a + k * sr 1) rb = .ok (row k) ∧ clean (row k) rb) →
        (scaled = true → ∀ k, k < n → clean (scale k) (4 * bl) ∧
          if declared then (declaredScale s g sp (row k) rb).isSome = true
          else resolve s g sp (sr 2 + k * sr 3) (4 * bl) = .ok (scale k)) →
        ∃ rows scales, enters stream pair p.past (.stream ty scaled swap pair (decide (sr 0 / 2 ^ 31 % 2 = 1)) (sr 0 / 2 ^ 16 % 256) n rows
              scales) [] ∧
          rows = cellsOfBytes ((List.range n).flatMap fun k => rangeBytes s g.task (row k) rb step) ∧
          scales = if scaled then (List.range n).map fun k => (scaleAt s g.task step (scale k),
            if bl = 2 then scaleAt s g.task step (scale k + 4) else 0) else [])) ∧
      (paired pair →
        let d := drainSpecOf p y a ty tr
        let da := absoluteSpec s g sp d
        drainFieldsOk (sr 0) d pair = true → drainOverlaps d pair = false → drainMisaligned d = none →
        firstFailing s g ((drainRanges d pair).map fun r => ⟨sp, r.1, r.2⟩) = none →
        enters (.mdrn x y sp ty gd pair tr) pair p.past (.drain pair da)
          (((drainRanges da pair).flatMap fun r => linesOf r.1 r.2).filterMap fun line =>
            (domainOf s (line * 128)).map fun dm =>
              { line := line, req := s.fresh, step := step, dom := dm, landed := false })))

/-- R220, R224 to R237, R239: what the first operation of a matrix queue does at its turn, on the leader
and, with PAIR, on the follower. A zero clears a tile, a read moves its elements into lane registers, a
write sets them. A weight load fills the shadow planes, and an illegal 2:4 group traps at its instruction
(R227). A stream adds a promoted block sum to each tile element of its rows, K-block 0 before 1, from the
stored weights alone, scaled by both scales, and its flags join those of the elected lane (R225). A drain
sends its converted bytes to the drain buffer (R233), with T its columns quantised under their vector scales
(R234). A soft error in the engine, or in its follower, stops the claiming task. A drain's line is written
once its frontier has passed, and the end of a claim discards the engine and its follower. That operands are
those read at entry to the queue, the rows of a pair of unlike planes, the address of a soft error, and
drains during a save are the model's (log entries 29, 85, 86, 88). -/
def Obligations.MatrixOperationsTakeEffectAtTheirTurn : Prop :=
  ∀ (s : State) (e f : Engine) (op : MatrixOp) (rest : List MatrixOp) (g : Group) (line : Nat) (d : Drain)
    (bs : List (Nat × Byte)),
    (findEngine s e.core = some e → e.queue = op :: rest → landsAllowed s op.head.task = true →
      Memory.wf e.acc0 = true → Memory.wf e.acc1 = true → Memory.wf f.acc0 = true → Memory.wf f.acc1 = true →
      findGroup s op.gid = some g → op.lane < 64 → drainWaits s e.core op = false →
      let led := findEngine s (e.core + 1)
      let turns := fun (P : Engine → State → Prop) => ∃ t e', exec (.matrixOpTurn e.core) s = .next t ∧
        findEngine t e.core = some e' ∧ e'.queue = rest ∧ t.sram = s.sram ∧
        t = { s with groups := t.groups, eng := t.eng } ∧ P e' t
      let onFollower := fun (t : State) (pair : Bool) (P : Engine → Prop) =>
        if pair ∧ led = some f then ∃ f', findEngine t (e.core + 1) = some f' ∧ f'.queue = f.queue ∧ P f'
        else findEngine t (e.core + 1) = led
      let others := fun (e' : Engine) => e'.active = e.active ∧ e'.shadow = e.shadow
      let flagged := fun (t : State) (raised : Nat → Prop) => ∃ g' fl, findGroup t op.gid = some g' ∧
        (∀ l, l < g.lanes.length → laneOf g' l = { laneOf g l with
          flags := if l = op.lane then (laneOf g l).flags ||| fl else (laneOf g l).flags }) ∧
        ∀ j, j < 32 → (fl.getLsbD j = true ↔ raised j)
      let upset := e.softError = true ∨ (e.leads = true ∧ f.softError = true)
      f = led.getD (freshEngine (e.core + 1) e.claim true) →
      (upset → ∃ t k, exec (.matrixOpTurn e.core) s = .next t ∧ findTask t op.head.task = some k ∧
        k.stop = some 0x0B ∧ t.eng = s.eng ∧ t.sram = s.sram) ∧
      (¬ upset →
        (∀ tile pair, op.act = .zero tile pair →
          let cleared := fun (h h' : Engine) => h'.active = h.active ∧ h'.shadow = h.shadow ∧
            (∀ r c, tileAt h' tile r c = 0) ∧ ∀ r c, tileAt h' (!tile) r c = tileAt h (!tile) r c
          turns fun e' t => cleared e e' ∧ t.groups = s.groups ∧ onFollower t pair (cleared f)) ∧
        (∀ tile col v reg lanes, op.act = .readTile tile col v reg lanes → reg < 64 →
          (∀ l ∈ lanes, l < 64) → turns fun e' t => others e' ∧ e'.acc0 = e.acc0 ∧ e'.acc1 = e.acc1 ∧
            onFollower t false (fun _ => True) ∧
            ∃ g', findGroup t op.gid = some g' ∧ ∀ l, l < g.lanes.length → ∀ r, r < 64 → laneReg g' l r =
              if l ∈ lanes ∧ r = reg then (if col then tileAt e tile ((v.toNat / 256 + l) % 256) (v.toNat % 128)
                else tileAt e tile (v.toNat % 256) ((v.toNat / 256 % 128 + l) % 128))
              else laneReg g l r) ∧
        (∀ tile col v lanes, op.act = .writeTile tile col v lanes → (lanes.map (·.1)).Nodup →
          (∀ l ∈ lanes, l.1 < 64) → turns fun e' t => others e' ∧ t.groups = s.groups ∧
            onFollower t false (fun _ => True) ∧
            (∀ l ∈ lanes, (if col then tileAt e' tile ((v.toNat / 256 + l.1) % 256) (v.toNat % 128)
                else tileAt e' tile (v.toNat % 256) ((v.toNat / 256 % 128 + l.1) % 128)) = l.2) ∧
            ∀ r c, tileAt e' (!tile) r c = tileAt e (!tile) r c) ∧
        (∀ ty sparse pair c0 c1 base img, op.act = .load ty sparse pair c0 c1 base img →
          let size := if sparse then 20480 else 16384 * ty.size
          let nibble := fun n gr => elemAt img 4 ((if n < 128 then 0 else 20480) + 16384 + 4 * (8 * (n % 128) + gr / 8)) /
            2 ^ (4 * (gr % 8)) % 16
          let bad := fun n gr => n < (if pair then 256 else 128) ∧ gr < 64 ∧ nibble n gr / 4 ≤ nibble n gr % 4
          let loaded := fun (h h' : Engine) (o : Nat) =>
            h'.active = h.active ∧ h'.acc0 = h.acc0 ∧ h'.acc1 = h.acc1 ∧
            h'.shadow = { loaded := true, ty := ty, sparse := sparse, scale0 := c0, scale1 := c1,
                          img := h'.shadow.img } ∧
            ∀ k, k < size → cellGet h'.shadow.img k = cellGet img (o + k)
          ((sparse = true → ∀ n gr, ¬ bad n gr) → turns fun e' t =>
            loaded e e' 0 ∧ onFollower t pair (fun f' => loaded f f' size) ∧
            ∀ p, findPath g op.pid = some p → p.park = some (.selector op.head.id) → g.gid = op.gid →
              ∃ g', findGroup t op.gid = some g' ∧ findPath g' op.pid = some p.past ∧ g'.lanes = g.lanes) ∧
          (sparse = true → ∀ n gr p, bad n gr →
            (∀ n' gr', bad n' gr' → n < n' ∨ (n = n' ∧ gr ≤ gr')) → findPath g op.pid = some p →
            ∃ u, exec (.matrixOpTurn e.core) s = .next (takeTrap u g { p with park := none }
                { kind := 8, lane := op.lane, word := fetchWord u g.core g.task p.pc
                  addr := BitVec.ofNat 32
                    (base + (if n < 128 then 0 else 20480) + 16384 + 4 * (8 * (n % 128) + gr / 8))
                  info := BitVec.ofNat 32 (64 * n + gr), after := false }) ∧
              findEngine u e.core = some { e with queue := rest, shadow := emptyPlane } ∧
              findEngine u (e.core + 1) = led.map (fun h => if pair then { h with shadow := emptyPlane } else h) ∧
              u = { s with eng := { s.eng with matrix := u.eng.matrix } })) ∧
        (∀ scaled swap pair tile row0 n rows scales,
          op.act = .stream .i8 scaled swap pair tile row0 n rows scales → row0 + n ≤ 256 →
          let plane := fun (h : Engine) => if swap then h.shadow else h.active
          let summed := fun (h h' : Engine) => h'.active = plane h ∧
            h'.shadow = (if swap then h.active else h.shadow) ∧
            (∀ k, k < n → ∀ c, c < 128 → tileAt h' tile (row0 + k) c = tileAt h tile (row0 + k) c +
              BitVec.ofInt 32 (((List.range 128).map fun j =>
                (cellGet rows (k * 128 + j)).toInt * (cellGet (plane h).img (128 * j + c)).toInt).sum)) ∧
            (∀ r c, c < 128 → r < row0 ∨ row0 + n ≤ r → tileAt h' tile r c = tileAt h tile r c) ∧
            ∀ r c, tileAt h' (!tile) r c = tileAt h (!tile) r c
          (∀ h, h = e ∨ (pair = true ∧ h = f) → (plane h).sparse = false ∧ (plane h).ty = .i8) →
          turns fun e' t => summed e e' ∧ onFollower t pair (summed f) ∧ flagged t fun _ => False) ∧
        (∀ ty scaled swap pair tile row0 n rows scales,
          op.act = .stream ty scaled swap pair tile row0 n rows scales → row0 + n ≤ 256 → ty ≠ .i8 →
          let q := if swap then e.shadow else e.active
          let qf := if swap then f.shadow else f.active
          let rb := if pair then max (rowBytes ty q) (rowBytes ty qf) else rowBytes ty q
          let nibble := fun (m : Plane) c gr => elemAt m.img 4 (16384 + 4 * (8 * c + gr / 8)) / 2 ^ (4 * (gr % 8)) % 16
          let pairs := fun (m : Plane) k c kb =>
            if m.sparse then (List.range 32).flatMap fun j =>
              let gr := 32 * kb + j
              [(elemAt rows 1 (k * rb + 4 * gr + nibble m c gr % 4), elemAt m.img 1 (256 * gr + c)),
                (elemAt rows 1 (k * rb + 4 * gr + nibble m c gr / 4), elemAt m.img 1 (256 * gr + 128 + c))]
            else (List.range 128).map fun j => (elemAt rows ty.size (k * rb + j * ty.size),
              elemAt m.img m.ty.size ((128 * j + c) * m.ty.size))
          let block := fun (m : Plane) k c kb => blockSum (decide (ty = .e4m3) && decide (m.ty = .e4m3))
            ((pairs m k c kb).map fun x => (elemValue ty x.1, elemValue m.ty x.2))
          let first := fun (m : Plane) (h : Engine) k c => promote (block m k c 0).1
            (if scaled then some ((scales.getD k (0, 0)).1, m.scale0) else none) (tileAt h tile (row0 + k) c)
          let second := fun (m : Plane) (h : Engine) k c => promote (block m k c 1).1
            (if scaled then some ((scales.getD k (0, 0)).2, m.scale1) else none) (first m h k c).1
          let streamed := fun (m : Plane) (h h' : Engine) =>
            h'.active = m ∧ h'.shadow = (if swap then h.active else h.shadow) ∧
            (∀ k, k < n → ∀ c, c < 128 → tileAt h' tile (row0 + k) c =
              if m.sparse then (second m h k c).1 else (first m h k c).1) ∧
            (∀ r c, c < 128 → r < row0 ∨ row0 + n ≤ r → tileAt h' tile r c = tileAt h tile r c) ∧
            ∀ r c, tileAt h' (!tile) r c = tileAt h (!tile) r c
          let raises := fun (m : Plane) (h : Engine) j => ∃ k c, k < n ∧ c < 128 ∧
            ((block m k c 0).2.getLsbD j = true ∨ (first m h k c).2.getLsbD j = true ∨
              (m.sparse = true ∧ ((block m k c 1).2.getLsbD j = true ∨ (second m h k c).2.getLsbD j = true)))
          turns fun e' t => streamed q e e' ∧ onFollower t pair (streamed qf f) ∧
            flagged t fun j => raises q e j ∨ (pair = true ∧ raises qf f j)) ∧
        (∀ pair d, op.act = .drain pair d →
          let cols := if pair then 256 else 128
          let elem := fun r c => if c < 128 then tileAt e d.tile r c else tileAt f d.tile r (c - 128)
          let mode := fun r c => match d.rm with
            | 0 => RMode.rne
            | 1 => .rtz
            | 2 => .rup
            | 3 => .rdn
            | _ => .sr (rotl (rword d.seed d.tc (BitVec.ofNat 32 r)) (c % 32))
          let conv : Nat → Nat → Nat × Word := fun r c => match d.ty with
            | .i32 | .f32 => ((elem r c).toNat, 0)
            | .i8 => ((BitVec.ofInt 8 (max (-128) (Min.min 127 (elem r c).toInt))).toNat, 0)
            | .bf16 => roundTo bf16 (mode r c) (f32.value (elem r c).toNat)
            | .f16 => roundTo f16 (mode r c) (f32.value (elem r c).toNat)
            | .e5m2 => roundTo e5m2 (mode r c) (f32.value (elem r c).toNat)
            | _ => roundTo e4m3 (mode r c) (f32.value (elem r c).toNat)
          let vec := fun c h => (List.range 128).map fun k => f32.value (elem (d.row0 + 128 * h + k) c).toNat
          let quant := fun c h k => roundTo e4m3 .rne
            ((f32.value (elem (d.row0 + 128 * h + k) c).toNat).scale (-(vscale (vec c h))))
          d.ty ∈ [Ty.f32, .i32, .i8, .bf16, .f16, .e5m2, .e4m3] → d.rm < 5 →
          turns fun e' t => others e' ∧ e'.acc0 = e.acc0 ∧ e'.acc1 = e.acc1 ∧ onFollower t false (fun _ => True) ∧
            (∃ r, r.head = op.head ∧ r.begun = false ∧ t.eng.drains = s.eng.drains ++ [r] ∧
              let sends := fun a (v : Byte) => ∃ x ∈ r.pieces, x.1 = a / 128 ∧ (a, v) ∈ x.2
              (∀ k, k < d.n → ∀ c, c < cols → ∀ j, j < d.ty.size →
                sends (d.dest + k * d.dstride + c * d.ty.size + j) (byteAt (conv (d.row0 + k) c).1 j)) ∧
              (d.tr = true → ∀ c, c < cols → ∀ h, h < d.n / 128 →
                (∀ k, k < 128 → sends (d.tdest + c * d.tstride + 128 * h + k)
                  (BitVec.ofNat 8 (quant c h k).1)) ∧
                ∀ j, j < 4 → sends (d.vdest + 4 * (c * (d.n / 128) + h) + j)
                  (byteAt (roundTo f32 .rne (.fin false 1 (vscale (vec c h)))).1 j))) ∧
            flagged t fun j => (∃ k c, k < d.n ∧ c < cols ∧ (conv (d.row0 + k) c).2.getLsbD j = true) ∨
              (d.tr = true ∧ ∃ c h k, c < cols ∧ h < d.n / 128 ∧ k < 128 ∧ (quant c h k).2.getLsbD j = true)))) ∧
    (s.eng.drains.find? (fun y => decide (y.head.id = d.head.id)) = some d →
      d.pieces.find? (fun x => decide (x.1 = line)) = some (line, bs) → landsAllowed s d.head.task = true ∨ d.begun = true →
      engineMayWrite s d.head.id line = true → (∀ sec, sectorErrors s sec = []) →
      Memory.wf s.sram.mem = true → (bs.map (·.1)).Nodup →
      ∃ t, exec (.drainWrite d.head.id line) s = .next t ∧ (∀ x ∈ bs, cellGet t.sram.mem x.1 = x.2) ∧
        (∀ a, a ∉ bs.map (·.1) → cellGet t.sram.mem a = cellGet s.sram.mem a) ∧
        (∀ c ∈ t.sram.clears, ¬ (c.req = d.head.id ∧ c.line = line)) ∧ t.tasks = s.tasks ∧
        ∀ y ∈ t.eng.drains, y.head.id = d.head.id → ∀ x ∈ y.pieces, x.1 ≠ line) ∧
    (findEngine s e.core = some e → claimOver s e = true → ∃ t, exec (.matrixClaimEnd e.core) s = .next t ∧
      findEngine t e.core = none ∧ (e.leads = true → ∀ f ∈ t.eng.matrix, f.core = e.core + 1 → f.follows = false) ∧
      t = { s with eng := { s.eng with matrix := t.eng.matrix } })

/-! ### Tasks -/

/-- R254 to R259, R269 to R271: `ENQ` reads its descriptor as the elected lane. One that is refused gives
the first code of R270 and an all-ones handle, and changes nothing else; one that is accepted gives code 0
and the partition's next handle, and creates the record of the child: its declaration and arguments, its
class and depth, an edge from every live task whose footprints demand one, and the hold. AOV hands ARG0 to
ARG3 to the child, and is refused with code 4 where the task's first record cannot take them, as an argument
without AOV is. With no active lane nothing happens, a handler takes the handler-rule trap, and a descriptor
that is misaligned or outside its space, or a completion cell outside its own, the memory-address trap. The
scalars wait for the response, which writes them when it arrives (R33, R271). Bit 2 of TINFO for a named
range is the model's reading (log entry 30). -/
def Obligations.EnqueueCreatesARecordOrSaysWhy : Prop :=
  ∀ (s : State) (g : Group) (p : Path) (w : Word) (d a : BitVec 6) (sp : Space) (gd : Guard) (l : Nat)
    (bs : List Byte) (k : Task) (q : Partition), Issuing s g p w →
    (activeMask p gd = 0 → MovesPath (.enq d a sp gd) s g p p.past) ∧
    (lowest (activeMask p gd) = some l → g.handler.isSome = true → Traps (.enq d a sp gd) s g p
      { kind := 4, lane := l, word := w, addr := 0, info := 0, after := false }) ∧
    (lowest (activeMask p gd) = some l → g.handler = none →
      BlockCourse (.enq d a sp gd) s g p w l sp (laneReg g l a.toNat).toNat 32 32 ∧
      (ReadableBlock s g l sp (laneReg g l a.toNat).toNat 32 32 bs → (launchOf (wordsOf bs)).nocc = false →
        NamedTraps (.enq d a sp gd) s g p w l
          [⟨spaceBit (launchOf (wordsOf bs)).csp, (launchOf (wordsOf bs)).ccell, 4⟩])) ∧
    (lowest (activeMask p gd) = some l → g.handler = none →
    findTask s g.task = some k → findPart s k.part = some q →
    ReadableBlock s g l sp (laneReg g l a.toNat).toNat 32 32 bs →
    let r := launchOf (wordsOf bs)
    (r.nocc = false → ∃ x, resolve s g (spaceBit r.csp) r.ccell 4 = .ok x) →
    let decl := declOf (objectOf s k.object) r
    let cell := if r.nocc then none else some (absoluteOf s g (spaceBit r.csp) r.ccell)
    let child := newTask s.fresh k.part (g.core / 64) k.object (decl.getD default) r (max r.cls k.cls)
      (k.depth + 1) (some k.uid) none cell
    let code := refusal s q decl r true (decide ((laneOf g l).index = 0)) (k.depth + 1) child
    let answer := fun x y => { p.past with owed := p.owed ++ [(d.toNat, x), (d.toNat + 1, y)] }
    let word := fun j => ((wordsOf bs)[j]?).getD 0
    let overlays := word 0 / 2 ^ 28 % 2 = 1
    (code ≠ 0 → MovesPath (.enq d a sp gd) s g p (answer (BitVec.ofNat 32 code) 0xFFFFFFFF)) ∧
    (10 ≤ k.depth → code = 1) ∧
    (k.depth < 10 → (∀ c, decl = some c → declaresTables c = false) →
      (q.recs ≤ recordsHeld s q.id → code = 3) ∧
      (recordsHeld s q.id < q.recs → (r.ok decl = false → code = 4) ∧
        (overlays → (∀ c, decl = some c → ∀ x ∈ c.regions.head?,
          (x.kind ≠ .immutable ∧ x.kind ≠ .shared) ∨ x.size < 16) → code = 4) ∧
        (¬ overlays → (∃ j, j < 4 ∧ word (4 + j) ≠ 0) → code = 4) ∧
        (r.ok decl = true → (laneOf g l).index ≠ 0 → code = 5))) ∧
    (code = 0 → (∀ t ∈ s.tasks, t.uid < s.fresh ∧ (t.state = .waiting → t.counter ≠ 0)) →
      ∃ t c, exec (.enq d a sp gd) s = .next t ∧
        GoesOn s g p (answer 0 (BitVec.ofNat 32 (q.lastHandle + 1))) t ∧ findTask t s.fresh = some c ∧
        c.handle = q.lastHandle + 1 ∧ c.part = k.part ∧ c.object = k.object ∧ c.tnum = r.tnum ∧
        some c.decl = decl ∧ c.nparty = r.nparty ∧ c.cls = max r.cls k.cls ∧ c.depth = k.depth + 1 ∧
        c.parent = some k.uid ∧ c.hold = r.hold ∧ c.ccell = cell ∧ c.pool.items = r.nitem ∧
        (overlays → c.args = some ((List.range 4).map fun j => BitVec.ofNat 32 (word (4 + j)))) ∧
        (¬ overlays → c.args = none) ∧
        (∀ u, u ∈ c.preds ↔ ∃ e ∈ s.tasks, e.uid = u ∧ e.state ≠ .ended ∧ e.part = k.part ∧
          u ∉ ancestors s 10 (some k.uid) ∧ declsClash e.decl c.decl = true) ∧
        c.counter = c.preds.length + (if r.hold then 1 else 0) ∧
        c.state = (if c.counter = 0 then .released else .waiting) ∧
        (∀ id, id ≠ s.fresh → findTask t id = findTask s id) ∧
        findPart t k.part = some { q with lastHandle := q.lastHandle + 1 } ∧
        t = { s with fresh := s.fresh + 1, groups := t.groups, tasks := t.tasks, parts := t.parts }) ∧
    (∀ x ∈ p.owed, Res.scalar x.1 ∈ pending s g p) ∧
    (∀ a b x y, p.owed = [(a, x), (b, y)] → a < 32 → b < 32 → a ≠ b →
      ∃ g' p', PathOnly s g p (happening (.response g.gid p.pid) s) g' p' ∧ g'.lanes = g.lanes ∧
        p' = { p with owed := [], s := p'.s } ∧
        ∀ r, r < 32 → sreg p' r = if r = a then x else if r = b then y else sreg p r))

/-- R262, R272: `DEQ` hands out the next items of its tract's range, begins the next chunk of 256 when the
range is used up, takes the upper half of what the first other tract with something has left when no chunk
is left (that range is its own from then on), and answers all ones and no item when the pool is empty. R273:
`DEPD.EDGE` adds an edge to a held child of the task, and `DEPD.REL` releases one; both tell in their status
why they did not. An edge from a task that was stopped or cancelled cancels the held child of a higher
handle, and status 1 is reported; from one that has ended in any way it does nothing else to another task.
With no active lane none of them does anything, and in a handler each takes the handler-rule trap. The
scalars come with the response (R271). The count of DEQ as the lesser of what is asked and what the range
has left, and what status 1 cancels, are the model's readings (log entries 40, 41). -/
def Obligations.PoolsAndEdgesAnswerTheTask : Prop :=
  ∀ (s : State) (g : Group) (p : Path) (w : Word) (d a imm : BitVec 6) (gd : Guard) (l x : Nat) (k : Task)
    (q : Partition), Issuing s g p w →
    (∀ i ∈ [.deq d imm gd, .depdEdge d a gd, .depdRel d a gd],
      (activeMask p gd = 0 → MovesPath i s g p p.past) ∧
      (lowest (activeMask p gd) = some l → g.handler.isSome = true → Traps i s g p
        { kind := 4, lane := l, word := w, addr := 0, info := 0, after := false })) ∧
    (lowest (activeMask p gd) = some l → g.handler = none →
    findTask s g.task = some k → findPart s k.part = some q →
    let own := g.core / 64
    let most := if imm = 0 then 64 else imm.toNat
    let range := fun y => assoc k.pool.current y (0, 0)
    let answer := fun ws : List Word => { p.past with owed := p.owed ++ ws.mapIdx fun k x => (d.toNat + k, x) }
    let hands := fun (first n : Nat) (P : Pool → Prop) => ∃ t k', exec (.deq d imm gd) s = .next t ∧
      GoesOn s g p (answer [BitVec.ofNat 32 first, BitVec.ofNat 32 n]) t ∧
      findTask t g.task = some k' ∧ k' = { k with pool := k'.pool } ∧ k'.pool.items = k.pool.items ∧
      P k'.pool ∧ (∀ id, id ≠ g.task → findTask t id = findTask s id) ∧
      t = { s with groups := t.groups, tasks := t.tasks }
    let A := (sreg p a.toNat).toNat
    let B := (sreg p (a.toNat + 1)).toNat
    let status := fun n : Nat => answer [BitVec.ofNat 32 n]
    let issued := fun h => h ≠ 0 ∧ h ≤ q.lastHandle
    let held := fun (c : Task) => c.state = .waiting ∧ c.hold = true ∧ c.parent = some k.uid
    let noneHeld := fun h => ∀ c, taskByHandle s k.part h = some c → ¬ held c
    ((range own).1 < (range own).2 →
      let n := Nat.min most ((range own).2 - (range own).1)
      hands (range own).1 n fun P => P.begun = k.pool.begun ∧
        assoc P.current own (0, 0) = ((range own).1 + n, (range own).2)) ∧
    ((range own).2 ≤ (range own).1 → k.pool.begun * 256 < k.pool.items →
      let c := k.pool.begun * 256
      let top := Nat.min k.pool.items (c + 256)
      let n := Nat.min most (top - c)
      hands c n fun P => P.begun = k.pool.begun + 1 ∧ assoc P.current own (0, 0) = (c + n, top)) ∧
    ((range own).2 ≤ (range own).1 → k.pool.items ≤ k.pool.begun * 256 →
      let near := [own ^^^ 1, own ^^^ 4, own ^^^ 5]
      let order := near ++ (List.range 8).filter fun y => decide (y ≠ own) && !near.contains y
      ∀ j : Nat, order[j]? = some x → (range x).1 < (range x).2 →
        (∀ (i y : Nat), i < j → order[i]? = some y → (range y).2 ≤ (range y).1) →
        let m := Nat.max 1 (((range x).2 - (range x).1) / 2)
        hands ((range x).2 - m) (Nat.min most m) fun P => P.begun = k.pool.begun ∧
          assoc P.current x (0, 0) = ((range x).1, (range x).2 - m) ∧
          assoc P.current own (0, 0) = ((range x).2 - m + Nat.min most m, (range x).2)) ∧
    (k.pool.items ≤ k.pool.begun * 256 → (∀ y, (range y).2 ≤ (range y).1) →
      MovesPath (.deq d imm gd) s g p (answer [0xFFFFFFFF, 0])) ∧
    (¬ issued A ∨ ¬ issued B → MovesPath (.depdEdge d a gd) s g p (status 4)) ∧
    (issued A → issued B → ∀ e, taskByHandle s k.part A = some e → e.state ≠ .ended →
      (noneHeld B → MovesPath (.depdEdge d a gd) s g p (status 2)) ∧
      (∀ c, taskByHandle s k.part B = some c → held c → (B ≤ A → MovesPath (.depdEdge d a gd) s g p (status 3)) ∧
        (A < B → ∃ t, exec (.depdEdge d a gd) s = .next t ∧
          GoesOn s g p (status 0) t ∧
          findTask t c.uid = some { c with counter := c.counter + 1, preds := c.preds ++ [e.uid] } ∧
          (∀ id, id ≠ c.uid → findTask t id = findTask s id) ∧
          t = { s with groups := t.groups, tasks := t.tasks }))) ∧
    (issued A → issued B → (∀ e, taskByHandle s k.part A = some e → e.state = .ended ∧ e.stop = none) →
      MovesPath (.depdEdge d a gd) s g p (status 1)) ∧
    (issued A → issued B → A < B → ∀ e c, taskByHandle s k.part A = some e → e.state = .ended → e.stop.isSome = true →
      taskByHandle s k.part B = some c → findTask s c.uid = some c → held c → c.stop = none →
      ∃ t c' g', exec (.depdEdge d a gd) s = .next t ∧ findTask t c.uid = some c' ∧ c'.state = .ended ∧
        c'.stop = some 0x15 ∧ findGroup t g.gid = some g' ∧ findPath g' p.pid = some (status 1)) ∧
    (issued A → issued B → (∃ e, taskByHandle s k.part A = some e ∧ e.state = .ended) → B ≤ A ∨ noneHeld B →
      MovesPath (.depdEdge d a gd) s g p (status 1)) ∧
    (¬ issued A → MovesPath (.depdRel d a gd) s g p (status 4)) ∧
    (issued A → noneHeld A → MovesPath (.depdRel d a gd) s g p (status 2)) ∧
    (issued A → ∀ c, taskByHandle s k.part A = some c → held c →
      (∀ y ∈ s.tasks, (y.uid = c.uid → y = c) ∧ (y.state = .waiting → y.counter ≠ 0)) →
      ∃ t c', exec (.depdRel d a gd) s = .next t ∧ GoesOn s g p (status 0) t ∧ findTask t c.uid = some c' ∧
        c'.hold = false ∧ c'.counter = c.counter - 1 ∧
        c'.state = (if c.counter = 1 then .released else .waiting) ∧
        (∀ id, id ≠ c.uid → findTask t id = findTask s id) ∧
        t = { s with groups := t.groups, tasks := t.tasks }))

/-- R10, R89, R91, R94, R252, R260 to R263, R266, R269, R304: the events by which tasks come onto the cores.
Admission places every party on a core of its partition, has each tract with a party read each table image
once (R75), and changes no byte of the slices; staging that is complete starts the threads at the entry with
their scratch zero (R10), each staged region holding its image, converted, with the addresses of its
relocated words (R89, R304), each task-shared region without IN zero, each adopted one its bytes (R91), and
the launch arguments over the start of record 0's region (R269), and ends the task when a burst has failed
(R89); kept regions of other partitions stay. A task that has waited blocks its class, or makes the youngest
task of a lower class save its context, and a tract with room takes a task of another. A core exchanges a
parked group for the one that has been ready longest, and rotates a group that has issued 256 sequences.
R88, R108, R126, R132, R137, R260, R261, R263: where a party or a region goes. A core holds it when it
belongs to the partition, takes new placements and has, beside what the plan has placed so far, the thread
slots, the handler reserve and the granules, with the spill reserve that its slice still needs, in the
partition's quotas less the shares kept for class 0, in the core's own 2,048 threads and 1,024 handlers, and
in free runs of whole granules; of the cores that hold it the plan takes the first by the most free thread
slots, or granules for a region, then the fewest tract links, then the lowest core, and it fails only where
none does. A region with a PARTY goes to that party's core. Runs of granules are those that the event names;
which ones is free, and how kept regions give way, what an unreadable image leaves, what free capacity is,
which group gives its place up, ties in the active set, and which tasks a save passes over, are the model's
(log entries 9, 28, 33, 102, 108, 112, 122). -/
def Obligations.SchedulingEventsFollowTheirRules : Prop :=
  (∀ (s : State) (k v : Task) (q : Partition) (place : Placement) (b : Option Nat) (s' : State)
     (ad : List (Option Kept)) (pl : Plan) (core n tract : Nat) (g h : Group),
     let only := fun (t : State) (f : Task → Task) => t = { s with tasks := s.tasks.map f }
     (findTask s k.uid = some k → k.state = .released → k.saved = none → findPart s k.part = some q →
       (nextAdmitted s k.tract k.part).map (·.uid) = some k.uid → blockFor s q k = some b →
       admitPlan (.given place.runs) q k s = some (s', ad, pl) →
       pl.made.length = place.runs.length → ∃ t k', exec (.taskAdmission k.uid place) s = .next t ∧
         findTask t k.uid = some k' ∧ k'.state = .admitted ∧ k'.block = b ∧ k'.bases = pl.bases ∧
         k'.places.map (·.index) = List.range k.nparty ∧
         (∀ x ∈ k'.places, q.cores.getLsbD x.core = true) ∧
         ((∀ y ∈ s.kept, y.kind ≠ .table) → ∀ j r c m, k.decl.regions[j]? = some r → r.kind = .table →
           let reads := k'.xfers.filter fun x => decide (x.record = j) && decide (tractOf x.core = c) && decide (x.va = r.far + 64 * m)
           ((∃ x ∈ k'.places, tractOf x.core = c) → 64 * m < r.size → reads.length = 1) ∧
           ((∀ x ∈ k'.places, tractOf x.core ≠ c) → reads = [])) ∧
         (∀ id, id ≠ k.uid → findTask t id = findTask s id) ∧ t.sram.mem = s.sram.mem ∧
         t.dram.tableRows = s.dram.tableRows ∧ t.groups = s.groups ∧
         ∀ x ∈ s.kept, x.part ≠ k.part → x ∈ t.kept) ∧
     (findTask s k.uid = some k → awaits k = true → k.blocking = false → k.releasedAt + 1300000 ≤ s.now →
       (∀ y ∈ s.tasks, y.blocking = true → awaits y = true → y.part = k.part → y.cls = k.cls →
         k.handle ≤ y.handle) → ∃ t, exec (.blockingTask k.uid) s = .next t ∧ only t fun y =>
           if y.part = k.part ∧ y.cls = k.cls then { y with blocking := decide (y.uid = k.uid) } else y) ∧
     (findTask s k.uid = some k → awaits k = true → k.releasedAt + 130000 ≤ s.now → fits s k = false →
       (∀ y ∈ s.tasks, y.part = k.part → y.saving = false) → v ∈ s.tasks → maySave s v = true →
       v.part = k.part → k.cls < v.cls →
       (∀ y ∈ s.tasks, maySave s y = true → y.part = k.part → k.cls < y.cls → y.handle < v.handle ∨ y = v) →
       ∃ t, exec (.classPreemption k.uid) s = .next t ∧ only t fun y =>
         if y.uid = v.uid then { y with saving := true } else y) ∧
     (findTask s k.uid = some k → maySteal s tract k.part = true →
       (stealable s tract k.part).map (·.uid) = some k.uid → ∃ t, exec (.taskSteal tract k.uid) s = .next t ∧
         only t fun y => if y.uid = k.uid then { y with tract := tract } else y) ∧
     (findTask s k.uid = some k → k.state = .admitted → k.stop = none →
       (xfersDone s k = false → ∃ t, exec (.taskStaging k.uid) s = .next t ∧ t.sram = s.sram ∧
         t.groups = s.groups ∧ ∃ k', findTask t k.uid = some k' ∧ k' = { k with xfers := k'.xfers, stop := k'.stop, frec := k'.frec } ∧
           (k'.stop = none ∨ k'.stop = some 0x0B) ∧
           (k'.xfers.map fun x => (x.core, x.va, x.len, x.write, x.data)) =
             k.xfers.map fun x => (x.core, x.va, x.len, x.write, x.data)) ∧
       (xfersDone s k = true → (∃ x ∈ k.xfers, xferFailed x = true) → k.ccell = none → k.fn = none →
         ∃ t k', exec (.taskStaging k.uid) s = .next t ∧ findTask t k.uid = some k' ∧ k'.state = .ended) ∧
       (xfersDone s k = true → (∀ x ∈ k.xfers, xferFailed x = false) → k.decl.regions = [] → k.args = none →
         0 < k.decl.width → ∃ t k', exec (.taskStaging k.uid) s = .next t ∧
           findTask t k.uid = some k' ∧ k'.state = .running ∧ k'.xfers = [] ∧
           (∀ x ∈ k.places, ∀ o, o < k.decl.scratch →
             cellGet t.sram.mem (x.core * 2 ^ 23 + x.base + o) = 0) ∧
           (∀ x ∈ k.places, ∀ j, j < k.decl.partySize → ∃ y ∈ t.groups, y.task = k.uid ∧ y.party = x.index ∧
             y.core = x.core ∧ y.handler = none ∧ (∃ r, y.paths = [r] ∧ r.pc = k.decl.entry) ∧
             ∃ u ∈ y.lanes, u = newThread (BitVec.ofNat 32 (x.index * k.decl.partySize + j)) j k.decl.trap)) ∧
       (xfersDone s k = true → (∀ x ∈ k.xfers, xferFailed x = false) → k.args = none → 0 < k.decl.width →
         Memory.wf s.sram.mem = true → (∀ sec, sectorErrors s sec = []) →
         let stands := fun (j : Nat) (r : Region) (a : Nat) => k.decl.regions[j]? = some r ∧ k.bases.getD j none = some a
         let staged := fun r : Region => r.kind = .immutable ∨ r.stageIn = true
         (∀ j r a, stands j r a → (r.kind = .immutable ∨ r.kind = .shared) ∧ r.size % 32 = 0 ∧
           (staged r → convExists r.dfmt r.sfmt = true) ∧ ∀ y ∈ r.relocs, y.1 + 4 ≤ r.size) →
         ∃ t k', exec (.taskStaging k.uid) s = .next t ∧
           findTask t k.uid = some k' ∧ k'.state = .running ∧ k'.xfers = [] ∧ k'.bases = k.bases ∧
           (∀ x ∈ k.places, (∀ j r a, stands j r a → a + r.size ≤ x.core * 2 ^ 23 + x.base ∨
               x.core * 2 ^ 23 + x.base + k.decl.scratch ≤ a) → ∀ o, o < k.decl.scratch →
             cellGet t.sram.mem (x.core * 2 ^ 23 + x.base + o) = 0) ∧
           (∀ x ∈ k.places, ∀ j, j < k.decl.partySize → ∃ y ∈ t.groups, y.task = k.uid ∧ y.party = x.index ∧
             y.core = x.core ∧ y.handler = none ∧ (∃ r, y.paths = [r] ∧ r.pc = k.decl.entry) ∧
             ∃ u ∈ y.lanes, u = newThread (BitVec.ofNat 32 (x.index * k.decl.partySize + j)) j k.decl.trap) ∧
           ∀ j r a, stands j r a →
             (∀ i r' a', stands i r' a' → i ≠ j → a + r.size ≤ a' ∨ a' + r'.size ≤ a) →
             (∀ x ∈ k.places, a + r.size ≤ x.core * 2 ^ 23 + x.base ∨ x.core * 2 ^ 23 + x.base + k.decl.scratch ≤ a) →
             (j ∈ k.adopted → ∀ o, o < r.size → cellGet t.sram.mem (a + o) = cellGet s.sram.mem (a + o)) ∧
             (j ∉ k.adopted → ¬ staged r → ∀ o, o < r.size → cellGet t.sram.mem (a + o) = 0) ∧
             (j ∉ k.adopted → staged r → ∀ image : List Byte, image.length = r.size * tyBits r.dfmt / tyBits r.sfmt →
               (∀ m, 64 * m < image.length → ∃ x ∈ k.xfers, x.record = j ∧ x.core = sliceOf a ∧ x.va = r.far + 64 * m ∧
                 x.write = false) →
               (∀ x ∈ k.xfers, ∀ m, x.record = j → x.core = sliceOf a → x.va = r.far + 64 * m → x.write = false →
                 x.state = .got ((image.drop (64 * m)).take 64)) →
               (∀ o, o < r.size → (∀ y ∈ r.relocs, o < y.1 ∨ y.1 + 4 ≤ o) →
                 cellGet t.sram.mem (a + o) = convertedByte r.dfmt r.sfmt image o) ∧
               ∀ y ∈ r.relocs, (∀ z ∈ r.relocs, z ≠ y → z.1 + 4 ≤ y.1 ∨ y.1 + 4 ≤ z.1) →
                 ∀ b, k.bases.getD y.2.1 none = some b →
                   wordAt t.sram.mem (a + y.1) = BitVec.ofNat 32 (b + y.2.2))) ∧
       (∀ ws a, xfersDone s k = true → (∀ x ∈ k.xfers, xferFailed x = false) → k.args = some ws → ws.length = 4 →
         k.bases.head? = some (some a) → Memory.wf s.sram.mem = true → (∀ sec, sectorErrors s sec = []) → ∃ t k', exec (.taskStaging k.uid) s = .next t ∧
           findTask t k.uid = some k' ∧ k'.state = .running ∧
           ∀ j, j < 4 → wordAt t.sram.mem (a + 4 * j) = ws.getD j 0)) ∧
     (parkedActive s core = none → activeSlot s core = some n → longestReady s core = some h →
       ∃ t, exec (.activeSetExchange core) s = .next t ∧
         findGroup t h.gid = some { h with active := some n, issued := 0 } ∧
         (∀ id, id ≠ h.gid → findGroup t id = findGroup s id) ∧ t = { s with groups := t.groups }) ∧
     (parkedActive s core = some g → (∀ y, longestReady (deactivate s g) core = some y → y.gid ≠ g.gid) → ∃ t g', exec (.activeSetExchange core) s = .next t ∧
       findGroup t g.gid = some g' ∧ g'.active = none ∧ g'.lanes = g.lanes ∧ g'.paths = g.paths ∧
       t = { s with groups := t.groups }) ∧
     (longIssued s core = some g → longestReady s core = some h → g.active = some n → g.gid ≠ h.gid →
       ∃ t, exec (.rotation core) s = .next t ∧
         findGroup t g.gid = some { g with active := none, readySince := s.now } ∧
         findGroup t h.gid = some { h with active := some n, issued := 0 } ∧
         (∀ id, id ≠ g.gid → id ≠ h.gid → findGroup t id = findGroup s id) ∧ t = { s with groups := t.groups })) ∧
  (∀ (s : State) (q : Partition) (t : Task) (c : Chooser) (p : Plan) (i : Nat),
     let f := placeNew s q t
     let share := fun n : Nat => if t.cls = 0 then 0 else n
     let used := fun m : Nat => (p.owners.filter fun x => decide (x.1 / 2048 = m)).length
     let spilled := fun m : Nat => ∃ r ∈ p.reserves, r.slice = m
     let spill := (if t.decl.spillKiB = 0 then 64 else t.decl.spillKiB) / 4
     let free := fun m a n : Nat => a + n ≤ 1536 ∧ ∀ x ∈ p.owners, x.1 / 2048 = m → x.1 % 2048 < a ∨ a + n ≤ x.1 % 2048
     let runs := fun m n a b : Nat => free m a n ∧ (spilled m ∨ (free m b spill ∧ (a + n ≤ b ∨ b + spill ≤ a)))
     let room := fun m n : Nat => (sliceReg s m).fb2 = none ∧ (∃ a b, runs m n a b) ∧
       (spilled m → used m + n + share q.rgran ≤ q.gran) ∧ (¬ spilled m → used m + n + spill + share q.rgran ≤ q.gran)
     let far := fun x y : Nat => (x - y) + (y - x)
     let hops := fun m : Nat => far (m / 64 % 4) (t.tract % 4) + far (m / 64 / 4) (t.tract / 4)
     let before := fun (key : Nat → Nat) (m x : Nat) =>
       key x < key m ∨ (key x = key m ∧ (hops m < hops x ∨ (hops m = hops x ∧ m < x)))
     let took := fun (p' : Plan) (m n a : Nat) (o : Owner) => ∃ b, runs m n a b ∧
       (∀ g w, (g, w) ∈ p'.owners ↔ (g, w) ∈ p.owners ∨ (w = o ∧ ∃ j, j < n ∧ g = m * 2048 + a + j) ∨
         (¬ spilled m ∧ w = .spill t.uid ∧ ∃ j, j < spill ∧ g = m * 2048 + b + j)) ∧
       (spilled m → p'.reserves = p.reserves) ∧ (¬ spilled m → p'.reserves = p.reserves ++ [⟨m, b * 4096, spill⟩])
     (∀ x ∈ p.owners, x.1 % 2048 < 1536) → t.decl.spillKiB = 0 ∨ 64 ≤ t.decl.spillKiB →
     (0 < t.decl.partySize → 0 < t.decl.scratch →
       let n := (t.decl.scratch + 4095) / 4096
       let here := fun m : Nat => (p.places.filter fun x => decide (x.core = m)).length
       let reserve := fun m : Nat => if here m = 0 then t.decl.hres else 0
       let slots := fun m : Nat => min (q.thr - threadsUsed s q.id m) (2048 - (s.tasks.map (taskSlots s m)).sum) -
         (here m * t.decl.partySize + if here m = 0 then 0 else t.decl.hres)
       let fits := fun m : Nat => q.cores.getLsbD m = true ∧ room m n ∧
         t.decl.partySize + reserve m + share q.rthr ≤ slots m ∧
         (here m = 0 → handlersUsed s q.id m + t.decl.hres ≤ q.hnd ∧
           (s.tasks.map (taskHandlers m)).sum + t.decl.hres ≤ 1024)
       (∀ p', f.placeParty c p i = some p' → ∃ m a, m < 512 ∧ fits m ∧
         (∀ x, x < 512 → fits x → x ≠ m → before slots m x) ∧ took p' m n a (.party t.uid i) ∧
         p'.places = p.places ++ [⟨i, m, a * 4096⟩] ∧ p'.bases = p.bases) ∧
       (f.placeParty .first p i = none ↔ ∀ m, m < 512 → ¬ fits m)) ∧
     ∀ (k : Nat) (r : Region), r.kind = .immutable ∨ r.kind = .shared → 0 < r.size → p.bases[k]? = some none →
       let n := (r.size + 4095) / 4096
       let may := fun m : Nat => match r.party with
         | some j => (p.places.find? fun x => decide (x.index = j)).map (·.core) = some m
         | none => m < 512 ∧ q.cores.getLsbD m = true
       (∀ p', f.placeRegion c p k r = some p' → ∃ m a, may m ∧ room m n ∧
         (r.party = none → ∀ x, may x → room x n → x ≠ m → before (fun y => q.gran - used y) m x) ∧
         took p' m n a (.region t.uid k) ∧ p'.places = p.places ∧
         p'.bases = p.bases.set k (some (m * 2 ^ 23 + a * 4096))) ∧
       (f.placeRegion .first p k r = none ↔ ∀ m, may m → ¬ room m n))

/-- R90, R91, R94, R127, R128, R135, R258, R265, R277, R281, R282: the events by which tasks leave the
cores. A task whose work is done writes its OUT regions back, converted, in record order and in ascending
addresses, each burst once those before it are accepted or have failed; then it retires: it ends with code
0, or 0x23 where a burst failed, its KEEP regions keep their granules, kept regions that a written range
meets are dropped, its other granules are free, its completion is counted and a task that waited for it
alone is released; a task told to stop first stops its children, and ends with its report, which has the
threads that have exited too, in the stop log and nothing of it on a core, and the task that waits for it is
cancelled; a pre-empted task's threads and scratch, read through the bank code (R134), are saved and it goes
back to Released, and a restored one runs with them at its new places. That a scratch sector which cannot be
decoded stops the task that is saved is the model's choice. The two phases of a stop and how a path reaches
its boundary, the lines of its report, the size of a context, its bursts and what a save waits for, the
codes of stops, the parties that are saved, the save of a scratch sector that cannot be decoded, and a
restore to a slice or core that is full, are the model's (log entries 10, 24, 25, 26, 28, 53, 55, 82, 83,
84, 88, 94, 101, 109, 110). -/
def Obligations.TasksLeaveAndReturn : Prop :=
  ∀ (s : State) (k j p : Task) (q : Partition) (place : Placement) (kind a : Nat) (v : Saved) (pl : Plan)
    (s' : State) (i : Nat) (cells : Cells 8),
    findTask s k.uid = some k →
    let record := fun (j : Nat) (r : Region) (a : Nat) => k.decl.regions[j]? = some r ∧ k.bases.getD j none = some a
    let converted := fun (r : Region) (a : Nat) => (List.range (r.size * tyBits r.dfmt / tyBits r.sfmt)).map
      (convertedByte r.sfmt r.dfmt (bytesAt s.sram.mem a r.size))
    (mayRetire s k = true → k.xfers = [] → outRegions k ≠ [] →
      (∀ x ∈ outRegions k, convExists x.1.sfmt x.1.dfmt = true ∧ x.1.size % 32 = 0) →
      let secs := (outRegions k).flatMap fun x => sectorRange x.2 x.1.size
      ((∀ x ∈ secs, sectorErrors s x = []) → ∃ t k', exec (.taskRetirement k.uid) s = .next t ∧
        findTask t k.uid = some k' ∧ k' = { k with xfers := k'.xfers } ∧ t.sram = s.sram ∧ t.groups = s.groups ∧
        (k'.xfers.map fun x => (x.va, x.write, x.data)) = (outRegions k).flatMap fun x =>
          let image := converted x.1 x.2
          (List.range ((image.length + 63) / 64)).map fun m =>
            (x.1.far + 64 * m, true, (image.drop (64 * m)).take 64)) ∧
      (∀ (n x : Nat), secs[n]? = some x → sectorBad s x = true →
        (∀ (m y : Nat), m < n → secs[m]? = some y → sectorBad s y = false) →
        ∃ t, exec (.taskRetirement k.uid) s = .next t ∧
          StopsAt s { task := k.uid, step := 0, tid := 0xFFFFFFFF, pc := 0 } x t)) ∧
    (∀ (n dpa : Nat) (x : Xfer), mayRetire s k = true → k.xfers[n]? = some x → x.state = .todo → x.write = true →
      isFabric x.va = false → (∀ (m : Nat) y, m < n → k.xfers[m]? = some y → y.state = .accepted ∨ xferFailed y = true) →
      (∀ (m : Nat) y, n < m → k.xfers[m]? = some y → y.state = .todo ∧ y.write = true) → findPart s k.part = some q →
      translate s.xlate (.staging x.core) (tractOf x.core) q.pasid x.va true = some (s.host.hpa0 + dpa, s.xlate) →
      dpa < hdmSize → burstOf dpa ∉ s.host.tracked → queueFree s dpa = true → Memory.wf s.dram.mem = true →
      let leaves := fun (t : State) (st : BurstState) => exec (.taskRetirement k.uid) s = .next t ∧
        findTask t k.uid = some { k with xfers := k.xfers.set n { x with state := st } } ∧ t.sram = s.sram ∧
        t.groups = s.groups
      (platAllows s.dram.plat q.dom (rowOf dpa) = true → ∃ t, leaves t .accepted ∧ ∀ b, cellGet t.dram.mem b =
        if dpa ≤ b ∧ b < dpa + x.data.length then x.data.getD (b - dpa) 0 else cellGet s.dram.mem b) ∧
      (platAllows s.dram.plat q.dom (rowOf dpa) = false → ∃ t, leaves t (.failed 2) ∧ t.dram = s.dram)) ∧
    (mayRetire s k = true → (k.xfers = [] → outRegions k = []) → xfersDone s k = true →
      let code := if k.xfers.any xferFailed then 0x23 else 0
      let meets := fun y : Kept => ∃ x ∈ outRegions k, y.far < x.1.far + x.1.farBytes ∧ x.1.far < y.far + y.farBytes
      let keeps := fun (r : Region) (a : Nat) => (⟨k.part, r.far, r.size, r.kind, r.sfmt, r.dfmt, a⟩ : Kept)
      ∃ t k', exec (.taskRetirement k.uid) s = .next t ∧ findTask t k.uid = some k' ∧ k'.state = .ended ∧
        (∀ y, y ∈ t.kept ↔ (y ∈ s.kept ∧ ¬ (y.part = k.part ∧ meets y)) ∨
          ∃ j r a, record j r a ∧ r.keep = true ∧ y = keeps r a) ∧
        (∀ j r a, record j r a → r.keep = true → a % 4096 = 0 →
          (∀ i r' a', record i r' a' → r'.keep = true → i ≠ j → a' % 4096 = 0 ∧
            (a + r.size ≤ a' ∨ a' + r'.size ≤ a)) →
          ∀ o, o < r.size → ((a + o) / 4096, Owner.kept k.part r.far) ∈ t.sram.owners) ∧
        (∀ x ∈ t.sram.owners, ∀ n, x.2 ≠ .party k.uid n ∧ x.2 ≠ .region k.uid n ∧ x.2 ≠ .spill k.uid) ∧
        (k.fn = none → k.ccell = none → t.sram.mem = s.sram.mem ∧ t.host = s.host) ∧
        (∀ f, k.fn = some f → t.host.fns = s.host.fns.map fun x =>
          if x.fn = f then { x with waiting := x.waiting ++ [(k.handle, code)] } else x) ∧
        (k.fn = none → k.ccell = some a → k.parent = some p.uid → p.uid ≠ k.uid → findTask s p.uid = some p →
          savedCell p a = none → p.state ≠ .ended → (∀ sec, sectorErrors s sec = []) →
          Memory.wf s.sram.mem = true → a % 4 = 0 →
          Counted (wordAt s.sram.mem a) (wordAt t.sram.mem a) 1 code ∧
          ∀ y, y < a ∨ a + 4 ≤ y → cellGet t.sram.mem y = cellGet s.sram.mem y) ∧
        (k.ccell = none → findTask s j.uid = some j → j.uid ≠ k.uid → j.state = .waiting →
          j.preds = [k.uid] → j.counter = 1 → findTask t j.uid = some { j with
            state := .released, releasedAt := s.now, counter := 0, preds := [] })) ∧
    (k.stop = some kind → k.state ≠ .ended → (liveChildren s k.uid).map (·.uid) = [j.uid] → findTask s j.uid = some j →
      j.uid ≠ k.uid → j.stop = none → ∃ t j', exec (.taskStop k.uid) s = .next t ∧ findTask t j.uid = some j' ∧
        j'.stop = some 0x15 ∧ (j.state ≠ .waiting → t.groups = s.groups ∧ t.sram = s.sram ∧
          findTask t k.uid = some k)) ∧
    (∀ g ∈ s.groups, g.task = k.uid → ∀ y ∈ g.paths,
      (k.stop.isSome = true → y.pre.rank = 0 → canGo s g y = false) ∧
      (k.state = .running → y.pre.rank ≠ 0 → canGo s g y = (unparked s g y && unblocked s g y)) ∧
      (k.stop.isSome = true → liveChildren s k.uid = [] → resident s g = true → y.pre.rank ≠ 0 → heldSince y = none →
        canGo s g y = true → exec (.taskStop k.uid) s = .next s) ∧
      (∀ c, s.cursor = some c → k.stop.isSome = true → findGroup s c.gid = some g → findPath g c.pid = some y →
        (g.paths.map (·.pid)).Nodup → y.pre.rank ≠ 0 → y.pc = c.pc → y.park = none → ∃ g' y', findGroup (tick s) c.gid = some g' ∧
          findPath g' c.pid = some y' ∧ y' = { y with pc := y.pre.start, pre := Prefix.none, slot := y'.slot })) ∧
    (k.stop = some kind → k.state ≠ .ended → liveChildren s k.uid = [] → writesBegun s k.uid = false →
      (∀ g ∈ s.groups, g.task = k.uid → ∀ y ∈ g.paths, y.pre.rank = 0 ∨ canGo s g y = false) →
      k.fn = none → k.ccell = none →
      ∃ t k' r, exec (.taskStop k.uid) s = .next t ∧ findTask t k.uid = some k' ∧ k'.state = .ended ∧
        k'.stop = some kind ∧ k'.places = [] ∧ t.mgmt.stopLog = s.mgmt.stopLog ++ [r] ∧ r.handle = k.handle ∧
        r.part = k.part ∧ r.frec = k.frec ∧ (∀ x ∈ k.exited, x ∈ r.threads) ∧
        (∀ g ∈ s.groups, g.task = k.uid → ∀ y ∈ g.paths, ∀ l ∈ lanesOf y.exec, ∃ x ∈ r.threads,
          x.step = (laneOf g l).step ∧ x.pc = (if y.pre.rank = 0 then y.pc else y.pre.start) ∧
          x.tid = if g.handler = none then (laneOf g l).tid else BitVec.allOnes 32) ∧
        (∀ g ∈ t.groups, g.task ≠ k.uid) ∧
        (∀ e ∈ t.sram.entries, domTask e.dom ≠ k.uid) ∧ (∀ o ∈ t.sram.offers, o.task ≠ k.uid) ∧
        (∀ c ∈ t.eng.copies, c.head.task ≠ k.uid) ∧ (∀ b ∈ t.eng.bulks, b.head.task ≠ k.uid) ∧
        (successors s k.uid = [j.uid] → findTask s j.uid = some j → j.uid ≠ k.uid → j.state = .waiting → j.stop = none →
          ∃ j', findTask t j.uid = some j' ∧ j'.state = .ended ∧ j'.stop = some 0x15)) ∧
    (k.state = .running → k.stop = none →
      (contextFits s k = false → ∃ t, exec (.preemption k.uid) s = .next t ∧
        t = { s with tasks := s.tasks.map fun y =>
          if y.uid = k.uid then { y with saving := false, held := false } else y }) ∧
      (contextFits s k = true → k.saving = false → ∃ t, exec (.preemption k.uid) s = .next t ∧
        t = { s with tasks := s.tasks.map fun y => if y.uid = k.uid then { y with saving := true } else y }) ∧
      (contextFits s k = true → k.saving = true → settledForSave s k.uid = true →
        let saves := fun u : State => ∃ t k' c, exec (.preemption k.uid) s = .next t ∧ findTask t k.uid = some k' ∧
          k'.state = (if k.held then .preempted else .released) ∧
          k'.saved = some c ∧ k'.bases = k.bases ∧ k'.places = [] ∧ c.places = heldPlaces s k ∧
          (∀ g ∈ t.groups, g.task ≠ k.uid) ∧
          (c.groups.map fun g => (g.gid, g.lanes)) =
            ((s.groups.filter fun g => decide (g.task = k.uid)).map fun g => (g.gid, g.lanes)) ∧
          (∀ x ∈ heldPlaces s k, ∃ y ∈ c.scratch, y.1 = x.index ∧ ∀ o, o < k.decl.scratch →
            cellGet y.2 o = cellGet u.sram.mem (x.core * 2 ^ 23 + x.base + o)) ∧
          t.sram.mem = u.sram.mem
        let bad := scratchErrors s k
        (bad = [] → saves s) ∧
        (Memory.wf s.sram.mem = true → (∀ x ∈ bad, sectorBad s x = false) → ∃ u, ReadsSectors s bad u ∧ saves u) ∧
        (∀ (n x : Nat), bad[n]? = some x → sectorBad s x = true →
          (∀ (m y : Nat), m < n → bad[m]? = some y → sectorBad s y = false) →
          ∃ t, exec (.preemption k.uid) s = .next t ∧
            StopsAt s { task := k.uid, step := 0, tid := 0xFFFFFFFF, pc := 0 } x t))) ∧
    (k.state = .released → k.saved = some v → findPart s k.part = some q →
      (nextAdmitted s k.tract k.part).map (·.uid) = some k.uid →
      restorePlan (.given place.runs) s q k = some (s', pl) → pl.made.length = place.runs.length →
      (v.groups.map (·.gid)).Nodup → (∀ g ∈ v.groups, ∀ y ∈ s.groups, y.gid ≠ g.gid) →
      ∃ t k', exec (.restore k.uid place) s = .next t ∧ findTask t k.uid = some k' ∧ k'.state = .running ∧
        k'.saved = none ∧ k'.places = pl.places ∧ k'.bases = k.bases ∧
        (∀ g ∈ v.groups, ∃ g' ∈ t.groups, g'.gid = g.gid ∧ g'.lanes = g.lanes ∧ g'.party = g.party ∧
          ∀ x, pl.places.find? (fun y => decide (y.index = g.party)) = some x → g'.core = x.core) ∧
        (v.scratch = [(i, cells)] → Memory.wf s.sram.mem = true → Memory.wf cells = true →
          (∀ c ∈ cells, c.1 < k.decl.scratch) →
          ∀ x, pl.places.find? (fun y => decide (y.index = i)) = some x → ∀ o, o < k.decl.scratch →
            cellGet t.sram.mem (x.core * 2 ^ 23 + x.base + o) = cellGet cells o))

/-! ### Outside -/

/-- R283 to R287, R298: the events of translation. An ATS answer fills the tract's cache, sends the burst
that waited for it on its way again, or, where the host has no page, makes it wait on a page request, and
after three successful responses fails it with code 1; an invalidation takes every entry of its range out of
every cache, and its completion waits for the accesses under way that used one; a flush sends the tract's
records as one group and advances the generation; a response wakes the bursts that wait on its generation,
or fails them, and one of a discarded generation does nothing; a stop marker discards what is older, and a
request that waited on it sends one new request under the new generation; a counter at the threshold of the
partition that it counts for is posted and starts again. One fault-log entry for each request and page, its
response code, what joins a record, and the threshold that a counter is compared with, that of its PASID's
partition, are the model's readings (log entries 18, 45, 79, 80). -/
def Obligations.TranslationEventsFollowTheirRules : Prop :=
  ∀ (s : State) (c : Copy) (n tries pasid va page size target base tract gen die slot limit : Nat) (x : Burst)
    (w : Waiter) (wr rd ww : Bool) (code : PrgCode) (e : AccessCounter) (q : Partition),
    let ask := (tract, pasid, page, wr)
    let sends := fun st : BurstState => { c with bursts := c.bursts.set n { x with state := st } }
    let used := fun y : Waiter => (∃ a, y.state = .snoop a) ∧ ∃ k, xlateKey s y = some k ∧ k.1 = pasid ∧
      ((k.2 < va + size ∧ va < k.2 + y.len) ∨ ∃ e ∈ s.xlate.caches, e.pasid = pasid ∧ e.base < va + size ∧
        va < e.base + e.size ∧ e.base ≤ k.2 ∧ k.2 < e.base + e.size ∧
        (e.cache = y.client.front ∨ e.cache = .tract (tractOf y.client.core)))
    let becomes := fun (i : Instr) (st : BurstState) (P : State → Prop) => ∃ t, exec i s = .next t ∧
      findCopy t c.head.id = some (sends st) ∧ t.sram = s.sram ∧ t.tasks = s.tasks ∧ P t
    (findCopy s c.head.id = some c → c.bursts[n]? = some x → w.client.req = c.head.id → w.client.n = n →
      (s.xlate.asked.filter fun r => decide (r.2.1 = pasid) && decide (r.2.2.1 = pageOf va)) = [ask] →
      ((waiters s).filter fun w => waitsAts w && needsPage s w tract pasid page wr) = [w] →
      w.state = .ats tries →
      (atsOk va (.page base size target rd ww) = true → (if wr then ww else rd) = true →
        becomes (.atsCompletion pasid va (.page base size target rd ww)) .again fun t =>
          ask ∉ t.xlate.asked ∧ ∃ y ∈ t.xlate.caches, y = { cache := .tract tract, pasid := pasid, base := base, size := size, target := target, read := rd, write := ww }) ∧
      (tries < 3 → (bufferOf s.xlate tract).length < 512 →
        becomes (.atsCompletion pasid va .notPresent) (.page (genOf s.xlate tract) tries) fun t =>
          ∃ r ∈ t.xlate.records, r.tract = tract ∧ r.gen = genOf s.xlate tract ∧ r.pasid = pasid ∧
            r.page = page ∧ (wr = true → r.write = true)) ∧
      (3 ≤ tries → pageRefused s w = false → becomes (.atsCompletion pasid va .notPresent) (.failed 1) fun t =>
        ∃ r ∈ t.xlate.faults, r.part = w.client.part ∧ r.pasid = pasid ∧ r.page = page ∧
          r.write = w.write.isSome)) ∧
    (∃ t, exec (.invalidateRequest pasid va size) s = .next t ∧
      (∀ y, y ∈ t.xlate.caches ↔ y ∈ s.xlate.caches ∧
        ¬ (y.pasid = pasid ∧ y.base < va + size ∧ va < y.base + y.size)) ∧
      ((∀ y ∈ waiters s, ¬ used y) → (pasid, va, size) ∈ t.xlate.completions) ∧
      (s.xlate.invalidating = [] → (∃ y ∈ waiters s, used y) → t.xlate.completions = s.xlate.completions) ∧
      t = { s with xlate := { s.xlate with
        caches := t.xlate.caches, invalidating := t.xlate.invalidating, completions := t.xlate.completions } }) ∧
    (32 ≤ (currentRecords s.xlate tract).length ∨
        (∃ r ∈ currentRecords s.xlate tract, r.since + 1300 ≤ s.now) →
      ∃ t, exec (.faultBufferFlush tract) s = .next t ∧
        t.xlate.sent = s.xlate.sent ++ [(tract, genOf s.xlate tract)] ∧
        genOf t.xlate tract = genOf s.xlate tract + 1 ∧ (∀ y, y ≠ tract → genOf t.xlate y = genOf s.xlate y) ∧
        t = { s with xlate := { s.xlate with sent := t.xlate.sent, gens := t.xlate.gens } }) ∧
    ((tract, gen) ∉ s.xlate.sent → exec (.pageRequestResponse tract gen code) s = .next s) ∧
    ((tract, gen) ∈ s.xlate.sent → findCopy s c.head.id = some c → c.bursts[n]? = some x →
      w.client.req = c.head.id → w.client.n = n → waitsOn s tract gen = [w] → w.state = .page gen tries →
      (xlateKey s w).isSome = true →
      becomes (.pageRequestResponse tract gen code) (if code = .success then .ats (tries + 1) else .failed 1)
        fun t => (tract, gen) ∉ t.xlate.sent ∧ ∀ r ∈ t.xlate.records, ¬ (r.tract = tract ∧ r.gen = gen)) ∧
    (tract < 8 → findCopy s c.head.id = some c → c.bursts[n]? = some x → w.client.req = c.head.id → w.client.n = n →
      ((waiters s).filter fun y => decide (tractOf y.client.core = tract) && (match y.state with
        | .page _ _ => true
        | _ => false)) = [w] → w.state = .page gen tries → xlateKey s w = some (pasid, va) →
      let now := genOf s.xlate tract + 1
      becomes (.stopMarker tract) (.page now tries) fun t => genOf t.xlate tract = now ∧
        (∀ y ∈ t.xlate.sent, y.1 ≠ tract) ∧ t.xlate.records = s.xlate.records.filter (fun r => decide (r.tract ≠ tract)) ++
          [⟨tract, now, pasid, pageOf va, w.write.isSome, s.now⟩]) ∧
    (tract < 8 → (∀ y ∈ waiters s, ∀ a b, y.state ≠ .page a b) → ∃ t, exec (.stopMarker tract) s = .next t ∧
      genOf t.xlate tract = genOf s.xlate tract + 1 ∧ (∀ y ∈ t.xlate.sent, y.1 ≠ tract) ∧
      (∀ r ∈ t.xlate.records, r.tract ≠ tract) ∧
      t = { s with xlate := { s.xlate with
        gens := t.xlate.gens, sent := t.xlate.sent, records := t.xlate.records } }) ∧
    ((dieCounters s.xlate die)[slot]? = some e → s.parts.find? (fun y => decide (y.pasid = e.pasid)) = some q →
      assoc s.xlate.thresholds q.id 0 = limit → limit ≠ 0 → limit ≤ e.count →
      ∃ t, exec (.accessCounterNotify die slot) s = .next t ∧
        t.xlate.notices = s.xlate.notices ++ [(e.pasid, e.block)] ∧
        t.xlate.counters = s.xlate.counters.map (fun y => if y = e then { y with count := 0 } else y) ∧
        t = { s with xlate := { s.xlate with counters := t.xlate.counters, notices := t.xlate.notices } })

/-- R63, R65, R294 to R297: the events of the host link. A host write of a burst that the plat allows lands
in the stacks and one that it refuses does not, and the response says which, once its queue has issued it
(R69, R70); a read returns the burst and marks it as one the host may hold, or returns its uncorrectable
error (R68); the answer to a snoop lets the burst that waited go on, a read's after `BISnpCur` and a write's
after `BISnpInv`, which takes the mark away; the ring registers take what their rings allow; the next
submission entry becomes a record of the function's partition or a completion entry that says why not; a
completion entry is written with its phase, and signalled. That a request reads and writes its bytes as it
enters its queue, and a launch of a task that the loader rejected, are the model's readings (log entries 20,
77), and the code for an unknown object its choice (log entry 113). -/
def Obligations.HostEventsFollowTheirRules : Prop :=
  ∀ (s : State) (f : HostFn) (v : Word) (dpa : Nat) (bs : List Byte) (c : Copy) (n : Nat) (x : Burst)
    (w : Waiter) (handle code : Nat) (q : Partition),
    findFn s f.fn = some f →
    let hpa := s.host.hpa0 + dpa
    let sets := fun (i : Instr) (f' : HostFn) => ∃ t, exec i s = .next t ∧ findFn t f.fn = some f' ∧
      (∀ k, k ≠ f.fn → findFn t k = findFn s k) ∧ t = { s with host := { s.host with fns := t.host.fns } }
    let on := v.getLsbD 31
    let size := v.toNat % 16
    let queued := queryAtBank s (bankOf dpa) || pchYields s (pchOf dpa)
    let responds := fun (h : HostSide) (r : HostResponse) => if queued then { h with held := h.held ++ [(s.fresh, r)] }
      else { h with responses := h.responses ++ [r] }
    (dpa < hdmSize → queueFree s dpa = true → dpa % 64 + bs.length ≤ 64 → Memory.wf s.dram.mem = true →
      (∀ y ∈ s.dram.queues, y.req < s.fresh) →
      (platAllows s.dram.plat (fnDom s f) (rowOf dpa) = true →
        ∃ t, exec (.hostMemoryAccess f.fn hpa (some bs)) s = .next t ∧
          (∀ k (h : k < bs.length), cellGet t.dram.mem (dpa + k) = bs[k]) ∧
          (∀ a, a < dpa ∨ dpa + bs.length ≤ a → cellGet t.dram.mem a = cellGet s.dram.mem a) ∧
          t.sram = s.sram ∧ t.tasks = s.tasks ∧ t.host = responds s.host ⟨f.fn, dpa, 0, []⟩) ∧
      (platAllows s.dram.plat (fnDom s f) (rowOf dpa) = false →
        ∃ t, exec (.hostMemoryAccess f.fn hpa (some bs)) s = .next t ∧ t = { s with
          fresh := t.fresh
          host := { s.host with
            responses := s.host.responses ++ [⟨f.fn, dpa, 2, []⟩] } }) ∧
      (platAllows s.dram.plat (fnDom s f) (rowOf dpa) = true → reportOf s.dram (burstOf dpa) = .clean →
        ∃ t, exec (.hostMemoryAccess f.fn hpa none) s = .next t ∧ dpa / 64 ∈ t.host.tracked ∧
          t.host = { responds s.host ⟨f.fn, dpa, 0, bytesAt s.dram.mem dpa (64 - dpa % 64)⟩ with tracked := t.host.tracked } ∧
          t.dram.mem = s.dram.mem ∧ t.sram = s.sram ∧ t.tasks = s.tasks) ∧
      (platAllows s.dram.plat (fnDom s f) (rowOf dpa) = true → reportOf s.dram (burstOf dpa) = .uncorrectable →
        ∃ t, exec (.hostMemoryAccess f.fn hpa none) s = .next t ∧ t.dram.mem = s.dram.mem ∧
          t.host = responds s.host ⟨f.fn, dpa, 3, []⟩)) ∧
    (findCopy s c.head.id = some c → c.bursts[n]? = some x →
      w.client.req = c.head.id → w.client.n = n → w.state = .snoop dpa → isFabric w.va = false →
      ((waiters s).filter fun y => (waitsSnoop (burstOf dpa) w.write.isSome y).isSome) = [w] →
      (burstOf dpa, w.write.isSome) ∈ s.host.snoops →
      queueFree s dpa = true → platAllows s.dram.plat w.client.dom (rowOf dpa) = true →
      reportOf s.dram (burstOf dpa) = .clean →
      let goes := fun (st : BurstState) (P : State → Prop) => ∃ t, exec (.snoopResponse ⟨burstOf dpa, w.write.isSome⟩) s = .next t ∧
        (burstOf dpa, w.write.isSome) ∉ t.host.snoops ∧
        findCopy t c.head.id = some { c with bursts := c.bursts.set n { x with state := st } } ∧ t.sram = s.sram ∧ P t
      (w.write = none → goes (.got (bytesAt s.dram.mem dpa w.len)) fun t =>
        t.dram.mem = s.dram.mem ∧ t.host.tracked = s.host.tracked) ∧
      (w.write = some bs → c.badOf n = [] → Memory.wf s.dram.mem = true → goes .accepted fun t =>
        (∀ k (h : k < bs.length), cellGet t.dram.mem (dpa + k) = bs[k]) ∧
        (∀ a, a < dpa ∨ dpa + bs.length ≤ a → cellGet t.dram.mem a = cellGet s.dram.mem a) ∧
        ∀ y, y ∈ t.host.tracked ↔ y ∈ s.host.tracked ∧ y ≠ burstOf dpa)) ∧
    (f.part ∈ s.host.resetting → exec (.sqtail f.fn v) s = .next s ∧ exec (.cqhead f.fn v) s = .next s) ∧
    (f.part ∉ s.host.resetting → sets (.sqtail f.fn v) (if f.sqEn then { f with sqTail := v.toNat % 4096 % 2 ^ f.sqN } else f) ∧
      sets (.cqhead f.fn v) (if f.cqEn then { f with cqHead := v.toNat % 4096 % 2 ^ f.cqM } else f)) ∧
    sets (.sqcfg f.fn v) (if f.sqEn then { f with sqEn := on }
      else if on = true ∧ 4 ≤ size ∧ size ≤ 12 then { f with sqN := size, sqEn := true, sqHead := 0, sqTail := 0 }
      else { f with sqN := size }) ∧
    (f.cqEn = true → sets (.cqcfg f.fn v) { f with cqEn := on, cqIen := v.getLsbD 30 }) ∧
    (f.cqEn = false → on = true → 4 ≤ size → size ≤ 12 → sets (.cqcfg f.fn v) { f with
      cqM := size, cqVector := v.toNat / 2 ^ 16 % 64, cqIen := v.getLsbD 30, cqEn := true, cqHead := 0, cqTail := 0
      phase := true }) ∧
    (f.cqEn = false → ¬ (on = true ∧ 4 ≤ size ∧ size ≤ 12) → sets (.cqcfg f.fn v) { f with
      cqM := size, cqVector := v.toNat / 2 ^ 16 % 64, cqIen := v.getLsbD 30 }) ∧
    (let low := fun b : BitVec 64 => b.extractLsb' 32 32 ++ (v &&& 0xFFFFF000)
      let high := fun b : BitVec 64 => v ++ b.extractLsb' 0 32
      sets (.registerWrite f.fn 0x1000 v) (if f.sqEn then f else { f with sqBase := low f.sqBase }) ∧
      sets (.registerWrite f.fn 0x1004 v) (if f.sqEn then f else { f with sqBase := high f.sqBase }) ∧
      sets (.registerWrite f.fn 0x1018 v) (if f.cqEn then f else { f with cqBase := low f.cqBase }) ∧
      sets (.registerWrite f.fn 0x101C v) (if f.cqEn then f else { f with cqBase := high f.cqBase })) ∧
    (f.sqEn = true → f.sqHead ≠ f.sqTail → f.part ∉ s.host.resetting → findPart s f.part = some q →
      let ws := wordsOf (bytesAt s.host.mem (f.sqBase.toNat + 64 * f.sqHead) 64)
      let r := launchOf ((ws.drop 2).take 8)
      let obj := ws.getD 0 0 + 2 ^ 32 * ws.getD 1 0
      let decl := declOf (hostObject s f obj) r
      let child := newTask s.fresh f.part 0 obj (decl.getD default) r r.cls 1 none (some f.fn) none
      let why := refusal s q decl r (hostFieldsOk ws r) true 1 child
      let next := { f with sqHead := (f.sqHead + 1) % 2 ^ f.sqN }
      (why ≠ 0 → ∃ t, exec (.hostLaunch f.fn) s = .next t ∧
        findFn t f.fn = some { next with waiting := f.waiting ++ [(0, 0x40 + why)] } ∧
        t = { s with host := { s.host with fns := t.host.fns } }) ∧
      (why = 0 → (∀ k ∈ s.tasks, k.uid < s.fresh ∧ (k.state = .waiting → k.counter ≠ 0)) →
        ∃ t k, exec (.hostLaunch f.fn) s = .next t ∧ findFn t f.fn = some next ∧
          findTask t s.fresh = some k ∧ k.fn = some f.fn ∧ k.part = f.part ∧ k.handle = q.lastHandle + 1 ∧
          k.parent = none ∧ k.depth = 1 ∧ k.object = obj ∧ some k.decl = decl ∧ k.nparty = r.nparty ∧
          (∀ id, id ≠ s.fresh → findTask t id = findTask s id) ∧ t.sram = s.sram)) ∧
    (f.waiting.head? = some (handle, code) → f.cqEn = true → f.part ∉ s.host.resetting → (f.cqTail + 1) % 2 ^ f.cqM ≠ f.cqHead →
      Memory.wf s.host.mem = true →
      let a := f.cqBase.toNat + 16 * f.cqTail
      let tail := (f.cqTail + 1) % 2 ^ f.cqM
      ∃ t, exec (.completionEntryWrite f.fn) s = .next t ∧
        findFn t f.fn = some { f with
          waiting := f.waiting.tail, cqTail := tail, phase := if tail = 0 then !f.phase else f.phase } ∧
        (∀ k, k < 4 → cellGet t.host.mem (a + k) = byteAt handle k) ∧
        cellGet t.host.mem (a + 4) = BitVec.ofNat 8 code ∧
        cellGet t.host.mem (a + 7) = (if f.phase then 0x80 else 0) ∧
        (∀ k, k = 5 ∨ k = 6 ∨ (8 ≤ k ∧ k < 16) → cellGet t.host.mem (a + k) = 0) ∧
        (∀ b, b < a ∨ a + 16 ≤ b → cellGet t.host.mem b = cellGet s.host.mem b) ∧
        t.host.msix = s.host.msix ++ (if f.cqIen then [(f.fn, f.cqVector)] else []) ∧ t.sram = s.sram)

/-- R64, R65, R91, R137, R263, R277, R281, R285 to R287, R290, R293, R294, R298, R300, R302, R308: the
mailbox commands write what they name and report status 0; a command of the physical function is refused
with status 1 to a virtual one and changes nothing else. A plat entry must have its fields in their sets and
stand beside the others; a quota record must keep its quotas in their sets and share no core with another
partition; a context area lies in the last 240 MiB of normal rows (R294), and a PASID has 20 bits (R293).
What breaks these is refused with a status of its own, and nothing else changes (log entry 16). A virtual
function sets its own partition's threshold, and the physical one that of all (log entry 80). A flush of
fault buffers reaches the tracts of the function's partition, or all for the physical one, and a request
that waited there sends one new request under the new generation. A function-level reset stops the tasks of
its partition that have not ended, leaves the records of those that have, and ends when all have, with code
4 to the commands of peers that it had not executed. Which records are refused, who clears the stop log, the
two phases of a reset, the records that it leaves until then, what a spare row set holds, and the tracts
that a flush reaches, are the model's (log entries 27, 43, 44, 56, 57, 115, 120). -/
def Obligations.ManagementCommandsWriteWhatTheyName : Prop :=
  ∀ (s : State) (f : HostFn) (k : Task) (q : Partition) (kept : Kept) (index part base size slice value dev
    pasid handle far : Nat) (e : BitVec 64) (ws : List Word) (en : Bool)
    (c : Copy) (n tries : Nat) (x : Burst) (w : Waiter),
    findFn s f.fn = some f →
    let pages := fun y : Waiter => match y.state with
      | .page _ _ => true
      | _ => false
    let good := fun (i : Instr) (P : State → Prop) => ∃ t, exec i s = .next t ∧
      (findFn t f.fn).map (·.status) = some 0 ∧ t.sram.mem = s.sram.mem ∧ t.dram.mem = s.dram.mem ∧ P t
    let denied := fun i : Instr => ∃ t, exec i s = .next t ∧
      findFn t f.fn = some { f with status := 1 } ∧ t = { s with host := { s.host with fns := t.host.fns } }
    let refused := fun i : Instr => ∃ t, exec i s = .next t ∧
      findFn t f.fn = some { f with status := Config.refusedStatus } ∧
      t = { s with host := { s.host with fns := t.host.fns } }
    (f.fn ≠ 0 → denied (.writePlatEntry f.fn index e) ∧ denied (.writeQuotaRecord f.fn part ws) ∧
      denied (.setContextArea f.fn part base size) ∧ denied (.repairBank f.fn slice)) ∧
    (f.fn = 0 → (h : index < 16) → entryFieldsOk e = true →
      (∀ j (hj : j < 16), j ≠ index → compatible e s.dram.plat[j] = true) →
      good (.writePlatEntry f.fn index e) fun t => t.dram = { s.dram with plat := s.dram.plat.set index e }) ∧
    (f.fn = 0 → (h : index < 16) → (entryFieldsOk e = false ∨
      ∃ j, ∃ (hj : j < 16), j ≠ index ∧ compatible e s.dram.plat[j] = false) → refused (.writePlatEntry f.fn index e)) ∧
    (f.fn = 0 → good (.writePlatEntry f.fn 16 e) fun t =>
      t.dram = { s.dram with tableBlocks := e &&& 0xFFFFFFFFFF }) ∧
    (f.fn = 0 → findPart s part = some q → ws.length = 24 → quotaOk s (quotaOf q ws) = true →
      good (.writeQuotaRecord f.fn part ws) fun t => findPart t part = some (quotaOf q ws) ∧
        (∀ j, j < 512 → (quotaOf q ws).cores.getLsbD j = (ws.getD (8 + j / 32) 0).getLsbD (j % 32)) ∧
        ∀ id, id ≠ part → findPart t id = findPart s id) ∧
    (f.fn = 0 → findPart s part = some q → let r := quotaOf q ws
      (2048 < r.thr ∨ 256 < r.grp ∨ 32 < r.wch ∨ 1024 < r.hnd ∨ 1536 < r.gran ∨ 16384 < r.recs ∨ r.thr < r.rthr ∨
        r.gran < r.rgran ∨ ∃ x ∈ s.parts, x.id ≠ part ∧ x.cores &&& r.cores ≠ 0) →
      refused (.writeQuotaRecord f.fn part ws)) ∧
    (f.fn = 0 → findPart s part = some q →
      (hdmSize ≤ base → base + size ≤ hdmSize + 240 * 2 ^ 20 → good (.setContextArea f.fn part base size) fun t =>
        findPart t part = some { q with ctxBase := base, ctxSize := size }) ∧
      (base < hdmSize ∨ hdmSize + 240 * 2 ^ 20 < base + size → refused (.setContextArea f.fn part base size))) ∧
    (f.fn = 0 → slice < 512 → good (.repairBank f.fn slice) fun t =>
      (sliceReg t slice).fb1 = none ∧ (sliceReg t slice).fb2 = none ∧ (sliceReg t slice).rebuildAt = none ∧
      ∀ j, j ≠ slice → sliceReg t j = sliceReg s j) ∧
    (taskByHandle s f.part handle = some k → k.state ≠ .ended → k.stop = none → findTask s k.uid = some k →
      good (.stopTask f.fn handle) fun t => ∃ k', findTask t k.uid = some k' ∧ k'.stop = some 0x14 ∧
        k'.frec.kind = 0x14) ∧
    (kept ∈ s.kept → kept.part = f.part → kept.far = far → good (.dropKeptRegion f.fn far) fun t =>
      ∀ y, y ∈ t.kept ↔ y ∈ s.kept ∧ ¬ (y.part = f.part ∧ y.far = far)) ∧
    (good (.readStopLog f.fn) fun t => (findFn t f.fn).map (·.reply) = some (.logs
        (s.mgmt.stopLog.filter fun r => decide (f.fn = 0 ∨ r.part = f.part))
        (s.xlate.faults.filter fun r => decide (f.fn = 0 ∨ r.part = f.part))) ∧
        t.mgmt.stopLog = if f.fn = 0 then [] else s.mgmt.stopLog) ∧
    (f.fn = 0 → (∀ y ∈ waiters s, ∀ a b, y.state ≠ .page a b) → good (.flushFaultBuffers f.fn) fun t =>
      (∀ j, j < 8 → genOf t.xlate j = genOf s.xlate j + 1) ∧ ∀ r ∈ t.xlate.records, 8 ≤ r.tract) ∧
    (f.fn = 0 → findCopy s c.head.id = some c → c.bursts[n]? = some x → w.client.req = c.head.id → w.client.n = n →
      (waiters s).filter pages = [w] → w.state = .page index tries → xlateKey s w = some (pasid, far) →
      let tract := tractOf w.client.core
      let now := genOf s.xlate tract + 1
      tract < 8 → good (.flushFaultBuffers f.fn) fun t => (∀ j, j < 8 → genOf t.xlate j = genOf s.xlate j + 1) ∧
        findCopy t c.head.id = some { c with bursts := c.bursts.set n { x with state := .page now tries } } ∧
        t.xlate.records = s.xlate.records.filter (fun r => decide (8 ≤ r.tract)) ++
          [⟨tract, now, pasid, pageOf far, w.write.isSome, s.now⟩]) ∧
    (f.fn ≠ 0 → findPart s f.part = some q → (∀ y ∈ waiters s, ∀ a b, y.state ≠ .page a b) →
      good (.flushFaultBuffers f.fn) fun t => ∀ j, let mine := (coresOf q).any fun m => decide (tractOf m = j)
        genOf t.xlate j = genOf s.xlate j + (if mine then 1 else 0) ∧
        ∀ r, r.tract = j → (r ∈ t.xlate.records ↔ r ∈ s.xlate.records ∧ mine = false)) ∧
    (good (.setAccessCounterThreshold f.fn value) fun t =>
      t.xlate = { s.xlate with thresholds := t.xlate.thresholds } ∧ ∀ y, assoc t.xlate.thresholds y 0 =
        if (if f.fn = 0 then ∃ q ∈ s.parts, q.id = y else y = f.part) then value
        else assoc s.xlate.thresholds y 0) ∧
    (findPart s f.part = some q → good (.setDebugEnable f.fn en none) fun t =>
      findPart t f.part = some { q with debug := en }) ∧
    (taskByHandle s f.part handle = some k → k.state ≠ .ended → k.held = true → findTask s k.uid = some k →
      good (.setDebugEnable f.fn en (some handle)) fun t => findTask t k.uid = some { k with
        held := false
        state := if k.state = .preempted then .released else k.state
        releasedAt := if k.state = .preempted then s.now else k.releasedAt }) ∧
    (2 ^ 15 ≤ dev ∨ 2 ^ 20 ≤ pasid → refused (.bindFabricPeer f.fn dev part pasid)) ∧
    (dev < 2 ^ 15 → pasid < 2 ^ 20 → good (.bindFabricPeer f.fn dev part pasid) fun t =>
      ∀ b, b ∈ t.fabric.bindings ↔ (b ∈ s.fabric.bindings ∧ ¬ (b.part = f.part ∧ b.dev = dev)) ∨
        b = { part := f.part, dev := dev, peer := part, pasid := pasid }) ∧
    (good (.readMargins f.fn) fun t => (findFn t f.fn).map (·.reply) =
      some (.margins s.mgmt.plan s.mgmt.clocks s.mgmt.shares)) ∧
    (taskByHandle s f.part handle = some k → k.state = .waiting → k.hold = true → k.fn = some f.fn →
      findTask s k.uid = some k → good (.releaseHeldHostLaunch f.fn handle) fun t => ∃ k',
        findTask t k.uid = some k' ∧ k'.hold = false ∧ k'.counter = k.counter - 1) ∧
    (taskByHandle s f.part handle = none → ∃ t, exec (.releaseHeldHostLaunch f.fn handle) s = .next t ∧
      findFn t f.fn = some { f with status := 2 }) ∧
    (f.fn ≠ 0 → f.part ∉ s.host.resetting → (s.tasks.map (·.uid)).Nodup →
      ∃ t, exec (.functionLevelReset f.fn) s = .next t ∧ f.part ∈ t.host.resetting ∧
        (∀ g, findFn t f.fn = some g → g.sqEn = false ∧ g.cqEn = false ∧ g.waiting = []) ∧
        (∀ y ∈ s.tasks, y.part = f.part → y.state ≠ .ended → ∃ z ∈ t.tasks, z.uid = y.uid ∧
          z.state = y.state ∧ z.stop = if y.stop = none then some 0x14 else y.stop) ∧
        (∀ y ∈ s.tasks, y.part ≠ f.part ∨ y.state = .ended → y ∈ t.tasks) ∧
        t.tasks.map (·.uid) = s.tasks.map (·.uid) ∧ t.sram = s.sram) ∧
    (f.fn ≠ 0 → f.part ∈ s.host.resetting → (∀ y ∈ s.tasks, y.part = f.part → y.state = .ended) →
      (∀ y ∈ waiters s, ∀ a b, y.state ≠ .page a b) →
      ∃ t, exec (.functionLevelReset f.fn) s = .next t ∧ f.part ∉ t.host.resetting ∧
        (∀ y, y ∈ t.tasks ↔ y ∈ s.tasks ∧ y.part ≠ f.part) ∧ (∀ y ∈ t.kept, y.part ≠ f.part) ∧
        (∀ o ∈ t.fabric.out, o.part ≠ f.part) ∧ ∀ o ∈ s.fabric.serving, o.part = f.part → outcomeOf o.state = none →
          (⟨o.source, o.seq, 4, []⟩ : FabDone) ∈ t.fabric.answers)

/-- R299 to R301, R307 to R310: a flit that was not acknowledged is sent again from its replay buffer, and a
command not acknowledged within 10 µs is sent again; a peer's command with a new sequence number is
translated here, waits while its page is asked for, is executed once, and is answered with its response,
which is saved, once its queue has issued it, while one with a number already executed gets the saved
response; an answer gives its burst its outcome, and code 1 is entered in the fault log (R287); the reset of
a device, or of one partition of it, fails the commands that wait for it. A power grant within the ceilings,
a plan of margins at reset or after 1000 hours, a verified firmware image and the bring-up, which runs
firmware, waits for a plan and presents the physical function, write what they name; the report that is
asked for holds the marks of the failed banks and is signed over its contents. That an acknowledged write
whose near bytes could not be decoded fails with code 3 and stops the task is the model's reading (log entry
28), and that tract 0 asks for a peer's page its choice (log entry 115). The layout of a plan and the times
as steps of the clock are the model's choices, and signatures, plans, the first port and the response code
of a far translation are free values (log entries 7, 12, 18, 42, 78, 81). -/
def Obligations.FabricAndPowerEventsFollowTheirRules : Prop :=
  ∀ (s : State) (port flit part seq source address code dev n count pasid peer : Nat) (o : FabOut) (r : FabDone) (w : Waiter)
    (c : Copy) (x : Burst) (data : List Byte) (clocks shares plan : List Nat) (image : FwImage)
    (nonce : BitVec 256) (dpa : Nat) (home : Partition),
    let only := fun (t : State) (fb : Fabric) => t = { s with fresh := t.fresh, fabric := fb }
    let gives := fun (i : Instr) (st : BurstState) => ∃ t, exec i s = .next t ∧
      findCopy t c.head.id = some { c with bursts := c.bursts.set n { x with state := st } } ∧
      (∀ y ∈ t.fabric.out, ¬ (y.part = o.part ∧ y.seq = o.seq)) ∧ t.sram = s.sram ∧ t.dram = s.dram
    ((port, flit) ∈ s.fabric.replay → ∃ t, exec (.flitNak port flit) s = .next t ∧
      only t { s.fabric with resent := s.fabric.resent ++ [(port, flit)] }) ∧
    (s.fabric.out.find? (fun y => decide (y.part = part) && decide (y.seq = seq)) = some o →
      o.since + 13000 ≤ s.now → ∃ t y, exec (.endToEndTimeout part seq) s = .next t ∧ y ∈ t.fabric.out ∧
        y.part = part ∧ y.seq = seq ∧ y.sends = o.sends + 1 ∧ y.since = s.now ∧ y.data = o.data ∧
        (y.port, part * 2 ^ 32 + seq) ∈ t.fabric.replay ∧
        only t { s.fabric with out := t.fabric.out, replay := t.fabric.replay }) ∧
    (s.mgmt.up = true → s.fabric.done.find? (fun y => decide (y.source = source) && decide (y.seq = seq)) = some r →
      ∃ t, exec (.fabricCommand (.read source part pasid seq address)) s = .next t ∧
        exec (.fabricCommand (.write source part pasid seq address data)) s = .next t ∧
        only t { s.fabric with answers := s.fabric.answers ++ [r] }) ∧
    (s.mgmt.up = true → (∀ y ∈ s.fabric.done, ¬ (y.source = source ∧ y.seq = seq)) → part ∈ s.host.resetting →
      ∃ t, exec (.fabricCommand (.read source part pasid seq address)) s = .next t ∧
        (⟨source, seq, 4, []⟩ : FabDone) ∈ t.fabric.answers ∧ t.dram = s.dram) ∧
    (s.mgmt.up = true → (∀ y ∈ s.fabric.done, ¬ (y.source = source ∧ y.seq = seq)) →
      (∀ y ∈ s.fabric.serving, ¬ (y.source = source ∧ y.seq = seq)) → (∀ y ∈ s.fabric.serving, y.id < s.fresh) →
      (∀ y ∈ s.dram.queues, y.req < s.fresh) → part ∉ s.host.resetting → findPart s part = some home →
      let rva := address % 2 ^ 48
      let len := 64 - address % 64
      let reads : Instr := .fabricCommand (.read source part pasid seq address)
      let writes : Instr := .fabricCommand (.write source part pasid seq address data)
      let finds := fun (wr : Bool) => translate s.xlate (.tract 0) 0 (pasid % 2 ^ 20) rva wr
      let queued := queryAtBank s (bankOf dpa) || pchYields s (pchOf dpa)
      let answered := fun (t : State) (code : Nat) (bytes : List Byte) =>
        let r : FabDone := ⟨source, seq, code, bytes⟩
        t.fabric.answers = s.fabric.answers ++ [r] ∧ r ∈ t.fabric.done ∧ t.fabric.serving = s.fabric.serving
      let waits := fun (t : State) (st : BurstState) => t.fabric.answers = s.fabric.answers ∧
        t.fabric.done = s.fabric.done ∧ ∃ y ∈ t.fabric.serving, y.source = source ∧ y.seq = seq ∧ y.state = st
      let holds := fun (t : State) (st : BurstState) (bytes : List Byte) =>
        (queued = false → answered t 0 bytes) ∧ (queued = true → waits t st)
      (finds false = none → ∃ t, exec reads s = .next t ∧ waits t (.ats 0) ∧ t.dram = s.dram ∧
        (0, pasid % 2 ^ 20, pageOf rva, false) ∈ t.xlate.asked) ∧
      (finds true = none → ∃ t, exec writes s = .next t ∧ waits t (.ats 0) ∧ t.dram = s.dram ∧
        (0, pasid % 2 ^ 20, pageOf rva, true) ∈ t.xlate.asked) ∧
      (dpa < hdmSize → queueFree s dpa = true → burstOf dpa ∉ s.host.tracked →
        (finds false = some (s.host.hpa0 + dpa, s.xlate) →
          (platAllows s.dram.plat home.dom (rowOf dpa) = false → ∃ t, exec reads s = .next t ∧ answered t 2 [] ∧
            t.dram = s.dram) ∧
          (platAllows s.dram.plat home.dom (rowOf dpa) = true → reportOf s.dram (burstOf dpa) ≠ .uncorrectable →
            ∃ t, exec reads s = .next t ∧ holds t (.got (bytesAt s.dram.mem dpa len)) (bytesAt s.dram.mem dpa len) ∧
              t.dram.mem = s.dram.mem ∧ t.sram = s.sram ∧ t.tasks = s.tasks) ∧
          (platAllows s.dram.plat home.dom (rowOf dpa) = true → reportOf s.dram (burstOf dpa) = .uncorrectable →
            ∃ t, exec reads s = .next t ∧ (queued = false → answered t 3 []) ∧ t.dram.mem = s.dram.mem)) ∧
        (finds true = some (s.host.hpa0 + dpa, s.xlate) →
          (platAllows s.dram.plat home.dom (rowOf dpa) = false → ∃ t, exec writes s = .next t ∧ answered t 2 [] ∧
            t.dram = s.dram) ∧
          (platAllows s.dram.plat home.dom (rowOf dpa) = true → Memory.wf s.dram.mem = true →
            ∃ t, exec writes s = .next t ∧ holds t .accepted [] ∧
              (∀ j b, j < len → data[j]? = some b → cellGet t.dram.mem (dpa + j) = b) ∧
              (∀ a, a < dpa ∨ dpa + (data.take len).length ≤ a → cellGet t.dram.mem a = cellGet s.dram.mem a) ∧
              t.sram = s.sram ∧ t.tasks = s.tasks)))) ∧
    (findCopy s c.head.id = some c → c.bursts[n]? = some x → w.client.req = c.head.id → w.client.n = n →
      (waiters s).find? (fun y => decide (y.client.req = o.req) && decide (y.client.n = o.burst) &&
        decide (y.state = .fabric o.seq)) = some w →
      (s.mgmt.up = true →
          s.fabric.out.find? (fun y => decide (y.part = o.part) && decide (y.seq = o.seq)) = some o →
        (pageRefused s w = false → ∃ t y, exec (.fabricCommand (.answer o.part o.seq 1 data)) s = .next t ∧
          y ∈ t.xlate.faults ∧ y.part = w.client.part ∧ y.page = faultPage s w ∧ y.write = w.write.isSome) ∧
        (code ≠ 0 → code ≠ 3 → gives (.fabricCommand (.answer o.part o.seq code data)) (.failed code)) ∧
        (o.write = true → c.badOf n = [] → gives (.fabricCommand (.answer o.part o.seq 0 data)) .accepted) ∧
        (o.write = true → c.badOf n ≠ [] → ∃ t, exec (.fabricCommand (.answer o.part o.seq 0 data)) s = .next t ∧
          findCopy t c.head.id = some { c with bursts := c.bursts.set n { x with state := .failed 3 } } ∧
          ∀ k, findTask s c.head.task = some k → k.stop = none → k.state ≠ .ended →
            ∃ k', findTask t c.head.task = some k' ∧ k'.stop = some 0x0B) ∧
        (o.write = false →
          gives (.fabricCommand (.answer o.part o.seq 0 data)) (.got (data.take o.data.length)))) ∧
      ((s.fabric.out.filter fun y => decide (y.dev = dev)) = [o] → gives (.peerReset ⟨dev, none⟩) (.failed 4)) ∧
      ((s.fabric.out.filter fun y => decide (y.dev = dev) && decide (y.peer = peer)) = [o] →
        gives (.peerReset ⟨dev, some peer⟩) (.failed 4))) ∧
    (s.mgmt.up = true → clocks.length = 8 → shares.length = 8 → (∀ y ∈ shares, y ≤ 8) →
      (∀ k, k < 8 → clocks.getD k 0 ≤ s.mgmt.ceilings.getD k 8) → s.mgmt.lastGrant + 1300 ≤ s.now →
      ∃ t, exec (.powerArbitration clocks shares) s = .next t ∧
        t = { s with mgmt := { s.mgmt with clocks := clocks, shares := shares, lastGrant := s.now } }) ∧
    (plan.length = 17 → (∀ k, 9 ≤ k → k < 17 → plan.getD k 0 ≤ 8) →
      let planned := fun atReset => ∃ t, exec (.marginPlan atReset plan) s = .next t ∧ t = { s with mgmt := { s.mgmt with
        plan := plan, ceilings := plan.drop 9, clocks := t.mgmt.clocks, plans := s.mgmt.plans + 1,
        plannedAt := s.now, events := t.mgmt.events } } ∧ t.mgmt.events.length = s.mgmt.events.length + 1 ∧
        ∀ k, k < 8 → k < s.mgmt.clocks.length → t.mgmt.clocks.getD k 0 ≤ plan.getD (9 + k) 0
      (s.mgmt.up = false → s.mgmt.running = true → planned true) ∧
      (s.mgmt.up = true → s.mgmt.lastGrant + 1300 ≤ s.now → (∀ k, k < 8 →
        plan.getD (9 + k) 0 ≤ s.mgmt.ceilings.getD k 0 ∧ s.mgmt.ceilings.getD k 0 ≤ plan.getD (9 + k) 0 + 1) →
        (s.mgmt.plannedAt + 1000 * 3600 * 1300000000 ≤ s.now → planned false) ∧
        (s.now < s.mgmt.plannedAt + 1000 * 3600 * 1300000000 → exec (.marginPlan false plan) s = .next s))) ∧
    (s.mgmt.up = true → imageRuns s image = true → ∃ t, exec (.newFirmwareImage image) s = .next t ∧
      t.mgmt.image = image ∧ t.mgmt.fwVersion = image.version ∧ t.mgmt.fwDigest = image.digest) ∧
    (imageRuns s image = false → exec (.newFirmwareImage image) s = .next s) ∧
    (s.mgmt.up = false → s.mgmt.running = false →
      (imageRuns s s.mgmt.image = true → ∃ t, exec .bringUp s = .next t ∧ t.mgmt.running = true ∧ t.mgmt.up = false ∧
        t.mgmt.fwVersion = s.mgmt.image.version ∧ t = { s with mgmt := t.mgmt }) ∧
      (imageRuns s s.mgmt.image = false → ∃ t, exec .bringUp s = .next t ∧
        t = { s with mgmt := { s.mgmt with recovery := true } })) ∧
    (s.mgmt.up = false → s.mgmt.running = true →
      (s.mgmt.plan = [] → exec .bringUp s = .next s) ∧
      (s.mgmt.plan ≠ [] → ∃ t, exec .bringUp s = .next t ∧
        t.mgmt.up = true ∧ (∃ g, t.host.fns = [g] ∧ g.fn = 0 ∧ g.sqEn = false ∧ g.cqEn = false) ∧
        t.sram = s.sram ∧ t.dram = s.dram)) ∧
    (s.mgmt.up = true → s.mgmt.vfs = 0 → count ≤ 15 → ∃ t, exec (.sriovEnable count) s = .next t ∧
      t.mgmt.vfs = count ∧ t.host.fns.map (·.fn) = s.host.fns.map (·.fn) ++ (List.range count).map (· + 1) ∧
      t.parts.length = s.parts.length + count ∧ ∀ q ∈ t.parts, q ∈ s.parts ∨ (q.cores = 0 ∧ q.thr = 0)) ∧
    (s.mgmt.up = true → ∃ t a, exec (.attestationReport nonce) s = .next t ∧
      t = { s with mgmt := { s.mgmt with reports := s.mgmt.reports ++ [a] } } ∧ a.nonce = nonce ∧
      a.plat = s.dram.plat.toList ∧ a.tableBlocks = s.dram.tableBlocks ∧ a.quotas = s.parts ∧
      (∀ m, m ∈ a.marks ↔ ∃ y ∈ s.sram.slices, (y.fb1 ≠ none ∨ y.fb2 ≠ none) ∧ m = (y.slice, y.fb1, y.fb2)) ∧
      a.digests = [s.mgmt.fwDigest] ∧ a.ed25519 = Config.ed25519Sign (reportNumbers s nonce) ∧
      a.mldsa = Config.mldsaSign (reportNumbers s nonce))

end
end

