-- ==== Sys2Proof/Laws/Bursts.lean ====
section
/-!
SUPPORT. What sending a far burst and answering a request can change, and how a copy takes the outcome of its burst.
-/

namespace Sys2Proof.Machine

open Sys2Proof

/-! ### The far side -/

/-- A burst that enters the stacks changes the stacks alone. -/
theorem stackAccess_frame (s : State) (c : Client) (write : Option (List Byte)) (dpa len : Nat) :
    (stackAccess s c write dpa len).1 = { s with dram := (stackAccess s c write dpa len).1.dram } := by
  unfold stackAccess
  split
  · rfl
  · split
    · simp only [enterQueue]; split <;> rfl
    · simp only [enterQueue]; split <;> split <;> rfl

/-- An access to host memory changes that memory and the access counters alone. -/
theorem hostAccess_frame (s : State) (c : Client) (va : Nat) (write : Option (List Byte)) (hpa len : Nat) :
    (hostAccess s c va write hpa len).1 =
      { s with xlate := countAccess s.xlate 0 c.pasid va, host := (hostAccess s c va write hpa len).1.host } := by
  unfold hostAccess
  cases write <;> rfl

/-- A translated burst changes the stacks, the host's side and the access counters alone. -/
theorem physical_frame (s : State) (c : Client) (va : Nat) (write : Option (List Byte)) (hpa len : Nat) :
    let t := (physical s c va write hpa len).1
    t = { s with xlate := t.xlate, dram := t.dram, host := t.host } := by
  unfold physical
  split
  · split
    · rfl
    · split
      · dsimp only; rw [stackAccess_frame]
      · rfl
  · dsimp only; rw [hostAccess_frame]

/-- A burst that is to be translated changes translation, the stacks and the host's side alone. -/
theorem translated_frame (s : State) (c : Client) (va : Nat) (write : Option (List Byte)) (len : Nat) :
    let t := (translated s c va write len).1
    t = { s with xlate := t.xlate, dram := t.dram, host := t.host } := by
  unfold translated
  split
  · dsimp only; rw [physical_frame]
  · rfl

/-- Sending a far burst changes translation, the stacks, the host's side and the fabric alone: no task, group, engine or
byte of a slice. -/
theorem farBurst_frame (s : State) (c : Client) (write : Option (List Byte)) (va len : Nat) :
    let t := (farBurst s c write va len).1
    t = { s with xlate := t.xlate, dram := t.dram, host := t.host, fabric := t.fabric } := by
  unfold farBurst
  repeat' split
  all_goals first | rfl | (dsimp only; rw [translated_frame])

/-! ### Answers -/

/-- Answering a peer changes the fabric alone. -/
theorem answerIssued_frame (s : State) (x : Serve) : answerIssued s x = { s with fabric := (answerIssued s x).fabric } := by
  unfold answerIssued
  repeat' split
  all_goals rfl

/-- Answering the requests whose queue has issued them changes the host's responses and the fabric alone. -/
theorem answerHeld_frame (s : State) :
    let t := answerHeld s
    t = { s with
      host := { s.host with held := t.host.held, responses := t.host.responses }
      fabric := t.fabric } := by
  have fold : ∀ (l : List Serve) (u : State), l.foldl answerIssued u = { u with fabric := (l.foldl answerIssued u).fabric } := by
    intro l
    induction l with
    | nil => intro u; rfl
    | cons x l ih =>
      intro u
      rw [List.foldl_cons, ih, answerIssued_frame]
  unfold answerHeld
  dsimp only
  rw [fold]

/-! ### The outcome of a copy's burst (R100) -/

/-- With near bytes that could be decoded a burst's outcome is that of the far side. -/
@[simp] theorem outcome_sound {c : Copy} {n : Nat} (h : c.badOf n = []) (st : BurstState) : c.outcome n st = st := by
  simp [Copy.outcome, h]

/-- With near bytes that could not be decoded an accepted burst fails with code 0x03. -/
theorem outcome_bad {c : Copy} {n : Nat} (h : c.badOf n ≠ []) : c.outcome n .accepted = .failed 3 := by
  simp [Copy.outcome, h]

/-- No other outcome depends on the near bytes. -/
theorem outcome_other (c : Copy) (n : Nat) {st : BurstState} (h : st ≠ .accepted) : c.outcome n st = st := by
  simp [Copy.outcome, h]

/-- An inbound copy has no near bytes to decode. -/
theorem badFor_inbound {c : Copy} (h : c.outbound = false) (x : Burst) : c.badFor x = [] := by
  simp [Copy.badFor, h]

end Sys2Proof.Machine
end

