-- ==== Sys2Proof/Laws/Memory.lean ====
section
/-!
SUPPORT. The memories are lists in one canonical form: every operation keeps it, equal reads are equal
memories, and a write is read back and leaves every other address alone.
-/

namespace Sys2Proof.Machine

open Sys2Proof

/-! ### The canonical form -/

theorem cellsAbove_mono {w : Nat} {k j : Nat} (h : k ≤ j) {m : Cells w} (hm : cellsAbove j m = true) :
    cellsAbove k m = true := by
  cases m with
  | nil => rfl
  | cons c m =>
    simp only [cellsAbove, Bool.and_eq_true, decide_eq_true_eq] at hm ⊢
    exact ⟨⟨by omega, hm.1.2⟩, hm.2⟩

theorem wf_of_cellsAbove {w : Nat} {k : Nat} {m : Cells w} (hm : cellsAbove k m = true) :
    Memory.wf m = true := by
  cases m with
  | nil => rfl
  | cons c m =>
    simp only [cellsAbove, Memory.wf, Bool.and_eq_true, decide_eq_true_eq] at hm ⊢
    exact ⟨hm.1.2, hm.2⟩

/-- A canonical memory is one whose keys rise from below every key. -/
theorem wf_cons {w : Nat} (a : Nat) (x : BitVec w) (m : Cells w) :
    Memory.wf ((a, x) :: m) = true ↔ x ≠ 0 ∧ cellsAbove a m = true := by
  simp [Memory.wf]

theorem cellsAbove_cellSet {w : Nat} {j : Nat} (m : Cells w) (k : Nat) (x : BitVec w) (hj : j < k)
    (hm : cellsAbove j m = true) : cellsAbove j (cellSet m k x) = true := by
  induction m generalizing j with
  | nil =>
    unfold cellSet
    split
    · rfl
    · rename_i h
      simp only [cellsAbove, Bool.and_eq_true, decide_eq_true_eq]
      exact ⟨⟨hj, h⟩, trivial⟩
  | cons c m ih =>
    obtain ⟨a, y⟩ := c
    simp only [cellsAbove, Bool.and_eq_true, decide_eq_true_eq] at hm
    unfold cellSet
    split
    · split
      · simp only [cellsAbove, Bool.and_eq_true, decide_eq_true_eq]
        exact hm
      · rename_i h1 h2
        simp only [cellsAbove, Bool.and_eq_true, decide_eq_true_eq]
        exact ⟨⟨hj, h2⟩, ⟨h1, hm.1.2⟩, hm.2⟩
    · split
      · split
        · exact cellsAbove_mono (by omega) hm.2
        · rename_i h2 h3
          simp only [cellsAbove, Bool.and_eq_true, decide_eq_true_eq]
          exact ⟨⟨hj, h3⟩, by rw [h2]; exact hm.2⟩
      · simp only [cellsAbove, Bool.and_eq_true, decide_eq_true_eq]
        exact ⟨hm.1, ih (by omega) hm.2⟩

/-- One write keeps the canonical form. -/
theorem wf_cellSet {w : Nat} (m : Cells w) (k : Nat) (x : BitVec w) (hm : Memory.wf m = true) :
    Memory.wf (cellSet m k x) = true := by
  cases m with
  | nil =>
    unfold cellSet
    split
    · rfl
    · rename_i h
      rw [wf_cons]
      exact ⟨h, rfl⟩
  | cons c m =>
    obtain ⟨a, y⟩ := c
    rw [wf_cons] at hm
    unfold cellSet
    split
    · split
      · rw [wf_cons]; exact hm
      · rename_i h1 h2
        rw [wf_cons]
        simp only [cellsAbove, Bool.and_eq_true, decide_eq_true_eq]
        exact ⟨h2, ⟨h1, hm.1⟩, hm.2⟩
    · split
      · split
        · exact wf_of_cellsAbove hm.2
        · rename_i h2 h3
          rw [wf_cons]
          exact ⟨h3, by rw [h2]; exact hm.2⟩
      · rw [wf_cons]
        exact ⟨hm.1, cellsAbove_cellSet m k x (by omega) hm.2⟩

/-- Several writes keep the canonical form. -/
theorem wf_cellSetAll {w : Nat} (l : List (Nat × BitVec w)) (m : Cells w) (hm : Memory.wf m = true) :
    Memory.wf (cellSetAll m l) = true := by
  unfold cellSetAll
  induction l generalizing m with
  | nil => exact hm
  | cons c l ih => exact ih _ (wf_cellSet m c.1 c.2 hm)

theorem cellsAbove_filter {w : Nat} {k : Nat} (q : Nat × BitVec w → Bool) (m : Cells w)
    (hm : cellsAbove k m = true) : cellsAbove k (m.filter q) = true := by
  induction m generalizing k with
  | nil => rfl
  | cons c m ih =>
    simp only [cellsAbove, Bool.and_eq_true, decide_eq_true_eq] at hm
    rw [List.filter_cons]
    split
    · simp only [cellsAbove, Bool.and_eq_true, decide_eq_true_eq]
      exact ⟨hm.1, ih hm.2⟩
    · exact cellsAbove_mono (by omega) (ih hm.2)

/-- A part of a canonical memory is canonical. -/
theorem wf_filter {w : Nat} (q : Nat × BitVec w → Bool) (m : Cells w) (hm : Memory.wf m = true) :
    Memory.wf (m.filter q) = true := by
  cases m with
  | nil => rfl
  | cons c m =>
    rw [wf_cons] at hm
    rw [List.filter_cons]
    split
    · rw [wf_cons]; exact ⟨hm.1, cellsAbove_filter q m hm.2⟩
    · exact wf_of_cellsAbove (cellsAbove_filter q m hm.2)

/-- Clearing a range keeps the canonical form. -/
theorem wf_cellsClear (m : Cells 8) (a n : Nat) (hm : Memory.wf m = true) :
    Memory.wf (cellsClear m a n) = true := wf_filter _ m hm

/-! ### Reading -/

theorem cellGet_cons {w : Nat} (a : Nat) (x : BitVec w) (m : Cells w) (i : Nat) :
    cellGet ((a, x) :: m) i = if i = a then x else cellGet m i := by
  simp only [cellGet, eq_comm]

theorem cellGet_of_cellsAbove {w : Nat} {k : Nat} {m : Cells w} (hm : cellsAbove k m = true) {j : Nat}
    (hj : j ≤ k) : cellGet m j = 0 := by
  induction m generalizing k with
  | nil => rfl
  | cons c m ih =>
    simp only [cellsAbove, Bool.and_eq_true, decide_eq_true_eq] at hm
    simp only [cellGet]
    rw [if_neg (by omega)]
    exact ih hm.2 (by omega)

theorem cellGet_cellSet_above {w : Nat} {j : Nat} (m : Cells w) (k : Nat) (x : BitVec w)
    (hm : cellsAbove j m = true) (i : Nat) :
    cellGet (cellSet m k x) i = if i = k then x else cellGet m i := by
  induction m generalizing j with
  | nil =>
    unfold cellSet
    by_cases hx : x = 0
    · rw [if_pos hx]
      simp [hx, cellGet]
    · rw [if_neg hx, cellGet_cons]
  | cons c m ih =>
    obtain ⟨a, y⟩ := c
    simp only [cellsAbove, Bool.and_eq_true, decide_eq_true_eq] at hm
    unfold cellSet
    split
    · rename_i h1
      split
      · rename_i hx
        by_cases hi : i = k
        · subst hi
          simp only [cellGet]
          rw [if_neg (by omega), cellGet_of_cellsAbove hm.2 (by omega)]
          simp [hx]
        · simp [hi]
      · by_cases hi : i = k
        · simp [cellGet_cons, hi]
        · simp [cellGet_cons, hi]
    · split
      · rename_i h2
        subst h2
        split
        · rename_i hx
          by_cases hi : i = k
          · subst hi
            rw [cellGet_of_cellsAbove hm.2 (Nat.le_refl _)]
            simp [hx]
          · simp [cellGet_cons, hi]
        · by_cases hi : i = k
          · simp [cellGet_cons, hi]
          · simp [cellGet_cons, hi]
      · rename_i h2
        simp only [cellGet]
        by_cases hai : a = i
        · subst hai
          rw [if_pos rfl, if_pos rfl, if_neg (fun h => h2 h.symm)]
        · rw [if_neg hai, if_neg hai]
          exact ih hm.2

/-- What one write does: its address reads as the value written, every other as before. -/
theorem cellGet_cellSet {w : Nat} (m : Cells w) (k : Nat) (x : BitVec w) (hm : Memory.wf m = true)
    (i : Nat) : cellGet (cellSet m k x) i = if i = k then x else cellGet m i := by
  cases m with
  | nil => exact cellGet_cellSet_above (j := 0) [] k x rfl i
  | cons c m =>
    obtain ⟨a, y⟩ := c
    cases a with
    | succ a =>
      refine cellGet_cellSet_above (j := a) _ k x ?_ i
      rw [wf_cons] at hm
      simp only [cellsAbove, Bool.and_eq_true, decide_eq_true_eq]
      exact ⟨⟨Nat.lt_succ_self a, hm.1⟩, hm.2⟩
    | zero =>
      rw [wf_cons] at hm
      unfold cellSet
      split
      · omega
      · split
        · rename_i h2
          subst h2
          split
          · rename_i hx
            by_cases hi : i = 0
            · subst hi
              rw [cellGet_of_cellsAbove hm.2 (Nat.le_refl _)]
              simp [hx]
            · simp [cellGet_cons, hi]
          · by_cases hi : i = 0
            · simp [cellGet_cons, hi]
            · simp [cellGet_cons, hi]
        · rename_i h2
          simp only [cellGet]
          by_cases hai : (0 : Nat) = i
          · subst hai
            rw [if_pos rfl, if_pos rfl, if_neg (fun h => h2 h.symm)]
          · rw [if_neg hai, if_neg hai]
            exact cellGet_cellSet_above m k x hm.2 i

/-- Several writes leave every address that none of them names. -/
theorem cellGet_cellSetAll_other {w : Nat} (l : List (Nat × BitVec w)) (m : Cells w)
    (hm : Memory.wf m = true) (i : Nat) (hi : ∀ c ∈ l, c.1 ≠ i) :
    cellGet (cellSetAll m l) i = cellGet m i := by
  unfold cellSetAll
  induction l generalizing m with
  | nil => rfl
  | cons c l ih =>
    simp only [List.foldl_cons]
    rw [ih _ (wf_cellSet m c.1 c.2 hm) (fun d hd => hi d (List.mem_cons_of_mem _ hd)),
      cellGet_cellSet m c.1 c.2 hm, if_neg (fun h => hi c List.mem_cons_self h.symm)]

/-- Of several writes to addresses that differ, each is read back. -/
theorem cellGet_cellSetAll {w : Nat} (l : List (Nat × BitVec w)) (m : Cells w) (hm : Memory.wf m = true)
    (hn : (l.map (·.1)).Nodup) (c : Nat × BitVec w) (hc : c ∈ l) : cellGet (cellSetAll m l) c.1 = c.2 := by
  induction l generalizing m with
  | nil => cases hc
  | cons d l ih =>
    simp only [List.map_cons, List.nodup_cons, List.mem_map, not_exists, not_and] at hn
    have h := wf_cellSet m d.1 d.2 hm
    rcases List.mem_cons.mp hc with rfl | hc
    · have := cellGet_cellSetAll_other l (cellSet m c.1 c.2) h c.1 (fun e he => hn.1 e he)
      rw [show cellSetAll m (c :: l) = cellSetAll (cellSet m c.1 c.2) l from rfl, this,
        cellGet_cellSet m c.1 c.2 hm, if_pos rfl]
    · exact ih _ h hn.2 hc

/-- Clearing a range: its addresses read as zero, every other as before. -/
theorem cellGet_cellsClear (m : Cells 8) (a n i : Nat) :
    cellGet (cellsClear m a n) i = if a ≤ i ∧ i < a + n then 0 else cellGet m i := by
  unfold cellsClear
  induction m with
  | nil => simp [cellGet]
  | cons c m ih =>
    rw [List.filter_cons]
    split
    · rename_i h
      simp only [Bool.or_eq_true, decide_eq_true_eq] at h
      simp only [cellGet, ih]
      by_cases hc : c.1 = i
      · rw [if_pos hc, if_pos hc, if_neg (by omega)]
      · rw [if_neg hc, if_neg hc]
    · rename_i h
      simp only [Bool.or_eq_true, decide_eq_true_eq] at h
      simp only [cellGet, ih]
      by_cases hc : c.1 = i
      · rw [if_pos hc, if_pos (by omega), if_pos (by omega)]
      · rw [if_neg hc]

/-- Two canonical memories that read the same at every address are equal. -/
theorem cells_ext {w : Nat} {m n : Cells w} (hm : Memory.wf m = true) (hn : Memory.wf n = true)
    (h : ∀ i, cellGet m i = cellGet n i) : m = n := by
  induction m generalizing n with
  | nil =>
    cases n with
    | nil => rfl
    | cons d n =>
      obtain ⟨b, y⟩ := d
      rw [wf_cons] at hn
      have := h b
      simp only [cellGet, if_true] at this
      exact absurd this.symm hn.1
  | cons c m ih =>
    obtain ⟨a, x⟩ := c
    rw [wf_cons] at hm
    cases n with
    | nil =>
      have := h a
      simp only [cellGet, if_true] at this
      exact absurd this hm.1
    | cons d n =>
      obtain ⟨b, y⟩ := d
      rw [wf_cons] at hn
      have ab : a = b := by
        rcases Nat.lt_trichotomy a b with hab | hab | hab
        · have := h a
          simp only [cellGet, if_true] at this
          rw [if_neg (by omega), cellGet_of_cellsAbove hn.2 (by omega)] at this
          exact absurd this hm.1
        · exact hab
        · have := h b
          simp only [cellGet, if_true] at this
          rw [if_neg (by omega), cellGet_of_cellsAbove hm.2 (by omega)] at this
          exact absurd this.symm hn.1
      subst ab
      have xy : x = y := by
        have := h a
        simpa [cellGet] using this
      subst xy
      have : m = n := by
        refine ih (wf_of_cellsAbove hm.2) (wf_of_cellsAbove hn.2) fun i => ?_
        by_cases hi : i ≤ a
        · rw [cellGet_of_cellsAbove hm.2 hi, cellGet_of_cellsAbove hn.2 hi]
        · have := h i
          simp only [cellGet] at this
          rwa [if_neg (by omega), if_neg (by omega)] at this
      rw [this]

end Sys2Proof.Machine
end

