-- ==== Sys2Proof/Laws/Paths.lean ====
section
/-!
SUPPORT. What the operations on groups, paths, lanes and registers do: finding what was put, leaving
everything else alone, and the two shared shapes of a lane instruction and a comparison.
-/

namespace Sys2Proof.Machine

open Sys2Proof

/-! ### Lists of records -/

theorem find_updWhere {α : Type} (l : List α) (p q : α → Bool) (y : α) (hy : q y = true)
    (hpq : ∀ x, p x = q x) (hx : ∃ x, l.find? q = some x) :
    (updWhere l p fun _ => y).find? q = some y := by
  induction l with
  | nil => obtain ⟨x, hx⟩ := hx; simp at hx
  | cons a l ih =>
    by_cases h : q a = true
    · simp [updWhere, hpq, h, hy]
    · simp only [updWhere, List.map_cons, hpq, h]
      rw [List.find?_cons]
      obtain ⟨x, hx⟩ := hx
      have := ih ⟨x, by simpa [List.find?_cons, h] using hx⟩
      simpa [updWhere, h, hpq] using this

theorem find_updWhere_other {α : Type} (l : List α) (p q : α → Bool) (y : α) (hy : q y = false)
    (hpq : ∀ x, p x = true → q x = false) :
    (updWhere l p fun _ => y).find? q = l.find? q := by
  induction l with
  | nil => rfl
  | cons a l ih =>
    simp only [updWhere, List.map_cons] at ih ⊢
    by_cases h : p a = true
    · simp [h, hy, hpq a h, ih]
    · simp [h, List.find?_cons, ih]

@[simp] theorem findGroup_putGroup (s : State) (g g' : Group) (hid : g'.gid = g.gid)
    (hg : findGroup s g.gid = some g) : findGroup (putGroup s g') g.gid = some g' := by
  unfold findGroup putGroup
  exact find_updWhere _ _ _ _ (by simp [hid]) (fun x => by simp [hid]) ⟨g, hg⟩

theorem findGroup_putGroup_other (s : State) (g' : Group) (id : Nat) (h : id ≠ g'.gid) :
    findGroup (putGroup s g') id = findGroup s id := by
  unfold findGroup putGroup
  exact find_updWhere_other _ _ _ _ (by simpa using fun e => h e.symm)
    (fun x hx => by simp at hx; simpa [hx] using fun e => h e.symm)

theorem findPath_setPath (g : Group) (p p' : Path) (hid : p'.pid = p.pid)
    (hp : findPath g p.pid = some p) : findPath (setPath g p') p.pid = some p' := by
  unfold findPath setPath
  exact find_updWhere _ _ _ _ (by simp [hid]) (fun x => by simp [hid]) ⟨p, hp⟩

theorem findPath_setPath_other (g : Group) (p' : Path) (id : Nat) (h : id ≠ p'.pid) :
    findPath (setPath g p') id = findPath g id := by
  unfold findPath setPath
  exact find_updWhere_other _ _ _ _ (by simpa using fun e => h e.symm)
    (fun x hx => by simp at hx; simpa [hx] using fun e => h e.symm)

@[simp] theorem setPath_gid (g : Group) (p : Path) : (setPath g p).gid = g.gid := rfl
@[simp] theorem setPath_lanes (g : Group) (p : Path) : (setPath g p).lanes = g.lanes := rfl
@[simp] theorem setPath_width (g : Group) (p : Path) : (setPath g p).width = g.width := rfl
@[simp] theorem laneOf_setPath (g : Group) (p : Path) (l : Nat) :
    laneOf (setPath g p) l = laneOf g l := rfl
@[simp] theorem laneReg_setPath (g : Group) (p : Path) (l r : Nat) :
    laneReg (setPath g p) l r = laneReg g l r := rfl
@[simp] theorem modLanes_gid (g : Group) (m : Mask) (f : Nat → Thread → Thread) :
    (modLanes g m f).gid = g.gid := rfl
@[simp] theorem modLanes_paths (g : Group) (m : Mask) (f : Nat → Thread → Thread) :
    (modLanes g m f).paths = g.paths := rfl
@[simp] theorem modLanes_width (g : Group) (m : Mask) (f : Nat → Thread → Thread) :
    (modLanes g m f).width = g.width := rfl
@[simp] theorem modLanes_length (g : Group) (m : Mask) (f : Nat → Thread → Thread) :
    (modLanes g m f).lanes.length = g.lanes.length := by simp [modLanes]

/-- The lane `l` of a group after a change of the lanes of a mask. -/
theorem laneOf_modLanes (g : Group) (m : Mask) (f : Nat → Thread → Thread) (l : Nat)
    (hl : l < g.lanes.length) :
    laneOf (modLanes g m f) l = if m.getLsbD l then f l (laneOf g l) else laneOf g l := by
  simp only [laneOf, modLanes, List.getElem?_mapIdx, List.getElem?_eq_getElem hl]
  simp

theorem laneOf_modLanes_beyond (g : Group) (m : Mask) (f : Nat → Thread → Thread) (l : Nat)
    (hl : ¬ l < g.lanes.length) : laneOf (modLanes g m f) l = laneOf g l := by
  simp only [laneOf, modLanes, List.getElem?_mapIdx]
  rw [List.getElem?_eq_none (by omega)]
  rfl

/-- An instruction word completes with the effect of its path. -/
theorem onPath_next {s : State} {g : Group} {p : Path} {w : Word} (h : Issuing s g p w)
    (f : Group → Path → Word → State) : onPath s f = .next (f g p w) := by
  simp [onPath, h.cursor, h.group, h.path]

/-- Putting a path and its lanes back changes nothing else. -/
theorem pathOnly_putPath {s : State} {g : Group} {p : Path} {w : Word} (h : Issuing s g p w)
    (g' : Group) (p' : Path) (hp : p'.pid = p.pid) (hn : g'.lanes.length = g.lanes.length)
    (hg : g' = { g with lanes := g'.lanes }) : PathOnly s g p (putPath s g' p') (setPath g' p') p' := by
  have hid : g'.gid = g.gid := by rw [hg]
  have hps : g'.paths = g.paths := by rw [hg]
  have hfp : ∀ id, findPath g' id = findPath g id := fun id => by simp only [findPath, hps]
  refine ⟨?_, ?_, ?_, ?_, hn, ?_, fun _ => rfl, fun _ => rfl, fun _ => rfl, fun _ => rfl, rfl⟩
  · exact findGroup_putGroup s g (setPath g' p') (by simp [hid]) h.group
  · exact findPath_setPath g' p p' hp (by rw [hfp]; exact h.path)
  · intro id hne
    exact findGroup_putGroup_other s _ id (by simpa [hid] using hne)
  · intro id hne
    rw [findPath_setPath_other g' p' id (by rw [hp]; exact hne), hfp]
  · rw [hg]; rfl

/-! ### Registers -/

@[simp] theorem vreg_setVreg (t : Thread) (r r' : Nat) (x : Word) (h : r' < 64) :
    vreg (setVreg t r x) r' = if r = r' then x else vreg t r' := by
  unfold setVreg vreg
  by_cases hr : r < 64
  · simp only [hr, dif_pos, h]
    rw [Vector.getElem_set]
  · have : r ≠ r' := by omega
    simp [hr, this]

@[simp] theorem sreg_setSreg (p : Path) (r r' : Nat) (x : Word) (h : r' < 32) :
    sreg (setSreg p r x) r' = if r = r' then x else sreg p r' := by
  unfold setSreg sreg
  by_cases hr : r < 32
  · simp only [hr, dif_pos, h]
    rw [Vector.getElem_set]
  · have : r ≠ r' := by omega
    simp [hr, this]

theorem setVreg_rest (t : Thread) (r : Nat) (x : Word) :
    setVreg t r x = { t with v := (setVreg t r x).v } := by
  unfold setVreg; split <;> rfl

theorem setSreg_rest (p : Path) (r : Nat) (x : Word) :
    setSreg p r x = { p with s := (setSreg p r x).s } := by
  unfold setSreg; split <;> rfl

theorem foldl_setVreg_rest (l : List (Nat × Word)) (t : Thread) :
    l.foldl (fun t x => setVreg t x.1 x.2) t =
      { t with v := (l.foldl (fun t x => setVreg t x.1 x.2) t).v } := by
  induction l generalizing t with
  | nil => rfl
  | cons a l ih =>
    simp only [List.foldl_cons]
    rw [ih, setVreg_rest]

theorem foldl_setSreg_rest (l : List (Nat × Word)) (p : Path) :
    l.foldl (fun p x => setSreg p x.1 x.2) p =
      { p with s := (l.foldl (fun p x => setSreg p x.1 x.2) p).s } := by
  induction l generalizing p with
  | nil => rfl
  | cons a l ih =>
    simp only [List.foldl_cons]
    rw [ih, setSreg_rest]

theorem assoc_cons {α β : Type} [DecidableEq α] (a : α) (b : β) (l : List (α × β)) (k : α) (d : β) :
    assoc ((a, b) :: l) k d = if a = k then b else assoc l k d := by
  unfold assoc
  by_cases h : a = k <;> simp [h]

@[simp] theorem assoc_nil {α β : Type} [DecidableEq α] (k : α) (d : β) :
    assoc ([] : List (α × β)) k d = d := rfl

theorem assoc_absent {α β : Type} [DecidableEq α] (l : List (α × β)) (k : α) (d : β)
    (h : k ∉ l.map (·.1)) : assoc l k d = d := by
  induction l with
  | nil => rfl
  | cons a l ih =>
    simp only [List.map_cons, List.mem_cons, not_or] at h
    rw [assoc_cons, if_neg (fun e => h.1 e.symm), ih h.2]

/-- Writing the registers of a list with distinct numbers. -/
theorem vreg_foldl (l : List (Nat × Word)) (t : Thread) (r : Nat) (hr : r < 64)
    (hn : (l.map (·.1)).Nodup) :
    vreg (l.foldl (fun t x => setVreg t x.1 x.2) t) r = assoc l r (vreg t r) := by
  induction l generalizing t with
  | nil => rfl
  | cons a l ih =>
    simp only [List.map_cons, List.nodup_cons] at hn
    simp only [List.foldl_cons]
    rw [ih _ hn.2, vreg_setVreg _ _ _ _ hr, assoc_cons]
    by_cases h : a.1 = r
    · rw [if_pos h, if_pos h, assoc_absent _ _ _ (h ▸ hn.1)]
    · rw [if_neg h, if_neg h]

theorem sreg_foldl (l : List (Nat × Word)) (p : Path) (r : Nat) (hr : r < 32)
    (hn : (l.map (·.1)).Nodup) :
    sreg (l.foldl (fun p x => setSreg p x.1 x.2) p) r = assoc l r (sreg p r) := by
  induction l generalizing p with
  | nil => rfl
  | cons a l ih =>
    simp only [List.map_cons, List.nodup_cons] at hn
    simp only [List.foldl_cons]
    rw [ih _ hn.2, sreg_setSreg _ _ _ _ hr, assoc_cons]
    by_cases h : a.1 = r
    · rw [if_pos h, if_pos h, assoc_absent _ _ _ (h ▸ hn.1)]
    · rw [if_neg h, if_neg h]

theorem lowest_lt {m : Mask} {l : Nat} (h : lowest m = some l) : l < 64 ∧ m.getLsbD l = true := by
  unfold lowest lanesOf at h
  have := List.mem_of_mem_head? (Option.mem_def.mpr h)
  simpa using this

theorem lowest_none {m : Mask} (h : lowest m = none) : ∀ l, m.getLsbD l = false := by
  intro l
  unfold lowest lanesOf at h
  rw [List.head?_eq_none_iff] at h
  by_contra hc
  have hl : l < 64 := by
    by_contra hge
    exact hc (BitVec.getLsbD_of_ge m l (by omega))
  have : l ∈ List.filter (fun l => m.getLsbD l) (List.range 64) := by simpa [hl] using hc
  rw [h] at this
  simp at this

theorem getLsbD_twoPow64 (l k : Nat) (hl : l < 64) : (BitVec.twoPow 64 l).getLsbD k = decide (k = l) := by
  rw [BitVec.getLsbD_twoPow]
  by_cases h : k = l <;> simp [h, hl, eq_comm]
  intro e; exact h e.symm

/-! ### The shape of a lane instruction (R190, R203) -/

/-- What `laneOp` does: the shape `LaneWrites`, for results in distinct registers. -/
theorem laneOp_writes {s : State} {g : Group} {p : Path} {w : Word} (h : Issuing s g p w) (gd : Guard)
    (sc : Bool) (f : Group → Path → Nat → LaneOut) (hn : ∀ l, (((f g p l).regs).map (·.1)).Nodup) :
    ∃ t, laneOp gd sc f s = .next t ∧
      LaneWrites s g p gd sc (fun l => (f g p l).regs) (fun l => (f g p l).flags) t := by
  refine ⟨_, onPath_next h _, ?_⟩
  cases sc with
  | false =>
    refine ⟨_, _, pathOnly_putPath h _ _ rfl (by simp [laneEffect]) rfl, ?_, rfl, ?_, ?_, fun r _ => rfl⟩
    · intro l
      by_cases hl : l < g.lanes.length
      · simp only [laneOf_setPath, laneEffect, Bool.false_eq_true, if_false, laneOf_modLanes _ _ _ _ hl]
        split
        · simp only [applyOut]; rw [foldl_setVreg_rest]
        · rfl
      · simp only [laneOf_setPath, laneEffect, Bool.false_eq_true, if_false,
          laneOf_modLanes_beyond _ _ _ _ hl]
    · intro l hl r hr
      simp only [laneReg, laneOf_setPath, laneEffect, Bool.false_eq_true, if_false,
        laneOf_modLanes _ _ _ _ hl, true_and]
      split
      · exact vreg_foldl _ _ _ hr (hn l)
      · rfl
    · intro l hl
      simp only [laneOf_setPath, laneEffect, Bool.false_eq_true, if_false, laneOf_modLanes _ _ _ _ hl]
      split <;> rfl
  | true =>
    cases hlow : lowest (activeMask p gd) with
    | none =>
      simp only [laneEffect, hlow, if_true]
      refine ⟨_, _, pathOnly_putPath h _ _ rfl rfl rfl, fun l => rfl, rfl, ?_, ?_, ?_⟩
      · intro l _ r _; simp
      · intro l _; simp [hlow]
      · intro r _; simp [hlow, advance, sreg]
    | some k =>
      have hk := lowest_lt hlow
      simp only [laneEffect, hlow, if_true]
      refine ⟨_, _, pathOnly_putPath h _ _ ?_ (by simp) rfl, ?_, ?_, ?_, ?_, ?_⟩
      · simp only [advance]; rw [foldl_setSreg_rest]
      · intro l
        by_cases hl : l < g.lanes.length
        · simp only [laneOf_setPath, laneOf_modLanes _ _ _ _ hl]
          split <;> rfl
        · simp only [laneOf_setPath, laneOf_modLanes_beyond _ _ _ _ hl]
      · simp only [advance]; rw [foldl_setSreg_rest]
      · intro l hl r _
        simp only [laneReg, laneOf_setPath, laneOf_modLanes _ _ _ _ hl]
        split <;> rfl
      · intro l hl
        simp only [laneOf_setPath, laneOf_modLanes _ _ _ _ hl, getLsbD_twoPow64 _ _ hk.1, hlow,
          decide_eq_true_eq, Option.some.injEq, if_true]
        by_cases e : l = k
        · simp [e]
        · have e' : k ≠ l := fun h => e h.symm
          simp [e, e']
      · intro r hr
        simp only [hlow]
        exact sreg_foldl _ _ _ hr (hn k)

end Sys2Proof.Machine
end

