-- ==== Sys2Proof/Laws/PerInstr.lean ====
section
/-!
SUPPORT. A property of the encoder, constructor by constructor: the encoding of an instruction word fits in 32
bits and has a major opcode that is not zero, and an event has no encoding (R31, R48).
-/

set_option Elab.async false

namespace Sys2Proof.Laws

theorem guard_lt (g : Guard) : g.toNat < 16 := by
  have := g.p.isLt
  cases h : g.inv <;> simp [Guard.toNat, h] <;> omega

theorem ty_lt (t : Ty) : t.code < 16 := by cases t <;> decide

theorem space_lt (t : Space) : t.code < 3 := by cases t <;> decide

theorem rule_lt (t : Rule) : t.code < 4 := by cases t <;> decide

theorem icond_lt (t : ICond) : t.code < 10 := by cases t <;> decide

theorem fcond_lt (t : FCond) : t.code < 8 := by cases t <;> decide

theorem wcond_lt (t : WCond) : t.code < 4 := by cases t <;> decide

theorem laneOp_lt (t : LaneOp) : t.code < 16 := by cases t <;> decide

theorem vote_lt (t : VoteMode) : t.code < 4 := by cases t <;> decide

theorem pop_lt (t : PopMode) : t.code < 4 := by cases t <;> decide

theorem jmode_lt (t : JMode) : t.code < 4 := by cases t <;> decide

theorem modWord_lt (m : ModWord) : m.toNat < 2 ^ 26 := by
  have h1 := m.sat.isLt
  have h2 := m.scl.isLt
  have h3 := m.rm.isLt
  have h4 := m.sa.isLt
  have h5 := m.sb.isLt
  have h6 := Bool.toNat_lt m.clmp
  have h7 := Bool.toNat_lt m.na
  have h8 := Bool.toNat_lt m.aa
  have h9 := Bool.toNat_lt m.nb
  have h10 := Bool.toNat_lt m.ab
  simp only [ModWord.toNat, pack, List.foldl]
  omega

/-- The fields of a word are at most the values of a list, place by place. -/
def Below : List (Nat × Nat) → List (Nat × Nat) → Prop
  | f :: fs, m :: ms => f.1 ≤ m.1 ∧ f.2 = m.2 ∧ Below fs ms
  | [], [] => True
  | _, _ => False

/-- A word grows with its fields, and holds at least its fixed bits. -/
theorem pack_le (fs ms : List (Nat × Nat)) (x y : Nat) (h : Below fs ms) (hxy : x ≤ y) :
    x ≤ pack x fs ∧ pack x fs ≤ pack y ms := by
  induction fs generalizing ms x y with
  | nil =>
    cases ms with
    | nil => exact ⟨Nat.le_refl _, hxy⟩
    | cons m ms => exact h.elim
  | cons f fs ih =>
    cases ms with
    | nil => exact h.elim
    | cons m ms =>
      obtain ⟨h1, h2, h3⟩ := h
      have hm : f.1 * 2 ^ f.2 ≤ m.1 * 2 ^ m.2 := by rw [h2]; exact Nat.mul_le_mul_right _ h1
      have := ih ms (x + f.1 * 2 ^ f.2) (y + m.1 * 2 ^ m.2) h3 (by omega)
      exact ⟨by simp only [pack, List.foldl_cons] at this ⊢; omega, this.2⟩

/-- The encoding of a word fits its 32 bits and has a major opcode; an event has none. -/
def EncodingFits.Statement (i : Instr) : Prop :=
  if i.isWord then 2 ^ 26 ≤ encodeNat i ∧ encodeNat i < 2 ^ 32 else encodeNat i = 0

theorem fits {i : Instr} (x : Nat) (fs ms : List (Nat × Nat)) (hw : i.isWord = true) (he : encodeNat i = pack x fs)
    (h : Below fs ms) (h1 : 2 ^ 26 ≤ x) (h2 : pack x ms < 2 ^ 32) : EncodingFits.Statement i := by
  have := pack_le fs ms x x h (Nat.le_refl x)
  simp only [EncodingFits.Statement, hw, if_true, he]
  omega

theorem bv_le {n : Nat} (x : BitVec n) : x.toNat ≤ 2 ^ n - 1 := by have := x.isLt; omega

theorem bool_le (x : Bool) : x.toNat ≤ 1 := by cases x <;> decide

namespace EncodingFits

theorem hint (br : BitVec 2) (ra : Bool) (rb : Bool) :
    Statement (.hint br ra rb) :=
  fits 0xF0000000 _ [(2 ^ 2 - 1, 24), (1, 23), (1, 22)] rfl rfl
    ⟨bv_le br, rfl, bool_le ra, rfl, bool_le rb, rfl, trivial⟩ (by decide) (by decide)
theorem mod (m : ModWord) :
    Statement (.mod m) :=
  fits 0xF4000000 _ [(67108863, 0)] rfl rfl
    ⟨Nat.le_of_lt_succ (modWord_lt m), rfl, trivial⟩ (by decide) (by decide)
theorem imm (hi : BitVec 26) :
    Statement (.imm hi) :=
  fits 0xF8000000 _ [(2 ^ 26 - 1, 0)] rfl rfl
    ⟨bv_le hi, rfl, trivial⟩ (by decide) (by decide)
theorem add (d : BitVec 6) (a : BitVec 6) (b : BitVec 6) (gd : Guard) (sc : Bool) :
    Statement (.add d a b gd sc) :=
  fits 0x04000000 _ [(2 ^ 6 - 1, 20), (2 ^ 6 - 1, 14), (2 ^ 6 - 1, 8), (15, 4), (1, 3)] rfl rfl
    ⟨bv_le d, rfl, bv_le a, rfl, bv_le b, rfl, Nat.le_of_lt_succ (guard_lt gd), rfl, bool_le sc, rfl, trivial⟩ (by decide) (by decide)
theorem sub (d : BitVec 6) (a : BitVec 6) (b : BitVec 6) (gd : Guard) (sc : Bool) :
    Statement (.sub d a b gd sc) :=
  fits 0x04000001 _ [(2 ^ 6 - 1, 20), (2 ^ 6 - 1, 14), (2 ^ 6 - 1, 8), (15, 4), (1, 3)] rfl rfl
    ⟨bv_le d, rfl, bv_le a, rfl, bv_le b, rfl, Nat.le_of_lt_succ (guard_lt gd), rfl, bool_le sc, rfl, trivial⟩ (by decide) (by decide)
theorem mul (d : BitVec 6) (a : BitVec 6) (b : BitVec 6) (gd : Guard) (sc : Bool) :
    Statement (.mul d a b gd sc) :=
  fits 0x04000002 _ [(2 ^ 6 - 1, 20), (2 ^ 6 - 1, 14), (2 ^ 6 - 1, 8), (15, 4), (1, 3)] rfl rfl
    ⟨bv_le d, rfl, bv_le a, rfl, bv_le b, rfl, Nat.le_of_lt_succ (guard_lt gd), rfl, bool_le sc, rfl, trivial⟩ (by decide) (by decide)
theorem mulhi (d : BitVec 6) (a : BitVec 6) (b : BitVec 6) (gd : Guard) (sc : Bool) :
    Statement (.mulhi d a b gd sc) :=
  fits 0x04000003 _ [(2 ^ 6 - 1, 20), (2 ^ 6 - 1, 14), (2 ^ 6 - 1, 8), (15, 4), (1, 3)] rfl rfl
    ⟨bv_le d, rfl, bv_le a, rfl, bv_le b, rfl, Nat.le_of_lt_succ (guard_lt gd), rfl, bool_le sc, rfl, trivial⟩ (by decide) (by decide)
theorem mulhu (d : BitVec 6) (a : BitVec 6) (b : BitVec 6) (gd : Guard) (sc : Bool) :
    Statement (.mulhu d a b gd sc) :=
  fits 0x04000004 _ [(2 ^ 6 - 1, 20), (2 ^ 6 - 1, 14), (2 ^ 6 - 1, 8), (15, 4), (1, 3)] rfl rfl
    ⟨bv_le d, rfl, bv_le a, rfl, bv_le b, rfl, Nat.le_of_lt_succ (guard_lt gd), rfl, bool_le sc, rfl, trivial⟩ (by decide) (by decide)
theorem mad (d : BitVec 6) (a : BitVec 6) (b : BitVec 6) (gd : Guard) (sc : Bool) :
    Statement (.mad d a b gd sc) :=
  fits 0x04000005 _ [(2 ^ 6 - 1, 20), (2 ^ 6 - 1, 14), (2 ^ 6 - 1, 8), (15, 4), (1, 3)] rfl rfl
    ⟨bv_le d, rfl, bv_le a, rfl, bv_le b, rfl, Nat.le_of_lt_succ (guard_lt gd), rfl, bool_le sc, rfl, trivial⟩ (by decide) (by decide)
theorem min (d : BitVec 6) (a : BitVec 6) (b : BitVec 6) (gd : Guard) (sc : Bool) :
    Statement (.min d a b gd sc) :=
  fits 0x04000006 _ [(2 ^ 6 - 1, 20), (2 ^ 6 - 1, 14), (2 ^ 6 - 1, 8), (15, 4), (1, 3)] rfl rfl
    ⟨bv_le d, rfl, bv_le a, rfl, bv_le b, rfl, Nat.le_of_lt_succ (guard_lt gd), rfl, bool_le sc, rfl, trivial⟩ (by decide) (by decide)
theorem max (d : BitVec 6) (a : BitVec 6) (b : BitVec 6) (gd : Guard) (sc : Bool) :
    Statement (.max d a b gd sc) :=
  fits 0x04000007 _ [(2 ^ 6 - 1, 20), (2 ^ 6 - 1, 14), (2 ^ 6 - 1, 8), (15, 4), (1, 3)] rfl rfl
    ⟨bv_le d, rfl, bv_le a, rfl, bv_le b, rfl, Nat.le_of_lt_succ (guard_lt gd), rfl, bool_le sc, rfl, trivial⟩ (by decide) (by decide)
theorem addImm (d : BitVec 6) (a : BitVec 6) (imm : BitVec 6) (gd : Guard) (sc : Bool) :
    Statement (.addImm d a imm gd sc) :=
  fits 0x08000000 _ [(2 ^ 6 - 1, 20), (2 ^ 6 - 1, 14), (2 ^ 6 - 1, 8), (15, 4), (1, 3)] rfl rfl
    ⟨bv_le d, rfl, bv_le a, rfl, bv_le imm, rfl, Nat.le_of_lt_succ (guard_lt gd), rfl, bool_le sc, rfl, trivial⟩ (by decide) (by decide)
theorem subImm (d : BitVec 6) (a : BitVec 6) (imm : BitVec 6) (gd : Guard) (sc : Bool) :
    Statement (.subImm d a imm gd sc) :=
  fits 0x08000001 _ [(2 ^ 6 - 1, 20), (2 ^ 6 - 1, 14), (2 ^ 6 - 1, 8), (15, 4), (1, 3)] rfl rfl
    ⟨bv_le d, rfl, bv_le a, rfl, bv_le imm, rfl, Nat.le_of_lt_succ (guard_lt gd), rfl, bool_le sc, rfl, trivial⟩ (by decide) (by decide)
theorem mulImm (d : BitVec 6) (a : BitVec 6) (imm : BitVec 6) (gd : Guard) (sc : Bool) :
    Statement (.mulImm d a imm gd sc) :=
  fits 0x08000002 _ [(2 ^ 6 - 1, 20), (2 ^ 6 - 1, 14), (2 ^ 6 - 1, 8), (15, 4), (1, 3)] rfl rfl
    ⟨bv_le d, rfl, bv_le a, rfl, bv_le imm, rfl, Nat.le_of_lt_succ (guard_lt gd), rfl, bool_le sc, rfl, trivial⟩ (by decide) (by decide)
theorem mulhiImm (d : BitVec 6) (a : BitVec 6) (imm : BitVec 6) (gd : Guard) (sc : Bool) :
    Statement (.mulhiImm d a imm gd sc) :=
  fits 0x08000003 _ [(2 ^ 6 - 1, 20), (2 ^ 6 - 1, 14), (2 ^ 6 - 1, 8), (15, 4), (1, 3)] rfl rfl
    ⟨bv_le d, rfl, bv_le a, rfl, bv_le imm, rfl, Nat.le_of_lt_succ (guard_lt gd), rfl, bool_le sc, rfl, trivial⟩ (by decide) (by decide)
theorem mulhuImm (d : BitVec 6) (a : BitVec 6) (imm : BitVec 6) (gd : Guard) (sc : Bool) :
    Statement (.mulhuImm d a imm gd sc) :=
  fits 0x08000004 _ [(2 ^ 6 - 1, 20), (2 ^ 6 - 1, 14), (2 ^ 6 - 1, 8), (15, 4), (1, 3)] rfl rfl
    ⟨bv_le d, rfl, bv_le a, rfl, bv_le imm, rfl, Nat.le_of_lt_succ (guard_lt gd), rfl, bool_le sc, rfl, trivial⟩ (by decide) (by decide)
theorem madImm (d : BitVec 6) (a : BitVec 6) (imm : BitVec 6) (gd : Guard) (sc : Bool) :
    Statement (.madImm d a imm gd sc) :=
  fits 0x08000005 _ [(2 ^ 6 - 1, 20), (2 ^ 6 - 1, 14), (2 ^ 6 - 1, 8), (15, 4), (1, 3)] rfl rfl
    ⟨bv_le d, rfl, bv_le a, rfl, bv_le imm, rfl, Nat.le_of_lt_succ (guard_lt gd), rfl, bool_le sc, rfl, trivial⟩ (by decide) (by decide)
theorem minImm (d : BitVec 6) (a : BitVec 6) (imm : BitVec 6) (gd : Guard) (sc : Bool) :
    Statement (.minImm d a imm gd sc) :=
  fits 0x08000006 _ [(2 ^ 6 - 1, 20), (2 ^ 6 - 1, 14), (2 ^ 6 - 1, 8), (15, 4), (1, 3)] rfl rfl
    ⟨bv_le d, rfl, bv_le a, rfl, bv_le imm, rfl, Nat.le_of_lt_succ (guard_lt gd), rfl, bool_le sc, rfl, trivial⟩ (by decide) (by decide)
theorem maxImm (d : BitVec 6) (a : BitVec 6) (imm : BitVec 6) (gd : Guard) (sc : Bool) :
    Statement (.maxImm d a imm gd sc) :=
  fits 0x08000007 _ [(2 ^ 6 - 1, 20), (2 ^ 6 - 1, 14), (2 ^ 6 - 1, 8), (15, 4), (1, 3)] rfl rfl
    ⟨bv_le d, rfl, bv_le a, rfl, bv_le imm, rfl, Nat.le_of_lt_succ (guard_lt gd), rfl, bool_le sc, rfl, trivial⟩ (by decide) (by decide)
theorem minu (d : BitVec 6) (a : BitVec 6) (b : BitVec 6) (gd : Guard) (sc : Bool) :
    Statement (.minu d a b gd sc) :=
  fits 0x0C000000 _ [(2 ^ 6 - 1, 20), (2 ^ 6 - 1, 14), (2 ^ 6 - 1, 8), (15, 4), (1, 3)] rfl rfl
    ⟨bv_le d, rfl, bv_le a, rfl, bv_le b, rfl, Nat.le_of_lt_succ (guard_lt gd), rfl, bool_le sc, rfl, trivial⟩ (by decide) (by decide)
theorem maxu (d : BitVec 6) (a : BitVec 6) (b : BitVec 6) (gd : Guard) (sc : Bool) :
    Statement (.maxu d a b gd sc) :=
  fits 0x0C000001 _ [(2 ^ 6 - 1, 20), (2 ^ 6 - 1, 14), (2 ^ 6 - 1, 8), (15, 4), (1, 3)] rfl rfl
    ⟨bv_le d, rfl, bv_le a, rfl, bv_le b, rfl, Nat.le_of_lt_succ (guard_lt gd), rfl, bool_le sc, rfl, trivial⟩ (by decide) (by decide)
theorem and (d : BitVec 6) (a : BitVec 6) (b : BitVec 6) (gd : Guard) (sc : Bool) :
    Statement (.and d a b gd sc) :=
  fits 0x0C000002 _ [(2 ^ 6 - 1, 20), (2 ^ 6 - 1, 14), (2 ^ 6 - 1, 8), (15, 4), (1, 3)] rfl rfl
    ⟨bv_le d, rfl, bv_le a, rfl, bv_le b, rfl, Nat.le_of_lt_succ (guard_lt gd), rfl, bool_le sc, rfl, trivial⟩ (by decide) (by decide)
theorem or (d : BitVec 6) (a : BitVec 6) (b : BitVec 6) (gd : Guard) (sc : Bool) :
    Statement (.or d a b gd sc) :=
  fits 0x0C000003 _ [(2 ^ 6 - 1, 20), (2 ^ 6 - 1, 14), (2 ^ 6 - 1, 8), (15, 4), (1, 3)] rfl rfl
    ⟨bv_le d, rfl, bv_le a, rfl, bv_le b, rfl, Nat.le_of_lt_succ (guard_lt gd), rfl, bool_le sc, rfl, trivial⟩ (by decide) (by decide)
theorem xor (d : BitVec 6) (a : BitVec 6) (b : BitVec 6) (gd : Guard) (sc : Bool) :
    Statement (.xor d a b gd sc) :=
  fits 0x0C000004 _ [(2 ^ 6 - 1, 20), (2 ^ 6 - 1, 14), (2 ^ 6 - 1, 8), (15, 4), (1, 3)] rfl rfl
    ⟨bv_le d, rfl, bv_le a, rfl, bv_le b, rfl, Nat.le_of_lt_succ (guard_lt gd), rfl, bool_le sc, rfl, trivial⟩ (by decide) (by decide)
theorem andn (d : BitVec 6) (a : BitVec 6) (b : BitVec 6) (gd : Guard) (sc : Bool) :
    Statement (.andn d a b gd sc) :=
  fits 0x0C000005 _ [(2 ^ 6 - 1, 20), (2 ^ 6 - 1, 14), (2 ^ 6 - 1, 8), (15, 4), (1, 3)] rfl rfl
    ⟨bv_le d, rfl, bv_le a, rfl, bv_le b, rfl, Nat.le_of_lt_succ (guard_lt gd), rfl, bool_le sc, rfl, trivial⟩ (by decide) (by decide)
theorem rol (d : BitVec 6) (a : BitVec 6) (b : BitVec 6) (gd : Guard) (sc : Bool) :
    Statement (.rol d a b gd sc) :=
  fits 0x0C000006 _ [(2 ^ 6 - 1, 20), (2 ^ 6 - 1, 14), (2 ^ 6 - 1, 8), (15, 4), (1, 3)] rfl rfl
    ⟨bv_le d, rfl, bv_le a, rfl, bv_le b, rfl, Nat.le_of_lt_succ (guard_lt gd), rfl, bool_le sc, rfl, trivial⟩ (by decide) (by decide)
theorem minuImm (d : BitVec 6) (a : BitVec 6) (imm : BitVec 6) (gd : Guard) (sc : Bool) :
    Statement (.minuImm d a imm gd sc) :=
  fits 0x10000000 _ [(2 ^ 6 - 1, 20), (2 ^ 6 - 1, 14), (2 ^ 6 - 1, 8), (15, 4), (1, 3)] rfl rfl
    ⟨bv_le d, rfl, bv_le a, rfl, bv_le imm, rfl, Nat.le_of_lt_succ (guard_lt gd), rfl, bool_le sc, rfl, trivial⟩ (by decide) (by decide)
theorem maxuImm (d : BitVec 6) (a : BitVec 6) (imm : BitVec 6) (gd : Guard) (sc : Bool) :
    Statement (.maxuImm d a imm gd sc) :=
  fits 0x10000001 _ [(2 ^ 6 - 1, 20), (2 ^ 6 - 1, 14), (2 ^ 6 - 1, 8), (15, 4), (1, 3)] rfl rfl
    ⟨bv_le d, rfl, bv_le a, rfl, bv_le imm, rfl, Nat.le_of_lt_succ (guard_lt gd), rfl, bool_le sc, rfl, trivial⟩ (by decide) (by decide)
theorem andImm (d : BitVec 6) (a : BitVec 6) (imm : BitVec 6) (gd : Guard) (sc : Bool) :
    Statement (.andImm d a imm gd sc) :=
  fits 0x10000002 _ [(2 ^ 6 - 1, 20), (2 ^ 6 - 1, 14), (2 ^ 6 - 1, 8), (15, 4), (1, 3)] rfl rfl
    ⟨bv_le d, rfl, bv_le a, rfl, bv_le imm, rfl, Nat.le_of_lt_succ (guard_lt gd), rfl, bool_le sc, rfl, trivial⟩ (by decide) (by decide)
theorem orImm (d : BitVec 6) (a : BitVec 6) (imm : BitVec 6) (gd : Guard) (sc : Bool) :
    Statement (.orImm d a imm gd sc) :=
  fits 0x10000003 _ [(2 ^ 6 - 1, 20), (2 ^ 6 - 1, 14), (2 ^ 6 - 1, 8), (15, 4), (1, 3)] rfl rfl
    ⟨bv_le d, rfl, bv_le a, rfl, bv_le imm, rfl, Nat.le_of_lt_succ (guard_lt gd), rfl, bool_le sc, rfl, trivial⟩ (by decide) (by decide)
theorem xorImm (d : BitVec 6) (a : BitVec 6) (imm : BitVec 6) (gd : Guard) (sc : Bool) :
    Statement (.xorImm d a imm gd sc) :=
  fits 0x10000004 _ [(2 ^ 6 - 1, 20), (2 ^ 6 - 1, 14), (2 ^ 6 - 1, 8), (15, 4), (1, 3)] rfl rfl
    ⟨bv_le d, rfl, bv_le a, rfl, bv_le imm, rfl, Nat.le_of_lt_succ (guard_lt gd), rfl, bool_le sc, rfl, trivial⟩ (by decide) (by decide)
theorem andnImm (d : BitVec 6) (a : BitVec 6) (imm : BitVec 6) (gd : Guard) (sc : Bool) :
    Statement (.andnImm d a imm gd sc) :=
  fits 0x10000005 _ [(2 ^ 6 - 1, 20), (2 ^ 6 - 1, 14), (2 ^ 6 - 1, 8), (15, 4), (1, 3)] rfl rfl
    ⟨bv_le d, rfl, bv_le a, rfl, bv_le imm, rfl, Nat.le_of_lt_succ (guard_lt gd), rfl, bool_le sc, rfl, trivial⟩ (by decide) (by decide)
theorem rolImm (d : BitVec 6) (a : BitVec 6) (imm : BitVec 6) (gd : Guard) (sc : Bool) :
    Statement (.rolImm d a imm gd sc) :=
  fits 0x10000006 _ [(2 ^ 6 - 1, 20), (2 ^ 6 - 1, 14), (2 ^ 6 - 1, 8), (15, 4), (1, 3)] rfl rfl
    ⟨bv_le d, rfl, bv_le a, rfl, bv_le imm, rfl, Nat.le_of_lt_succ (guard_lt gd), rfl, bool_le sc, rfl, trivial⟩ (by decide) (by decide)
theorem shl (d : BitVec 6) (a : BitVec 6) (b : BitVec 6) (gd : Guard) (sc : Bool) :
    Statement (.shl d a b gd sc) :=
  fits 0x14000000 _ [(2 ^ 6 - 1, 20), (2 ^ 6 - 1, 14), (2 ^ 6 - 1, 8), (15, 4), (1, 3)] rfl rfl
    ⟨bv_le d, rfl, bv_le a, rfl, bv_le b, rfl, Nat.le_of_lt_succ (guard_lt gd), rfl, bool_le sc, rfl, trivial⟩ (by decide) (by decide)
theorem shr (d : BitVec 6) (a : BitVec 6) (b : BitVec 6) (gd : Guard) (sc : Bool) :
    Statement (.shr d a b gd sc) :=
  fits 0x14000001 _ [(2 ^ 6 - 1, 20), (2 ^ 6 - 1, 14), (2 ^ 6 - 1, 8), (15, 4), (1, 3)] rfl rfl
    ⟨bv_le d, rfl, bv_le a, rfl, bv_le b, rfl, Nat.le_of_lt_succ (guard_lt gd), rfl, bool_le sc, rfl, trivial⟩ (by decide) (by decide)
theorem sar (d : BitVec 6) (a : BitVec 6) (b : BitVec 6) (gd : Guard) (sc : Bool) :
    Statement (.sar d a b gd sc) :=
  fits 0x14000002 _ [(2 ^ 6 - 1, 20), (2 ^ 6 - 1, 14), (2 ^ 6 - 1, 8), (15, 4), (1, 3)] rfl rfl
    ⟨bv_le d, rfl, bv_le a, rfl, bv_le b, rfl, Nat.le_of_lt_succ (guard_lt gd), rfl, bool_le sc, rfl, trivial⟩ (by decide) (by decide)
theorem divs (d : BitVec 6) (a : BitVec 6) (b : BitVec 6) (gd : Guard) (sc : Bool) :
    Statement (.divs d a b gd sc) :=
  fits 0x14000003 _ [(2 ^ 6 - 1, 20), (2 ^ 6 - 1, 14), (2 ^ 6 - 1, 8), (15, 4), (1, 3)] rfl rfl
    ⟨bv_le d, rfl, bv_le a, rfl, bv_le b, rfl, Nat.le_of_lt_succ (guard_lt gd), rfl, bool_le sc, rfl, trivial⟩ (by decide) (by decide)
theorem divu (d : BitVec 6) (a : BitVec 6) (b : BitVec 6) (gd : Guard) (sc : Bool) :
    Statement (.divu d a b gd sc) :=
  fits 0x14000004 _ [(2 ^ 6 - 1, 20), (2 ^ 6 - 1, 14), (2 ^ 6 - 1, 8), (15, 4), (1, 3)] rfl rfl
    ⟨bv_le d, rfl, bv_le a, rfl, bv_le b, rfl, Nat.le_of_lt_succ (guard_lt gd), rfl, bool_le sc, rfl, trivial⟩ (by decide) (by decide)
theorem rems (d : BitVec 6) (a : BitVec 6) (b : BitVec 6) (gd : Guard) (sc : Bool) :
    Statement (.rems d a b gd sc) :=
  fits 0x14000005 _ [(2 ^ 6 - 1, 20), (2 ^ 6 - 1, 14), (2 ^ 6 - 1, 8), (15, 4), (1, 3)] rfl rfl
    ⟨bv_le d, rfl, bv_le a, rfl, bv_le b, rfl, Nat.le_of_lt_succ (guard_lt gd), rfl, bool_le sc, rfl, trivial⟩ (by decide) (by decide)
theorem remu (d : BitVec 6) (a : BitVec 6) (b : BitVec 6) (gd : Guard) (sc : Bool) :
    Statement (.remu d a b gd sc) :=
  fits 0x14000006 _ [(2 ^ 6 - 1, 20), (2 ^ 6 - 1, 14), (2 ^ 6 - 1, 8), (15, 4), (1, 3)] rfl rfl
    ⟨bv_le d, rfl, bv_le a, rfl, bv_le b, rfl, Nat.le_of_lt_succ (guard_lt gd), rfl, bool_le sc, rfl, trivial⟩ (by decide) (by decide)
theorem lea (d : BitVec 6) (a : BitVec 6) (b : BitVec 6) (gd : Guard) (sc : Bool) :
    Statement (.lea d a b gd sc) :=
  fits 0x14000007 _ [(2 ^ 6 - 1, 20), (2 ^ 6 - 1, 14), (2 ^ 6 - 1, 8), (15, 4), (1, 3)] rfl rfl
    ⟨bv_le d, rfl, bv_le a, rfl, bv_le b, rfl, Nat.le_of_lt_succ (guard_lt gd), rfl, bool_le sc, rfl, trivial⟩ (by decide) (by decide)
theorem shlImm (d : BitVec 6) (a : BitVec 6) (imm : BitVec 6) (gd : Guard) (sc : Bool) :
    Statement (.shlImm d a imm gd sc) :=
  fits 0x18000000 _ [(2 ^ 6 - 1, 20), (2 ^ 6 - 1, 14), (2 ^ 6 - 1, 8), (15, 4), (1, 3)] rfl rfl
    ⟨bv_le d, rfl, bv_le a, rfl, bv_le imm, rfl, Nat.le_of_lt_succ (guard_lt gd), rfl, bool_le sc, rfl, trivial⟩ (by decide) (by decide)
theorem shrImm (d : BitVec 6) (a : BitVec 6) (imm : BitVec 6) (gd : Guard) (sc : Bool) :
    Statement (.shrImm d a imm gd sc) :=
  fits 0x18000001 _ [(2 ^ 6 - 1, 20), (2 ^ 6 - 1, 14), (2 ^ 6 - 1, 8), (15, 4), (1, 3)] rfl rfl
    ⟨bv_le d, rfl, bv_le a, rfl, bv_le imm, rfl, Nat.le_of_lt_succ (guard_lt gd), rfl, bool_le sc, rfl, trivial⟩ (by decide) (by decide)
theorem sarImm (d : BitVec 6) (a : BitVec 6) (imm : BitVec 6) (gd : Guard) (sc : Bool) :
    Statement (.sarImm d a imm gd sc) :=
  fits 0x18000002 _ [(2 ^ 6 - 1, 20), (2 ^ 6 - 1, 14), (2 ^ 6 - 1, 8), (15, 4), (1, 3)] rfl rfl
    ⟨bv_le d, rfl, bv_le a, rfl, bv_le imm, rfl, Nat.le_of_lt_succ (guard_lt gd), rfl, bool_le sc, rfl, trivial⟩ (by decide) (by decide)
theorem divsImm (d : BitVec 6) (a : BitVec 6) (imm : BitVec 6) (gd : Guard) (sc : Bool) :
    Statement (.divsImm d a imm gd sc) :=
  fits 0x18000003 _ [(2 ^ 6 - 1, 20), (2 ^ 6 - 1, 14), (2 ^ 6 - 1, 8), (15, 4), (1, 3)] rfl rfl
    ⟨bv_le d, rfl, bv_le a, rfl, bv_le imm, rfl, Nat.le_of_lt_succ (guard_lt gd), rfl, bool_le sc, rfl, trivial⟩ (by decide) (by decide)
theorem divuImm (d : BitVec 6) (a : BitVec 6) (imm : BitVec 6) (gd : Guard) (sc : Bool) :
    Statement (.divuImm d a imm gd sc) :=
  fits 0x18000004 _ [(2 ^ 6 - 1, 20), (2 ^ 6 - 1, 14), (2 ^ 6 - 1, 8), (15, 4), (1, 3)] rfl rfl
    ⟨bv_le d, rfl, bv_le a, rfl, bv_le imm, rfl, Nat.le_of_lt_succ (guard_lt gd), rfl, bool_le sc, rfl, trivial⟩ (by decide) (by decide)
theorem remsImm (d : BitVec 6) (a : BitVec 6) (imm : BitVec 6) (gd : Guard) (sc : Bool) :
    Statement (.remsImm d a imm gd sc) :=
  fits 0x18000005 _ [(2 ^ 6 - 1, 20), (2 ^ 6 - 1, 14), (2 ^ 6 - 1, 8), (15, 4), (1, 3)] rfl rfl
    ⟨bv_le d, rfl, bv_le a, rfl, bv_le imm, rfl, Nat.le_of_lt_succ (guard_lt gd), rfl, bool_le sc, rfl, trivial⟩ (by decide) (by decide)
theorem remuImm (d : BitVec 6) (a : BitVec 6) (imm : BitVec 6) (gd : Guard) (sc : Bool) :
    Statement (.remuImm d a imm gd sc) :=
  fits 0x18000006 _ [(2 ^ 6 - 1, 20), (2 ^ 6 - 1, 14), (2 ^ 6 - 1, 8), (15, 4), (1, 3)] rfl rfl
    ⟨bv_le d, rfl, bv_le a, rfl, bv_le imm, rfl, Nat.le_of_lt_succ (guard_lt gd), rfl, bool_le sc, rfl, trivial⟩ (by decide) (by decide)
theorem leaImm (d : BitVec 6) (a : BitVec 6) (imm : BitVec 6) (gd : Guard) (sc : Bool) :
    Statement (.leaImm d a imm gd sc) :=
  fits 0x18000007 _ [(2 ^ 6 - 1, 20), (2 ^ 6 - 1, 14), (2 ^ 6 - 1, 8), (15, 4), (1, 3)] rfl rfl
    ⟨bv_le d, rfl, bv_le a, rfl, bv_le imm, rfl, Nat.le_of_lt_succ (guard_lt gd), rfl, bool_le sc, rfl, trivial⟩ (by decide) (by decide)
theorem add64 (d : BitVec 6) (a : BitVec 6) (b : BitVec 6) (gd : Guard) (sc : Bool) :
    Statement (.add64 d a b gd sc) :=
  fits 0x1C000000 _ [(2 ^ 6 - 1, 20), (2 ^ 6 - 1, 14), (2 ^ 6 - 1, 8), (15, 4), (1, 3)] rfl rfl
    ⟨bv_le d, rfl, bv_le a, rfl, bv_le b, rfl, Nat.le_of_lt_succ (guard_lt gd), rfl, bool_le sc, rfl, trivial⟩ (by decide) (by decide)
theorem sub64 (d : BitVec 6) (a : BitVec 6) (b : BitVec 6) (gd : Guard) (sc : Bool) :
    Statement (.sub64 d a b gd sc) :=
  fits 0x1C000001 _ [(2 ^ 6 - 1, 20), (2 ^ 6 - 1, 14), (2 ^ 6 - 1, 8), (15, 4), (1, 3)] rfl rfl
    ⟨bv_le d, rfl, bv_le a, rfl, bv_le b, rfl, Nat.le_of_lt_succ (guard_lt gd), rfl, bool_le sc, rfl, trivial⟩ (by decide) (by decide)
theorem shl64 (d : BitVec 6) (a : BitVec 6) (b : BitVec 6) (gd : Guard) (sc : Bool) :
    Statement (.shl64 d a b gd sc) :=
  fits 0x1C000002 _ [(2 ^ 6 - 1, 20), (2 ^ 6 - 1, 14), (2 ^ 6 - 1, 8), (15, 4), (1, 3)] rfl rfl
    ⟨bv_le d, rfl, bv_le a, rfl, bv_le b, rfl, Nat.le_of_lt_succ (guard_lt gd), rfl, bool_le sc, rfl, trivial⟩ (by decide) (by decide)
theorem shr64 (d : BitVec 6) (a : BitVec 6) (b : BitVec 6) (gd : Guard) (sc : Bool) :
    Statement (.shr64 d a b gd sc) :=
  fits 0x1C000003 _ [(2 ^ 6 - 1, 20), (2 ^ 6 - 1, 14), (2 ^ 6 - 1, 8), (15, 4), (1, 3)] rfl rfl
    ⟨bv_le d, rfl, bv_le a, rfl, bv_le b, rfl, Nat.le_of_lt_succ (guard_lt gd), rfl, bool_le sc, rfl, trivial⟩ (by decide) (by decide)
theorem add64Imm (d : BitVec 6) (a : BitVec 6) (imm : BitVec 6) (gd : Guard) (sc : Bool) :
    Statement (.add64Imm d a imm gd sc) :=
  fits 0x20000000 _ [(2 ^ 6 - 1, 20), (2 ^ 6 - 1, 14), (2 ^ 6 - 1, 8), (15, 4), (1, 3)] rfl rfl
    ⟨bv_le d, rfl, bv_le a, rfl, bv_le imm, rfl, Nat.le_of_lt_succ (guard_lt gd), rfl, bool_le sc, rfl, trivial⟩ (by decide) (by decide)
theorem sub64Imm (d : BitVec 6) (a : BitVec 6) (imm : BitVec 6) (gd : Guard) (sc : Bool) :
    Statement (.sub64Imm d a imm gd sc) :=
  fits 0x20000001 _ [(2 ^ 6 - 1, 20), (2 ^ 6 - 1, 14), (2 ^ 6 - 1, 8), (15, 4), (1, 3)] rfl rfl
    ⟨bv_le d, rfl, bv_le a, rfl, bv_le imm, rfl, Nat.le_of_lt_succ (guard_lt gd), rfl, bool_le sc, rfl, trivial⟩ (by decide) (by decide)
theorem shl64Imm (d : BitVec 6) (a : BitVec 6) (imm : BitVec 6) (gd : Guard) (sc : Bool) :
    Statement (.shl64Imm d a imm gd sc) :=
  fits 0x20000002 _ [(2 ^ 6 - 1, 20), (2 ^ 6 - 1, 14), (2 ^ 6 - 1, 8), (15, 4), (1, 3)] rfl rfl
    ⟨bv_le d, rfl, bv_le a, rfl, bv_le imm, rfl, Nat.le_of_lt_succ (guard_lt gd), rfl, bool_le sc, rfl, trivial⟩ (by decide) (by decide)
theorem shr64Imm (d : BitVec 6) (a : BitVec 6) (imm : BitVec 6) (gd : Guard) (sc : Bool) :
    Statement (.shr64Imm d a imm gd sc) :=
  fits 0x20000003 _ [(2 ^ 6 - 1, 20), (2 ^ 6 - 1, 14), (2 ^ 6 - 1, 8), (15, 4), (1, 3)] rfl rfl
    ⟨bv_le d, rfl, bv_le a, rfl, bv_le imm, rfl, Nat.le_of_lt_succ (guard_lt gd), rfl, bool_le sc, rfl, trivial⟩ (by decide) (by decide)
theorem mov (d : BitVec 6) (a : BitVec 6) (gd : Guard) (sc : Bool) :
    Statement (.mov d a gd sc) :=
  fits 0x24000000 _ [(2 ^ 6 - 1, 20), (2 ^ 6 - 1, 14), (15, 4), (1, 3)] rfl rfl
    ⟨bv_le d, rfl, bv_le a, rfl, Nat.le_of_lt_succ (guard_lt gd), rfl, bool_le sc, rfl, trivial⟩ (by decide) (by decide)
theorem clz (d : BitVec 6) (a : BitVec 6) (gd : Guard) (sc : Bool) :
    Statement (.clz d a gd sc) :=
  fits 0x24000001 _ [(2 ^ 6 - 1, 20), (2 ^ 6 - 1, 14), (15, 4), (1, 3)] rfl rfl
    ⟨bv_le d, rfl, bv_le a, rfl, Nat.le_of_lt_succ (guard_lt gd), rfl, bool_le sc, rfl, trivial⟩ (by decide) (by decide)
theorem popc (d : BitVec 6) (a : BitVec 6) (gd : Guard) (sc : Bool) :
    Statement (.popc d a gd sc) :=
  fits 0x24000002 _ [(2 ^ 6 - 1, 20), (2 ^ 6 - 1, 14), (15, 4), (1, 3)] rfl rfl
    ⟨bv_le d, rfl, bv_le a, rfl, Nat.le_of_lt_succ (guard_lt gd), rfl, bool_le sc, rfl, trivial⟩ (by decide) (by decide)
theorem brev (d : BitVec 6) (a : BitVec 6) (gd : Guard) (sc : Bool) :
    Statement (.brev d a gd sc) :=
  fits 0x24000003 _ [(2 ^ 6 - 1, 20), (2 ^ 6 - 1, 14), (15, 4), (1, 3)] rfl rfl
    ⟨bv_le d, rfl, bv_le a, rfl, Nat.le_of_lt_succ (guard_lt gd), rfl, bool_le sc, rfl, trivial⟩ (by decide) (by decide)
theorem bfx (d : BitVec 6) (a : BitVec 6) (b : BitVec 6) (gd : Guard) (sc : Bool) :
    Statement (.bfx d a b gd sc) :=
  fits 0x24000004 _ [(2 ^ 6 - 1, 20), (2 ^ 6 - 1, 14), (2 ^ 6 - 1, 8), (15, 4), (1, 3)] rfl rfl
    ⟨bv_le d, rfl, bv_le a, rfl, bv_le b, rfl, Nat.le_of_lt_succ (guard_lt gd), rfl, bool_le sc, rfl, trivial⟩ (by decide) (by decide)
theorem bfxu (d : BitVec 6) (a : BitVec 6) (b : BitVec 6) (gd : Guard) (sc : Bool) :
    Statement (.bfxu d a b gd sc) :=
  fits 0x24000005 _ [(2 ^ 6 - 1, 20), (2 ^ 6 - 1, 14), (2 ^ 6 - 1, 8), (15, 4), (1, 3)] rfl rfl
    ⟨bv_le d, rfl, bv_le a, rfl, bv_le b, rfl, Nat.le_of_lt_succ (guard_lt gd), rfl, bool_le sc, rfl, trivial⟩ (by decide) (by decide)
theorem bfi (d : BitVec 6) (a : BitVec 6) (b : BitVec 6) (gd : Guard) (sc : Bool) :
    Statement (.bfi d a b gd sc) :=
  fits 0x24000006 _ [(2 ^ 6 - 1, 20), (2 ^ 6 - 1, 14), (2 ^ 6 - 1, 8), (15, 4), (1, 3)] rfl rfl
    ⟨bv_le d, rfl, bv_le a, rfl, bv_le b, rfl, Nat.le_of_lt_succ (guard_lt gd), rfl, bool_le sc, rfl, trivial⟩ (by decide) (by decide)
theorem movi (d : BitVec 6) (imm : BitVec 6) (gd : Guard) (sc : Bool) :
    Statement (.movi d imm gd sc) :=
  fits 0x28000000 _ [(2 ^ 6 - 1, 20), (2 ^ 6 - 1, 8), (15, 4), (1, 3)] rfl rfl
    ⟨bv_le d, rfl, bv_le imm, rfl, Nat.le_of_lt_succ (guard_lt gd), rfl, bool_le sc, rfl, trivial⟩ (by decide) (by decide)
theorem bfxImm (d : BitVec 6) (a : BitVec 6) (imm : BitVec 6) (gd : Guard) (sc : Bool) :
    Statement (.bfxImm d a imm gd sc) :=
  fits 0x28000004 _ [(2 ^ 6 - 1, 20), (2 ^ 6 - 1, 14), (2 ^ 6 - 1, 8), (15, 4), (1, 3)] rfl rfl
    ⟨bv_le d, rfl, bv_le a, rfl, bv_le imm, rfl, Nat.le_of_lt_succ (guard_lt gd), rfl, bool_le sc, rfl, trivial⟩ (by decide) (by decide)
theorem bfxuImm (d : BitVec 6) (a : BitVec 6) (imm : BitVec 6) (gd : Guard) (sc : Bool) :
    Statement (.bfxuImm d a imm gd sc) :=
  fits 0x28000005 _ [(2 ^ 6 - 1, 20), (2 ^ 6 - 1, 14), (2 ^ 6 - 1, 8), (15, 4), (1, 3)] rfl rfl
    ⟨bv_le d, rfl, bv_le a, rfl, bv_le imm, rfl, Nat.le_of_lt_succ (guard_lt gd), rfl, bool_le sc, rfl, trivial⟩ (by decide) (by decide)
theorem bfiImm (d : BitVec 6) (a : BitVec 6) (imm : BitVec 6) (gd : Guard) (sc : Bool) :
    Statement (.bfiImm d a imm gd sc) :=
  fits 0x28000006 _ [(2 ^ 6 - 1, 20), (2 ^ 6 - 1, 14), (2 ^ 6 - 1, 8), (15, 4), (1, 3)] rfl rfl
    ⟨bv_le d, rfl, bv_le a, rfl, bv_le imm, rfl, Nat.le_of_lt_succ (guard_lt gd), rfl, bool_le sc, rfl, trivial⟩ (by decide) (by decide)
theorem sel (d : BitVec 6) (a : BitVec 6) (b : BitVec 6) (gd : Guard) (sc : Bool) (k : BitVec 3) :
    Statement (.sel d a b gd sc k) :=
  fits 0x2C000000 _ [(2 ^ 6 - 1, 20), (2 ^ 6 - 1, 14), (2 ^ 6 - 1, 8), (15, 4), (1, 3), (2 ^ 3 - 1, 0)] rfl rfl
    ⟨bv_le d, rfl, bv_le a, rfl, bv_le b, rfl, Nat.le_of_lt_succ (guard_lt gd), rfl, bool_le sc, rfl, bv_le k, rfl, trivial⟩ (by decide) (by decide)
theorem cmp (cond : ICond) (a : BitVec 6) (b : BitVec 6) (gd : Guard) (sc : Bool) (pd : BitVec 3) :
    Statement (.cmp cond a b gd sc pd) :=
  fits 0x30000000 _ [(9, 22), (2 ^ 6 - 1, 14), (2 ^ 6 - 1, 8), (15, 4), (1, 3), (2 ^ 3 - 1, 0)] rfl rfl
    ⟨Nat.le_of_lt_succ (icond_lt cond), rfl, bv_le a, rfl, bv_le b, rfl, Nat.le_of_lt_succ (guard_lt gd), rfl, bool_le sc, rfl, bv_le pd, rfl, trivial⟩ (by decide) (by decide)
theorem cmpImm (cond : ICond) (a : BitVec 6) (imm : BitVec 6) (gd : Guard) (sc : Bool) (pd : BitVec 3) :
    Statement (.cmpImm cond a imm gd sc pd) :=
  fits 0x30200000 _ [(9, 22), (2 ^ 6 - 1, 14), (2 ^ 6 - 1, 8), (15, 4), (1, 3), (2 ^ 3 - 1, 0)] rfl rfl
    ⟨Nat.le_of_lt_succ (icond_lt cond), rfl, bv_le a, rfl, bv_le imm, rfl, Nat.le_of_lt_succ (guard_lt gd), rfl, bool_le sc, rfl, bv_le pd, rfl, trivial⟩ (by decide) (by decide)
theorem fcmp (cond : FCond) (a : BitVec 6) (b : BitVec 6) (gd : Guard) (sc : Bool) (pd : BitVec 3) :
    Statement (.fcmp cond a b gd sc pd) :=
  fits 0x34000000 _ [(7, 22), (2 ^ 6 - 1, 14), (2 ^ 6 - 1, 8), (15, 4), (1, 3), (2 ^ 3 - 1, 0)] rfl rfl
    ⟨Nat.le_of_lt_succ (fcond_lt cond), rfl, bv_le a, rfl, bv_le b, rfl, Nat.le_of_lt_succ (guard_lt gd), rfl, bool_le sc, rfl, bv_le pd, rfl, trivial⟩ (by decide) (by decide)
theorem fcmpImm (cond : FCond) (a : BitVec 6) (imm : BitVec 6) (gd : Guard) (sc : Bool) (pd : BitVec 3) :
    Statement (.fcmpImm cond a imm gd sc pd) :=
  fits 0x34200000 _ [(7, 22), (2 ^ 6 - 1, 14), (2 ^ 6 - 1, 8), (15, 4), (1, 3), (2 ^ 3 - 1, 0)] rfl rfl
    ⟨Nat.le_of_lt_succ (fcond_lt cond), rfl, bv_le a, rfl, bv_le imm, rfl, Nat.le_of_lt_succ (guard_lt gd), rfl, bool_le sc, rfl, bv_le pd, rfl, trivial⟩ (by decide) (by decide)
theorem dcmp (cond : FCond) (a : BitVec 6) (b : BitVec 6) (gd : Guard) (pd : BitVec 3) :
    Statement (.dcmp cond a b gd pd) :=
  fits 0x34100000 _ [(7, 22), (2 ^ 6 - 1, 14), (2 ^ 6 - 1, 8), (15, 4), (2 ^ 3 - 1, 0)] rfl rfl
    ⟨Nat.le_of_lt_succ (fcond_lt cond), rfl, bv_le a, rfl, bv_le b, rfl, Nat.le_of_lt_succ (guard_lt gd), rfl, bv_le pd, rfl, trivial⟩ (by decide) (by decide)
theorem pand (pd : BitVec 3) (id : Bool) (pa : BitVec 3) (ia : Bool) (pb : BitVec 3) (ib : Bool) (gd : Guard) :
    Statement (.pand pd id pa ia pb ib gd) :=
  fits 0x38000000 _ [(2 ^ 3 - 1, 21), (1, 20), (2 ^ 3 - 1, 15), (1, 14), (2 ^ 3 - 1, 9), (1, 8), (15, 4)] rfl rfl
    ⟨bv_le pd, rfl, bool_le id, rfl, bv_le pa, rfl, bool_le ia, rfl, bv_le pb, rfl, bool_le ib, rfl, Nat.le_of_lt_succ (guard_lt gd), rfl, trivial⟩ (by decide) (by decide)
theorem por (pd : BitVec 3) (id : Bool) (pa : BitVec 3) (ia : Bool) (pb : BitVec 3) (ib : Bool) (gd : Guard) :
    Statement (.por pd id pa ia pb ib gd) :=
  fits 0x38000001 _ [(2 ^ 3 - 1, 21), (1, 20), (2 ^ 3 - 1, 15), (1, 14), (2 ^ 3 - 1, 9), (1, 8), (15, 4)] rfl rfl
    ⟨bv_le pd, rfl, bool_le id, rfl, bv_le pa, rfl, bool_le ia, rfl, bv_le pb, rfl, bool_le ib, rfl, Nat.le_of_lt_succ (guard_lt gd), rfl, trivial⟩ (by decide) (by decide)
theorem pxor (pd : BitVec 3) (id : Bool) (pa : BitVec 3) (ia : Bool) (pb : BitVec 3) (ib : Bool) (gd : Guard) :
    Statement (.pxor pd id pa ia pb ib gd) :=
  fits 0x38000002 _ [(2 ^ 3 - 1, 21), (1, 20), (2 ^ 3 - 1, 15), (1, 14), (2 ^ 3 - 1, 9), (1, 8), (15, 4)] rfl rfl
    ⟨bv_le pd, rfl, bool_le id, rfl, bv_le pa, rfl, bool_le ia, rfl, bv_le pb, rfl, bool_le ib, rfl, Nat.le_of_lt_succ (guard_lt gd), rfl, trivial⟩ (by decide) (by decide)
theorem pnot (pd : BitVec 3) (id : Bool) (pa : BitVec 3) (ia : Bool) (gd : Guard) :
    Statement (.pnot pd id pa ia gd) :=
  fits 0x38000003 _ [(2 ^ 3 - 1, 21), (1, 20), (2 ^ 3 - 1, 15), (1, 14), (15, 4)] rfl rfl
    ⟨bv_le pd, rfl, bool_le id, rfl, bv_le pa, rfl, bool_le ia, rfl, Nat.le_of_lt_succ (guard_lt gd), rfl, trivial⟩ (by decide) (by decide)
theorem shfl (d : BitVec 6) (a : BitVec 6) (b : BitVec 6) (gd : Guard) :
    Statement (.shfl d a b gd) :=
  fits 0x3C000000 _ [(2 ^ 6 - 1, 20), (2 ^ 6 - 1, 14), (2 ^ 6 - 1, 8), (15, 4)] rfl rfl
    ⟨bv_le d, rfl, bv_le a, rfl, bv_le b, rfl, Nat.le_of_lt_succ (guard_lt gd), rfl, trivial⟩ (by decide) (by decide)
theorem bcast (d : BitVec 6) (a : BitVec 6) (b : BitVec 6) (gd : Guard) :
    Statement (.bcast d a b gd) :=
  fits 0x3C000001 _ [(2 ^ 6 - 1, 20), (2 ^ 6 - 1, 14), (2 ^ 6 - 1, 8), (15, 4)] rfl rfl
    ⟨bv_le d, rfl, bv_le a, rfl, bv_le b, rfl, Nat.le_of_lt_succ (guard_lt gd), rfl, trivial⟩ (by decide) (by decide)
theorem rdlane (d : BitVec 6) (a : BitVec 6) (b : BitVec 6) (gd : Guard) :
    Statement (.rdlane d a b gd) :=
  fits 0x3C000002 _ [(2 ^ 6 - 1, 20), (2 ^ 6 - 1, 14), (2 ^ 6 - 1, 8), (15, 4)] rfl rfl
    ⟨bv_le d, rfl, bv_le a, rfl, bv_le b, rfl, Nat.le_of_lt_succ (guard_lt gd), rfl, trivial⟩ (by decide) (by decide)
theorem wrlane (d : BitVec 6) (a : BitVec 6) (b : BitVec 6) (gd : Guard) :
    Statement (.wrlane d a b gd) :=
  fits 0x3C000003 _ [(2 ^ 6 - 1, 20), (2 ^ 6 - 1, 14), (2 ^ 6 - 1, 8), (15, 4)] rfl rfl
    ⟨bv_le d, rfl, bv_le a, rfl, bv_le b, rfl, Nat.le_of_lt_succ (guard_lt gd), rfl, trivial⟩ (by decide) (by decide)
theorem redl (d : BitVec 6) (a : BitVec 6) (op : LaneOp) (gd : Guard) :
    Statement (.redl d a op gd) :=
  fits 0x3C000004 _ [(2 ^ 6 - 1, 20), (2 ^ 6 - 1, 14), (15, 8), (15, 4)] rfl rfl
    ⟨bv_le d, rfl, bv_le a, rfl, Nat.le_of_lt_succ (laneOp_lt op), rfl, Nat.le_of_lt_succ (guard_lt gd), rfl, trivial⟩ (by decide) (by decide)
theorem scanl (d : BitVec 6) (a : BitVec 6) (ex : Bool) (op : LaneOp) (gd : Guard) :
    Statement (.scanl d a ex op gd) :=
  fits 0x3C000005 _ [(2 ^ 6 - 1, 20), (2 ^ 6 - 1, 14), (1, 13), (15, 8), (15, 4)] rfl rfl
    ⟨bv_le d, rfl, bv_le a, rfl, bool_le ex, rfl, Nat.le_of_lt_succ (laneOp_lt op), rfl, Nat.le_of_lt_succ (guard_lt gd), rfl, trivial⟩ (by decide) (by decide)
theorem shflImm (d : BitVec 6) (a : BitVec 6) (imm : BitVec 6) (gd : Guard) :
    Statement (.shflImm d a imm gd) :=
  fits 0x40000000 _ [(2 ^ 6 - 1, 20), (2 ^ 6 - 1, 14), (2 ^ 6 - 1, 8), (15, 4)] rfl rfl
    ⟨bv_le d, rfl, bv_le a, rfl, bv_le imm, rfl, Nat.le_of_lt_succ (guard_lt gd), rfl, trivial⟩ (by decide) (by decide)
theorem bcastImm (d : BitVec 6) (a : BitVec 6) (imm : BitVec 6) (gd : Guard) :
    Statement (.bcastImm d a imm gd) :=
  fits 0x40000001 _ [(2 ^ 6 - 1, 20), (2 ^ 6 - 1, 14), (2 ^ 6 - 1, 8), (15, 4)] rfl rfl
    ⟨bv_le d, rfl, bv_le a, rfl, bv_le imm, rfl, Nat.le_of_lt_succ (guard_lt gd), rfl, trivial⟩ (by decide) (by decide)
theorem rdlaneImm (d : BitVec 6) (a : BitVec 6) (imm : BitVec 6) (gd : Guard) :
    Statement (.rdlaneImm d a imm gd) :=
  fits 0x40000002 _ [(2 ^ 6 - 1, 20), (2 ^ 6 - 1, 14), (2 ^ 6 - 1, 8), (15, 4)] rfl rfl
    ⟨bv_le d, rfl, bv_le a, rfl, bv_le imm, rfl, Nat.le_of_lt_succ (guard_lt gd), rfl, trivial⟩ (by decide) (by decide)
theorem wrlaneImm (d : BitVec 6) (a : BitVec 6) (imm : BitVec 6) (gd : Guard) :
    Statement (.wrlaneImm d a imm gd) :=
  fits 0x40000003 _ [(2 ^ 6 - 1, 20), (2 ^ 6 - 1, 14), (2 ^ 6 - 1, 8), (15, 4)] rfl rfl
    ⟨bv_le d, rfl, bv_le a, rfl, bv_le imm, rfl, Nat.le_of_lt_succ (guard_lt gd), rfl, trivial⟩ (by decide) (by decide)
theorem vote (d : BitVec 6) (pa : BitVec 3) (mode : VoteMode) (gd : Guard) :
    Statement (.vote d pa mode gd) :=
  fits 0x44000000 _ [(2 ^ 6 - 1, 20), (2 ^ 3 - 1, 14), (3, 8), (15, 4)] rfl rfl
    ⟨bv_le d, rfl, bv_le pa, rfl, Nat.le_of_lt_succ (vote_lt mode), rfl, Nat.le_of_lt_succ (guard_lt gd), rfl, trivial⟩ (by decide) (by decide)
theorem popm (d : BitVec 6) (pa : BitVec 3) (mode : PopMode) (gd : Guard) :
    Statement (.popm d pa mode gd) :=
  fits 0x44000001 _ [(2 ^ 6 - 1, 20), (2 ^ 3 - 1, 14), (3, 8), (15, 4)] rfl rfl
    ⟨bv_le d, rfl, bv_le pa, rfl, Nat.le_of_lt_succ (pop_lt mode), rfl, Nat.le_of_lt_succ (guard_lt gd), rfl, trivial⟩ (by decide) (by decide)
theorem elect (pd : BitVec 3) (gd : Guard) :
    Statement (.elect pd gd) :=
  fits 0x44000002 _ [(2 ^ 3 - 1, 20), (15, 4)] rfl rfl
    ⟨bv_le pd, rfl, Nat.le_of_lt_succ (guard_lt gd), rfl, trivial⟩ (by decide) (by decide)
theorem fadd (d : BitVec 6) (a : BitVec 6) (b : BitVec 6) (gd : Guard) (sc : Bool) :
    Statement (.fadd d a b gd sc) :=
  fits 0x48000000 _ [(2 ^ 6 - 1, 20), (2 ^ 6 - 1, 14), (2 ^ 6 - 1, 8), (15, 4), (1, 3)] rfl rfl
    ⟨bv_le d, rfl, bv_le a, rfl, bv_le b, rfl, Nat.le_of_lt_succ (guard_lt gd), rfl, bool_le sc, rfl, trivial⟩ (by decide) (by decide)
theorem fsub (d : BitVec 6) (a : BitVec 6) (b : BitVec 6) (gd : Guard) (sc : Bool) :
    Statement (.fsub d a b gd sc) :=
  fits 0x48000001 _ [(2 ^ 6 - 1, 20), (2 ^ 6 - 1, 14), (2 ^ 6 - 1, 8), (15, 4), (1, 3)] rfl rfl
    ⟨bv_le d, rfl, bv_le a, rfl, bv_le b, rfl, Nat.le_of_lt_succ (guard_lt gd), rfl, bool_le sc, rfl, trivial⟩ (by decide) (by decide)
theorem fmul (d : BitVec 6) (a : BitVec 6) (b : BitVec 6) (gd : Guard) (sc : Bool) :
    Statement (.fmul d a b gd sc) :=
  fits 0x48000002 _ [(2 ^ 6 - 1, 20), (2 ^ 6 - 1, 14), (2 ^ 6 - 1, 8), (15, 4), (1, 3)] rfl rfl
    ⟨bv_le d, rfl, bv_le a, rfl, bv_le b, rfl, Nat.le_of_lt_succ (guard_lt gd), rfl, bool_le sc, rfl, trivial⟩ (by decide) (by decide)
theorem ffma (d : BitVec 6) (a : BitVec 6) (b : BitVec 6) (gd : Guard) (sc : Bool) :
    Statement (.ffma d a b gd sc) :=
  fits 0x48000003 _ [(2 ^ 6 - 1, 20), (2 ^ 6 - 1, 14), (2 ^ 6 - 1, 8), (15, 4), (1, 3)] rfl rfl
    ⟨bv_le d, rfl, bv_le a, rfl, bv_le b, rfl, Nat.le_of_lt_succ (guard_lt gd), rfl, bool_le sc, rfl, trivial⟩ (by decide) (by decide)
theorem fmin (d : BitVec 6) (a : BitVec 6) (b : BitVec 6) (gd : Guard) (sc : Bool) :
    Statement (.fmin d a b gd sc) :=
  fits 0x48000004 _ [(2 ^ 6 - 1, 20), (2 ^ 6 - 1, 14), (2 ^ 6 - 1, 8), (15, 4), (1, 3)] rfl rfl
    ⟨bv_le d, rfl, bv_le a, rfl, bv_le b, rfl, Nat.le_of_lt_succ (guard_lt gd), rfl, bool_le sc, rfl, trivial⟩ (by decide) (by decide)
theorem fmax (d : BitVec 6) (a : BitVec 6) (b : BitVec 6) (gd : Guard) (sc : Bool) :
    Statement (.fmax d a b gd sc) :=
  fits 0x48000005 _ [(2 ^ 6 - 1, 20), (2 ^ 6 - 1, 14), (2 ^ 6 - 1, 8), (15, 4), (1, 3)] rfl rfl
    ⟨bv_le d, rfl, bv_le a, rfl, bv_le b, rfl, Nat.le_of_lt_succ (guard_lt gd), rfl, bool_le sc, rfl, trivial⟩ (by decide) (by decide)
theorem fscale (d : BitVec 6) (a : BitVec 6) (b : BitVec 6) (gd : Guard) (sc : Bool) :
    Statement (.fscale d a b gd sc) :=
  fits 0x48000006 _ [(2 ^ 6 - 1, 20), (2 ^ 6 - 1, 14), (2 ^ 6 - 1, 8), (15, 4), (1, 3)] rfl rfl
    ⟨bv_le d, rfl, bv_le a, rfl, bv_le b, rfl, Nat.le_of_lt_succ (guard_lt gd), rfl, bool_le sc, rfl, trivial⟩ (by decide) (by decide)
theorem faddImm (d : BitVec 6) (a : BitVec 6) (imm : BitVec 6) (gd : Guard) (sc : Bool) :
    Statement (.faddImm d a imm gd sc) :=
  fits 0x4C000000 _ [(2 ^ 6 - 1, 20), (2 ^ 6 - 1, 14), (2 ^ 6 - 1, 8), (15, 4), (1, 3)] rfl rfl
    ⟨bv_le d, rfl, bv_le a, rfl, bv_le imm, rfl, Nat.le_of_lt_succ (guard_lt gd), rfl, bool_le sc, rfl, trivial⟩ (by decide) (by decide)
theorem fsubImm (d : BitVec 6) (a : BitVec 6) (imm : BitVec 6) (gd : Guard) (sc : Bool) :
    Statement (.fsubImm d a imm gd sc) :=
  fits 0x4C000001 _ [(2 ^ 6 - 1, 20), (2 ^ 6 - 1, 14), (2 ^ 6 - 1, 8), (15, 4), (1, 3)] rfl rfl
    ⟨bv_le d, rfl, bv_le a, rfl, bv_le imm, rfl, Nat.le_of_lt_succ (guard_lt gd), rfl, bool_le sc, rfl, trivial⟩ (by decide) (by decide)
theorem fmulImm (d : BitVec 6) (a : BitVec 6) (imm : BitVec 6) (gd : Guard) (sc : Bool) :
    Statement (.fmulImm d a imm gd sc) :=
  fits 0x4C000002 _ [(2 ^ 6 - 1, 20), (2 ^ 6 - 1, 14), (2 ^ 6 - 1, 8), (15, 4), (1, 3)] rfl rfl
    ⟨bv_le d, rfl, bv_le a, rfl, bv_le imm, rfl, Nat.le_of_lt_succ (guard_lt gd), rfl, bool_le sc, rfl, trivial⟩ (by decide) (by decide)
theorem ffmaImm (d : BitVec 6) (a : BitVec 6) (imm : BitVec 6) (gd : Guard) (sc : Bool) :
    Statement (.ffmaImm d a imm gd sc) :=
  fits 0x4C000003 _ [(2 ^ 6 - 1, 20), (2 ^ 6 - 1, 14), (2 ^ 6 - 1, 8), (15, 4), (1, 3)] rfl rfl
    ⟨bv_le d, rfl, bv_le a, rfl, bv_le imm, rfl, Nat.le_of_lt_succ (guard_lt gd), rfl, bool_le sc, rfl, trivial⟩ (by decide) (by decide)
theorem fminImm (d : BitVec 6) (a : BitVec 6) (imm : BitVec 6) (gd : Guard) (sc : Bool) :
    Statement (.fminImm d a imm gd sc) :=
  fits 0x4C000004 _ [(2 ^ 6 - 1, 20), (2 ^ 6 - 1, 14), (2 ^ 6 - 1, 8), (15, 4), (1, 3)] rfl rfl
    ⟨bv_le d, rfl, bv_le a, rfl, bv_le imm, rfl, Nat.le_of_lt_succ (guard_lt gd), rfl, bool_le sc, rfl, trivial⟩ (by decide) (by decide)
theorem fmaxImm (d : BitVec 6) (a : BitVec 6) (imm : BitVec 6) (gd : Guard) (sc : Bool) :
    Statement (.fmaxImm d a imm gd sc) :=
  fits 0x4C000005 _ [(2 ^ 6 - 1, 20), (2 ^ 6 - 1, 14), (2 ^ 6 - 1, 8), (15, 4), (1, 3)] rfl rfl
    ⟨bv_le d, rfl, bv_le a, rfl, bv_le imm, rfl, Nat.le_of_lt_succ (guard_lt gd), rfl, bool_le sc, rfl, trivial⟩ (by decide) (by decide)
theorem fscaleImm (d : BitVec 6) (a : BitVec 6) (imm : BitVec 6) (gd : Guard) (sc : Bool) :
    Statement (.fscaleImm d a imm gd sc) :=
  fits 0x4C000006 _ [(2 ^ 6 - 1, 20), (2 ^ 6 - 1, 14), (2 ^ 6 - 1, 8), (15, 4), (1, 3)] rfl rfl
    ⟨bv_le d, rfl, bv_le a, rfl, bv_le imm, rfl, Nat.le_of_lt_succ (guard_lt gd), rfl, bool_le sc, rfl, trivial⟩ (by decide) (by decide)
theorem frcpe (d : BitVec 6) (a : BitVec 6) (gd : Guard) (sc : Bool) :
    Statement (.frcpe d a gd sc) :=
  fits 0x50000000 _ [(2 ^ 6 - 1, 20), (2 ^ 6 - 1, 14), (15, 4), (1, 3)] rfl rfl
    ⟨bv_le d, rfl, bv_le a, rfl, Nat.le_of_lt_succ (guard_lt gd), rfl, bool_le sc, rfl, trivial⟩ (by decide) (by decide)
theorem frsqe (d : BitVec 6) (a : BitVec 6) (gd : Guard) (sc : Bool) :
    Statement (.frsqe d a gd sc) :=
  fits 0x50000001 _ [(2 ^ 6 - 1, 20), (2 ^ 6 - 1, 14), (15, 4), (1, 3)] rfl rfl
    ⟨bv_le d, rfl, bv_le a, rfl, Nat.le_of_lt_succ (guard_lt gd), rfl, bool_le sc, rfl, trivial⟩ (by decide) (by decide)
theorem frnd (d : BitVec 6) (a : BitVec 6) (gd : Guard) (sc : Bool) :
    Statement (.frnd d a gd sc) :=
  fits 0x50000002 _ [(2 ^ 6 - 1, 20), (2 ^ 6 - 1, 14), (15, 4), (1, 3)] rfl rfl
    ⟨bv_le d, rfl, bv_le a, rfl, Nat.le_of_lt_succ (guard_lt gd), rfl, bool_le sc, rfl, trivial⟩ (by decide) (by decide)
theorem fclass (d : BitVec 6) (a : BitVec 6) (gd : Guard) (sc : Bool) :
    Statement (.fclass d a gd sc) :=
  fits 0x50000003 _ [(2 ^ 6 - 1, 20), (2 ^ 6 - 1, 14), (15, 4), (1, 3)] rfl rfl
    ⟨bv_le d, rfl, bv_le a, rfl, Nat.le_of_lt_succ (guard_lt gd), rfl, bool_le sc, rfl, trivial⟩ (by decide) (by decide)
theorem dadd (d : BitVec 6) (a : BitVec 6) (b : BitVec 6) (gd : Guard) :
    Statement (.dadd d a b gd) :=
  fits 0x54000000 _ [(2 ^ 6 - 1, 20), (2 ^ 6 - 1, 14), (2 ^ 6 - 1, 8), (15, 4)] rfl rfl
    ⟨bv_le d, rfl, bv_le a, rfl, bv_le b, rfl, Nat.le_of_lt_succ (guard_lt gd), rfl, trivial⟩ (by decide) (by decide)
theorem dsub (d : BitVec 6) (a : BitVec 6) (b : BitVec 6) (gd : Guard) :
    Statement (.dsub d a b gd) :=
  fits 0x54000001 _ [(2 ^ 6 - 1, 20), (2 ^ 6 - 1, 14), (2 ^ 6 - 1, 8), (15, 4)] rfl rfl
    ⟨bv_le d, rfl, bv_le a, rfl, bv_le b, rfl, Nat.le_of_lt_succ (guard_lt gd), rfl, trivial⟩ (by decide) (by decide)
theorem dmul (d : BitVec 6) (a : BitVec 6) (b : BitVec 6) (gd : Guard) :
    Statement (.dmul d a b gd) :=
  fits 0x54000002 _ [(2 ^ 6 - 1, 20), (2 ^ 6 - 1, 14), (2 ^ 6 - 1, 8), (15, 4)] rfl rfl
    ⟨bv_le d, rfl, bv_le a, rfl, bv_le b, rfl, Nat.le_of_lt_succ (guard_lt gd), rfl, trivial⟩ (by decide) (by decide)
theorem dfma (d : BitVec 6) (a : BitVec 6) (b : BitVec 6) (gd : Guard) :
    Statement (.dfma d a b gd) :=
  fits 0x54000003 _ [(2 ^ 6 - 1, 20), (2 ^ 6 - 1, 14), (2 ^ 6 - 1, 8), (15, 4)] rfl rfl
    ⟨bv_le d, rfl, bv_le a, rfl, bv_le b, rfl, Nat.le_of_lt_succ (guard_lt gd), rfl, trivial⟩ (by decide) (by decide)
theorem dmin (d : BitVec 6) (a : BitVec 6) (b : BitVec 6) (gd : Guard) :
    Statement (.dmin d a b gd) :=
  fits 0x54000004 _ [(2 ^ 6 - 1, 20), (2 ^ 6 - 1, 14), (2 ^ 6 - 1, 8), (15, 4)] rfl rfl
    ⟨bv_le d, rfl, bv_le a, rfl, bv_le b, rfl, Nat.le_of_lt_succ (guard_lt gd), rfl, trivial⟩ (by decide) (by decide)
theorem dmax (d : BitVec 6) (a : BitVec 6) (b : BitVec 6) (gd : Guard) :
    Statement (.dmax d a b gd) :=
  fits 0x54000005 _ [(2 ^ 6 - 1, 20), (2 ^ 6 - 1, 14), (2 ^ 6 - 1, 8), (15, 4)] rfl rfl
    ⟨bv_le d, rfl, bv_le a, rfl, bv_le b, rfl, Nat.le_of_lt_succ (guard_lt gd), rfl, trivial⟩ (by decide) (by decide)
theorem hadd2F16 (d : BitVec 6) (a : BitVec 6) (b : BitVec 6) (gd : Guard) :
    Statement (.hadd2F16 d a b gd) :=
  fits 0x58000000 _ [(2 ^ 6 - 1, 20), (2 ^ 6 - 1, 14), (2 ^ 6 - 1, 8), (15, 4)] rfl rfl
    ⟨bv_le d, rfl, bv_le a, rfl, bv_le b, rfl, Nat.le_of_lt_succ (guard_lt gd), rfl, trivial⟩ (by decide) (by decide)
theorem hmul2F16 (d : BitVec 6) (a : BitVec 6) (b : BitVec 6) (gd : Guard) :
    Statement (.hmul2F16 d a b gd) :=
  fits 0x58000001 _ [(2 ^ 6 - 1, 20), (2 ^ 6 - 1, 14), (2 ^ 6 - 1, 8), (15, 4)] rfl rfl
    ⟨bv_le d, rfl, bv_le a, rfl, bv_le b, rfl, Nat.le_of_lt_succ (guard_lt gd), rfl, trivial⟩ (by decide) (by decide)
theorem hfma2F16 (d : BitVec 6) (a : BitVec 6) (b : BitVec 6) (gd : Guard) :
    Statement (.hfma2F16 d a b gd) :=
  fits 0x58000002 _ [(2 ^ 6 - 1, 20), (2 ^ 6 - 1, 14), (2 ^ 6 - 1, 8), (15, 4)] rfl rfl
    ⟨bv_le d, rfl, bv_le a, rfl, bv_le b, rfl, Nat.le_of_lt_succ (guard_lt gd), rfl, trivial⟩ (by decide) (by decide)
theorem hadd2Bf16 (d : BitVec 6) (a : BitVec 6) (b : BitVec 6) (gd : Guard) :
    Statement (.hadd2Bf16 d a b gd) :=
  fits 0x58000004 _ [(2 ^ 6 - 1, 20), (2 ^ 6 - 1, 14), (2 ^ 6 - 1, 8), (15, 4)] rfl rfl
    ⟨bv_le d, rfl, bv_le a, rfl, bv_le b, rfl, Nat.le_of_lt_succ (guard_lt gd), rfl, trivial⟩ (by decide) (by decide)
theorem hmul2Bf16 (d : BitVec 6) (a : BitVec 6) (b : BitVec 6) (gd : Guard) :
    Statement (.hmul2Bf16 d a b gd) :=
  fits 0x58000005 _ [(2 ^ 6 - 1, 20), (2 ^ 6 - 1, 14), (2 ^ 6 - 1, 8), (15, 4)] rfl rfl
    ⟨bv_le d, rfl, bv_le a, rfl, bv_le b, rfl, Nat.le_of_lt_succ (guard_lt gd), rfl, trivial⟩ (by decide) (by decide)
theorem hfma2Bf16 (d : BitVec 6) (a : BitVec 6) (b : BitVec 6) (gd : Guard) :
    Statement (.hfma2Bf16 d a b gd) :=
  fits 0x58000006 _ [(2 ^ 6 - 1, 20), (2 ^ 6 - 1, 14), (2 ^ 6 - 1, 8), (15, 4)] rfl rfl
    ⟨bv_le d, rfl, bv_le a, rfl, bv_le b, rfl, Nat.le_of_lt_succ (guard_lt gd), rfl, trivial⟩ (by decide) (by decide)
theorem cvt (d : BitVec 6) (a : BitVec 6) (src : Ty) (gd : Guard) (ty : Ty) :
    Statement (.cvt d a src gd ty) :=
  fits 0x5C000000 _ [(2 ^ 6 - 1, 20), (2 ^ 6 - 1, 14), (15, 8), (15, 4), (15, 0)] rfl rfl
    ⟨bv_le d, rfl, bv_le a, rfl, Nat.le_of_lt_succ (ty_lt src), rfl, Nat.le_of_lt_succ (guard_lt gd), rfl, Nat.le_of_lt_succ (ty_lt ty), rfl, trivial⟩ (by decide) (by decide)
theorem cvtsr (d : BitVec 6) (a : BitVec 6) (b : BitVec 6) (gd : Guard) (ty : Ty) :
    Statement (.cvtsr d a b gd ty) :=
  fits 0x60000000 _ [(2 ^ 6 - 1, 20), (2 ^ 6 - 1, 14), (2 ^ 6 - 1, 8), (15, 4), (15, 0)] rfl rfl
    ⟨bv_le d, rfl, bv_le a, rfl, bv_le b, rfl, Nat.le_of_lt_succ (guard_lt gd), rfl, Nat.le_of_lt_succ (ty_lt ty), rfl, trivial⟩ (by decide) (by decide)
theorem pack8 (d : BitVec 6) (a : BitVec 6) (b : BitVec 6) (gd : Guard) (ty : Ty) :
    Statement (.pack8 d a b gd ty) :=
  fits 0x64000000 _ [(2 ^ 6 - 1, 20), (2 ^ 6 - 1, 14), (2 ^ 6 - 1, 8), (15, 4), (15, 0)] rfl rfl
    ⟨bv_le d, rfl, bv_le a, rfl, bv_le b, rfl, Nat.le_of_lt_succ (guard_lt gd), rfl, Nat.le_of_lt_succ (ty_lt ty), rfl, trivial⟩ (by decide) (by decide)
theorem unpk8 (d : BitVec 6) (a : BitVec 6) (gd : Guard) (ty : Ty) :
    Statement (.unpk8 d a gd ty) :=
  fits 0x68000000 _ [(2 ^ 6 - 1, 20), (2 ^ 6 - 1, 14), (15, 4), (15, 0)] rfl rfl
    ⟨bv_le d, rfl, bv_le a, rfl, Nat.le_of_lt_succ (guard_lt gd), rfl, Nat.le_of_lt_succ (ty_lt ty), rfl, trivial⟩ (by decide) (by decide)
theorem pack4 (d : BitVec 6) (a : BitVec 6) (b : BitVec 6) (gd : Guard) (ty : Ty) :
    Statement (.pack4 d a b gd ty) :=
  fits 0x6C000000 _ [(2 ^ 6 - 1, 20), (2 ^ 6 - 1, 14), (2 ^ 6 - 1, 8), (15, 4), (15, 0)] rfl rfl
    ⟨bv_le d, rfl, bv_le a, rfl, bv_le b, rfl, Nat.le_of_lt_succ (guard_lt gd), rfl, Nat.le_of_lt_succ (ty_lt ty), rfl, trivial⟩ (by decide) (by decide)
theorem unpk4 (d : BitVec 6) (a : BitVec 6) (gd : Guard) (ty : Ty) :
    Statement (.unpk4 d a gd ty) :=
  fits 0x70000000 _ [(2 ^ 6 - 1, 20), (2 ^ 6 - 1, 14), (15, 4), (15, 0)] rfl rfl
    ⟨bv_le d, rfl, bv_le a, rfl, Nat.le_of_lt_succ (guard_lt gd), rfl, Nat.le_of_lt_succ (ty_lt ty), rfl, trivial⟩ (by decide) (by decide)
theorem lds (sp : Space) (d : BitVec 6) (a : BitVec 6) (imm : BitVec 6) (ty : Ty) :
    Statement (.lds sp d a imm ty) :=
  fits 0x74000000 _ [(2, 22), (2 ^ 6 - 1, 16), (2 ^ 6 - 1, 10), (2 ^ 6 - 1, 4), (15, 0)] rfl rfl
    ⟨Nat.le_of_lt_succ (space_lt sp), rfl, bv_le d, rfl, bv_le a, rfl, bv_le imm, rfl, Nat.le_of_lt_succ (ty_lt ty), rfl, trivial⟩ (by decide) (by decide)
theorem sts (rule : Rule) (sp : Space) (d : BitVec 6) (a : BitVec 6) (imm : BitVec 6) (ty : Ty) :
    Statement (.sts rule sp d a imm ty) :=
  fits 0x78000000 _ [(3, 24), (2, 22), (2 ^ 6 - 1, 16), (2 ^ 6 - 1, 10), (2 ^ 6 - 1, 4), (15, 0)] rfl rfl
    ⟨Nat.le_of_lt_succ (rule_lt rule), rfl, Nat.le_of_lt_succ (space_lt sp), rfl, bv_le d, rfl, bv_le a, rfl, bv_le imm, rfl, Nat.le_of_lt_succ (ty_lt ty), rfl, trivial⟩ (by decide) (by decide)
theorem watch (cond : WCond) (a : BitVec 6) (imm : BitVec 6) (gd : Guard) (sp : Space) :
    Statement (.watch cond a imm gd sp) :=
  fits 0x7C000000 _ [(3, 23), (2 ^ 6 - 1, 14), (2 ^ 6 - 1, 8), (15, 4), (2, 2)] rfl rfl
    ⟨Nat.le_of_lt_succ (wcond_lt cond), rfl, bv_le a, rfl, bv_le imm, rfl, Nat.le_of_lt_succ (guard_lt gd), rfl, Nat.le_of_lt_succ (space_lt sp), rfl, trivial⟩ (by decide) (by decide)
theorem pres (d : BitVec 6) (a : BitVec 6) (imm : BitVec 6) (gd : Guard) (sp : Space) :
    Statement (.pres d a imm gd sp) :=
  fits 0x7C000001 _ [(2 ^ 6 - 1, 20), (2 ^ 6 - 1, 14), (2 ^ 6 - 1, 8), (15, 4), (2, 2)] rfl rfl
    ⟨bv_le d, rfl, bv_le a, rfl, bv_le imm, rfl, Nat.le_of_lt_succ (guard_lt gd), rfl, Nat.le_of_lt_succ (space_lt sp), rfl, trivial⟩ (by decide) (by decide)
theorem absa (d : BitVec 6) (a : BitVec 6) (imm : BitVec 6) (gd : Guard) :
    Statement (.absa d a imm gd) :=
  fits 0x7C000002 _ [(2 ^ 6 - 1, 20), (2 ^ 6 - 1, 14), (2 ^ 6 - 1, 8), (15, 4)] rfl rfl
    ⟨bv_le d, rfl, bv_le a, rfl, bv_le imm, rfl, Nat.le_of_lt_succ (guard_lt gd), rfl, trivial⟩ (by decide) (by decide)
theorem rela (d : BitVec 6) (a : BitVec 6) (imm : BitVec 6) (gd : Guard) :
    Statement (.rela d a imm gd) :=
  fits 0x7C000007 _ [(2 ^ 6 - 1, 20), (2 ^ 6 - 1, 14), (2 ^ 6 - 1, 8), (15, 4)] rfl rfl
    ⟨bv_le d, rfl, bv_le a, rfl, bv_le imm, rfl, Nat.le_of_lt_succ (guard_lt gd), rfl, trivial⟩ (by decide) (by decide)
theorem ld (sp : Space) (d : BitVec 6) (a : BitVec 6) (imm : BitVec 6) (gd : Guard) (ty : Ty) :
    Statement (.ld sp d a imm gd ty) :=
  fits 0x80000000 _ [(2, 26), (2 ^ 6 - 1, 20), (2 ^ 6 - 1, 14), (2 ^ 6 - 1, 8), (15, 4), (15, 0)] rfl rfl
    ⟨Nat.le_of_lt_succ (space_lt sp), rfl, bv_le d, rfl, bv_le a, rfl, bv_le imm, rfl, Nat.le_of_lt_succ (guard_lt gd), rfl, Nat.le_of_lt_succ (ty_lt ty), rfl, trivial⟩ (by decide) (by decide)
theorem stP (rule : Rule) (d : BitVec 6) (a : BitVec 6) (imm : BitVec 6) (gd : Guard) (ty : Ty) :
    Statement (.stP rule d a imm gd ty) :=
  fits 0x90000000 _ [(3, 26), (2 ^ 6 - 1, 20), (2 ^ 6 - 1, 14), (2 ^ 6 - 1, 8), (15, 4), (15, 0)] rfl rfl
    ⟨Nat.le_of_lt_succ (rule_lt rule), rfl, bv_le d, rfl, bv_le a, rfl, bv_le imm, rfl, Nat.le_of_lt_succ (guard_lt gd), rfl, Nat.le_of_lt_succ (ty_lt ty), rfl, trivial⟩ (by decide) (by decide)
theorem stG (rule : Rule) (d : BitVec 6) (a : BitVec 6) (imm : BitVec 6) (gd : Guard) (ty : Ty) :
    Statement (.stG rule d a imm gd ty) :=
  fits 0xA0000000 _ [(3, 26), (2 ^ 6 - 1, 20), (2 ^ 6 - 1, 14), (2 ^ 6 - 1, 8), (15, 4), (15, 0)] rfl rfl
    ⟨Nat.le_of_lt_succ (rule_lt rule), rfl, bv_le d, rfl, bv_le a, rfl, bv_le imm, rfl, Nat.le_of_lt_succ (guard_lt gd), rfl, Nat.le_of_lt_succ (ty_lt ty), rfl, trivial⟩ (by decide) (by decide)
theorem stK (rule : Rule) (d : BitVec 6) (a : BitVec 6) (imm : BitVec 6) (gd : Guard) (ty : Ty) :
    Statement (.stK rule d a imm gd ty) :=
  fits 0xB0000000 _ [(3, 26), (2 ^ 6 - 1, 20), (2 ^ 6 - 1, 14), (2 ^ 6 - 1, 8), (15, 4), (15, 0)] rfl rfl
    ⟨Nat.le_of_lt_succ (rule_lt rule), rfl, bv_le d, rfl, bv_le a, rfl, bv_le imm, rfl, Nat.le_of_lt_succ (guard_lt gd), rfl, Nat.le_of_lt_succ (ty_lt ty), rfl, trivial⟩ (by decide) (by decide)
theorem mldw (x : BitVec 6) (y : BitVec 6) (sp : Space) (ty : Ty) (gd : Guard) (pair : Bool) :
    Statement (.mldw x y sp ty gd pair) :=
  fits 0xC0000000 _ [(2 ^ 6 - 1, 20), (2 ^ 6 - 1, 14), (2, 12), (15, 8), (15, 4), (1, 1)] rfl rfl
    ⟨bv_le x, rfl, bv_le y, rfl, Nat.le_of_lt_succ (space_lt sp), rfl, Nat.le_of_lt_succ (ty_lt ty), rfl, Nat.le_of_lt_succ (guard_lt gd), rfl, bool_le pair, rfl, trivial⟩ (by decide) (by decide)
theorem mldwS (x : BitVec 6) (y : BitVec 6) (sp : Space) (ty : Ty) (gd : Guard) (pair : Bool) :
    Statement (.mldwS x y sp ty gd pair) :=
  fits 0xC0000004 _ [(2 ^ 6 - 1, 20), (2 ^ 6 - 1, 14), (2, 12), (15, 8), (15, 4), (1, 1)] rfl rfl
    ⟨bv_le x, rfl, bv_le y, rfl, Nat.le_of_lt_succ (space_lt sp), rfl, Nat.le_of_lt_succ (ty_lt ty), rfl, Nat.le_of_lt_succ (guard_lt gd), rfl, bool_le pair, rfl, trivial⟩ (by decide) (by decide)
theorem mma (x : BitVec 6) (y : BitVec 6) (sp : Space) (ty : Ty) (gd : Guard) (pair : Bool) (swap : Bool) :
    Statement (.mma x y sp ty gd pair swap) :=
  fits 0xC0000008 _ [(2 ^ 6 - 1, 20), (2 ^ 6 - 1, 14), (2, 12), (15, 8), (15, 4), (1, 1), (1, 0)] rfl rfl
    ⟨bv_le x, rfl, bv_le y, rfl, Nat.le_of_lt_succ (space_lt sp), rfl, Nat.le_of_lt_succ (ty_lt ty), rfl, Nat.le_of_lt_succ (guard_lt gd), rfl, bool_le pair, rfl, bool_le swap, rfl, trivial⟩ (by decide) (by decide)
theorem mmas (x : BitVec 6) (y : BitVec 6) (sp : Space) (ty : Ty) (gd : Guard) (pair : Bool) (swap : Bool) :
    Statement (.mmas x y sp ty gd pair swap) :=
  fits 0xC000000C _ [(2 ^ 6 - 1, 20), (2 ^ 6 - 1, 14), (2, 12), (15, 8), (15, 4), (1, 1), (1, 0)] rfl rfl
    ⟨bv_le x, rfl, bv_le y, rfl, Nat.le_of_lt_succ (space_lt sp), rfl, Nat.le_of_lt_succ (ty_lt ty), rfl, Nat.le_of_lt_succ (guard_lt gd), rfl, bool_le pair, rfl, bool_le swap, rfl, trivial⟩ (by decide) (by decide)
theorem mdrn (x : BitVec 6) (y : BitVec 6) (sp : Space) (ty : Ty) (gd : Guard) (pair : Bool) (tr : Bool) :
    Statement (.mdrn x y sp ty gd pair tr) :=
  fits 0xC4000000 _ [(2 ^ 6 - 1, 20), (2 ^ 6 - 1, 14), (2, 12), (15, 8), (15, 4), (1, 1), (1, 0)] rfl rfl
    ⟨bv_le x, rfl, bv_le y, rfl, Nat.le_of_lt_succ (space_lt sp), rfl, Nat.le_of_lt_succ (ty_lt ty), rfl, Nat.le_of_lt_succ (guard_lt gd), rfl, bool_le pair, rfl, bool_le tr, rfl, trivial⟩ (by decide) (by decide)
theorem mzero (tile : Bool) (gd : Guard) (pair : Bool) :
    Statement (.mzero tile gd pair) :=
  fits 0xC4000004 _ [(1, 20), (15, 4), (1, 1)] rfl rfl
    ⟨bool_le tile, rfl, Nat.le_of_lt_succ (guard_lt gd), rfl, bool_le pair, rfl, trivial⟩ (by decide) (by decide)
theorem trd (x : BitVec 6) (y : BitVec 6) (imm : BitVec 6) (gd : Guard) (tile : Bool) (col : Bool) :
    Statement (.trd x y imm gd tile col) :=
  fits 0xC4000008 _ [(2 ^ 6 - 1, 20), (2 ^ 6 - 1, 14), (2 ^ 6 - 1, 8), (15, 4), (1, 1), (1, 0)] rfl rfl
    ⟨bv_le x, rfl, bv_le y, rfl, bv_le imm, rfl, Nat.le_of_lt_succ (guard_lt gd), rfl, bool_le tile, rfl, bool_le col, rfl, trivial⟩ (by decide) (by decide)
theorem twr (x : BitVec 6) (y : BitVec 6) (imm : BitVec 6) (gd : Guard) (tile : Bool) (col : Bool) :
    Statement (.twr x y imm gd tile col) :=
  fits 0xC400000C _ [(2 ^ 6 - 1, 20), (2 ^ 6 - 1, 14), (2 ^ 6 - 1, 8), (15, 4), (1, 1), (1, 0)] rfl rfl
    ⟨bv_le x, rfl, bv_le y, rfl, bv_le imm, rfl, Nat.le_of_lt_succ (guard_lt gd), rfl, bool_le tile, rfl, bool_le col, rfl, trivial⟩ (by decide) (by decide)
theorem copy (a : BitVec 6) (imm : BitVec 6) (gd : Guard) (sp : Space) :
    Statement (.copy a imm gd sp) :=
  fits 0xC8000000 _ [(2 ^ 6 - 1, 14), (2 ^ 6 - 1, 8), (15, 4), (2, 2)] rfl rfl
    ⟨bv_le a, rfl, bv_le imm, rfl, Nat.le_of_lt_succ (guard_lt gd), rfl, Nat.le_of_lt_succ (space_lt sp), rfl, trivial⟩ (by decide) (by decide)
theorem cpys (a : BitVec 6) (gd : Guard) :
    Statement (.cpys a gd) :=
  fits 0xC8800000 _ [(2 ^ 6 - 1, 14), (15, 4)] rfl rfl
    ⟨bv_le a, rfl, Nat.le_of_lt_succ (guard_lt gd), rfl, trivial⟩ (by decide) (by decide)
theorem brd (a : BitVec 6) (imm : BitVec 6) (gd : Guard) (sp : Space) :
    Statement (.brd a imm gd sp) :=
  fits 0xC9000000 _ [(2 ^ 6 - 1, 14), (2 ^ 6 - 1, 8), (15, 4), (2, 2)] rfl rfl
    ⟨bv_le a, rfl, bv_le imm, rfl, Nat.le_of_lt_succ (guard_lt gd), rfl, Nat.le_of_lt_succ (space_lt sp), rfl, trivial⟩ (by decide) (by decide)
theorem brdi (a : BitVec 6) (imm : BitVec 6) (gd : Guard) (sp : Space) :
    Statement (.brdi a imm gd sp) :=
  fits 0xC9800000 _ [(2 ^ 6 - 1, 14), (2 ^ 6 - 1, 8), (15, 4), (2, 2)] rfl rfl
    ⟨bv_le a, rfl, bv_le imm, rfl, Nat.le_of_lt_succ (guard_lt gd), rfl, Nat.le_of_lt_succ (space_lt sp), rfl, trivial⟩ (by decide) (by decide)
theorem hend (gd : Guard) :
    Statement (.hend gd) :=
  fits 0xCA000000 _ [(15, 4)] rfl rfl
    ⟨Nat.le_of_lt_succ (guard_lt gd), rfl, trivial⟩ (by decide) (by decide)
theorem tq (d : BitVec 6) (a : BitVec 6) (tbl : BitVec 4) (ix : Bool) (gd : Guard) (ty : Ty) :
    Statement (.tq d a tbl ix gd ty) :=
  fits 0xCC000000 _ [(2 ^ 6 - 1, 20), (2 ^ 6 - 1, 14), (2 ^ 4 - 1, 10), (1, 9), (15, 4), (15, 0)] rfl rfl
    ⟨bv_le d, rfl, bv_le a, rfl, bv_le tbl, rfl, bool_le ix, rfl, Nat.le_of_lt_succ (guard_lt gd), rfl, Nat.le_of_lt_succ (ty_lt ty), rfl, trivial⟩ (by decide) (by decide)
theorem tqb (d : BitVec 6) (a : BitVec 6) (tbl : BitVec 4) (ix : Bool) (gd : Guard) (ty : Ty) :
    Statement (.tqb d a tbl ix gd ty) :=
  fits 0xCC000100 _ [(2 ^ 6 - 1, 20), (2 ^ 6 - 1, 14), (2 ^ 4 - 1, 10), (1, 9), (15, 4), (15, 0)] rfl rfl
    ⟨bv_le d, rfl, bv_le a, rfl, bv_le tbl, rfl, bool_le ix, rfl, Nat.le_of_lt_succ (guard_lt gd), rfl, Nat.le_of_lt_succ (ty_lt ty), rfl, trivial⟩ (by decide) (by decide)
theorem bra (gd : Guard) (disp : BitVec 22) :
    Statement (.bra gd disp) :=
  fits 0xD0000000 _ [(15, 22), (2 ^ 22 - 1, 0)] rfl rfl
    ⟨Nat.le_of_lt_succ (guard_lt gd), rfl, bv_le disp, rfl, trivial⟩ (by decide) (by decide)
theorem jmp (disp : BitVec 26) :
    Statement (.jmp disp) :=
  fits 0xD4000000 _ [(2 ^ 26 - 1, 0)] rfl rfl
    ⟨bv_le disp, rfl, trivial⟩ (by decide) (by decide)
theorem call (disp : BitVec 26) :
    Statement (.call disp) :=
  fits 0xD8000000 _ [(2 ^ 26 - 1, 0)] rfl rfl
    ⟨bv_le disp, rfl, trivial⟩ (by decide) (by decide)
theorem split (jk : BitVec 3) (gd : Guard) (disp : BitVec 19) :
    Statement (.split jk gd disp) :=
  fits 0xDC000000 _ [(2 ^ 3 - 1, 23), (15, 19), (2 ^ 19 - 1, 0)] rfl rfl
    ⟨bv_le jk, rfl, Nat.le_of_lt_succ (guard_lt gd), rfl, bv_le disp, rfl, trivial⟩ (by decide) (by decide)
theorem nop (gd : Guard) :
    Statement (.nop gd) :=
  fits 0xE0000000 _ [(15, 4)] rfl rfl
    ⟨Nat.le_of_lt_succ (guard_lt gd), rfl, trivial⟩ (by decide) (by decide)
theorem jmpr (a : BitVec 6) (imm : BitVec 6) (gd : Guard) :
    Statement (.jmpr a imm gd) :=
  fits 0xE0000001 _ [(2 ^ 6 - 1, 14), (2 ^ 6 - 1, 8), (15, 4)] rfl rfl
    ⟨bv_le a, rfl, bv_le imm, rfl, Nat.le_of_lt_succ (guard_lt gd), rfl, trivial⟩ (by decide) (by decide)
theorem ret (a : BitVec 6) (gd : Guard) :
    Statement (.ret a gd) :=
  fits 0xE0000002 _ [(2 ^ 6 - 1, 14), (15, 4)] rfl rfl
    ⟨bv_le a, rfl, Nat.le_of_lt_succ (guard_lt gd), rfl, trivial⟩ (by decide) (by decide)
theorem join (jk : BitVec 3) (gd : Guard) :
    Statement (.join jk gd) :=
  fits 0xE0000003 _ [(2 ^ 3 - 1, 20), (15, 4)] rfl rfl
    ⟨bv_le jk, rfl, Nat.le_of_lt_succ (guard_lt gd), rfl, trivial⟩ (by decide) (by decide)
theorem jmov (d : BitVec 6) (a : BitVec 6) (mode : JMode) (gd : Guard) :
    Statement (.jmov d a mode gd) :=
  fits 0xE0000004 _ [(2 ^ 6 - 1, 20), (2 ^ 6 - 1, 14), (3, 8), (15, 4)] rfl rfl
    ⟨bv_le d, rfl, bv_le a, rfl, Nat.le_of_lt_succ (jmode_lt mode), rfl, Nat.le_of_lt_succ (guard_lt gd), rfl, trivial⟩ (by decide) (by decide)
theorem pace (gd : Guard) :
    Statement (.pace gd) :=
  fits 0xE0000005 _ [(15, 4)] rfl rfl
    ⟨Nat.le_of_lt_succ (guard_lt gd), rfl, trivial⟩ (by decide) (by decide)
theorem pacen (imm : BitVec 6) (gd : Guard) :
    Statement (.pacen imm gd) :=
  fits 0xE0000006 _ [(2 ^ 6 - 1, 8), (15, 4)] rfl rfl
    ⟨bv_le imm, rfl, Nat.le_of_lt_succ (guard_lt gd), rfl, trivial⟩ (by decide) (by decide)
theorem reform (a : BitVec 6) (gd : Guard) :
    Statement (.reform a gd) :=
  fits 0xE0000007 _ [(2 ^ 6 - 1, 14), (15, 4)] rfl rfl
    ⟨bv_le a, rfl, Nat.le_of_lt_succ (guard_lt gd), rfl, trivial⟩ (by decide) (by decide)
theorem reformNext (gd : Guard) :
    Statement (.reformNext gd) :=
  fits 0xE0000107 _ [(15, 4)] rfl rfl
    ⟨Nat.le_of_lt_succ (guard_lt gd), rfl, trivial⟩ (by decide) (by decide)
theorem exit (gd : Guard) :
    Statement (.exit gd) :=
  fits 0xE0000008 _ [(15, 4)] rfl rfl
    ⟨Nat.le_of_lt_succ (guard_lt gd), rfl, trivial⟩ (by decide) (by decide)
theorem trap (imm : BitVec 6) (gd : Guard) :
    Statement (.trap imm gd) :=
  fits 0xE0000009 _ [(2 ^ 6 - 1, 8), (15, 4)] rfl rfl
    ⟨bv_le imm, rfl, Nat.le_of_lt_succ (guard_lt gd), rfl, trivial⟩ (by decide) (by decide)
theorem bkpt (imm : BitVec 6) (gd : Guard) :
    Statement (.bkpt imm gd) :=
  fits 0xE000000A _ [(2 ^ 6 - 1, 8), (15, 4)] rfl rfl
    ⟨bv_le imm, rfl, Nat.le_of_lt_succ (guard_lt gd), rfl, trivial⟩ (by decide) (by decide)
theorem enq (d : BitVec 6) (a : BitVec 6) (sp : Space) (gd : Guard) :
    Statement (.enq d a sp gd) :=
  fits 0xE4000000 _ [(2 ^ 6 - 1, 20), (2 ^ 6 - 1, 14), (2, 8), (15, 4)] rfl rfl
    ⟨bv_le d, rfl, bv_le a, rfl, Nat.le_of_lt_succ (space_lt sp), rfl, Nat.le_of_lt_succ (guard_lt gd), rfl, trivial⟩ (by decide) (by decide)
theorem deq (d : BitVec 6) (imm : BitVec 6) (gd : Guard) :
    Statement (.deq d imm gd) :=
  fits 0xE4000001 _ [(2 ^ 6 - 1, 20), (2 ^ 6 - 1, 8), (15, 4)] rfl rfl
    ⟨bv_le d, rfl, bv_le imm, rfl, Nat.le_of_lt_succ (guard_lt gd), rfl, trivial⟩ (by decide) (by decide)
theorem depdEdge (d : BitVec 6) (a : BitVec 6) (gd : Guard) :
    Statement (.depdEdge d a gd) :=
  fits 0xE4000002 _ [(2 ^ 6 - 1, 20), (2 ^ 6 - 1, 14), (15, 4)] rfl rfl
    ⟨bv_le d, rfl, bv_le a, rfl, Nat.le_of_lt_succ (guard_lt gd), rfl, trivial⟩ (by decide) (by decide)
theorem depdRel (d : BitVec 6) (a : BitVec 6) (gd : Guard) :
    Statement (.depdRel d a gd) :=
  fits 0xE4000102 _ [(2 ^ 6 - 1, 20), (2 ^ 6 - 1, 14), (15, 4)] rfl rfl
    ⟨bv_le d, rfl, bv_le a, rfl, Nat.le_of_lt_succ (guard_lt gd), rfl, trivial⟩ (by decide) (by decide)
theorem srd (d : BitVec 6) (num : BitVec 6) (gd : Guard) :
    Statement (.srd d num gd) :=
  fits 0xE8000000 _ [(2 ^ 6 - 1, 20), (2 ^ 6 - 1, 8), (15, 4)] rfl rfl
    ⟨bv_le d, rfl, bv_le num, rfl, Nat.le_of_lt_succ (guard_lt gd), rfl, trivial⟩ (by decide) (by decide)
theorem swr (d : BitVec 6) (num : BitVec 6) (gd : Guard) :
    Statement (.swr d num gd) :=
  fits 0xE8000001 _ [(2 ^ 6 - 1, 20), (2 ^ 6 - 1, 8), (15, 4)] rfl rfl
    ⟨bv_le d, rfl, bv_le num, rfl, Nat.le_of_lt_succ (guard_lt gd), rfl, trivial⟩ (by decide) (by decide)
theorem rte (gd : Guard) :
    Statement (.rte gd) :=
  fits 0xE8000002 _ [(15, 4)] rfl rfl
    ⟨Nat.le_of_lt_succ (guard_lt gd), rfl, trivial⟩ (by decide) (by decide)
theorem icinv (gd : Guard) :
    Statement (.icinv gd) :=
  fits 0xE8000003 _ [(15, 4)] rfl rfl
    ⟨Nat.le_of_lt_succ (guard_lt gd), rfl, trivial⟩ (by decide) (by decide)
theorem lagStall (gid : Nat) (pid : Nat) : Statement (.lagStall gid pid) := rfl
theorem loadComplete (gid : Nat) (pid : Nat) : Statement (.loadComplete gid pid) := rfl
theorem storeOffer (po : Nat) : Statement (.storeOffer po) := rfl
theorem frontierChange (dom : Dom) (slice : Nat) : Statement (.frontierChange dom slice) := rfl
theorem stepLanding (dom : Dom) (step : Nat) (slice : Nat) : Statement (.stepLanding dom step slice) := rfl
theorem copyLineWrite (req : Nat) (line : Nat) : Statement (.copyLineWrite req line) := rfl
theorem copyNearRead (req : Nat) : Statement (.copyNearRead req) := rfl
theorem copyBurstAccepted (req : Nat) (n : Nat) : Statement (.copyBurstAccepted req n) := rfl
theorem burstArrival (req : Nat) (n : Nat) : Statement (.burstArrival req n) := rfl
theorem binDraw (core : Nat) (bin : Nat) : Statement (.binDraw core bin) := rfl
theorem lastBurstEvent (req : Nat) : Statement (.lastBurstEvent req) := rfl
theorem queryComplete (q : Nat) : Statement (.queryComplete q) := rfl
theorem pchRequest (req : Nat) (n : Nat) : Statement (.pchRequest req n) := rfl
theorem latencyBoundExpiry (pch : Nat) : Statement (.latencyBoundExpiry pch) := rfl
theorem perBankRefresh (bank : Nat) : Statement (.perBankRefresh bank) := rfl
theorem tableRowRefresh (bank : Nat) (row : Nat) : Statement (.tableRowRefresh bank row) := rfl
theorem targetedRefresh (bank : Nat) (row : Nat) : Statement (.targetedRefresh bank row) := rfl
theorem ecsScrub (burst : Nat) (outcome : ScrubOutcome) : Statement (.ecsScrub burst outcome) := rfl
theorem sliceScrub (slice : Nat) : Statement (.sliceScrub slice) := rfl
theorem rebuildSector (slice : Nat) : Statement (.rebuildSector slice) := rfl
theorem matrixOpTurn (core : Nat) : Statement (.matrixOpTurn core) := rfl
theorem drainWrite (req : Nat) (line : Nat) : Statement (.drainWrite req line) := rfl
theorem matrixClaimEnd (core : Nat) : Statement (.matrixClaimEnd core) := rfl
theorem activeSetExchange (core : Nat) : Statement (.activeSetExchange core) := rfl
theorem rotation (core : Nat) : Statement (.rotation core) := rfl
theorem taskAdmission (task : Nat) (place : Placement) : Statement (.taskAdmission task place) := rfl
theorem blockingTask (task : Nat) : Statement (.blockingTask task) := rfl
theorem classPreemption (task : Nat) : Statement (.classPreemption task) := rfl
theorem taskSteal (tract : Nat) (task : Nat) : Statement (.taskSteal tract task) := rfl
theorem taskStaging (task : Nat) : Statement (.taskStaging task) := rfl
theorem taskRetirement (task : Nat) : Statement (.taskRetirement task) := rfl
theorem taskStop (task : Nat) : Statement (.taskStop task) := rfl
theorem preemption (task : Nat) : Statement (.preemption task) := rfl
theorem restore (task : Nat) (place : Placement) : Statement (.restore task place) := rfl
theorem atsCompletion (pasid : Nat) (va : Nat) (answer : AtsAnswer) : Statement (.atsCompletion pasid va answer) := rfl
theorem invalidateRequest (pasid : Nat) (va : Nat) (size : Nat) : Statement (.invalidateRequest pasid va size) := rfl
theorem faultBufferFlush (tract : Nat) : Statement (.faultBufferFlush tract) := rfl
theorem pageRequestResponse (tract : Nat) (gen : Nat) (code : PrgCode) : Statement (.pageRequestResponse tract gen code) := rfl
theorem stopMarker (tract : Nat) : Statement (.stopMarker tract) := rfl
theorem accessCounterNotify (die : Nat) (slot : Nat) : Statement (.accessCounterNotify die slot) := rfl
theorem hostMemoryAccess (fn : Nat) (hpa : Nat) (data : Option (List Byte)) : Statement (.hostMemoryAccess fn hpa data) := rfl
theorem snoopResponse (snoop : Snoop) : Statement (.snoopResponse snoop) := rfl
theorem sqtail (fn : Nat) (value : Word) : Statement (.sqtail fn value) := rfl
theorem hostLaunch (fn : Nat) : Statement (.hostLaunch fn) := rfl
theorem completionEntryWrite (fn : Nat) : Statement (.completionEntryWrite fn) := rfl
theorem cqhead (fn : Nat) (value : Word) : Statement (.cqhead fn value) := rfl
theorem sqcfg (fn : Nat) (value : Word) : Statement (.sqcfg fn value) := rfl
theorem cqcfg (fn : Nat) (value : Word) : Statement (.cqcfg fn value) := rfl
theorem registerWrite (fn : Nat) (offset : Nat) (value : Word) : Statement (.registerWrite fn offset value) := rfl
theorem slstatWrite (slice : Nat) (value : Word) : Statement (.slstatWrite slice value) := rfl
theorem functionLevelReset (fn : Nat) : Statement (.functionLevelReset fn) := rfl
theorem writePlatEntry (fn : Nat) (index : Nat) (value : BitVec 64) : Statement (.writePlatEntry fn index value) := rfl
theorem writeQuotaRecord (fn : Nat) (part : Nat) (words : List Word) : Statement (.writeQuotaRecord fn part words) := rfl
theorem setContextArea (fn : Nat) (part : Nat) (base : Nat) (size : Nat) : Statement (.setContextArea fn part base size) := rfl
theorem stopTask (fn : Nat) (handle : Nat) : Statement (.stopTask fn handle) := rfl
theorem dropKeptRegion (fn : Nat) (far : Nat) : Statement (.dropKeptRegion fn far) := rfl
theorem readStopLog (fn : Nat) : Statement (.readStopLog fn) := rfl
theorem flushFaultBuffers (fn : Nat) : Statement (.flushFaultBuffers fn) := rfl
theorem setAccessCounterThreshold (fn : Nat) (value : Nat) : Statement (.setAccessCounterThreshold fn value) := rfl
theorem setDebugEnable (fn : Nat) (enable : Bool) (release : Option Nat) : Statement (.setDebugEnable fn enable release) := rfl
theorem repairBank (fn : Nat) (slice : Nat) : Statement (.repairBank fn slice) := rfl
theorem bindFabricPeer (fn : Nat) (dev : Nat) (part : Nat) (pasid : Nat) : Statement (.bindFabricPeer fn dev part pasid) := rfl
theorem readMargins (fn : Nat) : Statement (.readMargins fn) := rfl
theorem releaseHeldHostLaunch (fn : Nat) (handle : Nat) : Statement (.releaseHeldHostLaunch fn handle) := rfl
theorem marginPlan (atReset : Bool) (plan : List Nat) : Statement (.marginPlan atReset plan) := rfl
theorem attestationReport (nonce : BitVec 256) : Statement (.attestationReport nonce) := rfl
theorem flitNak (port : Nat) (flit : Nat) : Statement (.flitNak port flit) := rfl
theorem endToEndTimeout (part : Nat) (seq : Nat) : Statement (.endToEndTimeout part seq) := rfl
theorem fabricCommand (msg : FabMsg) : Statement (.fabricCommand msg) := rfl
theorem peerReset (scope : PeerScope) : Statement (.peerReset scope) := rfl
theorem powerArbitration (clocks : List Nat) (shares : List Nat) : Statement (.powerArbitration clocks shares) := rfl
theorem bringUp : Statement .bringUp := rfl
theorem refreshManagement (bank : Nat) : Statement (.refreshManagement bank) := rfl
theorem sriovEnable (count : Nat) : Statement (.sriovEnable count) := rfl
theorem newFirmwareImage (image : FwImage) : Statement (.newFirmwareImage image) := rfl

end EncodingFits

end Sys2Proof.Laws
end

