-- ==== Sys2Proof/Laws/State.lean ====
section
/-!
SUPPORT. What the shared updates of the machine leave alone: one lemma for each field and each update.
-/

namespace Sys2Proof.Machine

/-- Taking a trap changes groups and task records only (R276, R277). -/
theorem takeTrap_frame (s : State) (g : Group) (p : Path) (t : TrapOf) :
    takeTrap s g p t = { s with groups := (takeTrap s g p t).groups, tasks := (takeTrap s g p t).tasks } := by
  unfold takeTrap
  dsimp only
  split
  · rfl
  · split
    · rfl
    · split <;> rfl

/-- A fetch changes the code caches, and the error counts of the stacks (R68, R303). -/
theorem cacheFetched_frame (s : State) (core task : Nat) (a : Word) :
    cacheFetched s core task a = { s with
      codeCache := (cacheFetched s core task a).codeCache
      tractCode := (cacheFetched s core task a).tractCode
      dram := (cacheFetched s core task a).dram } := by
  unfold cacheFetched
  split
  · rfl
  · split
    · rfl
    · unfold fillCore fillTract
      split <;> rfl

/-- Packing marks groups (R267). -/
theorem packIssue_frame (s : State) (g : Group) :
    packIssue s g = { s with groups := (packIssue s g).groups } := by
  unfold packIssue
  split <;> rfl

/-- Reading a sector changes the slices only (R133). -/
theorem readSector_frame (s : State) (sector : Nat) :
    readSector s sector = { s with sram := (readSector s sector).sram } := by
  unfold readSector rewriteSector clearErrors putSliceReg
  repeat' split
  all_goals rfl

/-- Taking the errors of a sector away changes the slices only. -/
theorem clearErrors_frame (s : State) (sector : Nat) :
    clearErrors s sector = { s with sram := (clearErrors s sector).sram } := by
  unfold clearErrors
  repeat' split
  all_goals rfl



/-! ### `putTask` -/

@[simp] theorem putTask_now (s : State) (t : Task) : (putTask s t).now = s.now := rfl
@[simp] theorem putTask_fresh (s : State) (t : Task) : (putTask s t).fresh = s.fresh := rfl
@[simp] theorem putTask_agenda (s : State) (t : Task) : (putTask s t).agenda = s.agenda := rfl
@[simp] theorem putTask_cursor (s : State) (t : Task) : (putTask s t).cursor = s.cursor := rfl
@[simp] theorem putTask_groups (s : State) (t : Task) : (putTask s t).groups = s.groups := rfl
@[simp] theorem putTask_sram (s : State) (t : Task) : (putTask s t).sram = s.sram := rfl
@[simp] theorem putTask_eng (s : State) (t : Task) : (putTask s t).eng = s.eng := rfl
@[simp] theorem putTask_dram (s : State) (t : Task) : (putTask s t).dram = s.dram := rfl
@[simp] theorem putTask_objects (s : State) (t : Task) : (putTask s t).objects = s.objects := rfl
@[simp] theorem putTask_instances (s : State) (t : Task) : (putTask s t).instances = s.instances := rfl
@[simp] theorem putTask_codeCache (s : State) (t : Task) : (putTask s t).codeCache = s.codeCache := rfl
@[simp] theorem putTask_tractCode (s : State) (t : Task) : (putTask s t).tractCode = s.tractCode := rfl
@[simp] theorem putTask_parts (s : State) (t : Task) : (putTask s t).parts = s.parts := rfl
@[simp] theorem putTask_kept (s : State) (t : Task) : (putTask s t).kept = s.kept := rfl
@[simp] theorem putTask_xlate (s : State) (t : Task) : (putTask s t).xlate = s.xlate := rfl
@[simp] theorem putTask_host (s : State) (t : Task) : (putTask s t).host = s.host := rfl
@[simp] theorem putTask_fabric (s : State) (t : Task) : (putTask s t).fabric = s.fabric := rfl
@[simp] theorem putTask_mgmt (s : State) (t : Task) : (putTask s t).mgmt = s.mgmt := rfl

/-! ### `modTask` -/

@[simp] theorem modTask_now (s : State) (uid : Nat) (f : Task → Task) : (modTask s uid f).now = s.now := rfl
@[simp] theorem modTask_fresh (s : State) (uid : Nat) (f : Task → Task) : (modTask s uid f).fresh = s.fresh := rfl
@[simp] theorem modTask_agenda (s : State) (uid : Nat) (f : Task → Task) : (modTask s uid f).agenda = s.agenda := rfl
@[simp] theorem modTask_cursor (s : State) (uid : Nat) (f : Task → Task) : (modTask s uid f).cursor = s.cursor := rfl
@[simp] theorem modTask_groups (s : State) (uid : Nat) (f : Task → Task) : (modTask s uid f).groups = s.groups := rfl
@[simp] theorem modTask_sram (s : State) (uid : Nat) (f : Task → Task) : (modTask s uid f).sram = s.sram := rfl
@[simp] theorem modTask_eng (s : State) (uid : Nat) (f : Task → Task) : (modTask s uid f).eng = s.eng := rfl
@[simp] theorem modTask_dram (s : State) (uid : Nat) (f : Task → Task) : (modTask s uid f).dram = s.dram := rfl
@[simp] theorem modTask_objects (s : State) (uid : Nat) (f : Task → Task) : (modTask s uid f).objects = s.objects := rfl
@[simp] theorem modTask_instances (s : State) (uid : Nat) (f : Task → Task) : (modTask s uid f).instances = s.instances := rfl
@[simp] theorem modTask_codeCache (s : State) (uid : Nat) (f : Task → Task) : (modTask s uid f).codeCache = s.codeCache := rfl
@[simp] theorem modTask_tractCode (s : State) (uid : Nat) (f : Task → Task) : (modTask s uid f).tractCode = s.tractCode := rfl
@[simp] theorem modTask_parts (s : State) (uid : Nat) (f : Task → Task) : (modTask s uid f).parts = s.parts := rfl
@[simp] theorem modTask_kept (s : State) (uid : Nat) (f : Task → Task) : (modTask s uid f).kept = s.kept := rfl
@[simp] theorem modTask_xlate (s : State) (uid : Nat) (f : Task → Task) : (modTask s uid f).xlate = s.xlate := rfl
@[simp] theorem modTask_host (s : State) (uid : Nat) (f : Task → Task) : (modTask s uid f).host = s.host := rfl
@[simp] theorem modTask_fabric (s : State) (uid : Nat) (f : Task → Task) : (modTask s uid f).fabric = s.fabric := rfl
@[simp] theorem modTask_mgmt (s : State) (uid : Nat) (f : Task → Task) : (modTask s uid f).mgmt = s.mgmt := rfl

/-! ### `putGroup` -/

@[simp] theorem putGroup_now (s : State) (g : Group) : (putGroup s g).now = s.now := rfl
@[simp] theorem putGroup_fresh (s : State) (g : Group) : (putGroup s g).fresh = s.fresh := rfl
@[simp] theorem putGroup_agenda (s : State) (g : Group) : (putGroup s g).agenda = s.agenda := rfl
@[simp] theorem putGroup_cursor (s : State) (g : Group) : (putGroup s g).cursor = s.cursor := rfl
@[simp] theorem putGroup_sram (s : State) (g : Group) : (putGroup s g).sram = s.sram := rfl
@[simp] theorem putGroup_eng (s : State) (g : Group) : (putGroup s g).eng = s.eng := rfl
@[simp] theorem putGroup_dram (s : State) (g : Group) : (putGroup s g).dram = s.dram := rfl
@[simp] theorem putGroup_objects (s : State) (g : Group) : (putGroup s g).objects = s.objects := rfl
@[simp] theorem putGroup_instances (s : State) (g : Group) : (putGroup s g).instances = s.instances := rfl
@[simp] theorem putGroup_codeCache (s : State) (g : Group) : (putGroup s g).codeCache = s.codeCache := rfl
@[simp] theorem putGroup_tractCode (s : State) (g : Group) : (putGroup s g).tractCode = s.tractCode := rfl
@[simp] theorem putGroup_tasks (s : State) (g : Group) : (putGroup s g).tasks = s.tasks := rfl
@[simp] theorem putGroup_parts (s : State) (g : Group) : (putGroup s g).parts = s.parts := rfl
@[simp] theorem putGroup_kept (s : State) (g : Group) : (putGroup s g).kept = s.kept := rfl
@[simp] theorem putGroup_xlate (s : State) (g : Group) : (putGroup s g).xlate = s.xlate := rfl
@[simp] theorem putGroup_host (s : State) (g : Group) : (putGroup s g).host = s.host := rfl
@[simp] theorem putGroup_fabric (s : State) (g : Group) : (putGroup s g).fabric = s.fabric := rfl
@[simp] theorem putGroup_mgmt (s : State) (g : Group) : (putGroup s g).mgmt = s.mgmt := rfl

/-! ### `putPath` -/

@[simp] theorem putPath_now (s : State) (g : Group) (p : Path) : (putPath s g p).now = s.now := rfl
@[simp] theorem putPath_fresh (s : State) (g : Group) (p : Path) : (putPath s g p).fresh = s.fresh := rfl
@[simp] theorem putPath_agenda (s : State) (g : Group) (p : Path) : (putPath s g p).agenda = s.agenda := rfl
@[simp] theorem putPath_cursor (s : State) (g : Group) (p : Path) : (putPath s g p).cursor = s.cursor := rfl
@[simp] theorem putPath_sram (s : State) (g : Group) (p : Path) : (putPath s g p).sram = s.sram := rfl
@[simp] theorem putPath_eng (s : State) (g : Group) (p : Path) : (putPath s g p).eng = s.eng := rfl
@[simp] theorem putPath_dram (s : State) (g : Group) (p : Path) : (putPath s g p).dram = s.dram := rfl
@[simp] theorem putPath_objects (s : State) (g : Group) (p : Path) : (putPath s g p).objects = s.objects := rfl
@[simp] theorem putPath_instances (s : State) (g : Group) (p : Path) : (putPath s g p).instances = s.instances := rfl
@[simp] theorem putPath_codeCache (s : State) (g : Group) (p : Path) : (putPath s g p).codeCache = s.codeCache := rfl
@[simp] theorem putPath_tractCode (s : State) (g : Group) (p : Path) : (putPath s g p).tractCode = s.tractCode := rfl
@[simp] theorem putPath_tasks (s : State) (g : Group) (p : Path) : (putPath s g p).tasks = s.tasks := rfl
@[simp] theorem putPath_parts (s : State) (g : Group) (p : Path) : (putPath s g p).parts = s.parts := rfl
@[simp] theorem putPath_kept (s : State) (g : Group) (p : Path) : (putPath s g p).kept = s.kept := rfl
@[simp] theorem putPath_xlate (s : State) (g : Group) (p : Path) : (putPath s g p).xlate = s.xlate := rfl
@[simp] theorem putPath_host (s : State) (g : Group) (p : Path) : (putPath s g p).host = s.host := rfl
@[simp] theorem putPath_fabric (s : State) (g : Group) (p : Path) : (putPath s g p).fabric = s.fabric := rfl
@[simp] theorem putPath_mgmt (s : State) (g : Group) (p : Path) : (putPath s g p).mgmt = s.mgmt := rfl

/-! ### `freshId` -/

@[simp] theorem freshId_now (s : State) : ((freshId s).2).now = s.now := rfl
@[simp] theorem freshId_agenda (s : State) : ((freshId s).2).agenda = s.agenda := rfl
@[simp] theorem freshId_cursor (s : State) : ((freshId s).2).cursor = s.cursor := rfl
@[simp] theorem freshId_groups (s : State) : ((freshId s).2).groups = s.groups := rfl
@[simp] theorem freshId_sram (s : State) : ((freshId s).2).sram = s.sram := rfl
@[simp] theorem freshId_eng (s : State) : ((freshId s).2).eng = s.eng := rfl
@[simp] theorem freshId_dram (s : State) : ((freshId s).2).dram = s.dram := rfl
@[simp] theorem freshId_objects (s : State) : ((freshId s).2).objects = s.objects := rfl
@[simp] theorem freshId_instances (s : State) : ((freshId s).2).instances = s.instances := rfl
@[simp] theorem freshId_codeCache (s : State) : ((freshId s).2).codeCache = s.codeCache := rfl
@[simp] theorem freshId_tractCode (s : State) : ((freshId s).2).tractCode = s.tractCode := rfl
@[simp] theorem freshId_tasks (s : State) : ((freshId s).2).tasks = s.tasks := rfl
@[simp] theorem freshId_parts (s : State) : ((freshId s).2).parts = s.parts := rfl
@[simp] theorem freshId_kept (s : State) : ((freshId s).2).kept = s.kept := rfl
@[simp] theorem freshId_xlate (s : State) : ((freshId s).2).xlate = s.xlate := rfl
@[simp] theorem freshId_host (s : State) : ((freshId s).2).host = s.host := rfl
@[simp] theorem freshId_fabric (s : State) : ((freshId s).2).fabric = s.fabric := rfl
@[simp] theorem freshId_mgmt (s : State) : ((freshId s).2).mgmt = s.mgmt := rfl

/-! ### `recordFrec` -/

@[simp] theorem recordFrec_now (s : State) (task : Nat) (f : Frec) : (recordFrec s task f).now = s.now := rfl
@[simp] theorem recordFrec_fresh (s : State) (task : Nat) (f : Frec) : (recordFrec s task f).fresh = s.fresh := rfl
@[simp] theorem recordFrec_agenda (s : State) (task : Nat) (f : Frec) : (recordFrec s task f).agenda = s.agenda := rfl
@[simp] theorem recordFrec_cursor (s : State) (task : Nat) (f : Frec) : (recordFrec s task f).cursor = s.cursor := rfl
@[simp] theorem recordFrec_groups (s : State) (task : Nat) (f : Frec) : (recordFrec s task f).groups = s.groups := rfl
@[simp] theorem recordFrec_sram (s : State) (task : Nat) (f : Frec) : (recordFrec s task f).sram = s.sram := rfl
@[simp] theorem recordFrec_eng (s : State) (task : Nat) (f : Frec) : (recordFrec s task f).eng = s.eng := rfl
@[simp] theorem recordFrec_dram (s : State) (task : Nat) (f : Frec) : (recordFrec s task f).dram = s.dram := rfl
@[simp] theorem recordFrec_objects (s : State) (task : Nat) (f : Frec) : (recordFrec s task f).objects = s.objects := rfl
@[simp] theorem recordFrec_instances (s : State) (task : Nat) (f : Frec) : (recordFrec s task f).instances = s.instances := rfl
@[simp] theorem recordFrec_codeCache (s : State) (task : Nat) (f : Frec) : (recordFrec s task f).codeCache = s.codeCache := rfl
@[simp] theorem recordFrec_tractCode (s : State) (task : Nat) (f : Frec) : (recordFrec s task f).tractCode = s.tractCode := rfl
@[simp] theorem recordFrec_parts (s : State) (task : Nat) (f : Frec) : (recordFrec s task f).parts = s.parts := rfl
@[simp] theorem recordFrec_kept (s : State) (task : Nat) (f : Frec) : (recordFrec s task f).kept = s.kept := rfl
@[simp] theorem recordFrec_xlate (s : State) (task : Nat) (f : Frec) : (recordFrec s task f).xlate = s.xlate := rfl
@[simp] theorem recordFrec_host (s : State) (task : Nat) (f : Frec) : (recordFrec s task f).host = s.host := rfl
@[simp] theorem recordFrec_fabric (s : State) (task : Nat) (f : Frec) : (recordFrec s task f).fabric = s.fabric := rfl
@[simp] theorem recordFrec_mgmt (s : State) (task : Nat) (f : Frec) : (recordFrec s task f).mgmt = s.mgmt := rfl

/-! ### `markStop` -/

@[simp] theorem markStop_now (s : State) (task kind : Nat) : (markStop s task kind).now = s.now := rfl
@[simp] theorem markStop_fresh (s : State) (task kind : Nat) : (markStop s task kind).fresh = s.fresh := rfl
@[simp] theorem markStop_agenda (s : State) (task kind : Nat) : (markStop s task kind).agenda = s.agenda := rfl
@[simp] theorem markStop_cursor (s : State) (task kind : Nat) : (markStop s task kind).cursor = s.cursor := rfl
@[simp] theorem markStop_groups (s : State) (task kind : Nat) : (markStop s task kind).groups = s.groups := rfl
@[simp] theorem markStop_sram (s : State) (task kind : Nat) : (markStop s task kind).sram = s.sram := rfl
@[simp] theorem markStop_eng (s : State) (task kind : Nat) : (markStop s task kind).eng = s.eng := rfl
@[simp] theorem markStop_dram (s : State) (task kind : Nat) : (markStop s task kind).dram = s.dram := rfl
@[simp] theorem markStop_objects (s : State) (task kind : Nat) : (markStop s task kind).objects = s.objects := rfl
@[simp] theorem markStop_instances (s : State) (task kind : Nat) : (markStop s task kind).instances = s.instances := rfl
@[simp] theorem markStop_codeCache (s : State) (task kind : Nat) : (markStop s task kind).codeCache = s.codeCache := rfl
@[simp] theorem markStop_tractCode (s : State) (task kind : Nat) : (markStop s task kind).tractCode = s.tractCode := rfl
@[simp] theorem markStop_parts (s : State) (task kind : Nat) : (markStop s task kind).parts = s.parts := rfl
@[simp] theorem markStop_kept (s : State) (task kind : Nat) : (markStop s task kind).kept = s.kept := rfl
@[simp] theorem markStop_xlate (s : State) (task kind : Nat) : (markStop s task kind).xlate = s.xlate := rfl
@[simp] theorem markStop_host (s : State) (task kind : Nat) : (markStop s task kind).host = s.host := rfl
@[simp] theorem markStop_fabric (s : State) (task kind : Nat) : (markStop s task kind).fabric = s.fabric := rfl
@[simp] theorem markStop_mgmt (s : State) (task kind : Nat) : (markStop s task kind).mgmt = s.mgmt := rfl

/-! ### `stopWith` -/

@[simp] theorem stopWith_now (s : State) (task : Nat) (f : Frec) : (stopWith s task f).now = s.now := rfl
@[simp] theorem stopWith_fresh (s : State) (task : Nat) (f : Frec) : (stopWith s task f).fresh = s.fresh := rfl
@[simp] theorem stopWith_agenda (s : State) (task : Nat) (f : Frec) : (stopWith s task f).agenda = s.agenda := rfl
@[simp] theorem stopWith_cursor (s : State) (task : Nat) (f : Frec) : (stopWith s task f).cursor = s.cursor := rfl
@[simp] theorem stopWith_groups (s : State) (task : Nat) (f : Frec) : (stopWith s task f).groups = s.groups := rfl
@[simp] theorem stopWith_sram (s : State) (task : Nat) (f : Frec) : (stopWith s task f).sram = s.sram := rfl
@[simp] theorem stopWith_eng (s : State) (task : Nat) (f : Frec) : (stopWith s task f).eng = s.eng := rfl
@[simp] theorem stopWith_dram (s : State) (task : Nat) (f : Frec) : (stopWith s task f).dram = s.dram := rfl
@[simp] theorem stopWith_objects (s : State) (task : Nat) (f : Frec) : (stopWith s task f).objects = s.objects := rfl
@[simp] theorem stopWith_instances (s : State) (task : Nat) (f : Frec) : (stopWith s task f).instances = s.instances := rfl
@[simp] theorem stopWith_codeCache (s : State) (task : Nat) (f : Frec) : (stopWith s task f).codeCache = s.codeCache := rfl
@[simp] theorem stopWith_tractCode (s : State) (task : Nat) (f : Frec) : (stopWith s task f).tractCode = s.tractCode := rfl
@[simp] theorem stopWith_parts (s : State) (task : Nat) (f : Frec) : (stopWith s task f).parts = s.parts := rfl
@[simp] theorem stopWith_kept (s : State) (task : Nat) (f : Frec) : (stopWith s task f).kept = s.kept := rfl
@[simp] theorem stopWith_xlate (s : State) (task : Nat) (f : Frec) : (stopWith s task f).xlate = s.xlate := rfl
@[simp] theorem stopWith_host (s : State) (task : Nat) (f : Frec) : (stopWith s task f).host = s.host := rfl
@[simp] theorem stopWith_fabric (s : State) (task : Nat) (f : Frec) : (stopWith s task f).fabric = s.fabric := rfl
@[simp] theorem stopWith_mgmt (s : State) (task : Nat) (f : Frec) : (stopWith s task f).mgmt = s.mgmt := rfl

/-! ### `takeTrap` -/

@[simp] theorem takeTrap_now (s : State) (g : Group) (p : Path) (t : TrapOf) : (takeTrap s g p t).now = s.now := by rw [takeTrap_frame]
@[simp] theorem takeTrap_fresh (s : State) (g : Group) (p : Path) (t : TrapOf) : (takeTrap s g p t).fresh = s.fresh := by rw [takeTrap_frame]
@[simp] theorem takeTrap_agenda (s : State) (g : Group) (p : Path) (t : TrapOf) : (takeTrap s g p t).agenda = s.agenda := by rw [takeTrap_frame]
@[simp] theorem takeTrap_cursor (s : State) (g : Group) (p : Path) (t : TrapOf) : (takeTrap s g p t).cursor = s.cursor := by rw [takeTrap_frame]
@[simp] theorem takeTrap_sram (s : State) (g : Group) (p : Path) (t : TrapOf) : (takeTrap s g p t).sram = s.sram := by rw [takeTrap_frame]
@[simp] theorem takeTrap_eng (s : State) (g : Group) (p : Path) (t : TrapOf) : (takeTrap s g p t).eng = s.eng := by rw [takeTrap_frame]
@[simp] theorem takeTrap_dram (s : State) (g : Group) (p : Path) (t : TrapOf) : (takeTrap s g p t).dram = s.dram := by rw [takeTrap_frame]
@[simp] theorem takeTrap_objects (s : State) (g : Group) (p : Path) (t : TrapOf) : (takeTrap s g p t).objects = s.objects := by rw [takeTrap_frame]
@[simp] theorem takeTrap_instances (s : State) (g : Group) (p : Path) (t : TrapOf) : (takeTrap s g p t).instances = s.instances := by rw [takeTrap_frame]
@[simp] theorem takeTrap_codeCache (s : State) (g : Group) (p : Path) (t : TrapOf) : (takeTrap s g p t).codeCache = s.codeCache := by rw [takeTrap_frame]
@[simp] theorem takeTrap_tractCode (s : State) (g : Group) (p : Path) (t : TrapOf) : (takeTrap s g p t).tractCode = s.tractCode := by rw [takeTrap_frame]
@[simp] theorem takeTrap_parts (s : State) (g : Group) (p : Path) (t : TrapOf) : (takeTrap s g p t).parts = s.parts := by rw [takeTrap_frame]
@[simp] theorem takeTrap_kept (s : State) (g : Group) (p : Path) (t : TrapOf) : (takeTrap s g p t).kept = s.kept := by rw [takeTrap_frame]
@[simp] theorem takeTrap_xlate (s : State) (g : Group) (p : Path) (t : TrapOf) : (takeTrap s g p t).xlate = s.xlate := by rw [takeTrap_frame]
@[simp] theorem takeTrap_host (s : State) (g : Group) (p : Path) (t : TrapOf) : (takeTrap s g p t).host = s.host := by rw [takeTrap_frame]
@[simp] theorem takeTrap_fabric (s : State) (g : Group) (p : Path) (t : TrapOf) : (takeTrap s g p t).fabric = s.fabric := by rw [takeTrap_frame]
@[simp] theorem takeTrap_mgmt (s : State) (g : Group) (p : Path) (t : TrapOf) : (takeTrap s g p t).mgmt = s.mgmt := by rw [takeTrap_frame]

/-! ### `illegalTrap` -/

@[simp] theorem illegalTrap_now (s : State) (g : Group) (p : Path) (w : Word) : (illegalTrap s g p w).now = s.now := takeTrap_now _ _ _ _
@[simp] theorem illegalTrap_fresh (s : State) (g : Group) (p : Path) (w : Word) : (illegalTrap s g p w).fresh = s.fresh := takeTrap_fresh _ _ _ _
@[simp] theorem illegalTrap_agenda (s : State) (g : Group) (p : Path) (w : Word) : (illegalTrap s g p w).agenda = s.agenda := takeTrap_agenda _ _ _ _
@[simp] theorem illegalTrap_cursor (s : State) (g : Group) (p : Path) (w : Word) : (illegalTrap s g p w).cursor = s.cursor := takeTrap_cursor _ _ _ _
@[simp] theorem illegalTrap_sram (s : State) (g : Group) (p : Path) (w : Word) : (illegalTrap s g p w).sram = s.sram := takeTrap_sram _ _ _ _
@[simp] theorem illegalTrap_eng (s : State) (g : Group) (p : Path) (w : Word) : (illegalTrap s g p w).eng = s.eng := takeTrap_eng _ _ _ _
@[simp] theorem illegalTrap_dram (s : State) (g : Group) (p : Path) (w : Word) : (illegalTrap s g p w).dram = s.dram := takeTrap_dram _ _ _ _
@[simp] theorem illegalTrap_objects (s : State) (g : Group) (p : Path) (w : Word) : (illegalTrap s g p w).objects = s.objects := takeTrap_objects _ _ _ _
@[simp] theorem illegalTrap_instances (s : State) (g : Group) (p : Path) (w : Word) : (illegalTrap s g p w).instances = s.instances := takeTrap_instances _ _ _ _
@[simp] theorem illegalTrap_codeCache (s : State) (g : Group) (p : Path) (w : Word) : (illegalTrap s g p w).codeCache = s.codeCache := takeTrap_codeCache _ _ _ _
@[simp] theorem illegalTrap_tractCode (s : State) (g : Group) (p : Path) (w : Word) : (illegalTrap s g p w).tractCode = s.tractCode := takeTrap_tractCode _ _ _ _
@[simp] theorem illegalTrap_parts (s : State) (g : Group) (p : Path) (w : Word) : (illegalTrap s g p w).parts = s.parts := takeTrap_parts _ _ _ _
@[simp] theorem illegalTrap_kept (s : State) (g : Group) (p : Path) (w : Word) : (illegalTrap s g p w).kept = s.kept := takeTrap_kept _ _ _ _
@[simp] theorem illegalTrap_xlate (s : State) (g : Group) (p : Path) (w : Word) : (illegalTrap s g p w).xlate = s.xlate := takeTrap_xlate _ _ _ _
@[simp] theorem illegalTrap_host (s : State) (g : Group) (p : Path) (w : Word) : (illegalTrap s g p w).host = s.host := takeTrap_host _ _ _ _
@[simp] theorem illegalTrap_fabric (s : State) (g : Group) (p : Path) (w : Word) : (illegalTrap s g p w).fabric = s.fabric := takeTrap_fabric _ _ _ _
@[simp] theorem illegalTrap_mgmt (s : State) (g : Group) (p : Path) (w : Word) : (illegalTrap s g p w).mgmt = s.mgmt := takeTrap_mgmt _ _ _ _

/-! ### `controlTrap` -/

@[simp] theorem controlTrap_now (s : State) (g : Group) (p : Path) (m : Mask) (w : Word) : (controlTrap s g p m w).now = s.now := takeTrap_now _ _ _ _
@[simp] theorem controlTrap_fresh (s : State) (g : Group) (p : Path) (m : Mask) (w : Word) : (controlTrap s g p m w).fresh = s.fresh := takeTrap_fresh _ _ _ _
@[simp] theorem controlTrap_agenda (s : State) (g : Group) (p : Path) (m : Mask) (w : Word) : (controlTrap s g p m w).agenda = s.agenda := takeTrap_agenda _ _ _ _
@[simp] theorem controlTrap_cursor (s : State) (g : Group) (p : Path) (m : Mask) (w : Word) : (controlTrap s g p m w).cursor = s.cursor := takeTrap_cursor _ _ _ _
@[simp] theorem controlTrap_sram (s : State) (g : Group) (p : Path) (m : Mask) (w : Word) : (controlTrap s g p m w).sram = s.sram := takeTrap_sram _ _ _ _
@[simp] theorem controlTrap_eng (s : State) (g : Group) (p : Path) (m : Mask) (w : Word) : (controlTrap s g p m w).eng = s.eng := takeTrap_eng _ _ _ _
@[simp] theorem controlTrap_dram (s : State) (g : Group) (p : Path) (m : Mask) (w : Word) : (controlTrap s g p m w).dram = s.dram := takeTrap_dram _ _ _ _
@[simp] theorem controlTrap_objects (s : State) (g : Group) (p : Path) (m : Mask) (w : Word) : (controlTrap s g p m w).objects = s.objects := takeTrap_objects _ _ _ _
@[simp] theorem controlTrap_instances (s : State) (g : Group) (p : Path) (m : Mask) (w : Word) : (controlTrap s g p m w).instances = s.instances := takeTrap_instances _ _ _ _
@[simp] theorem controlTrap_codeCache (s : State) (g : Group) (p : Path) (m : Mask) (w : Word) : (controlTrap s g p m w).codeCache = s.codeCache := takeTrap_codeCache _ _ _ _
@[simp] theorem controlTrap_tractCode (s : State) (g : Group) (p : Path) (m : Mask) (w : Word) : (controlTrap s g p m w).tractCode = s.tractCode := takeTrap_tractCode _ _ _ _
@[simp] theorem controlTrap_parts (s : State) (g : Group) (p : Path) (m : Mask) (w : Word) : (controlTrap s g p m w).parts = s.parts := takeTrap_parts _ _ _ _
@[simp] theorem controlTrap_kept (s : State) (g : Group) (p : Path) (m : Mask) (w : Word) : (controlTrap s g p m w).kept = s.kept := takeTrap_kept _ _ _ _
@[simp] theorem controlTrap_xlate (s : State) (g : Group) (p : Path) (m : Mask) (w : Word) : (controlTrap s g p m w).xlate = s.xlate := takeTrap_xlate _ _ _ _
@[simp] theorem controlTrap_host (s : State) (g : Group) (p : Path) (m : Mask) (w : Word) : (controlTrap s g p m w).host = s.host := takeTrap_host _ _ _ _
@[simp] theorem controlTrap_fabric (s : State) (g : Group) (p : Path) (m : Mask) (w : Word) : (controlTrap s g p m w).fabric = s.fabric := takeTrap_fabric _ _ _ _
@[simp] theorem controlTrap_mgmt (s : State) (g : Group) (p : Path) (m : Mask) (w : Word) : (controlTrap s g p m w).mgmt = s.mgmt := takeTrap_mgmt _ _ _ _

/-! ### `handlerTrap` -/

@[simp] theorem handlerTrap_now (s : State) (g : Group) (p : Path) (m : Mask) (w : Word) : (handlerTrap s g p m w).now = s.now := takeTrap_now _ _ _ _
@[simp] theorem handlerTrap_fresh (s : State) (g : Group) (p : Path) (m : Mask) (w : Word) : (handlerTrap s g p m w).fresh = s.fresh := takeTrap_fresh _ _ _ _
@[simp] theorem handlerTrap_agenda (s : State) (g : Group) (p : Path) (m : Mask) (w : Word) : (handlerTrap s g p m w).agenda = s.agenda := takeTrap_agenda _ _ _ _
@[simp] theorem handlerTrap_cursor (s : State) (g : Group) (p : Path) (m : Mask) (w : Word) : (handlerTrap s g p m w).cursor = s.cursor := takeTrap_cursor _ _ _ _
@[simp] theorem handlerTrap_sram (s : State) (g : Group) (p : Path) (m : Mask) (w : Word) : (handlerTrap s g p m w).sram = s.sram := takeTrap_sram _ _ _ _
@[simp] theorem handlerTrap_eng (s : State) (g : Group) (p : Path) (m : Mask) (w : Word) : (handlerTrap s g p m w).eng = s.eng := takeTrap_eng _ _ _ _
@[simp] theorem handlerTrap_dram (s : State) (g : Group) (p : Path) (m : Mask) (w : Word) : (handlerTrap s g p m w).dram = s.dram := takeTrap_dram _ _ _ _
@[simp] theorem handlerTrap_objects (s : State) (g : Group) (p : Path) (m : Mask) (w : Word) : (handlerTrap s g p m w).objects = s.objects := takeTrap_objects _ _ _ _
@[simp] theorem handlerTrap_instances (s : State) (g : Group) (p : Path) (m : Mask) (w : Word) : (handlerTrap s g p m w).instances = s.instances := takeTrap_instances _ _ _ _
@[simp] theorem handlerTrap_codeCache (s : State) (g : Group) (p : Path) (m : Mask) (w : Word) : (handlerTrap s g p m w).codeCache = s.codeCache := takeTrap_codeCache _ _ _ _
@[simp] theorem handlerTrap_tractCode (s : State) (g : Group) (p : Path) (m : Mask) (w : Word) : (handlerTrap s g p m w).tractCode = s.tractCode := takeTrap_tractCode _ _ _ _
@[simp] theorem handlerTrap_parts (s : State) (g : Group) (p : Path) (m : Mask) (w : Word) : (handlerTrap s g p m w).parts = s.parts := takeTrap_parts _ _ _ _
@[simp] theorem handlerTrap_kept (s : State) (g : Group) (p : Path) (m : Mask) (w : Word) : (handlerTrap s g p m w).kept = s.kept := takeTrap_kept _ _ _ _
@[simp] theorem handlerTrap_xlate (s : State) (g : Group) (p : Path) (m : Mask) (w : Word) : (handlerTrap s g p m w).xlate = s.xlate := takeTrap_xlate _ _ _ _
@[simp] theorem handlerTrap_host (s : State) (g : Group) (p : Path) (m : Mask) (w : Word) : (handlerTrap s g p m w).host = s.host := takeTrap_host _ _ _ _
@[simp] theorem handlerTrap_fabric (s : State) (g : Group) (p : Path) (m : Mask) (w : Word) : (handlerTrap s g p m w).fabric = s.fabric := takeTrap_fabric _ _ _ _
@[simp] theorem handlerTrap_mgmt (s : State) (g : Group) (p : Path) (m : Mask) (w : Word) : (handlerTrap s g p m w).mgmt = s.mgmt := takeTrap_mgmt _ _ _ _

/-! ### `addressTrap` -/

@[simp] theorem addressTrap_now (s : State) (g : Group) (p : Path) (l : Nat) (w a : Word) : (addressTrap s g p l w a).now = s.now := takeTrap_now _ _ _ _
@[simp] theorem addressTrap_fresh (s : State) (g : Group) (p : Path) (l : Nat) (w a : Word) : (addressTrap s g p l w a).fresh = s.fresh := takeTrap_fresh _ _ _ _
@[simp] theorem addressTrap_agenda (s : State) (g : Group) (p : Path) (l : Nat) (w a : Word) : (addressTrap s g p l w a).agenda = s.agenda := takeTrap_agenda _ _ _ _
@[simp] theorem addressTrap_cursor (s : State) (g : Group) (p : Path) (l : Nat) (w a : Word) : (addressTrap s g p l w a).cursor = s.cursor := takeTrap_cursor _ _ _ _
@[simp] theorem addressTrap_sram (s : State) (g : Group) (p : Path) (l : Nat) (w a : Word) : (addressTrap s g p l w a).sram = s.sram := takeTrap_sram _ _ _ _
@[simp] theorem addressTrap_eng (s : State) (g : Group) (p : Path) (l : Nat) (w a : Word) : (addressTrap s g p l w a).eng = s.eng := takeTrap_eng _ _ _ _
@[simp] theorem addressTrap_dram (s : State) (g : Group) (p : Path) (l : Nat) (w a : Word) : (addressTrap s g p l w a).dram = s.dram := takeTrap_dram _ _ _ _
@[simp] theorem addressTrap_objects (s : State) (g : Group) (p : Path) (l : Nat) (w a : Word) : (addressTrap s g p l w a).objects = s.objects := takeTrap_objects _ _ _ _
@[simp] theorem addressTrap_instances (s : State) (g : Group) (p : Path) (l : Nat) (w a : Word) : (addressTrap s g p l w a).instances = s.instances := takeTrap_instances _ _ _ _
@[simp] theorem addressTrap_codeCache (s : State) (g : Group) (p : Path) (l : Nat) (w a : Word) : (addressTrap s g p l w a).codeCache = s.codeCache := takeTrap_codeCache _ _ _ _
@[simp] theorem addressTrap_tractCode (s : State) (g : Group) (p : Path) (l : Nat) (w a : Word) : (addressTrap s g p l w a).tractCode = s.tractCode := takeTrap_tractCode _ _ _ _
@[simp] theorem addressTrap_parts (s : State) (g : Group) (p : Path) (l : Nat) (w a : Word) : (addressTrap s g p l w a).parts = s.parts := takeTrap_parts _ _ _ _
@[simp] theorem addressTrap_kept (s : State) (g : Group) (p : Path) (l : Nat) (w a : Word) : (addressTrap s g p l w a).kept = s.kept := takeTrap_kept _ _ _ _
@[simp] theorem addressTrap_xlate (s : State) (g : Group) (p : Path) (l : Nat) (w a : Word) : (addressTrap s g p l w a).xlate = s.xlate := takeTrap_xlate _ _ _ _
@[simp] theorem addressTrap_host (s : State) (g : Group) (p : Path) (l : Nat) (w a : Word) : (addressTrap s g p l w a).host = s.host := takeTrap_host _ _ _ _
@[simp] theorem addressTrap_fabric (s : State) (g : Group) (p : Path) (l : Nat) (w a : Word) : (addressTrap s g p l w a).fabric = s.fabric := takeTrap_fabric _ _ _ _
@[simp] theorem addressTrap_mgmt (s : State) (g : Group) (p : Path) (l : Nat) (w a : Word) : (addressTrap s g p l w a).mgmt = s.mgmt := takeTrap_mgmt _ _ _ _

/-! ### `setOwners` -/

@[simp] theorem setOwners_now (s : State) (l : List (Nat × Owner)) : (setOwners s l).now = s.now := rfl
@[simp] theorem setOwners_fresh (s : State) (l : List (Nat × Owner)) : (setOwners s l).fresh = s.fresh := rfl
@[simp] theorem setOwners_agenda (s : State) (l : List (Nat × Owner)) : (setOwners s l).agenda = s.agenda := rfl
@[simp] theorem setOwners_cursor (s : State) (l : List (Nat × Owner)) : (setOwners s l).cursor = s.cursor := rfl
@[simp] theorem setOwners_groups (s : State) (l : List (Nat × Owner)) : (setOwners s l).groups = s.groups := rfl
@[simp] theorem setOwners_eng (s : State) (l : List (Nat × Owner)) : (setOwners s l).eng = s.eng := rfl
@[simp] theorem setOwners_dram (s : State) (l : List (Nat × Owner)) : (setOwners s l).dram = s.dram := rfl
@[simp] theorem setOwners_objects (s : State) (l : List (Nat × Owner)) : (setOwners s l).objects = s.objects := rfl
@[simp] theorem setOwners_instances (s : State) (l : List (Nat × Owner)) : (setOwners s l).instances = s.instances := rfl
@[simp] theorem setOwners_codeCache (s : State) (l : List (Nat × Owner)) : (setOwners s l).codeCache = s.codeCache := rfl
@[simp] theorem setOwners_tractCode (s : State) (l : List (Nat × Owner)) : (setOwners s l).tractCode = s.tractCode := rfl
@[simp] theorem setOwners_tasks (s : State) (l : List (Nat × Owner)) : (setOwners s l).tasks = s.tasks := rfl
@[simp] theorem setOwners_parts (s : State) (l : List (Nat × Owner)) : (setOwners s l).parts = s.parts := rfl
@[simp] theorem setOwners_kept (s : State) (l : List (Nat × Owner)) : (setOwners s l).kept = s.kept := rfl
@[simp] theorem setOwners_xlate (s : State) (l : List (Nat × Owner)) : (setOwners s l).xlate = s.xlate := rfl
@[simp] theorem setOwners_host (s : State) (l : List (Nat × Owner)) : (setOwners s l).host = s.host := rfl
@[simp] theorem setOwners_fabric (s : State) (l : List (Nat × Owner)) : (setOwners s l).fabric = s.fabric := rfl
@[simp] theorem setOwners_mgmt (s : State) (l : List (Nat × Owner)) : (setOwners s l).mgmt = s.mgmt := rfl

/-! ### `putSliceReg` -/

@[simp] theorem putSliceReg_now (s : State) (r : SliceReg) : (putSliceReg s r).now = s.now := rfl
@[simp] theorem putSliceReg_fresh (s : State) (r : SliceReg) : (putSliceReg s r).fresh = s.fresh := rfl
@[simp] theorem putSliceReg_agenda (s : State) (r : SliceReg) : (putSliceReg s r).agenda = s.agenda := rfl
@[simp] theorem putSliceReg_cursor (s : State) (r : SliceReg) : (putSliceReg s r).cursor = s.cursor := rfl
@[simp] theorem putSliceReg_groups (s : State) (r : SliceReg) : (putSliceReg s r).groups = s.groups := rfl
@[simp] theorem putSliceReg_eng (s : State) (r : SliceReg) : (putSliceReg s r).eng = s.eng := rfl
@[simp] theorem putSliceReg_dram (s : State) (r : SliceReg) : (putSliceReg s r).dram = s.dram := rfl
@[simp] theorem putSliceReg_objects (s : State) (r : SliceReg) : (putSliceReg s r).objects = s.objects := rfl
@[simp] theorem putSliceReg_instances (s : State) (r : SliceReg) : (putSliceReg s r).instances = s.instances := rfl
@[simp] theorem putSliceReg_codeCache (s : State) (r : SliceReg) : (putSliceReg s r).codeCache = s.codeCache := rfl
@[simp] theorem putSliceReg_tractCode (s : State) (r : SliceReg) : (putSliceReg s r).tractCode = s.tractCode := rfl
@[simp] theorem putSliceReg_tasks (s : State) (r : SliceReg) : (putSliceReg s r).tasks = s.tasks := rfl
@[simp] theorem putSliceReg_parts (s : State) (r : SliceReg) : (putSliceReg s r).parts = s.parts := rfl
@[simp] theorem putSliceReg_kept (s : State) (r : SliceReg) : (putSliceReg s r).kept = s.kept := rfl
@[simp] theorem putSliceReg_xlate (s : State) (r : SliceReg) : (putSliceReg s r).xlate = s.xlate := rfl
@[simp] theorem putSliceReg_host (s : State) (r : SliceReg) : (putSliceReg s r).host = s.host := rfl
@[simp] theorem putSliceReg_fabric (s : State) (r : SliceReg) : (putSliceReg s r).fabric = s.fabric := rfl
@[simp] theorem putSliceReg_mgmt (s : State) (r : SliceReg) : (putSliceReg s r).mgmt = s.mgmt := rfl

/-! ### `clearErrors` -/

@[simp] theorem clearErrors_now (s : State) (sector : Nat) : (clearErrors s sector).now = s.now := by rw [clearErrors_frame]
@[simp] theorem clearErrors_fresh (s : State) (sector : Nat) : (clearErrors s sector).fresh = s.fresh := by rw [clearErrors_frame]
@[simp] theorem clearErrors_agenda (s : State) (sector : Nat) : (clearErrors s sector).agenda = s.agenda := by rw [clearErrors_frame]
@[simp] theorem clearErrors_cursor (s : State) (sector : Nat) : (clearErrors s sector).cursor = s.cursor := by rw [clearErrors_frame]
@[simp] theorem clearErrors_groups (s : State) (sector : Nat) : (clearErrors s sector).groups = s.groups := by rw [clearErrors_frame]
@[simp] theorem clearErrors_eng (s : State) (sector : Nat) : (clearErrors s sector).eng = s.eng := by rw [clearErrors_frame]
@[simp] theorem clearErrors_dram (s : State) (sector : Nat) : (clearErrors s sector).dram = s.dram := by rw [clearErrors_frame]
@[simp] theorem clearErrors_objects (s : State) (sector : Nat) : (clearErrors s sector).objects = s.objects := by rw [clearErrors_frame]
@[simp] theorem clearErrors_instances (s : State) (sector : Nat) : (clearErrors s sector).instances = s.instances := by rw [clearErrors_frame]
@[simp] theorem clearErrors_codeCache (s : State) (sector : Nat) : (clearErrors s sector).codeCache = s.codeCache := by rw [clearErrors_frame]
@[simp] theorem clearErrors_tractCode (s : State) (sector : Nat) : (clearErrors s sector).tractCode = s.tractCode := by rw [clearErrors_frame]
@[simp] theorem clearErrors_tasks (s : State) (sector : Nat) : (clearErrors s sector).tasks = s.tasks := by rw [clearErrors_frame]
@[simp] theorem clearErrors_parts (s : State) (sector : Nat) : (clearErrors s sector).parts = s.parts := by rw [clearErrors_frame]
@[simp] theorem clearErrors_kept (s : State) (sector : Nat) : (clearErrors s sector).kept = s.kept := by rw [clearErrors_frame]
@[simp] theorem clearErrors_xlate (s : State) (sector : Nat) : (clearErrors s sector).xlate = s.xlate := by rw [clearErrors_frame]
@[simp] theorem clearErrors_host (s : State) (sector : Nat) : (clearErrors s sector).host = s.host := by rw [clearErrors_frame]
@[simp] theorem clearErrors_fabric (s : State) (sector : Nat) : (clearErrors s sector).fabric = s.fabric := by rw [clearErrors_frame]
@[simp] theorem clearErrors_mgmt (s : State) (sector : Nat) : (clearErrors s sector).mgmt = s.mgmt := by rw [clearErrors_frame]

/-! ### `readSector` -/

@[simp] theorem readSector_now (s : State) (sector : Nat) : (readSector s sector).now = s.now := by rw [readSector_frame]
@[simp] theorem readSector_fresh (s : State) (sector : Nat) : (readSector s sector).fresh = s.fresh := by rw [readSector_frame]
@[simp] theorem readSector_agenda (s : State) (sector : Nat) : (readSector s sector).agenda = s.agenda := by rw [readSector_frame]
@[simp] theorem readSector_cursor (s : State) (sector : Nat) : (readSector s sector).cursor = s.cursor := by rw [readSector_frame]
@[simp] theorem readSector_groups (s : State) (sector : Nat) : (readSector s sector).groups = s.groups := by rw [readSector_frame]
@[simp] theorem readSector_eng (s : State) (sector : Nat) : (readSector s sector).eng = s.eng := by rw [readSector_frame]
@[simp] theorem readSector_dram (s : State) (sector : Nat) : (readSector s sector).dram = s.dram := by rw [readSector_frame]
@[simp] theorem readSector_objects (s : State) (sector : Nat) : (readSector s sector).objects = s.objects := by rw [readSector_frame]
@[simp] theorem readSector_instances (s : State) (sector : Nat) : (readSector s sector).instances = s.instances := by rw [readSector_frame]
@[simp] theorem readSector_codeCache (s : State) (sector : Nat) : (readSector s sector).codeCache = s.codeCache := by rw [readSector_frame]
@[simp] theorem readSector_tractCode (s : State) (sector : Nat) : (readSector s sector).tractCode = s.tractCode := by rw [readSector_frame]
@[simp] theorem readSector_tasks (s : State) (sector : Nat) : (readSector s sector).tasks = s.tasks := by rw [readSector_frame]
@[simp] theorem readSector_parts (s : State) (sector : Nat) : (readSector s sector).parts = s.parts := by rw [readSector_frame]
@[simp] theorem readSector_kept (s : State) (sector : Nat) : (readSector s sector).kept = s.kept := by rw [readSector_frame]
@[simp] theorem readSector_xlate (s : State) (sector : Nat) : (readSector s sector).xlate = s.xlate := by rw [readSector_frame]
@[simp] theorem readSector_host (s : State) (sector : Nat) : (readSector s sector).host = s.host := by rw [readSector_frame]
@[simp] theorem readSector_fabric (s : State) (sector : Nat) : (readSector s sector).fabric = s.fabric := by rw [readSector_frame]
@[simp] theorem readSector_mgmt (s : State) (sector : Nat) : (readSector s sector).mgmt = s.mgmt := by rw [readSector_frame]

/-! ### `countBad` -/

@[simp] theorem countBad_now (s : State) (sector : Nat) : (countBad s sector).now = s.now := rfl
@[simp] theorem countBad_fresh (s : State) (sector : Nat) : (countBad s sector).fresh = s.fresh := rfl
@[simp] theorem countBad_agenda (s : State) (sector : Nat) : (countBad s sector).agenda = s.agenda := rfl
@[simp] theorem countBad_cursor (s : State) (sector : Nat) : (countBad s sector).cursor = s.cursor := rfl
@[simp] theorem countBad_groups (s : State) (sector : Nat) : (countBad s sector).groups = s.groups := rfl
@[simp] theorem countBad_eng (s : State) (sector : Nat) : (countBad s sector).eng = s.eng := rfl
@[simp] theorem countBad_dram (s : State) (sector : Nat) : (countBad s sector).dram = s.dram := rfl
@[simp] theorem countBad_objects (s : State) (sector : Nat) : (countBad s sector).objects = s.objects := rfl
@[simp] theorem countBad_instances (s : State) (sector : Nat) : (countBad s sector).instances = s.instances := rfl
@[simp] theorem countBad_codeCache (s : State) (sector : Nat) : (countBad s sector).codeCache = s.codeCache := rfl
@[simp] theorem countBad_tractCode (s : State) (sector : Nat) : (countBad s sector).tractCode = s.tractCode := rfl
@[simp] theorem countBad_tasks (s : State) (sector : Nat) : (countBad s sector).tasks = s.tasks := rfl
@[simp] theorem countBad_parts (s : State) (sector : Nat) : (countBad s sector).parts = s.parts := rfl
@[simp] theorem countBad_kept (s : State) (sector : Nat) : (countBad s sector).kept = s.kept := rfl
@[simp] theorem countBad_xlate (s : State) (sector : Nat) : (countBad s sector).xlate = s.xlate := rfl
@[simp] theorem countBad_host (s : State) (sector : Nat) : (countBad s sector).host = s.host := rfl
@[simp] theorem countBad_fabric (s : State) (sector : Nat) : (countBad s sector).fabric = s.fabric := rfl
@[simp] theorem countBad_mgmt (s : State) (sector : Nat) : (countBad s sector).mgmt = s.mgmt := rfl

/-! ### `rewatch` -/

@[simp] theorem rewatch_now (s : State) : (rewatch s).now = s.now := rfl
@[simp] theorem rewatch_fresh (s : State) : (rewatch s).fresh = s.fresh := rfl
@[simp] theorem rewatch_agenda (s : State) : (rewatch s).agenda = s.agenda := rfl
@[simp] theorem rewatch_cursor (s : State) : (rewatch s).cursor = s.cursor := rfl
@[simp] theorem rewatch_sram (s : State) : (rewatch s).sram = s.sram := rfl
@[simp] theorem rewatch_eng (s : State) : (rewatch s).eng = s.eng := rfl
@[simp] theorem rewatch_dram (s : State) : (rewatch s).dram = s.dram := rfl
@[simp] theorem rewatch_objects (s : State) : (rewatch s).objects = s.objects := rfl
@[simp] theorem rewatch_instances (s : State) : (rewatch s).instances = s.instances := rfl
@[simp] theorem rewatch_codeCache (s : State) : (rewatch s).codeCache = s.codeCache := rfl
@[simp] theorem rewatch_tractCode (s : State) : (rewatch s).tractCode = s.tractCode := rfl
@[simp] theorem rewatch_tasks (s : State) : (rewatch s).tasks = s.tasks := rfl
@[simp] theorem rewatch_parts (s : State) : (rewatch s).parts = s.parts := rfl
@[simp] theorem rewatch_kept (s : State) : (rewatch s).kept = s.kept := rfl
@[simp] theorem rewatch_xlate (s : State) : (rewatch s).xlate = s.xlate := rfl
@[simp] theorem rewatch_host (s : State) : (rewatch s).host = s.host := rfl
@[simp] theorem rewatch_fabric (s : State) : (rewatch s).fabric = s.fabric := rfl
@[simp] theorem rewatch_mgmt (s : State) : (rewatch s).mgmt = s.mgmt := rfl

/-! ### `dropOffer` -/

@[simp] theorem dropOffer_now (s : State) (o : Store) : (dropOffer s o).now = s.now := rfl
@[simp] theorem dropOffer_fresh (s : State) (o : Store) : (dropOffer s o).fresh = s.fresh := rfl
@[simp] theorem dropOffer_agenda (s : State) (o : Store) : (dropOffer s o).agenda = s.agenda := rfl
@[simp] theorem dropOffer_cursor (s : State) (o : Store) : (dropOffer s o).cursor = s.cursor := rfl
@[simp] theorem dropOffer_groups (s : State) (o : Store) : (dropOffer s o).groups = s.groups := rfl
@[simp] theorem dropOffer_eng (s : State) (o : Store) : (dropOffer s o).eng = s.eng := rfl
@[simp] theorem dropOffer_dram (s : State) (o : Store) : (dropOffer s o).dram = s.dram := rfl
@[simp] theorem dropOffer_objects (s : State) (o : Store) : (dropOffer s o).objects = s.objects := rfl
@[simp] theorem dropOffer_instances (s : State) (o : Store) : (dropOffer s o).instances = s.instances := rfl
@[simp] theorem dropOffer_codeCache (s : State) (o : Store) : (dropOffer s o).codeCache = s.codeCache := rfl
@[simp] theorem dropOffer_tractCode (s : State) (o : Store) : (dropOffer s o).tractCode = s.tractCode := rfl
@[simp] theorem dropOffer_tasks (s : State) (o : Store) : (dropOffer s o).tasks = s.tasks := rfl
@[simp] theorem dropOffer_parts (s : State) (o : Store) : (dropOffer s o).parts = s.parts := rfl
@[simp] theorem dropOffer_kept (s : State) (o : Store) : (dropOffer s o).kept = s.kept := rfl
@[simp] theorem dropOffer_xlate (s : State) (o : Store) : (dropOffer s o).xlate = s.xlate := rfl
@[simp] theorem dropOffer_host (s : State) (o : Store) : (dropOffer s o).host = s.host := rfl
@[simp] theorem dropOffer_fabric (s : State) (o : Store) : (dropOffer s o).fabric = s.fabric := rfl
@[simp] theorem dropOffer_mgmt (s : State) (o : Store) : (dropOffer s o).mgmt = s.mgmt := rfl

/-! ### `addClears` -/

@[simp] theorem addClears_now (s : State) (req step : Nat) (lines : List Nat) : (addClears s req step lines).now = s.now := rfl
@[simp] theorem addClears_fresh (s : State) (req step : Nat) (lines : List Nat) : (addClears s req step lines).fresh = s.fresh := rfl
@[simp] theorem addClears_agenda (s : State) (req step : Nat) (lines : List Nat) : (addClears s req step lines).agenda = s.agenda := rfl
@[simp] theorem addClears_cursor (s : State) (req step : Nat) (lines : List Nat) : (addClears s req step lines).cursor = s.cursor := rfl
@[simp] theorem addClears_groups (s : State) (req step : Nat) (lines : List Nat) : (addClears s req step lines).groups = s.groups := rfl
@[simp] theorem addClears_eng (s : State) (req step : Nat) (lines : List Nat) : (addClears s req step lines).eng = s.eng := rfl
@[simp] theorem addClears_dram (s : State) (req step : Nat) (lines : List Nat) : (addClears s req step lines).dram = s.dram := rfl
@[simp] theorem addClears_objects (s : State) (req step : Nat) (lines : List Nat) : (addClears s req step lines).objects = s.objects := rfl
@[simp] theorem addClears_instances (s : State) (req step : Nat) (lines : List Nat) : (addClears s req step lines).instances = s.instances := rfl
@[simp] theorem addClears_codeCache (s : State) (req step : Nat) (lines : List Nat) : (addClears s req step lines).codeCache = s.codeCache := rfl
@[simp] theorem addClears_tractCode (s : State) (req step : Nat) (lines : List Nat) : (addClears s req step lines).tractCode = s.tractCode := rfl
@[simp] theorem addClears_tasks (s : State) (req step : Nat) (lines : List Nat) : (addClears s req step lines).tasks = s.tasks := rfl
@[simp] theorem addClears_parts (s : State) (req step : Nat) (lines : List Nat) : (addClears s req step lines).parts = s.parts := rfl
@[simp] theorem addClears_kept (s : State) (req step : Nat) (lines : List Nat) : (addClears s req step lines).kept = s.kept := rfl
@[simp] theorem addClears_xlate (s : State) (req step : Nat) (lines : List Nat) : (addClears s req step lines).xlate = s.xlate := rfl
@[simp] theorem addClears_host (s : State) (req step : Nat) (lines : List Nat) : (addClears s req step lines).host = s.host := rfl
@[simp] theorem addClears_fabric (s : State) (req step : Nat) (lines : List Nat) : (addClears s req step lines).fabric = s.fabric := rfl
@[simp] theorem addClears_mgmt (s : State) (req step : Nat) (lines : List Nat) : (addClears s req step lines).mgmt = s.mgmt := rfl

/-! ### `setPresent` -/

@[simp] theorem setPresent_now (s : State) (req line : Nat) : (setPresent s req line).now = s.now := rfl
@[simp] theorem setPresent_fresh (s : State) (req line : Nat) : (setPresent s req line).fresh = s.fresh := rfl
@[simp] theorem setPresent_agenda (s : State) (req line : Nat) : (setPresent s req line).agenda = s.agenda := rfl
@[simp] theorem setPresent_cursor (s : State) (req line : Nat) : (setPresent s req line).cursor = s.cursor := rfl
@[simp] theorem setPresent_groups (s : State) (req line : Nat) : (setPresent s req line).groups = s.groups := rfl
@[simp] theorem setPresent_eng (s : State) (req line : Nat) : (setPresent s req line).eng = s.eng := rfl
@[simp] theorem setPresent_dram (s : State) (req line : Nat) : (setPresent s req line).dram = s.dram := rfl
@[simp] theorem setPresent_objects (s : State) (req line : Nat) : (setPresent s req line).objects = s.objects := rfl
@[simp] theorem setPresent_instances (s : State) (req line : Nat) : (setPresent s req line).instances = s.instances := rfl
@[simp] theorem setPresent_codeCache (s : State) (req line : Nat) : (setPresent s req line).codeCache = s.codeCache := rfl
@[simp] theorem setPresent_tractCode (s : State) (req line : Nat) : (setPresent s req line).tractCode = s.tractCode := rfl
@[simp] theorem setPresent_tasks (s : State) (req line : Nat) : (setPresent s req line).tasks = s.tasks := rfl
@[simp] theorem setPresent_parts (s : State) (req line : Nat) : (setPresent s req line).parts = s.parts := rfl
@[simp] theorem setPresent_kept (s : State) (req line : Nat) : (setPresent s req line).kept = s.kept := rfl
@[simp] theorem setPresent_xlate (s : State) (req line : Nat) : (setPresent s req line).xlate = s.xlate := rfl
@[simp] theorem setPresent_host (s : State) (req line : Nat) : (setPresent s req line).host = s.host := rfl
@[simp] theorem setPresent_fabric (s : State) (req line : Nat) : (setPresent s req line).fabric = s.fabric := rfl
@[simp] theorem setPresent_mgmt (s : State) (req line : Nat) : (setPresent s req line).mgmt = s.mgmt := rfl

/-! ### `putCopy` -/

@[simp] theorem putCopy_now (s : State) (c : Copy) : (putCopy s c).now = s.now := rfl
@[simp] theorem putCopy_fresh (s : State) (c : Copy) : (putCopy s c).fresh = s.fresh := rfl
@[simp] theorem putCopy_agenda (s : State) (c : Copy) : (putCopy s c).agenda = s.agenda := rfl
@[simp] theorem putCopy_cursor (s : State) (c : Copy) : (putCopy s c).cursor = s.cursor := rfl
@[simp] theorem putCopy_groups (s : State) (c : Copy) : (putCopy s c).groups = s.groups := rfl
@[simp] theorem putCopy_sram (s : State) (c : Copy) : (putCopy s c).sram = s.sram := rfl
@[simp] theorem putCopy_dram (s : State) (c : Copy) : (putCopy s c).dram = s.dram := rfl
@[simp] theorem putCopy_objects (s : State) (c : Copy) : (putCopy s c).objects = s.objects := rfl
@[simp] theorem putCopy_instances (s : State) (c : Copy) : (putCopy s c).instances = s.instances := rfl
@[simp] theorem putCopy_codeCache (s : State) (c : Copy) : (putCopy s c).codeCache = s.codeCache := rfl
@[simp] theorem putCopy_tractCode (s : State) (c : Copy) : (putCopy s c).tractCode = s.tractCode := rfl
@[simp] theorem putCopy_tasks (s : State) (c : Copy) : (putCopy s c).tasks = s.tasks := rfl
@[simp] theorem putCopy_parts (s : State) (c : Copy) : (putCopy s c).parts = s.parts := rfl
@[simp] theorem putCopy_kept (s : State) (c : Copy) : (putCopy s c).kept = s.kept := rfl
@[simp] theorem putCopy_xlate (s : State) (c : Copy) : (putCopy s c).xlate = s.xlate := rfl
@[simp] theorem putCopy_host (s : State) (c : Copy) : (putCopy s c).host = s.host := rfl
@[simp] theorem putCopy_fabric (s : State) (c : Copy) : (putCopy s c).fabric = s.fabric := rfl
@[simp] theorem putCopy_mgmt (s : State) (c : Copy) : (putCopy s c).mgmt = s.mgmt := rfl

/-! ### `putBulk` -/

@[simp] theorem putBulk_now (s : State) (b : Bulk) : (putBulk s b).now = s.now := rfl
@[simp] theorem putBulk_fresh (s : State) (b : Bulk) : (putBulk s b).fresh = s.fresh := rfl
@[simp] theorem putBulk_agenda (s : State) (b : Bulk) : (putBulk s b).agenda = s.agenda := rfl
@[simp] theorem putBulk_cursor (s : State) (b : Bulk) : (putBulk s b).cursor = s.cursor := rfl
@[simp] theorem putBulk_groups (s : State) (b : Bulk) : (putBulk s b).groups = s.groups := rfl
@[simp] theorem putBulk_sram (s : State) (b : Bulk) : (putBulk s b).sram = s.sram := rfl
@[simp] theorem putBulk_dram (s : State) (b : Bulk) : (putBulk s b).dram = s.dram := rfl
@[simp] theorem putBulk_objects (s : State) (b : Bulk) : (putBulk s b).objects = s.objects := rfl
@[simp] theorem putBulk_instances (s : State) (b : Bulk) : (putBulk s b).instances = s.instances := rfl
@[simp] theorem putBulk_codeCache (s : State) (b : Bulk) : (putBulk s b).codeCache = s.codeCache := rfl
@[simp] theorem putBulk_tractCode (s : State) (b : Bulk) : (putBulk s b).tractCode = s.tractCode := rfl
@[simp] theorem putBulk_tasks (s : State) (b : Bulk) : (putBulk s b).tasks = s.tasks := rfl
@[simp] theorem putBulk_parts (s : State) (b : Bulk) : (putBulk s b).parts = s.parts := rfl
@[simp] theorem putBulk_kept (s : State) (b : Bulk) : (putBulk s b).kept = s.kept := rfl
@[simp] theorem putBulk_xlate (s : State) (b : Bulk) : (putBulk s b).xlate = s.xlate := rfl
@[simp] theorem putBulk_host (s : State) (b : Bulk) : (putBulk s b).host = s.host := rfl
@[simp] theorem putBulk_fabric (s : State) (b : Bulk) : (putBulk s b).fabric = s.fabric := rfl
@[simp] theorem putBulk_mgmt (s : State) (b : Bulk) : (putBulk s b).mgmt = s.mgmt := rfl

/-! ### `packIssue` -/

@[simp] theorem packIssue_now (s : State) (g : Group) : (packIssue s g).now = s.now := by rw [packIssue_frame]
@[simp] theorem packIssue_fresh (s : State) (g : Group) : (packIssue s g).fresh = s.fresh := by rw [packIssue_frame]
@[simp] theorem packIssue_agenda (s : State) (g : Group) : (packIssue s g).agenda = s.agenda := by rw [packIssue_frame]
@[simp] theorem packIssue_cursor (s : State) (g : Group) : (packIssue s g).cursor = s.cursor := by rw [packIssue_frame]
@[simp] theorem packIssue_sram (s : State) (g : Group) : (packIssue s g).sram = s.sram := by rw [packIssue_frame]
@[simp] theorem packIssue_eng (s : State) (g : Group) : (packIssue s g).eng = s.eng := by rw [packIssue_frame]
@[simp] theorem packIssue_dram (s : State) (g : Group) : (packIssue s g).dram = s.dram := by rw [packIssue_frame]
@[simp] theorem packIssue_objects (s : State) (g : Group) : (packIssue s g).objects = s.objects := by rw [packIssue_frame]
@[simp] theorem packIssue_instances (s : State) (g : Group) : (packIssue s g).instances = s.instances := by rw [packIssue_frame]
@[simp] theorem packIssue_codeCache (s : State) (g : Group) : (packIssue s g).codeCache = s.codeCache := by rw [packIssue_frame]
@[simp] theorem packIssue_tractCode (s : State) (g : Group) : (packIssue s g).tractCode = s.tractCode := by rw [packIssue_frame]
@[simp] theorem packIssue_tasks (s : State) (g : Group) : (packIssue s g).tasks = s.tasks := by rw [packIssue_frame]
@[simp] theorem packIssue_parts (s : State) (g : Group) : (packIssue s g).parts = s.parts := by rw [packIssue_frame]
@[simp] theorem packIssue_kept (s : State) (g : Group) : (packIssue s g).kept = s.kept := by rw [packIssue_frame]
@[simp] theorem packIssue_xlate (s : State) (g : Group) : (packIssue s g).xlate = s.xlate := by rw [packIssue_frame]
@[simp] theorem packIssue_host (s : State) (g : Group) : (packIssue s g).host = s.host := by rw [packIssue_frame]
@[simp] theorem packIssue_fabric (s : State) (g : Group) : (packIssue s g).fabric = s.fabric := by rw [packIssue_frame]
@[simp] theorem packIssue_mgmt (s : State) (g : Group) : (packIssue s g).mgmt = s.mgmt := by rw [packIssue_frame]

/-! ### `cacheFetched` -/

@[simp] theorem cacheFetched_now (s : State) (core task : Nat) (a : Word) : (cacheFetched s core task a).now = s.now := by rw [cacheFetched_frame]
@[simp] theorem cacheFetched_fresh (s : State) (core task : Nat) (a : Word) : (cacheFetched s core task a).fresh = s.fresh := by rw [cacheFetched_frame]
@[simp] theorem cacheFetched_agenda (s : State) (core task : Nat) (a : Word) : (cacheFetched s core task a).agenda = s.agenda := by rw [cacheFetched_frame]
@[simp] theorem cacheFetched_cursor (s : State) (core task : Nat) (a : Word) : (cacheFetched s core task a).cursor = s.cursor := by rw [cacheFetched_frame]
@[simp] theorem cacheFetched_groups (s : State) (core task : Nat) (a : Word) : (cacheFetched s core task a).groups = s.groups := by rw [cacheFetched_frame]
@[simp] theorem cacheFetched_sram (s : State) (core task : Nat) (a : Word) : (cacheFetched s core task a).sram = s.sram := by rw [cacheFetched_frame]
@[simp] theorem cacheFetched_eng (s : State) (core task : Nat) (a : Word) : (cacheFetched s core task a).eng = s.eng := by rw [cacheFetched_frame]
@[simp] theorem cacheFetched_objects (s : State) (core task : Nat) (a : Word) : (cacheFetched s core task a).objects = s.objects := by rw [cacheFetched_frame]
@[simp] theorem cacheFetched_instances (s : State) (core task : Nat) (a : Word) : (cacheFetched s core task a).instances = s.instances := by rw [cacheFetched_frame]
@[simp] theorem cacheFetched_tasks (s : State) (core task : Nat) (a : Word) : (cacheFetched s core task a).tasks = s.tasks := by rw [cacheFetched_frame]
@[simp] theorem cacheFetched_parts (s : State) (core task : Nat) (a : Word) : (cacheFetched s core task a).parts = s.parts := by rw [cacheFetched_frame]
@[simp] theorem cacheFetched_kept (s : State) (core task : Nat) (a : Word) : (cacheFetched s core task a).kept = s.kept := by rw [cacheFetched_frame]
@[simp] theorem cacheFetched_xlate (s : State) (core task : Nat) (a : Word) : (cacheFetched s core task a).xlate = s.xlate := by rw [cacheFetched_frame]
@[simp] theorem cacheFetched_host (s : State) (core task : Nat) (a : Word) : (cacheFetched s core task a).host = s.host := by rw [cacheFetched_frame]
@[simp] theorem cacheFetched_fabric (s : State) (core task : Nat) (a : Word) : (cacheFetched s core task a).fabric = s.fabric := by rw [cacheFetched_frame]
@[simp] theorem cacheFetched_mgmt (s : State) (core task : Nat) (a : Word) : (cacheFetched s core task a).mgmt = s.mgmt := by rw [cacheFetched_frame]

/-! ### `tick` -/

/-- A path that gives its sequence up leaves the groups and their lanes as they are. -/
theorem afterIssue_lanes (s : State) :
    (afterIssue s).map (fun g => (g.gid, g.task, g.lanes)) = s.groups.map fun g => (g.gid, g.task, g.lanes) := by
  unfold afterIssue
  split
  · rfl
  · simp only [updWhere, List.map_map]
    refine List.map_congr_left fun g _ => ?_
    simp only [Function.comp_apply]
    split <;> rfl

@[simp] theorem tick_fresh (s : State) : (tick s).fresh = s.fresh := rfl
@[simp] theorem tick_agenda (s : State) : (tick s).agenda = s.agenda := rfl
@[simp] theorem tick_sram (s : State) : (tick s).sram = s.sram := rfl
@[simp] theorem tick_eng (s : State) : (tick s).eng = s.eng := rfl
@[simp] theorem tick_dram (s : State) : (tick s).dram = s.dram := rfl
@[simp] theorem tick_objects (s : State) : (tick s).objects = s.objects := rfl
@[simp] theorem tick_instances (s : State) : (tick s).instances = s.instances := rfl
@[simp] theorem tick_codeCache (s : State) : (tick s).codeCache = s.codeCache := rfl
@[simp] theorem tick_tractCode (s : State) : (tick s).tractCode = s.tractCode := rfl
@[simp] theorem tick_tasks (s : State) : (tick s).tasks = s.tasks := rfl
@[simp] theorem tick_parts (s : State) : (tick s).parts = s.parts := rfl
@[simp] theorem tick_kept (s : State) : (tick s).kept = s.kept := rfl
@[simp] theorem tick_xlate (s : State) : (tick s).xlate = s.xlate := rfl
@[simp] theorem tick_host (s : State) : (tick s).host = s.host := rfl
@[simp] theorem tick_fabric (s : State) : (tick s).fabric = s.fabric := rfl
@[simp] theorem tick_mgmt (s : State) : (tick s).mgmt = s.mgmt := rfl

end Sys2Proof.Machine
end

