-- ==== Sys2Proof/Laws/Traps.lean ====
section
/-!
SUPPORT. The four outcomes of a synchronous trap (R276, R277), and the words that only move their path.
-/

namespace Sys2Proof.Machine

open Sys2Proof

/-- In a handler group a trap stops the task. -/
theorem takeTrap_handler (s : State) (g : Group) (p : Path) (t : TrapOf) (h : g.handler.isSome = true) :
    takeTrap s g p t = markStop (recordFrec s g.task (trapFrec s g p t)) g.task t.kind := by
  simp [takeTrap, h]

/-- A trap with a lane in the trap handler stops the task with kind 0x0C. -/
theorem takeTrap_twice (s : State) (g : Group) (p : Path) (t : TrapOf) (h : g.handler = none)
    (hl : ∃ l ∈ lanesOf p.exec, (laneOf g l).tin = true) :
    takeTrap s g p t =
      stopWith s g.task { trapFrec s g p t with kind := 0x0C, count := BitVec.ofNat 32 t.kind } := by
  have : ((lanesOf p.exec).any fun l => (laneOf g l).tin) = true := List.any_eq_true.mpr hl
  simp [takeTrap, h, this]

/-- Without a trap handler a trap stops the task. -/
theorem takeTrap_noVector (s : State) (g : Group) (p : Path) (t : TrapOf) (h : g.handler = none)
    (hl : ∀ l ∈ lanesOf p.exec, (laneOf g l).tin = false) (hv : (laneOf g t.lane).tvec = 0) :
    takeTrap s g p t = markStop (recordFrec s g.task (trapFrec s g p t)) g.task t.kind := by
  have : ((lanesOf p.exec).any fun l => (laneOf g l).tin) = false := by
    rw [List.any_eq_false]
    intro l hm
    simp [hl l hm]
  simp [takeTrap, h, this, hv]

/-- Otherwise the path enters the trap handler with all its lanes. -/
theorem takeTrap_enters (s : State) (g : Group) (p : Path) (t : TrapOf) (h : g.handler = none)
    (hl : ∀ l ∈ lanesOf p.exec, (laneOf g l).tin = false) (hv : (laneOf g t.lane).tvec ≠ 0) :
    takeTrap s g p t = putPath (recordFrec s g.task (trapFrec s g p t))
      (modLanes g p.exec fun _ x => trapThread p t x) (jumpTo p (laneOf g t.lane).tvec) := by
  have : ((lanesOf p.exec).any fun l => (laneOf g l).tin) = false := by
    rw [List.any_eq_false]
    intro l hm
    simp [hl l hm]
  simp only [takeTrap, h, this, Option.isSome_none, Bool.false_eq_true, if_false, if_neg hv]

/-- A word whose meaning puts a path back changes that path only. -/
theorem movesPath_of {s : State} {g : Group} {p : Path} {w : Word} (h : Issuing s g p w) {i : Instr} {q : Path}
    {f : Group → Path → Word → State} (hi : exec i s = onPath s f) (hf : f g p w = putPath s g q)
    (hq : q.pid = p.pid) : MovesPath i s g p q :=
  ⟨putPath s g q, setPath g q, by rw [hi, onPath_next h, hf], pathOnly_putPath h g q hq rfl rfl, rfl⟩

/-- A word whose meaning takes a trap. -/
theorem traps_of {s : State} {g : Group} {p : Path} {w : Word} (h : Issuing s g p w) {i : Instr} {x : TrapOf}
    {f : Group → Path → Word → State} (hi : exec i s = onPath s f) (hf : f g p w = takeTrap s g p x) :
    Traps i s g p x := by
  unfold Traps
  rw [hi, onPath_next h, hf]

end Sys2Proof.Machine
end

