-- ==== Sys2Proof/Laws/Writes.lean ====
section
/-!
SUPPORT. What the operations that write the slices do to their bytes: the plain write, the write under the
bank code, the counter update, and the operations that write none.
-/

namespace Sys2Proof.Machine

open Sys2Proof

@[simp] theorem putSliceReg_mem (s : State) (r : SliceReg) : (putSliceReg s r).sram.mem = s.sram.mem := rfl

@[simp] theorem clearErrors_mem (s : State) (sector : Nat) : (clearErrors s sector).sram.mem = s.sram.mem := by
  unfold clearErrors
  split <;> rfl

/-- The bytes of a memory after some writes to a sector. -/
theorem rewriteSector_mem (s : State) (sector : Nat) (c : List Symbol) :
    (rewriteSector s sector c).sram.mem = cellSetAll s.sram.mem (addressed (sector * 32) (bytesOfSymbols (c.take 16))) :=
  rfl

/-- A sector none of whose symbols is in error is left as it is. -/
theorem readSector_clean (s : State) (sector : Nat) (h : s.sram.flips = []) : readSector s sector = s := by
  simp [readSector, sectorErrors, sectorFlips, h]

/-- A read through the bank code leaves the bytes, or writes what the decoding delivers (R134). -/
theorem readSector_mem (s : State) (sector : Nat) :
    ∃ ws, (readSector s sector).sram.mem = cellSetAll s.sram.mem ws := by
  unfold readSector
  split
  · exact ⟨[], rfl⟩
  · split
    · exact ⟨[], rfl⟩
    all_goals exact ⟨_, rfl⟩

@[simp] theorem clearErrors_flips (s : State) (sector : Nat) (h : s.sram.flips = []) :
    (clearErrors s sector).sram.flips = [] := by
  simp [clearErrors, h]

@[simp] theorem countBad_mem (s : State) (sector : Nat) : (countBad s sector).sram.mem = s.sram.mem := rfl

@[simp] theorem stopBad_mem (s : State) (w : Who) (sector : Nat) : (stopBad s w sector).sram.mem = s.sram.mem :=
  rfl

@[simp] theorem rewatch_mem (s : State) : (rewatch s).sram.mem = s.sram.mem := rfl

/-- A plain write sets its bytes in order. -/
@[simp] theorem sramWrite_mem (s : State) (step : Option Nat) (ws : List (Nat × Byte)) :
    (sramWrite s step ws).sram.mem = cellSetAll s.sram.mem ws := rfl

/-- A plain write changes the bytes and the copies kept for handlers only. -/
theorem sramWrite_frame (s : State) (step : Option Nat) (ws : List (Nat × Byte)) :
    sramWrite s step ws = { s with
      sram := { s.sram with mem := (sramWrite s step ws).sram.mem, undo := (sramWrite s step ws).sram.undo } } :=
  rfl

/-- One sector of a write under the bank code: after what the decoding delivers its bytes are written, or none is. -/
theorem sectorWrite_mem (s : State) (w : Who) (step : Option Nat) (mine : List (Nat × Byte)) (sec : Nat) :
    ∃ ws, (sectorWrite s w step mine sec).sram.mem = cellSetAll s.sram.mem ws := by
  unfold sectorWrite
  split
  · refine ⟨mine, ?_⟩
    split <;> simp
  · split
    · exact ⟨[], rfl⟩
    · obtain ⟨ws, h⟩ := readSector_mem s sec
      refine ⟨ws ++ mine, ?_⟩
      simp [h, cellSetAll, List.foldl_append]

/-- Where no symbol is in error, one sector's bytes are written and nothing else, or none is. -/
theorem sectorWrite_clean (s : State) (w : Who) (step : Option Nat) (mine : List (Nat × Byte)) (sec : Nat)
    (h : s.sram.flips = []) :
    ((sectorWrite s w step mine sec).sram.mem = cellSetAll s.sram.mem mine ∨
      (sectorWrite s w step mine sec).sram.mem = s.sram.mem) ∧ (sectorWrite s w step mine sec).sram.flips = [] := by
  unfold sectorWrite
  split
  · refine ⟨.inl ?_, ?_⟩
    · split <;> simp
    · split
      · exact clearErrors_flips _ sec h
      · exact clearErrors_flips _ sec h
  · split
    · exact ⟨.inr rfl, h⟩
    · rw [readSector_clean s sec h]
      exact ⟨.inl rfl, h⟩

/-- A write under the bank code keeps the canonical form. -/
theorem wf_guardedWrite (s : State) (w : Who) (step : Option Nat) (ws : List (Nat × Byte))
    (h : Memory.wf s.sram.mem = true) : Memory.wf (guardedWrite s w step ws).sram.mem = true := by
  unfold guardedWrite
  generalize sectorsOf ws = secs
  induction secs generalizing s with
  | nil => exact h
  | cons sec secs ih =>
    simp only [List.foldl_cons]
    apply ih
    obtain ⟨us, e⟩ := sectorWrite_mem s w step (ws.filter fun x => decide (sectorOf x.1 = sec)) sec
    rw [e]
    exact wf_cellSetAll _ _ h

/-- Where no symbol is in error, a write under the bank code leaves every byte that it does not name. -/
theorem guardedWrite_other (s : State) (w : Who) (step : Option Nat) (ws : List (Nat × Byte))
    (h : Memory.wf s.sram.mem = true) (hf : s.sram.flips = []) (a : Nat) (ha : ∀ x ∈ ws, x.1 ≠ a) :
    cellGet (guardedWrite s w step ws).sram.mem a = cellGet s.sram.mem a := by
  unfold guardedWrite
  generalize sectorsOf ws = secs
  induction secs generalizing s with
  | nil => rfl
  | cons sec secs ih =>
    simp only [List.foldl_cons]
    obtain ⟨hm, hn⟩ := sectorWrite_clean s w step (ws.filter fun x => decide (sectorOf x.1 = sec)) sec hf
    rw [ih _ (by rcases hm with e | e <;> rw [e]; exacts [wf_cellSetAll _ _ h, h]) hn]
    rcases hm with e | e <;> rw [e]
    exact cellGet_cellSetAll_other _ _ h a fun x hx => ha x (List.mem_filter.mp hx).1

/-- A counter update keeps the canonical form. -/
theorem wf_counterUpdate (s : State) (w : Who) (cell : Option Nat) (n code : Nat)
    (h : Memory.wf s.sram.mem = true) : Memory.wf (counterUpdate s w cell n code).sram.mem = true := by
  unfold counterUpdate
  split
  · exact h
  · rw [rewatch_mem]
    exact wf_guardedWrite _ _ _ _ h

end Sys2Proof.Machine
end

