-- ==== Sys2Proof/Tests/Slice0.lean ====
section
/-!
SUPPORT. Tests. Words of every family read from the spec's encoding tables, ill-formed terms that each check
of `WellFormed` refuses, single steps whose results the rules give, and for every obligation states and
operands that meet its hypotheses (`test_meets_…`).
-/

set_option Elab.async false

namespace Sys2Proof.Tests

open Sys2Proof Sys2Proof.Machine

/-! ### Small machines -/

/-- All lanes. -/
abbrev ga : Guard := { inv := false, p := 7 }
/-- A `MOD` word with nothing set. -/
abbrev m0 : ModWord := { sat := 0, clmp := false, na := false, aa := false, nb := false, ab := false, scl := 0, rm := 0,
                         sa := 0, sb := 0 }
/-- Lanes where `p0` holds: lane 0. -/
abbrev g1 : Guard := { inv := false, p := 0 }
/-- Lanes where `p1` holds: none. -/
abbrev gn : Guard := { inv := false, p := 1 }
/-- Lanes where `p2` holds: 0 to 3. -/
abbrev gm : Guard := { inv := false, p := 2 }

/-- The path of the placed program, with some predicates and scalars set. -/
def pT : Path :=
  let p := newPath 0 programEntry 8
  { p with p := ((p.p.set 0 1).set 1 0).set 2 15, s := ((p.s.set 1 0x10).set 2 0xFF).set 3 0x1004 }

/-- The machine that executes for path `p` of group `g`, alone on its core. -/
def onto (s : State) (g : Group) (p : Path) : State :=
  { s with agenda := [], cursor := some { gid := g.gid, pid := p.pid, pc := p.pc, word := 0xE0000070 }, groups := [g] }

/-- A placed program that may issue a `NOP`. -/
def sP : State := placeProgram State.reset 0xE0000070
/-- Its group, with the path `pT`. -/
def gT : Group := { programGroup 0 with paths := [pT] }
/-- The machine that executes for `pT`. -/
def sT : State := onto sP gT pT

/-- The group with other paths. -/
def withPaths (ps : List Path) : Group := { gT with paths := ps }
/-- The machine that executes for path `p`, the only one of its group. -/
def forPath (p : Path) : State := onto sP (withPaths [p]) p

/-- A statement about every lane of a mask holds when it holds of the 64 lanes there are. -/
theorem allLanes (m : Mask) (P : Nat → Prop) (h : ∀ l, l < 64 → m.getLsbD l = true → P l) :
    ∀ l, m.getLsbD l = true → P l := by
  intro l hl
  rcases Nat.lt_or_ge l 64 with h64 | h64
  · exact h l h64 hl
  · rw [BitVec.getLsbD_of_ge m l h64] at hl
    cases hl

theorem issuingT {w : Word} (h : w = 0xE0000070) : Issuing sT gT pT w := by subst h; exact ⟨rfl, rfl, rfl⟩

/-! ### Ill-formed terms, one for each check of `WellFormed` -/

/-- The term is no instruction. -/
abbrev bad (i : Instr) : Prop := i.wf = false

theorem test_illformed_prefixes :
    bad (.hint 3 true false) ∧ bad (.mod { m0 with sat := 3 }) ∧ bad (.mod { m0 with rm := 5 }) ∧
    bad (.mod { m0 with sa := 3 }) ∧ bad (.mod { m0 with sb := 3 }) := by decide

theorem test_illformed_scalar_registers :
    bad (.add 32 0 0 ga true) ∧ bad (.add 0 32 0 ga true) ∧ bad (.add 0 0 32 ga true) ∧ bad (.movi 40 0 ga true) ∧
    (Instr.add 63 32 32 ga false).wf = true ∧ bad (.sel 0 33 0 ga true 1) ∧ bad (.fadd 0 0 40 ga true) := by decide

theorem test_illformed_pairs :
    bad (.add64 1 0 0 ga false) ∧ bad (.add64 0 3 0 ga false) ∧ bad (.sub64 0 0 5 ga false) ∧
    (Instr.shl64 0 2 5 ga false).wf = true ∧ bad (.add64Imm 34 0 0 ga true) ∧ bad (.dadd 0 2 5 ga) ∧
    bad (.dcmp .lt 1 0 ga 0) := by decide

theorem test_illformed_predicates :
    bad (.cmp .eq 0 0 ga false 7) ∧ bad (.fcmpImm .un 0 0 ga false 7) ∧ bad (.dcmp .lt 0 0 ga 7) ∧
    bad (.pand 7 false 0 false 0 false ga) ∧ bad (.pnot 7 false 0 false ga) ∧ bad (.elect 7 ga) ∧
    bad (.vote 7 0 .all ga) ∧ bad (.vote 31 0 .bal ga) ∧ bad (.vote 32 0 .bal ga) := by decide

theorem test_illformed_lanes :
    bad (.rdlane 32 0 0 ga) ∧ bad (.rdlane 0 63 32 ga) ∧ bad (.wrlane 63 32 0 ga) ∧ bad (.rdlaneImm 32 0 0 ga) ∧
    bad (.wrlaneImm 0 32 0 ga) := by decide

theorem test_illformed_conversions :
    bad (.cvt 1 0 .f32 ga .f64) ∧ bad (.cvt 0 1 .i64 ga .f32) ∧ bad (.cvtsr 0 0 2 ga .f32) ∧
    bad (.cvtsr 0 0 3 ga .f16) ∧ bad (.cvtsr 0 0 34 ga .f16) ∧ bad (.pack8 0 2 4 ga .i16) ∧ bad (.pack8 0 1 4 ga .i8) ∧
    bad (.unpk8 2 0 ga .i8) ∧ bad (.pack4 0 2 4 ga .i4) ∧ bad (.pack4 0 4 8 ga .i8) ∧ bad (.unpk4 4 0 ga .i4) := by
  decide

theorem test_illformed_memory :
    bad (.lds .party 32 0 0 .i32) ∧ bad (.lds .party 0 0 0 .e4m3) ∧ bad (.sts .sum .party 0 0 0 .f16) ∧
    bad (.sts .low .party 1 0 0 .f64) ∧ bad (.ld .party 3 0 0 ga .i64) ∧ bad (.stP .sum 0 0 0 ga .f64) ∧
    bad (.stG .low 0 0 0 ga .i4) ∧ bad (.stK .low 5 0 0 ga .i64) ∧ bad (.watch .z 0 0 ga .immutable) ∧
    bad (.pres 0 0 0 ga .immutable) := by decide

theorem test_illformed_matrix_and_engines :
    bad (.mldw 0 32 .party .i8 ga false) ∧ bad (.mldw 0 0 .party .f32 ga false) ∧ bad (.mldwS 0 0 .party .i8 ga false) ∧
    bad (.mldwS 0 1 .party .e4m3 ga false) ∧ bad (.mma 0 2 .party .i8 ga false false) ∧
    bad (.mmas 0 0 .party .f32 ga false false) ∧ bad (.mdrn 0 8 .immutable .f32 ga false false) ∧
    bad (.mdrn 0 4 .party .f32 ga false false) ∧ bad (.mdrn 0 8 .party .f64 ga false false) ∧ bad (.trd 0 32 0 ga false false) ∧
    bad (.twr 0 40 0 ga false false) ∧ bad (.cpys 4 ga) ∧ bad (.cpys 32 ga) ∧ bad (.tq 0 0 0 false ga .f64) ∧
    bad (.tqb 2 0 0 false ga .i8) ∧ bad (.tqb 1 0 0 true ga .i8) ∧ bad (.tq 2 0 0 false ga .f32) := by decide

theorem test_illformed_control_and_tasks :
    bad (.jmpr 32 0 ga) ∧ bad (.ret 32 ga) ∧ bad (.jmov 8 0 .jj ga) ∧ bad (.jmov 0 8 .jp ga) ∧ bad (.jmov 1 0 .sj ga) ∧
    bad (.jmov 0 33 .js ga) ∧ bad (.enq 1 0 .party ga) ∧ bad (.deq 32 0 ga) ∧ bad (.depdEdge 0 1 ga) ∧
    bad (.depdRel 0 32 ga) ∧ bad (.srd 0 0x0B ga) ∧ bad (.swr 0 0x00 ga) ∧ bad (.swr 0 0x32 ga) := by decide

/-! ### Words that are no instruction (R49, R56 and the spec's examples) -/

theorem test_illegal_words :
    decode 0x48408377 = .error .function ∧ decode 0xCC508074 = .error .field ∧ decode 0xC8810070 = .error .field ∧
    decode 0xC801907C = .error .field ∧ decode 0xCA004070 = .error .reserved ∧ decode 0xCA800070 = .error .function ∧
    decode 0x00000070 = .error .major ∧ decode 0x8C000070 = .error .major ∧ decode 0xEC000070 = .error .major ∧
    decode 0xFC000070 = .error .major := by decide


/-! ### Words written field by field from the format tables -/

/-- Lanes where `p2` does not hold. -/
def gd : Guard := { inv := true, p := 2 }
/-- A word decodes to an instruction. -/
abbrev reads (w : Nat) (i : Instr) : Prop := decode (BitVec.ofNat 32 w) = .ok i

theorem test_decode_major_01 :
    reads (0x01 * 2 ^ 26 + 24 * 2 ^ 20 + 17 * 2 ^ 14 + 42 * 2 ^ 8 + 1 * 2 ^ 7 + 2 * 2 ^ 4) (.add 24 17 42 gd false) ∧
    reads (0x01 * 2 ^ 26 + 0x1 + 24 * 2 ^ 20 + 17 * 2 ^ 14 + 42 * 2 ^ 8 + 1 * 2 ^ 7 + 2 * 2 ^ 4) (.sub 24 17 42 gd false) ∧
    reads (0x01 * 2 ^ 26 + 0x2 + 24 * 2 ^ 20 + 17 * 2 ^ 14 + 42 * 2 ^ 8 + 1 * 2 ^ 7 + 2 * 2 ^ 4) (.mul 24 17 42 gd false) ∧
    reads (0x01 * 2 ^ 26 + 0x3 + 24 * 2 ^ 20 + 17 * 2 ^ 14 + 42 * 2 ^ 8 + 1 * 2 ^ 7 + 2 * 2 ^ 4) (.mulhi 24 17 42 gd false) ∧
    reads (0x01 * 2 ^ 26 + 0x4 + 24 * 2 ^ 20 + 17 * 2 ^ 14 + 42 * 2 ^ 8 + 1 * 2 ^ 7 + 2 * 2 ^ 4) (.mulhu 24 17 42 gd false) ∧
    reads (0x01 * 2 ^ 26 + 0x5 + 24 * 2 ^ 20 + 17 * 2 ^ 14 + 42 * 2 ^ 8 + 1 * 2 ^ 7 + 2 * 2 ^ 4) (.mad 24 17 42 gd false) ∧
    reads (0x01 * 2 ^ 26 + 0x6 + 24 * 2 ^ 20 + 17 * 2 ^ 14 + 42 * 2 ^ 8 + 1 * 2 ^ 7 + 2 * 2 ^ 4) (.min 24 17 42 gd false) ∧
    reads (0x01 * 2 ^ 26 + 0x7 + 24 * 2 ^ 20 + 17 * 2 ^ 14 + 42 * 2 ^ 8 + 1 * 2 ^ 7 + 2 * 2 ^ 4) (.max 24 17 42 gd false) := by decide

theorem test_decode_major_02 :
    reads (0x02 * 2 ^ 26 + 24 * 2 ^ 20 + 17 * 2 ^ 14 + 37 * 2 ^ 8 + 1 * 2 ^ 7 + 2 * 2 ^ 4) (.addImm 24 17 37 gd false) ∧
    reads (0x02 * 2 ^ 26 + 0x1 + 24 * 2 ^ 20 + 17 * 2 ^ 14 + 37 * 2 ^ 8 + 1 * 2 ^ 7 + 2 * 2 ^ 4) (.subImm 24 17 37 gd false) ∧
    reads (0x02 * 2 ^ 26 + 0x2 + 24 * 2 ^ 20 + 17 * 2 ^ 14 + 37 * 2 ^ 8 + 1 * 2 ^ 7 + 2 * 2 ^ 4) (.mulImm 24 17 37 gd false) ∧
    reads (0x02 * 2 ^ 26 + 0x3 + 24 * 2 ^ 20 + 17 * 2 ^ 14 + 37 * 2 ^ 8 + 1 * 2 ^ 7 + 2 * 2 ^ 4) (.mulhiImm 24 17 37 gd false) ∧
    reads (0x02 * 2 ^ 26 + 0x4 + 24 * 2 ^ 20 + 17 * 2 ^ 14 + 37 * 2 ^ 8 + 1 * 2 ^ 7 + 2 * 2 ^ 4) (.mulhuImm 24 17 37 gd false) ∧
    reads (0x02 * 2 ^ 26 + 0x5 + 24 * 2 ^ 20 + 17 * 2 ^ 14 + 37 * 2 ^ 8 + 1 * 2 ^ 7 + 2 * 2 ^ 4) (.madImm 24 17 37 gd false) ∧
    reads (0x02 * 2 ^ 26 + 0x6 + 24 * 2 ^ 20 + 17 * 2 ^ 14 + 37 * 2 ^ 8 + 1 * 2 ^ 7 + 2 * 2 ^ 4) (.minImm 24 17 37 gd false) ∧
    reads (0x02 * 2 ^ 26 + 0x7 + 24 * 2 ^ 20 + 17 * 2 ^ 14 + 37 * 2 ^ 8 + 1 * 2 ^ 7 + 2 * 2 ^ 4) (.maxImm 24 17 37 gd false) := by decide

theorem test_decode_major_03 :
    reads (0x03 * 2 ^ 26 + 24 * 2 ^ 20 + 17 * 2 ^ 14 + 42 * 2 ^ 8 + 1 * 2 ^ 7 + 2 * 2 ^ 4) (.minu 24 17 42 gd false) ∧
    reads (0x03 * 2 ^ 26 + 0x1 + 24 * 2 ^ 20 + 17 * 2 ^ 14 + 42 * 2 ^ 8 + 1 * 2 ^ 7 + 2 * 2 ^ 4) (.maxu 24 17 42 gd false) ∧
    reads (0x03 * 2 ^ 26 + 0x2 + 24 * 2 ^ 20 + 17 * 2 ^ 14 + 42 * 2 ^ 8 + 1 * 2 ^ 7 + 2 * 2 ^ 4) (.and 24 17 42 gd false) ∧
    reads (0x03 * 2 ^ 26 + 0x3 + 24 * 2 ^ 20 + 17 * 2 ^ 14 + 42 * 2 ^ 8 + 1 * 2 ^ 7 + 2 * 2 ^ 4) (.or 24 17 42 gd false) ∧
    reads (0x03 * 2 ^ 26 + 0x4 + 24 * 2 ^ 20 + 17 * 2 ^ 14 + 42 * 2 ^ 8 + 1 * 2 ^ 7 + 2 * 2 ^ 4) (.xor 24 17 42 gd false) ∧
    reads (0x03 * 2 ^ 26 + 0x5 + 24 * 2 ^ 20 + 17 * 2 ^ 14 + 42 * 2 ^ 8 + 1 * 2 ^ 7 + 2 * 2 ^ 4) (.andn 24 17 42 gd false) ∧
    reads (0x03 * 2 ^ 26 + 0x6 + 24 * 2 ^ 20 + 17 * 2 ^ 14 + 42 * 2 ^ 8 + 1 * 2 ^ 7 + 2 * 2 ^ 4) (.rol 24 17 42 gd false) := by decide

theorem test_decode_major_04 :
    reads (0x04 * 2 ^ 26 + 24 * 2 ^ 20 + 17 * 2 ^ 14 + 37 * 2 ^ 8 + 1 * 2 ^ 7 + 2 * 2 ^ 4) (.minuImm 24 17 37 gd false) ∧
    reads (0x04 * 2 ^ 26 + 0x1 + 24 * 2 ^ 20 + 17 * 2 ^ 14 + 37 * 2 ^ 8 + 1 * 2 ^ 7 + 2 * 2 ^ 4) (.maxuImm 24 17 37 gd false) ∧
    reads (0x04 * 2 ^ 26 + 0x2 + 24 * 2 ^ 20 + 17 * 2 ^ 14 + 37 * 2 ^ 8 + 1 * 2 ^ 7 + 2 * 2 ^ 4) (.andImm 24 17 37 gd false) ∧
    reads (0x04 * 2 ^ 26 + 0x3 + 24 * 2 ^ 20 + 17 * 2 ^ 14 + 37 * 2 ^ 8 + 1 * 2 ^ 7 + 2 * 2 ^ 4) (.orImm 24 17 37 gd false) ∧
    reads (0x04 * 2 ^ 26 + 0x4 + 24 * 2 ^ 20 + 17 * 2 ^ 14 + 37 * 2 ^ 8 + 1 * 2 ^ 7 + 2 * 2 ^ 4) (.xorImm 24 17 37 gd false) ∧
    reads (0x04 * 2 ^ 26 + 0x5 + 24 * 2 ^ 20 + 17 * 2 ^ 14 + 37 * 2 ^ 8 + 1 * 2 ^ 7 + 2 * 2 ^ 4) (.andnImm 24 17 37 gd false) ∧
    reads (0x04 * 2 ^ 26 + 0x6 + 24 * 2 ^ 20 + 17 * 2 ^ 14 + 37 * 2 ^ 8 + 1 * 2 ^ 7 + 2 * 2 ^ 4) (.rolImm 24 17 37 gd false) := by decide

theorem test_decode_major_05 :
    reads (0x05 * 2 ^ 26 + 24 * 2 ^ 20 + 17 * 2 ^ 14 + 42 * 2 ^ 8 + 1 * 2 ^ 7 + 2 * 2 ^ 4) (.shl 24 17 42 gd false) ∧
    reads (0x05 * 2 ^ 26 + 0x1 + 24 * 2 ^ 20 + 17 * 2 ^ 14 + 42 * 2 ^ 8 + 1 * 2 ^ 7 + 2 * 2 ^ 4) (.shr 24 17 42 gd false) ∧
    reads (0x05 * 2 ^ 26 + 0x2 + 24 * 2 ^ 20 + 17 * 2 ^ 14 + 42 * 2 ^ 8 + 1 * 2 ^ 7 + 2 * 2 ^ 4) (.sar 24 17 42 gd false) ∧
    reads (0x05 * 2 ^ 26 + 0x3 + 24 * 2 ^ 20 + 17 * 2 ^ 14 + 42 * 2 ^ 8 + 1 * 2 ^ 7 + 2 * 2 ^ 4) (.divs 24 17 42 gd false) ∧
    reads (0x05 * 2 ^ 26 + 0x4 + 24 * 2 ^ 20 + 17 * 2 ^ 14 + 42 * 2 ^ 8 + 1 * 2 ^ 7 + 2 * 2 ^ 4) (.divu 24 17 42 gd false) ∧
    reads (0x05 * 2 ^ 26 + 0x5 + 24 * 2 ^ 20 + 17 * 2 ^ 14 + 42 * 2 ^ 8 + 1 * 2 ^ 7 + 2 * 2 ^ 4) (.rems 24 17 42 gd false) ∧
    reads (0x05 * 2 ^ 26 + 0x6 + 24 * 2 ^ 20 + 17 * 2 ^ 14 + 42 * 2 ^ 8 + 1 * 2 ^ 7 + 2 * 2 ^ 4) (.remu 24 17 42 gd false) ∧
    reads (0x05 * 2 ^ 26 + 0x7 + 24 * 2 ^ 20 + 17 * 2 ^ 14 + 42 * 2 ^ 8 + 1 * 2 ^ 7 + 2 * 2 ^ 4) (.lea 24 17 42 gd false) := by decide

theorem test_decode_major_06 :
    reads (0x06 * 2 ^ 26 + 24 * 2 ^ 20 + 17 * 2 ^ 14 + 37 * 2 ^ 8 + 1 * 2 ^ 7 + 2 * 2 ^ 4) (.shlImm 24 17 37 gd false) ∧
    reads (0x06 * 2 ^ 26 + 0x1 + 24 * 2 ^ 20 + 17 * 2 ^ 14 + 37 * 2 ^ 8 + 1 * 2 ^ 7 + 2 * 2 ^ 4) (.shrImm 24 17 37 gd false) ∧
    reads (0x06 * 2 ^ 26 + 0x2 + 24 * 2 ^ 20 + 17 * 2 ^ 14 + 37 * 2 ^ 8 + 1 * 2 ^ 7 + 2 * 2 ^ 4) (.sarImm 24 17 37 gd false) ∧
    reads (0x06 * 2 ^ 26 + 0x3 + 24 * 2 ^ 20 + 17 * 2 ^ 14 + 37 * 2 ^ 8 + 1 * 2 ^ 7 + 2 * 2 ^ 4) (.divsImm 24 17 37 gd false) ∧
    reads (0x06 * 2 ^ 26 + 0x4 + 24 * 2 ^ 20 + 17 * 2 ^ 14 + 37 * 2 ^ 8 + 1 * 2 ^ 7 + 2 * 2 ^ 4) (.divuImm 24 17 37 gd false) ∧
    reads (0x06 * 2 ^ 26 + 0x5 + 24 * 2 ^ 20 + 17 * 2 ^ 14 + 37 * 2 ^ 8 + 1 * 2 ^ 7 + 2 * 2 ^ 4) (.remsImm 24 17 37 gd false) ∧
    reads (0x06 * 2 ^ 26 + 0x6 + 24 * 2 ^ 20 + 17 * 2 ^ 14 + 37 * 2 ^ 8 + 1 * 2 ^ 7 + 2 * 2 ^ 4) (.remuImm 24 17 37 gd false) ∧
    reads (0x06 * 2 ^ 26 + 0x7 + 24 * 2 ^ 20 + 17 * 2 ^ 14 + 37 * 2 ^ 8 + 1 * 2 ^ 7 + 2 * 2 ^ 4) (.leaImm 24 17 37 gd false) := by decide

theorem test_decode_major_07 :
    reads (0x07 * 2 ^ 26 + 24 * 2 ^ 20 + 18 * 2 ^ 14 + 44 * 2 ^ 8 + 1 * 2 ^ 7 + 2 * 2 ^ 4) (.add64 24 18 44 gd false) ∧
    reads (0x07 * 2 ^ 26 + 0x1 + 24 * 2 ^ 20 + 18 * 2 ^ 14 + 44 * 2 ^ 8 + 1 * 2 ^ 7 + 2 * 2 ^ 4) (.sub64 24 18 44 gd false) ∧
    reads (0x07 * 2 ^ 26 + 0x2 + 24 * 2 ^ 20 + 18 * 2 ^ 14 + 43 * 2 ^ 8 + 1 * 2 ^ 7 + 2 * 2 ^ 4) (.shl64 24 18 43 gd false) ∧
    reads (0x07 * 2 ^ 26 + 0x3 + 24 * 2 ^ 20 + 18 * 2 ^ 14 + 43 * 2 ^ 8 + 1 * 2 ^ 7 + 2 * 2 ^ 4) (.shr64 24 18 43 gd false) := by decide

theorem test_decode_major_08 :
    reads (0x08 * 2 ^ 26 + 24 * 2 ^ 20 + 18 * 2 ^ 14 + 37 * 2 ^ 8 + 1 * 2 ^ 7 + 2 * 2 ^ 4) (.add64Imm 24 18 37 gd false) ∧
    reads (0x08 * 2 ^ 26 + 0x1 + 24 * 2 ^ 20 + 18 * 2 ^ 14 + 37 * 2 ^ 8 + 1 * 2 ^ 7 + 2 * 2 ^ 4) (.sub64Imm 24 18 37 gd false) ∧
    reads (0x08 * 2 ^ 26 + 0x2 + 24 * 2 ^ 20 + 18 * 2 ^ 14 + 37 * 2 ^ 8 + 1 * 2 ^ 7 + 2 * 2 ^ 4) (.shl64Imm 24 18 37 gd false) ∧
    reads (0x08 * 2 ^ 26 + 0x3 + 24 * 2 ^ 20 + 18 * 2 ^ 14 + 37 * 2 ^ 8 + 1 * 2 ^ 7 + 2 * 2 ^ 4) (.shr64Imm 24 18 37 gd false) := by decide

theorem test_decode_major_09 :
    reads (0x09 * 2 ^ 26 + 24 * 2 ^ 20 + 17 * 2 ^ 14 + 1 * 2 ^ 7 + 2 * 2 ^ 4) (.mov 24 17 gd false) ∧
    reads (0x09 * 2 ^ 26 + 0x1 + 24 * 2 ^ 20 + 17 * 2 ^ 14 + 1 * 2 ^ 7 + 2 * 2 ^ 4) (.clz 24 17 gd false) ∧
    reads (0x09 * 2 ^ 26 + 0x2 + 24 * 2 ^ 20 + 17 * 2 ^ 14 + 1 * 2 ^ 7 + 2 * 2 ^ 4) (.popc 24 17 gd false) ∧
    reads (0x09 * 2 ^ 26 + 0x3 + 24 * 2 ^ 20 + 17 * 2 ^ 14 + 1 * 2 ^ 7 + 2 * 2 ^ 4) (.brev 24 17 gd false) ∧
    reads (0x09 * 2 ^ 26 + 0x4 + 24 * 2 ^ 20 + 17 * 2 ^ 14 + 42 * 2 ^ 8 + 1 * 2 ^ 7 + 2 * 2 ^ 4) (.bfx 24 17 42 gd false) ∧
    reads (0x09 * 2 ^ 26 + 0x5 + 24 * 2 ^ 20 + 17 * 2 ^ 14 + 42 * 2 ^ 8 + 1 * 2 ^ 7 + 2 * 2 ^ 4) (.bfxu 24 17 42 gd false) ∧
    reads (0x09 * 2 ^ 26 + 0x6 + 24 * 2 ^ 20 + 17 * 2 ^ 14 + 42 * 2 ^ 8 + 1 * 2 ^ 7 + 2 * 2 ^ 4) (.bfi 24 17 42 gd false) := by decide

theorem test_decode_major_0A :
    reads (0x0A * 2 ^ 26 + 24 * 2 ^ 20 + 37 * 2 ^ 8 + 1 * 2 ^ 7 + 2 * 2 ^ 4) (.movi 24 37 gd false) ∧
    reads (0x0A * 2 ^ 26 + 0x4 + 24 * 2 ^ 20 + 17 * 2 ^ 14 + 37 * 2 ^ 8 + 1 * 2 ^ 7 + 2 * 2 ^ 4) (.bfxImm 24 17 37 gd false) ∧
    reads (0x0A * 2 ^ 26 + 0x5 + 24 * 2 ^ 20 + 17 * 2 ^ 14 + 37 * 2 ^ 8 + 1 * 2 ^ 7 + 2 * 2 ^ 4) (.bfxuImm 24 17 37 gd false) ∧
    reads (0x0A * 2 ^ 26 + 0x6 + 24 * 2 ^ 20 + 17 * 2 ^ 14 + 37 * 2 ^ 8 + 1 * 2 ^ 7 + 2 * 2 ^ 4) (.bfiImm 24 17 37 gd false) := by decide

theorem test_decode_major_0B :
    reads (0x0B * 2 ^ 26 + 24 * 2 ^ 20 + 17 * 2 ^ 14 + 42 * 2 ^ 8 + 1 * 2 ^ 7 + 2 * 2 ^ 4 + 5) (.sel 24 17 42 gd false 5) := by decide

theorem test_decode_major_0C :
    reads (0x0C * 2 ^ 26 + 8 * 2 ^ 22 + 17 * 2 ^ 14 + 42 * 2 ^ 8 + 1 * 2 ^ 7 + 2 * 2 ^ 4 + 3) (.cmp .gtu 17 42 gd false 3) ∧
    reads (0x0C * 2 ^ 26 + 0x200000 + 8 * 2 ^ 22 + 17 * 2 ^ 14 + 37 * 2 ^ 8 + 1 * 2 ^ 7 + 2 * 2 ^ 4 + 3) (.cmpImm .gtu 17 37 gd false 3) := by decide

theorem test_decode_major_0D :
    reads (0x0D * 2 ^ 26 + 6 * 2 ^ 22 + 17 * 2 ^ 14 + 42 * 2 ^ 8 + 1 * 2 ^ 7 + 2 * 2 ^ 4 + 3) (.fcmp .un 17 42 gd false 3) ∧
    reads (0x0D * 2 ^ 26 + 0x200000 + 6 * 2 ^ 22 + 17 * 2 ^ 14 + 37 * 2 ^ 8 + 1 * 2 ^ 7 + 2 * 2 ^ 4 + 3) (.fcmpImm .un 17 37 gd false 3) ∧
    reads (0x0D * 2 ^ 26 + 0x100000 + 6 * 2 ^ 22 + 18 * 2 ^ 14 + 44 * 2 ^ 8 + 1 * 2 ^ 7 + 2 * 2 ^ 4 + 3) (.dcmp .un 18 44 gd 3) := by decide

theorem test_decode_major_0E :
    reads (0x0E * 2 ^ 26 + 3 * 2 ^ 21 + 1 * 2 ^ 20 + 5 * 2 ^ 15 + 6 * 2 ^ 9 + 1 * 2 ^ 8 + 1 * 2 ^ 7 + 2 * 2 ^ 4) (.pand 3 true 5 false 6 true gd) ∧
    reads (0x0E * 2 ^ 26 + 0x1 + 3 * 2 ^ 21 + 1 * 2 ^ 20 + 5 * 2 ^ 15 + 6 * 2 ^ 9 + 1 * 2 ^ 8 + 1 * 2 ^ 7 + 2 * 2 ^ 4) (.por 3 true 5 false 6 true gd) ∧
    reads (0x0E * 2 ^ 26 + 0x2 + 3 * 2 ^ 21 + 1 * 2 ^ 20 + 5 * 2 ^ 15 + 6 * 2 ^ 9 + 1 * 2 ^ 8 + 1 * 2 ^ 7 + 2 * 2 ^ 4) (.pxor 3 true 5 false 6 true gd) ∧
    reads (0x0E * 2 ^ 26 + 0x3 + 3 * 2 ^ 21 + 1 * 2 ^ 20 + 5 * 2 ^ 15 + 1 * 2 ^ 7 + 2 * 2 ^ 4) (.pnot 3 true 5 false gd) := by decide

theorem test_decode_major_0F :
    reads (0x0F * 2 ^ 26 + 24 * 2 ^ 20 + 17 * 2 ^ 14 + 42 * 2 ^ 8 + 1 * 2 ^ 7 + 2 * 2 ^ 4) (.shfl 24 17 42 gd) ∧
    reads (0x0F * 2 ^ 26 + 0x1 + 24 * 2 ^ 20 + 17 * 2 ^ 14 + 42 * 2 ^ 8 + 1 * 2 ^ 7 + 2 * 2 ^ 4) (.bcast 24 17 42 gd) ∧
    reads (0x0F * 2 ^ 26 + 0x2 + 24 * 2 ^ 20 + 17 * 2 ^ 14 + 13 * 2 ^ 8 + 1 * 2 ^ 7 + 2 * 2 ^ 4) (.rdlane 24 17 13 gd) ∧
    reads (0x0F * 2 ^ 26 + 0x3 + 24 * 2 ^ 20 + 19 * 2 ^ 14 + 14 * 2 ^ 8 + 1 * 2 ^ 7 + 2 * 2 ^ 4) (.wrlane 24 19 14 gd) ∧
    reads (0x0F * 2 ^ 26 + 0x4 + 24 * 2 ^ 20 + 17 * 2 ^ 14 + 3 * 2 ^ 8 + 1 * 2 ^ 7 + 2 * 2 ^ 4) (.redl 24 17 .minu gd) ∧
    reads (0x0F * 2 ^ 26 + 0x5 + 24 * 2 ^ 20 + 17 * 2 ^ 14 + 1 * 2 ^ 13 + 10 * 2 ^ 8 + 1 * 2 ^ 7 + 2 * 2 ^ 4) (.scanl 24 17 true .fmax gd) := by decide

theorem test_decode_major_10 :
    reads (0x10 * 2 ^ 26 + 24 * 2 ^ 20 + 17 * 2 ^ 14 + 37 * 2 ^ 8 + 1 * 2 ^ 7 + 2 * 2 ^ 4) (.shflImm 24 17 37 gd) ∧
    reads (0x10 * 2 ^ 26 + 0x1 + 24 * 2 ^ 20 + 17 * 2 ^ 14 + 37 * 2 ^ 8 + 1 * 2 ^ 7 + 2 * 2 ^ 4) (.bcastImm 24 17 37 gd) ∧
    reads (0x10 * 2 ^ 26 + 0x2 + 24 * 2 ^ 20 + 17 * 2 ^ 14 + 37 * 2 ^ 8 + 1 * 2 ^ 7 + 2 * 2 ^ 4) (.rdlaneImm 24 17 37 gd) ∧
    reads (0x10 * 2 ^ 26 + 0x3 + 24 * 2 ^ 20 + 19 * 2 ^ 14 + 37 * 2 ^ 8 + 1 * 2 ^ 7 + 2 * 2 ^ 4) (.wrlaneImm 24 19 37 gd) := by decide

theorem test_decode_major_11 :
    reads (0x11 * 2 ^ 26 + 5 * 2 ^ 20 + 5 * 2 ^ 14 + 2 * 2 ^ 8 + 1 * 2 ^ 7 + 2 * 2 ^ 4) (.vote 5 5 .uni gd) ∧
    reads (0x11 * 2 ^ 26 + 0x1 + 24 * 2 ^ 20 + 5 * 2 ^ 14 + 1 * 2 ^ 8 + 1 * 2 ^ 7 + 2 * 2 ^ 4) (.popm 24 5 .below gd) ∧
    reads (0x11 * 2 ^ 26 + 0x2 + 3 * 2 ^ 20 + 1 * 2 ^ 7 + 2 * 2 ^ 4) (.elect 3 gd) := by decide

theorem test_decode_major_12 :
    reads (0x12 * 2 ^ 26 + 24 * 2 ^ 20 + 17 * 2 ^ 14 + 42 * 2 ^ 8 + 1 * 2 ^ 7 + 2 * 2 ^ 4) (.fadd 24 17 42 gd false) ∧
    reads (0x12 * 2 ^ 26 + 0x1 + 24 * 2 ^ 20 + 17 * 2 ^ 14 + 42 * 2 ^ 8 + 1 * 2 ^ 7 + 2 * 2 ^ 4) (.fsub 24 17 42 gd false) ∧
    reads (0x12 * 2 ^ 26 + 0x2 + 24 * 2 ^ 20 + 17 * 2 ^ 14 + 42 * 2 ^ 8 + 1 * 2 ^ 7 + 2 * 2 ^ 4) (.fmul 24 17 42 gd false) ∧
    reads (0x12 * 2 ^ 26 + 0x3 + 24 * 2 ^ 20 + 17 * 2 ^ 14 + 42 * 2 ^ 8 + 1 * 2 ^ 7 + 2 * 2 ^ 4) (.ffma 24 17 42 gd false) ∧
    reads (0x12 * 2 ^ 26 + 0x4 + 24 * 2 ^ 20 + 17 * 2 ^ 14 + 42 * 2 ^ 8 + 1 * 2 ^ 7 + 2 * 2 ^ 4) (.fmin 24 17 42 gd false) ∧
    reads (0x12 * 2 ^ 26 + 0x5 + 24 * 2 ^ 20 + 17 * 2 ^ 14 + 42 * 2 ^ 8 + 1 * 2 ^ 7 + 2 * 2 ^ 4) (.fmax 24 17 42 gd false) ∧
    reads (0x12 * 2 ^ 26 + 0x6 + 24 * 2 ^ 20 + 17 * 2 ^ 14 + 42 * 2 ^ 8 + 1 * 2 ^ 7 + 2 * 2 ^ 4) (.fscale 24 17 42 gd false) := by decide

theorem test_decode_major_13 :
    reads (0x13 * 2 ^ 26 + 24 * 2 ^ 20 + 17 * 2 ^ 14 + 37 * 2 ^ 8 + 1 * 2 ^ 7 + 2 * 2 ^ 4) (.faddImm 24 17 37 gd false) ∧
    reads (0x13 * 2 ^ 26 + 0x1 + 24 * 2 ^ 20 + 17 * 2 ^ 14 + 37 * 2 ^ 8 + 1 * 2 ^ 7 + 2 * 2 ^ 4) (.fsubImm 24 17 37 gd false) ∧
    reads (0x13 * 2 ^ 26 + 0x2 + 24 * 2 ^ 20 + 17 * 2 ^ 14 + 37 * 2 ^ 8 + 1 * 2 ^ 7 + 2 * 2 ^ 4) (.fmulImm 24 17 37 gd false) ∧
    reads (0x13 * 2 ^ 26 + 0x3 + 24 * 2 ^ 20 + 17 * 2 ^ 14 + 37 * 2 ^ 8 + 1 * 2 ^ 7 + 2 * 2 ^ 4) (.ffmaImm 24 17 37 gd false) ∧
    reads (0x13 * 2 ^ 26 + 0x4 + 24 * 2 ^ 20 + 17 * 2 ^ 14 + 37 * 2 ^ 8 + 1 * 2 ^ 7 + 2 * 2 ^ 4) (.fminImm 24 17 37 gd false) ∧
    reads (0x13 * 2 ^ 26 + 0x5 + 24 * 2 ^ 20 + 17 * 2 ^ 14 + 37 * 2 ^ 8 + 1 * 2 ^ 7 + 2 * 2 ^ 4) (.fmaxImm 24 17 37 gd false) ∧
    reads (0x13 * 2 ^ 26 + 0x6 + 24 * 2 ^ 20 + 17 * 2 ^ 14 + 37 * 2 ^ 8 + 1 * 2 ^ 7 + 2 * 2 ^ 4) (.fscaleImm 24 17 37 gd false) := by decide

theorem test_decode_major_14 :
    reads (0x14 * 2 ^ 26 + 24 * 2 ^ 20 + 17 * 2 ^ 14 + 1 * 2 ^ 7 + 2 * 2 ^ 4) (.frcpe 24 17 gd false) ∧
    reads (0x14 * 2 ^ 26 + 0x1 + 24 * 2 ^ 20 + 17 * 2 ^ 14 + 1 * 2 ^ 7 + 2 * 2 ^ 4) (.frsqe 24 17 gd false) ∧
    reads (0x14 * 2 ^ 26 + 0x2 + 24 * 2 ^ 20 + 17 * 2 ^ 14 + 1 * 2 ^ 7 + 2 * 2 ^ 4) (.frnd 24 17 gd false) ∧
    reads (0x14 * 2 ^ 26 + 0x3 + 24 * 2 ^ 20 + 17 * 2 ^ 14 + 1 * 2 ^ 7 + 2 * 2 ^ 4) (.fclass 24 17 gd false) := by decide

theorem test_decode_major_15 :
    reads (0x15 * 2 ^ 26 + 24 * 2 ^ 20 + 18 * 2 ^ 14 + 44 * 2 ^ 8 + 1 * 2 ^ 7 + 2 * 2 ^ 4) (.dadd 24 18 44 gd) ∧
    reads (0x15 * 2 ^ 26 + 0x1 + 24 * 2 ^ 20 + 18 * 2 ^ 14 + 44 * 2 ^ 8 + 1 * 2 ^ 7 + 2 * 2 ^ 4) (.dsub 24 18 44 gd) ∧
    reads (0x15 * 2 ^ 26 + 0x2 + 24 * 2 ^ 20 + 18 * 2 ^ 14 + 44 * 2 ^ 8 + 1 * 2 ^ 7 + 2 * 2 ^ 4) (.dmul 24 18 44 gd) ∧
    reads (0x15 * 2 ^ 26 + 0x3 + 24 * 2 ^ 20 + 18 * 2 ^ 14 + 44 * 2 ^ 8 + 1 * 2 ^ 7 + 2 * 2 ^ 4) (.dfma 24 18 44 gd) ∧
    reads (0x15 * 2 ^ 26 + 0x4 + 24 * 2 ^ 20 + 18 * 2 ^ 14 + 44 * 2 ^ 8 + 1 * 2 ^ 7 + 2 * 2 ^ 4) (.dmin 24 18 44 gd) ∧
    reads (0x15 * 2 ^ 26 + 0x5 + 24 * 2 ^ 20 + 18 * 2 ^ 14 + 44 * 2 ^ 8 + 1 * 2 ^ 7 + 2 * 2 ^ 4) (.dmax 24 18 44 gd) := by decide

theorem test_decode_major_16 :
    reads (0x16 * 2 ^ 26 + 24 * 2 ^ 20 + 17 * 2 ^ 14 + 42 * 2 ^ 8 + 1 * 2 ^ 7 + 2 * 2 ^ 4) (.hadd2F16 24 17 42 gd) ∧
    reads (0x16 * 2 ^ 26 + 0x1 + 24 * 2 ^ 20 + 17 * 2 ^ 14 + 42 * 2 ^ 8 + 1 * 2 ^ 7 + 2 * 2 ^ 4) (.hmul2F16 24 17 42 gd) ∧
    reads (0x16 * 2 ^ 26 + 0x2 + 24 * 2 ^ 20 + 17 * 2 ^ 14 + 42 * 2 ^ 8 + 1 * 2 ^ 7 + 2 * 2 ^ 4) (.hfma2F16 24 17 42 gd) ∧
    reads (0x16 * 2 ^ 26 + 0x4 + 24 * 2 ^ 20 + 17 * 2 ^ 14 + 42 * 2 ^ 8 + 1 * 2 ^ 7 + 2 * 2 ^ 4) (.hadd2Bf16 24 17 42 gd) ∧
    reads (0x16 * 2 ^ 26 + 0x5 + 24 * 2 ^ 20 + 17 * 2 ^ 14 + 42 * 2 ^ 8 + 1 * 2 ^ 7 + 2 * 2 ^ 4) (.hmul2Bf16 24 17 42 gd) ∧
    reads (0x16 * 2 ^ 26 + 0x6 + 24 * 2 ^ 20 + 17 * 2 ^ 14 + 42 * 2 ^ 8 + 1 * 2 ^ 7 + 2 * 2 ^ 4) (.hfma2Bf16 24 17 42 gd) := by decide

theorem test_decode_major_17 :
    reads (0x17 * 2 ^ 26 + 24 * 2 ^ 20 + 18 * 2 ^ 14 + 15 * 2 ^ 8 + 1 * 2 ^ 7 + 2 * 2 ^ 4 + 4) (.cvt 24 18 .f64 gd .i16) := by decide

theorem test_decode_major_18 :
    reads (0x18 * 2 ^ 26 + 24 * 2 ^ 20 + 17 * 2 ^ 14 + 12 * 2 ^ 8 + 1 * 2 ^ 7 + 2 * 2 ^ 4 + 11) (.cvtsr 24 17 12 gd .e5m2) := by decide

theorem test_decode_major_19 :
    reads (0x19 * 2 ^ 26 + 24 * 2 ^ 20 + 18 * 2 ^ 14 + 44 * 2 ^ 8 + 1 * 2 ^ 7 + 2 * 2 ^ 4 + 10) (.pack8 24 18 44 gd .e4m3) := by decide

theorem test_decode_major_1A :
    reads (0x1A * 2 ^ 26 + 20 * 2 ^ 20 + 17 * 2 ^ 14 + 1 * 2 ^ 7 + 2 * 2 ^ 4 + 3) (.unpk8 20 17 gd .ui8) := by decide

theorem test_decode_major_1B :
    reads (0x1B * 2 ^ 26 + 24 * 2 ^ 20 + 20 * 2 ^ 14 + 44 * 2 ^ 8 + 1 * 2 ^ 7 + 2 * 2 ^ 4 + 9) (.pack4 24 20 44 gd .e2m1) := by decide

theorem test_decode_major_1C :
    reads (0x1C * 2 ^ 26 + 24 * 2 ^ 20 + 17 * 2 ^ 14 + 1 * 2 ^ 7 + 2 * 2 ^ 4) (.unpk4 24 17 gd .i4) := by decide

theorem test_decode_major_1D :
    reads (0x1D * 2 ^ 26 + 1 * 2 ^ 22 + 11 * 2 ^ 16 + 9 * 2 ^ 10 + 37 * 2 ^ 4 + 2) (.lds .task 11 9 37 .i8) := by decide

theorem test_decode_major_1E :
    reads (0x1E * 2 ^ 26 + 2 * 2 ^ 24 + 11 * 2 ^ 16 + 9 * 2 ^ 10 + 37 * 2 ^ 4 + 13) (.sts .sum .party 11 9 37 .bf16) := by decide

theorem test_decode_major_1F :
    reads (0x1F * 2 ^ 26 + 2 * 2 ^ 23 + 17 * 2 ^ 14 + 37 * 2 ^ 8 + 1 * 2 ^ 7 + 2 * 2 ^ 4 + 1 * 2 ^ 2) (.watch .ze 17 37 gd .task) ∧
    reads (0x1F * 2 ^ 26 + 0x1 + 24 * 2 ^ 20 + 17 * 2 ^ 14 + 37 * 2 ^ 8 + 1 * 2 ^ 7 + 2 * 2 ^ 4 + 1 * 2 ^ 2) (.pres 24 17 37 gd .task) ∧
    reads (0x1F * 2 ^ 26 + 0x2 + 24 * 2 ^ 20 + 17 * 2 ^ 14 + 37 * 2 ^ 8 + 1 * 2 ^ 7 + 2 * 2 ^ 4) (.absa 24 17 37 gd) ∧
    reads (0x1F * 2 ^ 26 + 0x7 + 24 * 2 ^ 20 + 17 * 2 ^ 14 + 37 * 2 ^ 8 + 1 * 2 ^ 7 + 2 * 2 ^ 4) (.rela 24 17 37 gd) := by decide

theorem test_decode_major_20 :
    reads (0x20 * 2 ^ 26 + 2 * 2 ^ 26 + 24 * 2 ^ 20 + 17 * 2 ^ 14 + 37 * 2 ^ 8 + 1 * 2 ^ 7 + 2 * 2 ^ 4 + 15) (.ld .immutable 24 17 37 gd .f64) := by decide

theorem test_decode_major_24 :
    reads (0x24 * 2 ^ 26 + 1 * 2 ^ 26 + 24 * 2 ^ 20 + 17 * 2 ^ 14 + 37 * 2 ^ 8 + 1 * 2 ^ 7 + 2 * 2 ^ 4 + 5) (.stP .any 24 17 37 gd .ui16) := by decide

theorem test_decode_major_28 :
    reads (0x28 * 2 ^ 26 + 2 * 2 ^ 26 + 24 * 2 ^ 20 + 17 * 2 ^ 14 + 37 * 2 ^ 8 + 1 * 2 ^ 7 + 2 * 2 ^ 4 + 14) (.stG .sum 24 17 37 gd .f32) := by decide

theorem test_decode_major_2C :
    reads (0x2C * 2 ^ 26 + 3 * 2 ^ 26 + 24 * 2 ^ 20 + 17 * 2 ^ 14 + 37 * 2 ^ 8 + 1 * 2 ^ 7 + 2 * 2 ^ 4 + 6) (.stK .flt 24 17 37 gd .i32) := by decide

theorem test_decode_major_30 :
    reads (0x30 * 2 ^ 26 + 45 * 2 ^ 20 + 12 * 2 ^ 14 + 2 * 2 ^ 12 + 13 * 2 ^ 8 + 1 * 2 ^ 7 + 2 * 2 ^ 4 + 1 * 2 ^ 1) (.mldw 45 12 .immutable .bf16 gd true) ∧
    reads (0x30 * 2 ^ 26 + 0x4 + 45 * 2 ^ 20 + 12 * 2 ^ 14 + 1 * 2 ^ 12 + 10 * 2 ^ 8 + 1 * 2 ^ 7 + 2 * 2 ^ 4 + 1 * 2 ^ 1) (.mldwS 45 12 .task .e4m3 gd true) ∧
    reads (0x30 * 2 ^ 26 + 0x8 + 45 * 2 ^ 20 + 12 * 2 ^ 14 + 11 * 2 ^ 8 + 1 * 2 ^ 7 + 2 * 2 ^ 4 + 1 * 2 ^ 1 + 1) (.mma 45 12 .party .e5m2 gd true true) ∧
    reads (0x30 * 2 ^ 26 + 0xC + 45 * 2 ^ 20 + 12 * 2 ^ 14 + 2 * 2 ^ 12 + 11 * 2 ^ 8 + 1 * 2 ^ 7 + 2 * 2 ^ 4 + 1 * 2 ^ 1 + 1) (.mmas 45 12 .immutable .e5m2 gd true true) := by decide

theorem test_decode_major_31 :
    reads (0x31 * 2 ^ 26 + 45 * 2 ^ 20 + 16 * 2 ^ 14 + 1 * 2 ^ 12 + 14 * 2 ^ 8 + 1 * 2 ^ 7 + 2 * 2 ^ 4 + 1 * 2 ^ 1 + 1) (.mdrn 45 16 .task .f32 gd true true) ∧
    reads (0x31 * 2 ^ 26 + 0x4 + 1 * 2 ^ 20 + 1 * 2 ^ 7 + 2 * 2 ^ 4 + 1 * 2 ^ 1) (.mzero true gd true) ∧
    reads (0x31 * 2 ^ 26 + 0x8 + 45 * 2 ^ 20 + 12 * 2 ^ 14 + 37 * 2 ^ 8 + 1 * 2 ^ 7 + 2 * 2 ^ 4 + 1 * 2 ^ 1) (.trd 45 12 37 gd true false) ∧
    reads (0x31 * 2 ^ 26 + 0xC + 45 * 2 ^ 20 + 12 * 2 ^ 14 + 37 * 2 ^ 8 + 1 * 2 ^ 7 + 2 * 2 ^ 4 + 1 * 2 ^ 1) (.twr 45 12 37 gd true false) := by decide

theorem test_decode_major_32 :
    reads (0x32 * 2 ^ 26 + 17 * 2 ^ 14 + 37 * 2 ^ 8 + 1 * 2 ^ 7 + 2 * 2 ^ 4 + 2 * 2 ^ 2) (.copy 17 37 gd .immutable) ∧
    reads (0x32 * 2 ^ 26 + 0x800000 + 24 * 2 ^ 14 + 1 * 2 ^ 7 + 2 * 2 ^ 4) (.cpys 24 gd) ∧
    reads (0x32 * 2 ^ 26 + 0x1000000 + 17 * 2 ^ 14 + 37 * 2 ^ 8 + 1 * 2 ^ 7 + 2 * 2 ^ 4 + 1 * 2 ^ 2) (.brd 17 37 gd .task) ∧
    reads (0x32 * 2 ^ 26 + 0x1800000 + 17 * 2 ^ 14 + 37 * 2 ^ 8 + 1 * 2 ^ 7 + 2 * 2 ^ 4 + 2 * 2 ^ 2) (.brdi 17 37 gd .immutable) ∧
    reads (0x32 * 2 ^ 26 + 0x2000000 + 1 * 2 ^ 7 + 2 * 2 ^ 4) (.hend gd) := by decide

theorem test_decode_major_33 :
    reads (0x33 * 2 ^ 26 + 24 * 2 ^ 20 + 17 * 2 ^ 14 + 11 * 2 ^ 10 + 1 * 2 ^ 9 + 1 * 2 ^ 7 + 2 * 2 ^ 4 + 10) (.tq 24 17 11 true gd .e4m3) ∧
    reads (0x33 * 2 ^ 26 + 0x100 + 16 * 2 ^ 20 + 17 * 2 ^ 14 + 11 * 2 ^ 10 + 1 * 2 ^ 9 + 1 * 2 ^ 7 + 2 * 2 ^ 4 + 4) (.tqb 16 17 11 true gd .i16) := by decide

theorem test_decode_major_34 :
    reads (0x34 * 2 ^ 26 + 1 * 2 ^ 25 + 2 * 2 ^ 22 + 74565) (.bra gd 74565) := by decide

theorem test_decode_major_35 :
    reads (0x35 * 2 ^ 26 + 74565) (.jmp 74565) := by decide

theorem test_decode_major_36 :
    reads (0x36 * 2 ^ 26 + 74565) (.call 74565) := by decide

theorem test_decode_major_37 :
    reads (0x37 * 2 ^ 26 + 6 * 2 ^ 23 + 1 * 2 ^ 22 + 2 * 2 ^ 19 + 74565) (.split 6 gd 74565) := by decide

theorem test_decode_major_38 :
    reads (0x38 * 2 ^ 26 + 1 * 2 ^ 7 + 2 * 2 ^ 4) (.nop gd) ∧
    reads (0x38 * 2 ^ 26 + 0x1 + 19 * 2 ^ 14 + 37 * 2 ^ 8 + 1 * 2 ^ 7 + 2 * 2 ^ 4) (.jmpr 19 37 gd) ∧
    reads (0x38 * 2 ^ 26 + 0x2 + 19 * 2 ^ 14 + 1 * 2 ^ 7 + 2 * 2 ^ 4) (.ret 19 gd) ∧
    reads (0x38 * 2 ^ 26 + 0x3 + 6 * 2 ^ 20 + 1 * 2 ^ 7 + 2 * 2 ^ 4) (.join 6 gd) ∧
    reads (0x38 * 2 ^ 26 + 0x4 + 5 * 2 ^ 20 + 18 * 2 ^ 14 + 3 * 2 ^ 8 + 1 * 2 ^ 7 + 2 * 2 ^ 4) (.jmov 5 18 .js gd) ∧
    reads (0x38 * 2 ^ 26 + 0x5 + 1 * 2 ^ 7 + 2 * 2 ^ 4) (.pace gd) ∧
    reads (0x38 * 2 ^ 26 + 0x6 + 37 * 2 ^ 8 + 1 * 2 ^ 7 + 2 * 2 ^ 4) (.pacen 37 gd) ∧
    reads (0x38 * 2 ^ 26 + 0x7 + 17 * 2 ^ 14 + 1 * 2 ^ 7 + 2 * 2 ^ 4) (.reform 17 gd) ∧
    reads (0x38 * 2 ^ 26 + 0x107 + 1 * 2 ^ 7 + 2 * 2 ^ 4) (.reformNext gd) ∧
    reads (0x38 * 2 ^ 26 + 0x8 + 1 * 2 ^ 7 + 2 * 2 ^ 4) (.exit gd) ∧
    reads (0x38 * 2 ^ 26 + 0x9 + 37 * 2 ^ 8 + 1 * 2 ^ 7 + 2 * 2 ^ 4) (.trap 37 gd) ∧
    reads (0x38 * 2 ^ 26 + 0xA + 37 * 2 ^ 8 + 1 * 2 ^ 7 + 2 * 2 ^ 4) (.bkpt 37 gd) := by decide

theorem test_decode_major_39 :
    reads (0x39 * 2 ^ 26 + 22 * 2 ^ 20 + 17 * 2 ^ 14 + 2 * 2 ^ 8 + 1 * 2 ^ 7 + 2 * 2 ^ 4) (.enq 22 17 .immutable gd) ∧
    reads (0x39 * 2 ^ 26 + 0x1 + 22 * 2 ^ 20 + 37 * 2 ^ 8 + 1 * 2 ^ 7 + 2 * 2 ^ 4) (.deq 22 37 gd) ∧
    reads (0x39 * 2 ^ 26 + 0x2 + 22 * 2 ^ 20 + 16 * 2 ^ 14 + 1 * 2 ^ 7 + 2 * 2 ^ 4) (.depdEdge 22 16 gd) ∧
    reads (0x39 * 2 ^ 26 + 0x102 + 22 * 2 ^ 20 + 15 * 2 ^ 14 + 1 * 2 ^ 7 + 2 * 2 ^ 4) (.depdRel 22 15 gd) := by decide

theorem test_decode_major_3A :
    reads (0x3A * 2 ^ 26 + 24 * 2 ^ 20 + 49 * 2 ^ 8 + 1 * 2 ^ 7 + 2 * 2 ^ 4) (.srd 24 49 gd) ∧
    reads (0x3A * 2 ^ 26 + 0x1 + 24 * 2 ^ 20 + 48 * 2 ^ 8 + 1 * 2 ^ 7 + 2 * 2 ^ 4) (.swr 24 48 gd) ∧
    reads (0x3A * 2 ^ 26 + 0x2 + 1 * 2 ^ 7 + 2 * 2 ^ 4) (.rte gd) ∧
    reads (0x3A * 2 ^ 26 + 0x3 + 1 * 2 ^ 7 + 2 * 2 ^ 4) (.icinv gd) := by decide

theorem test_decode_major_3C :
    reads (0x3C * 2 ^ 26 + 1 * 2 ^ 24 + 1 * 2 ^ 23) (.hint 1 true false) := by decide

theorem test_decode_major_3D :
    reads (0x3D * 2 ^ 26 + 1 * 2 ^ 24 + 1 * 2 ^ 23 + 1 * 2 ^ 21 + 1 * 2 ^ 19 + 9 * 2 ^ 15 + 4 * 2 ^ 12 + 1 * 2 ^ 10 + 2 * 2 ^ 8) (.mod { sat := 1, clmp := true, na := false, aa := true, nb := false, ab := true, scl := 9, rm := 4, sa := 1, sb := 2 }) := by decide

theorem test_decode_major_3E :
    reads (0x3E * 2 ^ 26 + 44813807) (.imm 0x2ABCDEF) := by decide

/-! ### Single steps, with results worked out from the rules by hand -/

/-- Registers with the sign bit, -5, 3, 1.0, 3.0 and two halves of 1.0 in every lane. -/
def vT : Vector Word 64 :=
  ((((((Vector.replicate 64 0).set 1 0x80000000).set 2 0xFFFFFFFB).set 3 3).set 4 0x3F800000).set 5 0x40400000).set 6 0x3C003C00
/-- The machine that executes for `pT` with those registers. -/
def sV : State :=
  onto sP { gT with lanes := gT.lanes.map fun x => { x with v := vT } } pT
/-- Register `r` of lane `l` after an instruction. -/
def after (i : Instr) (l r : Nat) : Option Word :=
  match exec i sV with
  | .next t => t.groups.head?.map fun g => laneReg g l r
  | _ => none
/-- Predicate `k` after an instruction. -/
def predAfter (i : Instr) (k : Nat) : Option Mask :=
  match exec i sV with
  | .next t => (t.groups.head?.bind fun g => g.paths.head?).map fun p => p.p[k]?.getD 0
  | _ => none
/-- Where the path is after an instruction. -/
def pcAfter (i : Instr) : Option Word :=
  match exec i sV with
  | .next t => (t.groups.head?.bind fun g => g.paths.head?).map (·.pc)
  | _ => none

theorem test_add_wraps : after (.add 7 2 3 ga false) 7 7 = some 0xFFFFFFFE ∧
    after (.add 7 2 3 gm false) 4 7 = some 0 := by decide +kernel
theorem test_sub_wraps : after (.sub 7 1 3 ga false) 0 7 = some 0x7FFFFFFD := by decide +kernel
theorem test_sub_source_is_destination : after (.sub 3 3 2 ga false) 0 3 = some 8 := by decide +kernel
theorem test_mulhi_is_signed : after (.mulhi 7 1 3 ga false) 0 7 = some 0xFFFFFFFE := by decide +kernel
theorem test_mulhu_is_unsigned : after (.mulhu 7 1 3 ga false) 0 7 = some 1 := by decide +kernel
theorem test_min_is_signed : after (.min 7 1 3 ga false) 0 7 = some 0x80000000 := by decide +kernel
theorem test_minu_is_unsigned : after (.minu 7 1 3 ga false) 0 7 = some 3 := by decide +kernel
theorem test_divs_truncates : after (.divs 7 2 3 ga false) 0 7 = some 0xFFFFFFFF := by decide +kernel
theorem test_rems_takes_the_dividends_sign : after (.rems 7 2 3 ga false) 0 7 = some 0xFFFFFFFE := by decide +kernel
theorem test_divu_is_unsigned : after (.divu 7 1 3 ga false) 0 7 = some 0x2AAAAAAA := by decide +kernel
theorem test_sar_keeps_the_sign : after (.sar 7 1 3 ga false) 0 7 = some 0xF0000000 := by decide +kernel
theorem test_shr_fills_with_zero : after (.shr 7 1 3 ga false) 0 7 = some 0x10000000 := by decide +kernel
theorem test_rol_goes_round : after (.rol 7 1 3 ga false) 0 7 = some 4 := by decide +kernel
theorem test_clz : after (.clz 7 3 ga false) 0 7 = some 30 ∧ after (.clz 7 0 ga false) 0 7 = some 32 := by decide +kernel
theorem test_popc : after (.popc 7 2 ga false) 0 7 = some 31 := by decide +kernel
theorem test_brev : after (.brev 7 3 ga false) 0 7 = some 0xC0000000 := by decide +kernel
theorem test_movi_extends_the_sign : after (.movi 7 0x3F ga false) 0 7 = some 0xFFFFFFFF := by decide +kernel
theorem test_cmp_writes_active_lanes : predAfter (.cmp .lt 2 3 ga false 4) 4 = some 0xFF ∧
    predAfter (.cmp .ltu 2 3 ga false 4) 4 = some 0 := by decide +kernel
theorem test_redl_adds_the_lanes : after (.redl 7 3 .add ga) 5 7 = some 24 := by decide +kernel
theorem test_scanl_adds_up_to_the_lane : after (.scanl 7 3 false .add ga) 2 7 = some 9 := by decide +kernel
theorem test_fadd : after (.fadd 7 4 5 ga false) 0 7 = some 0x40800000 := by decide +kernel
theorem test_fsub_sign : after (.fsub 7 4 5 ga false) 0 7 = some 0xC0000000 := by decide +kernel
theorem test_fmul : after (.fmul 7 5 5 ga false) 0 7 = some 0x41100000 := by decide +kernel
theorem test_fmax : after (.fmax 7 4 5 ga false) 0 7 = some 0x40400000 := by decide +kernel
theorem test_hadd2 : after (.hadd2F16 7 6 6 ga) 0 7 = some 0x40004000 := by decide +kernel
theorem test_jmp_counts_words_from_its_own : pcAfter (.jmp 2) = some 0x1008 := by decide +kernel
theorem test_nop_only_advances : pcAfter (.nop ga) = some 0x1004 := by decide +kernel

/-- `MOVI v7, #5` as it is written from the format table, placed and run as the first instruction after
reset. -/
theorem test_step_movi :
    (match step (State.reset.withFetchWord 32 (0x0A * 2 ^ 26 + 7 * 2 ^ 20 + 5 * 2 ^ 8 + 7 * 2 ^ 4)) with
      | .next t => t.groups.head?.map fun g => (laneReg g 7 7, (g.paths.head?.map (·.pc)).getD 0)
      | _ => none) = some (5, 0x1004) := by decide +kernel
/-! ### The hypotheses of the statements are met -/

theorem test_meets_encodeThenDecode :
    (Instr.fadd 4 2 3 ga false).wf = true ∧ (Instr.fadd 4 2 3 ga false).isWord = true := by decide

theorem test_meets_everyWordHasAtMostOneReading :
    decode 0x48408370 = .ok (.fadd 4 2 3 ga false) ∧ (0x00000070 : Word).extractLsb' 26 6 = 0x00 ∧
    (0x8C000070 : Word).extractLsb' 26 6 = 0x23 ∧ (0xEC000070 : Word).extractLsb' 26 6 = 0x3B ∧
    (0xFC000070 : Word).extractLsb' 26 6 = 0x3F := by decide

/-- The state at the first decision of a placed program. -/
def uP : State := { tick sP with agenda := [] }

theorem test_meets_step_issues :
    sP.agenda = [.issue 0 0] ∧ findGroup uP 0 = some (programGroup 0) ∧
    findPath (programGroup 0) 0 = some (newPath 0 programEntry 8) ∧
    mayIssue uP (programGroup 0) (newPath 0 programEntry 8) = true ∧ inImage uP 0 programEntry = true ∧
    decode (fetchWord uP 0 0 programEntry) = .ok (.nop ga) ∧ prefixOk (newPath 0 programEntry 8) (.nop ga) = true :=
  ⟨rfl, rfl, rfl, by decide, by decide, by decide, by decide⟩

theorem test_meets_step_runs_an_event :
    (State.reset.withFetchWord 32 0).agenda = [.issue 0 0] ∧
    ({ sP with agenda := [.event .bringUp] } : State).agenda = [.event .bringUp] ∧ Instr.bringUp.isWord = false :=
  ⟨rfl, rfl, rfl⟩

theorem test_meets_step_illegal_word :
    let u : State := { tick (placeProgram State.reset 0x8C000070) with agenda := [] }
    mayIssue u (programGroup 0) (newPath 0 programEntry 8) = true ∧ inImage u 0 programEntry = true ∧
    decode (fetchWord u 0 0 programEntry) = .error .major := by decide

theorem test_meets_step_outside_the_image :
    let p : Path := { newPath 0 0x1008 8 with pc := 0x1008 }
    let g : Group := { programGroup 0 with paths := [p] }
    let u : State := { uP with groups := [g] }
    mayIssue u g p = true ∧ inImage u 0 p.pc = false := by decide

/-- A happening, a path that holds the rest of its sequence, and a code burst with an uncorrectable error. -/
theorem test_meets_step_happens_held_bad :
    ({ sP with agenda := [.happen (.upsetEngine 0)] } : State).agenda = [.happen (.upsetEngine 0)] ∧
    (let p : Path := { newPath 0 programEntry 8 with pre := { Prefix.none with rank := 3, start := 0xFFC, words := [0xE0000070] } }
     let g : Group := { programGroup 0 with paths := [p] }
     let u : State := { uP with groups := [g] }
     findGroup u 0 = some g ∧ findPath g 0 = some p ∧ mayIssue u g p = true ∧ (!p.pre.words.isEmpty) = true ∧
       inImage u 0 p.pc = true ∧ decode (p.pre.words.headD 0) = .ok (.nop ga) ∧ prefixOk p (.nop ga) = true) ∧
    (let u : State := { uP with dram.reports := [(0, .uncorrectable)] }
     mayIssue u (programGroup 0) (newPath 0 programEntry 8) = true ∧ inImage u 0 programEntry = true ∧
       codeBad u 0 0 programEntry = true) := by decide

theorem test_meets_stepsKeepTheInvariant : Inv sP ∧ ∃ t, step sP = .next t :=
  ⟨⟨by decide, by decide, by decide, by decide,
    by simp only [show sP.dram.plat = Vector.replicate 16 0 from rfl, Vector.getElem_replicate]; intros; decide,
    by decide⟩, _, rfl⟩

theorem test_meets_partiesStartAllZero : 0 < (programTask 0).decl.width ∧ (programTask 0).decl.width ≤ 64 := by decide

theorem test_meets_operands :
    let p := fun q : Prefix => { pT with pre := q }
    (p { Prefix.none with hi := some 5 }).pre.hi = some 5 ∧ pT.pre.hi = none ∧ pT.pre.mod = none ∧
    ∀ x : BitVec 2, x ≤ 2 → ∃ m, (p { Prefix.none with mod := some m }).pre.mod = some m ∧ m.sa = x ∧ m.sb = x :=
  ⟨rfl, rfl, rfl, fun x _ => ⟨{ m0 with sa := x, sb := x }, rfl, rfl, rfl⟩⟩

theorem test_meets_wordArithmetic : Issuing sT gT pT 0xE0000070 := issuingT rfl
theorem test_meets_division : Issuing sT gT pT 0xE0000070 := issuingT rfl
theorem test_meets_saturatingAndPair : Issuing sT gT pT 0xE0000070 ∧ (modOf pT).sat ≠ 3 := ⟨issuingT rfl, by decide⟩

/-- The scalar `s1` reads 16: 27 leading zeros, one bit, and bit 27 when reversed. -/
theorem test_meets_oneOperand :
    Issuing sT gT pT 0xE0000070 ∧
    (let x := fun l => opA gT pT true 1 l
     (∀ l, (27 : Word).toNat ≤ 32 ∧ (x l).toNat < 2 ^ (32 - (27 : Word).toNat) ∧
       ((27 : Word).toNat < 32 → 2 ^ (31 - (27 : Word).toNat) ≤ (x l).toNat)) ∧
     (∀ l, (1 : Word).toNat = ∑ i ∈ Finset.range 32, ((x l).getLsbD i).toNat) ∧
     ∀ l i, i < 32 → (0x08000000 : Word).getLsbD i = (x l).getLsbD (31 - i)) :=
  ⟨issuingT rfl, fun _ => (by decide : (27 : Word).toNat ≤ 32 ∧ (0x10 : Word).toNat < 2 ^ (32 - (27 : Word).toNat) ∧
      ((27 : Word).toNat < 32 → 2 ^ (31 - (27 : Word).toNat) ≤ (0x10 : Word).toNat)),
    fun _ => (by decide : (1 : Word).toNat = ∑ i ∈ Finset.range 32, ((0x10 : Word).getLsbD i).toNat),
    fun _ => (by decide : ∀ i, i < 32 → (0x08000000 : Word).getLsbD i = (0x10 : Word).getLsbD (31 - i))⟩

/-- A zero has 32 leading zeros. -/
theorem test_meets_clzOfZero :
    let x := fun l => opA gT pT true 0 l
    ∀ l, (32 : Word).toNat ≤ 32 ∧ (x l).toNat < 2 ^ (32 - (32 : Word).toNat) ∧
      ((32 : Word).toNat < 32 → 2 ^ (31 - (32 : Word).toNat) ≤ (x l).toNat) :=
  fun _ => (by decide : (32 : Word).toNat ≤ 32 ∧ (0 : Word).toNat < 2 ^ (32 - (32 : Word).toNat) ∧
      ((32 : Word).toNat < 32 → 2 ^ (31 - (32 : Word).toNat) ≤ (0 : Word).toNat))

/-- With `IMM` the field word is 0x104: position 4, length 4. The field of `s1` there is 1; inserting the low
bits of `s1` into `s2` clears bits 7:4. -/
def pF : Path := { pT with pre := { Prefix.none with rank := 3, start := 0xFFC, hi := some 4 } }

theorem test_meets_bitFields :
    Issuing (forPath pF) (withPaths [pF]) pF 0xE0000070 ∧
    (let x := fun l => opA (withPaths [pF]) pF true 1 l
     let f := immu pF 4
     let pos := (f.extractLsb' 0 5).toNat
     let len := Min.min (Min.min (f.extractLsb' 6 7).toNat 32) (32 - pos)
     (∀ l i, i < 32 → (1 : Word).getLsbD i = (decide (0 < len) && (x l).getLsbD (pos + Min.min i (len - 1)))) ∧
     (∀ l i, i < 32 → (1 : Word).getLsbD i = (decide (i < len) && (x l).getLsbD (pos + i))) ∧
     ∀ l i, i < 32 → (0x0F : Word).getLsbD i = if pos ≤ i ∧ i < pos + len then (x l).getLsbD (i - pos)
       else (regRead (withPaths [pF]) pF true l 2).getLsbD i) :=
  ⟨⟨rfl, rfl, rfl⟩,
    fun _ => (by decide : ∀ i, i < 32 →
      (1 : Word).getLsbD i = (decide (0 < 4) && (0x10 : Word).getLsbD (4 + Min.min i (4 - 1)))),
    fun _ => (by decide : ∀ i, i < 32 → (1 : Word).getLsbD i = (decide (i < 4) && (0x10 : Word).getLsbD (4 + i))),
    fun _ => (by decide : ∀ i, i < 32 → (0x0F : Word).getLsbD i =
      if 4 ≤ i ∧ i < 4 + 4 then (0x10 : Word).getLsbD (i - 4) else (0xFF : Word).getLsbD i)⟩

theorem test_meets_selectAndCompare : Issuing sT gT pT 0xE0000070 ∧ gT.width ≤ 64 := ⟨issuingT rfl, by decide⟩

theorem test_meets_predicateLogicAndVotes :
    Issuing sT gT pT 0xE0000070 ∧ gT.width ≤ 64 ∧
    (let act := fun l => (activeMask pT gm).getLsbD l
     let yes := fun (pa : BitVec 3) l => act l && (predOf pT pa).getLsbD l
     (∃ l, act l = true) ∧
     (true = true ↔ ∀ l, act l = true → yes 7 l = true) ∧ (false = true ↔ ∀ l, act l = true → yes 0 l = true) ∧
     (true = true ↔ ∃ l, yes 0 l = true) ∧
     (true = true ↔ ∀ k l, act k = true → act l = true → yes 7 k = yes 7 l) ∧
     (∀ l, l < 64 → (15 : BitVec 64).getLsbD l = yes 7 l) ∧
     (act 0 = true ∧ ∀ l, act l = true → 0 ≤ l) ∧
     ¬ ∃ l, (activeMask pT gn).getLsbD l = true) := by
  refine ⟨issuingT rfl, by decide, ⟨0, by decide⟩, ?_, ?_, ?_, ?_, by decide, ⟨by decide, fun _ _ => Nat.zero_le _⟩, ?_⟩
  · exact ⟨fun _ => allLanes _ _ (by decide), fun _ => rfl⟩
  · exact ⟨fun h => (nomatch h), fun h => absurd (h 1 (by decide)) (by decide)⟩
  · exact ⟨fun _ => ⟨0, by decide⟩, fun _ => rfl⟩
  · refine ⟨fun _ k l hk hl => ?_, fun _ => rfl⟩
    exact (allLanes (activeMask pT gm) (fun k => ((activeMask pT gm).getLsbD k && (predOf pT 7).getLsbD k) = true)
      (by decide) k hk).trans (allLanes (activeMask pT gm)
        (fun k => ((activeMask pT gm).getLsbD k && (predOf pT 7).getLsbD k) = true) (by decide) l hl).symm
  · rintro ⟨l, h⟩
    exact allLanes (activeMask pT gn) (fun _ => False) (by decide) l h

theorem test_meets_laneMoves :
    Issuing sT gT pT 0xE0000070 ∧ 0 < gT.width ∧ gT.width ≤ 64 ∧ (activeMask pT gm).getLsbD 0 = true ∧
    (∀ l, (activeMask pT gm).getLsbD l = true → 0 ≤ l) ∧ ∀ l, (activeMask pT gn).getLsbD l = false := by
  refine ⟨issuingT rfl, by decide, by decide, by decide, fun _ _ => Nat.zero_le _, fun l => ?_⟩
  exact Bool.eq_false_iff.mpr fun h => allLanes (activeMask pT gn) (fun _ => False) (by decide) l h

/-- With the operator `ADD` no flag is raised anywhere in the trees. -/
theorem test_meets_reductions :
    Issuing sT gT pT 0xE0000070 ∧ gT.width = 2 ^ 3 ∧ gT.lanes.length = gT.width ∧
    (let x := fun k => if (activeMask pT gm).getLsbD k then laneReg gT k 0 else laneIdentity .add
     (∀ i, (0 : Word).getLsbD i = true ↔ ∃ m k, m < 3 ∧ k < gT.width ∧ k % 2 ^ (m + 1) = 0 ∧
       (laneCombine .add (redAt .add x m k) (redAt .add x m (k + 2 ^ m))).2.getLsbD i = true) ∧
     ∀ i, (0 : Word).getLsbD i = true ↔ ∃ m k, m < 3 ∧ 2 ^ m ≤ k ∧ k < gT.width ∧
       (laneCombine .add (scanAt .add x m (k - 2 ^ m)) (scanAt .add x m k)).2.getLsbD i = true) := by
  refine ⟨issuingT rfl, by decide, by decide, fun i => ?_, fun i => ?_⟩ <;> simp [laneCombine]

/-! Numbers -/

theorem q_pos (e : Int) : (0 : ℚ) < (2 : ℚ) ^ e := zpow_pos (by norm_num) e

/-- The largest finite `F32`. -/
theorem maxF32 : (f32.value f32.maxBits).toRat = (2 ^ 24 - 1) * 2 ^ 104 := by
  rw [show f32.value f32.maxBits = .fin false (2 ^ 24 - 1) 104 by decide]
  simp only [FVal.toRat]
  norm_num

/-- 3 rounded toward zero stays below the largest finite number; 2^200 rounded so is above it; a zero is the
case `m = 0`. -/
theorem test_meets_rounding :
    f32 ∈ [e2m1, e4m3, e5m2, f16, bf16, f32, f64] ∧ 0 < 3 ∧
    (let x : ℚ := ((3 : Nat) : ℚ) * (2 : ℚ) ^ (0 : Int)
     let q : ℚ := (2 : ℚ) ^ (max (Int.log 2 x) f32.emin - f32.mant)
     (⌊x / q⌋ : ℚ) * q ≤ (f32.value f32.maxBits).toRat) ∧
    (let x : ℚ := ((1 : Nat) : ℚ) * (2 : ℚ) ^ (200 : Int)
     let q : ℚ := (2 : ℚ) ^ (max (Int.log 2 x) f32.emin - f32.mant)
     (f32.value f32.maxBits).toRat < (⌊x / q⌋ : ℚ) * q) := by
  refine ⟨by decide, by decide, ?_, ?_⟩
  · intro x q
    have hq : 0 < q := q_pos _
    have h := (le_div_iff₀ hq).mp (Int.floor_le (x / q))
    have hx : x = 3 := by simp [x]
    rw [maxF32]
    linarith
  · intro x q
    have hx : x = (2 : ℚ) ^ (200 : Int) := by simp [x]
    have hl : Int.log 2 x = 200 := by rw [hx]; exact Int.log_zpow (b := 2) (by norm_num) 200
    have hq : q = 2 ^ (177 : Int) := by
      simp only [q, hl]
      exact congrArg _ (by decide)
    rw [maxF32, hq, hx, show (2 : ℚ) ^ (200 : Int) / 2 ^ (177 : Int) = ((2 ^ 23 : Int) : ℚ) by norm_num, Int.floor_intCast]
    norm_num

/-- Whatever the mode chooses, one of the two neighbours is the rounded value. -/
theorem test_meets_roundingUp (up : Prop) (a b : ℚ) : ∃ y : ℚ, (up → y = a) ∧ (¬ up → y = b) := by
  by_cases h : up
  · exact ⟨a, fun _ => rfl, fun n => absurd h n⟩
  · exact ⟨b, fun u => absurd u h, fun _ => rfl⟩

/-- One list for each case of R182: a zero beside an infinity, both infinities, a NaN alone, one infinity,
finite values only. -/
theorem test_meets_specialBlocks :
    let z : FVal := .fin false 0 0
    let o : FVal := .fin false 1 0
    let nan := fun xs : List (FVal × FVal) => decide (∃ p ∈ xs, p.1.isNan = true ∨ p.2.isNan = true)
    let zi := fun xs : List (FVal × FVal) =>
      decide (∃ p ∈ xs, (p.1.isZero = true ∧ p.2.isInf = true) ∨ (p.1.isInf = true ∧ p.2.isZero = true))
    let inf := fun (xs : List (FVal × FVal)) (n : Bool) => decide (∃ p ∈ xs, p.1.isNan = false ∧ p.2.isNan = false ∧
      ((p.1.isInf = true ∧ p.2.isZero = false) ∨ (p.2.isInf = true ∧ p.1.isZero = false)) ∧ (p.1.neg != p.2.neg) = n)
    zi [(z, .inf true)] = true ∧
    inf [(o, .inf false), (.inf true, o)] false = true ∧ inf [(o, .inf false), (.inf true, o)] true = true ∧
    nan [(.nan false, o)] = true ∧ zi [(.nan false, o)] = false ∧ inf [(.nan false, o)] true = false ∧
    inf [(o, .inf true)] true = true ∧ inf [(o, .inf true)] false = false ∧ nan [(o, .inf true)] = false ∧
    zi [(o, .inf true)] = false ∧
    nan [(o, o)] = false ∧ zi [(o, o)] = false ∧ (∀ n, inf [(o, o)] n = false) := by decide

theorem test_meets_loadedElements : 255 < 2 ^ 8 ∧ 65535 < 2 ^ 16 ∧ 2 ^ 32 - 1 < 2 ^ 32 ∧ 2 ^ 64 - 1 < 2 ^ 64 := by decide

theorem test_meets_floatOperations :
    let o : FVal := .fin false 1 0
    o.isFin = true ∧ (FVal.fin true 1 0).isFin = true ∧ o.toRat + (FVal.fin true 1 0).toRat = 0 ∧
    zeroTimesInf (.fin true 0 0) (.inf false) = true ∧ zeroTimesInf (.nan true) o = false ∧
    ((FVal.nan true).isNan || o.isNan) = true ∧ o.isZero = false := by
  refine ⟨rfl, rfl, ?_, rfl, rfl, rfl, rfl⟩
  simp [FVal.toRat]

theorem test_meets_floatOrder :
    let o : FVal := .fin false 1 0
    let t : FVal := .fin false 1 1
    o.isFin = true ∧ t.isFin = true ∧ o.toRat < t.toRat ∧ (FVal.fin true 0 0).isZero = true ∧
    (FVal.fin true 0 0).neg = true ∧ (FVal.fin false 0 0).neg = false ∧ o.isNan = false ∧ (FVal.nan false).isNan = true ∧
    Issuing sT gT pT 0xE0000070 ∧ gT.width ≤ 64 := by
  refine ⟨rfl, rfl, ?_, rfl, rfl, rfl, rfl, rfl, issuingT rfl, by decide⟩
  simp only [FVal.toRat]
  norm_num

theorem test_meets_estimates :
    0 < 3 ∧ 2 ^ 32 - 1 < 2 ^ 32 ∧ (f32.value 0x3F800000).isFin = true ∧ (f32.value 0xFF800000).isInf = true := by decide

theorem test_meets_binaryThirtyTwo : Issuing sT gT pT 0xE0000070 := issuingT rfl
theorem test_meets_pairAndPacked : Issuing sT gT pT 0xE0000070 := issuingT rfl

theorem test_meets_conversions :
    Issuing sT gT pT 0xE0000070 ∧ Ty.f64.size = 8 ∧ Ty.i4.size ≠ 8 ∧ fmtOf .f16 = some f16 ∧ fmtOf .i8 = none ∧
    (floatToInt .rtz .i8 (.fin false 3 (-1))).2 = fNX ∧ (floatToInt .rne .ui8 (.fin true 3 0)).2 = fNV ∧
    (floatToInt .rne .i8 (.fin true 3 0)).2 = fNone ∧ m0.sat = 0 := ⟨issuingT rfl, by decide⟩

/-- The operators of R200 on finite values and on NaNs. -/
theorem test_meets_reductionOperators :
    (∃ z fl, fAdd false (f32.value (0x3F800000 : Word).toNat) (f32.value (0x40400000 : Word).toNat) = (z, fl)) ∧
    (f32.value (0x7FC00000 : Word).toNat).isNan = true ∧
    (f32.value (0x3F800000 : Word).toNat).isNan = false ∧ (f32.value (0x40400000 : Word).toNat).isNan = false ∧
    (let u := f32.value (0x3F800000 : Word).toNat
     let v := f32.value (0x40400000 : Word).toNat
     fMinMax false u v = u ∧ fMinMax true u v = v ∧ fMinMax false v u = u ∧ fMinMax true v u = v) :=
  ⟨⟨_, _, rfl⟩, by decide, by decide, by decide, by decide⟩

/-- An infinite product, and the values of a clamped result: a NaN, a negative number, zero, 1 and above 1. -/
theorem test_meets_infinitiesAndClamps :
    fMul (.inf false) (.fin false 1 0) = (.inf false, fNone) ∧
    (let q := fun y : FVal => f32.value (roundTo f32 .rne y).1
     (q (.nan false)).isNan = true ∧ (q (.fin true 1 0)).neg = true ∧ (q (.fin false 0 0)).isZero = true ∧
     (q (.fin false 1 0)).isFin = true ∧ (q (.fin false 1 0)).neg = false ∧ (q (.fin false 1 0)).isZero = false ∧
     q (.inf false) = .inf false ∧ q (.fin false 1 1) = .fin false (2 ^ 23) (-22) ∧
     q (.fin false 1 0) = .fin false (2 ^ 23) (-23)) := by decide

theorem test_meets_clampBounds :
    (FVal.fin false (2 ^ 23) (-23)).toRat ≤ 1 ∧ 1 < (FVal.fin false (2 ^ 23) (-22)).toRat := by
  simp only [FVal.toRat]
  norm_num

/-- The modes name their integers for 5/2; a float and an integer source; `CLMP`, and `SAT` beside a float. -/
theorem test_meets_integerConversions :
    (∀ w, RMode.rne ≠ .sr w) ∧ fmtOf .i8 = none ∧ fmtOf .f16 = some f16 ∧ fmtOf .f32 = some f32 ∧
    m0.sat = 0 ∧ ({ m0 with sat := 1 } : ModWord).sat ≠ 0 ∧
    ({ m0 with clmp := true } : ModWord).clmp = true ∧ (fmtOf .f16 ≠ none ∨ fmtOf .i8 ≠ none) :=
  ⟨fun _ h => (nomatch h), by decide⟩

theorem test_meets_roundedInteger :
    let x : ℚ := (FVal.fin false 5 (-1)).toRat
    let fr : ℚ := x - ⌊x⌋
    (2 : Int) = if 1 / 2 < fr ∨ (fr = 1 / 2 ∧ ⌊x⌋ % 2 = 1) then ⌊x⌋ + 1 else ⌊x⌋ := by
  have hx : (FVal.fin false 5 (-1)).toRat = 5 / 2 := by
    simp only [FVal.toRat]
    norm_num
  have hf : ⌊(5 / 2 : ℚ)⌋ = 2 := by norm_num
  simp only [hx, hf]
  norm_num

theorem test_meets_widenedElements :
    ([(5 : Word), 7])[1]? = some 7 ∧ 15 < 2 ^ tyBits .i4 ∧ 2 ^ 32 - 1 < 2 ^ tyBits .f32 ∧ tyBits .f32 ≤ 32 ∧
    (f16.value 0x3C00).isFin = true ∧ (f16.value 0xFC00).isInf = true ∧ (f16.value 0xFE00).isNan = true ∧
    (f16.value 0xFE00).neg = true := by decide

/-! Memory -/

/-- Lane 0 addresses the bytes 4 to 7 of its scratch. -/
theorem test_meets_loadsServed :
    Issuing sT gT pT 0xE0000070 ∧ 0 < Ty.i32.size ∧
    (let ls := (lanesOf (activeMask pT g1)).map fun l => (l, (opA gT pT false 0 l + imms pT 4).toNat)
     let scalar := ((lowest pT.exec).map fun l => (l, (sreg pT 0 + imms pT 4).toNat)).toList
     AccessesPass sT gT .party 4 ls (fun _ => 4) ∧ AccessesPass sT gT .party 4 scalar (fun _ => 4) ∧
     loadReady sT none gT.task 4 4 (laneOf gT 0).step.toNat = true ∧ sectorErrors sT (sectorOf 4) = []) := by
  refine ⟨issuingT rfl, by decide, fun x hx => ?_, fun x hx => ?_, by decide, rfl⟩ <;>
  · obtain rfl : x = (0, 4) := List.mem_singleton.mp hx
    exact ⟨rfl, rfl, fun b hb => nomatch hb⟩

/-- The group a step further, so that its party's frontier is not known to have come so far. -/
def gW : Group := { gT with lanes := gT.lanes.map fun t => { t with step := 1 } }
def sW : State := onto sP gW pT

theorem test_meets_loadWaits :
    Issuing sW gW pT 0xE0000070 ∧
    (let ls := (lanesOf (activeMask pT g1)).map fun l => (l, (opA gW pT false 0 l + imms pT 4).toNat)
     AccessesPass sW gW .party 4 ls (fun _ => 4) ∧
     ∃ x ∈ ls, loadReady sW none gW.task 4 4 (laneOf gW x.1).step.toNat = false) := by
  refine ⟨⟨rfl, rfl, rfl⟩, fun x hx => ?_, (0, 4), by decide, by decide⟩
  obtain rfl : x = (0, 4) := List.mem_singleton.mp hx
  exact ⟨rfl, rfl, fun b hb => nomatch hb⟩

/-- In a handler of bulk read 5, which may store to lines 1 and 2 of the party's scratch. -/
def gH : Group := { gT with handler := some 5 }
def bH : Bulk := { (default : Bulk) with
  head := { (default : ReqHead) with id := 5, step := 2 }, win := 128, winLines := 2, winSpace := .party, tag := 7 }
def sH : State := { onto sP gH pT with eng.bulks := [bH] }

theorem test_meets_stores :
    Issuing sT gT pT 0xE0000070 ∧ Space.party ≠ .immutable ∧
    (∀ x ∈ [(0, 4)], x.2 % Ty.i32.size = 0 ∧ resolve sT gT .party x.2 Ty.i32.size = .ok 4) ∧ bulkOf sT gT = none ∧
    (lanesOf (activeMask pT g1)).map (fun l => (l, (opA gT pT false 0 l + imms pT 4).toNat)) = [(0, 4)] ∧
    ((lowest pT.exec).map fun l => (l, (sreg pT 0 + imms pT 4).toNat)).toList = [(0, 4)] ∧
    storeWaits sT gT.handler 4 Ty.i32.size (laneOf gT 0).step.toNat = false := by
  refine ⟨issuingT rfl, by decide, fun x hx => ?_, rfl, rfl, rfl, by decide⟩
  obtain rfl : x = (0, 4) := List.mem_singleton.mp hx
  exact ⟨rfl, rfl⟩

/-- A handler's store: the scalar `s2` names byte 255 and the immediate 1 the last line's first byte. -/
theorem test_meets_handlerStores :
    Issuing sH gH pT 0xE0000070 ∧ bulkOf sH gH = some bH ∧ (sreg pT 2 + imms pT 1).toNat = 256 ∧
    resolve sH gH .party 256 4 = .ok 256 ∧ bH.win ≤ 256 ∧ 256 + 4 ≤ bH.win + 128 * bH.winLines ∧
    Space.party = bH.winSpace ∧ storeWaits sH gH.handler 256 4 0 = false :=
  ⟨⟨rfl, rfl, rfl⟩, rfl, rfl, rfl, by decide, by decide, rfl, by decide⟩

/-- An immutable region in granule 2, which every lane addresses. -/
def kReg : Region := { (default : Region) with kind := .immutable, size := 4096 }
def gK : Group := { gT with lanes := gT.lanes.map fun t => setVreg t 0 8192 }
def sK : State :=
  { onto sP gK pT with
    sram.owners := [(2, .region 0 0)], tasks := [{ programTask 0 with decl := { programDecl with regions := [kReg] } }] }

theorem test_meets_storeToImmutable :
    Issuing sK gK pT 0xE0000070 ∧ activeMask pT gn = 0 ∧ lowest (activeMask pT g1) = some 0 ∧
    ∀ k, (activeMask pT g1).getLsbD k = true → (opA gK pT false 0 k + imms pT 0).toNat % 4 = 0 ∧
      resolve sK gK .immutable (opA gK pT false 0 k + imms pT 0).toNat 4 =
        .ok (opA gK pT false 0 k + imms pT 0).toNat := by
  refine ⟨⟨rfl, rfl, rfl⟩, by decide, by decide, fun k hk => ?_⟩
  obtain rfl : k = 0 := allLanes (activeMask pT g1) (· = 0) (by decide) k hk
  exact ⟨rfl, rfl⟩

/-- Lane 0 is misaligned, or, under an `IMM` prefix, 64 bytes past the end of the scratch. -/
def pR : Path := { pT with pre := { Prefix.none with rank := 3, start := 0xFFC, hi := some 65 } }

/-- By `STS`: scalar `s1` names the region; no lane is left to elect in a path with none. -/
def pK : Path := { pT with s := pT.s.set 1 8192 }

theorem test_meets_scalarStoreToImmutable :
    Issuing { sK with groups := [{ gK with paths := [pK] }] } { gK with paths := [pK] } pK 0xE0000070 ∧
    lowest pK.exec = some 0 ∧ lowest ({ pK with exec := 0 } : Path).exec = none ∧
    (sreg pK 1 + imms pK 0).toNat % 4 = 0 ∧
    resolve { sK with groups := [{ gK with paths := [pK] }] } { gK with paths := [pK] } .immutable
      (sreg pK 1 + imms pK 0).toNat 4 = .ok (sreg pK 1 + imms pK 0).toNat := ⟨⟨rfl, rfl, rfl⟩, by decide⟩

/-- Loads of a table region or of a scalar address outside, and in a handler: a store before its window, a load
inside it. -/
theorem test_meets_badScalarAndHandlerAccesses :
    lowest pR.exec = some 0 ∧ (sreg pR 0 + imms pR 0).toNat = 4160 ∧
    (∀ x, resolve (forPath pR) (withPaths [pR]) .party 4160 4 ≠ .ok x) ∧
    (∀ x, resolve sT gT .immutable 8192 4 ≠ .ok x) ∧
    bulkOf sH gH = some bH ∧ (activeMask pT g1).getLsbD 0 = true ∧ gH.completion = false ∧
    (opA gH pT false 0 0 + imms pT 0).toNat % 4 = 0 ∧
    resolve sH gH .party (opA gH pT false 0 0 + imms pT 0).toNat 4 = .ok 0 ∧ ¬ bH.win ≤ 0 ∧
    lowest pT.exec = some 0 ∧ (sreg pT 2 + imms pT 1).toNat = 256 ∧ resolve sH gH .party 256 4 = .ok 256 ∧
    256 < bH.win + 128 * bH.winLines ∧ bH.win < 256 + 4 :=
  ⟨by decide, by decide, fun x h => (nomatch (show Except.error 4160 = Except.ok x from h)),
    fun x h => (nomatch (show Except.error 8192 = Except.ok x from h)), rfl, by decide, rfl, by decide, rfl, by decide,
    by decide, by decide, rfl, by decide, by decide⟩

theorem test_meets_badAccesses :
    Issuing sT gT pT 0xE0000070 ∧ Space.party ≠ .immutable ∧ (activeMask pT g1).getLsbD 0 = true ∧
    (opA gT pT false 0 0 + imms pT 1).toNat % Ty.i32.size ≠ 0 ∧ (∀ k, k < 0 → (activeMask pT g1).getLsbD k = true → False) ∧
    Issuing (forPath pR) (withPaths [pR]) pR 0xE0000070 ∧
    (∀ k, (activeMask pR g1).getLsbD k = true → (opA (withPaths [pR]) pR false 0 k + imms pR 0).toNat % Ty.i32.size = 0) ∧
    ∀ x, resolve (forPath pR) (withPaths [pR]) .party (opA (withPaths [pR]) pR false 0 0 + imms pR 0).toNat 4 ≠ .ok x := by
  refine ⟨issuingT rfl, by decide, by decide, by decide, fun k h => absurd h (Nat.not_lt_zero k), ⟨rfl, rfl, rfl⟩,
    fun k hk => ?_, fun x h => ?_⟩
  · obtain rfl : k = 0 := allLanes (activeMask pR g1) (· = 0) (by decide) k hk
    decide
  · exact nomatch (show Except.error 4160 = Except.ok x from h)

/-- Four lanes name one word, which is zero. -/
theorem test_meets_watch :
    Issuing sT gT pT 0xE0000070 ∧ gT.handler = none ∧
    (let ls := (lanesOf (activeMask pT gm)).map fun l => (l, (opA gT pT false 0 l + imms pT 4).toNat)
     (∀ x ∈ ls, x.2 % 4 = 0 ∧ resolve sT gT .party x.2 4 = .ok 4) ∧ (watchWords ls).length = 1) ∧
    (wordAt sT.sram.mem 4).extractLsb' 0 24 = 0 ∧ slotsFree sT gT 1 = true := by
  refine ⟨issuingT rfl, rfl, ⟨fun x hx => ?_, by decide⟩, by decide, by decide⟩
  have h4 : x.2 = 4 := (by decide : ∀ x ∈ (lanesOf (activeMask pT gm)).map fun l =>
    (l, (opA gT pT false 0 l + imms pT 4).toNat), x.2 = 4) x hx
  rw [h4]
  exact ⟨rfl, rfl⟩

/-- The words of the watch are there to test; with a full quota of slots, or with an own store on its way, it waits. -/
theorem test_meets_watchWaits :
    (let ls := (lanesOf (activeMask pT gm)).map fun l => (l, (opA gT pT false 0 l + imms pT 4).toNat)
     ∀ x ∈ (watchWords ls).map fun _ => 4, testArrives sT gT x = true) ∧
    (wordAt ({ sT with sram.mem := [(4, 1)] } : State).sram.mem 4).extractLsb' 0 24 ≠ 0 ∧
    slotsFree { sT with parts := [{ programPart 0 with wch := 0 }] } gT 1 = false ∧
    testArrives { sT with sram.offers := [{ (default : Store) with core := 0, addr := 8, size := 4, dom := .party 0 0 }] } gT 4
      = false := by decide

/-- Every lane has a word of its own; lane 0 is misaligned or past the end of the scratch. -/
def gF : Group := { gT with lanes := gT.lanes.mapIdx fun l t => setVreg t 0 (BitVec.ofNat 32 (4 * l)) }

theorem test_meets_watchTraps :
    Issuing (onto sP gF pT) gF pT 0xE0000070 ∧
    (let ls := (lanesOf (activeMask pT ga)).map fun l => (l, (opA gF pT false 0 l + imms pT 4).toNat)
     (watchWords ls)[4]? = some (4, 20) ∧ ∀ x ∈ ls, x.2 % 4 = 0 ∧ x.2 + 4 ≤ 4096) ∧
    (let ls := (lanesOf (activeMask pT g1)).map fun l => (l, (opA gT pT false 0 l + imms pT 1).toNat)
     ls = [(0, 1)] ∧ 1 % 4 ≠ 0) ∧
    (∀ r, resolve (forPath pR) (withPaths [pR]) .party (opA (withPaths [pR]) pR false 0 0 + imms pR 0).toNat 4 ≠ .ok r) ∧
    gH.handler.isSome = true ∧ lowest (activeMask pT g1) = some 0 ∧
    resolve sH gH .party (opA gH pT false 0 0 + imms pT 4).toNat 4 = .ok 4 :=
  ⟨⟨rfl, rfl, rfl⟩, by decide, by decide, fun x h => (nomatch (show Except.error 4160 = Except.ok x from h)), rfl, by decide, rfl⟩

theorem test_meets_watchWordsResolve (l : Nat) (h : l < 8) :
    resolve (onto sP gF pT) gF .party (opA gF pT false 0 l + imms pT 4).toNat 4 = .ok (4 * l + 4) := by
  match l, h with
  | 0, _ | 1, _ | 2, _ | 3, _ | 4, _ | 5, _ | 6, _ | 7, _ => rfl

theorem test_meets_presence :
    Issuing sT gT pT 0xE0000070 ∧ ∀ l, (activeMask pT g1).getLsbD l = true →
      resolve sT gT .party (opA gT pT false 0 l + imms pT 4).toNat 1 = .ok 4 := by
  refine ⟨issuingT rfl, fun l hl => ?_⟩
  obtain rfl : l = 0 := allLanes (activeMask pT g1) (· = 0) (by decide) l hl
  rfl

/-- A store of thread `n` to the word at 4. -/
def store (r : Rule) (n : Nat) : Store :=
  { (default : Store) with po := n, writer := n, addr := 4, size := 4, ty := .i32, rule := r, dom := .party 0 0,
                           data := 0x11223344 + BitVec.ofNat 64 n }
def entry (l : List Store) : Entry := { (default : Entry) with sector := 0, dom := .party 0 0, stores := l }

theorem test_meets_landedBytes : ∀ r : Rule, r ≠ .flt →
    let l := (entry [store r 1, store r 2]).stores.filter fun o => covers o 5
    store r 1 ∈ l ∧ (l.map (·.po)).Nodup ∧ (∀ y ∈ l, y.rule = (store r 1).rule) ∧
    (∀ y ∈ l, (store r 1).writer < y.writer ∨ ((store r 1).writer = y.writer ∧ y.po ≤ (store r 1).po)) ∧
    (store r 1).ty ≠ .f32 ∧ (store r 1).ty ≠ .bf16 ∧ (∀ y ∈ l, y.addr = 4 ∧ y.size = 4 ∧ y.ty ≠ .f32 ∧ y.ty ≠ .bf16) := by
  intro r; cases r <;> decide

theorem test_meets_landedFlt : (entry [store .flt 1]).stores.filter (fun o => covers o 7) = [store .flt 1] := by decide

/-- The byte past the word is covered by no store. -/
theorem test_meets_landedEdge : (entry [store .flt 1]).stores.filter (fun o => covers o 8) = [] := by decide

/-- A `BF16` contribution of 1.0 to the cell at 4, and the accumulator of two such. -/
def fstore (n : Nat) (v : BitVec 64) : Store := { store .sum n with size := 2, ty := .bf16, data := v }
def acc (c : Int) (nan pinf ninf nz : Bool) : Accum :=
  { addr := 4, step := 0, dom := .party 0 0, req := none, ty := .bf16, nan := nan, pinf := pinf, ninf := ninf, nz := nz,
    sum := BitVec.ofInt 312 c, spilled := false, upset := false }
/-- A machine that holds accumulator `c` and the old value `m` in the cell. -/
def sAcc (c : List Accum) (m : Cells 8) : State := { sT with sram.accums := c, sram.mem := m }

/-- One contribution with no accumulator; two with theirs; a NaN, each infinity and negative zeros. -/
theorem test_meets_floatSums :
    let one : BitVec 64 := 0x3F80
    let l := fun vs : List (BitVec 64) => (entry (vs.mapIdx fstore)).stores.filter fun o => covers o 5
    let v := fun y : Store => bf16.value (y.data.toNat % 2 ^ bf16.bits)
    let x := fstore 0 one
    l [one] = [x] ∧ (sAcc [] []).sram.accums.find? (accumFor x) = none ∧ x.rule = .sum ∧ 8 * x.size = bf16.bits ∧
    (l [one, one]).length = 2 ∧ (∀ y ∈ l [one, one], y.rule = x.rule ∧ y.addr = x.addr ∧ y.ty = x.ty ∧ y.size = x.size ∧
      y.step = x.step ∧ y.dom = x.dom ∧ y.req = x.req) ∧
    (sAcc [acc (2 ^ 150) false false false false] []).sram.accums.find? (accumFor x) =
      some (acc (2 ^ 150) false false false false) ∧
    (acc (2 ^ 150) false false false false).sum.toInt = ((l [one, one]).map fun y => unitsOf (v y)).sum ∧
    (∀ y ∈ l [one, one], (v y).isNan = false ∧ v y ≠ .inf false ∧ v y ≠ .inf true ∧ (v y).isZero = false) ∧
    (bf16.value 0x7FC0).isNan = true ∧ bf16.value 0x7F80 = .inf false ∧ bf16.value 0xFF80 = .inf true ∧
    (bf16.value 0x8000).isZero = true ∧ (bf16.value 0x8000).neg = true ∧ unitsOf (bf16.value 0x8000) = 0 ∧
    bf16.value (natOfBytes (bytesAt (sAcc [] [(5, 0x80)]).sram.mem 4 2)) = bf16.value 0x8000 ∧
    unitsOf (v x) + unitsOf (bf16.value 0xBF80) = 0 := by decide +kernel

/-- Offers of `BF16` contributions: with an accumulator, and with an earlier one in the entry. -/
theorem test_meets_floatOffers :
    let o := fstore 1 0x3F80
    let s : State := { sAcc [acc (2 ^ 149) false false false false] [] with sram.offers := [o] }
    let u : State := { sAcc [] [] with sram.offers := [o], sram.entries := [entry [fstore 0 0x3F80]] }
    (∃ c ∈ s.sram.accums, accumFor o c = true) ∧ (∀ c ∈ u.sram.accums, accumFor o c = false) ∧
    (((u.sram.entries.find? (keyOf o)).map (·.stores)).getD []).find?
      (fun x => decide (x.rule = .sum) && decide ((x.addr, x.ty) = (o.addr, o.ty))) = some (fstore 0 0x3F80) ∧
    accumsUsed s (sliceOf 4) < 256 ∧ bufferUsed u (sliceOf 4) < 4096 ∧ landsAllowed u o.task = true ∧
    copyUnread u o.addr o.size o.step = false ∧ sectorErrors u (sectorOf 4) = [] := by decide +kernel

theorem test_meets_storeOffer :
    let s : State := { sT with sram.offers := [store .low 1, { store .any 2 with core := 1, step := 9 }] }
    store .low 1 ∈ s.sram.offers ∧ (s.sram.offers.map (·.po)).Nodup ∧ landsAllowed s (store .low 1).task = true ∧
    sectorErrors s (sectorOf 4) = [] ∧ (store .low 1).rule ≠ .sum ∧ copyUnread s 4 4 0 = false ∧
    findTask s 0 = some (programTask 0) ∧
    (∀ x ∈ s.sram.offers, x.po ≠ 1 → ¬ (x.core = 0 ∧ x.po < 1) ∧
      (hasPriority s x = false ∨ hasPriority s (store .low 1) = true)) ∧
    bufferUsed s (sliceOf 4) < 4096 ∧ accumsUsed s (sliceOf 4) < 256 := by decide

theorem test_meets_frontierChange :
    findTask sW 0 = some (programTask 0) ∧ landsAllowed sW 0 = true ∧ sliceKnows (programTask 0) (.party 0 0) 0 = true ∧
    frontierAbove (frontier sW (.party 0 0)) (knownAt sW (.party 0 0) 0) = true := ⟨rfl, by decide, by decide, by decide⟩

/-- Step 0 of the party has an entry and its frontier is known to be 1. -/
def sE (l : List Store) : State :=
  { sW with sram.entries := [entry l], sram.known := [{ dom := .party 0 0, slice := 0, value := some 1 }] }

theorem test_meets_stepLanding :
    landingDue (sE [store .low 1]) (.party 0 0) 0 0 = true ∧
    lowestCollision (stepEntries (sE [store .low 1]) (.party 0 0) 0) = none ∧
    Memory.wf (sE [store .low 1]).sram.mem = true ∧ (∀ sec, sectorErrors (sE [store .low 1]) sec = []) ∧
    ((sliceEntries (sE [store .low 1]) (.party 0 0) 0 0).map (·.sector)).Nodup ∧
    ∀ e ∈ sliceEntries (sE [store .low 1]) (.party 0 0) 0 0, entryUpset (sE [store .low 1]) e = false :=
  ⟨by decide, by decide, by decide, fun _ => rfl, by decide, by decide⟩

theorem test_meets_stepCollides :
    landingDue (sE [store .flt 1, store .flt 2]) (.party 0 0) 0 0 = true ∧
    (lowestCollision (stepEntries (sE [store .flt 1, store .flt 2]) (.party 0 0) 0)).isSome = true := by decide

/-- Lane 0 waits for the word at 4. -/
def rL : LoadReq := { own := none, scalar := false, reg := 3, ty := .i32, accs := [{ lane := 0, addr := 4, step := 0 }] }
def pL : Path := { pT with park := some (.load rL) }

theorem test_meets_loadComplete :
    findGroup (forPath pL) 0 = some (withPaths [pL]) ∧ findPath (withPaths [pL]) 0 = some pL ∧
    landsAllowed (forPath pL) 0 = true ∧ pL.park = some (.load rL) ∧ rL.scalar = false ∧ (rL.accs.map (·.lane)).Nodup ∧
    ∀ x ∈ rL.accs, x.lane < 64 ∧ loadReady (forPath pL) rL.own 0 x.addr rL.ty.size x.step = true ∧
      storeAhead (forPath pL) 0 x.addr rL.issued = false ∧ sectorErrors (forPath pL) (sectorOf x.addr) = [] := ⟨rfl, rfl, by decide, rfl, rfl, by decide, by decide⟩

/-- Slice 511 at its last sector, where bits of the symbols of some banks have flipped. -/
def sS (es : List (Nat × Symbol)) : State :=
  { sT with
    sram.flips := es.map fun e => ((511 * 2 ^ 18 + 196607, e.1), e.2)
    sram.slices := [{ sliceReg sT 511 with scrubAt := 196607, rebuildAt := some 196607 }] }

/-- One flipped symbol is found and corrected, two are not (R134). -/
theorem test_code_corrects_one_symbol :
    sectorOutcome (sS [(3, 0x8001)]) (511 * 2 ^ 18 + 196607) = .corrected (List.replicate 18 0) 3 ∧
    sectorBad (sS [(3, 0x8001), (4, 1)]) (511 * 2 ^ 18 + 196607) = true := by decide +kernel

theorem test_meets_sliceScrub :
    511 < 512 ∧ (sliceReg (sS []) 511).scrubAt < 0x600000 / 32 ∧ sectorErrors (sS []) (511 * 2 ^ 18 + 196607) = [] ∧
    sectorErrors (sS [(3, 0x8001)]) (511 * 2 ^ 18 + 196607) ≠ [] ∧ (sliceReg (sS []) 511).rebuildAt = some 196607 ∧
    (sS []).sram.copies = [] ∧ Memory.wf (sS []).sram.mem = true ∧
    (0x000F00FF : Word) &&& 0xFFF0FF00 = 0 ∧ (0x00000100 : Word) &&& 0xFFF0FF00 ≠ 0 := by decide

theorem test_meets_stackEvents :
    let s : State := { sT with
      now := 520 + 2 * Config.refreshCycles
      dram.queues := [{ pch := 0, bank := 0, req := 0, n := 0, since := 0, refreshes := 2 }]
      dram.rowActs := [((0, 65408), 2048)]
      dram.bankActs := [(8191, Config.managementThreshold)] }
    (∃ e ∈ s.dram.queues, e.pch = 0 ∧ e.refreshes ≤ 2 ∧ e.since + 520 + e.refreshes * Config.refreshCycles ≤ s.now) ∧
    8191 < 8192 ∧ 65408 ≤ 65535 ∧ 65535 < 65536 ∧ 2048 ≤ assoc s.dram.rowActs (0, 65408) 0 ∧ 2 ^ 33 - 1 < 2 ^ 33 ∧
    Config.managementThreshold ≤ assoc s.dram.bankActs 8191 0 :=
  ⟨⟨_, .head _, rfl, Nat.le_refl 2, by simp⟩, by decide, by decide, by decide, by decide, by decide, Nat.le_refl _⟩

/-! Control flow, steps and traps -/

/-- The path at the last word of the image. -/
def pZ : Path := { pT with pc := 0x1004 }

theorem test_meets_prefixWords :
    Issuing sT gT pT 0xE0000070 ∧ lastWord sT gT.task pT.pc = false ∧ pT.pre.rank = 0 ∧
    Issuing (forPath pZ) (withPaths [pZ]) pZ 0xE0000070 ∧ lastWord (forPath pZ) 0 pZ.pc = true ∧ 3 ≤ pF.pre.rank :=
  ⟨issuingT rfl, by decide, rfl, ⟨rfl, rfl, rfl⟩, by decide, by decide⟩

theorem test_meets_branches :
    Issuing sT gT pT 0xE0000070 ∧ pT.exec &&& ~~~activeMask pT ga = 0 ∧ pT.exec ≠ 0 ∧ activeMask pT gn = 0 ∧
    pT.exec &&& ~~~activeMask pT gm ≠ 0 ∧ activeMask pT gm ≠ 0 ∧ inImage sT 0 (sreg pT 3 + imms pT 0) = true ∧
    inImage sT 0 (sreg pT 3) = true ∧ inImage sT 0 (sreg pT 3 + imms pT 4) = false ∧ inImage sT 0 (sreg pT 2) = false :=
  ⟨issuingT rfl, by decide⟩

theorem test_meets_split : Issuing sT gT pT 0xE0000070 ∧ ∀ q ∈ gT.paths, q.pid < sT.fresh := ⟨issuingT rfl, by decide⟩

/-- Two halves of a group that join over all eight lanes. -/
def pA : Path := { pT with exec := 0x0F, j := pT.j.set 0 0xFF }
def pB (park : Option Park) : Path := { pT with pid := 1, exec := 0xF0, slot := .buffered, park := park }
def gJ (park : Option Park) : Group := withPaths [pA, pB park]
def sJ (park : Option Park) : State := onto sP (gJ park) pA

theorem noneHeldJ (park : Option Park) : NoneHeld (sJ park) (gJ park) := by
  have h : ∀ p ∈ (gJ park).paths, heldSince p = none := by
    intro p hp
    rcases List.mem_pair.mp hp with rfl | rfl <;> rfl
  refine ⟨fun x hx => ?_, h, pA, List.mem_cons_self, rfl⟩
  rw [show (sJ park).groups = [gJ park] from rfl, List.mem_singleton] at hx
  rw [hx]
  exact h

theorem test_meets_joinParks :
    Issuing (sJ none) (gJ none) pA 0xE0000070 ∧ NoneHeld (sJ none) (gJ none) ∧ ((gJ none).paths.map (·.pid)).Nodup ∧
    pA.exec &&& ~~~activeMask pA ga = 0 ∧ pA.exec &&& ~~~jmask pA 0 = 0 ∧
    (∀ x ∈ (setPath (gJ none) { pA with park := some (.join 0xFF) }).paths, ∀ y, joinMask x = some y →
      joinReady (setPath (gJ none) { pA with park := some (.join 0xFF) }) y = false) ∧
    pA.exec &&& ~~~jmask pA 1 ≠ 0 ∧ pA.exec ≠ 0 ∧ activeMask pA gn = 0 ∧ pA.exec &&& ~~~activeMask pA g1 ≠ 0 ∧
    activeMask pA g1 ≠ 0 := by
  refine ⟨⟨rfl, rfl, rfl⟩, noneHeldJ _, by decide, by decide, by decide, fun x hx y hy => ?_, by decide⟩
  have h := (by decide : ∀ x ∈ (setPath (gJ none) { pA with park := some (.join 0xFF) }).paths,
    (joinMask x).all (fun y => !joinReady (setPath (gJ none) { pA with park := some (.join 0xFF) }) y) = true) x hx
  rw [hy] at h
  simpa using h

theorem test_meets_joinMerges :
    let q := pB (some (.join 0xFF))
    let g := gJ (some (.join 0xFF))
    Issuing (sJ (some (.join 0xFF))) g pA 0xE0000070 ∧ NoneHeld (sJ (some (.join 0xFF))) g ∧ pA.pid ≠ q.pid ∧
    g.paths = [pA, q] ∧ pA.exec ≠ 0 ∧ pA.exec &&& ~~~activeMask pA ga = 0 ∧ pA.exec &&& q.exec = 0 ∧ q.exec ≠ 0 ∧
    q.park = some (.join (jmask pA 0)) ∧ jmask pA 0 = pA.exec ||| q.exec ∧
    (∃ l, (pA.exec ||| q.exec).getLsbD l = true ∧ (laneOf g l).step.toNat = 0) ∧
    ∀ l, (pA.exec ||| q.exec).getLsbD l = true → (laneOf g l).step.toNat ≤ 0 :=
  ⟨⟨rfl, rfl, rfl⟩, noneHeldJ _, by decide, rfl, by decide, by decide, by decide, by decide, rfl, by decide,
    ⟨7, by decide⟩, allLanes _ _ (by decide)⟩

theorem test_meets_jmov :
    Issuing sT gT pT 0xE0000070 ∧ gT.width ≤ 64 ∧ activeMask pT gn = 0 ∧ activeMask pT gm ≠ 0 ∧ (6 : BitVec 6).toNat < 7 ∧
    (0xE0000474 : Word).extractLsb' 26 6 = 0x38 ∧ (0xE0000474 : Word).extractLsb' 0 4 = 4 ∧
    4 ≤ ((0xE0000474 : Word).extractLsb' 8 6).toNat ∧ pT.pre.mod = none ∧ pT.pre.hi = none := ⟨issuingT rfl, by decide⟩

/-- Lane 0 at step `k`, the others at step 0. -/
def gS (k : Nat) : Group := { gT with lanes := gT.lanes.mapIdx fun l t => if l = 0 then { t with step := BitVec.ofNat 64 k } else t }
def sStep (k : Nat) : State := onto sP (gS k) pT

/-- At step 7 lane 0 may advance, at step 8 it is at the end of its party's window. -/
theorem test_meets_pace :
    Issuing (sStep 7) (gS 7) pT 0xE0000070 ∧ (gS 7).handler = none ∧ activeMask pT g1 ≠ 0 ∧ pT.pace = none ∧
    (∀ l, (activeMask pT g1).getLsbD l = true → (laneOf (gS 7) l).step.toNat + 2 < 2 ^ 64) ∧
    2 = pT.pace.getD (immu pT 2).toNat ∧ 1 ≤ 2 ∧ pT.pace.getD (immu pT 0).toNat = 0 ∧
    (∀ l, (activeMask pT g1).getLsbD l = true →
      (∀ f, frontier (sStep 7) (.party 0 0) = some f → (laneOf (gS 7) l).step.toNat + 1 ≤ f + 8) ∧
      ∀ f, frontier (sStep 7) (.task 0) = some f → (laneOf (gS 7) l).step.toNat + 1 ≤ f + 64) ∧
    Issuing (sStep 8) (gS 8) pT 0xE0000070 ∧
    ¬ ∀ l, (activeMask pT g1).getLsbD l = true →
      (∀ f, frontier (sStep 8) (.party 0 0) = some f → (laneOf (gS 8) l).step.toNat + 1 ≤ f + 8) ∧
      ∀ f, frontier (sStep 8) (.task 0) = some f → (laneOf (gS 8) l).step.toNat + 1 ≤ f + 64 := by
  refine ⟨⟨rfl, rfl, rfl⟩, rfl, by decide, rfl, allLanes _ _ (by decide), by decide, by decide, by decide,
    fun l hl => ?_, ⟨rfl, rfl, rfl⟩, fun h => ?_⟩
  · obtain rfl : l = 0 := allLanes (activeMask pT g1) (· = 0) (by decide) l hl
    rw [show frontier (sStep 7) (.party 0 0) = some 0 by decide, show frontier (sStep 7) (.task 0) = some 0 by decide]
    refine ⟨fun f hf => ?_, fun f hf => ?_⟩ <;>
    · obtain rfl := Option.some.inj hf
      decide
  · exact absurd ((h 0 (by decide)).1 0 (by decide)) (by decide)

theorem test_meets_lagStall :
    let p : Path := { pT with park := some (.lag 1 2), pace := some 2 }
    findGroup (forPath p) 0 = some (withPaths [p]) ∧ findPath (withPaths [p]) 0 = some p ∧ landsAllowed (forPath p) 0 = true ∧
    p.park = some (.lag 1 2) ∧ mayAdvance (forPath p) (withPaths [p]) 1 = true := ⟨rfl, rfl, by decide, rfl, by decide⟩

theorem noneHeldT : NoneHeld sT gT ∧ NoneHeld sH gH := by
  refine ⟨⟨?_, ?_, pT, List.mem_cons_self, rfl⟩, ⟨?_, ?_, pT, List.mem_cons_self, rfl⟩⟩ <;> decide

theorem test_meets_exit :
    Issuing sT gT pT 0xE0000070 ∧ Issuing sH gH pT 0xE0000070 ∧ NoneHeld sT gT ∧ NoneHeld sH gH ∧
    gT.handler.isSome = false ∧ gH.handler.isSome = true ∧ (∀ q ∈ gT.paths, joinMask q = none) ∧
    (gT.paths.map (·.pid)).Nodup ∧ activeMask pT g1 ≠ 0 ∧ activeMask pT g1 ≠ pT.exec ∧ activeMask pT ga = pT.exec ∧
    gT.paths = [pT] :=
  ⟨issuingT rfl, ⟨rfl, rfl, rfl⟩, noneHeldT.1, noneHeldT.2, rfl, rfl, by decide, by decide, by decide, by decide, by decide, rfl⟩

/-- Every lane's `v0` names the last word of the image, and eight bins are in use. -/
def gR : Group := { gT with lanes := gT.lanes.map fun t => setVreg t 0 0x1004 }
def sR : State :=
  { onto sP gR pT with
    eng.bins := (List.range 8).map fun k => { core := 0, slot := k, key := .reform 9 0 0, threads := [], since := 0 } }

theorem test_meets_reform :
    Issuing sR gR pT 0xE0000070 ∧ gR.handler = none ∧ gR.paths = [pT] ∧ pT.park = none ∧ activeMask pT ga ≠ 0 ∧
    (∀ k, findTask sR gR.task = some k → 0 < k.decl.width) ∧ 0 < gR.width ∧
    (∀ l, (activeMask pT ga).getLsbD l = true → inImage sR 0 (laneReg gR l 0) = true) ∧ inImage sR 0 (pT.pc + 4) = true ∧
    (sR.eng.bins.filter fun b => decide (b.core = gR.core)).length + (lanesOf (activeMask pT ga)).length = 16 ∧
    activeMask pT ga = pT.exec ∧ activeMask pT gm ≠ pT.exec := by
  refine ⟨⟨rfl, rfl, rfl⟩, rfl, rfl, rfl, by decide, fun k hk => ?_, by decide, allLanes _ _ (by decide), by decide,
    by decide, by decide, by decide⟩
  obtain rfl := Option.some.inj (show some (programTask 0) = some k from hk)
  decide

/-- Threads with a trap handler, and in it. -/
def gV (inside : Bool) : Group :=
  { gT with lanes := gT.lanes.map fun t => { t with tvec := 0x1004, tret := 0x1000, tin := inside } }

theorem test_meets_trapsEnter :
    Issuing (onto sP (gV false) pT) (gV false) pT 0xE0000070 ∧ (gV false).handler = none ∧
    findTask (onto sP (gV false) pT) 0 = some (programTask 0) ∧ (programTask 0).stop = none ∧
    (∀ l, pT.exec.getLsbD l = true → (laneOf (gV false) l).tin = false) ∧ (laneOf (gV false) 7).tvec ≠ 0 :=
  ⟨⟨rfl, rfl, rfl⟩, rfl, rfl, rfl, allLanes _ _ (by decide), by decide⟩

/-- A trap in a handler group, a second trap, and a task with no trap handler. -/
theorem test_meets_trapsStop :
    Issuing sH gH pT 0xE0000070 ∧ findTask sH 0 = some (programTask 0) ∧ gH.handler.isSome = true ∧
    (∃ l, pT.exec.getLsbD l = true ∧ (laneOf (gV true) l).tin = true) ∧
    findTask (onto sP (gV true) pT) 0 = some (programTask 0) ∧ (gV true).handler = none ∧ findTask sT 0 = some (programTask 0) ∧
    (laneOf gT 0).tvec = 0 := ⟨⟨rfl, rfl, rfl⟩, rfl, rfl, ⟨7, by decide⟩, rfl, rfl, rfl, rfl⟩

theorem test_meets_trapAndBreakpoint :
    let s : State := { sT with parts := [{ programPart 0 with debug := true }] }
    Issuing sT gT pT 0xE0000070 ∧ Issuing s gT pT 0xE0000070 ∧ activeMask pT gn = 0 ∧ lowest (activeMask pT g1) = some 0 ∧
    debugOn sT gT.task = false ∧ debugOn s gT.task = true ∧ gT.handler = none :=
  ⟨issuingT rfl, ⟨rfl, rfl, rfl⟩, by decide, by decide, by decide, by decide, rfl⟩

theorem test_meets_returnFromTrap :
    let s := onto sP (gV true) pT
    Issuing s (gV true) pT 0xE0000070 ∧ lowest pT.exec = some 0 ∧ activeMask pT gn = 0 ∧ lowest (activeMask pT g1) = some 0 ∧
    Issuing sH gH pT 0xE0000070 ∧ gH.handler.isSome = true ∧ activeMask pT ga = pT.exec ∧ (gV true).handler = none ∧
    (∀ k, pT.exec.getLsbD k = true → (laneOf (gV true) k).tin = true ∧ (laneOf (gV true) k).tret = 0x1000) ∧
    activeMask pT g1 ≠ pT.exec ∧ (∃ k, pT.exec.getLsbD k = true ∧ (laneOf gT k).tin = false) ∧
    (0xE8004072 : Word).extractLsb' 26 6 = 0x3A ∧ (0xE8004072 : Word).extractLsb' 0 4 = 2 ∧
    (0xE8004072 : Word).extractLsb' 8 18 ≠ 0 ∧ pT.pre.mod = none ∧ pT.pre.hi = none :=
  ⟨⟨rfl, rfl, rfl⟩, by decide, by decide, by decide, ⟨rfl, rfl, rfl⟩, rfl, by decide, rfl, allLanes _ _ (by decide), by decide,
    ⟨0, by decide⟩, by decide, by decide, by decide, rfl, rfl⟩

theorem test_meets_specialRegisters :
    Issuing sT gT pT 0xE0000070 ∧ findTask sT gT.task = some (programTask 0) ∧ activeMask pT gn = 0 ∧ gT.handler = none ∧
    (∀ l, (activeMask pT ga).getLsbD l = true → laneReg gT l 0 = 0 ∨ inImage sT 0 (laneReg gT l 0) = true) ∧
    (∀ l, (activeMask pT ga).getLsbD l = true → inImage sR 0 (laneReg gR l 0) = true) ∧
    (activeMask pT g1).getLsbD 0 = true ∧ ¬ inImage sT 0 (laneReg gT 0 0) = true ∧
    Issuing sH gH pT 0xE0000070 ∧ gH.handler.isSome = true ∧ lowest (activeMask pT g1) = some 0 :=
  ⟨issuingT rfl, rfl, by decide, rfl, allLanes _ _ (by decide), allLanes _ _ (by decide), by decide, by decide, ⟨rfl, rfl, rfl⟩,
    rfl, by decide⟩

theorem test_meets_icinv :
    Issuing sT gT pT 0xE0000070 ∧ findTask sT gT.task = some (programTask 0) ∧ activeMask pT gn = 0 ∧
    lowest (activeMask pT g1) = some 0 ∧ findTask sH gH.task = some (programTask 0) ∧ gH.handler.isSome = true ∧
    activeMask pT g1 ≠ 0 ∧ gT.handler = none ∧ (0xE8004073 : Word).extractLsb' 26 6 = 0x3A ∧
    (0xE8004073 : Word).extractLsb' 0 4 = 3 ∧ (0xE8004073 : Word).extractLsb' 8 18 ≠ 0 ∧ pT.pre.mod = none ∧ pT.pre.hi = none :=
  ⟨issuingT rfl, rfl, by decide, by decide, rfl, rfl, by decide, rfl, by decide, by decide, by decide, rfl, rfl⟩


/-- The guard 0b1111, in the group and in a handler; a thread that exits has a task record; and a path in the middle
of a sequence of the task whose code is invalidated. -/
theorem test_meets_noLaneGuard :
    (∃ gd : Guard, gd.inv = true ∧ gd.p = 7 ∧ activeMask pT gd = 0) ∧ Issuing sH gH pT 0xE0000070 ∧
    findTask sT gT.task = some (programTask 0) ∧ pF.pre.rank ≠ 0 ∧ pF.pre.words = [] ∧
    findGroup (forPath pF) 0 = some (withPaths [pF]) ∧ findPath (withPaths [pF]) 0 = some pF ∧
    (∃ x ∈ (programTask 0).places, x.core / 64 = gT.core / 64) ∧
    (findTask (forPath pF) 0).bind (·.inst) = some ((programTask 0).inst.getD 0) :=
  ⟨⟨{ inv := true, p := 7 }, by decide⟩, ⟨rfl, rfl, rfl⟩, rfl, by decide, rfl, rfl, rfl, by decide, by decide⟩

/-! Engines -/

/-- A path with a block in its scalar registers from `s8`. -/
def pBlock (ws : List Word) : Path :=
  { pT with s := Vector.ofFn fun k => if 8 ≤ k.val then ws.getD (k.val - 8) 0 else sreg pT k.val }
/-- An inbound copy of 32 bytes to offset 128, contiguous or one row by an index list at offset 64. -/
def blockC : List Word := [0x1000, 0, 128, 32, 0, 0x4000, 0, 0]
def blockX : List Word := [0x1000, 0, 128, 4, 0, 0x4001, 64, 0x01000100]
/-- The contiguous block as bytes at offset 0 of the scratch. -/
def sM : State := { sT with sram.mem := [(1, 0x10), (8, 0x80), (12, 0x20), (21, 0x40)] }
/-- A machine whose core has `n` copies under way. -/
def sCopies (n : Nat) (p : Path) : State := { forPath p with eng.copies := List.replicate n default }

theorem test_meets_cpys :
    let p := pBlock blockC
    let g := withPaths [p]
    let q := copyReqOf ((List.range 8).map fun k => (sreg p ((8 : BitVec 6).toNat + k)).toNat)
    Issuing (sCopies 63 p) g p 0xE0000070 ∧ lowest (activeMask p g1) = some 0 ∧ g.handler = none ∧ q.ok = true ∧
    q.cntInside (sCopies 63 p) g = false ∧ firstFailing (sCopies 63 p) g [⟨q.nsp, q.near, q.nearLen⟩] = none ∧ q.nocnt = true ∧
    q.indexed = false ∧ ((sCopies 63 p).eng.copies.filter fun c => decide (c.head.core = 0)).length < 64 ∧
    64 ≤ ((sCopies 64 p).eng.copies.filter fun c => decide (c.head.core = 0)).length :=
  ⟨⟨rfl, rfl, rfl⟩, by decide, rfl, by decide, by decide, rfl, by decide, by decide, by decide, by decide⟩

theorem test_meets_cpysIndexed :
    let p := pBlock blockX
    let g := withPaths [p]
    let q := copyReqOf ((List.range 8).map fun k => (sreg p ((8 : BitVec 6).toNat + k)).toNat)
    q.ok = true ∧ q.cntInside (forPath p) g = false ∧ q.indexed = true ∧
    firstFailing (forPath p) g [⟨q.nsp, q.near, q.nearLen⟩, ⟨q.isp, q.idx, q.listLen⟩] = none ∧
    ReadableBlock (forPath p) g 0 q.isp q.idx 1 q.listLen [0, 0, 0, 0] :=
  ⟨by decide, by decide, by decide, rfl, by decide, 64, rfl, by decide, fun _ _ => rfl, by decide⟩

theorem test_meets_copy :
    Issuing sM gT pT 0xE0000070 ∧ ReadableBlock sM gT 0 .party (opA gT pT false 0 0 + imms pT 0).toNat 32 32
      (rangeBytes sM 0 0 32 0) ∧ (copyReqOf (wordsOf (rangeBytes sM 0 0 32 0))).ok = true ∧
    (copyReqOf (wordsOf (rangeBytes sT 0 0 32 0))).ok = false ∧ gH.handler.isSome = true :=
  ⟨⟨rfl, rfl, rfl⟩, ⟨by decide, 0, rfl, by decide, fun _ _ => rfl, rfl⟩, by decide, by decide, rfl⟩

/-- A block whose bytes are of a step the slice does not know to have landed. -/
theorem test_meets_blocksWait :
    (opA gW pT false 0 0 + imms pT 0).toNat % 64 = 0 ∧ resolve sW gW .party 0 64 = .ok 0 ∧ lowest (activeMask pT g1) = some 0 ∧
    blockReady sW gW.task gW.core 0 32 (laneOf gW 0).step.toNat = false ∧ blockReady sW gW.task gW.core 0 64 (laneOf gW 0).step.toNat = false ∧
    gW.handler = none := ⟨by decide, rfl, by decide, by decide, by decide, rfl⟩

/-- A task with one handler and room for it, and bulk-read blocks at offset 0: one burst into the line at 128. -/
def tB : Task := { programTask 0 with decl := { programDecl with handlers := [(0, 0x1000)], hres := 1 } }
def sB (indexed : Bool) (n : Nat) : State :=
  { sT with
    tasks := [tB]
    sram.mem := [(1, 0x10), (8, 0x80)] ++ (if indexed then [(12, 1), (13, 1)] else []) ++ [(14, 1), (21, 0x40), (24, 1)]
    eng.bulks := List.replicate n { (default : Bulk) with win := 4096, winLines := 0 } }

theorem test_meets_bulkReads : ∀ indexed : Bool,
    let s := sB indexed 15
    let q := bulkReqOf indexed (wordsOf (rangeBytes s 0 0 64 0))
    (q.commonOk = true ∧ (if indexed then q.indexedOk else q.contiguousOk) = true ∧ q.handlersOk tB = true ∧
      q.clash s gT = false) ∧ q.nocnt = true ∧ q.indexed = indexed ∧
    (s.eng.bulks.filter fun b => decide (b.head.core = 0)).length < 16 ∧
    16 ≤ ((sB indexed 16).eng.bulks.filter fun b => decide (b.head.core = 0)).length := by decide

theorem test_meets_bulkReadBlock (indexed : Bool) :
    let s := sB indexed 15
    let q := bulkReqOf indexed (wordsOf (rangeBytes s 0 0 64 0))
    Issuing s gT pT 0xE0000070 ∧ lowest (activeMask pT g1) = some 0 ∧ findTask s gT.task = some tB ∧ gT.handler = none ∧
    ReadableBlock s gT 0 .party (opA gT pT false 0 0 + imms pT 0).toNat 64 64 (rangeBytes s 0 0 64 0) ∧
    firstFailing s gT ([⟨q.wsp, q.win, q.winLen⟩] ++ if indexed then [⟨q.isp, q.idx, q.listLen⟩] else []) = none ∧
    (indexed = true → ReadableBlock s gT 0 q.isp q.idx 1 q.listLen (rangeBytes s 0 0 4 0)) := by
  cases indexed
  · exact ⟨⟨rfl, rfl, rfl⟩, by decide, rfl, rfl, ⟨by decide, 0, rfl, by decide, fun _ _ => rfl, rfl⟩, rfl, fun h => nomatch h⟩
  · exact ⟨⟨rfl, rfl, rfl⟩, by decide, rfl, rfl, ⟨by decide, 0, rfl, by decide, fun _ _ => rfl, rfl⟩, rfl,
      fun _ => ⟨by decide, 0, rfl, by decide, fun _ _ => rfl, rfl⟩⟩

/-- A query of one lane for the entries 3, 2, 1 and 0 of table 0, and a task that declares 4 entries of 2 bytes. -/
def qy : Query := { id := 7, task := 0, gid := 0, core := 0, d := 4, tbl := 0, ix := false, qb := false, ty := .i16,
                    pc := 0x1000, lanes := [(0, 0x00010203)], opened := 0 }
def tQ : Task := { programTask 0 with block := some 0, decl := { programDecl with regions :=
  [{ (default : Region) with kind := .table, tbl := 0, tsz := 1, size := 8 }] } }
def sQ (n : Nat) (t : Task) : State := { sT with tasks := [t], eng.queries := List.replicate n qy }

theorem test_meets_queryIssue :
    Issuing (sQ 15 tQ) gT pT 0xE0000070 ∧ activeMask pT gn = 0 ∧ activeMask pT g1 ≠ 0 ∧
    ((sQ 15 tQ).eng.queries.filter fun x => decide (x.core = 0)).length < 16 ∧
    16 ≤ ((sQ 16 tQ).eng.queries.filter fun x => decide (x.core = 0)).length := ⟨⟨rfl, rfl, rfl⟩, by decide⟩

theorem test_meets_queryAnswer :
    let s := sQ 1 tQ
    let ws := wanted qy (tableDecl tQ 0)
    qy ∈ s.eng.queries ∧ (s.eng.queries.map (·.id)).Nodup ∧ queryBehind s qy = false ∧ findGroup s 0 = some gT ∧
    findTask s 0 = some tQ ∧ tQ.stop = none ∧ (qy.lanes.map (·.1)).Nodup ∧
    (∀ x ∈ qy.lanes, x.1 < 64) ∧ tableDecl tQ 0 = some (2, 4) ∧ tableDecl (programTask 0) 0 = none ∧ Ty.i16.size = 2 ∧
    Ty.i32.size ≠ 2 ∧ (∀ j, j < 4 → (0x00010203 : Word).toNat / 2 ^ (8 * j) % 256 < 4) ∧
    queryYields s qy tQ = false ∧ (∃ r, rowsLeft qy 0 ws = [r] ∧ badLane s qy 0 ws r = none) :=
  ⟨.head _, by decide, by decide, rfl, rfl, rfl, by decide, by decide, by decide, by decide, rfl, by decide,
    by decide, by decide +kernel, rowOf (tableDpa 0 0 0 0), by decide +kernel, by decide +kernel⟩

/-- Two rows of a table of 4096 entries; the second index past a table of 4; a burst with an uncorrectable error; and
a request whose bound has expired on the pseudo-channel of the query's bank. -/
def q2 : Query := { qy with ix := true, lanes := [(0, 0x02580000)] }
def tQ2 : Task := { tQ with decl := { tQ.decl with regions :=
  [{ (default : Region) with kind := .table, tbl := 0, tsz := 1, size := 8192 }] } }

theorem test_meets_queryRows :
    let s : State := { sQ 1 tQ2 with eng.queries := [q2] }
    let ws := wanted q2 (tableDecl tQ2 0)
    let dpa := tableDpa 0 0 0 0
    2 ≤ (rowsLeft q2 0 ws).length ∧ (∀ r ∈ rowsLeft q2 0 ws, badLane s q2 0 ws r = none) ∧
    badLane { s with dram.reports := [(burstOf dpa, .uncorrectable)] } q2 0 ws ((rowsLeft q2 0 ws).headD 0) = some (0, 0) ∧
    tableDecl tQ 0 = some (2, 4) ∧ ¬ (0x02580000 : Word).toNat / 2 ^ 16 % 65536 < 4 ∧ (0x02580000 : Word).toNat % 65536 < 4 := by
  decide +kernel

theorem test_meets_queryYields :
    let s : State := { sQ 1 tQ2 with
      now := 520
      dram.queues := [{ pch := tableBank 0 0 0 / 16, bank := 0, req := 0, n := 0, since := 0, refreshes := 0 }]
      eng.queries := [q2] }
    queryYields s q2 tQ2 = true := by
  have h : (rowsLeft q2 0 (wanted q2 (tableDecl tQ2 0))).isEmpty = false := by decide +kernel
  simp only [queryYields, boundExpired, show tQ2.block.getD 0 = 0 from rfl, show q2.core = 0 from rfl,
    show q2.tbl = 0 from rfl, h, List.any_cons, entryExpired, expiryOf, boundCycles]
  simp
  decide +kernel

/-- A copy of 64 bytes between far 0x1000 and offset 128 with a counter at 256, its one burst in a state. -/
def cp (out : Bool) (st : BurstState) : Copy :=
  { (default : Copy) with
    head := { (default : ReqHead) with id := 5 }, outbound := out, far := 0x1000, near := 128, len := 64, cnt := some 256,
    bursts := [{ va := 0x1000, pos := 0, offset := 0, coord := (0, 0, 0), state := st }],
    nearData := if out ∧ st = .accepted then some (List.replicate 64 1) else none, lines := if out then [] else [1] }
/-- A task that may reach far 0x1000, in a partition of domain 1 whose rows 0 to 100 an entry of the plat opens. -/
def tC : Task := { programTask 0 with decl := { programDecl with regions :=
  [{ (default : Region) with kind := .dram, far := 0x1000, size := 4096, ar := true, aw := true }] } }
def sC (open_ : Bool) (t : Task) (c : Copy) : State :=
  { sT with
    tasks := [t]
    parts := [{ programPart 0 with dom := 1 }]
    dram.plat := sT.dram.plat.set 0 (if open_ then 0x8100006400000000 else 0)
    xlate.caches := [{ cache := .copy 0, pasid := 0, base := 0x1000, size := 4096, target := 0x2000, read := true, write := true }]
    sram.clears := [{ line := 1, req := 5, step := 0, dom := .party 0 0, landed := true }]
    sram.known := [{ dom := .party 0 0, slice := 0, value := some 1 }]
    eng.copies := [c] }

theorem test_meets_copyEvents (o : Bool) (c : Copy) (h : c = cp c.outbound c.bursts.head!.state) :
    findCopy (sC o tC c) 5 = some c ∧ findTask (sC o tC c) 0 = some tC ∧ tC.stop = none ∧ tC.state = .running ∧
    tC.saving = false ∧ findPart (sC o tC c) 0 = some { programPart 0 with dom := 1 } ∧
    (∀ sec, sectorErrors (sC o tC c) sec = []) ∧ Memory.wf (sC o tC c).sram.mem = true := by
  rw [h]
  exact ⟨rfl, rfl, rfl, rfl, rfl, rfl, fun _ => rfl, rfl⟩

theorem test_meets_copyRequest :
    let c := cp false .todo
    let x := c.bursts.head!
    c.bursts[0]? = some x ∧ x.state = .todo ∧ c.outbound = false ∧ c.farOk (programTask 0) x = false ∧ c.farOk tC x = true ∧
    isFabric x.va = false ∧ 0x2000 < hdmSize ∧ queueFree (sC true tC c) 0x2000 = true ∧
    translate (sC true tC c).xlate (.copy 0) (tractOf 0) 0 x.va false = some (0 + 0x2000, (sC true tC c).xlate) ∧
    burstOf 0x2000 ∉ (sC true tC c).host.tracked ∧ platAllows (sC false tC c).dram.plat 1 (rowOf 0x2000) = false ∧
    platAllows (sC true tC c).dram.plat 1 (rowOf 0x2000) = true ∧ reportOf (sC true tC c).dram (burstOf 0x2000) ≠ .uncorrectable :=
  ⟨rfl, rfl, rfl, by decide, by decide, by decide, by decide, by decide, rfl, by decide, by decide, by decide, by decide⟩

/-- The same burst outbound with its near bytes read, and inbound from a burst that cannot be corrected. -/
theorem test_meets_copyWritesAndBadReads :
    let c : Copy := { cp true .todo with nearData := some (List.replicate 64 1) }
    let x := c.bursts.head!
    let s := sC true tC c
    let u : State := { sC true tC (cp false .todo) with dram.reports := [(burstOf 0x2000, .uncorrectable)] }
    (x.state = .todo ∧ c.outbound = true ∧ c.nearData.isSome = true ∧ c.farOk tC x = true ∧ isFabric x.va = false ∧
      queueFree s 0x2000 = true ∧ Memory.wf s.dram.mem = true ∧
      translate s.xlate (.copy 0) (tractOf 0) 0 x.va true = some (0 + 0x2000, s.xlate) ∧
      burstOf 0x2000 ∉ s.host.tracked ∧ platAllows s.dram.plat 1 (rowOf 0x2000) = true) ∧
    reportOf u.dram (burstOf 0x2000) = .uncorrectable ∧ queueFree u 0x2000 = true ∧ (cp false .todo).cnt = some 256 ∧
    256 % 4 = 0 := by decide +kernel

/-- An indexed block with an index in range and one past it; a contiguous copy of unconverted bytes whose burst has
come or failed; and a swizzled row of 128 bytes of widened elements. -/
theorem test_meets_copiedBytes :
    let q := copyReqOf (blockX.map (·.toNat))
    let c := cp false (.got (List.replicate 64 1))
    let b := c.bursts.head!
    let z : Copy := { cp true .todo with conv := 2, swz := 1, indexed := true, rlen := 2 }
    (q.indexed = true ∧ 1 ≤ q.rlen ∧ q.far % 32 = 0 ∧ ([0, 9] : List Nat)[0]? = some 0 ∧ ([0, 9] : List Nat)[1]? = some 9 ∧
      0 < q.len ∧ q.len ≤ 9) ∧
    (c.conv ≤ 5 ∧ c.swz = 0 ∧ c.indexed = false ∧ b.pos = 0 ∧ b ∈ c.bursts ∧ 63 < c.len ∧ b.offset ≤ 63 ∧
      63 < b.offset + c.burstLen b ∧ (∀ y ∈ c.bursts, y = b) ∧ b.state = .got (List.replicate 64 1) ∧
      (cp false (.failed 1)).bursts.head!.state = .failed 1) ∧
    (z.conv ≤ 5 ∧ z.swz ≤ 2 ∧ z.rlen * 32 / 2 * 4 % 128 = 0 ∧ z.outbound = true ∧ z.bursts.head!.pos = 0 ∧
      0 < z.burstLen z.bursts.head!) := by decide

theorem test_meets_copyNearRead :
    let c := cp true .todo
    c.outbound = true ∧ c.nearData = none ∧ rangeLanded (sC true tC c) c.near c.len 0 = true := by decide

theorem test_meets_copyBurstAccepted :
    let c := cp true .accepted
    c.outbound = true ∧ c.nearData.isSome = true ∧ c.bursts.head!.state = .accepted ∧ inQueue (sC true tC c) 5 0 = false ∧
    c.cnt = some 256 ∧ 256 % 4 = 0 ∧ ({ c with cnt := none } : Copy).cnt = none := by decide

theorem test_meets_copyLineWrite :
    let c := cp false (.got (List.replicate 64 1))
    c.outbound = false ∧ 1 ∈ c.lines ∧ engineMayWrite (sC true tC c) 5 1 = true ∧ copyQueued (sC true tC c) c = false ∧
    (c.lineData 1).isSome = true ∧ c.cnt = some 256 ∧ 256 / 128 ≠ 1 := by decide

/-- A bulk read of one burst into line 1, its burst in a state. -/
def bk (st : BurstState) (chnd : Option Nat) : Bulk :=
  { (default : Bulk) with
    head := { (default : ReqHead) with id := 5 }, win := 128, winLines := 1, chnd := chnd, total := 1, params := List.replicate 8 9,
    bursts := [{ va := 0x1000, pos := 0, offset := 0, coord := (0, 0, 0), state := st }] }
/-- The machine with that bulk read, and with pending stores to its window. -/
def sBk (b : Bulk) (l : List Store) : State :=
  { sT with
    tasks := [tB]
    sram.clears := [{ line := 1, req := 5, step := 0, dom := .party 0 0, landed := true }]
    sram.known := [{ dom := .party 0 0, slice := 0, value := some 1 }]
    sram.entries := if l = [] then [] else [{ entry (l.map fun o => { o with addr := 128, req := some 5 }) with
      sector := 4, step := 1, req := some 5 }]
    eng.bulks := [b]
    groups := [] }

theorem test_meets_burstArrival :
    let b := bk (.got (List.replicate 64 1)) none
    let s := sBk b []
    (∀ g ∈ s.groups, g.gid < s.fresh) ∧ findBulk s 5 = some b ∧ findTask s 0 = some tB ∧ tB.stop = none ∧ tB.state = .running ∧
    b.bursts[0]? = some b.bursts.head! ∧ b.bursts.head!.state = .got (List.replicate 64 1) ∧ inQueue s 5 0 = false ∧
    handlerSlot s tB 0 = true ∧ (s.eng.bins.filter fun y => decide (y.core = 0)).length < 16 := by
  refine ⟨by decide, rfl, rfl, rfl, rfl, rfl, rfl, by decide, by decide, by decide⟩

/-- Bins: two threads that have waited 256 cycles, and a full bin of handlers of request 5. -/
def binR : Bin := { core := 0, slot := 15, key := .reform 0 0 0x1004, threads := [default, default], since := 0 }
def binH : Bin := { core := 0, slot := 0, key := .handler 0 0 5, threads := List.replicate 8 default, since := 256 }

theorem test_meets_binDraw :
    let b := bk (.done 0) none
    let s : State := { sBk b [] with now := 256, eng.bins := [binR, binH] }
    (∀ g ∈ s.groups, g.gid < s.fresh) ∧ findBin s 0 15 = some binR ∧ findBin s 0 0 = some binH ∧
    findTask s (binTask binR) = some tB ∧ findTask s (binTask binH) = some tB ∧
    binR.since + 256 ≤ s.now ∧ tB.decl.width ≤ binH.threads.length ∧ binR.threads.length ≤ 64 ∧ binH.threads.length ≤ 64 ∧
    (∀ tk pt rq, binR.key = .handler tk pt rq → False) ∧
    ∀ tk pt rq, binH.key = .handler tk pt rq → findBulk s rq = some b ∧ b.params.length = 8 := by
  refine ⟨by decide, rfl, rfl, rfl, rfl, by decide, by decide, by decide, by decide, fun _ _ _ h => (nomatch h),
    fun tk pt rq h => ?_⟩
  injection h with h1 h2 h3
  subst h3
  exact ⟨rfl, rfl⟩

theorem test_meets_lastBurst : ∀ withHandler : Bool,
    let chnd := if withHandler then some 0 else none
    let b := bk (.done 0) chnd
    let s := sBk b [store .low 1, store .low 2]
    findBulk s 5 = some b ∧ findTask s 0 = some tB ∧ tB.uid = 0 ∧ lastBurstReady s b tB = true ∧ b.landed = false ∧ b.cnt = none ∧
    (∀ e ∈ windowEntries s 5, entryUpset s e = false) ∧
    Memory.wf s.sram.mem = true ∧ ((windowEntries s 5).map (·.sector)).Nodup ∧ lowestCollision (windowEntries s 5) = none ∧
    b.chnd = chnd ∧
    (lowestCollision (windowEntries (sBk b [store .flt 1, store .flt 2]) 5)).isSome = true := by
  decide

/-- The counter cell of a bulk read whose window is the line at 128, and the request after its completion handler. -/
theorem test_meets_lastBurstCell :
    let b : Bulk := { bk (.done 0) (some 0) with cnt := some 256, landed := true }
    let s := sBk b [store .low 1]
    findBulk s 5 = some b ∧ lastBurstReady s b tB = true ∧ (b.chnd = none ∨ b.landed = true) ∧ 256 % 4 = 0 ∧
    ∀ e ∈ windowEntries s 5, e.sector ≠ 256 / 32 := by decide

theorem test_meets_lastBurstSectors : ∀ sec, sectorErrors (sBk (bk (.done 0) none) [store .low 1]) sec = [] := fun _ => rfl

/-! The matrix engine -/

/-- An engine of core `c` that party 0 of task 0 has claimed, with an `I8` plane and a queue. -/
def en (c : Nat) (q : List MatrixOp) : Engine :=
  { freshEngine c (0, 0) false with active := { emptyPlane with loaded := true }, queue := q }
/-- A party with 64 KiB of scratch, engines, and cores 0 and 1. -/
def tX : Task := { programTask 0 with decl := { programDecl with scratch := 65536 } }
def sX (es : List Engine) (p : Path) : State :=
  { forPath p with
    tasks := [tX], parts := [{ programPart 0 with cores := 3 }], eng.matrix := es
    sram.owners := (List.range 16).map fun k => (k, .party 0 0) }
/-- A load of step 0 waits for nothing where the copies of the presence bits agree. -/
theorem ready_zero (s : State) (task a n : Nat) (h0 : s.sram.copies = []) : rangeReady s task a n 0 = true := by
  simp only [rangeReady, List.all_eq_true]
  intro k _
  unfold loadReady
  cases h : domainOf s (max a ((a / 32 + k) * 32)) with
  | none => simp
  | some d => cases hk : knownAt s d (sliceOf (max a ((a / 32 + k) * 32))) <;>
      simp [hk, atLeast, landedBelow, presentFor, h0]

/-- A block of step 0 is ready where no store is offered either. -/
theorem block_zero (s : State) (task core a n : Nat) (h0 : s.sram.copies = []) (h1 : s.sram.offers = []) :
    blockReady s task core a n 0 = true := by
  simp [blockReady, ready_zero s task a n h0, storeAhead, h1]

/-- A range inside the scratch resolves. -/
theorem resolve_party (s : State) (g : Group) (t : Task) (a n : Nat) (h : findTask s g.task = some t)
    (hn : a + n ≤ t.decl.scratch) : resolve s g .party a n = .ok (scratchBase t g.party + a) := by
  simp [resolve, h, hn]

/-- Descriptors from `s8`: one row of 128 bytes; a drain of one row. -/
def pMma : Path := pBlock [1, 128, 0, 0]
def pDrn : Path := pBlock [1, 512, 0, 0, 0, 0, 0, 0]

set_option exponentiation.threshold 600 in
theorem test_meets_matrixEnters :
    let s := sX [en 0 (List.replicate 7 default), en 1 []] pMma
    let g := withPaths [pMma]
    Issuing s g pMma 0xE0000070 ∧ Instr.mzero true g1 true ∈ [Instr.mzero true g1 true] ∧
    lowest (activeMask pMma g1) = some 0 ∧ activeMask pMma gn = 0 ∧ g.handler = none ∧
    (∀ c, c = 0 ∨ c = 1 → ∀ e, findEngine s c = some e → e.claim = (g.task, g.party)) ∧
    (((findEngine s 0).map (·.queue)).getD []).length < 8 ∧ g.core % 2 = 0 ∧
    (∃ q, findPart s (partOf s g.task) = some q ∧ q.cores.getLsbD (g.core + 1) = true) ∧
    ¬ ∀ e, findEngine (sX [freshEngine 0 (9, 0) false] pMma) 0 = some e → e.claim = (g.task, g.party) := by
  refine ⟨⟨rfl, rfl, rfl⟩, by decide, by decide, by decide, rfl, fun c hc e he => ?_, by decide, by decide,
    ⟨_, rfl, by decide⟩, fun h => absurd (h _ rfl) (by decide)⟩
  rcases hc with rfl | rfl <;>
  · obtain rfl := Option.some.inj he
    rfl

theorem test_meets_matrixLoads :
    let s := sX [en 0 []] pMma
    let g := withPaths [pMma]
    (∀ n, n = 16384 ∨ n = 20480 → ReadableBlock s g 0 .party (laneReg g 0 0).toNat 128 n (rangeBytes s 0 0 n 0) ∧
      resolve s g .party (laneReg g 0 0).toNat n = .ok 0) ∧ 16384 * Ty.i8.size * 1 = 16384 := by
  refine ⟨fun n hn => ?_, rfl⟩
  have h := resolve_party (sX [en 0 []] pMma) (withPaths [pMma]) tX 0 n rfl (by rcases hn with rfl | rfl <;> decide)
  exact ⟨⟨by decide, 0, h, block_zero _ _ _ _ _ rfl rfl, fun _ _ => rfl, rfl⟩, h⟩

theorem test_meets_matrixStream :
    let s := sX [en 0 []] pMma
    let g := withPaths [pMma]
    let q := planeAhead s 0 0 false
    let sr := fun k => (sreg pMma ((8 : BitVec 6).toNat + k)).toNat
    streamOk (sr 0) (sr 1) (sr 2) (sr 3) false = true ∧ planeFits .i8 q = true ∧ rowBytes .i8 q ≤ sr 1 ∧
    (laneReg g 0 0).toNat % 32 = 0 ∧ sr 0 % 2 ^ 9 = 1 ∧
    resolve s g .party (0 + 0 * sr 1) (rowBytes .i8 q) = .ok (absoluteOf s g .party (0 + 0 * sr 1)) ∧
    blockReady s 0 0 0 128 0 = true ∧ ∀ sec ∈ sectorRange 0 128, sectorErrors s sec = [] :=
  ⟨by decide, by decide, by decide, by decide, by decide, rfl, by decide, fun _ _ => rfl⟩

theorem test_meets_matrixScaledStream :
    let s := sX [{ en 0 [] with active := { emptyPlane with loaded := true, ty := .e4m3 } }] pMma
    let g := withPaths [pMma]
    let q := planeAhead s 0 0 false
    let sr := fun k => (sreg pMma ((8 : BitVec 6).toNat + k)).toNat
    streamOk (sr 0) (sr 1) (sr 2) (sr 3) true = true ∧ planeFits .e5m2 q = true ∧ Ty.e5m2 ≠ .i8 ∧ rowBytes .e5m2 q ≤ sr 1 ∧
    blockReady s 0 0 0 4 0 = true ∧ resolve s g .party (sr 2 + 0 * sr 3) 4 = .ok (absoluteOf s g .party (sr 2 + 0 * sr 3)) :=
  ⟨by decide, by decide, by decide, by decide, by decide, rfl⟩

theorem test_meets_matrixDrain :
    let s := sX [en 0 []] pDrn
    let g := withPaths [pDrn]
    let d := drainSpecOf pDrn 8 (laneReg g 0 0).toNat .f32 false
    drainFieldsOk (sreg pDrn 8).toNat d false = true ∧ drainOverlaps d false = false ∧ drainMisaligned d = none ∧
    firstFailing s g ((drainRanges d false).map fun r => ⟨.party, r.1, r.2⟩) = none := ⟨by decide, by decide, by decide, rfl⟩

set_option exponentiation.threshold 600 in
/-- A full queue that leads a follower, an odd core, a core whose neighbour is no core of the partition, and weights
in a sector that cannot be decoded. -/
theorem test_meets_matrixRefusals :
    let e : Engine := { en 0 (List.replicate 8 default) with leads := true }
    let s := sX [e, freshEngine 1 (0, 0) true] pMma
    let g := withPaths [pMma]
    findEngine s 0 = some e ∧ 8 ≤ e.queue.length ∧ (∃ f, findEngine s 1 = some f) ∧
    (∀ x ∈ s.eng.matrix, x.core = 0 → x.leads = true) ∧ ({ g with core := 1 } : Group).core % 2 = 1 ∧
    Issuing { s with groups := [{ g with core := 1 }] } { g with core := 1 } pMma 0xE0000070 ∧
    (∀ q, findPart ({ s with parts := [programPart 0] } : State) 0 = some q → q.cores.getLsbD (g.core + 1) = false) := by
  refine ⟨rfl, by decide, ⟨_, rfl⟩, by decide, rfl, ⟨rfl, rfl, rfl⟩, fun q hq => ?_⟩
  obtain rfl := Option.some.inj hq
  decide

theorem test_meets_matrixBadSector :
    let s : State := { sX [en 0 []] pMma with sram.flips := [((0, 3), 1), ((0, 4), 1)] }
    0 ∈ sectorRange 0 16384 ∧ sectorBad s 0 = true ∧ findTask s 0 = some tX ∧ tX.stop = none := by decide +kernel

/-- An immutable region in granule 4 whose scales stand in granule 5. -/
def tScl : Task := { tX with
  decl := { tX.decl with regions := [{ (default : Region) with kind := .immutable, size := 4096, sfmt := .e4m3, blen := 2, sclr := 1 },
    { (default : Region) with kind := .immutable, size := 4096 }] }
  bases := [some 16384, some 20480] }

theorem test_meets_declaredScale :
    let s : State := { sX [en 0 []] pMma with tasks := [tScl], sram.owners := [(4, .region 0 0), (5, .region 0 1)] }
    (declaredScale s (withPaths [pMma]) .immutable (16384 + 128) 128).isSome = true := by decide

/-- An operation of lane 0. -/
def mop (a : MatrixAct) : MatrixOp := { (default : MatrixOp) with act := a }

/-- The turn of an operation, alone or with a follower, and engines with a soft error. -/
theorem test_meets_matrixTurn (a : MatrixAct) (pair : Bool) :
    let e : Engine := { en 0 [mop a] with leads := pair }
    let f : Engine := freshEngine 1 (0, 0) true
    let s := sX (if pair then [e, f] else [e]) pT
    findEngine s 0 = some e ∧ e.queue = mop a :: [] ∧ landsAllowed s 0 = true ∧ Memory.wf e.acc0 = true ∧
    Memory.wf e.acc1 = true ∧ Memory.wf f.acc0 = true ∧ Memory.wf f.acc1 = true ∧ findGroup s 0 = some (withPaths [pT]) ∧
    (mop a).lane < 64 ∧ drainWaits s 0 (mop a) = false ∧ findEngine s 1 = (if pair then some f else none) ∧
    f = (findEngine s 1).getD (freshEngine (0 + 1) e.claim true) ∧
    ¬ (e.softError = true ∨ (e.leads = true ∧ f.softError = true)) := by
  refine ⟨by cases pair <;> rfl, rfl, by cases pair <;> rfl, rfl, rfl, rfl, rfl, by cases pair <;> rfl, Nat.succ_pos 63, ?_,
    by cases pair <;> rfl, by cases pair <;> rfl, fun h => by rcases h with h | h <;> cases pair <;> simp [en, freshEngine] at h⟩
  cases pair <;> cases a <;> rfl

theorem test_meets_softErrors :
    (let e : Engine := { en 0 [mop (.zero true false)] with softError := true }
     findEngine (sX [e] pT) 0 = some e ∧ e.softError = true) ∧
    (let e : Engine := { en 0 [mop (.zero true true)] with leads := true }
     let f : Engine := { freshEngine 1 (0, 0) true with softError := true }
     findEngine (sX [e, f] pT) 0 = some e ∧ e.leads = true ∧ findEngine (sX [e, f] pT) 1 = some f ∧ f.softError = true) := by
  decide

/-- Every key of a block of like cells reads the same. -/
theorem cellGet_block (v : Byte) (n : Nat) : ∀ a j, a ≤ j → j < a + n →
    cellGet ((List.range' a n).map fun k => (k, v)) j = v := by
  induction n with
  | zero => intro a j h1 h2; omega
  | succ n ih =>
    intro a j h1 h2
    simp only [List.range'_succ, List.map_cons, cellGet]
    split
    · rfl
    · exact ih (a + 1) j (by omega) (by omega)

/-- An image whose selectors choose the elements 0 and 1 of every group, and one of zeros whose first selector is
illegal. -/
theorem test_meets_selectors :
    let img : Cells 8 := (List.range' 0 40960).map fun k => (k, 0x44)
    let nibble := fun (m : Cells 8) n gr =>
      elemAt m 4 ((if n < 128 then 0 else 20480) + 16384 + 4 * (8 * (n % 128) + gr / 8)) / 2 ^ (4 * (gr % 8)) % 16
    (∀ n gr, n < 256 → gr < 64 → ¬ nibble img n gr / 4 ≤ nibble img n gr % 4) ∧ nibble [] 0 0 / 4 ≤ nibble [] 0 0 % 4 := by
  intro img nibble
  refine ⟨fun n gr hn hg => ?_, by decide⟩
  have hb : ∀ o, o + 3 < 40960 → elemAt img 4 o = 0x44444444 := by
    intro o ho
    have h : ∀ i, i < 4 → cellGet img (o + i) = 0x44 := fun i hi => cellGet_block 0x44 40960 0 (o + i) (by omega) (by omega)
    simp only [elemAt, bytesAt, show List.range 4 = [0, 1, 2, 3] from rfl, List.map_cons, List.map_nil, h 0 (by decide),
      h 1 (by decide), h 2 (by decide), h 3 (by decide)]
    rfl
  simp only [nibble]
  rw [hb _ (by split <;> omega)]
  exact (by decide : ∀ k, k < 8 → ¬ 0x44444444 / 2 ^ (4 * k) % 16 / 4 ≤ 0x44444444 / 2 ^ (4 * k) % 16 % 4) (gr % 8) (by omega)

/-- The path of a sparse weight load waits for its selectors. -/
theorem test_meets_selectorPark :
    let p : Path := { pT with park := some (.selector (mop (.zero true false)).head.id) }
    findPath (withPaths [p]) 0 = some p ∧ p.park = some (.selector 0) ∧ (withPaths [p]).gid = 0 := ⟨rfl, rfl, rfl⟩

theorem test_meets_matrixActs :
    (3 : Nat) < 64 ∧ (∀ l ∈ [0, 63], l < 64) ∧ ([(0, (1 : Word)), (63, 2)].map (·.1)).Nodup ∧ 255 + 1 ≤ 256 ∧
    (en 0 []).active.sparse = false ∧ (en 0 []).active.ty = .i8 ∧ (freshEngine 1 (0, 0) true).active.sparse = false ∧
    Ty.e4m3 ≠ .i8 ∧ (4 : Nat) < 5 ∧ 0 < 256 / 128 ∧ Ty.e4m3 ∈ [Ty.f32, .i32, .i8, .bf16, .f16, .e5m2, .e4m3] := by decide

theorem test_meets_drainWrite :
    let d : Drain := { head := { (default : ReqHead) with id := 5 }, pieces := [(1, [(128, 7), (129, 8)])], begun := false }
    let s : State := { sC true tC (cp false .todo) with eng.drains := [d] }
    s.eng.drains.find? (fun y => decide (y.head.id = d.head.id)) = some d ∧
    d.pieces.find? (fun x => decide (x.1 = 1)) = some (1, [(128, 7), (129, 8)]) ∧ taskStarts s 0 = true ∧
    engineMayWrite s 5 1 = true ∧ (∀ sec, sectorErrors s sec = []) ∧ Memory.wf s.sram.mem = true ∧
    ([(128, (7 : Byte)), (129, 8)].map (·.1)).Nodup :=
  ⟨rfl, rfl, by decide, by decide, fun _ => rfl, by decide, by decide⟩

theorem test_meets_claimEnd :
    let e := { en 0 [] with leads := true }
    let s : State := { sX [e, freshEngine 1 (0, 0) true] pT with groups := [] }
    findEngine s 0 = some e ∧ claimOver s e = true ∧ e.leads = true := ⟨rfl, by decide, rfl⟩


/-! Tasks -/

/-- The machine of `sT` with other task records, one partition and some bytes at the start of the scratch. -/
def sN (ts : List Task) (q : Partition) (m : Cells 8) : State := { sT with tasks := ts, parts := [q], sram.mem := m }
/-- A launch descriptor: no completion cell, task 0 of the object, one party. -/
def dN : Cells 8 := [(3, 8), (4, 1)]

theorem test_meets_enqueue (k : Task) (q : Partition) (m : Cells 8) (hk : k.uid = 0) (hs : k.decl.scratch = 4096)
    (hp : k.places = [{ index := 0, core := 0, base := 0 }]) (hq : q.id = k.part) :
    let s := sN [k] q m
    Issuing s gT pT 0xE0000070 ∧ lowest (activeMask pT g1) = some 0 ∧ lowest (activeMask pT { inv := true, p := 0 }) = some 1 ∧
    gT.handler = none ∧ findTask s gT.task = some k ∧ findPart s k.part = some q ∧
    ReadableBlock s gT 0 .party (laneReg gT 0 0).toNat 32 32 (rangeBytes s 0 0 32 0) := by
  have ht : findTask (sN [k] q m) gT.task = some k := by simp [findTask, sN, hk, gT, programGroup]
  refine ⟨⟨rfl, rfl, rfl⟩, by decide, by decide, rfl, ht, by simp [findPart, sN, hq], by decide, _,
    resolve_party _ _ k 0 32 ht (by rw [hs]; decide), block_zero _ _ _ _ _ rfl rfl, fun _ _ => rfl, ?_⟩
  have e : scratchBase k gT.party = 0 := by simp [scratchBase, placeOf, hp, gT, programGroup]
  rw [e]
  rfl

/-- The refusal code of R270 for the descriptor in some bytes, as lane `l` of task `k`. -/
def codeN (k : Task) (q : Partition) (m : Cells 8) (l : Nat) : Nat :=
  let s := sN [k] q m
  let r := launchOf (wordsOf (rangeBytes s 0 0 32 0))
  let decl := declOf (objectOf s k.object) r
  refusal s q decl r true (decide ((laneOf gT l).index = 0)) (k.depth + 1)
    (newTask s.fresh k.part 0 k.object (decl.getD default) r (max r.cls k.cls) (k.depth + 1) (some k.uid) none none)

theorem test_meets_enqueueRefused :
    let t := programTask 0
    let q := programPart 0
    codeN { t with depth := 10 } q dN 0 = 1 ∧ codeN t { q with recs := 1 } dN 0 = 3 ∧ codeN t q [] 0 = 4 ∧
    codeN t q dN 1 = 5 ∧ recordsHeld (sN [t] { q with recs := 1 } dN) 0 = 1 ∧ recordsHeld (sN [t] q dN) 0 < q.recs ∧
    declaresTables programDecl = false ∧ (laneOf gT 1).index ≠ 0 := by decide +kernel

theorem test_meets_enqueueAccepted :
    let t := programTask 0
    let s := sN [t] (programPart 0) dN
    codeN t (programPart 0) dN 0 = 0 ∧ (launchOf (wordsOf (rangeBytes s 0 0 32 0))).nocc = true ∧
    ∀ y ∈ s.tasks, y.uid < s.fresh ∧ (y.state = .waiting → y.counter ≠ 0) := by decide +kernel

theorem test_meets_enqueueCell :
    let s := sN [programTask 0] (programPart 0) [(4, 1)]
    let r := launchOf (wordsOf (rangeBytes s 0 0 32 0))
    r.nocc = false ∧ ∃ x, resolve s gT (spaceBit r.csp) r.ccell 4 = .ok x := ⟨by decide +kernel, 0, rfl⟩

/-- The issuing task with a pool, a second task and a held child. -/
def tP (b : Nat) (c : List (Nat × Nat × Nat)) : Task :=
  { programTask 0 with pool := { items := 600, begun := b, current := c } }
def tE (st : TaskState) : Task := { programTask 1 with part := 0, handle := 2, state := st }
def tH : Task := { programTask 2 with
  part := 0, handle := 3, state := .waiting, hold := true, parent := some 0, counter := 1 }
def qP : Partition := { programPart 0 with lastHandle := 3 }
/-- Handles 2 and 3, 3 and 2, and 9 and 3, from `s8`. -/
def pE (a b : Word) : Path := pBlock [a, b]

theorem test_meets_pools (b : Nat) (c : List (Nat × Nat × Nat)) :
    let s := sN [tP b c, tE .running, tH] qP []
    Issuing s gT pT 0xE0000070 ∧ lowest (activeMask pT g1) = some 0 ∧ gT.handler = none ∧ findTask s gT.task = some (tP b c) ∧
    findPart s (tP b c).part = some qP := ⟨⟨rfl, rfl, rfl⟩, by decide, rfl, rfl, rfl⟩

theorem test_meets_poolCases :
    let range := fun (t : Task) y => assoc t.pool.current y (0, 0)
    (range (tP 1 [(0, 255, 256)]) 0).1 < (range (tP 1 [(0, 255, 256)]) 0).2 ∧
    ((range (tP 2 [(0, 512, 512)]) 0).2 ≤ (range (tP 2 [(0, 512, 512)]) 0).1 ∧ 2 * 256 < (tP 2 []).pool.items) ∧
    ((range (tP 3 [(0, 5, 5), (7, 599, 600)]) 7).1 < (range (tP 3 [(0, 5, 5), (7, 599, 600)]) 7).2 ∧
      (tP 3 []).pool.items ≤ 3 * 256) := by decide

theorem test_meets_poolSteal (y : Nat) :
    (y ≠ 7 → (assoc (tP 3 [(0, 5, 5), (7, 599, 600)]).pool.current y (0, 0)).2 ≤
      (assoc (tP 3 [(0, 5, 5), (7, 599, 600)]).pool.current y (0, 0)).1) ∧
    (assoc (tP 3 []).pool.current y (0, 0)).2 ≤ (assoc (tP 3 []).pool.current y (0, 0)).1 := by
  refine ⟨fun h => ?_, Nat.le_refl _⟩
  by_cases h0 : y = 0
  · subst h0; decide
  · have e0 : ¬ 0 = y := fun e => h0 e.symm
    have e7 : ¬ 7 = y := fun e => h e.symm
    simp [tP, assoc, e0, e7]

theorem test_meets_edges :
    let s := sN [tP 0 [], tE .running, tH] qP []
    let A := fun p : Path => (sreg p ((8 : BitVec 6)).toNat).toNat
    let B := fun p : Path => (sreg p ((8 : BitVec 6).toNat + 1)).toNat
    let issued := fun h => h ≠ 0 ∧ h ≤ qP.lastHandle
    (issued (A (pE 2 3)) ∧ issued (B (pE 2 3)) ∧ ¬ issued (A (pE 4 3)) ∧ ¬ issued (B (pE 2 0)) ∧ A (pE 2 3) < B (pE 2 3) ∧
      B (pE 3 3) ≤ A (pE 3 3)) ∧
    taskByHandle s 0 2 = some (tE .running) ∧ (tE .running).state ≠ .ended ∧ taskByHandle s 0 3 = some tH ∧
    (tH.state = .waiting ∧ tH.hold = true ∧ tH.parent = some (tP 0 []).uid) ∧
    taskByHandle (sN [tP 0 [], tE .ended, tH] qP []) 0 2 = some (tE .ended) ∧ (tE .ended).stop = none ∧
    (∀ y ∈ s.tasks, (y.uid = tH.uid → y = tH) ∧ (y.state = .waiting → y.counter ≠ 0)) := by decide

/-- The codes of a descriptor with AOV whose task has no first record, of one with an argument and no AOV, and of one with
AOV and arguments whose task's first record takes them. -/
def codeA (regions : List Region) (m : Cells 8) : Nat :=
  let s : State := { sN [programTask 0] (programPart 0) m with
    objects := [{ programObject 0 with tasks := [some { programDecl with regions := regions }] }] }
  let r := launchOf (wordsOf (rangeBytes s 0 0 32 0))
  let decl := declOf (objectOf s 0) r
  refusal s (programPart 0) decl r true true 1 (newTask s.fresh 0 0 0 (decl.getD default) r r.cls 1 (some 0) none none)

theorem test_meets_argumentOverlay :
    let word := fun (m : Cells 8) j =>
      ((wordsOf (rangeBytes (sN [programTask 0] (programPart 0) m) 0 0 32 0))[j]?).getD 0
    codeA [] [(3, 0x18), (4, 1)] = 4 ∧ word [(3, 0x18), (4, 1)] 0 / 2 ^ 28 % 2 = 1 ∧
    codeA [] [(3, 8), (4, 1), (16, 1)] = 4 ∧ word [(3, 8), (4, 1), (16, 1)] 4 ≠ 0 ∧
    codeA [{ kReg with far := 0x10000 }] [(3, 0x18), (4, 1), (16, 1)] = 0 ∧
    word [(3, 0x18), (4, 1), (16, 1)] 0 / 2 ^ 28 % 2 = 1 := by decide +kernel

/-- A path that two scalars are owed to, and an edge from a task that was stopped. -/
theorem test_meets_owedAndCancelledEdge :
    let e : Task := { tE .ended with stop := some 2 }
    let s := sN [tP 0 [], e, tH] qP []
    (∃ p : Path, p.owed = [(8, 1), (9, 2)] ∧ p = { pT with owed := [(8, 1), (9, 2)] }) ∧
    taskByHandle s 0 2 = some e ∧ e.state = .ended ∧ e.stop.isSome = true ∧ taskByHandle s 0 3 = some tH ∧
    findTask s tH.uid = some tH ∧ tH.stop = none :=
  ⟨⟨_, rfl, rfl⟩, by decide⟩

/-! Scheduling -/

/-- A released task of the partition, as a launch leaves it. -/
def tAd (cls h : Nat) : Task := { programTask 0 with
  uid := h, handle := h, cls := cls, state := .released, places := [], inst := none }
def sAd (ts : List Task) (q : Partition) : State := { sN ts q [] with groups := [], sram.owners := [], now := 1300000 }

theorem test_meets_admission :
    let k := tAd 0 5
    let q := programPart 0
    let s := sAd [k] q
    findTask s k.uid = some k ∧ k.state = .released ∧ findPart s k.part = some q ∧
    (nextAdmitted s k.tract k.part).map (·.uid) = some k.uid ∧ blockFor s q k = some none ∧
    k.saved = none ∧ (admitPlan (.given [1535, 0]) q k s).map (fun r => r.2.2.made.length) = some ([1535, 0] : List Nat).length := by
  decide +kernel

theorem test_meets_blocking :
    let k := tAd 1 5
    let s := sAd [{ tAd 1 6 with blocking := true }, k] (programPart 0)
    findTask s k.uid = some k ∧ awaits k = true ∧ k.blocking = false ∧ k.releasedAt + 1300000 ≤ s.now ∧
    ∀ y ∈ s.tasks, y.blocking = true → awaits y = true → y.part = k.part → y.cls = k.cls → k.handle ≤ y.handle := by decide

/-- A machine whose partition has a context area that holds the context of its task. -/
def sA (ts : List Task) (v : Task) (q : Partition) : State :=
  sAd ts { q with ctxSize := contextsHeld (sAd ts q) v.part + contextSize (sAd ts q) v }

theorem contextFits_sA (ts : List Task) (v : Task) (q : Partition) (h : q.id = v.part) :
    contextFits (sA ts v q) v = true := by
  have e : findPart (sA ts v q) v.part = some { q with ctxSize := contextsHeld (sAd ts q) v.part + contextSize (sAd ts q) v } := by
    simp [findPart, sA, sAd, sN, h]
  simp only [contextFits, e]
  exact decide_eq_true (Nat.le_refl _)

/-- A running task of class 3, and one of class 0 for whose table no block is free. -/
def tV : Task := { programTask 0 with cls := 3, handle := 7, uid := 7 }
def tW : Task := { tAd 0 5 with decl := { programDecl with regions := [{ (default : Region) with kind := .table }] } }

theorem test_meets_classPreemption :
    let k := tW
    let s := sA [tV, k] tV (programPart 0)
    findTask s k.uid = some k ∧ awaits k = true ∧ k.releasedAt + 130000 ≤ s.now ∧ fits s k = false ∧
    (∀ y ∈ s.tasks, y.part = k.part → y.saving = false) ∧ tV ∈ s.tasks ∧ maySave s tV = true ∧ tV.part = k.part ∧
    k.cls < tV.cls ∧ ∀ y ∈ s.tasks, maySave s y = true → y.part = k.part → k.cls < y.cls → y.handle < tV.handle ∨ y = tV := by
  refine ⟨rfl, rfl, by show 0 + 130000 ≤ 1300000; decide, rfl, fun y hy _ => ?_, .head _, ?_, rfl, by decide, fun y hy hm _ _ => ?_⟩
  · simp only [sA, sAd, sN, List.mem_cons, List.not_mem_nil, or_false] at hy
    rcases hy with rfl | rfl <;> rfl
  · have h := contextFits_sA [tV, tW] tV (programPart 0) rfl
    simp only [maySave, h]
    rfl
  · simp only [sA, sAd, sN, List.mem_cons, List.not_mem_nil, or_false] at hy
    rcases hy with rfl | rfl
    · exact .inr rfl
    · exact absurd hm (by simp [maySave, tW, tAd])

theorem test_meets_steal :
    let k := tAd 0 5
    let s := sAd [k] { programPart 0 with cores := 1 ||| 1 <<< 64 }
    findTask s k.uid = some k ∧ maySteal s 1 k.part = true ∧ (stealable s 1 k.part).map (·.uid) = some k.uid := by
  decide +kernel

/-- An admitted task with one staging burst in a state. -/
def tG (xs : List BurstState) : Task := { programTask 0 with
  state := .admitted, xfers := xs.map fun st => { core := 0, va := 0x1000, len := 64, write := false, data := [], state := st } }

theorem test_meets_staging (xs : List BurstState) :
    let k := tG xs
    let s := sN [k] (programPart 0) []
    findTask s k.uid = some k ∧ k.state = .admitted ∧ k.stop = none ∧ k.ccell = none ∧ k.fn = none ∧ k.decl.regions = [] ∧
    k.args = none ∧ 0 < k.decl.width := ⟨rfl, rfl, rfl, rfl, rfl, rfl, rfl, Nat.succ_pos 7⟩

theorem test_meets_stagingCases :
    let s := fun xs => sN [tG xs] (programPart 0) []
    xfersDone (s [.todo]) (tG [.todo]) = false ∧
    (xfersDone (s [.failed 1]) (tG [.failed 1]) = true ∧ ∃ x ∈ (tG [.failed 1]).xfers, xferFailed x = true) ∧
    (xfersDone (s [.got []]) (tG [.got []]) = true ∧ ∀ x ∈ (tG [.got []]).xfers, xferFailed x = false) := by decide

/-- A task with arguments, whose first record stands at granule 1. -/
theorem test_meets_stagedArguments :
    let k : Task := { tG [] with args := some [1, 2, 3, 4], bases := [some 4096], decl := { programDecl with regions := [kReg] } }
    let s := sN [k] (programPart 0) []
    findTask s k.uid = some k ∧ k.state = .admitted ∧ k.stop = none ∧ xfersDone s k = true ∧
    (∀ x ∈ k.xfers, xferFailed x = false) ∧ k.args = some [1, 2, 3, 4] ∧ k.bases.head? = some (some 4096) ∧
    Memory.wf s.sram.mem = true := by decide

/-- A group in the pending set, and one in the active set, parked or long at issue. -/
def gP : Group := { gT with gid := 1, active := none }
def gX (parked : Bool) : Group :=
  { gT with issued := 256, paths := [{ pT with park := if parked then some (.join 0xFF) else none }] }
def sX2 (gs : List Group) : State := { sT with groups := gs }

theorem test_meets_activeSet :
    (parkedActive (sX2 [gP]) 0 = none ∧ activeSlot (sX2 [gP]) 0 = some 0 ∧ longestReady (sX2 [gP]) 0 = some gP) ∧
    (parkedActive (sX2 [gX true]) 0 = some (gX true) ∧ longestReady (deactivate (sX2 [gX true]) (gX true)) 0 = none) ∧
    (longIssued (sX2 [gX false, gP]) 0 = some (gX false) ∧ longestReady (sX2 [gX false, gP]) 0 = some gP ∧
      (gX false).active = some 0 ∧ (gX false).gid ≠ gP.gid) := by decide

/-! Leaving and returning -/

theorem test_meets_retirement :
    let k : Task := { programTask 5 with part := 0, parent := some 0, ccell := some 8, decl := { programDecl with relocs := [] } }
    let j : Task := { tH with preds := [5] }
    let s : State := { sN [programTask 0, k, j] (programPart 0) [] with groups := [] }
    findTask s k.uid = some k ∧ mayRetire s k = true ∧ k.xfers = [] ∧ outRegions k = [] ∧ keptOf k = [] ∧
    (k.fn = none ∧ k.ccell = some 8 ∧ k.parent = some (programTask 0).uid ∧ (programTask 0).uid ≠ k.uid ∧
      findTask s 0 = some (programTask 0) ∧ savedCell (programTask 0) 8 = none ∧ (programTask 0).state ≠ .ended ∧
      Memory.wf s.sram.mem = true ∧ 8 % 4 = 0) ∧
    (findTask s j.uid = some j ∧ j.uid ≠ k.uid ∧ j.state = .waiting ∧ j.preds = [k.uid] ∧ j.counter = 1) ∧
    ({ k with fn := some 3 } : Task).fn = some 3 := by decide

theorem test_meets_stop :
    let k : Task := { programTask 0 with stop := some 2 }
    let j : Task := { tH with preds := [0], parent := none }
    let s := sN [k, j] (programPart 0) []
    findTask s k.uid = some k ∧ k.stop = some 2 ∧ k.state ≠ .ended ∧ liveChildren s k.uid = [] ∧ writesBegun s k.uid = false ∧ k.fn = none ∧
    (∀ g ∈ s.groups, g.task = k.uid → ∀ y ∈ g.paths, y.pre.rank = 0 ∨ canGo s g y = false) ∧ s.groups ≠ [] ∧
    k.ccell = none ∧ successors s k.uid = [j.uid] ∧ findTask s j.uid = some j ∧ j.uid ≠ k.uid ∧ j.state = .waiting ∧ j.stop = none := by decide

/-- A stopped task with a running child, and one with a thread that has exited. -/
theorem test_meets_stopWithChild :
    let k : Task := { programTask 0 with stop := some 2, exited := [default] }
    let j : Task := { programTask 2 with part := 0, handle := 3, parent := some 0 }
    let s := sN [k, j] (programPart 0) []
    (liveChildren s k.uid).map (·.uid) = [j.uid] ∧ findTask s j.uid = some j ∧ j.uid ≠ k.uid ∧ j.stop = none ∧
    j.state ≠ .waiting ∧ default ∈ k.exited := by decide

theorem test_meets_preemption (saving : Bool) :
    let k : Task := { programTask 0 with saving := saving }
    let s := sA [k] k (programPart 0)
    findTask s k.uid = some k ∧ k.state = .running ∧ k.stop = none ∧ contextFits s k = true ∧ settledForSave s k.uid = true ∧
    contextFits { s with parts := [] } k = false :=
  ⟨rfl, rfl, rfl, contextFits_sA _ _ _ rfl, rfl, rfl⟩

/-- A pre-empted task with its group and one byte of its scratch. -/
def vS : Saved := { (default : Saved) with
  places := [{ index := 0, core := 0, base := 0 }], groups := [gT], scratch := [(0, [(4095, 7)])] }
def tY : Task := { programTask 0 with state := .released, saved := some vS, places := [] }

theorem test_meets_restore :
    let s := sAd [tY] (programPart 0)
    findTask s tY.uid = some tY ∧ tY.state = .released ∧ tY.saved = some vS ∧ findPart s tY.part = some (programPart 0) ∧
    (nextAdmitted s tY.tract tY.part).map (·.uid) = some tY.uid ∧
    (restorePlan (.given [0, 1]) s (programPart 0) tY).map (fun p => p.2.made.length) = some ([0, 1] : List Nat).length ∧
    (vS.groups.map (·.gid)).Nodup ∧ (∀ g ∈ vS.groups, ∀ y ∈ s.groups, y.gid ≠ g.gid) ∧ vS.scratch = [(0, [(4095, 7)])] ∧
    Memory.wf s.sram.mem = true ∧ Memory.wf ([(4095, 7)] : Cells 8) = true ∧ 4095 < tY.decl.scratch := by decide +kernel

/-! Translation -/

/-- A copy whose one burst is in a state, and translation state. -/
def sTr (st : BurstState) (x : Xlate) : State := { sC true tC (cp false st) with xlate := x }
/-- The burst as it waits. -/
def wT (s : State) : Waiter := (waiters s).headD { client := clientOf s default (.copy 0) 0, va := 0, write := none, len := 0, state := .todo }
def xT : Xlate := { sT.xlate with asked := [(0, 0, 1, false)] }

/-- The one burst waits for page 1. -/
theorem waits_xT (tries : Nat) : (waiters (sTr (.ats tries) xT)).filter
    (fun w => waitsAts w && needsPage (sTr (.ats tries) xT) w 0 0 1 false) = [wT (sTr (.ats tries) xT)] := by
  have h : waiters (sTr (.ats tries) xT) = [wT (sTr (.ats tries) xT)] := rfl
  have hc : (wT (sTr (.ats tries) xT)).client.core = 0 := rfl
  have hv : (wT (sTr (.ats tries) xT)).va = 4096 := rfl
  have hp : (wT (sTr (.ats tries) xT)).client.pasid = 0 := rfl
  have hw : (wT (sTr (.ats tries) xT)).write = none := rfl
  have ha : waitsAts (wT (sTr (.ats tries) xT)) = true := rfl
  rw [h]
  simp [needsPage, xlateKey, hc, hv, hp, hw, ha, isFabric, tractOf, pageOf]

theorem test_meets_atsCompletion (tries : Nat) :
    let c := cp false (.ats tries)
    let s := sTr (.ats tries) xT
    findCopy s c.head.id = some c ∧ c.bursts[0]? = some c.bursts.head! ∧ (wT s).client.req = c.head.id ∧
    (wT s).client.n = 0 ∧ s.xlate.asked.filter (fun r => decide (r.2.1 = 0) && decide (r.2.2.1 = pageOf 0x1000)) = [(0, 0, 1, false)] ∧
    (waiters s).filter (fun w => waitsAts w && needsPage s w 0 0 1 false) = [wT s] ∧ (wT s).state = .ats tries ∧
    (bufferOf s.xlate 0).length < 512 ∧ pageRefused s (wT s) = false ∧
    atsOk 0x1000 (.page 0x1000 4096 0x2000 true true) = true :=
  ⟨rfl, rfl, rfl, rfl, rfl, waits_xT tries, rfl, Nat.succ_pos 511, rfl, by decide +kernel⟩

/-- No burst waits for a snoop, and one that does has used an address of the invalidated page. -/
theorem test_meets_invalidation :
    (waiters (sTr .todo xT)).all (fun y => !underWay y) = true ∧
    (sTr (.snoop 0) xT).xlate.invalidating = [] ∧
    (waiters (sTr (.snoop 0) xT)).any (fun y => underWay y && usesEntry (sTr (.snoop 0) xT) [] 0 0x1000 4096 y) = true := by
  decide +kernel

/-- A record of tract 0's fault buffer. -/
def rT (t since : Nat) : PageRecord := { tract := t, gen := 0, pasid := 0, page := 1, write := false, since := since }

theorem test_meets_faultFlush :
    32 ≤ (currentRecords { xT with records := List.replicate 32 (rT 0 0) } 0).length ∧
    ∃ r ∈ currentRecords { xT with records := [rT 0 0] } 0, r.since + 1300 ≤ 1300 := by decide

theorem test_meets_pageResponse :
    let c := cp false (.page 0 2)
    let s := sTr (.page 0 2) { xT with sent := [(0, 0)], records := [rT 0 0] }
    ((0, 0) ∈ s.xlate.sent ∧ (0, 1) ∉ s.xlate.sent) ∧ findCopy s c.head.id = some c ∧ c.bursts[0]? = some c.bursts.head! ∧
    (wT s).client.req = c.head.id ∧ (wT s).client.n = 0 ∧ waitsOn s 0 0 = [wT s] ∧ (wT s).state = .page 0 2 ∧
    (xlateKey s (wT s)).isSome = true :=
  ⟨by decide, rfl, rfl, rfl, rfl, rfl, rfl, rfl⟩

theorem test_meets_stopMarker :
    7 < 8 ∧ ∀ y ∈ waiters sT, ∀ a b, y.state ≠ .page a b := ⟨by decide, fun _ hy => absurd hy (List.not_mem_nil)⟩

theorem test_meets_counterNotify :
    let e : AccessCounter := { die := 1, pasid := 3, block := 4, count := 16 }
    let q : Partition := { programPart 2 with pasid := 3 }
    let x := { xT with counters := [{ e with die := 0 }, e], thresholds := [(2, 16)] }
    (dieCounters x 1)[0]? = some e ∧ [programPart 0, q].find? (fun y => decide (y.pasid = e.pasid)) = some q ∧
    assoc x.thresholds q.id 0 = 16 ∧ 16 ≠ 0 ∧ 16 ≤ e.count := ⟨rfl, rfl, by decide⟩

/-! The host -/

/-- A function with rings, and the device that presents it. -/
def fH (sq cq : Bool) : HostFn := { newFn 0 0 with
  sqBase := 0x1000, sqN := 4, sqEn := sq, sqTail := 1, cqBase := 0x2000, cqM := 4, cqEn := cq, cqTail := 15,
  phase := true, waiting := [(9, 0x20)] }
def sH2 (f : HostFn) (m : Cells 8) : State := { sC true tC (cp false (.snoop 0x2000)) with
  host := { sT.host with fns := [f], mem := m, snoops := [(burstOf 0x2000, false), (burstOf 0x2000, true)], hpa0 := 0x10000000 }
  mgmt := { sT.mgmt with up := true } }

theorem test_meets_hostFunction (sq cq : Bool) :
    findFn (sH2 (fH sq cq) []) (fH sq cq).fn = some (fH sq cq) ∧ (fH sq cq).part ∉ (sH2 (fH sq cq) []).host.resetting ∧
    (fH sq cq).sqEn = sq ∧ (fH sq cq).cqEn = cq := ⟨rfl, List.not_mem_nil, rfl, rfl⟩

theorem test_meets_hostAccess :
    let s := sH2 (fH true true) []
    0x2000 < hdmSize ∧ queueFree s 0x2000 = true ∧ 0x2000 % 64 + 64 ≤ 64 ∧ Memory.wf s.dram.mem = true ∧
    platAllows s.dram.plat (fnDom s (fH true true)) (rowOf 0x2000) = true ∧
    platAllows (sC false tC (cp false .todo)).dram.plat (fnDom s (fH true true)) (rowOf 0x2000) = false ∧
    reportOf s.dram (burstOf 0x2000) = .clean ∧
    reportOf ({ s with dram.reports := [(burstOf 0x2000, .uncorrectable)] } : State).dram (burstOf 0x2000) = .uncorrectable := by
  decide +kernel

theorem test_meets_snoopResponse :
    let c := cp false (.snoop 0x2000)
    let s := sH2 (fH true true) []
    (burstOf 0x2000, (wT s).write.isSome) ∈ s.host.snoops ∧ findCopy s c.head.id = some c ∧ c.bursts[0]? = some c.bursts.head! ∧
    (wT s).client.req = c.head.id ∧ (wT s).client.n = 0 ∧ (wT s).write = none ∧ (wT s).state = .snoop 0x2000 ∧
    isFabric (wT s).va = false ∧
    ((waiters s).filter fun y => (waitsSnoop (burstOf 0x2000) (wT s).write.isSome y).isSome) = [wT s] ∧
    queueFree s 0x2000 = true ∧ platAllows s.dram.plat (wT s).client.dom (rowOf 0x2000) = true ∧
    reportOf s.dram (burstOf 0x2000) = .clean :=
  ⟨.head _, rfl, rfl, rfl, rfl, rfl, rfl, by decide +kernel, rfl, by decide +kernel, by decide +kernel, rfl⟩

/-- A burst of an outbound copy that waits for the host to give up the line. -/
theorem test_meets_snoopOfWrite :
    let c : Copy := { cp true (.snoop 0x2000) with nearData := some (List.replicate 64 1) }
    let s : State := { sH2 (fH true true) [] with eng.copies := [c] }
    (burstOf 0x2000, (wT s).write.isSome) ∈ s.host.snoops ∧ findCopy s c.head.id = some c ∧
    (wT s).client.req = c.head.id ∧ (wT s).client.n = 0 ∧ (wT s).write = some (List.replicate 64 1) ∧
    (wT s).state = .snoop 0x2000 ∧ isFabric (wT s).va = false ∧
    ((waiters s).filter fun y => (waitsSnoop (burstOf 0x2000) (wT s).write.isSome y).isSome) = [wT s] ∧
    platAllows s.dram.plat (wT s).client.dom (rowOf 0x2000) = true ∧ Memory.wf s.dram.mem = true :=
  ⟨.tail _ (.head _), rfl, rfl, rfl, rfl, rfl, by decide +kernel, rfl, by decide +kernel, rfl⟩

theorem test_meets_rings :
    (0x80000004 : Word).getLsbD 31 = true ∧ 4 ≤ (0x80000004 : Word).toNat % 16 ∧ (0x8000000C : Word).toNat % 16 ≤ 12 ∧
    ¬ 4 ≤ (0x80000003 : Word).toNat % 16 ∧ (0 : Word).getLsbD 31 = false := by decide

/-- The code of R270 for the submission entry in host memory. -/
def codeH (m : Cells 8) : Nat :=
  let s := sH2 (fH true true) m
  let ws := wordsOf (bytesAt s.host.mem ((fH true true).sqBase.toNat + 64 * (fH true true).sqHead) 64)
  let r := launchOf ((ws.drop 2).take 8)
  let decl := declOf (hostObject s (fH true true) (ws.getD 0 0 + 2 ^ 32 * ws.getD 1 0)) r
  refusal s { programPart 0 with dom := 1 } decl r (hostFieldsOk ws r) true 1
    (newTask s.fresh 0 0 (ws.getD 0 0 + 2 ^ 32 * ws.getD 1 0) (decl.getD default) r r.cls 1 none (some 0) none)

theorem test_meets_hostLaunch :
    let s := sH2 (fH true true) [(0x100B, 8), (0x100C, 1)]
    ((fH true true).sqEn = true ∧ (fH true true).sqHead ≠ (fH true true).sqTail ∧
      findPart s (fH true true).part = some { programPart 0 with dom := 1 }) ∧
    codeH [(0x100B, 8), (0x100C, 1)] = 0 ∧ codeH [] = 4 ∧
    ∀ k ∈ s.tasks, k.uid < s.fresh ∧ (k.state = .waiting → k.counter ≠ 0) := by decide +kernel

theorem test_meets_completionEntry :
    let f := fH true true
    f.waiting.head? = some (9, 0x20) ∧ f.cqEn = true ∧ (({ f with cqHead := 1 } : HostFn).cqTail + 1) % 2 ^ f.cqM ≠ 1 ∧
    Memory.wf (sH2 f []).host.mem = true := by decide

/-! Management -/

/-- The machine with a function, a partition 1 beside its own, a task and a kept region. -/
def sMg (f : HostFn) (k : Task) (kept : List Kept) : State := { sH2 f [] with
  tasks := [k], parts := [programPart 0, { programPart 1 with cores := 2 }], kept := kept, eng := sT.eng }

theorem test_meets_managementFunction (fn : Nat) (k : Task) (l : List Kept) :
    findFn (sMg (newFn fn 0) k l) (newFn fn 0).fn = some (newFn fn 0) := by
  simp [findFn, sMg, newFn, sH2]

/-- A quota record of 64 threads, 4 groups, 16 granules and 3 records in domain 2, on core 5. -/
def wsQ : List Word := [0x04002000, 0x00004000, 0x00060002, 0, 0, 0, 0, 0, 32] ++ List.replicate 15 0

set_option exponentiation.threshold 600 in
theorem test_meets_platAndQuota :
    let s := sMg (newFn 0 0) (programTask 0) []
    let q := { programPart 1 with cores := 2 }
    entryFieldsOk 0x820000C800670000 = true ∧
    (∀ j (h : j < 16), j ≠ 15 → compatible (0x820000C800670000 : BitVec 64) s.dram.plat[j] = true) ∧
    findPart s 1 = some q ∧ wsQ.length = 24 ∧ quotaOk s (quotaOf q wsQ) = true := by
  decide +kernel

/-- Entries that break a field or stand beside an incompatible one, quotas over their bound or on a core that is taken,
an area outside the last 240 MiB, and numbers too wide. -/
theorem test_meets_managementRefusals :
    let s := sMg (newFn 0 0) (programTask 0) []
    let q := { programPart 1 with cores := 2 }
    findPart s 1 = some q ∧ entryFieldsOk 0x8200006400C80000 = false ∧
    compatible (0x820000C800670000 : BitVec 64) 0x830000C900680000 = false ∧
    2048 < (quotaOf q (wsQ.set 0 0x80102000)).thr ∧
    (∃ x ∈ s.parts, x.id ≠ 1 ∧ x.cores &&& (quotaOf q (wsQ.set 8 1)).cores ≠ 0) ∧
    hdmSize ≤ hdmSize + 4096 ∧ hdmSize + 4096 + 4096 ≤ hdmSize + 240 * 2 ^ 20 ∧ 0 < hdmSize ∧ 2 ^ 20 ≤ 2 ^ 20 ∧ 2 ^ 15 - 1 < 2 ^ 15 := by
  decide +kernel

theorem test_meets_stopTask (hold held : Bool) :
    let k : Task := { programTask 0 with state := if hold then .waiting else .running, hold := hold, fn := some 3, held := held }
    let s := sMg (newFn 3 0) k []
    taskByHandle s (newFn 3 0).part 1 = some k ∧ k.state ≠ .ended ∧ k.stop = none ∧ findTask s k.uid = some k ∧ k.held = held ∧
    (hold = true → k.state = .waiting ∧ k.hold = true ∧ k.fn = some (newFn 3 0).fn) ∧
    taskByHandle s (newFn 3 0).part 2 = none := by
  cases hold <;> exact ⟨rfl, by simp, rfl, rfl, rfl, by simp [newFn], rfl⟩

theorem test_meets_keptRegion :
    let y : Kept := { (default : Kept) with far := 0x5000 }
    let s := sMg (newFn 3 0) (programTask 0) [y]
    y ∈ s.kept ∧ y.part = (newFn 3 0).part ∧ y.far = 0x5000 ∧ findPart s (newFn 3 0).part = some (programPart 0) ∧ 511 < 512 :=
  ⟨.head _, rfl, rfl, rfl, by decide⟩

theorem test_meets_flush : ∀ y ∈ waiters (sMg (newFn 0 0) (programTask 0) []), ∀ a b, y.state ≠ .page a b :=
  fun _ hy => absurd hy (List.not_mem_nil)

theorem test_meets_functionReset :
    let f := newFn 3 0
    let s := sMg f (programTask 0) []
    let s2 : State := { s with host := { s.host with resetting := [0] }, tasks := [{ programTask 0 with state := .ended }] }
    f.fn ≠ 0 ∧ f.part ∉ s.host.resetting ∧ (∀ y ∈ s.tasks, y.part = f.part → y.state ≠ .ended ∧ y.stop = none) ∧
    (s.tasks.map (·.uid)).Nodup ∧ f.part ∈ s2.host.resetting ∧ (∀ y ∈ s2.tasks, y.part = f.part → y.state = .ended) ∧
    waiters s2 = [] := ⟨by decide, by decide, by decide, by decide, by decide, by decide, rfl⟩

/-! The fabric and the device -/

/-- A command sent for burst 0 of the copy. -/
def oF (wr : Bool) : FabOut :=
  { part := 0, seq := 4, dev := 2, rva := 0x40, write := wr, data := [1, 2], req := 5, burst := 0, port := 1, sends := 1, since := 0, peer := 6, pasid := 0 }
def sF (wr : Bool) : State := { sC true tC (cp wr (.fabric 4)) with
  now := 13000
  fabric := { sT.fabric with out := [oF wr], replay := [(1, 4)], done := [⟨3, 8, 0, []⟩] }
  host := { sT.host with resetting := [1] }
  mgmt := { sT.mgmt with up := true, ceilings := List.replicate 8 8 } }

theorem test_meets_fabricAnswer (wr : Bool) :
    let s := sF wr
    let c := cp wr (.fabric 4)
    (findCopy s c.head.id = some c ∧ c.bursts[0]? = some c.bursts.head! ∧ (wT s).client.req = c.head.id ∧ (wT s).client.n = 0) ∧
    ((waiters s).find? fun y => decide (y.client.req = (oF wr).req) && decide (y.client.n = (oF wr).burst) &&
      decide (y.state = .fabric (oF wr).seq)) = some (wT s) ∧ (oF wr).part ∉ s.host.resetting ∧ s.mgmt.up = true ∧
    (s.fabric.out.find? fun y => decide (y.part = (oF wr).part) && decide (y.seq = (oF wr).seq)) = some (oF wr) ∧
    (s.fabric.out.filter fun y => decide (y.dev = 2)) = [oF wr] ∧
    (s.fabric.out.filter fun y => decide (y.dev = 2) && decide (y.peer = 6)) = [oF wr] ∧ pageRefused s (wT s) = false ∧ (oF wr).since + 13000 ≤ s.now ∧ (oF wr).write = wr := by
  cases wr <;> exact ⟨⟨rfl, rfl, rfl, rfl⟩, rfl, by decide, rfl, rfl, rfl, rfl, rfl, Nat.le_refl _, rfl⟩

theorem test_meets_fabricCommands :
    let s := sF false
    (1, 4) ∈ s.fabric.replay ∧ s.mgmt.up = true ∧
    s.fabric.done.find? (fun y => decide (y.source = 3) && decide (y.seq = 8)) = some ⟨3, 8, 0, []⟩ ∧
    (∀ y ∈ s.fabric.done, ¬ (y.source = 3 ∧ y.seq = 9)) ∧ 1 ∈ s.host.resetting ∧ (2 : Nat) ≠ 0 ∧ (2 : Nat) ≠ 3 := by decide

theorem test_meets_power :
    let s := sF false
    let eight := List.replicate 8 8
    let plan := List.replicate 9 700 ++ [7, 8, 8, 8, 8, 8, 8, 8]
    (s.mgmt.up = true ∧ eight.length = 8 ∧ (∀ y ∈ eight, y ≤ 8) ∧ (∀ k, k < 8 → eight.getD k 0 ≤ s.mgmt.ceilings.getD k 8) ∧
      s.mgmt.lastGrant + 1300 ≤ s.now) ∧
    plan.length = 17 ∧ (∀ k, k < 17 → 9 ≤ k → plan.getD k 0 ≤ 8) ∧ State.reset.mgmt.up = false ∧
    (∀ k, k < 8 → plan.getD (9 + k) 0 ≤ s.mgmt.ceilings.getD k 0 ∧ s.mgmt.ceilings.getD k 0 ≤ plan.getD (9 + k) 0 + 1) ∧
    s.mgmt.vfs = 0 ∧ 15 ≤ 15 := by decide

/-- Before bring-up, while firmware runs and no plan stands, with a plan, and 1000 hours after the last one. -/
theorem test_meets_bringUp :
    let m : Mgmt := { State.reset.mgmt with running := true }
    let u : State := { State.reset with mgmt := { m with plan := [1] } }
    let s : State := { State.reset with now := 4680000000000000, mgmt := { m with up := true } }
    State.reset.mgmt.up = false ∧ State.reset.mgmt.running = false ∧ m.up = false ∧ m.running = true ∧ m.plan = [] ∧
    u.mgmt.plan ≠ [] ∧ s.mgmt.plannedAt + 1000 * 3600 * 1300000000 ≤ s.now ∧
    State.reset.now < State.reset.mgmt.plannedAt + 1000 * 3600 * 1300000000 ∧
    ({ sF false with fabric.serving := [{ (default : Serve) with part := 1 }] } : State).fabric.serving ≠ [] := by decide

/-- An image older than the fused counter does not run, whatever its signatures; a new enough one runs where
they verify. -/
theorem test_meets_firmware (i : FwImage) :
    imageRuns { sT with mgmt := { sT.mgmt with rollback := i.version + 1 } } i = false ∧
    (Config.ed25519Verifies i.digest i.ed25519 = true → Config.mldsaVerifies i.digest i.mldsa = true →
      imageRuns (sF false) i = true ∧ imageRuns { State.reset with mgmt := { State.reset.mgmt with image := i } } i = true) := by
  constructor
  · simp [imageRuns]
  · intro h1 h2
    simp [imageRuns, h1, h2, sF, sC, sT, onto, sP, placeProgram, setOwners, State.reset]

/-! The hampers of the spec's shell (R86) -/

/-- A record of eight words with some W2 and W3, at far 0x1000. -/
def rec8 (size w3 : Nat) : List Nat := [0x1000, 0, size, w3, 0xFFFFFFFF, 0, 0, 0]
/-- The kind and the flags IN, KEEP, AR and AW that a record's W3 gives. -/
def kindOf (w3 : Nat) : Option (RegionKind × List Bool) :=
  (recordOf (rec8 64 w3) []).map fun r => (r.kind, [r.stageIn, r.keep, r.ar, r.aw])

/-- A staged immutable region, an image engines read and write, a table of one-byte entries; TSZ 3, BLEN 3 and KIND 4
are no record. -/
theorem test_hamper_records :
    kindOf 0x3308 = some (.immutable, [true, false, false, false]) ∧
    kindOf 0xC2 = some (.dram, [false, false, true, true]) ∧
    kindOf 0x3 = some (.table, [false, false, false, false]) ∧
    kindOf 0x30000003 = none ∧ kindOf 0x33308 = none ∧ kindOf 0x4 = none := by decide

/-- A header of one record, and one whose SPILL is below 64 KiB. -/
theorem test_hamper_headers : headerOk [1, 64, 0, 0, 0, 0, 0, 0] = true ∧ headerOk [1, 32, 0, 0, 0, 0, 0, 0] = false := by decide


/-! ### The decisions of a step, and the clauses of the statements about values and memory -/

/-- One message of this device that has not been acknowledged since cycle 0. -/
def oD : FabOut := { part := 0, seq := 0, dev := 1, peer := 0, pasid := 0, rva := 0, write := false, data := [], req := 0,
                     burst := 0, port := 0, sends := 1, since := 0 }

/-- A device with no move, with the one move of its bring-up, and with two messages to send again. -/
theorem test_meets_step_decides :
    (let s : State := { State.reset with mgmt.recovery := true }
     s.agenda = [] ∧ candidates (tick s) = []) ∧
    (State.reset.agenda = [] ∧ candidates (tick { State.reset with mgmt.running := true, mgmt.plan := [1] }) =
      [.event .bringUp]) ∧
    (let s : State := { State.reset with now := 20000, mgmt.up := true, fabric.out := [oD, { oD with seq := 1 }] }
     s.agenda = [] ∧ candidates (tick s) = [.event (.endToEndTimeout 0 0), .event (.endToEndTimeout 0 1)] ∧
       ∃ d, (candidates (tick s))[Config.choice (tick s).fresh % (candidates (tick s)).length]? = some d) := by
  refine ⟨⟨rfl, by decide⟩, ⟨rfl, by decide⟩, rfl, by decide, ?_⟩
  refine ⟨_, List.getElem?_eq_getElem (Nat.mod_lt _ ?_)⟩
  decide

/-- A word of a group and a path that are not there is no move. -/
theorem test_meets_step_impossible :
    let s : State := { State.reset with agenda := [.issue 0 0] }
    s.agenda = [.issue 0 0] ∧ ¬ ∃ g p, findGroup { tick s with agenda := [] } 0 = some g ∧ findPath g 0 = some p ∧
      mayIssue { tick s with agenda := [] } g p = true := by
  refine ⟨rfl, ?_⟩
  rintro ⟨g, p, h, _⟩
  have h0 : (none : Option Group) = some g := h
  cases h0

/-- The machine of `sT` where symbols of the sector of its scratch's first words have flipped. -/
def sFlip (es : List (Nat × Symbol)) : State := { sT with sram.flips := es.map fun e => ((0, e.1), e.2) }

/-- A load and a `WATCH` of the word at 4: in a sector with one flipped symbol, in one with two, and after a store that its
core has offered to the slice. -/
theorem test_meets_sectorReads :
    (Issuing (sFlip [(3, 0x8001)]) gT pT 0xE0000070 ∧ Memory.wf (sFlip [(3, 0x8001)]).sram.mem = true ∧
      sectorErrors (sFlip [(3, 0x8001)]) 0 ≠ [] ∧ sectorBad (sFlip [(3, 0x8001)]) (sectorOf 4) = false ∧
      loadReady (sFlip [(3, 0x8001)]) none 0 4 4 (laneOf gT 0).step.toNat = true ∧ storeAhead (sFlip [(3, 0x8001)]) 0 4 2 = false ∧
      slotsFree (sFlip [(3, 0x8001)]) gT 1 = true ∧ testArrives (sFlip [(3, 0x8001)]) gT 4 = true) ∧
    (sectorBad (sFlip [(3, 0x8001), (4, 1)]) (sectorOf 4) = true ∧
      loadReady (sFlip [(3, 0x8001), (4, 1)]) none 0 4 4 (laneOf gT 0).step.toNat = true ∧
      slotsFree (sFlip [(3, 0x8001), (4, 1)]) gT 1 = true ∧ testArrives (sFlip [(3, 0x8001), (4, 1)]) gT 4 = true ∧
      (watchWords [(0, 4)])[0]? = some (0, 4)) ∧
    (let s : State := { sT with fresh := 9, sram.offers := [store .low 1] }
     Issuing s gT pT 0xE0000070 ∧ storeAhead s 0 4 s.fresh = true) := by
  refine ⟨⟨⟨rfl, rfl, rfl⟩, ?_⟩, ?_, ⟨rfl, rfl, rfl⟩, ?_⟩ <;> decide +kernel

/-- Two copies of line 0's presence bit have flipped from the value written. -/
theorem test_meets_presenceMajority :
    let s : State := { sT with sram.copies := [.presence 0 0 false, .presence 0 2 false] }
    Issuing s gT pT 0xE0000070 ∧ ((s.sram.copies.filterMap fun e => match e with
      | .presence y j b => if y = 0 ∧ j = 0 then some b else none
      | .tag _ _ _ => none).head?) = some false := ⟨⟨rfl, rfl, rfl⟩, by decide⟩

/-- A slice with `n` entries, an entry that holds a `BF16` contribution, 256 accumulators and 1,024 spilled entries of step
`k`, all of the party of `t`; `o` is offered. -/
def sFull (t : State) (n k : Nat) (o : Store) : State :=
  { t with
    sram.offers := [o]
    sram.entries := entry [fstore 0 0x3F80] :: { entry [fstore 0 0x3F80] with step := 1 } ::
      (List.replicate n { entry [] with step := 40 } ++
       List.replicate 1024 { entry [] with step := k, spilled := true })
    sram.accums := List.replicate 256 { acc 0 false false false false with step := 50 } }

/-- A `BF16` contribution that needs an accumulator, at the party's frontier and past it; and with no spill slot left,
with landings due and with none. -/
theorem test_meets_fullAccumulators :
    let o := fstore 1 0x3F80
    let u := { fstore 1 0x3F80 with step := 1 }
    let s := sFull sT 0 60 o
    let x := sFull sW 0 0 u
    (o ∈ s.sram.offers ∧ (s.sram.offers.map (·.po)).Nodup ∧ landsAllowed s 0 = true ∧ sectorErrors s 0 = [] ∧
      copyUnread s 4 2 0 = false ∧ (∀ y ∈ s.sram.offers, y.po = o.po) ∧ findTask s 0 = some (programTask 0)) ∧
    hasPriority s o = true ∧ needsAccum s o = true ∧ 256 ≤ accumsUsed s 0 ∧
    ¬ spillUsed s 0 0 + 1 ≤ spillSlots (programTask 0) ∧ spillDue s o = false ∧ landedBefore s (.party 0 0) 0 = true ∧
      isLate s o = false ∧
    hasPriority (sFull sT 0 60 u) u = false ∧ needsAccum (sFull sT 0 60 u) u = true ∧ 256 ≤ accumsUsed (sFull sT 0 60 u) 0 ∧
    hasPriority x u = true ∧ needsAccum x u = true ∧ 256 ≤ accumsUsed x 0 ∧
      ¬ spillUsed x 0 0 + 1 ≤ spillSlots (programTask 0) ∧ spillDue x u = true := by decide +kernel

/-- A store with a free spill slot where the buffer is full. -/
theorem test_meets_fullBuffer :
    let o := store .low 1
    let s : State := { sT with
      sram.offers := [o], sram.entries := List.replicate 4096 { entry [] with step := 40 } }
    hasPriority s o = true ∧ needsEntry s o = true ∧ 4096 ≤ bufferUsed s 0 ∧
    spillUsed s 0 0 + 1 + 0 ≤ spillSlots (programTask 0) := by decide +kernel

/-- A step that is due and whose second entry cannot be read. -/
theorem test_meets_upsetEntry :
    let e := { entry [store .low 1] with sector := 1, upset := true }
    let s : State := { sE [store .low 1] with sram.entries := [entry [store .low 1], e] }
    landingDue s (.party 0 0) 0 0 = true ∧ lowestCollision (stepEntries s (.party 0 0) 0) = none ∧
    (sliceEntries s (.party 0 0) 0 0)[1]? = some e ∧ entryUpset s e = true ∧
    entryUpset s (entry [store .low 1]) = false ∧ (sliceEntries s (.party 0 0) 0 0)[0]? = some (entry [store .low 1]) := by
  decide +kernel

/-! ### The clauses of the statements about paths, traps and special registers -/

/-- Three parts of a group, of which the last two wait at a `JOIN` over all eight lanes. -/
def pM : Path := { pT with exec := 0x03, j := pT.j.set 0 0xFF }
def pN : Path := { pT with pid := 1, exec := 0x0C, slot := .buffered, park := some (.join 0xFF) }
def pO : Path := { pT with pid := 2, exec := 0xF0, slot := .buffered, park := some (.join 0xFF) }
def gM : Group := withPaths [pM, pN, pO]

/-- A group whose parked paths all wait with the mask of all eight lanes has no other rejoin due. -/
theorem rejoinDue (h : Group) (hp : (h.paths.map (·.pid)).Nodup)
    (ha : h.paths.Pairwise fun x y => x.exec &&& y.exec = 0) (hx : ∃ x ∈ h.paths, joinMask x = some 0xFF ∧ x.exec ≠ 0)
    (hl : Arrived h 0xFF) (ho : ∀ x ∈ h.paths, joinMask x = none ∨ joinMask x = some 0xFF) : RejoinDue h 0xFF := by
  refine ⟨hp, ha, hx, hl, fun x hx y hy hn => ?_⟩
  rcases ho x hx with h0 | h0 <;> rw [h0] at hy
  · cases hy
  · exact absurd (Option.some.inj hy).symm hn

theorem noneHeldM : NoneHeld (onto sP gM pM) gM := by
  refine ⟨?_, ?_, pM, List.mem_cons_self, rfl⟩ <;> decide

theorem test_meets_joinOfThree :
    Issuing (onto sP gM pM) gM pM 0xE0000070 ∧ NoneHeld (onto sP gM pM) gM ∧ pM.exec &&& ~~~activeMask pM ga = 0 ∧
    pM.exec &&& ~~~(0xFF : Mask) = 0 ∧ jmask pM 0 = 0xFF ∧ RejoinDue (setPath gM { pM with park := some (.join 0xFF) }) 0xFF :=
  ⟨⟨rfl, rfl, rfl⟩, noneHeldM, by decide, by decide, by decide,
    rejoinDue _ (by decide) (by decide) (by decide) (allLanes 0xFF _ (by decide)) (by decide)⟩

/-- The group when the lanes of `pM` have exited, of which two others still wait at their `JOIN`. -/
def gMx : Group :=
  { gM with paths := [pN, pO], lanes := gM.lanes.mapIdx fun l t => if l < 2 then { t with state := .exited } else t }

theorem test_meets_exitRejoins :
    gM.handler = none ∧ activeMask pM ga ≠ 0 ∧ LanesLeave gM pM pM.past (activeMask pM ga) .exited gMx ∧ RejoinDue gMx 0xFF :=
  ⟨rfl, by decide, ⟨rfl, by decide, by decide, by decide⟩,
    rejoinDue _ (by decide) (by decide) (by decide) (allLanes 0xFF _ (by decide)) (by decide)⟩

/-- A `PACE` in a handler, one of a thread at the last step, and a stalled advance of a path that is not held. -/
theorem test_meets_paceTraps :
    Issuing sH gH pT 0xE0000070 ∧ gH.handler.isSome = true ∧ ¬ (ga.inv = true ∧ ga.p = 7) ∧
    (let s := sStep (2 ^ 64 - 1); let g := gS (2 ^ 64 - 1)
     Issuing s g pT 0xE0000070 ∧ g.handler = none ∧ (activeMask pT g1).getLsbD 0 = true ∧ pT.pace.getD 1 ≠ 0 ∧
       2 ^ 64 - 1 < (laneOf g 0).step.toNat + pT.pace.getD 1) ∧
    Issuing sT gT pT 0xE0000070 ∧ activeMask pT gn = 0 ∧
    heldSince { pT with park := some (.lag 1 2), pace := some 2 } = none :=
  ⟨⟨rfl, rfl, rfl⟩, rfl, by decide, ⟨⟨rfl, rfl, rfl⟩, rfl, by decide, by decide, by decide⟩, issuingT rfl, by decide, rfl⟩

/-- `EXIT` leaves no `JOIN` that all have come to: with the only path's lanes ending in part, or with those of the second. -/
theorem test_meets_exitNotArrived :
    (∀ h, LanesLeave gT pT pT.past (activeMask pT g1) .exited h → ∀ x ∈ h.paths, ∀ m, joinMask x = some m → ¬ Arrived h m) ∧
    (let g := gJ none
     Issuing (sJ none) g pA 0xE0000070 ∧ NoneHeld (sJ none) g ∧ (g.paths.map (·.pid)).Nodup ∧ activeMask pA ga = pA.exec ∧
       g.paths ≠ [pA] ∧
       ∀ h, LanesLeave g pA pA.past (activeMask pA ga) .exited h → ∀ x ∈ h.paths, ∀ m, joinMask x = some m → ¬ Arrived h m) := by
  refine ⟨fun h hl x hx m hm => ?_, ⟨rfl, rfl, rfl⟩, noneHeldJ none, by decide, by decide, by decide, fun h hl x hx m hm => ?_⟩
  · have h0 := (by decide : ∀ x ∈ (if pT.exec &&& ~~~activeMask pT g1 = 0 then gT.paths.filter fun x => decide (x.pid ≠ pT.pid)
      else gT.paths.map fun x => if x.pid = pT.pid then { pT.past with exec := pT.exec &&& ~~~activeMask pT g1 } else x),
      joinMask x = none) x (hl.2.2.2 ▸ hx)
    rw [h0] at hm
    cases hm
  · have h0 := (by decide : ∀ x ∈ (if pA.exec &&& ~~~activeMask pA ga = 0
      then (gJ none).paths.filter fun x => decide (x.pid ≠ pA.pid)
      else (gJ none).paths.map fun x => if x.pid = pA.pid then { pA.past with exec := pA.exec &&& ~~~activeMask pA ga } else x),
      joinMask x = none) x (hl.2.2.2 ▸ hx)
    rw [h0] at hm
    cases hm

/-- Traps of `EXIT`, `HEND` and `REFORM`, and no active lane. -/
theorem test_meets_endTraps :
    Issuing sH gH pT 0xE0000070 ∧ gH.handler.isSome = true ∧ ¬ (ga.inv = true ∧ ga.p = 7) ∧ gT.handler = none ∧
    activeMask pT ga ≠ 0 ∧ activeMask pT gn = 0 ∧ gT.paths = [pT] ∧ Issuing (sJ none) (gJ none) pA 0xE0000070 ∧
    (gJ none).handler = none ∧ 1 < (gJ none).paths.length :=
  ⟨⟨rfl, rfl, rfl⟩, rfl, by decide, rfl, by decide, by decide, rfl, ⟨rfl, rfl, rfl⟩, rfl, by decide⟩

/-- Lanes 0 and 1 name the last word of the image in `v0`, lanes 2 and up its first, and lane 3 a word past it in `v1`. -/
def gR2 : Group :=
  { gT with lanes := gT.lanes.mapIdx fun l t =>
      setVreg (setVreg t 0 (if l < 2 then 0x1004 else 0x1000)) 1 (if l < 3 then 0x1004 else 0x1008) }
/-- All sixteen bins are in use, one for the last word of the image. -/
def sR2 : State :=
  { onto sP gR2 pT with
    eng.bins := (List.range 16).map fun k =>
      { core := 0, slot := k, key := if k = 3 then .reform 0 0 0x1004 else .reform 9 0 0, threads := [], since := 0 } }

theorem test_meets_reformWaits :
    Issuing sR2 gR2 pT 0xE0000070 ∧ (activeMask pT gm).getLsbD 3 = true ∧ inImage sR2 0 (laneReg gR2 3 1) = false ∧
    (∀ k, k < 3 → (activeMask pT gm).getLsbD k = true → inImage sR2 0 (laneReg gR2 k 1) = true) ∧
    (NoneHeld sR2 gR2 ∧ gR2.handler = none ∧ gR2.paths = [pT] ∧ activeMask pT gm ≠ 0 ∧ 0 < gR2.width) ∧
    (∀ l, (activeMask pT gm).getLsbD l = true → inImage sR2 0 (laneReg gR2 l 0) = true) ∧
    (∀ k, k < 16 → ∃ b ∈ sR2.eng.bins, b.core = gR2.core ∧ b.slot = k) ∧
    (let mine := fun (b : Bin) (l : Nat) => b.core = gR2.core ∧ b.key = .reform 0 0 (laneReg gR2 l 0)
     (∀ l, (3 : Mask).getLsbD l = true → (activeMask pT gm).getLsbD l = true ∧
        ∃ b ∈ sR2.eng.bins, mine b l ∧ b.threads.length + (lanesOf (activeMask pT gm)).length ≤ 8) ∧
     ∀ l, (activeMask pT gm).getLsbD l = true → (3 : Mask).getLsbD l = false → ∀ b ∈ sR2.eng.bins, ¬ mine b l) ∧
    (3 : Mask) ≠ activeMask pT gm := by
  refine ⟨⟨rfl, rfl, rfl⟩, by decide, by decide, by decide, ⟨⟨?_, ?_, pT, List.mem_cons_self, rfl⟩, rfl, rfl, by decide, by decide⟩,
    allLanes _ _ (by decide), by decide, ⟨allLanes _ _ ?_, allLanes _ _ ?_⟩, by decide⟩ <;> decide +kernel

/-- A trap of a handler thread, and a `TVEC` that lies outside the image. -/
theorem test_meets_reportsAndRefusals :
    findBulk sH 5 = some bH ∧ gH.handler = some 5 ∧ Issuing sR2 gR2 pT 0xE0000070 ∧ gR2.handler = none ∧
    (activeMask pT gm).getLsbD 3 = true ∧ laneReg gR2 3 1 ≠ 0 ∧ ¬ inImage sR2 0 (laneReg gR2 3 1) = true ∧
    ∀ k, k < 3 → (activeMask pT gm).getLsbD k = true → laneReg gR2 k 1 = 0 ∨ inImage sR2 0 (laneReg gR2 k 1) = true :=
  ⟨rfl, rfl, ⟨rfl, rfl, rfl⟩, rfl, by decide, by decide, by decide, by decide⟩

/-! ### Blocks and named ranges that fail -/

/-- Blocks at a misaligned offset, past the scratch, and in a sector that cannot be decoded. -/
theorem test_meets_blockCourse :
    (opA gT pT false 0 0 + imms pT 4).toNat % 32 ≠ 0 ∧ (opA gT pT false 0 0 + imms pT 4).toNat % 64 ≠ 0 ∧
    (let g := withPaths [pR]
     (opA g pR false 0 0 + imms pR 0).toNat % 64 = 0 ∧ resolve (forPath pR) g .party (opA g pR false 0 0 + imms pR 0).toNat 64 =
       .error 4160) ∧
    (let s := sFlip [(3, 0x8001), (4, 1)]
     resolve s gT .party 0 64 = .ok 0 ∧ blockReady s 0 0 0 64 (laneOf gT 0).step.toNat = true ∧ (sectorRange 0 64)[0]? = some 0 ∧
       sectorBad s 0 = true) := by
  refine ⟨by decide, by decide, ⟨by decide, rfl⟩, rfl, ?_⟩
  decide +kernel

/-- A copy whose near range, and one whose counter cell, lies past the scratch, and a list of indices there. -/
theorem test_meets_namedRanges :
    (let p := pBlock [0x1000, 0, 65536, 32, 0, 0x4000, 0, 0]
     let q := copyReqOf ((List.range 8).map fun k => (sreg p (8 + k)).toNat)
     q.ok = true ∧ q.cntInside (forPath p) (withPaths [p]) = false ∧
       resolve (forPath p) (withPaths [p]) q.nsp q.near q.nearLen = .error 65536) ∧
    (let p := pBlock [0x1000, 0, 128, 32, 65536, 0, 0, 0]
     let q := copyReqOf ((List.range 8).map fun k => (sreg p (8 + k)).toNat)
     q.ok = true ∧ q.nocnt = false ∧ q.cntInside (forPath p) (withPaths [p]) = false ∧
       (∃ x, resolve (forPath p) (withPaths [p]) q.nsp q.near q.nearLen = .ok x) ∧
       resolve (forPath p) (withPaths [p]) q.csp q.cnt 4 = .error 65536) ∧
    (let p := pBlock [0x1000, 0, 128, 4, 0, 0x4001, 65536, 0x01000100]
     let q := copyReqOf ((List.range 8).map fun k => (sreg p (8 + k)).toNat)
     q.ok = true ∧ q.indexed = true ∧ q.cntInside (forPath p) (withPaths [p]) = false ∧
       (∃ x, resolve (forPath p) (withPaths [p]) q.nsp q.near q.nearLen = .ok x) ∧
       resolve (forPath p) (withPaths [p]) q.isp q.idx q.listLen = .error 65536) :=
  ⟨⟨by decide, by decide, rfl⟩, ⟨by decide, by decide, by decide, ⟨_, rfl⟩, rfl⟩, by decide, by decide, by decide, ⟨_, rfl⟩, rfl⟩

/-- Bulk reads, contiguous and indexed, that are good and whose window lies past the scratch. -/
theorem test_meets_bulkNamed : ∀ indexed : Bool,
    let s : State := { sB indexed 0 with sram.mem := (sB indexed 0).sram.mem.map fun c => if c.1 = 8 then (10, 1) else c }
    let q := bulkReqOf indexed (wordsOf (rangeBytes s 0 0 64 0))
    q.commonOk = true ∧ (if indexed then q.indexedOk else q.contiguousOk) = true ∧ q.handlersOk tB = true ∧
      q.clash s gT = false ∧ q.win = 65536 := by decide

/-- Every lane's `v0` is 16. -/
def g16 (p : Path) : Group := { withPaths [p] with lanes := gT.lanes.map fun t => setVreg t 0 16 }
/-- A drain of 128 rows of `BF16` with a transposed copy and its vector scales. -/
def pTr (tdest vdest : Word) : Path := pBlock [128, 256, tdest, 128, vdest, 0, 0, 0]

/-- Images, rows and destinations of the matrix engine that are misaligned or lie past the scratch. -/
theorem test_meets_matrixAddresses :
    (laneReg (g16 pMma) 0 0).toNat % 128 ≠ 0 ∧ (laneReg (g16 pMma) 0 0).toNat % 32 ≠ 0 ∧
    Issuing (onto sP (g16 pMma) pMma) (g16 pMma) pMma 0xE0000070 ∧
    (laneReg gT 0 0).toNat % 128 = 0 ∧ resolve sT gT .party 0 16384 = .error 4096 ∧ resolve sT gT .party 0 20480 = .error 4096 ∧
    (let p := pBlock [64, 128, 0, 0]
     let sr := fun k => (sreg p ((8 : BitVec 6).toNat + k)).toNat
     let s : State := { forPath p with eng.matrix := [en 0 []] }
     streamOk (sr 0) (sr 1) (sr 2) (sr 3) false = true ∧ planeFits .i8 (planeAhead s 0 0 false) = true ∧ sr 0 % 2 ^ 9 = 64 ∧
       rowBytes .i8 (planeAhead s 0 0 false) = 128 ∧ resolve s (withPaths [p]) .party (0 + 32 * 128) 128 = .error 4096 ∧
       ∃ x, resolve s (withPaths [p]) .party (0 + 31 * 128) 128 = .ok x) ∧
    (let d := drainSpecOf pDrn 8 (laneReg (g16 pDrn) 0 0).toNat .f32 false
     drainFieldsOk (sreg pDrn 8).toNat d false = true ∧ drainOverlaps d false = false ∧ d.dest % 32 ≠ 0) :=
  ⟨by decide, by decide, ⟨rfl, rfl, rfl⟩, by decide, rfl, rfl, ⟨by decide, by decide, by decide, by decide, rfl, _, rfl⟩,
    by decide⟩

theorem test_meets_drainAddresses :
    (let d := drainSpecOf (pTr 32769 65536) 8 0 .bf16 true
     drainFieldsOk (sreg (pTr 32769 65536) 8).toNat d false = true ∧ drainOverlaps d false = false ∧ d.dest % 32 = 0 ∧
       d.tdest % 128 ≠ 0) ∧
    (let d := drainSpecOf (pTr 32768 65537) 8 0 .bf16 true
     drainFieldsOk (sreg (pTr 32768 65537) 8).toNat d false = true ∧ drainOverlaps d false = false ∧ d.tdest % 128 = 0 ∧
       d.vdest % 4 ≠ 0) ∧
    (let d := drainSpecOf (pTr 32768 65536) 8 0 .bf16 true
     drainFieldsOk (sreg (pTr 32768 65536) 8).toNat d false = true ∧ drainOverlaps d false = false ∧
       drainMisaligned d = none ∧ (drainRanges d false)[16]? = some (4096, 256)) := by decide +kernel

theorem test_meets_drainRangeFails :
    resolve (forPath (pTr 0 0)) (withPaths [pTr 0 0]) .party 4096 256 = .error 4096 ∧
    resolve (forPath (pTr 0 0)) (withPaths [pTr 0 0]) .party 3840 256 = .ok 3840 := ⟨rfl, rfl⟩

/-! ### Engines, pools and tasks -/

/-- An outbound copy that has read a sector that could not be decoded, and one that is to read such a sector. -/
theorem test_meets_copyBadNear :
    (let c : Copy := { cp true .todo with nearData := some (List.replicate 64 1), badNear := [4] }
     c.badFor c.bursts.head! = [4] ∧ c.outbound = true ∧ c.nearData.isSome = true ∧ c.farOk tC c.bursts.head! = true) ∧
    (let c := cp true .todo
     let s : State := { sC true tC c with sram.flips := [((4, 3), 1), ((4, 4), 1)] }
     c.nearData = none ∧ rangeLanded s c.near c.len 0 = true ∧ (sectorRange c.near c.len).filter (sectorBad s) = [4]) := by
  decide +kernel

/-- The scratch's first word names a completion cell past the scratch. -/
theorem test_meets_enqueueNamed :
    let s := sN [programTask 0] (programPart 0) [(4, 1), (14, 1)]
    let r := launchOf (wordsOf (rangeBytes s 0 0 32 0))
    r.nocc = false ∧ r.ccell = 65536 ∧ resolve s gT (spaceBit r.csp) 65536 4 = .error 65536 :=
  ⟨by decide +kernel, by decide +kernel, rfl⟩

/-- The second half of what tract 7 has left, taken by tract 0, whose nearer tracts have nothing left. -/
theorem test_meets_stealOrder :
    let near := [0 ^^^ 1, 0 ^^^ 4, 0 ^^^ 5]
    let order := near ++ (List.range 8).filter fun y => decide (y ≠ 0) && !near.contains y
    let range := fun y => assoc (tP 3 [(0, 5, 5), (7, 590, 600)]).pool.current y (0, 0)
    order[6]? = some 7 ∧ (range 7).1 < (range 7).2 ∧ (range 0).2 ≤ (range 0).1 ∧ (tP 3 []).pool.items ≤ 3 * 256 ∧
    ∀ i, i < 6 → ∀ y ∈ order[i]?, (range y).2 ≤ (range y).1 := by decide

/-- No active lane and a handler, for `ENQ`, `DEQ` and `DEPD`. -/
theorem test_meets_launchesNoLane :
    Issuing sT gT pT 0xE0000070 ∧ activeMask pT gn = 0 ∧ Issuing sH gH pT 0xE0000070 ∧ gH.handler.isSome = true ∧
    lowest (activeMask pT g1) = some 0 := ⟨issuingT rfl, by decide, ⟨rfl, rfl, rfl⟩, rfl, by decide⟩

theorem test_meets_stagedArgumentsClean :
    ∀ sec, sectorErrors (sN [{ tG [] with args := some [1, 2, 3, 4], bases := [some 4096] }] (programPart 0) []) sec = [] :=
  fun _ => rfl

/-- A save whose scratch has a sector that the code corrects, and one whose second sector in error it cannot decode. -/
theorem test_meets_savedSectors :
    let t : Task := { programTask 0 with saving := true }
    let s := fun es : List ((Nat × Nat) × Symbol) => ({ sT with tasks := [t], sram.flips := es } : State)
    (scratchErrors (s [((0, 3), 0x8001)]) t = [0] ∧ sectorBad (s [((0, 3), 0x8001)]) 0 = false ∧
      Memory.wf (s [((0, 3), 0x8001)]).sram.mem = true) ∧
    (let u := s [((0, 3), 0x8001), ((127, 3), 1), ((127, 4), 1)]
     (scratchErrors u t)[1]? = some 127 ∧ sectorBad u 127 = true ∧ (scratchErrors u t)[0]? = some 0 ∧ sectorBad u 0 = false) := by
  decide +kernel

/-! ### Queues, bursts, peers, staging and write-back -/

/-- A request whose bound has expired on the pseudo-channel of `q2`, which still needs rows. -/
def sLate (q : Query) : State := { sQ 1 tQ2 with
  now := 520
  dram.queues := [{ pch := tableBank 0 0 0 / 16, bank := 0, req := 0, n := 0, since := 0, refreshes := 0 }]
  eng.queries := [q] }

/-- The query yields once, and then resumes. -/
theorem test_meets_latencyBound (r : Bool) :
    let q := { q2 with resumes := r }
    let e : QueueEntry := { pch := tableBank 0 0 0 / 16, bank := 0, req := 0, n := 0, since := 0, refreshes := 0 }
    (e ∈ (sLate q).dram.queues ∧ e.pch = tableBank 0 0 0 / 16 ∧ e.refreshes ≤ 2 ∧
      e.since + 520 + e.refreshes * Config.refreshCycles ≤ (sLate q).now) ∧
    (q ∈ (sLate q).eng.queries ∧ findTask (sLate q) q.task = some tQ2 ∧ tQ2.stop = none ∧
      tableBank q.core (tQ2.block.getD 0) q.tbl / 16 = tableBank 0 0 0 / 16) ∧
    q.resumes = r ∧ (r = false → queryBehind (sLate q) q = false) ∧
    rowsLeft q (tQ2.block.getD 0) (wanted q (tableDecl tQ2 q.tbl)) ≠ [] := by
  refine ⟨⟨.head _, rfl, Nat.zero_le _, ?_⟩, ⟨.head _, rfl, rfl, rfl⟩, rfl, ?_, ?_⟩
  · simp [sLate]
  · rintro rfl; decide +kernel
  · cases r <;> decide +kernel

/-- A query of another group to another table of the core, that arrived first. -/
theorem test_meets_queryOrder :
    let x : Query := { qy with id := 6, gid := 1, tbl := 1 }
    let s : State := { sQ 0 tQ with eng.queries := [x, qy] }
    s.eng.queries = [x] ++ qy :: [] ∧ (s.eng.queries.map (·.id)).Nodup ∧ x ∈ [x] ∧ x.core = qy.core ∧
    x.opened = 0 ∧ qy.opened = 0 ∧ findTask s x.task = some tQ ∧ tQ.stop = none := by decide

/-- A task whose region stands at some far address, and the copy of its first 64 bytes. -/
def tFar (a : Nat) : Task := { tC with decl := { programDecl with regions :=
  [{ (default : Region) with kind := .dram, far := a, size := 4096, ar := true, aw := true }] } }
def cFar (a : Nat) (out : Bool) (bad : List Nat) : Copy :=
  { cp out .todo with
    far := a, bursts := [{ va := a, pos := 0, offset := 0, coord := (0, 0, 0), state := .todo }]
    nearData := if out then some (List.replicate 64 1) else none, badNear := bad }
def sFar (open_ : Bool) (a : Nat) (out : Bool) (bad : List Nat) : State := sC open_ (tFar a) (cFar a out bad)

/-- A burst that may be sent, outbound or inbound, with near bytes that could or could not be decoded. -/
theorem test_meets_burstSent (o out : Bool) :
    let c := cFar 0x1000 out []
    let s := sFar o 0x1000 out []
    (findCopy s c.head.id = some c ∧ findTask s c.head.task = some (tFar 0x1000) ∧ (tFar 0x1000).stop = none ∧
      (tFar 0x1000).state = .running ∧ (tFar 0x1000).saving = false ∧
      findPart s (tFar 0x1000).part = some { programPart 0 with dom := 1 } ∧ c.bursts[0]? = some c.bursts.head! ∧
      c.bursts.head!.state = .todo ∧ c.farOk (tFar 0x1000) c.bursts.head! = true ∧
      (c.outbound = true → c.nearData.isSome = true)) ∧
    c.badFor c.bursts.head! = [] ∧ 0 < c.burstLen c.bursts.head! ∧
    (cFar 0x1000 true [4]).badFor (cFar 0x1000 true [4]).bursts.head! = [4] ∧
    ¬ (0x1000 / 2 ^ 63 % 2 = 1) := by
  cases out <;> exact ⟨⟨rfl, rfl, rfl, rfl, rfl, rfl, rfl, rfl, by decide, by decide⟩, by decide, by decide, by decide, by decide⟩

/-- A table of `n` equal counters of one die. -/
theorem fullTable (n d : Nat) (c : AccessCounter) (h : c.die = d) :
    ((List.replicate n c).filter fun y => decide (y.die = d)).length = n := by
  simp [h]

/-- Where its address leads: no cache has its page; a burst the host may hold; one the plat refuses or opens; host memory,
counted for the first time, once more, and in a full table. -/
theorem test_meets_burstGoes (out : Bool) :
    let s := sFar true 0x1000 out []
    let found := fun s : State => translate s.xlate (.copy 0) (tractOf 0) 0 0x1000 out
    let full : State := { s with
      host.hpa0 := 0x100000
      xlate.counters := List.replicate 4096 { die := 0, pasid := 5, block := 1, count := 3 } }
    found { s with xlate.caches := [] } = none ∧
    (found s = some (s.host.hpa0 + 0x2000, s.xlate) ∧ 0x2000 < hdmSize ∧ queueFree s 0x2000 = true) ∧
    burstOf 0x2000 ∈ ({ s with host.tracked := [burstOf 0x2000] } : State).host.tracked ∧
    burstOf 0x2000 ∉ s.host.tracked ∧ platAllows s.dram.plat 1 (rowOf 0x2000) = true ∧
    platAllows (sFar false 0x1000 out []).dram.plat 1 (rowOf 0x2000) = false ∧
    Memory.wf s.dram.mem = true ∧ reportOf s.dram (burstOf 0x2000) ≠ .uncorrectable ∧
    (found full = some (0x2000, full.xlate) ∧ 0x2000 < full.host.hpa0 ∧ Memory.wf full.host.mem = true) ∧
    4096 ≤ (full.xlate.counters.filter fun y => decide (y.die = 0)).length ∧
    (∀ y ∈ full.xlate.counters, ¬ (y.die = 0 ∧ y.pasid = 0 ∧ y.block = 0x1000 / 65536)) ∧
    (s.xlate.counters.filter fun y => decide (y.die = 0)).length < 4096 := by
  refine ⟨?_, ⟨?_, by decide, by cases out <;> decide +kernel⟩, .head _, by cases out <;> decide, ?_, ?_, by cases out <;> rfl,
    by cases out <;> decide, ⟨?_, by cases out <;> decide, by cases out <;> rfl⟩, ?_, ?_, by cases out <;> decide⟩
  · cases out <;> rfl
  · cases out <;> rfl
  · cases out <;> decide +kernel
  · cases out <;> decide +kernel
  · cases out <;> rfl
  · exact Nat.le_of_eq (fullTable 4096 0 _ rfl).symm
  · intro y hy
    rw [List.eq_of_mem_replicate hy]
    decide

/-- A fabric address of this device, of another one, and of devices that cannot be reached. -/
theorem test_meets_burstFabric (out : Bool) :
    let a := 2 ^ 63 + 7 * 2 ^ 48 + 0x1000
    let c := cFar a out []
    let b : Binding := { part := 0, dev := 7, peer := 0, pasid := 0 }
    let s : State := { sFar true a out [] with fabric.bindings := [b], fabric.dev := 7 }
    let r : State := { s with fabric.dev := 1, fabric.reachable := [7] }
    (c.farOk (tFar a) c.bursts.head! = true ∧ c.badFor c.bursts.head! = [] ∧ a / 2 ^ 63 % 2 = 1 ∧
      a / 2 ^ 48 % 2 ^ 15 = 7 ∧ a % 2 ^ 48 = 0x1000) ∧
    (s.fabric.bindings.find? fun y => decide (y.part = (tFar a).part) && decide (y.dev = 7)) = some b ∧
    (7 = s.fabric.dev ∧ findPart s b.peer = some { programPart 0 with dom := 1 } ∧ b.peer ∉ s.host.resetting) ∧
    translate s.xlate (.copy 0) (tractOf 0) b.pasid 0x1000 out = some (s.host.hpa0 + 0x2000, s.xlate) ∧
    (7 ≠ r.fabric.dev ∧ 7 ∈ r.fabric.reachable ∧ 7 ∉ ({ r with fabric.reachable := [] } : State).fabric.reachable) ∧
    b.peer ∈ ({ s with host.resetting := [0] } : State).host.resetting ∧ findPart { s with parts := [] } b.peer = none ∧
    (({ s with fabric.bindings := [] } : State).fabric.bindings.find? fun y =>
      decide (y.part = (tFar a).part) && decide (y.dev = 7)) = none := by
  cases out <;> decide +kernel

/-- A peer's command with a new number, whose page the tract's cache gives, or no cache. -/
def sPeer (open_ : Bool) : State := { sC open_ tC (cp false .todo) with
  fabric := { sT.fabric with done := [⟨3, 8, 0, []⟩], serving := [] }
  mgmt := { sT.mgmt with up := true }
  xlate.caches := [{ cache := .tract 0, pasid := 0, base := 0x1000, size := 4096, target := 0x2000, read := true,
                     write := true }] }

theorem test_meets_peerCommand (o wr : Bool) :
    let s := sPeer o
    s.mgmt.up = true ∧ (∀ y ∈ s.fabric.done, ¬ (y.source = 3 ∧ y.seq = 9)) ∧
    (∀ y ∈ s.fabric.serving, ¬ (y.source = 3 ∧ y.seq = 9)) ∧ (∀ y ∈ s.fabric.serving, y.id < s.fresh) ∧
    (∀ y ∈ s.dram.queues, y.req < s.fresh) ∧ 0 ∉ s.host.resetting ∧ findPart s 0 = some { programPart 0 with dom := 1 } ∧
    translate s.xlate (.tract 0) 0 (0 % 2 ^ 20) (0x1000 % 2 ^ 48) wr = some (s.host.hpa0 + 0x2000, s.xlate) ∧
    translate s.xlate (.tract 0) 0 (1 % 2 ^ 20) (0x1000 % 2 ^ 48) wr = none ∧
    0x2000 < hdmSize ∧ queueFree s 0x2000 = true ∧ burstOf 0x2000 ∉ s.host.tracked ∧ platAllows s.dram.plat 1 (rowOf 0x2000) = o ∧
    reportOf s.dram (burstOf 0x2000) ≠ .uncorrectable ∧
    reportOf ({ s with dram.reports := [(burstOf 0x2000, .uncorrectable)] } : State).dram (burstOf 0x2000) = .uncorrectable ∧
    Memory.wf s.dram.mem = true ∧ (queryAtBank s (bankOf 0x2000) || pchYields s (pchOf 0x2000)) = false := by
  cases o <;> cases wr <;> decide +kernel

/-- A query on its rows holds the bank of a peer's request. -/
theorem test_meets_peerQueued :
    let s : State := { sPeer true with
      tasks := [tQ2], eng.queries := [{ q2 with resumes := true }] }
    (queryAtBank s 0 || pchYields s (tableBank 0 0 0 / 16)) = true := by decide +kernel

/-- A peer has executed the write of a burst whose near bytes could not be decoded. -/
theorem test_meets_answerToBadNear :
    let c : Copy := { cp true (.fabric 4) with nearData := some (List.replicate 64 1), badNear := [4] }
    let s : State := { sF true with eng.copies := [c] }
    (oF true).write = true ∧ c.badOf 0 ≠ [] ∧ findCopy s c.head.id = some c ∧ c.bursts[0]? = some c.bursts.head! ∧
    ((waiters s).find? fun y => decide (y.client.req = (oF true).req) && decide (y.client.n = (oF true).burst) &&
      decide (y.state = .fabric (oF true).seq)) = some (wT s) ∧
    findTask s c.head.task = some tC ∧ tC.stop = none ∧ tC.state ≠ .ended ∧
    ({ cp true (.snoop 0x2000) with nearData := some (List.replicate 64 1) } : Copy).badOf 0 = [] := by
  refine ⟨rfl, by decide +kernel, rfl, rfl, rfl, rfl, rfl, by decide, by decide +kernel⟩

/-- Regions at granules 1 to 4 beside the scratch: one staged and widened with its image read in one burst, one of zeros,
one adopted, and one with a relocated word. -/
def rSt : Region := { (default : Region) with kind := .immutable, stageIn := true, far := 0x8000, size := 64, dfmt := .bf16, sfmt := .f32 }
def rZe : Region := { (default : Region) with kind := .shared, size := 32, dfmt := .ui8, sfmt := .ui8 }
def rRe : Region := { (default : Region) with kind := .immutable, stageIn := true, far := 0x9000, size := 32, dfmt := .ui8, sfmt := .ui8, relocs := [(4, 1, 8)] }
def tSt : Task := { programTask 0 with
  state := .admitted, bases := [some 4096, some 8192, some 12288, some 16384], adopted := [2]
  decl := { programDecl with regions := [rSt, rZe, { rSt with far := 0xA000 }, rRe], scratch := 4096 }
  xfers := [{ core := 0, va := 0x8000, len := 32, write := false, data := [], state := .got (List.replicate 32 0x3F), record := 0 },
    { core := 0, va := 0x9000, len := 32, write := false, data := [], state := .got (List.replicate 32 7), record := 3 }] }

theorem test_meets_stagedRegions :
    let k := tSt
    let s := sN [k] (programPart 0) []
    let stands := fun (j : Nat) (r : Region) (a : Nat) => k.decl.regions[j]? = some r ∧ k.bases.getD j none = some a
    (findTask s k.uid = some k ∧ k.state = .admitted ∧ k.stop = none ∧ xfersDone s k = true ∧
      (∀ x ∈ k.xfers, xferFailed x = false) ∧ k.args = none ∧ 0 < k.decl.width ∧ Memory.wf s.sram.mem = true) ∧
    (∀ sec, sectorErrors s sec = []) ∧
    (∀ r ∈ k.decl.regions, (r.kind = .immutable ∨ r.kind = .shared) ∧ r.size % 32 = 0 ∧
      (r.kind = .immutable ∨ r.stageIn = true → convExists r.dfmt r.sfmt = true) ∧ ∀ y ∈ r.relocs, y.1 + 4 ≤ r.size) ∧
    (stands 0 rSt 4096 ∧ stands 1 rZe 8192 ∧ stands 2 { rSt with far := 0xA000 } 12288 ∧ stands 3 rRe 16384) ∧
    (∀ x ∈ k.places, x.core * 2 ^ 23 + x.base + k.decl.scratch ≤ 4096) ∧
    (0 ∉ k.adopted ∧ 1 ∉ k.adopted ∧ 2 ∈ k.adopted ∧ 3 ∉ k.adopted) ∧
    ¬ (rZe.kind = .immutable ∨ rZe.stageIn = true) ∧
    (List.replicate 32 (0x3F : Byte)).length = rSt.size * tyBits rSt.dfmt / tyBits rSt.sfmt ∧
    (∀ m, 64 * m < 32 → ∃ x ∈ k.xfers, x.record = 0 ∧ x.core = sliceOf 4096 ∧ x.va = rSt.far + 64 * m ∧ x.write = false) ∧
    (∀ x ∈ k.xfers, ∀ m, x.record = 0 → x.core = sliceOf 4096 → x.va = rSt.far + 64 * m → x.write = false →
      x.state = .got (((List.replicate 32 (0x3F : Byte)).drop (64 * m)).take 64)) ∧
    (rRe.relocs = [(4, 1, 8)] ∧ k.bases.getD 1 none = some 8192) := by
  refine ⟨by decide, fun _ => rfl, by decide, by decide, by decide, by decide, by decide, by decide, ?_, ?_, by decide⟩
  · intro m h
    obtain rfl : m = 0 := by omega
    exact ⟨_, .head _, rfl, rfl, rfl, rfl⟩
  · intro x hx m hr _ hv _
    simp only [tSt, List.mem_cons, List.not_mem_nil, or_false] at hx
    rcases hx with rfl | rfl
    · obtain rfl : m = 0 := by simp [rSt] at hv; omega
      rfl
    · exact absurd hr (by decide)

/-- A task whose threads have exited, with a region to write back, narrowed, and one to keep. -/
def tWb (xs : List BurstState) : Task := { programTask 5 with
  part := 0, parent := some 0, bases := [some 8192, some 4096]
  decl := { programDecl with relocs := [], regions := [{ rSt with kind := .shared, stageIn := false, stageOut := true, far := 0x1000 },
    { rRe with keep := true, relocs := [] }] }
  xfers := xs.mapIdx fun k st => { core := 0, va := 0x1000 + 64 * k, len := 32, write := true, data := List.replicate 32 1, state := st } }
def sWb (open_ : Bool) (xs : List BurstState) : State := { sC open_ (tWb xs) (cp true .todo) with
  tasks := [programTask 0, tWb xs], groups := [], eng := State.reset.eng, sram := State.reset.sram
  xlate.caches := [{ cache := .staging 0, pasid := 0, base := 0x1000, size := 4096, target := 0x2000, read := true, write := true }]
  kept := [{ part := 0, far := 0x1000, size := 64, kind := .immutable, sfmt := .f32, dfmt := .f32, base := 65536 },
    { part := 0, far := 0x2000, size := 64, kind := .immutable, sfmt := .f32, dfmt := .f32, base := 131072 }] }

theorem test_meets_writeBack :
    let k := tWb []
    let s := sWb true []
    (findTask s k.uid = some k ∧ mayRetire s k = true ∧ k.xfers = [] ∧ outRegions k ≠ []) ∧
    (∀ x ∈ outRegions k, convExists x.1.sfmt x.1.dfmt = true ∧ x.1.size % 32 = 0) ∧
    (((outRegions k).flatMap fun x => sectorRange x.2 x.1.size) = [256, 257] ∧ ∀ sec, sectorErrors s sec = []) ∧
    (let u : State := { s with sram.flips := [((257, 3), 1), ((257, 4), 1)] }
     sectorBad u 256 = false ∧ sectorBad u 257 = true) := by
  refine ⟨by decide, by decide, ⟨by decide, fun _ => rfl⟩, by decide +kernel⟩

theorem test_meets_writeBackBurst (o : Bool) :
    let xs : List BurstState := [.accepted, .failed 2, .todo, .todo]
    let k := tWb xs
    let s := sWb o xs
    mayRetire s k = true ∧ (∃ x, k.xfers[2]? = some x ∧ x.state = .todo ∧ x.write = true ∧ isFabric x.va = false ∧
      translate s.xlate (.staging x.core) (tractOf x.core) 0 x.va true = some (s.host.hpa0 + 0x2080, s.xlate)) ∧
    (k.xfers.take 2).all (fun y => decide (y.state = .accepted) || xferFailed y) = true ∧
    (k.xfers.drop 3).all (fun y => decide (y.state = .todo) && y.write) = true ∧
    findPart s k.part = some { programPart 0 with dom := 1 } ∧ 0x2080 < hdmSize ∧ burstOf 0x2080 ∉ s.host.tracked ∧
    queueFree s 0x2080 = true ∧ Memory.wf s.dram.mem = true ∧ platAllows s.dram.plat 1 (rowOf 0x2080) = o := by
  cases o <;> refine ⟨by decide, ⟨_, rfl, rfl, rfl, by decide, rfl⟩, by decide, by decide, rfl, by decide, by decide, by decide, rfl, by decide⟩

/-- All bursts have come to their end, one of them failed; a region is kept, and a kept one that the written range meets is
not. -/
theorem test_meets_retirementKeeps :
    let xs : List BurstState := [.accepted, .failed 2]
    let k := tWb xs
    let s := sWb true xs
    mayRetire s k = true ∧ xfersDone s k = true ∧ (k.xfers = [] → outRegions k = []) ∧ k.xfers.any xferFailed = true ∧
    k.decl.regions[1]? = some { rRe with keep := true, relocs := [] } ∧ k.bases.getD 1 none = some 4096 ∧ 4096 % 4096 = 0 ∧
    (s.kept.map fun y => (outRegions k).any fun x => rangesMeet y.far y.farBytes x.1.far x.1.farBytes) = [true, false] := by
  decide +kernel

/-! ### Waits of stores, traps, collisions, bursts, tables, placement and page requests -/

/-- A landed clear of a request that has still to write a line. -/
def clr (req step line : Nat) : Clear := { line := line, req := req, step := step, dom := .party 0 0, landed := true }
/-- The group a step further, in a handler of bulk read 5. -/
def gHW : Group := { gW with handler := some 5 }
def sHC (req line : Nat) : State := { onto sP gHW pT with eng.bulks := [bH], sram.clears := [clr req 0 line] }

/-- A thread waits on a line still to be written and on bytes still to be read; a handler waits on another request's line
and not on its own. -/
theorem test_meets_storeWaits :
    Issuing sW gW pT 0xE0000070 ∧ (laneOf gW 0).step.toNat = 1 ∧
    (let s : State := { sW with sram.clears := [clr 9 0 0] }
     s.sram.copies = [] ∧ storeWaits s gW.handler 4 4 1 = true) ∧
    (let c : Copy := { cp true .todo with near := 7 }
     let s : State := { sW with eng.copies := [c] }
     c.outbound = true ∧ c.nearData = none ∧ c.head.step < 1 ∧ (∀ k, findTask s c.head.task = some k → k.stop = none) ∧
     storeWaits s gW.handler 4 4 1 = true ∧ storeWaits s gW.handler 0 4 1 = false) ∧
    storeWaits (sHC 9 1) gHW.handler 128 4 1 = true ∧ storeWaits (sHC 5 1) gHW.handler 128 4 1 = false ∧
    storeWaits (sHC 9 2) gHW.handler 128 4 1 = false := by
  refine ⟨⟨rfl, rfl, rfl⟩, by decide, by decide, ⟨rfl, rfl, by decide, fun k hk => ?_, by decide, by decide⟩, by decide, by decide,
    by decide⟩
  obtain rfl := Option.some.inj hk
  rfl

/-- An address past the end of the scratch, and an address in a granule that its party still owns as it drains. -/
theorem test_meets_presenceTraps :
    (activeMask pR g1).getLsbD 0 = true ∧ (∀ k, k < 0 → (activeMask pR g1).getLsbD k = true → False) ∧
    (∀ x, resolve (forPath pR) (withPaths [pR]) .party (opA (withPaths [pR]) pR false 0 0 + imms pR 0).toNat 1 ≠ .ok x) ∧
    (let s : State := { sT with sram.owners := [(0, .draining 0 0)] }
     ownerAt s 4 = .draining gT.task gT.party ∧ sliceOf 4 = gT.core) := by
  refine ⟨by decide, fun k h => absurd h (Nat.not_lt_zero k), fun x h => ?_, by decide⟩
  exact nomatch (show Except.error 4160 = Except.ok x from h)

/-- Two `FLT` stores collide; the report names the first writer and the next. -/
theorem test_meets_collisionReport :
    let x := store .flt 1
    let y := store .flt 2
    let l := [x, y].filter fun o => covers o 4
    landingDue (sE [x, y]) (.party 0 0) 0 0 = true ∧
    (lowestCollision (stepEntries (sE [x, y]) (.party 0 0) 0)).map (fun c => (c.1, c.2.1)) = some (4, 0x10) ∧
    l = [x, y] ∧ (l.map (·.po)).Nodup ∧
    (x ∈ l ∧ ∀ z ∈ l, x.writer < z.writer ∨ (x.writer = z.writer ∧ x.po ≤ z.po)) ∧
    l.filter (fun z => decide (z.po ≠ x.po)) = [y] := by decide

/-- A block whose largest product is 1, and a vector whose largest element is 448. -/
theorem test_meets_matrixValues :
    let one : FVal := .fin false 1 0
    (one.isFin = true ∧ one.toRat * one.toRat ≠ 0 ∧ Int.log 2 |one.toRat * one.toRat| = 0) ∧
    (f32.value 0x43E00000).isFin = true ∧ (f32.value 0x43E00000).isInf = false ∧ |(f32.value 0x43E00000).toRat| = 448 ∧
    (448 : ℚ) ≤ 448 * 2 ^ (0 : Int) ∧ (448 : ℚ) * 2 ^ ((0 : Int) - 1) < 448 ∧
    (f32.value 0x7F800000).isInf = true ∧ (f32.value 0x7FC00000).isNan = true ∧ (f32.value 0x80000000).isZero = true := by
  have h1 : (FVal.fin false 1 0).toRat = 1 := by simp [FVal.toRat]
  have h2 : (f32.value 0x43E00000).toRat = 448 := by
    rw [show f32.value 0x43E00000 = .fin false 0xE00000 (-15) by decide +kernel]
    norm_num [FVal.toRat]
  refine ⟨⟨rfl, by rw [h1]; norm_num, by rw [h1]; simp⟩, by decide +kernel, by decide +kernel, by rw [h2]; norm_num, by norm_num,
    by norm_num, by decide +kernel, by decide +kernel, by decide +kernel⟩

/-- Descriptors of no row, of a misaligned scale, of a stride below the row, and of a drain onto its own transposed copy. -/
theorem test_meets_matrixDescriptors :
    let sr := fun (p : Path) (k : Nat) => (sreg p ((8 : BitVec 6).toNat + k)).toNat
    let d := pBlock [128, 512, 0, 128, 0, 0, 0, 0]
    (sr (pBlock [0]) 0 % 2 ^ 9 = 0 ∧ sr (pBlock [1, 128, 2, 0]) 2 % 4 ≠ 0 ∧ sr (pBlock [1, 128, 2, 0]) 2 ≠ 0xFFFFFFFF) ∧
    sr (pBlock [1, 96, 0, 0]) 1 < rowBytes .i8 (planeAhead (sX [en 0 []] pMma) 0 0 false) ∧
    streamOk 1 96 0 0 false = true ∧
    (4 < sr (pBlock [0x05000001, 512]) 0 / 2 ^ 24 % 2 ^ 3) ∧
    (drainFieldsOk (sr d 0) (drainSpecOf d 8 0 .f32 true) false = true ∧
      drainOverlaps (drainSpecOf d 8 0 .f32 true) false = true) ∧
    ((planeAhead (sX [freshEngine 0 (0, 0) false] pMma) 0 0 false).loaded = false ∧
      ∀ e, findEngine (sX [freshEngine 0 (0, 0) false] pMma) 0 = some e → e.claim = (0, 0)) ∧
    declaredScale (sX [en 0 []] pMma) (withPaths [pMma]) .immutable 0 128 = none := by decide +kernel

/-- Weights whose first lines are of a step that the slice does not know to have landed. -/
theorem test_meets_weightsWait :
    let s := onto (sX [en 0 []] pT) gW pT
    (laneReg gW 0 0).toNat % 128 = 0 ∧ (∀ e, findEngine s 0 = some e → e.claim = (gW.task, gW.party)) ∧
    resolve s gW .party 0 (16384 * Ty.i8.size) = .ok 0 ∧
    blockReady s gW.task gW.core 0 (16384 * Ty.i8.size) (laneOf gW 0).step.toNat = false := by
  refine ⟨by decide, fun e h => ?_, ?_, by decide +kernel⟩
  · obtain rfl := Option.some.inj h
    rfl
  · exact resolve_party (onto (sX [en 0 []] pT) gW pT) gW tX 0 _ rfl (by decide)

/-- A contiguous copy of three bursts, and a copy whose bytes have come for a line that it shares with other bytes. -/
theorem test_meets_contiguousCopy :
    let q : CopyReq := copyReqOf [0x1020, 0, 128, 128, 0, 0x4000, 0, 0]
    let c : Copy := { cp false (.got (List.replicate 64 1)) with near := 200 }
    q.ok = true ∧ q.indexed = false ∧ (q.bursts []).map (·.offset) = [0, 32, 96] ∧
    (c.lineData 1).map (·.length) = some 56 ∧ ({ cp false .todo with near := 200 } : Copy).lineData 1 = none ∧
    c.bursts.head!.state = .got (List.replicate 64 1) ∧ c.conv ≤ 5 := by decide +kernel

/-- A bulk read that its regions allow, with two bursts to send. -/
def tBR : Task := { tB with decl := { tB.decl with regions := tC.decl.regions } }
def bTodo (a : Nat) : Bulk := { bk .todo none with
  bursts := (List.range 2).map fun k => { va := a + 64 * k, pos := k, offset := 64 * k, coord := (k, 0, 0), state := .todo } }
def sTodo (o : Bool) (a : Nat) : State := { sC o tBR (cp false .todo) with
  eng.copies := [], eng.bulks := [bTodo a]
  xlate.caches := [{ cache := .bulk 0, pasid := 0, base := 0x1000, size := 4096, target := 0x2000, read := true, write := true }] }

/-- The second burst waits for the first; one outside its regions; one whose page no cache gives; one that the plat refuses
or opens, or that cannot be corrected; one to host memory; and a fabric address without a binding. -/
theorem test_meets_bulkRequest :
    let s := sTodo true 0x1000
    let b := bTodo 0x1000
    let found := fun s : State => translate s.xlate (.bulk 0) (tractOf 0) 0 0x1000 false
    (findCopy s 5 = none ∧ findBulk s 5 = some b ∧ findTask s 0 = some tBR ∧ tBR.stop = none ∧ tBR.state = .running ∧
      tBR.saving = false ∧ findPart s 0 = some { programPart 0 with dom := 1 } ∧ b.bursts.map (·.state) = [.todo, .todo]) ∧
    (∃ r ∈ tBR.decl.regions, r.kind = .dram ∧ r.ar = true ∧ r.far ≤ 0x1000 ∧ 0x1000 + 64 ≤ r.far + r.size) ∧
    (∀ r ∈ tB.decl.regions, ¬ (r.kind = .dram ∧ r.ar = true)) ∧
    found { s with xlate.caches := [] } = none ∧
    found s = some (s.host.hpa0 + 0x2000, s.xlate) ∧ 0x2000 < hdmSize ∧ queueFree s 0x2000 = true ∧
    burstOf 0x2000 ∉ s.host.tracked ∧ platAllows s.dram.plat 1 (rowOf 0x2000) = true ∧
    platAllows (sTodo false 0x1000).dram.plat 1 (rowOf 0x2000) = false ∧ reportOf s.dram (burstOf 0x2000) ≠ .uncorrectable ∧
    reportOf ({ s with dram.reports := [(burstOf 0x2000, .uncorrectable)] } : State).dram (burstOf 0x2000) = .uncorrectable ∧
    (let u : State := { s with host.hpa0 := 0x100000 }
     found u = some (0x2000, u.xlate) ∧ 0x2000 < u.host.hpa0) ∧
    isFabric 0x1000 = false ∧ isFabric (2 ^ 63 + 7 * 2 ^ 48) = true ∧ s.fabric.bindings = [] := by decide +kernel

/-- A task with one table of 96 bytes, whose two bursts have come for tract 0. -/
def img : List Byte := (List.range 96).map (BitVec.ofNat 8 ·)
def tTb : Task := { programTask 0 with
  state := .admitted, block := some 7, bases := [none]
  decl := { programDecl with regions := [{ (default : Region) with kind := .table, tbl := 15, tsz := 1, size := 96, far := 0x8000 }] }
  xfers := (List.range 2).map fun m =>
    { core := 0, va := 0x8000 + 64 * m, len := 64 - 32 * m, write := false, data := [], record := 0
      state := .got ((img.drop (64 * m)).take 64) } }

theorem test_meets_stagedTable :
    let k := tTb
    let s := sN [k] (programPart 0) []
    (findTask s k.uid = some k ∧ k.state = .admitted ∧ k.stop = none ∧ k.block = some 7 ∧ xfersDone s k = true ∧
      (∀ x ∈ k.xfers, xferFailed x = false) ∧ Memory.wf s.dram.tableRows = true ∧ (∀ x ∈ k.places, x.core < 512)) ∧
    (∃ x ∈ k.places, x.core / 64 = 0) ∧ tableCore k 0 = 0 ∧ img.length = 96 ∧ s.dram.rowActs = [] ∧
    (∀ m, 64 * m < 96 → ∃ x ∈ k.xfers, x.record = 0 ∧ x.core = 0 ∧ x.va = 0x8000 + 64 * m ∧ x.write = false) ∧
    ∀ x ∈ k.xfers, ∀ m, x.va = 0x8000 + 64 * m → x.state = .got ((img.drop (64 * m)).take 64) := by
  refine ⟨by decide, ⟨_, .head _, rfl⟩, by decide, by decide, rfl, fun m h => ?_, fun x hx m hm => ?_⟩
  · rcases (by omega : m = 0 ∨ m = 1) with rfl | rfl
    · exact ⟨_, .head _, rfl, rfl, rfl, rfl⟩
    · exact ⟨_, .tail _ (.head _), rfl, rfl, rfl, rfl⟩
  · simp only [tTb, show List.range 2 = [0, 1] from rfl, List.map_cons, List.map_nil, List.mem_cons, List.not_mem_nil,
      or_false] at hx
    rcases hx with rfl | rfl
    · obtain rfl : m = 0 := by simpa using hm
      rfl
    · obtain rfl : m = 1 := by simp at hm; omega
      rfl

/-- A launch whose table the partition stages: nothing is kept. -/
theorem test_meets_tableAdmission :
    let k : Task := { tAd 0 5 with decl := { programDecl with regions := [{ (default : Region) with
      kind := .table, tbl := 15, tsz := 1, size := 96, far := 0x8000 }] } }
    let q := { programPart 0 with dom := 1 }
    let s : State := { sAd [k] q with dram.tableBlocks := 17 }
    findTask s k.uid = some k ∧ k.state = .released ∧ findPart s k.part = some q ∧ s.kept = [] ∧
    (nextAdmitted s k.tract k.part).map (·.uid) = some k.uid ∧ (blockFor s q k).isSome = true ∧ k.saved = none ∧
    (admitPlan (.given [1535, 0]) q k s).map (fun r => r.2.2.made.length) = some 2 := by
  decide +kernel

/-- Two cores, the first with 40 granules taken; no core where the shares for class 0 leave nothing. -/
def tPl : Task := { tAd 2 5 with decl := { programDecl with hres := 4, regions := [rSt] } }
def qPl (n : Nat) : Partition := { programPart 0 with cores := 3, rthr := n }
def plan0 : Plan := { owners := (List.range 40).map fun k => (k, .party 9 9), places := [], bases := [none], reserves := [], made := [] }

theorem test_meets_placement :
    let s := sAd [tPl] (qPl 0)
    let f := placeNew s (qPl 0) tPl
    (∀ x ∈ plan0.owners, x.1 % 2048 < 1536) ∧ tPl.decl.spillKiB = 0 ∧ 0 < tPl.decl.partySize ∧ 0 < tPl.decl.scratch ∧
    (f.placeParty .first plan0 0).map (fun p => p.places.map (·.core)) = some [0] ∧
    (f.placeRegion .first plan0 0 rSt).map (·.bases) = some [some (2 ^ 23)] ∧
    (placeNew s (qPl 3000) tPl).placeParty .first plan0 0 = none ∧
    rSt.kind = .immutable ∧ 0 < rSt.size ∧ plan0.bases[0]? = some none ∧ rSt.party = none := by decide +kernel

/-- One burst waits on a page as a stop marker or a flush comes. -/
def sPg : State := sTr (.page 0 2) { xT with sent := [(0, 0), (1, 0)], records := [rT 0 0, rT 1 0] }

theorem test_meets_waitingPage :
    let c := cp false (.page 0 2)
    let s : State := { sPg with host.fns := [newFn 0 0], mgmt.up := true }
    findCopy s c.head.id = some c ∧ c.bursts[0]? = some c.bursts.head! ∧ (wT s).client.req = c.head.id ∧ (wT s).client.n = 0 ∧
    ((waiters s).filter fun y => decide (tractOf y.client.core = 0) && (match y.state with
      | .page _ _ => true
      | _ => false)) = [wT s] ∧
    ((waiters s).filter fun y => match y.state with
      | .page _ _ => true
      | _ => false) = [wT s] ∧
    (wT s).state = .page 0 2 ∧ xlateKey s (wT s) = some (0, 0x1000) ∧ tractOf (wT s).client.core < 8 ∧
    findFn s 0 = some (newFn 0 0) ∧ (newFn 0 0).fn = 0 := ⟨rfl, rfl, rfl, rfl, rfl, rfl, rfl, rfl, by decide, rfl, rfl⟩

/-- A flush of a virtual function's partition, and its reset with one record that has ended. -/
theorem test_meets_virtualFunction :
    let f := newFn 3 0
    let k : Task := { programTask 1 with state := .ended, part := 0 }
    let s : State := { sMg f (programTask 0) [] with tasks := [programTask 0, k], xlate.records := [rT 0 0, rT 1 0] }
    findFn s f.fn = some f ∧ f.fn ≠ 0 ∧ findPart s f.part = some (programPart 0) ∧
    (∀ y ∈ waiters s, ∀ a b, y.state ≠ .page a b) ∧ f.part ∉ s.host.resetting ∧ (s.tasks.map (·.uid)).Nodup ∧
    k ∈ s.tasks ∧ k.state = .ended ∧ f.part ∈ ({ s with host := { s.host with resetting := [0] } } : State).host.resetting := by
  refine ⟨by decide, by decide, rfl, fun y hy => absurd hy (List.not_mem_nil), by decide, by decide, by decide, rfl, by decide⟩

/-! Waits, stops between words, rings and the loader -/

/-- A load of step 1 may not be served while its frontier is known as 0, one of step 0 may; a step is due to land at one
slice and not at another; and a group that waits on a load stays. -/
theorem test_meets_servedAndDue :
    domainOf sW 4 = some (.party 0 0) ∧ loadReady sW none 0 4 4 0 = true ∧ loadReady sW none 0 4 4 1 = false ∧
    landingDue (sE [store .low 1]) (.party 0 0) 0 0 = true ∧ landingDue (sE [store .low 1]) (.party 0 0) 0 1 = false ∧
    (let r := { rL with accs := [⟨0, 4, 1⟩] }
     let p : Path := { pL with park := some (.load r) }
     findGroup (forPath p) 0 = some (withPaths [p]) ∧ findPath (withPaths [p]) 0 = some p ∧
     ∃ x ∈ r.accs, loadReady (forPath p) r.own 0 x.addr r.ty.size x.step = false) := by decide

/-- A task told to stop, with its path at `p` and the word at 0x1000 just executed. -/
def sStop (p : Path) : State := { sN [{ programTask 0 with stop := some 2 }] (programPart 0) [] with
  groups := [withPaths [p]]
  cursor := some { gid := 0, pid := 0, pc := 0x1000, word := 0 } }
/-- A path between a `HINT` at 0xFFC and its instruction. -/
def pHint : Path := { pT with pre := { Prefix.none with rank := 1, start := 0xFFC } }

theorem test_meets_midSequence :
    let s := sStop pHint
    let g := withPaths [pHint]
    findTask s 0 = some { programTask 0 with stop := some 2 } ∧ liveChildren s 0 = [] ∧ g ∈ s.groups ∧ g.task = 0 ∧
    pHint ∈ g.paths ∧ resident s g = true ∧ pHint.pre.rank ≠ 0 ∧ heldSince pHint = none ∧ canGo s g pHint = true ∧
    findGroup s 0 = some g ∧ findPath g 0 = some pHint ∧ (g.paths.map (·.pid)).Nodup ∧ pHint.pc = 0x1000 ∧
    pHint.park = none ∧ canGo (sStop pT) (withPaths [pT]) pT = false ∧ pT.pre.rank = 0 := by decide

/-- A path whose word has stopped it in the middle of a sequence is before its first word at the next step (R32, R277). -/
theorem test_givesUpItsSequence :
    (tick (sStop pHint)).groups.map (fun g => g.paths.map fun p => (p.pc, p.pre.rank)) = [[(0xFFC, 0)]] := by decide

/-- A path in the middle of a sequence of a stopped task finishes the sequence and goes no further (R277). -/
theorem test_finishesItsSequence :
    let s := { sStop pHint with cursor := none, agenda := [.issue 0 0], mgmt.up := true }
    (match step s with
      | .next t => t.groups.map fun g => g.paths.map fun p => (p.pc, p.pre.rank, canGo t g p)
      | _ => []) = [[(0x1004, 0, false)]] := by decide

theorem test_meets_endedEdge :
    let s := sN [tP 0 [], { tE .ended with stop := some 2 }, tH] qP []
    (∃ e, taskByHandle s 0 2 = some e ∧ e.state = .ended) ∧ (3 ≤ 3 ∧ taskByHandle s 0 3 = some tH) ∧
    ∀ c, taskByHandle s 0 2 = some c → ¬ (c.state = .waiting ∧ c.hold = true ∧ c.parent = some 0) := by
  refine ⟨⟨_, rfl, rfl⟩, by decide, fun c h => ?_⟩
  obtain rfl := Option.some.inj h
  decide

theorem test_meets_ringSizes :
    (fH false false).cqEn = false ∧ ¬ ((0x80000003 : Word).getLsbD 31 = true ∧ 4 ≤ (0x80000003 : Word).toNat % 16 ∧
      (0x80000003 : Word).toNat % 16 ≤ 12) ∧ (fH true false).sqEn = true ∧ (fH true false).cqEn = false := by decide

/-- A task of one party with a table of 16 entries of 1 byte (R71), whose image has `n` bytes. -/
def rawTable (n : Nat) : RawTask :=
  { partySize := 8, scratch := 4096, width := 8, entry := 0x1000, trap := 0, handlers := [], header := [1, 0, 0, 0, 0, 0, 0, 0],
    records := [[0, 0, 16, 3, 0xFFFFFFFF, 0, 0, 0]], regionRelocs := [], relocs := [], images := [(0, n)] }

/-- A table's image has exactly its size, and a task that breaks that is rejected alone (R71). -/
theorem test_rejectsTheTaskAlone :
    ((loadObject sP { handle := 9, part := 0, tasks := [rawTable 15, rawTable 16, { rawTable 16 with images := [] }],
                      pcBase := 0, words := 2, dpa := 0 }).objects.map fun o => o.tasks.map (·.isSome)) =
      [[true], [false, true, false]] := by decide +kernel

/-- A handler of a later bulk read that waits for step 3 holds the one handler slot, which an older one needs. -/
def sHeld (park : Option Park) : State :=
  let old : Bulk := bk (.got []) none
  { sN [{ programTask 0 with decl := { programDecl with hres := 1 } }] (programPart 0) [] with
    groups := [gT, { gT with
      gid := 1
      handler := some 6
      lanes := gT.lanes.mapIdx fun i t => if i = 0 then t else { t with state := .exited }
      paths := [{ pT with exec := 1, park := park }] }]
    eng.bulks := [old, { old with head := { old.head with id := 6, step := 2 }, bursts := [] }] }
/-- A store of step 0 of the party. -/
def oHeld : Store := { (default : Store) with size := 4, dom := .party 0 0 }

/-- The older read waits for the store while that handler is parked on a load of a later step (R108, R131). -/
theorem test_lateReads :
    lateReads (sHeld (some (.load { rL with own := none, ty := .i32, accs := [⟨0, 4, 3⟩] }))) oHeld = [5, 6] ∧
    lateReads (sHeld none) oHeld = [] := by decide

/-- Four drains of step 5 fill the drain buffer: of a queue, the drain and what stands behind it are kept, an operation
before it is not (R233, R252). -/
theorem test_keptOps :
    let h := fun id : Nat => ({ (default : ReqHead) with id := id } : ReqHead)
    let op := fun (id : Nat) (a : MatrixAct) => ({ (default : MatrixOp) with head := h id, act := a } : MatrixOp)
    let s : State := { sT with
      eng.drains := [1, 2, 3, 4].map fun id => { (default : Drain) with head := h id }
      eng.matrix := [{ (default : Engine) with
        queue := [op 5 (.zero false false), op 6 (.drain false default), op 7 (.zero false false)] }]
      sram.clears := [1, 2, 3, 4].map fun id => { line := 0, req := id, step := 5, dom := .party 0 0, landed := true } }
    keptOps s gT 1 = [6, 7] := by decide
end Sys2Proof.Tests
end

section
/-!
PROOF. The decoder against the encoder: a word that the decoder reads is the sum of its fields, each in its place, so it
is the encoding of what was read (R5, R37 to R49, R56).
-/

-- One theorem at a time: a thread for each of so many runs out of memory for stacks.
set_option Elab.async false

namespace Sys2Proof.Readings

/-! ### Fields of a word -/

/-- A field is its low bits and, above them, its high bits. -/
theorem fld_add (w lo m n : Nat) : fld w lo (m + n) = fld w lo m + 2 ^ m * fld w (lo + m) n := by
  simp only [fld, Nat.pow_add, ← Nat.div_div_eq_div_mul]
  exact Nat.mod_mul

theorem fld_lt (w lo n : Nat) : fld w lo n < 2 ^ n := Nat.mod_lt _ (Nat.two_pow_pos n)

@[simp] theorem toNat_bits (n w lo : Nat) : (bits n w lo).toNat = fld w lo n := BitVec.toNat_ofNat ..

@[simp] theorem toNat_flag (w lo : Nat) : (flag w lo).toNat = fld w lo 1 := by
  have hlt : fld w lo 1 < 2 := fld_lt w lo 1
  by_cases h : fld w lo 1 = 1
  · simp [flag, h]
  · simp [flag, h]
    omega

@[simp] theorem toNat_guardAt (w lo : Nat) : (guardAt w lo).toNat = fld w lo 4 := by
  have hcut : fld w lo 4 = fld w lo 3 + 2 ^ 3 * fld w (lo + 3) 1 := fld_add w lo 3 1
  simp [Guard.toNat, guardAt]
  omega

/-! `pack` at a list of fields. The proofs rewrite: by `rfl` the kernel would multiply by the places in unary. -/

@[simp] theorem pack_nil (x : Nat) : pack x [] = x := by rw [pack, List.foldl_nil]

@[simp] theorem pack_cons (x v lo : Nat) (fs : List (Nat × Nat)) :
    pack x ((v, lo) :: fs) = pack (x + v * 2 ^ lo) fs := by
  rw [pack, List.foldl_cons, pack]

/-- The value of the bits of `w` from bit `lo` on, cut into fields of the given widths, the highest first, as the tables
of R37 to R47 list them. -/
def cut (w lo : Nat) : List Nat → Nat
  | [] => 0
  | n :: ns => fld w (lo + ns.sum) n * 2 ^ ns.sum + cut w lo ns

/-- Fields that follow one another without a gap are one field. -/
theorem cut_eq_fld (w lo : Nat) (ns : List Nat) : cut w lo ns = fld w lo ns.sum := by
  induction ns with
  | nil => simp [cut, fld, Nat.mod_one]
  | cons n ns ih => rw [cut, ih, List.sum_cons, Nat.add_comm n, fld_add, Nat.mul_comm, Nat.add_comm]

/-- Fields of 32 bits in all are the whole of an instruction word (R31). -/
theorem cut_eq_word {w : Nat} (hw : w < 2 ^ 32) {ns : List Nat} (hns : ns.sum = 32) : cut w 0 ns = w := by
  rw [cut_eq_fld, hns, fld, Nat.pow_zero, Nat.div_one, Nat.mod_eq_of_lt hw]

/-- R52: the fields of a `MOD` word are its bits 25:8. -/
@[simp] theorem toNat_modAt (w : Nat) : (modAt w).toNat = fld w 8 18 * 2 ^ 8 := by
  have hcut : cut w 8 [2, 1, 1, 1, 1, 1, 4, 3, 2, 2] = fld w 8 18 := cut_eq_fld ..
  simp [cut] at hcut
  simp [ModWord.toNat, modAt, ← hcut]
  ring

/-! ### The formats that several majors share, as the widths of their fields (R37 to R47) -/

/-- R37: major, D, A, B or IMM6, guard, S, F; majors without a scalar bit read S as a reserved field. -/
@[simp] def registerFormat : List Nat := [6, 6, 6, 6, 4, 1, 3]

/-- R38: major, COND, I and W, A, B or IMM6, guard, S, PD. -/
@[simp] def compareFormat : List Nat := [6, 4, 2, 6, 6, 4, 1, 3]

/-- R39, R47: major, D, A, B or IMM6, guard, and a type or a function code. -/
@[simp] def typedFormat : List Nat := [6, 6, 6, 6, 4, 4]

/-- R40: major in its two parts, the lower one the space or the rule, D, A, OFF6, guard, TY. -/
@[simp] def memoryFormat : List Nat := [4, 2, 6, 6, 6, 4, 4]

/-- R42: major, RL, SP, D, A, OFF6, TY. -/
@[simp] def scalarMemoryFormat : List Nat := [6, 2, 2, 6, 6, 6, 4]

/-- R43: major, D, A, OFF6, guard, SP, F. -/
@[simp] def watchFormat : List Nat := [6, 6, 6, 6, 4, 2, 2]

/-- R43, R44: major, F or the condition of `WATCH`, reserved, A, OFF6, guard, and two fields of two bits. -/
@[simp] def engineFormat : List Nat := [6, 3, 3, 6, 6, 4, 2, 2]

/-- R44: major, D, A, TBL, IX, QB, guard, TY. -/
@[simp] def queryFormat : List Nat := [6, 6, 6, 4, 1, 1, 4, 4]

/-- R45: major, X, Y, Z as space and type, guard, F, and the two bits of MO. -/
@[simp] def matrixFormat : List Nat := [6, 6, 6, 2, 4, 4, 2, 1, 1]

/-- R45: major, X, Y, IMM6, guard, F, and the two bits of MO. -/
@[simp] def tileFormat : List Nat := [6, 6, 6, 6, 4, 2, 1, 1]

/-- R48: major, three predicates, each under reserved bits and above its invert bit, guard, S, F. -/
@[simp] def predicateFormat : List Nat := [6, 2, 3, 1, 2, 3, 1, 2, 3, 1, 4, 1, 3]

/-- R47: major, nothing but reserved bits, guard, F. -/
@[simp] def bareFormat : List Nat := [6, 18, 4, 4]

/-- R47: major, reserved bits, IMM6, guard, F. -/
@[simp] def immediateFormat : List Nat := [6, 12, 6, 4, 4]

/-! ### Coded fields -/

theorem space_code_of_ofCode {n : Nat} {x : Space} (h : Space.ofCode n = some x) : x.code = n := by
  unfold Space.ofCode at h
  split at h <;> cases h <;> rfl

theorem rule_code_of_ofCode {n : Nat} {x : Rule} (h : Rule.ofCode n = some x) : x.code = n := by
  unfold Rule.ofCode at h
  split at h <;> cases h <;> rfl

theorem ty_code_of_ofCode {n : Nat} {x : Ty} (h : Ty.ofCode n = some x) : x.code = n := by
  unfold Ty.ofCode at h
  split at h <;> cases h <;> rfl

theorem icond_code_of_ofCode {n : Nat} {x : ICond} (h : ICond.ofCode n = some x) : x.code = n := by
  unfold ICond.ofCode at h
  split at h <;> cases h <;> rfl

theorem fcond_code_of_ofCode {n : Nat} {x : FCond} (h : FCond.ofCode n = some x) : x.code = n := by
  unfold FCond.ofCode at h
  split at h <;> cases h <;> rfl

theorem wcond_code_of_ofCode {n : Nat} {x : WCond} (h : WCond.ofCode n = some x) : x.code = n := by
  unfold WCond.ofCode at h
  split at h <;> cases h <;> rfl

theorem laneOp_code_of_ofCode {n : Nat} {x : LaneOp} (h : LaneOp.ofCode n = some x) : x.code = n := by
  unfold LaneOp.ofCode at h
  split at h <;> cases h <;> rfl

theorem voteMode_code_of_ofCode {n : Nat} {x : VoteMode} (h : VoteMode.ofCode n = some x) : x.code = n := by
  unfold VoteMode.ofCode at h
  split at h <;> cases h <;> rfl

theorem popMode_code_of_ofCode {n : Nat} {x : PopMode} (h : PopMode.ofCode n = some x) : x.code = n := by
  unfold PopMode.ofCode at h
  split at h <;> cases h <;> rfl

theorem jmode_code_of_ofCode {n : Nat} {x : JMode} (h : JMode.ofCode n = some x) : x.code = n := by
  unfold JMode.ofCode at h
  split at h <;> cases h <;> rfl

/-! ### What is read encodes to the word -/

/-- An instruction that is read from `w`, if one is, is a word of the instruction set and its encoding is `w`. -/
def ReadsBack (w : Nat) (r : Except DecodeError Instr) : Prop :=
  ∀ i, r = .ok i → i.isWord = true ∧ encodeNat i = w

theorem readsBack_error (w : Nat) (e : DecodeError) : ReadsBack w (.error e) := fun _ h => nomatch h

/-- An instruction is read back when its encoding, field by field, is the word cut by its format: `ns` are the widths of
the format's fields, reserved ones and codes among them. -/
theorem readsBack_ok {w : Nat} (hw : w < 2 ^ 32) (ns : List Nat) {i : Instr} {x : Nat} {fs : List (Nat × Nat)}
    (hi : i.isWord = true := by rfl) (he : encodeNat i = pack x fs := by rfl) (hns : ns.sum = 32 := by rfl)
    (hcut : pack x fs = cut w 0 ns := by simp [cut]; omega) : ReadsBack w (.ok i) := by
  rintro _ ⟨⟩
  exact ⟨hi, by rw [he, hcut, cut_eq_word hw hns]⟩

/-- R5: a word that has reserved fields is read only if they are as they must be. -/
theorem readsBack_reservedIf {w : Nat} {p : Prop} [Decidable p] {r : Except DecodeError Instr}
    (h : p → ReadsBack w r) : ReadsBack w (reservedIf (decide p) r) := by
  by_cases hp : p
  · simpa [reservedIf, hp] using h hp
  · simpa [reservedIf, hp] using readsBack_error w .reserved

/-- A coded field that is read holds the code of what it was read as. -/
theorem readsBack_need {α : Type} {w n : Nat} {o : Option α} {code : α → Nat} {e : DecodeError}
    {f : α → Except DecodeError Instr} (hcode : ∀ {x}, o = some x → code x = n)
    (h : ∀ x, code x = n → ReadsBack w (f x)) : ReadsBack w ((need o e).bind f) := by
  cases o with
  | none => exact readsBack_error w e
  | some x => exact h x (hcode rfl)

/-! ### Major by major (R48) -/

section Majors

variable {w : Nat} (hw : w < 2 ^ 32)
include hw

theorem decodeMajor01_readsBack (hm : fld w 26 6 = 0x01) : ReadsBack w (decodeMajor01 w) := by
  unfold decodeMajor01
  split
  case h_9 => exact readsBack_error w .function
  all_goals exact readsBack_ok hw registerFormat

theorem decodeMajor02_readsBack (hm : fld w 26 6 = 0x02) : ReadsBack w (decodeMajor02 w) := by
  unfold decodeMajor02
  split
  case h_9 => exact readsBack_error w .function
  all_goals exact readsBack_ok hw registerFormat

theorem decodeMajor03_readsBack (hm : fld w 26 6 = 0x03) : ReadsBack w (decodeMajor03 w) := by
  unfold decodeMajor03
  split
  case h_8 => exact readsBack_error w .function
  all_goals exact readsBack_ok hw registerFormat

theorem decodeMajor04_readsBack (hm : fld w 26 6 = 0x04) : ReadsBack w (decodeMajor04 w) := by
  unfold decodeMajor04
  split
  case h_8 => exact readsBack_error w .function
  all_goals exact readsBack_ok hw registerFormat

theorem decodeMajor05_readsBack (hm : fld w 26 6 = 0x05) : ReadsBack w (decodeMajor05 w) := by
  unfold decodeMajor05
  split
  case h_9 => exact readsBack_error w .function
  all_goals exact readsBack_ok hw registerFormat

theorem decodeMajor06_readsBack (hm : fld w 26 6 = 0x06) : ReadsBack w (decodeMajor06 w) := by
  unfold decodeMajor06
  split
  case h_9 => exact readsBack_error w .function
  all_goals exact readsBack_ok hw registerFormat

theorem decodeMajor07_readsBack (hm : fld w 26 6 = 0x07) : ReadsBack w (decodeMajor07 w) := by
  unfold decodeMajor07
  split
  case h_5 => exact readsBack_error w .function
  all_goals exact readsBack_ok hw registerFormat

theorem decodeMajor08_readsBack (hm : fld w 26 6 = 0x08) : ReadsBack w (decodeMajor08 w) := by
  unfold decodeMajor08
  split
  case h_5 => exact readsBack_error w .function
  all_goals exact readsBack_ok hw registerFormat

theorem decodeMajor09_readsBack (hm : fld w 26 6 = 0x09) : ReadsBack w (decodeMajor09 w) := by
  unfold decodeMajor09
  split
  case h_8 => exact readsBack_error w .function
  case h_5 | h_6 | h_7 => exact readsBack_ok hw registerFormat
  all_goals exact readsBack_reservedIf fun _ => readsBack_ok hw registerFormat

theorem decodeMajor0A_readsBack (hm : fld w 26 6 = 0x0A) : ReadsBack w (decodeMajor0A w) := by
  unfold decodeMajor0A
  split
  case h_5 => exact readsBack_error w .function
  case h_1 => exact readsBack_reservedIf fun _ => readsBack_ok hw registerFormat
  all_goals exact readsBack_ok hw registerFormat

theorem decodeMajor0B_readsBack (hm : fld w 26 6 = 0x0B) : ReadsBack w (decodeMajor0B w) := by
  unfold decodeMajor0B
  exact readsBack_ok hw registerFormat

theorem decodeMajor0C_readsBack (hm : fld w 26 6 = 0x0C) : ReadsBack w (decodeMajor0C w) := by
  unfold decodeMajor0C
  split
  · exact readsBack_need icond_code_of_ofCode fun _ _ => readsBack_ok hw compareFormat
  · exact readsBack_need icond_code_of_ofCode fun _ _ => readsBack_ok hw compareFormat
  · exact readsBack_error w .function

theorem decodeMajor0D_readsBack (hm : fld w 26 6 = 0x0D) : ReadsBack w (decodeMajor0D w) := by
  unfold decodeMajor0D
  split
  · exact readsBack_need fcond_code_of_ofCode fun _ _ => readsBack_ok hw compareFormat
  · exact readsBack_reservedIf fun _ => readsBack_need fcond_code_of_ofCode fun _ _ =>
      readsBack_ok hw compareFormat
  · exact readsBack_need fcond_code_of_ofCode fun _ _ => readsBack_ok hw compareFormat
  · exact readsBack_error w .function

theorem decodeMajor0E_readsBack (hm : fld w 26 6 = 0x0E) : ReadsBack w (decodeMajor0E w) := by
  unfold decodeMajor0E
  split
  case h_5 => exact readsBack_error w .function
  case h_4 => exact readsBack_reservedIf fun _ => readsBack_ok hw [6, 2, 3, 1, 2, 3, 1, 6, 4, 1, 3]
  all_goals exact readsBack_reservedIf fun _ => readsBack_ok hw predicateFormat

theorem decodeMajor0F_readsBack (hm : fld w 26 6 = 0x0F) : ReadsBack w (decodeMajor0F w) := by
  unfold decodeMajor0F
  split
  case h_7 => exact readsBack_error w .function
  case h_5 | h_6 =>
    exact readsBack_reservedIf fun _ => readsBack_need laneOp_code_of_ofCode fun _ _ =>
      readsBack_ok hw [6, 6, 6, 1, 5, 4, 1, 3]
  all_goals exact readsBack_reservedIf fun _ => readsBack_ok hw registerFormat

theorem decodeMajor10_readsBack (hm : fld w 26 6 = 0x10) : ReadsBack w (decodeMajor10 w) := by
  unfold decodeMajor10
  split
  case h_5 => exact readsBack_error w .function
  all_goals exact readsBack_reservedIf fun _ => readsBack_ok hw registerFormat

theorem decodeMajor11_readsBack (hm : fld w 26 6 = 0x11) : ReadsBack w (decodeMajor11 w) := by
  unfold decodeMajor11
  split
  · exact readsBack_reservedIf fun _ => readsBack_need voteMode_code_of_ofCode fun _ _ =>
      readsBack_ok hw [6, 6, 3, 3, 6, 4, 1, 3]
  · exact readsBack_reservedIf fun _ => readsBack_need popMode_code_of_ofCode fun _ _ =>
      readsBack_ok hw [6, 6, 3, 3, 6, 4, 1, 3]
  · exact readsBack_reservedIf fun _ => readsBack_ok hw [6, 3, 3, 12, 4, 1, 3]
  · exact readsBack_error w .function

theorem decodeMajor12_readsBack (hm : fld w 26 6 = 0x12) : ReadsBack w (decodeMajor12 w) := by
  unfold decodeMajor12
  split
  case h_8 => exact readsBack_error w .function
  all_goals exact readsBack_ok hw registerFormat

theorem decodeMajor13_readsBack (hm : fld w 26 6 = 0x13) : ReadsBack w (decodeMajor13 w) := by
  unfold decodeMajor13
  split
  case h_8 => exact readsBack_error w .function
  all_goals exact readsBack_ok hw registerFormat

theorem decodeMajor14_readsBack (hm : fld w 26 6 = 0x14) : ReadsBack w (decodeMajor14 w) := by
  unfold decodeMajor14
  split
  case h_5 => exact readsBack_error w .function
  all_goals exact readsBack_reservedIf fun _ => readsBack_ok hw registerFormat

theorem decodeMajor15_readsBack (hm : fld w 26 6 = 0x15) : ReadsBack w (decodeMajor15 w) := by
  unfold decodeMajor15
  split
  case h_7 => exact readsBack_error w .function
  all_goals exact readsBack_reservedIf fun _ => readsBack_ok hw registerFormat

theorem decodeMajor16_readsBack (hm : fld w 26 6 = 0x16) : ReadsBack w (decodeMajor16 w) := by
  unfold decodeMajor16
  split
  case h_7 => exact readsBack_error w .function
  all_goals exact readsBack_reservedIf fun _ => readsBack_ok hw registerFormat

theorem decodeMajor17_readsBack (hm : fld w 26 6 = 0x17) : ReadsBack w (decodeMajor17 w) := by
  unfold decodeMajor17
  exact readsBack_reservedIf fun _ => readsBack_need ty_code_of_ofCode fun _ _ =>
    readsBack_need ty_code_of_ofCode fun _ _ => readsBack_ok hw [6, 6, 6, 2, 4, 4, 4]

theorem decodeMajor18_readsBack (hm : fld w 26 6 = 0x18) : ReadsBack w (decodeMajor18 w) := by
  unfold decodeMajor18
  exact readsBack_need ty_code_of_ofCode fun _ _ => readsBack_ok hw typedFormat

theorem decodeMajor19_readsBack (hm : fld w 26 6 = 0x19) : ReadsBack w (decodeMajor19 w) := by
  unfold decodeMajor19
  exact readsBack_need ty_code_of_ofCode fun _ _ => readsBack_ok hw typedFormat

theorem decodeMajor1B_readsBack (hm : fld w 26 6 = 0x1B) : ReadsBack w (decodeMajor1B w) := by
  unfold decodeMajor1B
  exact readsBack_need ty_code_of_ofCode fun _ _ => readsBack_ok hw typedFormat

theorem decodeMajor1A_readsBack (hm : fld w 26 6 = 0x1A) : ReadsBack w (decodeMajor1A w) := by
  unfold decodeMajor1A
  exact readsBack_reservedIf fun _ => readsBack_need ty_code_of_ofCode fun _ _ => readsBack_ok hw typedFormat

theorem decodeMajor1C_readsBack (hm : fld w 26 6 = 0x1C) : ReadsBack w (decodeMajor1C w) := by
  unfold decodeMajor1C
  exact readsBack_reservedIf fun _ => readsBack_need ty_code_of_ofCode fun _ _ => readsBack_ok hw typedFormat

theorem decodeMajor1D_readsBack (hm : fld w 26 6 = 0x1D) : ReadsBack w (decodeMajor1D w) := by
  unfold decodeMajor1D
  exact readsBack_reservedIf fun _ => readsBack_need space_code_of_ofCode fun _ _ =>
    readsBack_need ty_code_of_ofCode fun _ _ => readsBack_ok hw scalarMemoryFormat

theorem decodeMajor1E_readsBack (hm : fld w 26 6 = 0x1E) : ReadsBack w (decodeMajor1E w) := by
  unfold decodeMajor1E
  exact readsBack_need rule_code_of_ofCode fun _ _ => readsBack_need space_code_of_ofCode fun _ _ =>
    readsBack_need ty_code_of_ofCode fun _ _ => readsBack_ok hw scalarMemoryFormat

theorem decodeMajor1F_readsBack (hm : fld w 26 6 = 0x1F) : ReadsBack w (decodeMajor1F w) := by
  unfold decodeMajor1F
  split
  · exact readsBack_reservedIf fun _ => readsBack_need wcond_code_of_ofCode fun _ _ =>
      readsBack_need space_code_of_ofCode fun _ _ => readsBack_ok hw engineFormat
  · exact readsBack_need space_code_of_ofCode fun _ _ => readsBack_ok hw watchFormat
  · exact readsBack_reservedIf fun _ => readsBack_ok hw watchFormat
  · exact readsBack_reservedIf fun _ => readsBack_ok hw watchFormat
  · exact readsBack_error w .function

theorem decodeMajor20_readsBack (hm : fld w 28 4 = 0x8) : ReadsBack w (decodeMajor20 w) := by
  unfold decodeMajor20
  exact readsBack_need space_code_of_ofCode fun _ _ => readsBack_need ty_code_of_ofCode fun _ _ =>
    readsBack_ok hw memoryFormat

theorem decodeMajor24_readsBack (hm : fld w 28 4 = 0x9) : ReadsBack w (decodeMajor24 w) := by
  unfold decodeMajor24
  exact readsBack_need rule_code_of_ofCode fun _ _ => readsBack_need ty_code_of_ofCode fun _ _ =>
    readsBack_ok hw memoryFormat

theorem decodeMajor28_readsBack (hm : fld w 28 4 = 0xA) : ReadsBack w (decodeMajor28 w) := by
  unfold decodeMajor28
  exact readsBack_need rule_code_of_ofCode fun _ _ => readsBack_need ty_code_of_ofCode fun _ _ =>
    readsBack_ok hw memoryFormat

theorem decodeMajor2C_readsBack (hm : fld w 28 4 = 0xB) : ReadsBack w (decodeMajor2C w) := by
  unfold decodeMajor2C
  exact readsBack_need rule_code_of_ofCode fun _ _ => readsBack_need ty_code_of_ofCode fun _ _ =>
    readsBack_ok hw memoryFormat

theorem decodeMajor30_readsBack (hm : fld w 26 6 = 0x30) : ReadsBack w (decodeMajor30 w) := by
  unfold decodeMajor30
  split
  case h_5 => exact readsBack_error w .function
  case h_1 | h_2 =>
    exact readsBack_reservedIf fun _ => readsBack_need space_code_of_ofCode fun _ _ =>
      readsBack_need ty_code_of_ofCode fun _ _ => readsBack_ok hw matrixFormat
  all_goals
    exact readsBack_need space_code_of_ofCode fun _ _ => readsBack_need ty_code_of_ofCode fun _ _ =>
      readsBack_ok hw matrixFormat

theorem decodeMajor31_readsBack (hm : fld w 26 6 = 0x31) : ReadsBack w (decodeMajor31 w) := by
  unfold decodeMajor31
  split
  · exact readsBack_need space_code_of_ofCode fun _ _ => readsBack_need ty_code_of_ofCode fun _ _ =>
      readsBack_ok hw matrixFormat
  · exact readsBack_reservedIf fun _ => readsBack_ok hw [6, 5, 1, 12, 4, 2, 1, 1]
  · exact readsBack_ok hw tileFormat
  · exact readsBack_ok hw tileFormat
  · exact readsBack_error w .function

theorem decodeMajor32_readsBack (hm : fld w 26 6 = 0x32) : ReadsBack w (decodeMajor32 w) := by
  unfold decodeMajor32
  split
  case h_6 => exact readsBack_error w .function
  case h_2 => exact readsBack_reservedIf fun _ => readsBack_ok hw [6, 3, 3, 6, 6, 4, 4]
  case h_5 => exact readsBack_reservedIf fun _ => readsBack_ok hw [6, 3, 15, 4, 4]
  all_goals
    exact readsBack_reservedIf fun _ => readsBack_need space_code_of_ofCode fun _ _ =>
      readsBack_ok hw engineFormat

theorem decodeMajor33_readsBack (hm : fld w 26 6 = 0x33) : ReadsBack w (decodeMajor33 w) := by
  unfold decodeMajor33
  split
  · exact readsBack_need ty_code_of_ofCode fun _ _ => readsBack_ok hw queryFormat
  · exact readsBack_need ty_code_of_ofCode fun _ _ => readsBack_ok hw queryFormat
  · exact readsBack_error w .function

theorem decodeMajor34_readsBack (hm : fld w 26 6 = 0x34) : ReadsBack w (decodeMajor34 w) := by
  unfold decodeMajor34
  exact readsBack_ok hw [6, 4, 22]

theorem decodeMajor35_readsBack (hm : fld w 26 6 = 0x35) : ReadsBack w (decodeMajor35 w) := by
  unfold decodeMajor35
  exact readsBack_ok hw [6, 26]

theorem decodeMajor36_readsBack (hm : fld w 26 6 = 0x36) : ReadsBack w (decodeMajor36 w) := by
  unfold decodeMajor36
  exact readsBack_ok hw [6, 26]

theorem decodeMajor37_readsBack (hm : fld w 26 6 = 0x37) : ReadsBack w (decodeMajor37 w) := by
  unfold decodeMajor37
  exact readsBack_ok hw [6, 3, 4, 19]

theorem decodeMajor38_readsBack (hm : fld w 26 6 = 0x38) : ReadsBack w (decodeMajor38 w) := by
  unfold decodeMajor38
  split
  · exact readsBack_reservedIf fun _ => readsBack_ok hw bareFormat
  · exact readsBack_reservedIf fun _ => readsBack_ok hw typedFormat
  · exact readsBack_reservedIf fun _ => readsBack_ok hw typedFormat
  · exact readsBack_reservedIf fun _ => readsBack_ok hw [6, 3, 3, 12, 4, 4]
  · exact readsBack_need jmode_code_of_ofCode fun _ _ => readsBack_ok hw typedFormat
  · exact readsBack_reservedIf fun _ => readsBack_ok hw bareFormat
  · exact readsBack_reservedIf fun _ => readsBack_ok hw immediateFormat
  · split
    · exact readsBack_reservedIf fun _ => readsBack_ok hw typedFormat
    · exact readsBack_reservedIf fun _ => readsBack_ok hw immediateFormat
    · exact readsBack_error w .field
  · exact readsBack_reservedIf fun _ => readsBack_ok hw bareFormat
  · exact readsBack_reservedIf fun _ => readsBack_ok hw immediateFormat
  · exact readsBack_reservedIf fun _ => readsBack_ok hw immediateFormat
  · exact readsBack_error w .function

theorem decodeMajor39_readsBack (hm : fld w 26 6 = 0x39) : ReadsBack w (decodeMajor39 w) := by
  unfold decodeMajor39
  split
  · exact readsBack_reservedIf fun _ => readsBack_need space_code_of_ofCode fun _ _ =>
      readsBack_ok hw [6, 6, 6, 4, 2, 4, 4]
  · exact readsBack_reservedIf fun _ => readsBack_ok hw typedFormat
  · split
    · exact readsBack_ok hw typedFormat
    · exact readsBack_ok hw typedFormat
    · exact readsBack_error w .field
  · exact readsBack_error w .function

theorem decodeMajor3A_readsBack (hm : fld w 26 6 = 0x3A) : ReadsBack w (decodeMajor3A w) := by
  unfold decodeMajor3A
  split
  · exact readsBack_reservedIf fun _ => readsBack_ok hw typedFormat
  · exact readsBack_reservedIf fun _ => readsBack_ok hw typedFormat
  · exact readsBack_reservedIf fun _ => readsBack_ok hw bareFormat
  · exact readsBack_reservedIf fun _ => readsBack_ok hw bareFormat
  · exact readsBack_error w .function

theorem decodeMajor3C_readsBack (hm : fld w 26 6 = 0x3C) : ReadsBack w (decodeMajor3C w) := by
  unfold decodeMajor3C
  exact readsBack_reservedIf fun _ => readsBack_ok hw [6, 2, 1, 1, 22]

theorem decodeMajor3D_readsBack (hm : fld w 26 6 = 0x3D) : ReadsBack w (decodeMajor3D w) := by
  unfold decodeMajor3D
  exact readsBack_reservedIf fun _ => readsBack_ok hw [6, 18, 8]

theorem decodeMajor3E_readsBack (hm : fld w 26 6 = 0x3E) : ReadsBack w (decodeMajor3E w) := by
  unfold decodeMajor3E
  exact readsBack_ok hw [6, 26]

end Majors

/-- The majors of `LD` and `ST` carry the space or the rule in their two low bits (R40). -/
theorem fld_28_of_major {w n : Nat} (hm : fld w 26 6 = n) : fld w 28 4 = n / 4 := by
  have hcut : fld w 26 6 = fld w 26 2 + 2 ^ 2 * fld w 28 4 := fld_add w 26 2 4
  have hlow : fld w 26 2 < 4 := fld_lt w 26 2
  omega

/-- The word that is read is the encoding of what was read, whatever its major. -/
theorem decodeFields_readsBack {w : Nat} (hw : w < 2 ^ 32) : ReadsBack w (decodeFields w) := by
  unfold decodeFields
  split
  case h_1 => exact decodeMajor01_readsBack hw ‹_›
  case h_2 => exact decodeMajor02_readsBack hw ‹_›
  case h_3 => exact decodeMajor03_readsBack hw ‹_›
  case h_4 => exact decodeMajor04_readsBack hw ‹_›
  case h_5 => exact decodeMajor05_readsBack hw ‹_›
  case h_6 => exact decodeMajor06_readsBack hw ‹_›
  case h_7 => exact decodeMajor07_readsBack hw ‹_›
  case h_8 => exact decodeMajor08_readsBack hw ‹_›
  case h_9 => exact decodeMajor09_readsBack hw ‹_›
  case h_10 => exact decodeMajor0A_readsBack hw ‹_›
  case h_11 => exact decodeMajor0B_readsBack hw ‹_›
  case h_12 => exact decodeMajor0C_readsBack hw ‹_›
  case h_13 => exact decodeMajor0D_readsBack hw ‹_›
  case h_14 => exact decodeMajor0E_readsBack hw ‹_›
  case h_15 => exact decodeMajor0F_readsBack hw ‹_›
  case h_16 => exact decodeMajor10_readsBack hw ‹_›
  case h_17 => exact decodeMajor11_readsBack hw ‹_›
  case h_18 => exact decodeMajor12_readsBack hw ‹_›
  case h_19 => exact decodeMajor13_readsBack hw ‹_›
  case h_20 => exact decodeMajor14_readsBack hw ‹_›
  case h_21 => exact decodeMajor15_readsBack hw ‹_›
  case h_22 => exact decodeMajor16_readsBack hw ‹_›
  case h_23 => exact decodeMajor17_readsBack hw ‹_›
  case h_24 => exact decodeMajor18_readsBack hw ‹_›
  case h_25 => exact decodeMajor19_readsBack hw ‹_›
  case h_26 => exact decodeMajor1A_readsBack hw ‹_›
  case h_27 => exact decodeMajor1B_readsBack hw ‹_›
  case h_28 => exact decodeMajor1C_readsBack hw ‹_›
  case h_29 => exact decodeMajor1D_readsBack hw ‹_›
  case h_30 => exact decodeMajor1E_readsBack hw ‹_›
  case h_31 => exact decodeMajor1F_readsBack hw ‹_›
  case h_32 | h_33 | h_34 => exact decodeMajor20_readsBack hw (fld_28_of_major ‹_›)
  case h_35 | h_36 | h_37 | h_38 => exact decodeMajor24_readsBack hw (fld_28_of_major ‹_›)
  case h_39 | h_40 | h_41 | h_42 => exact decodeMajor28_readsBack hw (fld_28_of_major ‹_›)
  case h_43 | h_44 | h_45 | h_46 => exact decodeMajor2C_readsBack hw (fld_28_of_major ‹_›)
  case h_47 => exact decodeMajor30_readsBack hw ‹_›
  case h_48 => exact decodeMajor31_readsBack hw ‹_›
  case h_49 => exact decodeMajor32_readsBack hw ‹_›
  case h_50 => exact decodeMajor33_readsBack hw ‹_›
  case h_51 => exact decodeMajor34_readsBack hw ‹_›
  case h_52 => exact decodeMajor35_readsBack hw ‹_›
  case h_53 => exact decodeMajor36_readsBack hw ‹_›
  case h_54 => exact decodeMajor37_readsBack hw ‹_›
  case h_55 => exact decodeMajor38_readsBack hw ‹_›
  case h_56 => exact decodeMajor39_readsBack hw ‹_›
  case h_57 => exact decodeMajor3A_readsBack hw ‹_›
  case h_58 => exact decodeMajor3C_readsBack hw ‹_›
  case h_59 => exact decodeMajor3D_readsBack hw ‹_›
  case h_60 => exact decodeMajor3E_readsBack hw ‹_›
  case h_61 => exact readsBack_error w .major

/-- A word decodes to the instruction that its fields spell, if that is well formed (R49). -/
theorem decode_eq_ok {w : Word} {i : Instr} : decode w = .ok i ↔ decodeFields w.toNat = .ok i ∧ i.wf = true := by
  cases hf : decodeFields w.toNat with
  | error e => simp [decode, decodeNat, hf]
  | ok j =>
    by_cases hj : j.wf = true <;> simp [decode, decodeNat, hf, hj]
    all_goals rintro rfl; simp [hj]

/-- A word whose fields spell no instruction is refused for the same reason. -/
theorem decode_eq_error {w : Word} {e : DecodeError} (h : decodeFields w.toNat = .error e) : decode w = .error e := by
  simp [decode, decodeNat, h]

theorem toNat_major (w : Word) : (w.extractLsb' 26 6).toNat = fld w.toNat 26 6 := by
  rw [BitVec.extractLsb'_toNat, Nat.shiftRight_eq_div_pow, fld]

/-- R48, R56: the majors that the opcode map leaves undefined. -/
theorem decodeFields_undefined_major {w m : Nat} (hm : m = 0x00 ∨ m = 0x23 ∨ m = 0x3B ∨ m = 0x3F)
    (hw : fld w 26 6 = m) : decodeFields w = .error .major := by
  rw [decodeFields, hw]
  rcases hm with rfl | rfl | rfl | rfl <;> rfl

/-- Settles O3: every format's fields cover the whole word, so the word that is read is the encoding of what is read. -/
theorem everyWordHasAtMostOneReading : Obligations.EveryWordHasAtMostOneReading := by
  refine ⟨fun w i h => ?_, fun w h => ?_⟩
  · obtain ⟨hfields, hwf⟩ := decode_eq_ok.mp h
    obtain ⟨hword, henc⟩ := decodeFields_readsBack w.isLt i hfields
    exact ⟨hwf, hword, by rw [encode, henc, BitVec.ofNat_toNat, BitVec.setWidth_eq]⟩
  · have hm := toNat_major w
    refine decode_eq_error (decodeFields_undefined_major ?_ hm.symm)
    exact h.imp (congrArg _) <| .imp (congrArg _) <| .imp (congrArg _) (congrArg _)

end Sys2Proof.Readings
end

section
/-!
PROOF. The start of a party (R9, R22, R188, R275): its groups, their lanes and their one path.
-/

namespace Sys2Proof.PartyStart

open Sys2Proof Sys2Proof.Machine

/-! ### A fresh group without parameters -/

/-- A group of a party's threads at the moment it starts: group `n` of the party at `x`, under the numbers `gid` and `pid`,
at a position of the active set. -/
def startGroup (t : Task) (x : PartyPlace) (n gid pid : Nat) (active : Option Nat) (now : Nat) : Group :=
  let threads := groupThreads t x.index n
  { gid := gid, task := t.uid, party := x.index, core := x.core, width := t.decl.width, handler := none,
    completion := false, lanes := threads ++ List.replicate (t.decl.width - threads.length) emptyLane,
    paths := [newPath pid t.decl.entry threads.length], active := active, issued := 0, lastIssue := 0, packed := false,
    readySince := now }

/-- `g` stands as group `n` of the party at `x` starts. -/
def StartsAs (t : Task) (x : PartyPlace) (n : Nat) (g : Group) : Prop :=
  ∃ gid pid active now, g = startGroup t x n gid pid active now

/-- One more group of a party changes the list of groups, at its end, and the counter of numbers alone. -/
theorem newGroup_party (t : Task) (s : State) (x : PartyPlace) (n : Nat) :
    ∃ g, StartsAs t x n g ∧
      newGroup s t.uid x.index x.core t.decl.width none false (groupThreads t x.index n) t.decl.entry [] =
        { s with groups := s.groups ++ [g], fresh := s.fresh + 2 } :=
  ⟨_, ⟨s.fresh, s.fresh + 1, if groupFits s t.uid x.core then activeSlot s x.core else none, s.now, rfl⟩, rfl⟩

/-- The groups of a list of numbers are started in its order. -/
theorem startGroups_appends (t : Task) (x : PartyPlace) (ns : List Nat) (s : State) :
    ∃ new, List.Forall₂ (StartsAs t x) ns new ∧
      ns.foldl (fun s n =>
        newGroup s t.uid x.index x.core t.decl.width none false (groupThreads t x.index n) t.decl.entry []) s =
        { s with groups := s.groups ++ new, fresh := s.fresh + 2 * ns.length } := by
  induction ns generalizing s with
  | nil => exact ⟨[], .nil, by simp⟩
  | cons n ns ih =>
    obtain ⟨g, hg, hone⟩ := newGroup_party t s x n
    obtain ⟨new, hnew, hrest⟩ := ih { s with groups := s.groups ++ [g], fresh := s.fresh + 2 }
    refine ⟨g :: new, .cons hg hnew, ?_⟩
    rw [List.foldl_cons, hone, hrest]
    simp only [List.append_assoc, List.singleton_append, List.length_cons]
    congr 1
    omega

/-- The number of groups of a party. -/
def groupCount (d : TaskDecl) : Nat := (d.partySize + d.width - 1) / d.width

/-- R22: a party starts as its groups, in order of their numbers. -/
theorem startParty_appends (t : Task) (s : State) (x : PartyPlace) :
    ∃ new, List.Forall₂ (StartsAs t x) (List.range (groupCount t.decl)) new ∧
      startParty t s x = { s with groups := s.groups ++ new, fresh := s.fresh + 2 * groupCount t.decl } := by
  have h := startGroups_appends t x (List.range (groupCount t.decl)) s
  rwa [List.length_range] at h

/-! ### The lanes of a started group -/

@[simp] theorem groupThreads_length (t : Task) (party n : Nat) :
    (groupThreads t party n).length = min t.decl.width (t.decl.partySize - n * t.decl.width) := by
  simp [groupThreads]

@[simp] theorem startGroup_lanes_length (t : Task) (x : PartyPlace) (n gid pid : Nat) (active : Option Nat) (now : Nat) :
    (startGroup t x n gid pid active now).lanes.length = t.decl.width := by
  simp [startGroup]

/-- A lane with a thread of the party: thread `n * width + l` of it. -/
theorem laneOf_startGroup_thread {t : Task} {x : PartyPlace} {n l : Nat} (gid pid : Nat) (active : Option Nat) (now : Nat)
    (hl : l < t.decl.width) (hsize : n * t.decl.width + l < t.decl.partySize) :
    laneOf (startGroup t x n gid pid active now) l =
      newThread (BitVec.ofNat 32 (x.index * t.decl.partySize + (n * t.decl.width + l))) (n * t.decl.width + l)
        t.decl.trap := by
  have hlt : l < (groupThreads t x.index n).length := by rw [groupThreads_length]; omega
  rw [laneOf, startGroup]
  simp only [List.getElem?_append_left hlt, List.getElem?_eq_getElem hlt, Option.getD_some]
  simp [groupThreads]

/-- A lane position past the party's last thread is empty. -/
theorem laneOf_startGroup_empty {t : Task} {x : PartyPlace} {n l : Nat} (gid pid : Nat) (active : Option Nat) (now : Nat)
    (hl : l < t.decl.width) (hsize : t.decl.partySize ≤ n * t.decl.width + l) :
    laneOf (startGroup t x n gid pid active now) l = emptyLane := by
  have hge : (groupThreads t x.index n).length ≤ l := by rw [groupThreads_length]; omega
  rw [laneOf, startGroup]
  simp only [List.getElem?_append_right hge, groupThreads_length] at hge ⊢
  rw [List.getElem?_replicate, if_pos (by omega), Option.getD_some]

/-- R188: every register of a fresh thread is zero. -/
theorem vreg_newThread (tid : Word) (index : Nat) (tvec : Word) (r : Nat) : vreg (newThread tid index tvec) r = 0 := by
  unfold vreg newThread
  split
  · exact Vector.getElem_replicate ..
  · rfl

/-- What every lane position of a started group holds: a fresh thread, or none. -/
theorem laneOf_startGroup_zero {t : Task} {x : PartyPlace} {n l : Nat} (gid pid : Nat) (active : Option Nat) (now : Nat)
    (hl : l < t.decl.width) : ∃ tid index tvec state,
      laneOf (startGroup t x n gid pid active now) l = { newThread tid index tvec with state := state } := by
  by_cases hsize : n * t.decl.width + l < t.decl.partySize
  · exact ⟨_, _, _, .live, laneOf_startGroup_thread gid pid active now hl hsize⟩
  · exact ⟨0, 0, 0, .empty, laneOf_startGroup_empty gid pid active now hl (by omega)⟩

/-! ### The path of a started group -/

/-- The lanes of `fullMask n` are the first `n`. -/
theorem getLsbD_fullMask {n : Nat} (hn : n ≤ 64) (l : Nat) : (fullMask n).getLsbD l = true ↔ l < n := by
  rw [fullMask, BitVec.getLsbD_ofNat, Nat.testBit_two_pow_sub_one]
  simp only [Bool.and_eq_true, decide_eq_true_eq]
  omega

theorem sreg_newPath (pid : Nat) (pc : Word) (n r : Nat) : sreg (newPath pid pc n) r = 0 := by
  unfold sreg newPath
  split
  · exact Vector.getElem_replicate ..
  · rfl

theorem jmask_newPath (pid : Nat) (pc : Word) (n r : Nat) : jmask (newPath pid pc n) r = 0 := by
  unfold jmask newPath
  split
  · exact Vector.getElem_replicate ..
  · rfl

theorem pred_newPath (pid : Nat) (pc : Word) (n k : Nat) (h : k < 7) : (newPath pid pc n).p[k] = 0 :=
  Vector.getElem_replicate ..

/-- Settles O8: every group that a party starts is a `startGroup`, whose lanes are fresh threads and whose path is fresh. -/
theorem partiesStartAllZero : Obligations.PartiesStartAllZero := by
  intro t s x _ hw64
  dsimp only
  obtain ⟨new, hnew, hstart⟩ := startParty_appends t s x
  have hlen : new.length = groupCount t.decl := by rw [← hnew.length_eq, List.length_range]
  rw [hstart]
  refine ⟨rfl, new, rfl, hlen, fun n hn => ?_⟩
  obtain ⟨gid, pid, active, now, hg⟩ : StartsAs t x n new[n] := by
    have h := hnew.get (i := n) (by rw [hnew.length_eq]; exact hn) hn
    simpa using h
  rw [hg]
  refine ⟨rfl, rfl, rfl, rfl, startGroup_lanes_length .., rfl, ?_, ?_, ?_⟩
  · rintro l ⟨hl, hsize⟩
    rw [laneOf_startGroup_thread gid pid active now hl hsize, ← Nat.add_assoc]
    exact ⟨rfl, rfl, rfl⟩
  · intro l hl
    obtain ⟨tid, index, tvec, state, hzero⟩ := laneOf_startGroup_zero (x := x) (n := n) gid pid active now hl
    refine ⟨fun r => ?_, ?_, ?_, ?_, fun hempty => ?_⟩
    · rw [laneReg, hzero]; exact vreg_newThread tid index tvec r
    · rw [hzero]; rfl
    · rw [hzero]; rfl
    · rw [hzero]; rfl
    · rw [laneOf_startGroup_empty gid pid active now hl (by omega)]; rfl
  · refine ⟨_, rfl, rfl, fun l => ?_, sreg_newPath _ _ _, pred_newPath _ _ _, rfl, jmask_newPath _ _ _, rfl, rfl⟩
    have hmask := getLsbD_fullMask (n := (groupThreads t x.index n).length) (by rw [groupThreads_length]; omega) l
    rw [groupThreads_length] at hmask
    simp only [newPath, groupThreads_length]
    rw [hmask]
    omega

end Sys2Proof.PartyStart
end

section
/-!
PROOF. Placement (R88, R108, R126, R132, R137, R260, R261, R263): the free runs of a slice, the ranking of cores, and
where a party or a region goes.
-/

namespace Sys2Proof.Placing

open Sys2Proof Sys2Proof.Machine

/-! ### Insertion into a sorted list -/

theorem insertBy_perm {α : Type} (le : α → α → Bool) (x : α) (l : List α) : (insertBy le x l).Perm (x :: l) := by
  induction l with
  | nil => exact .refl _
  | cons y l ih =>
    unfold insertBy
    split
    · exact .refl _
    · exact (ih.cons y).trans (.swap x y l)

theorem sortBy_perm {α : Type} (le : α → α → Bool) (l : List α) : (sortBy le l).Perm l := by
  induction l with
  | nil => exact .refl _
  | cons x l ih => exact (insertBy_perm le x (sortBy le l)).trans (ih.cons x)

/-- `le` decides, of two elements that stand in this order, which of them comes first under `R`. -/
def Decides {α : Type} (le : α → α → Bool) (R : α → α → Prop) (x y : α) : Prop :=
  (le x y = true → R x y) ∧ (le x y = false → R y x)

theorem insertBy_pairwise {α : Type} {le : α → α → Bool} {R : α → α → Prop} (trans : ∀ a b c, R a b → R b c → R a c)
    {x : α} {l : List α} (hx : ∀ y ∈ l, Decides le R x y) (hl : l.Pairwise R) : (insertBy le x l).Pairwise R := by
  induction l with
  | nil => exact List.pairwise_singleton R x
  | cons y l ih =>
    rw [List.pairwise_cons] at hl
    obtain ⟨hy, hl⟩ := hl
    obtain ⟨hfirst, hsecond⟩ := hx y List.mem_cons_self
    unfold insertBy
    split
    case isTrue h =>
      refine List.pairwise_cons.mpr ⟨fun z hz => ?_, List.pairwise_cons.mpr ⟨hy, hl⟩⟩
      rcases List.mem_cons.mp hz with rfl | hz
      · exact hfirst h
      · exact trans x y z (hfirst h) (hy z hz)
    case isFalse h =>
      refine List.pairwise_cons.mpr ⟨fun z hz => ?_, ih (fun z hz => hx z (List.mem_cons_of_mem y hz)) hl⟩
      rcases List.mem_cons.mp ((insertBy_perm le x l).mem_iff.mp hz) with rfl | hz
      · exact hsecond (by simpa using h)
      · exact hy z hz

/-- A list that is sorted by a test stands in the order that the test decides. -/
theorem sortBy_pairwise {α : Type} {le : α → α → Bool} {R : α → α → Prop} (trans : ∀ a b c, R a b → R b c → R a c)
    {l : List α} (h : l.Pairwise (Decides le R)) : (sortBy le l).Pairwise R := by
  induction l with
  | nil => exact .nil
  | cons x l ih =>
    rw [List.pairwise_cons] at h
    exact insertBy_pairwise trans (fun y hy => h.1 y ((sortBy_perm le l).mem_iff.mp hy)) (ih h.2)

/-! ### The free runs of a slice -/

/-- The runs of granules below 1,536 that a rising list of busy granules leaves free from `lo` on. -/
def gapsFrom (lo : Nat) : List Nat → List (Nat × Nat)
  | [] => if lo < 1536 then [(lo, 1536 - lo)] else []
  | b :: bs => (if lo < b then [(lo, b - lo)] else []) ++ gapsFrom (b + 1) bs

/-- One granule of the sweep of `gaps`. -/
def sweep (acc : List (Nat × Nat) × Nat) (b : Nat) : List (Nat × Nat) × Nat :=
  (if acc.2 < b then acc.1 ++ [(acc.2, b - acc.2)] else acc.1, b + 1)

/-- The granules of a slice in use, in rising order. -/
def busyGranules (owners : List (Nat × Owner)) (core : Nat) : List Nat :=
  sortBy (fun a b => decide (a ≤ b)) ((owners.filter fun x => decide (x.1 / 2048 = core)).map fun x => x.1 % 2048)

theorem sweep_gapsFrom (bs : List Nat) (acc : List (Nat × Nat) × Nat) :
    (if (bs.foldl sweep acc).2 < 1536 then (bs.foldl sweep acc).1 ++ [((bs.foldl sweep acc).2, 1536 - (bs.foldl sweep acc).2)]
      else (bs.foldl sweep acc).1) = acc.1 ++ gapsFrom acc.2 bs := by
  induction bs generalizing acc with
  | nil =>
    unfold gapsFrom
    split <;> simp_all
  | cons b bs ih =>
    rw [List.foldl_cons, ih, gapsFrom, sweep]
    split <;> simp

theorem gaps_eq (owners : List (Nat × Owner)) (core : Nat) : gaps owners core = gapsFrom 0 (busyGranules owners core) :=
  sweep_gapsFrom (busyGranules owners core) ([], 0)

theorem gapsFrom_free {bs : List Nat} {lo : Nat} (hs : bs.Pairwise (· ≤ ·)) (hlo : ∀ b ∈ bs, lo ≤ b + 1 ∧ b < 1536)
    {g : Nat × Nat} (hg : g ∈ gapsFrom lo bs) :
    lo ≤ g.1 ∧ g.1 + g.2 ≤ 1536 ∧ ∀ b ∈ bs, b < g.1 ∨ g.1 + g.2 ≤ b := by
  induction bs generalizing lo with
  | nil =>
    unfold gapsFrom at hg
    split at hg
    · obtain rfl := List.mem_singleton.mp hg
      exact ⟨Nat.le_refl _, by simp only; omega, by simp⟩
    · simp at hg
  | cons b bs ih =>
    rw [List.pairwise_cons] at hs
    obtain ⟨hb, hs⟩ := hs
    obtain ⟨hlob, hmax⟩ := hlo b List.mem_cons_self
    rcases List.mem_append.mp hg with hg | hg
    · split at hg
      · obtain rfl := List.mem_singleton.mp hg
        refine ⟨Nat.le_refl _, by simp only; omega, fun c hc => ?_⟩
        rcases List.mem_cons.mp hc with rfl | hc
        · right; simp only; omega
        · have := hb c hc
          right; simp only; omega
      · simp at hg
    · obtain ⟨hge, htop, hrest⟩ := ih hs (fun c hc => ⟨by have := hb c hc; omega, (hlo c (List.mem_cons_of_mem b hc)).2⟩) hg
      refine ⟨by omega, htop, fun c hc => ?_⟩
      rcases List.mem_cons.mp hc with rfl | hc
      · left; omega
      · exact hrest c hc

theorem gapsFrom_pairwise {bs : List Nat} {lo : Nat} (hs : bs.Pairwise (· ≤ ·)) (hlo : ∀ b ∈ bs, lo ≤ b + 1 ∧ b < 1536) :
    (gapsFrom lo bs).Pairwise fun g h => g.1 + g.2 ≤ h.1 := by
  induction bs generalizing lo with
  | nil =>
    unfold gapsFrom
    split
    · exact List.pairwise_singleton _ _
    · exact .nil
  | cons b bs ih =>
    rw [List.pairwise_cons] at hs
    obtain ⟨hb, hs⟩ := hs
    have hnext : ∀ c ∈ bs, b + 1 ≤ c + 1 ∧ c < 1536 :=
      fun c hc => ⟨by have := hb c hc; omega, (hlo c (List.mem_cons_of_mem b hc)).2⟩
    refine List.pairwise_append.mpr ⟨?_, ih hs hnext, fun g hg h hh => ?_⟩
    · split
      · exact List.pairwise_singleton _ _
      · exact .nil
    · have hge := (gapsFrom_free hs hnext hh).1
      split at hg
      · obtain rfl := List.mem_singleton.mp hg
        simp only; omega
      · simp at hg

theorem gapsFrom_covers {bs : List Nat} {lo a n : Nat} (hn : 0 < n) (ha : lo ≤ a) (htop : a + n ≤ 1536)
    (hfree : ∀ b ∈ bs, b < a ∨ a + n ≤ b) : ∃ g ∈ gapsFrom lo bs, g.1 ≤ a ∧ a + n ≤ g.1 + g.2 := by
  induction bs generalizing lo with
  | nil =>
    refine ⟨(lo, 1536 - lo), ?_, ha, by simp only; omega⟩
    rw [gapsFrom, if_pos (by omega)]
    exact List.mem_singleton.mpr rfl
  | cons b bs ih =>
    rcases hfree b List.mem_cons_self with hlt | hge
    · obtain ⟨g, hg, hin⟩ := ih (lo := b + 1) hlt fun c hc => hfree c (List.mem_cons_of_mem b hc)
      exact ⟨g, List.mem_append_right _ hg, hin⟩
    · refine ⟨(lo, b - lo), List.mem_append_left _ ?_, ha, by simp only; omega⟩
      rw [if_pos (by omega)]
      exact List.mem_singleton.mpr rfl

/-- No granule lies past the populated bytes of its slice (R26). -/
def Populated (owners : List (Nat × Owner)) : Prop := ∀ x ∈ owners, x.1 % 2048 < 1536

/-- `n` granules of slice `m` from granule `a` on are populated and free. -/
def FreeRun (owners : List (Nat × Owner)) (m a n : Nat) : Prop :=
  a + n ≤ 1536 ∧ ∀ x ∈ owners, x.1 / 2048 = m → x.1 % 2048 < a ∨ a + n ≤ x.1 % 2048

/-- Two runs share no granule. -/
def Apart (a n b m : Nat) : Prop := a + n ≤ b ∨ b + m ≤ a

theorem busyGranules_sorted (owners : List (Nat × Owner)) (core : Nat) : (busyGranules owners core).Pairwise (· ≤ ·) := by
  refine sortBy_pairwise (R := fun a b => a ≤ b) (fun _ _ _ => Nat.le_trans) ?_
  refine List.pairwise_of_forall fun x y => ⟨fun h => of_decide_eq_true h, fun h => ?_⟩
  exact Nat.le_of_not_le (of_decide_eq_false h)

theorem mem_busyGranules {owners : List (Nat × Owner)} {core b : Nat} :
    b ∈ busyGranules owners core ↔ ∃ x ∈ owners, x.1 / 2048 = core ∧ x.1 % 2048 = b := by
  rw [busyGranules, (sortBy_perm _ _).mem_iff]
  simp [and_assoc]

theorem freeRun_iff {owners : List (Nat × Owner)} {m a n : Nat} :
    FreeRun owners m a n ↔ a + n ≤ 1536 ∧ ∀ b ∈ busyGranules owners m, b < a ∨ a + n ≤ b := by
  refine and_congr_right fun _ => ⟨fun h b hb => ?_, fun h x hx hm => h _ (mem_busyGranules.mpr ⟨x, hx, hm, rfl⟩)⟩
  obtain ⟨x, hx, hm, rfl⟩ := mem_busyGranules.mp hb
  exact h x hx hm

/-- A part of a free run is free. -/
theorem freeRun_part {owners : List (Nat × Owner)} {m a n b k : Nat} (h : FreeRun owners m a n) (hlow : a ≤ b)
    (hhigh : b + k ≤ a + n) : FreeRun owners m b k := by
  obtain ⟨htop, hfree⟩ := h
  refine ⟨by omega, fun x hx hm => ?_⟩
  have := hfree x hx hm
  omega

section Gaps

variable {owners : List (Nat × Owner)} {core : Nat} (hp : Populated owners)
include hp

theorem busyGranules_lt : ∀ b ∈ busyGranules owners core, 0 ≤ b + 1 ∧ b < 1536 := by
  intro b hb
  obtain ⟨x, hx, _, rfl⟩ := mem_busyGranules.mp hb
  exact ⟨Nat.zero_le _, hp x hx⟩

theorem freeRun_of_mem_gaps {g : Nat × Nat} (hg : g ∈ gaps owners core) : FreeRun owners core g.1 g.2 := by
  rw [gaps_eq] at hg
  exact freeRun_iff.mpr (gapsFrom_free (busyGranules_sorted owners core) (busyGranules_lt hp) hg).2

theorem gaps_apart {g h : Nat × Nat} (hg : g ∈ gaps owners core) (hh : h ∈ gaps owners core) (hne : h ≠ g) :
    Apart g.1 g.2 h.1 h.2 := by
  rw [gaps_eq] at hg hh
  have hsymm : Std.Symm fun g h : Nat × Nat => Apart g.1 g.2 h.1 h.2 := ⟨fun _ _ => Or.symm⟩
  have hpair := (gapsFrom_pairwise (busyGranules_sorted owners core) (busyGranules_lt hp)).imp
    (S := fun g h : Nat × Nat => Apart g.1 g.2 h.1 h.2) Or.inl
  exact hpair.forall hg hh hne.symm

omit hp in
theorem exists_gap {a n : Nat} (hn : 0 < n) (h : FreeRun owners core a n) :
    ∃ g ∈ gaps owners core, g.1 ≤ a ∧ a + n ≤ g.1 + g.2 := by
  obtain ⟨htop, hfree⟩ := freeRun_iff.mp h
  rw [gaps_eq]
  exact gapsFrom_covers hn (Nat.zero_le _) htop hfree

/-- The runs that `starts` offers: those that are free and leave another run of `m` granules free beside them. -/
theorem mem_starts {a n m : Nat} (hn : 0 < n) : a ∈ starts (gaps owners core) n m ↔
    FreeRun owners core a n ∧ (m = 0 ∨ ∃ b, FreeRun owners core b m ∧ Apart a n b m) := by
  simp only [starts, List.mem_flatMap]
  constructor
  · rintro ⟨g, hg, hin⟩
    split at hin
    case isTrue => simp at hin
    case isFalse hfits =>
    obtain ⟨htop, hfree⟩ := freeRun_of_mem_gaps hp hg
    simp only [List.mem_map, List.mem_filter, List.mem_range, Bool.or_eq_true, decide_eq_true_eq, List.any_eq_true,
      Bool.and_eq_true] at hin
    obtain ⟨i, ⟨hi, hroom⟩, rfl⟩ := hin
    refine ⟨freeRun_part ⟨htop, hfree⟩ (by omega) (by omega), ?_⟩
    rcases hroom with ((hzero | hbelow) | habove) | ⟨h, hh, hne, hlong⟩
    · exact .inl hzero
    · exact .inr ⟨g.1, freeRun_part ⟨htop, hfree⟩ (by omega) (by omega), .inr (by omega)⟩
    · exact .inr ⟨g.1 + i + n, freeRun_part ⟨htop, hfree⟩ (by omega) (by omega), .inl (by omega)⟩
    · have hapart := gaps_apart hp hg hh hne
      refine .inr ⟨h.1, freeRun_part (freeRun_of_mem_gaps hp hh) (Nat.le_refl _) (by omega), ?_⟩
      unfold Apart at hapart ⊢
      omega
  · rintro ⟨hrun, hroom⟩
    obtain ⟨g, hg, hlow, hhigh⟩ := exists_gap hn hrun
    refine ⟨g, hg, ?_⟩
    rw [if_neg (by omega)]
    simp only [List.mem_map, List.mem_filter, List.mem_range, Bool.or_eq_true, decide_eq_true_eq, List.any_eq_true,
      Bool.and_eq_true]
    refine ⟨a - g.1, ⟨by omega, ?_⟩, by omega⟩
    rcases hroom with hzero | ⟨b, hother, hapart⟩
    · exact .inl (.inl (.inl hzero))
    · by_cases hm : m = 0
      · exact .inl (.inl (.inl hm))
      obtain ⟨h, hh, hlow', hhigh'⟩ := exists_gap (Nat.pos_of_ne_zero hm) hother
      by_cases hsame : h = g
      · subst hsame
        unfold Apart at hapart
        omega
      · exact .inr ⟨h, hh, hsame, by omega⟩

end Gaps

/-! ### Owner tags of a run -/

theorem setAssoc_fresh {α β : Type} [DecidableEq α] {l : List (α × β)} {k : α} (h : ∀ x ∈ l, x.1 ≠ k) (v : β) :
    setAssoc l k v = l ++ [(k, v)] := by
  rw [setAssoc, if_neg (by simpa using fun b hb => h (k, b) hb rfl)]

theorem tagGranules_fresh {l : List (Nat × Owner)} {g n : Nat} (h : ∀ j, j < n → ∀ x ∈ l, x.1 ≠ g + j) (o : Owner) :
    (List.range n).foldl (fun l i => setAssoc l (g + i) o) l = l ++ (List.range n).map fun j => (g + j, o) := by
  induction n with
  | zero => simp
  | succ n ih =>
    rw [List.range_succ, List.foldl_append, ih fun j hj => h j (by omega)]
    simp only [List.foldl_cons, List.foldl_nil, List.map_append, List.map_cons, List.map_nil]
    rw [setAssoc_fresh, List.append_assoc]
    intro x hx
    rcases List.mem_append.mp hx with hx | hx
    · exact h n (by omega) x hx
    · obtain ⟨j, hj, rfl⟩ := List.mem_map.mp hx
      have := List.mem_range.mp hj
      simp only; omega

/-- The granules of a run on slice `m`. -/
def InRun (m a n g : Nat) : Prop := ∃ j, j < n ∧ g = m * 2048 + a + j

/-- Tagging a free run adds its granules and changes no other tag. -/
theorem mem_tagGranules {owners : List (Nat × Owner)} {m a n : Nat} (h : FreeRun owners m a n) (o : Owner) (g : Nat)
    (w : Owner) : (g, w) ∈ tagGranules owners (m * 2 ^ 23 + a * 4096) n o ↔
      (g, w) ∈ owners ∨ (w = o ∧ InRun m a n g) := by
  obtain ⟨htop, hfree⟩ := h
  have hstart : granuleOf (m * 2 ^ 23 + a * 4096) = m * 2048 + a := by rw [granuleOf]; omega
  rw [tagGranules, hstart, tagGranules_fresh]
  · simp only [List.mem_append, List.mem_map, List.mem_range, Prod.mk.injEq]
    refine or_congr_right ⟨?_, ?_⟩
    · rintro ⟨j, hj, rfl, rfl⟩
      exact ⟨rfl, j, hj, rfl⟩
    · rintro ⟨rfl, j, hj, rfl⟩
      exact ⟨j, hj, rfl, rfl⟩
  · intro j hj x hx heq
    have := hfree x hx (by omega)
    omega

theorem populated_tagGranules {owners : List (Nat × Owner)} {m a n : Nat} (hp : Populated owners)
    (h : FreeRun owners m a n) (o : Owner) : Populated (tagGranules owners (m * 2 ^ 23 + a * 4096) n o) := by
  rintro ⟨g, w⟩ hx
  rcases (mem_tagGranules h o g w).mp hx with hx | ⟨_, j, hj, rfl⟩
  · exact hp _ hx
  · have := h.1
    simp only; omega

/-- After a run has been taken, what is free is what was free apart from it. -/
theorem freeRun_tagGranules {owners : List (Nat × Owner)} {m a n b k : Nat} (h : FreeRun owners m a n) (o : Owner)
    (hn : 0 < n) (hk : 0 < k) :
    FreeRun (tagGranules owners (m * 2 ^ 23 + a * 4096) n o) m b k ↔ FreeRun owners m b k ∧ Apart a n b k := by
  have htop := h.1
  constructor
  · rintro ⟨hbk, hfree⟩
    refine ⟨⟨hbk, fun x hx hm => hfree x ((mem_tagGranules h o x.1 x.2).mpr (.inl hx)) hm⟩, ?_⟩
    by_contra hmeet
    unfold Apart at hmeet
    have hin := hfree (m * 2048 + a + (max a b - a), o)
      ((mem_tagGranules h o _ _).mpr (.inr ⟨rfl, max a b - a, by omega, rfl⟩))
    simp only at hin
    omega
  · rintro ⟨⟨hbk, hfree⟩, hapart⟩
    refine ⟨hbk, ?_⟩
    rintro ⟨g, w⟩ hx hm
    rcases (mem_tagGranules h o g w).mp hx with hx | ⟨_, j, hj, rfl⟩
    · exact hfree _ hx hm
    · unfold Apart at hapart
      simp only; omega

/-! ### Taking runs (R132, R261) -/

theorem pick_mem {c : Chooser} {made a : Nat} {l : List Nat} (h : c.pick made l = some a) : a ∈ l := by
  cases c with
  | first => exact List.mem_of_mem_head? (Option.mem_def.mpr h)
  | given r =>
    simp only [Chooser.pick, Option.bind_eq_some_iff, Option.ite_none_right_eq_some, Option.some.injEq] at h
    obtain ⟨x, _, hx, rfl⟩ := h
    exact hx
  | free k => exact List.mem_of_getElem? h

theorem pick_first_isSome {made a : Nat} {l : List Nat} (h : a ∈ l) : ∃ b, Chooser.first.pick made l = some b := by
  cases l with
  | nil => simp at h
  | cons x l => exact ⟨x, rfl⟩

/-- Whether a slice holds the spill reserve of a plan's task. -/
def Spilled (p : Plan) (m : Nat) : Prop := ∃ r ∈ p.reserves, r.slice = m

theorem hasSpill_iff {p : Plan} {m : Nat} : hasSpill p m = true ↔ Spilled p m := by
  simp [hasSpill, Spilled]

theorem spillNeed_of_spilled {d : TaskDecl} {p : Plan} {m : Nat} (h : Spilled p m) : spillNeed d p m = 0 := by
  rw [spillNeed, if_pos (hasSpill_iff.mpr h)]

theorem spillNeed_of_not_spilled {d : TaskDecl} {p : Plan} {m : Nat} (h : ¬ Spilled p m) :
    spillNeed d p m = spillGranules d := by
  rw [spillNeed, if_neg (by rwa [hasSpill_iff])]

/-- The first run and, where slice `m` needs it, the spill reserve beside it are free. -/
def Runs (d : TaskDecl) (p : Plan) (m n a b : Nat) : Prop :=
  FreeRun p.owners m a n ∧ (Spilled p m ∨ FreeRun p.owners m b (spillGranules d) ∧ Apart a n b (spillGranules d))

/-- What a plan has taken on slice `m`: a run for `o`, and the spill reserve where it was missing. -/
def Took (t : Task) (p p' : Plan) (m n a : Nat) (o : Owner) : Prop :=
  ∃ b, Runs t.decl p m n a b ∧
    (∀ g w, (g, w) ∈ p'.owners ↔ (g, w) ∈ p.owners ∨ (w = o ∧ InRun m a n g) ∨
      (¬ Spilled p m ∧ w = .spill t.uid ∧ InRun m b (spillGranules t.decl) g)) ∧
    (Spilled p m → p'.reserves = p.reserves) ∧
    (¬ Spilled p m → p'.reserves = p.reserves ++ [⟨m, b * 4096, spillGranules t.decl⟩])

theorem mem_starts_run {owners : List (Nat × Owner)} {m a n : Nat} (hp : Populated owners) (hn : 0 < n) :
    a ∈ starts (gaps owners m) n 0 ↔ FreeRun owners m a n := by
  simp [mem_starts hp hn]

/-- Taking a run changes no place and no address. -/
theorem takeRun_frame {c : Chooser} {p : Plan} {m n k : Nat} {ok : Nat → Bool} {o : Owner} {r : Nat × Plan}
    (h : takeRun c p m n k ok o = some r) : r.2.places = p.places ∧ r.2.bases = p.bases := by
  obtain ⟨a, _, rfl⟩ := Option.map_eq_some_iff.mp h
  exact ⟨rfl, rfl⟩

section Taking

variable {t : Task} {p : Plan} {m n : Nat} (hp : Populated p.owners) (hs : 0 < spillGranules t.decl) (hn : 0 < n)
include hp hs hn

theorem mem_starts_runs {a : Nat} :
    a ∈ starts (gaps p.owners m) n (spillNeed t.decl p m) ↔ ∃ b, Runs t.decl p m n a b := by
  rw [mem_starts hp hn]
  by_cases h : Spilled p m
  · simp [spillNeed_of_spilled h, Runs, h]
  · simp only [spillNeed_of_not_spilled h, Runs, h, false_or, Nat.ne_of_gt hs, exists_and_left]

theorem starts_isEmpty_iff :
    (starts (gaps p.owners m) n (spillNeed t.decl p m)).isEmpty = false ↔ ∃ a b, Runs t.decl p m n a b := by
  rw [List.isEmpty_eq_false_iff_exists_mem]
  exact exists_congr fun a => mem_starts_runs hp hs hn

/-- A plan that takes a run and then the spill reserve has taken both. -/
theorem took_of_takeRun {c : Chooser} {ok : Nat → Bool} {o : Owner} {a : Nat} {p1 q1 p' : Plan}
    (hrun : takeRun c p m n (spillNeed t.decl p m) ok o = some (a, p1)) (hspill : takeSpill c t m q1 = some p')
    (howners : q1.owners = p1.owners) (hreserves : q1.reserves = p1.reserves) :
    Took t p p' m n a o ∧ p'.places = q1.places ∧ p'.bases = q1.bases := by
  simp only [takeRun, Option.map_eq_some_iff, Prod.mk.injEq] at hrun
  obtain ⟨_, hpick, rfl, rfl⟩ := hrun
  obtain ⟨b, hrun, hbeside⟩ := (mem_starts_runs hp hs hn).mp (List.mem_filter.mp (pick_mem hpick)).1
  have hmem := mem_tagGranules hrun o
  have hsame : Spilled q1 m ↔ Spilled p m := by simp only [Spilled, hreserves]
  by_cases h : Spilled p m
  · rw [takeSpill, if_pos (hasSpill_iff.mpr (hsame.mpr h)), Option.some.injEq] at hspill
    subst hspill
    refine ⟨⟨b, ⟨hrun, hbeside⟩, fun g w => ?_, fun _ => hreserves, fun hn => absurd h hn⟩, rfl, rfl⟩
    rw [howners, hmem]
    simp [h]
  · rw [takeSpill, if_neg (by rwa [hasSpill_iff, hsame])] at hspill
    simp only [takeRun, Option.map_map, Option.map_eq_some_iff, Function.comp_apply] at hspill
    obtain ⟨b', hpick', rfl⟩ := hspill
    have hin := (List.mem_filter.mp (pick_mem hpick')).1
    rw [howners] at hin
    have hfree' := (mem_starts_run (populated_tagGranules hp hrun o) hs).mp hin
    obtain ⟨hfree, hapart⟩ := (freeRun_tagGranules hrun o hn hs).mp hfree'
    refine ⟨⟨b', ⟨hrun, .inr ⟨hfree, hapart⟩⟩, fun g w => ?_, fun hy => absurd hy h, fun _ => ?_⟩, rfl, rfl⟩
    · simp only [howners]
      rw [mem_tagGranules hfree', hmem]
      simp only [h, not_false_eq_true, true_and, or_assoc]
    · simp only [hreserves]

/-- Where both runs are free the first choice finds them. -/
theorem takeRun_takeSpill_first {ok : Nat → Bool} {o : Owner} (hok : ∀ a, ok a = true)
    (hroom : ∃ a b, Runs t.decl p m n a b) (f : Nat × Plan → Plan)
    (hf : ∀ x, (f x).owners = x.2.owners ∧ (f x).reserves = x.2.reserves) :
    ((takeRun .first p m n (spillNeed t.decl p m) ok o).bind fun r => takeSpill .first t m (f r)).isSome = true := by
  obtain ⟨a, b, hruns⟩ := hroom
  obtain ⟨a', hpick⟩ := pick_first_isSome (made := p.made.length)
    (List.mem_filter.mpr ⟨(mem_starts_runs hp hs hn).mpr ⟨b, hruns⟩, hok a⟩)
  obtain ⟨b', hrun, hbeside⟩ := (mem_starts_runs hp hs hn).mp (List.mem_filter.mp (pick_mem hpick)).1
  rw [takeRun, hpick]
  simp only [Option.map_some, Option.bind_some]
  generalize hx : (a', ({ p with owners := _, made := _ } : Plan)) = x
  obtain ⟨howners, hreserves⟩ := hf x
  have hsame : Spilled (f x) m ↔ Spilled p m := by rw [Spilled, hreserves, ← hx]; rfl
  by_cases h : Spilled p m
  · rw [takeSpill, if_pos (hasSpill_iff.mpr (hsame.mpr h))]
    rfl
  · rw [takeSpill, if_neg (by rwa [hasSpill_iff, hsame])]
    obtain ⟨hfree, hapart⟩ := hbeside.resolve_left h
    have hin : b' ∈ (starts (gaps (f x).owners m) (spillGranules t.decl) 0).filter fun _ => true := by
      rw [howners, ← hx]
      refine List.mem_filter.mpr ⟨(mem_starts_run ?_ hs).mpr ?_, rfl⟩
      · exact populated_tagGranules hp hrun o
      · exact (freeRun_tagGranules hrun o hn hs).mpr ⟨hfree, hapart⟩
    obtain ⟨b'', hpick'⟩ := pick_first_isSome (made := (f x).made.length) hin
    rw [takeRun, hpick']
    rfl

end Taking

/-! ### The ranking of cores (R126, R261) -/

/-- The links between the tract of core `m` and the admitting tract. -/
def hops (tract m : Nat) : Nat :=
  (m / 64 % 4 - tract % 4 + (tract % 4 - m / 64 % 4)) + (m / 64 / 4 - tract / 4 + (tract / 4 - m / 64 / 4))

theorem links_eq_hops (tract m : Nat) : links (tractOf m) tract = hops tract m := by
  simp only [links, hops, tractOf, Nat.add_assoc]

/-- R261: core `m` goes before core `x`: by the greater key, then by the fewer links, then by the lower number. -/
def Before (tract : Nat) (key : Nat → Nat) (m x : Nat) : Prop :=
  key x < key m ∨ (key x = key m ∧ (hops tract m < hops tract x ∨ (hops tract m = hops tract x ∧ m < x)))

theorem before_trans {tract : Nat} {key : Nat → Nat} (a b c : Nat) (hab : Before tract key a b)
    (hbc : Before tract key b c) : Before tract key a c := by
  unfold Before at *
  omega

theorem rankCores_pairwise (tract : Nat) (key : Nat → Nat) (cores : List Nat) (h : cores.Pairwise (· < ·)) :
    (rankCores tract (cores.map fun c => (c, key c))).Pairwise (Before tract key) := by
  rw [rankCores, List.pairwise_map]
  have hkeys : ∀ x ∈ cores.map fun c => (c, key c), x.2 = key x.1 := by simp
  have hsorted := sortBy_pairwise
    (le := fun a b : Nat × Nat => decide (b.2 < a.2) ||
      (decide (a.2 = b.2) && decide (links (tractOf a.1) tract ≤ links (tractOf b.1) tract)))
    (R := fun a b => Before tract key a.1 b.1) (fun a b c => before_trans a.1 b.1 c.1)
    (l := cores.map fun c => (c, key c)) ?_
  · exact hsorted
  · rw [List.pairwise_map]
    refine h.imp fun {a b} hab => ?_
    simp only [Decides, links_eq_hops, Before, Bool.or_eq_true, Bool.and_eq_true, decide_eq_true_eq, Bool.or_eq_false_iff,
      Bool.and_eq_false_iff, decide_eq_false_iff_not]
    omega

theorem mem_rankCores {tract : Nat} {key : Nat → Nat} {cores : List Nat} {m : Nat} :
    m ∈ rankCores tract (cores.map fun c => (c, key c)) ↔ m ∈ cores := by
  rw [rankCores, ((sortBy_perm _ _).map _).mem_iff]
  simp

theorem mem_coresOf {q : Partition} {m : Nat} : m ∈ coresOf q ↔ m < 512 ∧ q.cores.getLsbD m = true := by
  simp [coresOf]

/-- The first core of the ranking that meets a test goes before every other that meets it. -/
theorem find?_rankCores {tract : Nat} {key : Nat → Nat} {q : Partition} {ok : Nat → Bool} {m : Nat}
    (h : (rankCores tract ((coresOf q).map fun c => (c, key c))).find? ok = some m) :
    (m < 512 ∧ q.cores.getLsbD m = true) ∧ ok m = true ∧
      ∀ x, x < 512 ∧ q.cores.getLsbD x = true → ok x = true → x ≠ m → Before tract key m x := by
  refine ⟨mem_coresOf.mp (mem_rankCores.mp (List.mem_of_find?_eq_some h)), List.find?_some h, fun x hx hok hne => ?_⟩
  obtain ⟨_, before, after, hlist, hnone⟩ := List.find?_eq_some_iff_append.mp h
  have hin : x ∈ before ++ m :: after := hlist ▸ mem_rankCores.mpr (mem_coresOf.mpr hx)
  have hpair := rankCores_pairwise tract key (coresOf q) (List.pairwise_lt_range.filter _)
  rw [hlist] at hpair
  obtain ⟨_, hlater, _⟩ := List.pairwise_append.mp hpair
  rcases List.mem_append.mp hin with hbefore | hafter
  · exact absurd hok (by simpa using hnone x hbefore)
  · exact (List.pairwise_cons.mp hlater).1 x ((List.mem_cons.mp hafter).resolve_left hne)


/-! ### Where a party or a region goes (R88, R108, R137, R260, R261, R263) -/

section Places

variable (s : State) (q : Partition) (t : Task) (p : Plan)

/-- R137, R263: slice `m` takes new placements and has room for a run of `n` granules, with the spill reserve it needs. -/
def Room (m n : Nat) : Prop :=
  (sliceReg s m).fb2 = none ∧ (∃ a b, Runs t.decl p m n a b) ∧
  (Spilled p m → usedGran p.owners m + n + kept0 t q.rgran ≤ q.gran) ∧
  (¬ Spilled p m → usedGran p.owners m + n + spillGranules t.decl + kept0 t q.rgran ≤ q.gran)

/-- The parties that a plan has put on a core. -/
def partiesHere (m : Nat) : Nat := (p.places.filter fun x => decide (x.core = m)).length

/-- R108: the handler reserve that one more party needs on a core. -/
def reserveHere (m : Nat) : Nat := if partiesHere p m = 0 then t.decl.hres else 0

/-- R260, R261, R263: what a core must have to hold a party. -/
def PartyRoom (m : Nat) : Prop :=
  q.cores.getLsbD m = true ∧ Room s q t p m (granules t.decl.scratch) ∧
  t.decl.partySize + reserveHere t p m + kept0 t q.rthr ≤ (placeNew s q t).freeThreads p m ∧
  (partiesHere p m = 0 → handlersUsed s q.id m + t.decl.hres ≤ q.hnd ∧
    (s.tasks.map (taskHandlers m)).sum + t.decl.hres ≤ 1024)

/-- R88, R261: the cores that a region may go to. -/
def RegionMay (r : Region) (m : Nat) : Prop :=
  match r.party with
  | some j => (p.places.find? fun x => decide (x.index = j)).map (·.core) = some m
  | none => m < 512 ∧ q.cores.getLsbD m = true

variable {s q t p} (hp : Populated p.owners) (hs : 0 < spillGranules t.decl)

theorem placeNew_s : (placeNew s q t).s = s := rfl
theorem placeNew_q : (placeNew s q t).q = q := rfl
theorem placeNew_t : (placeNew s q t).t = t := rfl

theorem coreSound_iff {m : Nat} : (placeNew s q t).coreSound m = true ↔ (sliceReg s m).fb2 = none := by
  rw [PlaceFor.coreSound, Option.isNone_iff_eq_none, placeNew_s]

/-- The quota test of the model, with the spill reserve that the slice needs. -/
theorem granFits_iff {m n : Nat} : (placeNew s q t).granFits p m (n + spillNeed t.decl p m) = true ↔
    (Spilled p m → usedGran p.owners m + n + kept0 t q.rgran ≤ q.gran) ∧
    (¬ Spilled p m → usedGran p.owners m + n + spillGranules t.decl + kept0 t q.rgran ≤ q.gran) := by
  rw [PlaceFor.granFits, decide_eq_true_eq, placeNew_q, placeNew_t]
  by_cases h : Spilled p m
  · simp [h, spillNeed_of_spilled h]
  · simp [h, spillNeed_of_not_spilled h, Nat.add_assoc]

theorem handlersFit_iff {m : Nat} : (placeNew s q t).handlersFit m = true ↔
    handlersUsed s q.id m + t.decl.hres ≤ q.hnd ∧ (s.tasks.map (taskHandlers m)).sum + t.decl.hres ≤ 1024 := by
  rw [PlaceFor.handlersFit, Bool.and_eq_true, decide_eq_true_eq, decide_eq_true_eq, coreHandlers]
  rfl

theorem any_core_eq (m : Nat) : (p.places.any fun x => decide (x.core = m)) = !decide (partiesHere p m = 0) := by
  rw [Bool.eq_iff_iff, List.any_eq_true, Bool.not_eq_true', decide_eq_false_iff_not, partiesHere, List.length_eq_zero_iff,
    List.filter_eq_nil_iff]
  push Not
  rfl

include hp hs

theorem regionFits_iff {m n : Nat} (hn : 0 < n) : (placeNew s q t).regionFits p n m = true ↔ Room s q t p m n := by
  simp only [PlaceFor.regionFits, placeNew_t, Bool.and_eq_true, Bool.not_eq_true', coreSound_iff, granFits_iff,
    starts_isEmpty_iff hp hs hn, Room]
  tauto

theorem partyFits_iff {i m : Nat} (hn : 0 < t.decl.scratch) (hcore : q.cores.getLsbD m = true) :
    (placeNew s q t).partyFits p i m = true ↔ PartyRoom s q t p m := by
  have hfilter : ∀ l : List Nat, l.filter ((placeNew s q t).runOk i m) = l :=
    fun l => List.filter_eq_self.mpr fun _ _ => rfl
  have hgranules : 0 < granules t.decl.scratch := by rw [granules]; omega
  have hcoreOk : (placeNew s q t).coreOk p i m = true := rfl
  simp only [PlaceFor.partyFits, placeNew_t, placeNew_q, hfilter, any_core_eq, hcoreOk, Bool.and_eq_true,
    Bool.or_eq_true, Bool.not_eq_true', decide_eq_true_eq, decide_eq_false_iff_not, coreSound_iff, granFits_iff,
    handlersFit_iff, starts_isEmpty_iff hp hs hgranules, PartyRoom, reserveHere, Room,
    Bool.not_not, hcore]
  tauto

/-- A party that is placed: on the first core of the ranking that can hold it. -/
theorem placeParty_some {c : Chooser} {i : Nat} {p' : Plan} (hn : 0 < t.decl.scratch)
    (h : (placeNew s q t).placeParty c p i = some p') : ∃ m a, m < 512 ∧ PartyRoom s q t p m ∧
      (∀ x, x < 512 → PartyRoom s q t p x → x ≠ m → Before t.tract ((placeNew s q t).freeThreads p) m x) ∧
      Took t p p' m (granules t.decl.scratch) a (.party t.uid i) ∧
      p'.places = p.places ++ [⟨i, m, a * 4096⟩] ∧ p'.bases = p.bases := by
  obtain ⟨m, hfind, hon⟩ := Option.bind_eq_some_iff.mp h
  obtain ⟨⟨hm, hcore⟩, hfits, hfirst⟩ := find?_rankCores hfind
  obtain ⟨⟨a, p1⟩, hrun, hspill⟩ := Option.bind_eq_some_iff.mp hon
  obtain ⟨htook, hplaces, hbases⟩ := took_of_takeRun hp hs (show 0 < granules t.decl.scratch by rw [granules]; omega)
    hrun hspill rfl rfl
  obtain ⟨hplaces1, hbases1⟩ := takeRun_frame hrun
  rw [hplaces1] at hplaces
  refine ⟨m, a, hm, (partyFits_iff hp hs hn hcore).mp hfits, fun x hx hroom hne => ?_, htook, hplaces, hbases.trans hbases1⟩
  exact hfirst x ⟨hx, hroom.1⟩ ((partyFits_iff hp hs hn hroom.1).mpr hroom) hne

/-- A party is not placed only where no core can hold it. -/
theorem placeParty_first_none {i : Nat} (hn : 0 < t.decl.scratch) :
    (placeNew s q t).placeParty .first p i = none ↔ ∀ m, m < 512 → ¬ PartyRoom s q t p m := by
  have hn' : 0 < granules t.decl.scratch := by rw [granules]; omega
  have hon : ∀ m, PartyRoom s q t p m → ((placeNew s q t).partyOn .first p i m).isSome = true := fun m hm =>
    takeRun_takeSpill_first hp hs hn' (fun _ => rfl) hm.2.1.2.1 _ fun _ => ⟨rfl, rfl⟩
  rw [PlaceFor.placeParty, Option.bind_eq_none_iff]
  constructor
  · intro h m hm hroom
    cases hfind : ((rankCores (placeNew s q t).adm ((coresOf (placeNew s q t).q).map
        fun c => (c, (placeNew s q t).freeThreads p c))).find? ((placeNew s q t).partyFits p i)) with
    | none =>
      have hin := (mem_rankCores (tract := t.tract) (key := (placeNew s q t).freeThreads p)).mpr
        (mem_coresOf.mpr ⟨hm, hroom.1⟩)
      exact List.find?_eq_none.mp hfind m hin ((partyFits_iff hp hs hn hroom.1).mpr hroom)
    | some x =>
      obtain ⟨⟨_, hcore⟩, hfits, _⟩ := find?_rankCores hfind
      have hsome := hon x ((partyFits_iff hp hs hn hcore).mp hfits)
      rw [h x hfind] at hsome
      simp at hsome
  · intro h m hfind
    obtain ⟨⟨hm, hcore⟩, hfits, _⟩ := find?_rankCores hfind
    exact absurd ((partyFits_iff hp hs hn hcore).mp hfits) (h m hm)

omit hp hs in
theorem mem_regionCores {r : Region} {m : Nat} : m ∈ (placeNew s q t).regionCores p r ↔ RegionMay q p r m := by
  cases hparty : r.party with
  | some j => simp only [PlaceFor.regionCores, RegionMay, hparty, Option.mem_toList]
  | none =>
    simp only [PlaceFor.regionCores, RegionMay, hparty]
    exact mem_rankCores.trans mem_coresOf

omit hp hs in
/-- A region without an address that has one on the slices goes to the first of its cores that can hold it. -/
theorem placeRegion_eq {c : Chooser} {k : Nat} {r : Region} (hkind : r.kind = .immutable ∨ r.kind = .shared)
    (hbase : p.bases[k]? = some none) : (placeNew s q t).placeRegion c p k r =
      (((placeNew s q t).regionCores p r).find? ((placeNew s q t).regionFits p (granules r.size))).bind
        ((placeNew s q t).regionOn c p k r) := by
  have hnone : p.bases.getD k none = none := by rw [List.getD_eq_getElem?_getD, hbase]; rfl
  rw [PlaceFor.placeRegion, hnone]
  exact if_neg (by rcases hkind with h | h <;> simp [h])

/-- A region that is placed: on the core of its party, or on the first core of the ranking that can hold it. -/
theorem placeRegion_some {c : Chooser} {k : Nat} {r : Region} {p' : Plan}
    (hkind : r.kind = .immutable ∨ r.kind = .shared) (hsize : 0 < r.size) (hbase : p.bases[k]? = some none)
    (h : (placeNew s q t).placeRegion c p k r = some p') : ∃ m a, RegionMay q p r m ∧ Room s q t p m (granules r.size) ∧
      (r.party = none → ∀ x, RegionMay q p r x → Room s q t p x (granules r.size) → x ≠ m →
        Before t.tract (fun y => q.gran - usedGran p.owners y) m x) ∧
      Took t p p' m (granules r.size) a (.region t.uid k) ∧ p'.places = p.places ∧
      p'.bases = p.bases.set k (some (m * 2 ^ 23 + a * 4096)) := by
  have hn : 0 < granules r.size := by rw [granules]; omega
  rw [placeRegion_eq hkind hbase] at h
  obtain ⟨m, hfind, hon⟩ := Option.bind_eq_some_iff.mp h
  obtain ⟨⟨a, p1⟩, hrun, hspill⟩ := Option.bind_eq_some_iff.mp hon
  obtain ⟨htook, hplaces, hbases⟩ := took_of_takeRun hp hs hn hrun hspill rfl rfl
  obtain ⟨hplaces1, hbases1⟩ := takeRun_frame hrun
  rw [hbases1] at hbases
  refine ⟨m, a, mem_regionCores.mp (List.mem_of_find?_eq_some hfind), (regionFits_iff hp hs hn).mp (List.find?_some hfind),
    fun hparty x hmay hroom hne => ?_, htook, hplaces.trans hplaces1, hbases⟩
  rw [PlaceFor.regionCores, hparty] at hfind
  rw [RegionMay, hparty] at hmay
  exact (find?_rankCores hfind).2.2 x hmay ((regionFits_iff hp hs hn).mpr hroom) hne

/-- A region is not placed only where none of its cores can hold it. -/
theorem placeRegion_first_none {k : Nat} {r : Region} (hkind : r.kind = .immutable ∨ r.kind = .shared)
    (hsize : 0 < r.size) (hbase : p.bases[k]? = some none) : (placeNew s q t).placeRegion .first p k r = none ↔
      ∀ m, RegionMay q p r m → ¬ Room s q t p m (granules r.size) := by
  have hn : 0 < granules r.size := by rw [granules]; omega
  have hon : ∀ m, Room s q t p m (granules r.size) → ((placeNew s q t).regionOn .first p k r m).isSome = true :=
    fun m hm => takeRun_takeSpill_first hp hs hn (fun _ => rfl) hm.2.1 _ fun _ => ⟨rfl, rfl⟩
  rw [placeRegion_eq hkind hbase, Option.bind_eq_none_iff]
  constructor
  · intro h m hmay hroom
    cases hfind : ((placeNew s q t).regionCores p r).find? ((placeNew s q t).regionFits p (granules r.size)) with
    | none => exact List.find?_eq_none.mp hfind m (mem_regionCores.mpr hmay) ((regionFits_iff hp hs hn).mpr hroom)
    | some x =>
      have hsome := hon x ((regionFits_iff hp hs hn).mp (List.find?_some hfind))
      rw [h x hfind] at hsome
      simp at hsome
  · intro h m hfind
    exact absurd ((regionFits_iff hp hs hn).mp (List.find?_some hfind))
      (h m (mem_regionCores.mp (List.mem_of_find?_eq_some hfind)))

end Places

/-- A spill reserve has granules: 64 KiB where the hamper gives no size, and what it gives otherwise (R132). -/
theorem spillGranules_pos {d : TaskDecl} (h : d.spillKiB = 0 ∨ 64 ≤ d.spillKiB) : 0 < spillGranules d := by
  unfold spillGranules
  split <;> omega

/-- R88, R108, R126, R132, R137, R260, R261, R263: the placement part of the scheduling statement. -/
theorem placement_follows : ∀ (s : State) (q : Partition) (t : Task) (c : Chooser) (p : Plan) (i : Nat),
    Populated p.owners → t.decl.spillKiB = 0 ∨ 64 ≤ t.decl.spillKiB →
    (0 < t.decl.partySize → 0 < t.decl.scratch →
      (∀ p', (placeNew s q t).placeParty c p i = some p' → ∃ m a, m < 512 ∧ PartyRoom s q t p m ∧
        (∀ x, x < 512 → PartyRoom s q t p x → x ≠ m → Before t.tract ((placeNew s q t).freeThreads p) m x) ∧
        Took t p p' m (granules t.decl.scratch) a (.party t.uid i) ∧
        p'.places = p.places ++ [⟨i, m, a * 4096⟩] ∧ p'.bases = p.bases) ∧
      ((placeNew s q t).placeParty .first p i = none ↔ ∀ m, m < 512 → ¬ PartyRoom s q t p m)) ∧
    ∀ (k : Nat) (r : Region), r.kind = .immutable ∨ r.kind = .shared → 0 < r.size → p.bases[k]? = some none →
      (∀ p', (placeNew s q t).placeRegion c p k r = some p' →
        ∃ m a, RegionMay q p r m ∧ Room s q t p m (granules r.size) ∧
          (r.party = none → ∀ x, RegionMay q p r x → Room s q t p x (granules r.size) → x ≠ m →
            Before t.tract (fun y => q.gran - usedGran p.owners y) m x) ∧
          Took t p p' m (granules r.size) a (.region t.uid k) ∧ p'.places = p.places ∧
          p'.bases = p.bases.set k (some (m * 2 ^ 23 + a * 4096))) ∧
      ((placeNew s q t).placeRegion .first p k r = none ↔
        ∀ m, RegionMay q p r m → ¬ Room s q t p m (granules r.size)) := by
  intro s q t c p i hp hspill
  have hs := spillGranules_pos hspill
  exact ⟨fun _ hscratch => ⟨fun _ => placeParty_some hp hs hscratch, placeParty_first_none hp hs hscratch⟩,
    fun k r hkind hsize hbase =>
      ⟨fun _ => placeRegion_some hp hs hkind hsize hbase, placeRegion_first_none hp hs hkind hsize hbase⟩⟩

end Sys2Proof.Placing
end

section
/-!
PROOF. Task records and groups: what finding one gives after the updates that change one, and how a stop changes its
task's record.
-/

namespace Sys2Proof.Records

open Sys2Proof Sys2Proof.Machine

/-! ### Task records -/

/-- Finding a record by its number after one record has changed. -/
theorem findTask_modTask {f : Task → Task} (hf : ∀ t, (f t).uid = t.uid) (s : State) (uid id : Nat) :
    findTask (modTask s uid f) id = if id = uid then (findTask s id).map f else findTask s id := by
  have hkey : ((fun t : Task => decide (t.uid = id)) ∘ fun t => if decide (t.uid = uid) = true then f t else t) =
      fun t => decide (t.uid = id) := by
    funext t
    by_cases h : t.uid = uid <;> simp [h, hf]
  simp only [findTask, modTask, updWhere, List.find?_map, hkey]
  cases h : s.tasks.find? fun t => decide (t.uid = id) with
  | none => simp
  | some t =>
    obtain rfl : t.uid = id := by simpa using List.find?_some h
    by_cases hid : t.uid = uid <;> simp [hid]

theorem findTask_modTask_same {f : Task → Task} (hf : ∀ t, (f t).uid = t.uid) {s : State} {uid : Nat} {t : Task}
    (h : findTask s uid = some t) : findTask (modTask s uid f) uid = some (f t) := by
  rw [findTask_modTask hf, if_pos rfl, h, Option.map_some]

theorem findTask_modTask_other {f : Task → Task} (hf : ∀ t, (f t).uid = t.uid) (s : State) {uid id : Nat} (h : id ≠ uid) :
    findTask (modTask s uid f) id = findTask s id := by
  rw [findTask_modTask hf, if_neg h]

theorem uid_of_findTask {s : State} {uid : Nat} {t : Task} (h : findTask s uid = some t) : t.uid = uid := by
  simpa using List.find?_some h

theorem findTask_putTask_same {s : State} {t u : Task} (h : findTask s t.uid = some u) :
    findTask (putTask s t) t.uid = some t :=
  find_updWhere _ _ _ _ (by simp) (fun _ => rfl) ⟨u, h⟩

theorem findTask_putTask_other (s : State) {t : Task} {id : Nat} (h : id ≠ t.uid) :
    findTask (putTask s t) id = findTask s id :=
  find_updWhere_other _ _ _ _ (by simpa using fun e => h e.symm) fun x hx => by
    obtain hx : x.uid = t.uid := by simpa using hx
    simpa [hx] using fun e => h e.symm

/-- A record of a task that is told to stop (R277, R278): the first stop stands. -/
def stopped (f : Frec) (t : Task) : Task := if t.stop.isSome then t else { t with frec := f, stop := some f.kind.toNat }

/-- A stop changes the record of its task alone. -/
theorem stopWith_eq (s : State) (uid : Nat) (f : Frec) : stopWith s uid f = modTask s uid (stopped f) := by
  simp only [stopWith, markStop, recordFrec, modTask, updWhere, List.map_map]
  congr 1
  refine List.map_congr_left fun t _ => ?_
  simp only [Function.comp_apply, stopped]
  by_cases hid : t.uid = uid <;> cases hstop : t.stop <;> simp [hid, hstop]

theorem stopped_uid (f : Frec) (t : Task) : (stopped f t).uid = t.uid := by
  unfold stopped; split <;> rfl

/-- A stop writes the fault record and the stop of its task, and nothing else of it. -/
theorem stopped_frame (f : Frec) (t : Task) :
    stopped f t = { t with frec := (stopped f t).frec, stop := (stopped f t).stop } := by
  unfold stopped; split <;> rfl

theorem findTask_stopWith_same {s : State} {uid : Nat} {t : Task} (h : findTask s uid = some t) (f : Frec) :
    findTask (stopWith s uid f) uid = some (stopped f t) := by
  rw [stopWith_eq, findTask_modTask_same (stopped_uid f) h]

theorem findTask_stopWith_other (s : State) {uid id : Nat} (h : id ≠ uid) (f : Frec) :
    findTask (stopWith s uid f) id = findTask s id := by
  rw [stopWith_eq, findTask_modTask_other (stopped_uid f) s h]

/-! ### Groups -/

theorem findGroup_putGroup_mem {s : State} {g g' : Group} (hid : g'.gid = g.gid) (hg : g ∈ s.groups) :
    findGroup (putGroup s g') g.gid = some g' := by
  refine find_updWhere _ _ _ _ (by simp [hid]) (fun _ => by simp [hid]) ?_
  exact Option.isSome_iff_exists.mp (List.find?_isSome.mpr ⟨g, hg, by simp⟩)

/-- A group that stays in a list where others are replaced. -/
theorem mem_putGroup_other {s : State} {g h : Group} (hmem : h ∈ s.groups) (hne : h.gid ≠ g.gid) :
    h ∈ (putGroup s g).groups :=
  List.mem_map.mpr ⟨h, hmem, by simp [hne]⟩

/-- A fold that keeps what it has or takes the next element ends on an element of the list. -/
theorem mem_of_foldl_keeps {α : Type} {step : Option α → α → Option α}
    (hstep : ∀ best y, step best y = some y ∨ step best y = best) {l : List α} {best : Option α} {x : α}
    (h : l.foldl step best = some x) : x ∈ l ∨ best = some x := by
  induction l generalizing best with
  | nil => exact .inr h
  | cons y l ih =>
    rcases ih h with hin | hbest
    · exact .inl (List.mem_cons_of_mem y hin)
    · rcases hstep best y with htake | hkeep
      · obtain rfl : y = x := Option.some.inj (htake.symm.trans hbest)
        exact .inl List.mem_cons_self
      · exact .inr (hkeep.symm.trans hbest)

end Sys2Proof.Records
end

section
/-!
PROOF. The events of the queues and of the active set: `BLOCKING_TASK`, `CLASS_PREEMPTION`, `TASK_STEAL` (R262),
`ACTIVE_SET_EXCHANGE` and `ROTATION` (R266).
-/

namespace Sys2Proof.Queues

open Sys2Proof Sys2Proof.Machine Sys2Proof.Records

/-! ### The queues (R262) -/

/-- R262: a task that has waited 1 ms, and no older blocking task of its class, becomes the blocking task. -/
theorem blockingTask_blocks {s : State} {k : Task} (hfind : findTask s k.uid = some k) (hawaits : awaits k = true)
    (hnew : k.blocking = false) (hwaited : k.releasedAt + 1300000 ≤ s.now)
    (holdest : ∀ y ∈ s.tasks, y.blocking = true → awaits y = true → y.part = k.part → y.cls = k.cls →
      k.handle ≤ y.handle) : exec (.blockingTask k.uid) s = .next { s with tasks := s.tasks.map fun y =>
        if y.part = k.part ∧ y.cls = k.cls then { y with blocking := decide (y.uid = k.uid) } else y } := by
  have hmay : mayBlock s k = true := by
    simp only [mayBlock, hawaits, hnew, Bool.and_eq_true, Bool.not_eq_true', decide_eq_true_eq, List.any_eq_false,
      blockingCycles, Bool.not_false, true_and]
    refine ⟨decide_eq_true hwaited, fun y hy hblock => ?_⟩
    obtain ⟨⟨⟨⟨hb, ha⟩, hpart⟩, hcls⟩, hlt⟩ := hblock
    exact absurd (holdest y hy hb ha hpart hcls) (Nat.not_le_of_lt hlt)
  show execBlockingTask k.uid s = _
  rw [execBlockingTask, hfind]
  exact congrArg _ (if_pos hmay)

/-- A fold that keeps the greater handle ends on the one greatest. -/
theorem foldl_greatest {step : Option Task → Task → Option Task} (hnone : ∀ y, step none y = some y)
    (hsome : ∀ b y, step (some b) y = if b.handle < y.handle then some y else some b) {l : List Task} {v : Task}
    {best : Option Task} (hbest : ∀ b, best = some b → b.handle < v.handle ∨ b = v)
    (hl : ∀ y ∈ l, y.handle < v.handle ∨ y = v) (hin : v ∈ l ∨ best = some v) : l.foldl step best = some v := by
  induction l generalizing best with
  | nil => exact hin.resolve_left List.not_mem_nil
  | cons y l ih =>
    obtain hy := hl y List.mem_cons_self
    have hrest := fun z hz => hl z (List.mem_cons_of_mem y hz)
    rw [List.foldl_cons]
    cases best with
    | none =>
      rw [hnone]
      refine ih (fun b hb => Option.some.inj hb ▸ hy) hrest ?_
      rcases List.mem_cons.mp (hin.resolve_right (by simp)) with rfl | hin
      · exact .inr rfl
      · exact .inl hin
    | some c =>
      have hc := hbest c rfl
      rw [hsome]
      split
      case isTrue hlt =>
        refine ih (fun b hb => Option.some.inj hb ▸ hy) hrest ?_
        rcases hin with hin | heq
        · rcases List.mem_cons.mp hin with rfl | hin
          · exact .inr rfl
          · exact .inl hin
        · obtain rfl := Option.some.inj heq
          rcases hy with hless | rfl
          · omega
          · exact .inr rfl
      case isFalse hge =>
        refine ih (fun b hb => Option.some.inj hb ▸ hc) hrest ?_
        rcases hin with hin | heq
        · rcases List.mem_cons.mp hin with rfl | hin
          · rcases hc with hless | rfl
            · omega
            · exact .inr rfl
          · exact .inl hin
        · exact .inr heq

/-- R262: a task that has waited 100 µs and does not fit makes the youngest task of a lower class save its context. -/
theorem classPreemption_saves {s : State} {k v : Task} (hfind : findTask s k.uid = some k) (hawaits : awaits k = true)
    (hwaited : k.releasedAt + 130000 ≤ s.now) (hfits : fits s k = false)
    (hnone : ∀ y ∈ s.tasks, y.part = k.part → y.saving = false) (hv : v ∈ s.tasks) (hmay : maySave s v = true)
    (hpart : v.part = k.part) (hcls : k.cls < v.cls)
    (hyoungest : ∀ y ∈ s.tasks, maySave s y = true → y.part = k.part → k.cls < y.cls → y.handle < v.handle ∨ y = v) :
    exec (.classPreemption k.uid) s = .next { s with tasks := s.tasks.map fun y =>
      if y.uid = v.uid then { y with saving := true } else y } := by
  have hsaving : savingIn s k.part = false := by
    simp only [savingIn, List.any_eq_false, Bool.and_eq_true, decide_eq_true_eq]
    rintro y hy ⟨hp, hsave⟩
    simp [hnone y hy hp] at hsave
  have hbest : youngestAbove s k.part k.cls = some v := by
    refine foldl_greatest (fun _ => rfl) (fun _ _ => rfl) (fun _ h => by simp at h) (fun y hy => ?_) (.inl ?_)
    · simp only [List.mem_filter, Bool.and_eq_true, decide_eq_true_eq] at hy
      obtain ⟨hy, ⟨hm, hp⟩, hc⟩ := hy
      exact hyoungest y hy hm hp hc
    · simp [hv, hmay, hpart, hcls]
  show execClassPreemption k.uid s = _
  rw [execClassPreemption, hfind]
  simp [hawaits, preemptionCycles, hwaited, hfits, hsaving, hbest, modTask, updWhere]

/-- R262: a tract with room takes the task that it may steal. -/
theorem taskSteal_moves {s : State} {k : Task} {tract : Nat} (hfind : findTask s k.uid = some k)
    (hmay : maySteal s tract k.part = true) (hsteal : (stealable s tract k.part).map (·.uid) = some k.uid) :
    exec (.taskSteal tract k.uid) s = .next { s with tasks := s.tasks.map fun y =>
      if y.uid = k.uid then { y with tract := tract } else y } := by
  show execTaskSteal tract k.uid s = _
  rw [execTaskSteal, hfind]
  simp [hmay, hsteal, modTask, updWhere]

/-! ### The active set (R266) -/

theorem longestReady_mem {s : State} {core : Nat} {h : Group} (hl : longestReady s core = some h) : h ∈ s.groups := by
  have hin := (mem_of_foldl_keeps (fun best y => ?_) hl).resolve_right (by simp)
  · exact (List.mem_filter.mp hin).1
  · cases best with
    | none => exact .inl rfl
    | some b => exact (ite_eq_or_eq ..)

theorem parkedActive_mem {s : State} {core : Nat} {g : Group} (h : parkedActive s core = some g) : g ∈ s.groups := by
  obtain ⟨_, _, hfind⟩ := List.exists_of_findSome?_eq_some h
  exact List.mem_of_find?_eq_some hfind

/-- A free position and a ready group: the group enters there. -/
theorem fillActive_some {s : State} {core n : Nat} {h : Group} (hslot : activeSlot s core = some n)
    (hready : longestReady s core = some h) : fillActive s core = activate s h n := by
  rw [fillActive, hslot, hready]

/-- A group that enters the active set leaves every other group as it was. -/
theorem fillActive_other {s : State} {core id : Nat} (h : ∀ y, longestReady s core = some y → y.gid ≠ id) :
    findGroup (fillActive s core) id = findGroup s id := by
  unfold fillActive
  split
  · rename_i k y _ hy
    exact findGroup_putGroup_other s { y with active := some k, issued := 0 } id (h y hy).symm
  · rfl

theorem fillActive_frame (s : State) (core : Nat) : fillActive s core = { s with groups := (fillActive s core).groups } := by
  unfold fillActive
  split <;> rfl

/-- R266: the pending group that has been ready longest takes a free position. -/
theorem activeSetExchange_fills {s : State} {core n : Nat} {h : Group} (hnone : parkedActive s core = none)
    (hslot : activeSlot s core = some n) (hready : longestReady s core = some h) :
    ∃ t, exec (.activeSetExchange core) s = .next t ∧
      findGroup t h.gid = some { h with active := some n, issued := 0 } ∧
      (∀ id, id ≠ h.gid → findGroup t id = findGroup s id) ∧ t = { s with groups := t.groups } := by
  refine ⟨activate s h n, ?_, ?_, fun id hid => ?_, rfl⟩
  · show execActiveSetExchange core s = _
    rw [execActiveSetExchange, hnone, ← fillActive_some hslot hready]
  · exact findGroup_putGroup_mem (g' := { h with active := some n, issued := 0 }) rfl (longestReady_mem hready)
  · exact findGroup_putGroup_other s _ id hid

/-- R266: a group that parks gives its position up. -/
theorem activeSetExchange_deactivates {s : State} {core : Nat} {g : Group} (hparked : parkedActive s core = some g)
    (hother : ∀ y, longestReady (deactivate s g) core = some y → y.gid ≠ g.gid) :
    ∃ t g', exec (.activeSetExchange core) s = .next t ∧ findGroup t g.gid = some g' ∧ g'.active = none ∧
      g'.lanes = g.lanes ∧ g'.paths = g.paths ∧ t = { s with groups := t.groups } := by
  refine ⟨fillActive (deactivate s g) core, { g with active := none, readySince := s.now }, ?_, ?_, rfl, rfl, rfl, ?_⟩
  · show execActiveSetExchange core s = _
    rw [execActiveSetExchange, hparked]
  · rw [fillActive_other hother]
    exact findGroup_putGroup_mem (g' := { g with active := none, readySince := s.now }) rfl (parkedActive_mem hparked)
  · rw [fillActive_frame]
    rfl

/-- R266: a group that has issued 256 sequences changes places with the pending group that has been ready longest. -/
theorem rotation_exchanges {s : State} {core n : Nat} {g h : Group} (hlong : longIssued s core = some g)
    (hready : longestReady s core = some h) (hactive : g.active = some n) (hne : g.gid ≠ h.gid) :
    ∃ t, exec (.rotation core) s = .next t ∧
      findGroup t g.gid = some { g with active := none, readySince := s.now } ∧
      findGroup t h.gid = some { h with active := some n, issued := 0 } ∧
      (∀ id, id ≠ g.gid → id ≠ h.gid → findGroup t id = findGroup s id) ∧ t = { s with groups := t.groups } := by
  have hg : g ∈ s.groups := List.mem_of_find?_eq_some hlong
  have hh : h ∈ (deactivate s g).groups := mem_putGroup_other (longestReady_mem hready) hne.symm
  refine ⟨activate (deactivate s g) h n, ?_, ?_, ?_, fun id hidg hidh => ?_, rfl⟩
  · show execRotation core s = _
    rw [execRotation, hlong, hready]
    simp only [hactive]
  · exact (findGroup_putGroup_other (deactivate s g) { h with active := some n, issued := 0 } g.gid hne).trans
      (findGroup_putGroup_mem (g' := { g with active := none, readySince := s.now }) rfl hg)
  · exact findGroup_putGroup_mem (g' := { h with active := some n, issued := 0 }) rfl hh
  · exact (findGroup_putGroup_other (deactivate s g) { h with active := some n, issued := 0 } id hidh).trans
      (findGroup_putGroup_other s { g with active := none, readySince := s.now } id hidg)

end Sys2Proof.Queues
end

section
/-!
PROOF. `TASK_ADMISSION` (R75, R91, R260): the kept regions that give way, the plan that is taken, the bursts that staging
reads, and the record of the admitted task.
-/

namespace Sys2Proof.Admitting

open Sys2Proof Sys2Proof.Machine Sys2Proof.Records Sys2Proof.Placing

/-! ### Kept regions that give way (R91) -/

/-- Dropping kept regions changes them, owner tags and code instances: no task, group or byte. -/
theorem dropAll_frame (ks : List Kept) (s : State) :
    let t := ks.foldl dropKept s
    t = { s with
      kept := t.kept
      sram := { s.sram with owners := t.sram.owners, undo := t.sram.undo, copies := t.sram.copies }
      instances := t.instances
      codeCache := t.codeCache
      tractCode := t.tractCode } := by
  induction ks generalizing s with
  | nil => rfl
  | cons k ks ih => exact ih (dropKept s k)

theorem mem_kept_dropAll {ks : List Kept} {s : State} {x : Kept} (hx : x ∈ s.kept) (hn : x ∉ ks) :
    x ∈ (ks.foldl dropKept s).kept := by
  induction ks generalizing s with
  | nil => exact hx
  | cons k ks ih =>
    rw [List.mem_cons, not_or] at hn
    exact ih (List.mem_filter.mpr ⟨hx, decide_eq_true hn.1⟩) hn.2

/-- The drops that a placement needs are among the kept regions offered. -/
theorem neededDrops_subset {fit : List Kept → Bool} {ks ds : List Kept} (h : neededDrops fit ks = some ds) : ds ⊆ ks := by
  obtain ⟨d, hd, rfl⟩ := Option.map_eq_some_iff.mp h
  obtain ⟨n, _, rfl⟩ := List.mem_map.mp (List.mem_of_find?_eq_some hd)
  have hfold : ∀ (l d : List Kept), l.foldl (fun d k =>
      if fit (d.filter fun x => decide (x ≠ k)) then d.filter fun x => decide (x ≠ k) else d) d ⊆ d := by
    intro l
    induction l with
    | nil => exact fun d => List.Subset.refl d
    | cons k l ih =>
      intro d
      refine List.Subset.trans (ih _) ?_
      dsimp only
      split
      · exact fun x hx => (List.mem_filter.mp hx).1
      · exact List.Subset.refl d
  exact List.Subset.trans (hfold _ _) (List.take_subset n ks)

/-- What a plan for admission is: some kept regions of the partition are dropped, and the task is placed without them. -/
theorem admitPlan_some {c : Chooser} {q : Partition} {t : Task} {s s' : State} {ad : List (Option Kept)} {p : Plan}
    (h : admitPlan c q t s = some (s', ad, p)) : ∃ ds : List Kept, (∀ k ∈ ds, k.part = t.part) ∧
      s' = ds.foldl dropKept s ∧ ad = adoptionsWithout s t ds ∧ placeWithout c s q t ds = some p := by
  obtain ⟨ds, hdrops, hplan⟩ := Option.bind_eq_some_iff.mp h
  obtain ⟨_, hplace, heq⟩ := Option.map_eq_some_iff.mp hplan
  simp only [Prod.mk.injEq] at heq
  obtain ⟨rfl, rfl, rfl⟩ := heq
  refine ⟨ds, fun k hk => ?_, rfl, rfl, hplace⟩
  have hin := neededDrops_subset hdrops hk
  simp only [List.mem_append, List.mem_filter, decide_eq_true_eq] at hin
  exact hin.elim (·.1.2) (·.1.2)

/-- One record of `adoptions`: what the records so far adopt, and the kept regions that are left. -/
def adoptStep (part : Nat) (a : List (Option Kept) × List Kept) (r : Region) : List (Option Kept) × List Kept :=
  match a.2.find? (adopts part r) with
  | some k => (a.1 ++ [some k], a.2.filter fun x => decide (x ≠ k))
  | none => (a.1 ++ [none], a.2)

theorem adoptions_eq (part : Nat) (kept : List Kept) (rs : List Region) :
    adoptions part kept rs = (rs.foldl (adoptStep part) ([], kept)).1 := rfl

/-- A record and what it adopts: a kept region that it asks for, or none. -/
def AdoptsFrom (part : Nat) (kept : List Kept) (r : Region) (o : Option Kept) : Prop :=
  ∀ y, o = some y → y ∈ kept ∧ adopts part r y = true

theorem foldl_adoptStep {part : Nat} {kept : List Kept} {rs : List Region} (done : List (Option Kept)) {left : List Kept}
    (hleft : left ⊆ kept) : ∃ rest, (rs.foldl (adoptStep part) (done, left)).1 = done ++ rest ∧
      List.Forall₂ (AdoptsFrom part kept) rs rest := by
  induction rs generalizing done left with
  | nil => exact ⟨[], by simp, .nil⟩
  | cons r rs ih =>
    rw [List.foldl_cons, adoptStep]
    cases hfind : left.find? (adopts part r) with
    | none =>
      obtain ⟨rest, heq, hrest⟩ := ih (done ++ [none]) hleft
      exact ⟨none :: rest, by simpa using heq, .cons (fun y hy => by simp at hy) hrest⟩
    | some k =>
      obtain ⟨rest, heq, hrest⟩ := ih (done ++ [some k]) (left := left.filter fun x => decide (x ≠ k))
        fun x hx => hleft (List.mem_filter.mp hx).1
      refine ⟨some k :: rest, by simpa using heq, .cons (fun y hy => ?_) hrest⟩
      obtain rfl := Option.some.inj hy
      exact ⟨hleft (List.mem_of_find?_eq_some hfind), List.find?_some hfind⟩

/-- Every kept region that a record adopts stands in the list, and the record asks for it. -/
theorem adoptions_forall₂ (part : Nat) (rs : List Region) (kept : List Kept) :
    List.Forall₂ (AdoptsFrom part kept) rs (adoptions part kept rs) := by
  obtain ⟨rest, heq, hrest⟩ := foldl_adoptStep (part := part) (rs := rs) [] (List.Subset.refl kept)
  rw [adoptions_eq, heq]
  exact hrest

theorem adopts_part {part : Nat} {r : Region} {y : Kept} (h : adopts part r y = true) : y.part = part ∧ y.kind = r.kind := by
  simp only [adopts, Bool.and_eq_true, decide_eq_true_eq] at h
  obtain ⟨⟨⟨⟨⟨⟨hpart, _⟩, _⟩, _⟩, hkind⟩, _⟩, _⟩ := h
  exact ⟨hpart, hkind⟩

/-- A kept region that a task adopts belongs to the task's partition. -/
theorem part_of_mem_adoptions {s : State} {t : Task} {ds : List Kept} {y : Kept}
    (h : some y ∈ adoptionsWithout s t ds) : y.part = t.part := by
  have hall := adoptions_forall₂ t.part t.decl.regions (s.kept.filter fun k => !ds.contains k)
  obtain ⟨i, hi, heq⟩ := List.getElem_of_mem h
  have hi' : i < t.decl.regions.length := by rw [hall.length_eq]; exact hi
  exact (adopts_part (hall.get hi' hi y heq).2).1

/-- Where no kept region is a table no table is adopted. -/
theorem table_not_adopted {s : State} {t : Task} (ds : List Kept) (hkept : ∀ y ∈ s.kept, y.kind ≠ .table) {j : Nat}
    {r : Region} (hr : t.decl.regions[j]? = some r) (hkind : r.kind = .table) :
    (adoptionsWithout s t ds).getD j none = none := by
  have hall := adoptions_forall₂ t.part t.decl.regions (s.kept.filter fun k => !ds.contains k)
  obtain ⟨hj, rfl⟩ := List.getElem?_eq_some_iff.mp hr
  have hj' : j < (adoptionsWithout s t ds).length := by rw [adoptionsWithout, ← hall.length_eq]; exact hj
  rw [List.getD_eq_getElem _ _ hj']
  cases hy : (adoptionsWithout s t ds)[j] with
  | none => rfl
  | some y =>
    obtain ⟨hin, hadopts⟩ := hall.get hj hj' y hy
    exact absurd ((adopts_part hadopts).2.trans hkind) (hkept y (List.mem_filter.mp hin).1)

/-! ### The plan (R260, R261) -/

theorem takeSpill_places {c : Chooser} {t : Task} {core : Nat} {p p' : Plan} (h : takeSpill c t core p = some p') :
    p'.places = p.places := by
  unfold takeSpill at h
  split at h
  · rw [← Option.some.inj h]
  · obtain ⟨r, hrun, rfl⟩ := Option.map_eq_some_iff.mp h
    exact (takeRun_frame hrun).1

/-- A party that is placed is added to the places, on a core of the partition. -/
theorem placeParty_places {f : PlaceFor} {c : Chooser} {p p' : Plan} {i : Nat} (h : f.placeParty c p i = some p') :
    ∃ x : PartyPlace, x.index = i ∧ f.q.cores.getLsbD x.core = true ∧ p'.places = p.places ++ [x] := by
  obtain ⟨m, hfind, hon⟩ := Option.bind_eq_some_iff.mp h
  obtain ⟨⟨a, p1⟩, hrun, hspill⟩ := Option.bind_eq_some_iff.mp hon
  refine ⟨⟨i, m, a * 4096⟩, rfl, (find?_rankCores hfind).1.2, ?_⟩
  rw [takeSpill_places hspill, (takeRun_frame hrun).1]

/-- A region that is placed changes no place. -/
theorem placeRegion_places {f : PlaceFor} {c : Chooser} {p p' : Plan} {k : Nat} {r : Region}
    (h : f.placeRegion c p k r = some p') : p'.places = p.places := by
  unfold PlaceFor.placeRegion at h
  split at h
  · split at h
    · exact takeSpill_places h
    · simp at h
  · split at h
    · rw [← Option.some.inj h]
    · obtain ⟨m, _, hon⟩ := Option.bind_eq_some_iff.mp h
      obtain ⟨x, hrun, hspill⟩ := Option.bind_eq_some_iff.mp hon
      rw [takeSpill_places hspill, (takeRun_frame hrun).1]

theorem foldl_bind_none {α β : Type} (g : β → α → Option β) (l : List α) :
    (l.foldl (fun o x => o.bind fun y => g y x) none) = none := by
  induction l with
  | nil => rfl
  | cons x l ih => exact ih

theorem foldl_placeParty {f : PlaceFor} {c : Chooser} {is : List Nat} {p p' : Plan}
    (h : is.foldl (fun o i => o.bind fun p => f.placeParty c p i) (some p) = some p') :
    ∃ new, p'.places = p.places ++ new ∧ new.map (·.index) = is ∧ ∀ x ∈ new, f.q.cores.getLsbD x.core = true := by
  induction is generalizing p with
  | nil => exact ⟨[], by rw [← Option.some.inj h]; simp⟩
  | cons i is ih =>
    rw [List.foldl_cons, Option.bind_some] at h
    cases hone : f.placeParty c p i with
    | none =>
      rw [hone, foldl_bind_none] at h
      simp at h
    | some p1 =>
      rw [hone] at h
      obtain ⟨x, hindex, hcore, hplaces⟩ := placeParty_places hone
      obtain ⟨new, hnew, hindices, hcores⟩ := ih h
      refine ⟨x :: new, by rw [hnew, hplaces, List.append_assoc, List.singleton_append], by simp [hindex, hindices], ?_⟩
      exact List.forall_mem_cons.mpr ⟨hcore, hcores⟩

theorem foldl_placeRegion {f : PlaceFor} {c : Chooser} {rs : List (Nat × Region)} {p p' : Plan}
    (h : rs.foldl (fun o x => o.bind fun p => f.placeRegion c p x.1 x.2) (some p) = some p') : p'.places = p.places := by
  induction rs generalizing p with
  | nil => rw [← Option.some.inj h]
  | cons x rs ih =>
    rw [List.foldl_cons, Option.bind_some] at h
    cases hone : f.placeRegion c p x.1 x.2 with
    | none =>
      rw [hone, foldl_bind_none] at h
      simp at h
    | some p1 =>
      rw [hone] at h
      rw [ih h, placeRegion_places hone]

/-- R260: a whole placement puts every party on a core of the partition, in ascending index. -/
theorem place_places {f : PlaceFor} {c : Chooser} {owners : List (Nat × Owner)} {bases : List (Option Nat)} {p : Plan}
    (h : f.place c owners bases = some p) :
    p.places.map (·.index) = f.parties ∧ ∀ x ∈ p.places, f.q.cores.getLsbD x.core = true := by
  unfold PlaceFor.place at h
  dsimp only at h
  generalize hp1 : f.parties.foldl _ _ = p1 at h
  cases p1 with
  | none =>
    rw [foldl_bind_none] at h
    simp at h
  | some p1 =>
    obtain ⟨new, hnew, hindices, hcores⟩ := foldl_placeParty hp1
    rw [foldl_placeRegion h, hnew]
    exact ⟨hindices, hcores⟩

/-! ### The bursts of staging (R75, R89) -/

/-- In a list without repetitions where one element alone contributes, a `flatMap` is that element's part. -/
theorem flatMap_eq_single {α β : Type} {l : List α} {f : α → List β} {x : α} (hn : l.Nodup) (hx : x ∈ l)
    (hf : ∀ y ∈ l, y ≠ x → f y = []) : l.flatMap f = f x := by
  induction l with
  | nil => simp at hx
  | cons y l ih =>
    rw [List.nodup_cons] at hn
    rw [List.flatMap_cons]
    rcases List.mem_cons.mp hx with rfl | hx
    · have hrest : l.flatMap f = [] := List.flatMap_eq_nil_iff.mpr fun z hz =>
        hf z (List.mem_cons_of_mem x hz) fun h => hn.1 (h ▸ hz)
      rw [hrest, List.append_nil]
    · rw [hf y List.mem_cons_self fun h => hn.1 (h ▸ hx), List.nil_append]
      exact ih hn.2 hx fun z hz => hf z (List.mem_cons_of_mem y hz)

/-- The numbered region records of a task. -/
theorem mem_numbered {rs : List Region} {x : Nat × Region} :
    x ∈ (rs.mapIdx fun k r => (k, r)) ↔ rs[x.1]? = some x.2 := by
  simp only [List.mem_mapIdx, List.getElem?_eq_some_iff]
  constructor
  · rintro ⟨i, hi, rfl⟩
    exact ⟨hi, rfl⟩
  · rintro ⟨hi, heq⟩
    exact ⟨x.1, hi, by rw [heq]⟩

theorem numbered_nodup (rs : List Region) : (rs.mapIdx fun k r => (k, r)).Nodup := by
  refine List.Nodup.of_map Prod.fst ?_
  have hfst : (rs.mapIdx fun k r => (k, r)).map Prod.fst = List.range rs.length := by
    apply List.ext_getElem <;> simp
  rw [hfst]
  exact List.nodup_range

theorem mem_tractsOf {t : Task} {c : Nat} : c ∈ tractsOf t ↔ ∃ x ∈ t.places, tractOf x.core = c := by
  simp [tractsOf]

/-- The core that reads tables for a tract lies in it. -/
theorem tractOf_tableCore {t : Task} {c : Nat} (h : c ∈ tractsOf t) : tractOf (tableCore t c) = c := by
  obtain ⟨x, hx, hc⟩ := mem_tractsOf.mp h
  unfold tableCore
  cases hfind : t.places.find? fun x => decide (tractOf x.core = c) with
  | none => exact absurd (decide_eq_true hc) (List.find?_eq_none.mp hfind x hx)
  | some y => simpa using List.find?_some hfind

/-- A burst that a core of tract `c` makes for the bytes from `va` on of record `j`. -/
def readsOf (j c va : Nat) (x : Xfer) : Bool :=
  decide (x.record = j) && decide (tractOf x.core = c) && decide (x.va = va)

/-- The bursts of a range hold one for each of its 64-byte pieces. -/
theorem filter_rangeBursts {j c core far n m : Nat} (hc : tractOf core = c) (hm : 64 * m < n) :
    ((rangeBursts j core far n).filter (readsOf j c (far + 64 * m))).length = 1 := by
  have hpred : ∀ k : Nat, readsOf j c (far + 64 * m)
      { core := core, va := far + 64 * k, len := min 64 (n - 64 * k), write := false, data := [], state := .todo,
        record := j } = decide (k = m) := by
    intro k
    simp only [readsOf, hc, decide_true, Bool.true_and]
    exact decide_eq_decide.mpr (by omega)
  rw [rangeBursts, List.filter_map, List.length_map]
  simp only [Function.comp_def, hpred]
  rw [← List.countP_eq_length_filter]
  exact (List.count_eq_countP (a := m) ▸ List.count_eq_one_of_mem List.nodup_range (List.mem_range.mpr (by omega)))

theorem filter_rangeBursts_other {i j c core far n va : Nat} (h : i ≠ j ∨ tractOf core ≠ c) :
    (rangeBursts i core far n).filter (readsOf j c va) = [] := by
  rw [List.filter_eq_nil_iff]
  intro x hx
  obtain ⟨k, _, rfl⟩ := List.mem_map.mp hx
  rcases h with h | h <;> simp [readsOf, h]

/-- Of all bursts of staging, those for a table's bytes are among the bursts of its own record. -/
theorem filter_stagingXfers {t : Task} {ad : List (Option Kept)} {j : Nat} {r : Region}
    (hr : t.decl.regions[j]? = some r) (hkind : r.kind = .table) (had : ad.getD j none = none) (c va : Nat) :
    (stagingXfers t ad).filter (readsOf j c va) =
      (tractsOf t).flatMap fun d => (rangeBursts j (tableCore t d) r.far r.size).filter (readsOf j c va) := by
  rw [stagingXfers, List.filter_flatMap,
    flatMap_eq_single (numbered_nodup t.decl.regions) (mem_numbered (x := (j, r)).mpr hr)]
  · have hstaged : isStaged ad j r = true := by simp only [isStaged, Region.reads, hkind, had]; rfl
    have hbytes : r.farBytes = r.size := by simp [Region.farBytes, hkind]
    simp only [hstaged, hkind, hbytes, Bool.not_true, Bool.false_eq_true, if_false, if_true, List.filter_flatMap]
  · rintro ⟨i, r'⟩ hin hne
    have hij : i ≠ j := by
      rintro rfl
      obtain rfl : r' = r := Option.some.inj ((mem_numbered.mp hin).symm.trans hr)
      exact hne rfl
    simp only
    split
    · rfl
    · split
      · rw [List.filter_flatMap]
        exact List.flatMap_eq_nil_iff.mpr fun d _ => filter_rangeBursts_other (.inl hij)
      · exact filter_rangeBursts_other (.inl hij)

/-- R75: each tract with a party reads each burst of a table once, and no other tract reads it. -/
theorem table_reads {t : Task} {ad : List (Option Kept)} {j : Nat} {r : Region} (hr : t.decl.regions[j]? = some r)
    (hkind : r.kind = .table) (had : ad.getD j none = none) (c m : Nat) :
    ((∃ x ∈ t.places, tractOf x.core = c) → 64 * m < r.size →
      ((stagingXfers t ad).filter (readsOf j c (r.far + 64 * m))).length = 1) ∧
    ((∀ x ∈ t.places, tractOf x.core ≠ c) → (stagingXfers t ad).filter (readsOf j c (r.far + 64 * m)) = []) := by
  rw [filter_stagingXfers hr hkind had]
  constructor
  · intro hin hm
    have hc : c ∈ tractsOf t := mem_tractsOf.mpr hin
    rw [flatMap_eq_single (l := tractsOf t) (List.nodup_dedup _) hc]
    · exact filter_rangeBursts (tractOf_tableCore hc) hm
    · intro d hd hne
      exact filter_rangeBursts_other (.inr (by rw [tractOf_tableCore hd]; exact hne))
  · intro hnone
    refine List.flatMap_eq_nil_iff.mpr fun d hd => filter_rangeBursts_other (.inr ?_)
    obtain ⟨x, hx, rfl⟩ := mem_tractsOf.mp hd
    rw [tractOf_tableCore hd]
    exact hnone x hx

/-! ### The admitted task -/

theorem countReport_tableRows (d : Dram) (dpa : Nat) : (countReport d dpa).tableRows = d.tableRows := by
  unfold countReport
  split <;> rfl

theorem readNormal_tableRows (d : Dram) (dpa : Nat) : (readNormal d dpa).tableRows = d.tableRows :=
  countReport_tableRows (activateNormal d dpa) dpa

theorem foldl_tableRows {g : Dram → Nat → Dram} (hg : ∀ d b, (g d b).tableRows = d.tableRows) (l : List Nat) (d : Dram) :
    (l.foldl g d).tableRows = d.tableRows := by
  induction l generalizing d with
  | nil => rfl
  | cons b l ih => rw [List.foldl_cons, ih, hg]

/-- Forming the code of a task (R303) changes the stacks, but no table row, and the list of instances. -/
theorem formInstance_frame (s : State) (t : Task) (bases : List (Option Nat)) :
    let u := (formInstance s t bases).1
    u = { s with fresh := u.fresh, dram := u.dram, instances := u.instances } ∧ u.dram.tableRows = s.dram.tableRows := by
  unfold formInstance
  split
  · exact ⟨rfl, rfl⟩
  · split
    · exact ⟨rfl, rfl⟩
    · refine ⟨rfl, ?_⟩
      exact (foldl_tableRows (g := fun d b => activateNormal d (b * 64)) (fun _ _ => rfl) _ _).trans
        (foldl_tableRows (g := fun d b => readNormal d (b * 64)) (fun d b => readNormal_tableRows d (b * 64)) _ _)

/-- The record of a task once it has been admitted. -/
def admitted (t : Task) (ad : List (Option Kept)) (p : Plan) (block inst : Option Nat) : Task :=
  let t1 := { t with state := .admitted, blocking := false, places := p.places, bases := p.bases,
                     adopted := (List.range ad.length).filter fun k => (ad.getD k none).isSome,
                     reserves := p.reserves, block := block, inst := inst }
  { t1 with xfers := stagingXfers t1 ad }

/-- The machine before a kept region that the task's hamper can write is dropped, and before an image that cannot be read
stops the task. -/
def admitting (s : State) (q : Partition) (t : Task) (ad : List (Option Kept)) (p : Plan) (block : Option Nat) : State :=
  let r := formInstance s t p.bases
  let s2 := putTask { setOwners r.1 p.owners with xlate := askRegions r.1.xlate q t } (admitted t ad p block r.2)
  { s2 with kept := s2.kept.filter fun k => !ad.contains (some k) }

theorem admitTask_eq (s : State) (q : Partition) (t : Task) (ad : List (Option Kept)) (p : Plan) (block : Option Nat) :
    admitTask s q t ad p block =
      let s4 := dropKeptWhere (admitting s q t ad p block) t.part fun k => canWrite t.decl k.far k.farBytes
      if imageBad s t (formInstance s t p.bases).2 then stopWith s4 t.uid (uncorrectable 0 (BitVec.allOnes 32) 0 0)
      else s4 := rfl

/-- From `s` to `u` no byte of the slices, no table row and no group has changed. -/
def StaysInPlace (s u : State) : Prop :=
  u.sram.mem = s.sram.mem ∧ u.dram.tableRows = s.dram.tableRows ∧ u.groups = s.groups

theorem StaysInPlace.trans {s t u : State} (h : StaysInPlace s t) (h' : StaysInPlace t u) : StaysInPlace s u :=
  ⟨h'.1.trans h.1, h'.2.1.trans h.2.1, h'.2.2.trans h.2.2⟩

theorem dropAll_staysInPlace (ks : List Kept) (s : State) : StaysInPlace s (ks.foldl dropKept s) := by
  rw [dropAll_frame]
  exact ⟨rfl, rfl, rfl⟩

theorem findTask_dropAll (ks : List Kept) (s : State) (id : Nat) : findTask (ks.foldl dropKept s) id = findTask s id := by
  rw [dropAll_frame]
  rfl

theorem admitting_staysInPlace (s : State) (q : Partition) (t : Task) (ad : List (Option Kept)) (p : Plan)
    (block : Option Nat) : StaysInPlace s (admitting s q t ad p block) := by
  obtain ⟨hform, hrows⟩ := formInstance_frame s t p.bases
  refine ⟨?_, hrows, ?_⟩
  · show (formInstance s t p.bases).1.sram.mem = _
    rw [hform]
  · show (formInstance s t p.bases).1.groups = _
    rw [hform]

/-- An admission changes no byte of the slices, no table row and no group. -/
theorem admitTask_staysInPlace (s : State) (q : Partition) (t : Task) (ad : List (Option Kept)) (p : Plan)
    (block : Option Nat) : StaysInPlace s (admitTask s q t ad p block) := by
  have hdropped := (admitting_staysInPlace s q t ad p block).trans
    (dropAll_staysInPlace ((admitting s q t ad p block).kept.filter fun k =>
      decide (k.part = t.part) && canWrite t.decl k.far k.farBytes) _)
  rw [admitTask_eq]
  dsimp only
  split <;> exact hdropped

theorem findTask_admitting (s : State) (q : Partition) (t : Task) (ad : List (Option Kept)) (p : Plan)
    (block : Option Nat) (id : Nat) : findTask (admitting s q t ad p block) id =
      findTask (putTask s (admitted t ad p block (formInstance s t p.bases).2)) id := by
  have hform := (formInstance_frame s t p.bases).1
  show findTask (putTask (formInstance s t p.bases).1 _) id = _
  rw [hform]
  rfl

/-- An admission leaves every other task's record as it was. -/
theorem findTask_admitTask_other (s : State) (q : Partition) (t : Task) (ad : List (Option Kept)) (p : Plan)
    (block : Option Nat) {id : Nat} (h : id ≠ t.uid) : findTask (admitTask s q t ad p block) id = findTask s id := by
  have hother := (findTask_dropAll ((admitting s q t ad p block).kept.filter fun k =>
    decide (k.part = t.part) && canWrite t.decl k.far k.farBytes) _ id).trans
      ((findTask_admitting s q t ad p block id).trans (findTask_putTask_other s h))
  rw [admitTask_eq]
  dsimp only
  split
  · rw [findTask_stopWith_other _ h]
    exact hother
  · exact hother

/-- The task's own record is that of an admitted task; only its fault record and its stop may tell that its image could not
be read. -/
theorem findTask_admitTask_same {s : State} {q : Partition} {t : Task} (ad : List (Option Kept)) (p : Plan)
    (block : Option Nat) (h : findTask s t.uid = some t) : ∃ t', findTask (admitTask s q t ad p block) t.uid = some t' ∧
      t' = { admitted t ad p block (formInstance s t p.bases).2 with frec := t'.frec, stop := t'.stop } := by
  have hsame := (findTask_dropAll ((admitting s q t ad p block).kept.filter fun k =>
    decide (k.part = t.part) && canWrite t.decl k.far k.farBytes) _ t.uid).trans
      ((findTask_admitting s q t ad p block t.uid).trans (findTask_putTask_same h))
  rw [admitTask_eq]
  dsimp only
  split
  · exact ⟨_, findTask_stopWith_same (t := admitted t ad p block (formInstance s t p.bases).2) hsame _, stopped_frame _ _⟩
  · exact ⟨_, hsame, rfl⟩

/-- Kept regions of other partitions stay. -/
theorem mem_kept_admitTask {s : State} {q : Partition} {t : Task} {ad : List (Option Kept)} {p : Plan}
    {block : Option Nat} (had : ∀ y, some y ∈ ad → y.part = t.part) {x : Kept} (hx : x ∈ s.kept) (hpart : x.part ≠ t.part) :
    x ∈ (admitTask s q t ad p block).kept := by
  have hbefore : x ∈ (admitting s q t ad p block).kept := by
    refine List.mem_filter.mpr ⟨?_, by simpa using fun hin => hpart (had x hin)⟩
    show x ∈ (formInstance s t p.bases).1.kept
    rwa [(formInstance_frame s t p.bases).1]
  have hstays : x ∈ (dropKeptWhere (admitting s q t ad p block) t.part fun k => canWrite t.decl k.far k.farBytes).kept :=
    mem_kept_dropAll hbefore fun hin => by simp [hpart] at hin
  rw [admitTask_eq]
  dsimp only
  split <;> exact hstays

/-- R75, R91, R260: the task that its tract admits next is placed whole, by the plan that the event names. -/
theorem taskAdmission_admits {s s' : State} {k : Task} {q : Partition} {place : Placement} {b : Option Nat}
    {ad : List (Option Kept)} {pl : Plan} (hfind : findTask s k.uid = some k) (hreleased : k.state = .released)
    (hsaved : k.saved = none) (hpart : findPart s k.part = some q)
    (hnext : (nextAdmitted s k.tract k.part).map (·.uid) = some k.uid) (hblock : blockFor s q k = some b)
    (hplan : admitPlan (.given place.runs) q k s = some (s', ad, pl)) (hruns : pl.made.length = place.runs.length) :
    ∃ t k', exec (.taskAdmission k.uid place) s = .next t ∧
      findTask t k.uid = some k' ∧ k'.state = .admitted ∧ k'.block = b ∧ k'.bases = pl.bases ∧
      k'.places.map (·.index) = List.range k.nparty ∧
      (∀ x ∈ k'.places, q.cores.getLsbD x.core = true) ∧
      ((∀ y ∈ s.kept, y.kind ≠ .table) → ∀ j r c m, k.decl.regions[j]? = some r → r.kind = .table →
        let reads := k'.xfers.filter fun x => decide (x.record = j) && decide (tractOf x.core = c) && decide (x.va = r.far + 64 * m)
        ((∃ x ∈ k'.places, tractOf x.core = c) → 64 * m < r.size → reads.length = 1) ∧
        ((∀ x ∈ k'.places, tractOf x.core ≠ c) → reads = [])) ∧
      (∀ id, id ≠ k.uid → findTask t id = findTask s id) ∧ t.sram.mem = s.sram.mem ∧
      t.dram.tableRows = s.dram.tableRows ∧ t.groups = s.groups ∧
      ∀ x ∈ s.kept, x.part ≠ k.part → x ∈ t.kept := by
  obtain ⟨ds, hds, rfl, rfl, hplace⟩ := admitPlan_some hplan
  obtain ⟨hindices, hcores⟩ := place_places hplace
  have hfind' : findTask (ds.foldl dropKept s) k.uid = some k := (findTask_dropAll ds s k.uid).trans hfind
  obtain ⟨k', hk', heq⟩ := findTask_admitTask_same (q := q) (adoptionsWithout s k ds) pl b hfind'
  obtain ⟨hmem, hrows, hgroups⟩ := (dropAll_staysInPlace ds s).trans
    (admitTask_staysInPlace _ q k (adoptionsWithout s k ds) pl b)
  refine ⟨admitTask (ds.foldl dropKept s) q k (adoptionsWithout s k ds) pl b, k', ?_, hk', ?_, ?_, ?_, ?_, ?_, ?_,
    fun id hid => ?_, hmem, hrows, hgroups, fun x hx hne => ?_⟩
  · show execTaskAdmission k.uid place s = _
    simp [execTaskAdmission, hfind, hreleased, hsaved, hnext, hpart, hblock, hplan, hruns]
  · rw [heq]; rfl
  · rw [heq]; rfl
  · rw [heq]; rfl
  · rw [heq]; exact hindices
  · rw [heq]; exact hcores
  · intro hkept j r c m hr hkind
    rw [heq]
    exact table_reads (t := { admitted k (adoptionsWithout s k ds) pl b _ with xfers := k.xfers }) hr hkind
      (table_not_adopted ds hkept hr hkind) c m
  · exact (findTask_admitTask_other _ q k _ pl b hid).trans (findTask_dropAll ds s id)
  · exact mem_kept_admitTask (fun y => part_of_mem_adoptions) (mem_kept_dropAll hx fun hin => hne (hds x hin)) hne

end Sys2Proof.Admitting
end

section
/-!
PROOF. `TASK_STAGING` before the task starts (R89, R94): the bursts that are sent, and the end of a task one of whose
bursts has failed.
-/

namespace Sys2Proof.StagingBursts

open Sys2Proof Sys2Proof.Machine Sys2Proof.Records

/-! ### Sending bursts -/

/-- What a burst is, whatever has become of it. -/
def burstShape (x : Xfer) : Nat × Nat × Nat × Bool × List Byte := (x.core, x.va, x.len, x.write, x.data)

/-- Task `k` with the states of its bursts changed, and stopped at most for an uncorrectable error. -/
def Sent (k k' : Task) : Prop :=
  k' = { k with xfers := k'.xfers, stop := k'.stop, frec := k'.frec } ∧ (k'.stop = none ∨ k'.stop = some 0x0B) ∧
    k'.xfers.map burstShape = k.xfers.map burstShape

/-- From `s` to `u` only bursts of task `k` have moved on: no slice and no group has changed. -/
def OnlySends (s : State) (k : Task) (u : State) : Prop :=
  u.sram = s.sram ∧ u.groups = s.groups ∧ ∃ k', findTask u k.uid = some k' ∧ Sent k k'

theorem map_modify_of_eq {α β : Type} {f : α → α} {g : α → β} (h : ∀ x, g (f x) = g x) (l : List α) (n : Nat) :
    (l.modify n f).map g = l.map g := by
  apply List.ext_getElem
  · simp
  · intro i h1 h2
    simp only [List.getElem_map, List.getElem_modify]
    split
    · exact h _
    · rfl

theorem sent_state {k k' : Task} (h : Sent k k') (n : Nat) (st : BurstState) :
    Sent k { k' with xfers := k'.xfers.modify n fun x => { x with state := st } } := by
  obtain ⟨heq, hstop, hshape⟩ := h
  refine ⟨?_, hstop, ?_⟩
  · rw [heq]
  · exact (map_modify_of_eq (g := burstShape) (f := fun x => { x with state := st }) (fun _ => rfl) k'.xfers n).trans hshape

theorem sent_stopped {k k' : Task} (h : Sent k k') :
    Sent k (stopped (uncorrectable 0 (BitVec.allOnes 32) 0 0) k') := by
  obtain ⟨heq, hstop, hshape⟩ := h
  unfold stopped
  split
  · exact ⟨heq, hstop, hshape⟩
  · exact ⟨by rw [heq], .inr rfl, hshape⟩

/-- A burst's new state is written into its own task's record. -/
theorem setXfer_onlySends {s u : State} {k : Task} (h : OnlySends s k u) (n : Nat) (st : BurstState) :
    OnlySends s k (setXfer u k.uid n st) := by
  obtain ⟨hsram, hgroups, k', hfind, hsent⟩ := h
  have hmod := findTask_modTask_same (f := fun t => { t with xfers := t.xfers.modify n fun x => { x with state := st } })
    (fun _ => rfl) hfind
  have hstate := sent_state hsent n st
  unfold setXfer
  dsimp only
  split
  · exact ⟨hsram, hgroups, _, findTask_stopWith_same hmod _, sent_stopped hstate⟩
  · exact ⟨hsram, hgroups, _, hmod, hstate⟩

theorem sendXfer_onlySends {s u : State} {k : Task} (h : OnlySends s k u) (y : Nat × Xfer) :
    OnlySends s k (sendXfer k u y) := by
  unfold sendXfer
  refine setXfer_onlySends ?_ y.1 _
  rw [farBurst_frame]
  exact h

/-- R89: sending the bursts that may be sent changes the states of the task's bursts, and stops it at most. -/
theorem sendXfers_onlySends {s : State} {k : Task} (hfind : findTask s k.uid = some k) (hstop : k.stop = none) :
    OnlySends s k (sendXfers s k) := by
  have hfold : ∀ (ys : List (Nat × Xfer)) (u : State), OnlySends s k u → OnlySends s k (ys.foldl (sendXfer k) u) := by
    intro ys
    induction ys with
    | nil => exact fun _ h => h
    | cons y ys ih => exact fun u h => ih _ (sendXfer_onlySends h y)
  exact hfold _ s ⟨rfl, rfl, k, hfind, rfl, .inl hstop, rfl⟩

/-! ### The end of a task -/

/-- No record of a task has changed its state from `s` to `u`. -/
def StatesStay (s u : State) : Prop := ∀ id, (findTask u id).map (·.state) = (findTask s id).map (·.state)

theorem StatesStay.trans {s t u : State} (h : StatesStay s t) (h' : StatesStay t u) : StatesStay s u :=
  fun id => (h' id).trans (h id)

theorem statesStay_of_tasks {s u : State} (h : u.tasks = s.tasks) : StatesStay s u := fun id => by
  rw [findTask, findTask, h]

theorem statesStay_stopWith (s : State) (uid : Nat) (f : Frec) : StatesStay s (stopWith s uid f) := by
  intro id
  rw [stopWith_eq, findTask_modTask (stopped_uid f)]
  split
  · rw [Option.map_map]
    congr 1
    funext t
    show (stopped f t).state = t.state
    rw [stopped_frame]
  · rfl

theorem statesStay_foldl {α : Type} {g : State → α → State} (hg : ∀ s x, StatesStay s (g s x)) (l : List α) (s : State) :
    StatesStay s (l.foldl g s) := by
  induction l generalizing s with
  | nil => exact statesStay_of_tasks rfl
  | cons x l ih => exact (hg s x).trans (ih _)

theorem sectorWrite_statesStay (s : State) (w : Who) (step : Option Nat) (mine : List (Nat × Byte)) (sec : Nat) :
    StatesStay s (sectorWrite s w step mine sec) := by
  unfold sectorWrite
  split
  · refine statesStay_of_tasks ?_
    rw [sramWrite_frame, clearErrors_frame]
    split <;> rfl
  · split
    · exact StatesStay.trans (t := countBad s sec) (statesStay_of_tasks rfl) (statesStay_stopWith _ _ _)
    · refine statesStay_of_tasks ?_
      rw [sramWrite_frame, readSector_frame]

theorem counterUpdate_statesStay (s : State) (w : Who) (cell : Option Nat) (n code : Nat) :
    StatesStay s (counterUpdate s w cell n code) := by
  unfold counterUpdate
  split
  · exact statesStay_of_tasks rfl
  · exact (statesStay_foldl (fun s sec => sectorWrite_statesStay s w none _ sec) _ s).trans (statesStay_of_tasks rfl)

theorem releaseParties_statesStay (s : State) (task : Nat) : StatesStay s (releaseParties s task) := by
  unfold releaseParties
  split
  · split
    · refine statesStay_foldl (fun s x => statesStay_of_tasks ?_) _ s
      unfold releaseParty
      split
      · rfl
      · split <;> rfl
    · exact statesStay_of_tasks rfl
  · exact statesStay_of_tasks rfl

/-- A completion update changes no task's state. -/
theorem completion_statesStay (s : State) (t : Task) (code : Nat) : StatesStay s (completion s t code) := by
  unfold completion
  split
  · exact statesStay_of_tasks rfl
  · split
    · rename_i a p _ _
      unfold cellCompletion
      split
      · exact statesStay_of_tasks rfl
      · rename_i u hu
        split
        · rename_i x _
          obtain rfl := uid_of_findTask hu
          intro id
          by_cases hid : id = u.uid
          · subst hid
            have hput : findTask (putTask s (updateSaved u x.1 x.2 code)) u.uid = _ := findTask_putTask_same hu
            rw [hput, hu]
            rfl
          · rw [findTask_putTask_other (t := updateSaved u x.1 x.2 code) s hid]
        · split
          · exact (counterUpdate_statesStay _ _ _ _ _).trans (releaseParties_statesStay _ _)
          · exact statesStay_of_tasks rfl
    · exact statesStay_of_tasks rfl

/-- The record of a task stands and has ended. -/
def Ended (uid : Nat) (s : State) : Prop := (findTask s uid).map (·.state) = some .ended

theorem Ended.of_statesStay {uid : Nat} {s u : State} (h : Ended uid s) (hs : StatesStay s u) : Ended uid u :=
  (hs uid).trans h

/-- A cascade of cancellations leaves a task that has ended so (R258). -/
theorem cancelAll_ended {uid : Nat} (n : Nat) {s : State} (us : List Nat) (h : Ended uid s) : Ended uid (cancelAll n s us) := by
  induction n generalizing s us with
  | zero => exact h
  | succ n ih =>
    cases us with
    | nil => exact h
    | cons u us =>
      unfold cancelAll
      split
      · rename_i t ht
        split
        · refine ih _ (Ended.of_statesStay ?_ (completion_statesStay _ _ _))
          obtain rfl := uid_of_findTask ht
          by_cases hid : uid = t.uid
          · subst hid
            rw [Ended, findTask_putTask_same (t := { t with state := .ended, stop := some 0x15 }) ht]
            rfl
          · rwa [Ended, findTask_putTask_other (t := { t with state := .ended, stop := some 0x15 }) s hid]
        · exact ih us h
      · exact ih us h

/-- R258, R277: a task that is stopped has ended. -/
theorem endStopped_ended {s : State} {t : Task} (kind code : Nat) (hfind : findTask s t.uid = some t) :
    Ended t.uid (endStopped s t kind code) := by
  have hmark := findTask_modTask_same (f := fun x => { x with state := .ended, stop := some kind }) (fun _ => rfl) hfind
  have hfree : Ended t.uid (pruneInstances (freeTask
      (modTask s t.uid fun x => { x with state := .ended, stop := some kind }) t.uid)) := by
    have h := findTask_modTask_same (t := { t with state := .ended, stop := some kind })
      (f := fun t => { t with places := [], bases := [], adopted := [], reserves := [], block := none, replicas := [],
                              xfers := [], saved := none, saving := false, held := false }) (fun _ => rfl) hmark
    exact congrArg (Option.map (·.state)) h
  exact cancelAll_ended _ _ (hfree.of_statesStay (completion_statesStay _ _ _))

/-! ### The event -/

/-- R89: while bursts are missing, `TASK_STAGING` sends those that may be sent. -/
theorem taskStaging_sends {s : State} {k : Task} (hfind : findTask s k.uid = some k) (hadmitted : k.state = .admitted)
    (hstop : k.stop = none) (hdone : xfersDone s k = false) : ∃ t, exec (.taskStaging k.uid) s = .next t ∧ t.sram = s.sram ∧
      t.groups = s.groups ∧ ∃ k', findTask t k.uid = some k' ∧
        k' = { k with xfers := k'.xfers, stop := k'.stop, frec := k'.frec } ∧
        (k'.stop = none ∨ k'.stop = some 0x0B) ∧
        (k'.xfers.map fun x => (x.core, x.va, x.len, x.write, x.data)) =
          k.xfers.map fun x => (x.core, x.va, x.len, x.write, x.data) := by
  refine ⟨sendXfers s k, ?_, sendXfers_onlySends hfind hstop⟩
  show execTaskStaging k.uid s = _
  simp [execTaskStaging, hfind, hadmitted, hstop, hdone]

/-- R89: a task one of whose bursts has failed ends. -/
theorem taskStaging_fails {s : State} {k : Task} (hfind : findTask s k.uid = some k) (hadmitted : k.state = .admitted)
    (hstop : k.stop = none) (hdone : xfersDone s k = true) (hfailed : ∃ x ∈ k.xfers, xferFailed x = true) :
    ∃ t k', exec (.taskStaging k.uid) s = .next t ∧ findTask t k.uid = some k' ∧ k'.state = .ended := by
  obtain ⟨k', hk', hended⟩ := Option.map_eq_some_iff.mp (endStopped_ended 0 0x21 hfind)
  refine ⟨_, k', ?_, hk', hended⟩
  show execTaskStaging k.uid s = _
  have hany : k.xfers.any xferFailed = true := List.any_eq_true.mpr hfailed
  simp [execTaskStaging, hfind, hadmitted, hstop, hdone, hany]

/-- R89: a task whose bursts have all come without a failure starts. -/
theorem taskStaging_starts {s : State} {k : Task} (hfind : findTask s k.uid = some k) (hadmitted : k.state = .admitted)
    (hstop : k.stop = none) (hdone : xfersDone s k = true) (hgood : ∀ x ∈ k.xfers, xferFailed x = false) :
    exec (.taskStaging k.uid) s = .next (startTask s k) := by
  have hany : k.xfers.any xferFailed = false := List.any_eq_false.mpr fun x hx => by simp [hgood x hx]
  show execTaskStaging k.uid s = _
  simp [execTaskStaging, hfind, hadmitted, hstop, hdone, hany]

end Sys2Proof.StagingBursts
end

section
/-!
PROOF. Bytes of a region (R3, R89, R94, R304): lists of bytes by position, their conversion element by element, and the
bytes that a staging front end has read.
-/

namespace Sys2Proof.RegionBytes

open Sys2Proof Sys2Proof.Machine

/-! ### Lists in pieces of one length -/

/-- The element at `m * k + o` of a list in pieces of `m` is element `o` of piece `k`. -/
theorem getElem?_flatMap_pieces {α β : Type} {f : α → List β} {m : Nat} {l : List α} (hf : ∀ x ∈ l, (f x).length = m)
    {k o : Nat} (ho : o < m) : (l.flatMap f)[m * k + o]? = (l[k]?).bind fun x => (f x)[o]? := by
  induction l generalizing k with
  | nil => simp
  | cons x l ih =>
    have hx := hf x List.mem_cons_self
    rw [List.flatMap_cons]
    cases k with
    | zero =>
      rw [List.getElem?_append_left (by omega)]
      simp
    | succ k =>
      have hnext : m * (k + 1) + o = (f x).length + (m * k + o) := by rw [hx]; ring
      rw [hnext, List.getElem?_append_right (by omega), Nat.add_sub_cancel_left,
        ih fun y hy => hf y (List.mem_cons_of_mem x hy)]
      simp

theorem length_flatMap_pieces {α β : Type} {f : α → List β} {m : Nat} {l : List α} (hf : ∀ x ∈ l, (f x).length = m) :
    (l.flatMap f).length = l.length * m := by
  rw [List.length_flatMap, List.map_congr_left hf, List.map_const', List.sum_replicate, smul_eq_mul]

/-- Pieces of 64 in order are a list again. -/
theorem flatMap_pieces_eq_take {α : Type} (l : List α) (k : Nat) :
    ((List.range k).flatMap fun i => (l.drop (64 * i)).take 64) = l.take (64 * k) := by
  induction k with
  | zero => simp
  | succ k ih =>
    rw [List.range_succ, List.flatMap_append, ih, List.flatMap_singleton, Nat.mul_succ, List.take_add]

/-- Pieces of at most 64 each that stay within `n` make at most `n`. -/
theorem length_flatMap_le {α : Type} {f : Nat → List α} {n : Nat} (hf : ∀ i, (f i).length ≤ min 64 (n - 64 * i)) (k : Nat) :
    ((List.range k).flatMap f).length ≤ min (64 * k) n := by
  induction k with
  | zero => simp
  | succ k ih =>
    rw [List.range_succ, List.flatMap_append, List.flatMap_singleton, List.length_append]
    have := hf k
    omega

/-! ### Numbers and their bytes (R3) -/

@[simp] theorem bytesOfNat_length (n x : Nat) : (bytesOfNat n x).length = n := by simp [bytesOfNat]

theorem bytesOfNat_getElem? {n x o : Nat} (h : o < n) : (bytesOfNat n x)[o]? = some (byteAt x o) := by
  simp [bytesOfNat, h]

theorem toNat_byteAt (x o : Nat) : (byteAt x o).toNat = x / 2 ^ (8 * o) % 256 := by
  simp [byteAt]

/-- The word that reads a number's four bytes. -/
theorem wordAt_eq_of_bytes {m : Cells 8} {a x : Nat} (h : ∀ o, o < 4 → cellGet m (a + o) = byteAt x o) :
    wordAt m a = BitVec.ofNat 32 x := by
  have hbytes : bytesAt m a 4 = [byteAt x 0, byteAt x 1, byteAt x 2, byteAt x 3] := by
    simp [bytesAt, List.range_succ, h 1, h 2, h 3, ← h 0]
  apply BitVec.eq_of_toNat_eq
  rw [wordAt, hbytes]
  simp only [natOfBytes, toNat_byteAt, BitVec.toNat_ofNat]
  omega

/-! ### Conversion (R94) -/

/-- The bytes of one converted element. -/
theorem convBytes_getElem? {conv k o : Nat} {bs : List Byte} (hk : k < bs.length / (convSizes conv).1)
    (ho : o < (convSizes conv).2) : (convBytes conv bs)[(convSizes conv).2 * k + o]? =
      some (byteAt (convElem conv (natOfBytes ((bs.drop ((convSizes conv).1 * k)).take (convSizes conv).1))) o) := by
  rw [convBytes, getElem?_flatMap_pieces (fun _ _ => bytesOfNat_length _ _) ho, List.getElem?_range hk, Option.bind_some,
    bytesOfNat_getElem? ho]

theorem convBytes_length (conv : Nat) (bs : List Byte) :
    (convBytes conv bs).length = bs.length / (convSizes conv).1 * (convSizes conv).2 := by
  rw [convBytes, length_flatMap_pieces fun _ _ => bytesOfNat_length _ _, List.length_range]

/-- The conversions that exist: none, or one of the five of R94. -/
theorem convExists_cases {src dst : Ty} (h : convExists src dst = true) : src = dst ∨ (src = .f32 ∧ dst = .bf16) ∨
    (src = .bf16 ∧ dst = .f32) ∨ (src = .f32 ∧ dst = .e4m3) ∨ (src = .e4m3 ∧ dst = .bf16) ∨ (src = .f16 ∧ dst = .f32) := by
  simpa [convExists, convPairs] using h

/-- The far bytes of a region hold whole elements, as many as the region. -/
theorem conv_sizes {src dst : Ty} (h : convExists src dst = true) {n : Nat} (hn : n % 32 = 0) :
    n * tyBits src / tyBits dst / (convSizes (convBetween src dst)).1 * (convSizes (convBetween src dst)).2 = n := by
  rcases convExists_cases h with rfl | ⟨rfl, rfl⟩ | ⟨rfl, rfl⟩ | ⟨rfl, rfl⟩ | ⟨rfl, rfl⟩ | ⟨rfl, rfl⟩
  · have hpos : 0 < tyBits src := by cases src <;> decide
    simp [convBetween, convSizes, Nat.mul_div_cancel n hpos]
  all_goals
    simp [convBetween, convSizes, tyBits]
    omega

/-- R94: byte `o` of a converted image is what the conversion of the region's formats gives. -/
theorem convBytes_getD {src dst : Ty} (h : convExists src dst = true) {n : Nat} (hn : n % 32 = 0) {image : List Byte}
    (hlen : image.length = n * tyBits src / tyBits dst) {o : Nat} (ho : o < n) :
    (convBytes (convBetween src dst) image).getD o 0 = convertedByte src dst image o := by
  have hsizes := conv_sizes h hn
  rw [← hlen] at hsizes
  have hz : 0 < (convSizes (convBetween src dst)).2 := by
    rcases Nat.eq_zero_or_pos (convSizes (convBetween src dst)).2 with hz | hz
    · rw [hz, Nat.mul_zero] at hsizes
      omega
    · exact hz
  have hget := convBytes_getElem? (conv := convBetween src dst) (bs := image)
    (k := o / (convSizes (convBetween src dst)).2) (Nat.div_lt_of_lt_mul (by rw [Nat.mul_comm, hsizes]; exact ho))
    (Nat.mod_lt o hz)
  rw [Nat.div_add_mod] at hget
  rw [List.getD_eq_getElem?_getD, hget, Option.getD_some]
  rcases convExists_cases h with rfl | ⟨rfl, rfl⟩ | ⟨rfl, rfl⟩ | ⟨rfl, rfl⟩ | ⟨rfl, rfl⟩ | ⟨rfl, rfl⟩
  · have hin : o < image.length := by
      rw [hlen]
      have hpos : 0 < tyBits src := by cases src <;> decide
      rwa [Nat.mul_div_cancel n hpos]
    simp only [convBetween, convSizes, convElem, convertedByte, if_true]
    rw [Nat.div_one, Nat.one_mul, Nat.mod_one, List.drop_eq_getElem_cons hin, List.take_succ_cons, List.take_zero,
      List.getD_eq_getElem _ _ hin]
    simp [natOfBytes, byteAt]
  all_goals simp [convertedByte, convBetween, convSizes, convElem, tyBits, Nat.mul_comm]

/-! ### Staged bytes (R89) -/

/-- The bytes of piece `k` of a range that staging has read. -/
def stagedPiece (t : Task) (record core far n k : Nat) : List Byte :=
  match t.xfers.find? fun x => decide (x.record = record) && decide (x.core = core) && decide (x.va = far + 64 * k) && !x.write with
  | some x =>
    match x.state with
    | .got d => d.take (min 64 (n - 64 * k))
    | _ => []
  | none => []

theorem stagedBytes_pieces (t : Task) (record core far n : Nat) :
    stagedBytes t record core far n = (List.range ((n + 63) / 64)).flatMap (stagedPiece t record core far n) := rfl

/-- What staging has read of a range is no longer than the range. -/
theorem stagedBytes_length_le (t : Task) (record core far n : Nat) : (stagedBytes t record core far n).length ≤ n := by
  rw [stagedBytes_pieces]
  refine Nat.le_trans (length_flatMap_le (n := n) (fun k => ?_) _) (Nat.min_le_right _ _)
  unfold stagedPiece
  split
  · split
    · exact List.length_take_le _ _
    · exact Nat.zero_le _
  · exact Nat.zero_le _

/-- The bursts of an image have all come, each with its 64 bytes of it. -/
def ImageCome (t : Task) (record core far : Nat) (image : List Byte) : Prop :=
  (∀ m, 64 * m < image.length → ∃ x ∈ t.xfers, x.record = record ∧ x.core = core ∧ x.va = far + 64 * m ∧ x.write = false) ∧
  ∀ x ∈ t.xfers, ∀ m, x.record = record → x.core = core → x.va = far + 64 * m → x.write = false →
    x.state = .got ((image.drop (64 * m)).take 64)

theorem stagedPiece_eq {t : Task} {record core far k : Nat} {image : List Byte} (h : ImageCome t record core far image)
    (hk : 64 * k < image.length) :
    stagedPiece t record core far image.length k = (image.drop (64 * k)).take 64 := by
  obtain ⟨hcome, hdata⟩ := h
  obtain ⟨y, hy, hrec, hcore, hva, hwrite⟩ := hcome k hk
  rw [stagedPiece]
  cases hfind : t.xfers.find? fun x =>
      decide (x.record = record) && decide (x.core = core) && decide (x.va = far + 64 * k) && !x.write with
  | none => exact absurd (List.find?_eq_none.mp hfind y hy) (by simp [hrec, hcore, hva, hwrite])
  | some x =>
    have hx := List.find?_some hfind
    simp only [Bool.and_eq_true, decide_eq_true_eq, Bool.not_eq_true'] at hx
    obtain ⟨⟨⟨hrec, hcore⟩, hva⟩, hwrite⟩ := hx
    simp only [hdata x (List.mem_of_find?_eq_some hfind) k hrec hcore hva hwrite, List.take_take]
    rw [← List.length_drop, Nat.min_right_comm, Nat.min_self, List.take_eq_take_min]
    simp

/-- R89: once every burst of a range has come, what staging has read is the image. -/
theorem stagedBytes_eq {t : Task} {record core far : Nat} {image : List Byte} (h : ImageCome t record core far image) :
    stagedBytes t record core far image.length = image := by
  have hpieces : ∀ k ∈ List.range ((image.length + 63) / 64),
      stagedPiece t record core far image.length k = (image.drop (64 * k)).take 64 := fun k hk =>
    stagedPiece_eq h (by have := List.mem_range.mp hk; omega)
  rw [stagedBytes_pieces, List.flatMap_congr hpieces, flatMap_pieces_eq_take]
  exact List.take_of_length_le (by omega)

end Sys2Proof.RegionBytes
end

section
/-!
PROOF. Staging into slices (R10, R89, R91, R269, R304): what the writes of a staging front end do to the bytes, and what
the regions of a task hold once it starts.
-/

namespace Sys2Proof.StagingBytes

open Sys2Proof Sys2Proof.Machine Sys2Proof.Records Sys2Proof.RegionBytes

/-! ### Slices without errors -/

/-- The slices' bytes are in canonical form and no symbol is in error. -/
def Sound (s : State) : Prop := Memory.wf s.sram.mem = true ∧ ∀ sec, sectorErrors s sec = []

/-- From `s` to `u` only the slices and the stacks have changed. -/
def MemoryOnly (s u : State) : Prop := u = { s with sram := u.sram, dram := u.dram }

theorem MemoryOnly.trans {s t u : State} (h : MemoryOnly s t) (h' : MemoryOnly t u) : MemoryOnly s u := by
  unfold MemoryOnly at *
  rw [h', h]

theorem MemoryOnly.findTask {s u : State} (h : MemoryOnly s u) (id : Nat) : findTask u id = findTask s id := by
  unfold MemoryOnly at h
  rw [h]
  rfl

/-- A step of staging: it leaves the slices sound and changes nothing beside memory. -/
def Settles (s u : State) : Prop := Sound u ∧ MemoryOnly s u

theorem Settles.trans {s t u : State} (h : Settles s t) (h' : Settles t u) : Settles s u := ⟨h'.1, h.2.trans h'.2⟩

theorem settles_foldl {α : Type} {g : State → α → State} (hg : ∀ s x, Sound s → Settles s (g s x)) (l : List α) {s : State}
    (h : Sound s) : Settles s (l.foldl g s) := by
  induction l generalizing s with
  | nil => exact ⟨h, rfl⟩
  | cons x l ih => exact (hg s x h).trans (ih (hg s x h).1)

theorem cellGet_foldl {α : Type} {g : State → α → State} (hg : ∀ s x, Sound s → Settles s (g s x)) {l : List α} {i : Nat}
    (hi : ∀ s, ∀ x ∈ l, Sound s → cellGet (g s x).sram.mem i = cellGet s.sram.mem i) {s : State} (h : Sound s) :
    cellGet (l.foldl g s).sram.mem i = cellGet s.sram.mem i := by
  induction l generalizing s with
  | nil => rfl
  | cons x l ih =>
    rw [List.foldl_cons, ih (fun s y hy => hi s y (List.mem_cons_of_mem x hy)) (hg s x h).1, hi s x List.mem_cons_self h]

theorem sectorBad_of_sound {s : State} (h : Sound s) (sec : Nat) : sectorBad s sec = false := by
  simp [sectorBad, sectorOutcome, h.2 sec]

/-- Errors do not appear where flipped symbols are only forgotten. -/
theorem sectorErrors_of_flips {s u : State} (hslices : u.sram.slices = s.sram.slices)
    (hflips : u.sram.flips ⊆ s.sram.flips) {sec : Nat} (h : sectorErrors s sec = []) : sectorErrors u sec = [] := by
  have herasures : erasures u sec = erasures s sec := by simp only [erasures, sliceReg, hslices]
  simp only [sectorErrors, sectorFlips, List.dedup_eq_nil, List.map_eq_nil_iff, List.filter_eq_nil_iff] at h ⊢
  exact fun x hx => by rw [herasures]; exact h x (hflips hx)

theorem sound_of_flips {s u : State} (h : Sound s) (hwf : Memory.wf u.sram.mem = true)
    (hslices : u.sram.slices = s.sram.slices) (hflips : u.sram.flips ⊆ s.sram.flips) : Sound u :=
  ⟨hwf, fun sec => sectorErrors_of_flips hslices hflips (h.2 sec)⟩

/-! ### Bytes that are written -/

/-- `bs` stands from `a` on in `m'`, which is `m` elsewhere. -/
def Overwrites (m m' : Cells 8) (a : Nat) (bs : List Byte) : Prop :=
  ∀ i, cellGet m' i = if a ≤ i ∧ i < a + bs.length then bs.getD (i - a) 0 else cellGet m i

theorem Overwrites.outside {m m' : Cells 8} {a i : Nat} {bs : List Byte} (h : Overwrites m m' a bs)
    (hi : i < a ∨ a + bs.length ≤ i) : cellGet m' i = cellGet m i := by
  rw [h i, if_neg (by omega)]

theorem Overwrites.inside {m m' : Cells 8} {a o : Nat} {bs : List Byte} (h : Overwrites m m' a bs)
    (ho : o < bs.length) : cellGet m' (a + o) = bs.getD o 0 := by
  rw [h (a + o), if_pos (by omega), Nat.add_sub_cancel_left]

theorem mem_addressed {a : Nat} {bs : List Byte} {x : Nat × Byte} :
    x ∈ addressed a bs ↔ ∃ o, o < bs.length ∧ x = (a + o, bs.getD o 0) := by
  simp only [addressed, List.mem_mapIdx]
  refine exists_congr fun o => ⟨?_, ?_⟩
  · rintro ⟨ho, rfl⟩
    exact ⟨ho, by rw [List.getD_eq_getElem _ _ ho]⟩
  · rintro ⟨ho, rfl⟩
    exact ⟨ho, by rw [List.getD_eq_getElem _ _ ho]⟩

theorem addressed_nodup (a : Nat) (bs : List Byte) : ((addressed a bs).map (·.1)).Nodup := by
  have hkeys : (addressed a bs).map (·.1) = (List.range bs.length).map (a + ·) := by
    apply List.ext_getElem <;> simp [addressed]
  rw [hkeys]
  exact List.nodup_range.map fun x y h => by simpa using h

/-- A memory in which the named bytes, and no others, have been written. -/
theorem overwrites_of_addressed {m m' : Cells 8} {a : Nat} {bs : List Byte}
    (hin : ∀ x ∈ addressed a bs, cellGet m' x.1 = x.2)
    (hout : ∀ i, (∀ x ∈ addressed a bs, x.1 ≠ i) → cellGet m' i = cellGet m i) : Overwrites m m' a bs := by
  intro i
  split
  case isTrue h =>
    have hmem := mem_addressed (a := a) (bs := bs).mpr ⟨i - a, by omega, rfl⟩
    have hget := hin _ hmem
    simpa only [Nat.add_sub_cancel' h.1] using hget
  case isFalse h =>
    refine hout i fun x hx hxi => ?_
    obtain ⟨o, ho, rfl⟩ := mem_addressed.mp hx
    simp only at hxi
    omega

theorem overwrites_cellSetAll {m : Cells 8} (hm : Memory.wf m = true) (a : Nat) (bs : List Byte) :
    Overwrites m (cellSetAll m (addressed a bs)) a bs :=
  overwrites_of_addressed (cellGet_cellSetAll _ m hm (addressed_nodup a bs)) fun i => cellGet_cellSetAll_other _ m hm i

theorem overwrites_cellsClear (m : Cells 8) (a n : Nat) : Overwrites m (cellsClear m a n) a (List.replicate n 0) := by
  intro i
  rw [cellGet_cellsClear, List.length_replicate]
  split
  · rw [List.getD_eq_getElem _ _ (by rw [List.length_replicate]; omega), List.getElem_replicate]
  · rfl

/-! ### Whole ranges (R89, R135) -/

theorem foldl_countBad_frame (l : List Nat) (s : State) :
    l.foldl countBad s = { s with sram := { s.sram with slices := (l.foldl countBad s).sram.slices } } := by
  induction l generalizing s with
  | nil => rfl
  | cons x l ih => exact ih (countBad s x)

theorem freshRange_memoryOnly (s : State) (a n : Nat) (m : Cells 8) : MemoryOnly s (freshRange s a n m) := by
  unfold MemoryOnly freshRange
  rw [foldl_countBad_frame]

theorem freshRange_settles {s : State} (h : Sound s) (a n : Nat) {m : Cells 8} (hm : Memory.wf m = true) :
    Settles s (freshRange s a n m) := by
  have hbad : badIn s a n = [] := List.filter_eq_nil_iff.mpr fun sec _ => by simp [sectorBad_of_sound h sec]
  refine ⟨sound_of_flips h hm ?_ ?_, freshRange_memoryOnly s a n m⟩
  · simp only [freshRange, hbad, List.foldl_nil]
  · simp only [freshRange, hbad, List.foldl_nil]
    exact fun x hx => (List.mem_filter.mp hx).1

theorem stageWrite_settles {s : State} (h : Sound s) (a : Nat) (bs : List Byte) : Settles s (stageWrite s a bs) :=
  freshRange_settles h a bs.length (wf_cellSetAll _ _ h.1)

theorem stageZero_settles {s : State} (h : Sound s) (a n : Nat) : Settles s (stageZero s a n) :=
  freshRange_settles h a n (wf_cellsClear _ a n h.1)

theorem stageWrite_overwrites {s : State} (h : Sound s) (a : Nat) (bs : List Byte) :
    Overwrites s.sram.mem (stageWrite s a bs).sram.mem a bs :=
  overwrites_cellSetAll h.1 a bs

theorem stageZero_overwrites (s : State) (a n : Nat) :
    Overwrites s.sram.mem (stageZero s a n).sram.mem a (List.replicate n 0) :=
  overwrites_cellsClear s.sram.mem a n

/-! ### Parts of sectors (R135) -/

/-- In slices without errors one sector's bytes are written as they are. -/
theorem sectorWrite_sound {s : State} (h : Sound s) (w : Who) (mine : List (Nat × Byte)) (sec : Nat) :
    (sectorWrite s w none mine sec).sram.mem = cellSetAll s.sram.mem mine ∧ Settles s (sectorWrite s w none mine sec) := by
  have hread : readSector s sec = s := by simp [readSector, h.2 sec]
  unfold sectorWrite
  rw [sectorBad_of_sound h sec, hread]
  split
  · refine ⟨by simp, sound_of_flips h (by simpa using wf_cellSetAll _ _ h.1) ?_ ?_, ?_⟩
    · simp only [Bool.false_eq_true, if_false, sramWrite, clearErrors]
      split <;> rfl
    · simp only [Bool.false_eq_true, if_false, sramWrite, clearErrors]
      split
      · exact fun x hx => (List.mem_filter.mp hx).1
      · exact List.Subset.refl _
    · simp only [Bool.false_eq_true, if_false, MemoryOnly]
      rw [sramWrite_frame, clearErrors_frame]
  · exact ⟨rfl, sound_of_flips h (wf_cellSetAll _ _ h.1) rfl (List.Subset.refl _), rfl⟩

/-- The part of a write under the bank code that falls into some sectors. -/
theorem foldl_sectorWrite {w : Who} {ws : List (Nat × Byte)} (hn : (ws.map (·.1)).Nodup) (secs : List Nat) {s : State}
    (h : Sound s) :
    let u := secs.foldl (fun s sec => sectorWrite s w none (ws.filter fun x => decide (sectorOf x.1 = sec)) sec) s
    Settles s u ∧ (∀ i, (∀ x ∈ ws, sectorOf x.1 ∈ secs → x.1 ≠ i) → cellGet u.sram.mem i = cellGet s.sram.mem i) ∧
      ∀ x ∈ ws, sectorOf x.1 ∈ secs → cellGet u.sram.mem x.1 = x.2 := by
  induction secs generalizing s with
  | nil => exact ⟨⟨h, rfl⟩, fun _ _ => rfl, fun _ _ hin => absurd hin List.not_mem_nil⟩
  | cons sec secs ih =>
    obtain ⟨hmem, hsettles⟩ := sectorWrite_sound h w (ws.filter fun x => decide (sectorOf x.1 = sec)) sec
    obtain ⟨hrest, hout, hin⟩ := ih hsettles.1
    refine ⟨hsettles.trans hrest, fun i hi => ?_, fun x hx hsec => ?_⟩
    · rw [List.foldl_cons, hout i fun x hx hsec => hi x hx (List.mem_cons_of_mem sec hsec), hmem]
      refine cellGet_cellSetAll_other _ _ h.1 i fun x hx => ?_
      obtain ⟨hx, hxsec⟩ := List.mem_filter.mp hx
      exact hi x hx (List.mem_cons.mpr (.inl (of_decide_eq_true hxsec)))
    · by_cases hlater : sectorOf x.1 ∈ secs
      · exact hin x hx hlater
      · rw [List.foldl_cons, hout x.1 fun y _ hy hxy => hlater (hxy ▸ hy), hmem]
        have hxsec : sectorOf x.1 = sec := (List.mem_cons.mp hsec).resolve_right hlater
        exact cellGet_cellSetAll _ _ h.1 (List.Nodup.sublist (List.filter_sublist.map _) hn) x
          (List.mem_filter.mpr ⟨hx, decide_eq_true hxsec⟩)

theorem stagePart_spec {s : State} (h : Sound s) (t : Task) (a : Nat) (bs : List Byte) :
    Settles s (stagePart t s a bs) ∧ Overwrites s.sram.mem (stagePart t s a bs).sram.mem a bs := by
  obtain ⟨hsettles, hout, hin⟩ := foldl_sectorWrite (w := stagingWho t) (addressed_nodup a bs)
    (sectorsOf (addressed a bs)) h
  have hall : ∀ x ∈ addressed a bs, sectorOf x.1 ∈ sectorsOf (addressed a bs) := fun x hx =>
    List.mem_dedup.mpr (List.mem_map_of_mem hx)
  exact ⟨hsettles, overwrites_of_addressed (fun x hx => hin x hx (hall x hx)) fun i hi => hout i fun x hx _ => hi x hx⟩

theorem stagePart_settles {s : State} (h : Sound s) (t : Task) (a : Nat) (bs : List Byte) :
    Settles s (stagePart t s a bs) := (stagePart_spec h t a bs).1

/-! ### Relocated words (R89, R304) -/

/-- The bytes of a relocated word. -/
def relocBytes (t : Task) (y : Nat × Nat × Nat) : List Byte := bytesOfNat 4 (relocValue t.bases y.2.1 y.2.2)

/-- One relocated word of a region that stands at `a`. -/
def stageReloc (t : Task) (a : Nat) (s : State) (y : Nat × Nat × Nat) : State := stagePart t s (a + y.1) (relocBytes t y)

theorem stageRelocs_eq (t : Task) (a : Nat) (r : Region) (s : State) :
    stageRelocs t a r s = r.relocs.foldl (stageReloc t a) s := rfl

theorem relocBytes_length (t : Task) (y : Nat × Nat × Nat) : (relocBytes t y).length = 4 := bytesOfNat_length _ _

theorem stageReloc_settles (t : Task) (a : Nat) (s : State) (y : Nat × Nat × Nat) (h : Sound s) :
    Settles s (stageReloc t a s y) := stagePart_settles h t _ _

theorem stageReloc_overwrites {s : State} (h : Sound s) (t : Task) (a : Nat) (y : Nat × Nat × Nat) :
    Overwrites s.sram.mem (stageReloc t a s y).sram.mem (a + y.1) (relocBytes t y) := (stagePart_spec h t _ _).2

theorem stageRelocs_settles {s : State} (h : Sound s) (t : Task) (a : Nat) (r : Region) :
    Settles s (stageRelocs t a r s) := by
  rw [stageRelocs_eq]
  exact settles_foldl (stageReloc_settles t a) r.relocs h

theorem stageRelocs_outside {s : State} (h : Sound s) (t : Task) {a i : Nat} {r : Region}
    (hi : ∀ y ∈ r.relocs, i < a + y.1 ∨ a + y.1 + 4 ≤ i) :
    cellGet (stageRelocs t a r s).sram.mem i = cellGet s.sram.mem i := by
  rw [stageRelocs_eq]
  refine cellGet_foldl (stageReloc_settles t a) (fun s y hy h => ?_) h
  exact (stageReloc_overwrites h t a y).outside (by rw [relocBytes_length]; exact hi y hy)

/-- A word whose relocation meets no other reads as that relocation's value. -/
theorem foldl_stageReloc_inside {t : Task} {a o : Nat} {y : Nat × Nat × Nat} (ho : o < 4) {l : List (Nat × Nat × Nat)}
    (hl : ∀ z ∈ l, z ≠ y → z.1 + 4 ≤ y.1 ∨ y.1 + 4 ≤ z.1) {s : State} (h : Sound s)
    (hin : y ∈ l ∨ cellGet s.sram.mem (a + y.1 + o) = (relocBytes t y).getD o 0) :
    cellGet (l.foldl (stageReloc t a) s).sram.mem (a + y.1 + o) = (relocBytes t y).getD o 0 := by
  induction l generalizing s with
  | nil => exact hin.resolve_left List.not_mem_nil
  | cons z l ih =>
    have hover := stageReloc_overwrites h t a z
    refine ih (fun x hx => hl x (List.mem_cons_of_mem z hx)) (stageReloc_settles t a s z h).1 ?_
    by_cases hzy : z = y
    · subst hzy
      exact .inr (hover.inside (by rw [relocBytes_length]; exact ho))
    · refine hin.imp (fun hin => (List.mem_cons.mp hin).resolve_left fun e => hzy e.symm) fun hbyte => ?_
      have hapart := hl z List.mem_cons_self hzy
      rw [hover.outside (by rw [relocBytes_length]; omega)]
      exact hbyte

theorem wordAt_stageRelocs {s : State} (h : Sound s) {t : Task} {a b : Nat} {r : Region} {y : Nat × Nat × Nat}
    (hy : y ∈ r.relocs) (hother : ∀ z ∈ r.relocs, z ≠ y → z.1 + 4 ≤ y.1 ∨ y.1 + 4 ≤ z.1)
    (hbase : t.bases.getD y.2.1 none = some b) :
    wordAt (stageRelocs t a r s).sram.mem (a + y.1) = BitVec.ofNat 32 (b + y.2.2) := by
  have hvalue : relocValue t.bases y.2.1 y.2.2 = (b + y.2.2) % 2 ^ 32 := by rw [relocValue, hbase]; rfl
  rw [wordAt_eq_of_bytes (x := (b + y.2.2) % 2 ^ 32)]
  · exact BitVec.eq_of_toNat_eq (by simp)
  · intro o ho
    refine (foldl_stageReloc_inside ho hother h (.inl hy)).trans ?_
    rw [relocBytes, hvalue, List.getD_eq_getElem?_getD, bytesOfNat_getElem? ho, Option.getD_some]

end Sys2Proof.StagingBytes
end

section
/-!
PROOF. The start of a task (R9, R10, R22, R89, R91, R269, R304): what its scratch and its regions hold when its threads
may issue, and the threads themselves.
-/

namespace Sys2Proof.TaskStart

open Sys2Proof Sys2Proof.Machine Sys2Proof.Records Sys2Proof.Admitting Sys2Proof.RegionBytes Sys2Proof.StagingBytes
  Sys2Proof.PartyStart

/-! ### One region -/

/-- Region record `j` of a task is `r` and stands at `a`. -/
def Stands (t : Task) (j : Nat) (r : Region) (a : Nat) : Prop :=
  t.decl.regions[j]? = some r ∧ t.bases.getD j none = some a

/-- What the loader admits of a region that stands on a slice (R86, R87, R304). -/
def Loadable (r : Region) : Prop :=
  (r.kind = .immutable ∨ r.kind = .shared) ∧ r.size % 32 = 0 ∧ (r.reads = true → convExists r.dfmt r.sfmt = true) ∧
    ∀ y ∈ r.relocs, y.1 + 4 ≤ r.size

theorem farBytes_of_loadable {r : Region} (h : Loadable r) : r.farBytes = r.size * tyBits r.dfmt / tyBits r.sfmt := by
  rcases h.1 with hkind | hkind <;> simp [Region.farBytes, hkind]

/-- The bytes that staging writes for a region. -/
def regionImage (t : Task) (j : Nat) (r : Region) : List Byte :=
  convBytes (convBetween r.dfmt r.sfmt) (stagedBytes t j (stagingCore t j) r.far r.farBytes)

theorem regionImage_length_le {t : Task} {j : Nat} {r : Region} (h : Loadable r) (hreads : r.reads = true) :
    (regionImage t j r).length ≤ r.size := by
  have hread := stagedBytes_length_le t j (stagingCore t j) r.far r.farBytes
  have hsize := conv_sizes (h.2.2.1 hreads) h.2.1
  rw [← farBytes_of_loadable h] at hsize
  rw [regionImage, convBytes_length]
  calc _ ≤ r.farBytes / (convSizes (convBetween r.dfmt r.sfmt)).1 * (convSizes (convBetween r.dfmt r.sfmt)).2 :=
        Nat.mul_le_mul_right _ (Nat.div_le_div_right hread)
    _ = r.size := hsize

/-- What staging one region is: nothing without an address or where it is adopted, else its image or zeros. -/
theorem stageRegion_none {t : Task} {s : State} {x : Nat × Region} (h : t.bases.getD x.1 none = none) :
    stageRegion t s x = s := by
  rw [stageRegion, h]

theorem stageRegion_adopted {t : Task} {s : State} {j : Nat} {r : Region} (h : j ∈ t.adopted) :
    stageRegion t s (j, r) = s := by
  unfold stageRegion
  split
  · rfl
  · exact if_pos (List.contains_iff_mem.mpr h)

theorem stageRegion_image {t : Task} {s : State} {j a : Nat} {r : Region} (hbase : t.bases.getD j none = some a)
    (hadopted : j ∉ t.adopted) (hreads : r.reads = true) :
    stageRegion t s (j, r) = stageRelocs t a r (stageWrite s a (regionImage t j r)) := by
  rw [stageRegion, hbase]
  simp [hadopted, hreads, regionImage]

theorem stageRegion_zero {t : Task} {s : State} {j a : Nat} {r : Region} (hbase : t.bases.getD j none = some a)
    (hadopted : j ∉ t.adopted) (hreads : r.reads = false) : stageRegion t s (j, r) = stageZero s a r.size := by
  rw [stageRegion, hbase]
  simp [hadopted, hreads]

/-- The four cases of staging a region. -/
theorem stageRegion_cases {P : State → Prop} {t : Task} {s : State} (x : Nat × Region) (hstay : P s)
    (himage : ∀ a, t.bases.getD x.1 none = some a → x.2.reads = true →
      P (stageRelocs t a x.2 (stageWrite s a (regionImage t x.1 x.2))))
    (hzero : ∀ a, t.bases.getD x.1 none = some a → x.2.reads = false → P (stageZero s a x.2.size)) :
    P (stageRegion t s x) := by
  cases hbase : t.bases.getD x.1 none with
  | none => rwa [stageRegion_none hbase]
  | some a =>
    by_cases hadopted : x.1 ∈ t.adopted
    · rwa [stageRegion_adopted hadopted]
    · cases hreads : x.2.reads with
      | true => rw [stageRegion_image hbase hadopted hreads]; exact himage a hbase hreads
      | false => rw [stageRegion_zero hbase hadopted hreads]; exact hzero a hbase hreads

theorem stageRegion_settles (t : Task) (s : State) (x : Nat × Region) (h : Sound s) : Settles s (stageRegion t s x) :=
  stageRegion_cases x ⟨h, rfl⟩
    (fun a _ _ => (stageWrite_settles h a _).trans (stageRelocs_settles (stageWrite_settles h a _).1 t a x.2))
    fun a _ _ => stageZero_settles h a x.2.size

/-- Staging a region leaves the bytes outside it. -/
theorem stageRegion_outside {t : Task} {s : State} {x : Nat × Region} {i : Nat} (h : Sound s)
    (hx : ∀ a, t.bases.getD x.1 none = some a → Loadable x.2 ∧ (i < a ∨ a + x.2.size ≤ i)) :
    cellGet (stageRegion t s x).sram.mem i = cellGet s.sram.mem i := by
  refine stageRegion_cases (P := fun u => cellGet u.sram.mem i = cellGet s.sram.mem i) x rfl
    (fun a hbase hreads => ?_) fun a hbase _ => ?_
  · obtain ⟨hload, hi⟩ := hx a hbase
    have hlen := regionImage_length_le (t := t) (j := x.1) hload hreads
    rw [stageRelocs_outside (stageWrite_settles h a _).1 t fun y hy => by have := hload.2.2.2 y hy; omega]
    exact (stageWrite_overwrites h a _).outside (by omega)
  · obtain ⟨_, hi⟩ := hx a hbase
    exact (stageZero_overwrites s a x.2.size).outside (by rwa [List.length_replicate])

/-! ### All regions -/

/-- Every region of a task is staged. -/
def stageRegions (t : Task) (s : State) : State := (t.decl.regions.mapIdx fun k r => (k, r)).foldl (stageRegion t) s

theorem stageRegions_settles (t : Task) {s : State} (h : Sound s) : Settles s (stageRegions t s) :=
  settles_foldl (stageRegion_settles t) _ h

theorem stageRegions_outside {t : Task} {s : State} {i : Nat} (h : Sound s) (hload : ∀ j r a, Stands t j r a → Loadable r)
    (hi : ∀ j r a, Stands t j r a → i < a ∨ a + r.size ≤ i) :
    cellGet (stageRegions t s).sram.mem i = cellGet s.sram.mem i := by
  refine cellGet_foldl (stageRegion_settles t) (fun s x hx h => stageRegion_outside h fun a hbase => ?_) h
  have hstands : Stands t x.1 x.2 a := ⟨mem_numbered.mp hx, hbase⟩
  exact ⟨hload _ _ _ hstands, hi _ _ _ hstands⟩

/-- Two regions share no byte. -/
def RegionsApart (r : Region) (a : Nat) (r' : Region) (a' : Nat) : Prop := a + r.size ≤ a' ∨ a' + r'.size ≤ a

/-- A region that meets no other holds, once all are staged, what its own staging has left there; before that its bytes
stand as they stood. -/
theorem stageRegions_inside {t : Task} {s : State} (h : Sound s) (hload : ∀ j r a, Stands t j r a → Loadable r) {j a : Nat}
    {r : Region} (hstands : Stands t j r a) (hother : ∀ i r' a', Stands t i r' a' → i ≠ j → RegionsApart r a r' a') :
    ∃ u, Sound u ∧ (∀ o, o < r.size → cellGet u.sram.mem (a + o) = cellGet s.sram.mem (a + o)) ∧
      ∀ o, o < r.size →
        cellGet (stageRegions t s).sram.mem (a + o) = cellGet (stageRegion t u (j, r)).sram.mem (a + o) := by
  obtain ⟨before, after, hsplit⟩ := List.append_of_mem ((mem_numbered (x := (j, r))).mpr hstands.1)
  have hnodup := numbered_nodup t.decl.regions
  rw [hsplit, List.nodup_append, List.nodup_cons] at hnodup
  obtain ⟨_, ⟨hafter, _⟩, hbefore⟩ := hnodup
  have hmiss : ∀ x ∈ before ++ after, ∀ o, o < r.size → ∀ u, Sound u →
      cellGet (stageRegion t u x).sram.mem (a + o) = cellGet u.sram.mem (a + o) := by
    intro x hx o ho u hu
    have hin : x ∈ t.decl.regions.mapIdx fun k r => (k, r) := by
      rw [hsplit]
      rcases List.mem_append.mp hx with hx | hx
      · exact List.mem_append_left _ hx
      · exact List.mem_append_right _ (List.mem_cons_of_mem _ hx)
    have hne : x.1 ≠ j := by
      rintro rfl
      have hr : x.2 = r := Option.some.inj ((mem_numbered.mp hin).symm.trans hstands.1)
      rcases List.mem_append.mp hx with hx | hx
      · exact hbefore x hx (x.1, r) List.mem_cons_self (by rw [← hr])
      · exact hafter (by rw [← hr]; exact hx)
    refine stageRegion_outside hu fun a' hbase => ?_
    have hstands' : Stands t x.1 x.2 a' := ⟨mem_numbered.mp hin, hbase⟩
    have hdis := hother _ _ _ hstands' hne
    exact ⟨hload _ _ _ hstands', by unfold RegionsApart at hdis; omega⟩
  have hu := settles_foldl (stageRegion_settles t) before h
  refine ⟨before.foldl (stageRegion t) s, hu.1, fun o ho => ?_, fun o ho => ?_⟩
  · exact cellGet_foldl (stageRegion_settles t) (fun u x hx hu => hmiss x (List.mem_append_left _ hx) o ho u hu) h
  · rw [stageRegions, hsplit, List.foldl_append, List.foldl_cons]
    exact cellGet_foldl (stageRegion_settles t) (fun u x hx hu => hmiss x (List.mem_append_right _ hx) o ho u hu)
      (stageRegion_settles t _ (j, r) hu.1).1

section OneRegion

variable {t : Task} {s : State} (h : Sound s) (hload : ∀ j r a, Stands t j r a → Loadable r) {j a : Nat} {r : Region}
  (hstands : Stands t j r a) (hother : ∀ i r' a', Stands t i r' a' → i ≠ j → RegionsApart r a r' a')
include h hload hstands hother

/-- R91: an adopted region keeps its bytes. -/
theorem stageRegions_adopted (hadopted : j ∈ t.adopted) {o : Nat} (ho : o < r.size) :
    cellGet (stageRegions t s).sram.mem (a + o) = cellGet s.sram.mem (a + o) := by
  obtain ⟨u, _, hstood, hstaged⟩ := stageRegions_inside h hload hstands hother
  rw [hstaged o ho, stageRegion_adopted hadopted, hstood o ho]

/-- R89: a region that is not read by staging is zero. -/
theorem stageRegions_zero (hadopted : j ∉ t.adopted) (hreads : r.reads = false) {o : Nat} (ho : o < r.size) :
    cellGet (stageRegions t s).sram.mem (a + o) = 0 := by
  obtain ⟨u, _, _, hstaged⟩ := stageRegions_inside h hload hstands hother
  rw [hstaged o ho, stageRegion_zero hstands.2 hadopted hreads,
    (stageZero_overwrites u a r.size).inside (by rwa [List.length_replicate]),
    List.getD_eq_getElem _ _ (by rwa [List.length_replicate]), List.getElem_replicate]

/-- R89, R94, R304: a region that staging has read holds its image, converted, with its relocated words. -/
theorem stageRegions_image (hadopted : j ∉ t.adopted) (hreads : r.reads = true) {image : List Byte}
    (hlen : image.length = r.size * tyBits r.dfmt / tyBits r.sfmt) (hcome : ImageCome t j (sliceOf a) r.far image) :
    (∀ o, o < r.size → (∀ y ∈ r.relocs, o < y.1 ∨ y.1 + 4 ≤ o) →
      cellGet (stageRegions t s).sram.mem (a + o) = convertedByte r.dfmt r.sfmt image o) ∧
    ∀ y ∈ r.relocs, (∀ z ∈ r.relocs, z ≠ y → z.1 + 4 ≤ y.1 ∨ y.1 + 4 ≤ z.1) →
      ∀ b, t.bases.getD y.2.1 none = some b →
        wordAt (stageRegions t s).sram.mem (a + y.1) = BitVec.ofNat 32 (b + y.2.2) := by
  obtain ⟨u, hu, _, hstaged⟩ := stageRegions_inside h hload hstands hother
  have hr := hload j r a hstands
  rw [stageRegion_image hstands.2 hadopted hreads] at hstaged
  have himage : regionImage t j r = convBytes (convBetween r.dfmt r.sfmt) image := by
    have hcore : stagingCore t j = sliceOf a := by rw [stagingCore, hstands.2]
    rw [regionImage, hcore, farBytes_of_loadable hr, ← hlen, stagedBytes_eq hcome]
  have hwritten := (stageWrite_settles hu a (regionImage t j r)).1
  constructor
  · intro o ho hclear
    have hbytes : (convBytes (convBetween r.dfmt r.sfmt) image).length = r.size := by
      rw [convBytes_length, hlen, conv_sizes (hr.2.2.1 hreads) hr.2.1]
    rw [hstaged o ho, stageRelocs_outside hwritten t fun y hy => by have := hclear y hy; omega,
      (stageWrite_overwrites hu a _).inside (by rw [himage, hbytes]; exact ho), himage]
    exact convBytes_getD (hr.2.2.1 hreads) hr.2.1 hlen ho
  · intro y hy hapart b hbase
    have hfits := hr.2.2.2 y hy
    have hword := wordAt_stageRelocs hwritten (t := t) (a := a) hy hapart hbase
    rw [← hword, wordAt, wordAt]
    congr 2
    refine List.map_congr_left fun o ho => ?_
    have := List.mem_range.mp ho
    rw [Nat.add_assoc]
    exact hstaged (y.1 + o) (by omega)

end OneRegion

/-! ### Scratch, tables and arguments -/

/-- The scratch of every party is cleared (R10). -/
def zeroScratch (t : Task) (s : State) : State :=
  t.places.foldl (fun s x => stageZero s (x.core * 2 ^ 23 + x.base) t.decl.scratch) s

theorem zeroScratch_frame (t : Task) (s : State) : MemoryOnly s (zeroScratch t s) := by
  unfold zeroScratch
  generalize t.places = xs
  induction xs generalizing s with
  | nil => rfl
  | cons x xs ih => exact (freshRange_memoryOnly s _ _ _).trans (ih _)

theorem zeroScratch_settles (t : Task) {s : State} (h : Sound s) : Settles s (zeroScratch t s) :=
  settles_foldl (fun _ _ h => stageZero_settles h _ _) t.places h

theorem zeroScratch_outside {t : Task} {s : State} {i : Nat}
    (hi : ∀ x ∈ t.places, i < x.core * 2 ^ 23 + x.base ∨ x.core * 2 ^ 23 + x.base + t.decl.scratch ≤ i) :
    cellGet (zeroScratch t s).sram.mem i = cellGet s.sram.mem i := by
  unfold zeroScratch
  generalize t.places = xs at hi ⊢
  induction xs generalizing s with
  | nil => rfl
  | cons x xs ih =>
    rw [List.foldl_cons, ih fun y hy => hi y (List.mem_cons_of_mem x hy)]
    exact (stageZero_overwrites s _ _).outside (by rw [List.length_replicate]; exact hi x List.mem_cons_self)

theorem zeroScratch_inside {t : Task} {s : State} {x : PartyPlace} (hx : x ∈ t.places) {o : Nat} (ho : o < t.decl.scratch) :
    cellGet (zeroScratch t s).sram.mem (x.core * 2 ^ 23 + x.base + o) = 0 := by
  have hstep : ∀ (u : State) (a i : Nat), cellGet (stageZero u a t.decl.scratch).sram.mem i = 0 ∨
      cellGet (stageZero u a t.decl.scratch).sram.mem i = cellGet u.sram.mem i := by
    intro u a i
    rw [show (stageZero u a t.decl.scratch).sram.mem = cellsClear u.sram.mem a t.decl.scratch from rfl, cellGet_cellsClear]
    exact ite_eq_or_eq ..
  have hfold : ∀ (xs : List PartyPlace) (u : State), x ∈ xs ∨ cellGet u.sram.mem (x.core * 2 ^ 23 + x.base + o) = 0 →
      cellGet (xs.foldl (fun s x => stageZero s (x.core * 2 ^ 23 + x.base) t.decl.scratch) u).sram.mem
        (x.core * 2 ^ 23 + x.base + o) = 0 := by
    intro xs
    induction xs with
    | nil => exact fun u hu => hu.resolve_left List.not_mem_nil
    | cons y xs ih =>
      intro u hu
      refine ih _ ?_
      by_cases hxy : x = y
      · subst hxy
        right
        rw [(stageZero_overwrites u _ _).inside (by rwa [List.length_replicate]),
          List.getD_eq_getElem _ _ (by rwa [List.length_replicate]), List.getElem_replicate]
      · refine hu.imp (fun hin => (List.mem_cons.mp hin).resolve_left hxy) fun hzero => ?_
        rcases hstep u (y.core * 2 ^ 23 + y.base) (x.core * 2 ^ 23 + x.base + o) with heq | heq
        · exact heq
        · exact heq.trans hzero
  exact hfold t.places s (.inl hx)

/-- Placing tables changes the stacks alone (R73 to R75). -/
theorem placeTables_frame (t : Task) (s : State) : placeTables t s = { s with dram := (placeTables t s).dram } := by
  unfold placeTables
  split
  · rfl
  · generalize List.filter _ _ = xs
    induction xs generalizing s with
    | nil => rfl
    | cons x xs ih => exact ih { s with dram := _ }

/-- The memory with which a task starts: scratch, regions, tables and launch arguments. -/
def staged (t : Task) (s : State) : State := stageArgs t (placeTables t (stageRegions t (zeroScratch t s)))

theorem staged_noArgs {t : Task} (h : t.args = none) (s : State) :
    staged t s = placeTables t (stageRegions t (zeroScratch t s)) := by
  rw [staged, stageArgs, h]

theorem placeTables_settles (t : Task) {s : State} (h : Sound s) : Settles s (placeTables t s) := by
  rw [placeTables_frame]
  exact ⟨h, rfl⟩

theorem placeTables_mem (t : Task) (s : State) : (placeTables t s).sram.mem = s.sram.mem := by
  rw [placeTables_frame]

theorem stageArgs_settles (t : Task) {s : State} (h : Sound s) : Settles s (stageArgs t s) := by
  unfold stageArgs
  split
  · exact stagePart_settles h t _ _
  · exact ⟨h, rfl⟩

theorem unargued_settles (t : Task) {s : State} (h : Sound s) :
    Settles s (placeTables t (stageRegions t (zeroScratch t s))) := by
  have hzero := zeroScratch_settles t h
  have hregions := stageRegions_settles t hzero.1
  exact (hzero.trans hregions).trans (placeTables_settles t hregions.1)

theorem staged_settles (t : Task) {s : State} (h : Sound s) : Settles s (staged t s) :=
  (unargued_settles t h).trans (stageArgs_settles t (unargued_settles t h).1)

/-- R269: the launch arguments stand at the start of record 0's region. -/
theorem staged_args {t : Task} {s : State} (h : Sound s) {ws : List Word} {a : Nat} (hargs : t.args = some ws)
    (hlen : ws.length = 4) (hbase : t.bases.head? = some (some a)) {j : Nat} (hj : j < 4) :
    wordAt (staged t s).sram.mem (a + 4 * j) = ws.getD j 0 := by
  have hsound := (unargued_settles t h).1
  have hover := (stagePart_spec hsound t a (ws.flatMap fun w => bytesOfNat 4 w.toNat)).2
  have hstaged : staged t s = stagePart t (placeTables t (stageRegions t (zeroScratch t s))) a
      (ws.flatMap fun w => bytesOfNat 4 w.toNat) := by
    rw [staged, stageArgs, hargs, hbase]
  have hpieces : ∀ w ∈ ws, (bytesOfNat 4 (BitVec.toNat w)).length = 4 := fun _ _ => bytesOfNat_length _ _
  have hget : ws[j]? = some (ws.getD j 0) := by
    rw [List.getD_eq_getElem _ _ (by omega), List.getElem?_eq_getElem]
  rw [hstaged, wordAt_eq_of_bytes (x := (ws.getD j 0).toNat)]
  · simp
  · intro o ho
    rw [Nat.add_assoc, hover.inside (by rw [length_flatMap_pieces hpieces, hlen]; omega), List.getD_eq_getElem?_getD,
      getElem?_flatMap_pieces hpieces ho, hget, Option.bind_some, bytesOfNat_getElem? ho, Option.getD_some]

/-! ### Threads -/

/-- Group `y` runs thread `j` of the party at `x` from the entry on. -/
def RunsThread (t : Task) (x : PartyPlace) (j : Nat) (y : Group) : Prop :=
  y.task = t.uid ∧ y.party = x.index ∧ y.core = x.core ∧ y.handler = none ∧
  (∃ r, y.paths = [r] ∧ r.pc = t.decl.entry) ∧
  ∃ u ∈ y.lanes, u = newThread (BitVec.ofNat 32 (x.index * t.decl.partySize + j)) j t.decl.trap

/-- A party's group of number `j / width` runs its thread `j`. -/
theorem runsThread_of_startsAs {t : Task} {x : PartyPlace} {j : Nat} {y : Group} (hw : 0 < t.decl.width)
    (hj : j < t.decl.partySize) (h : StartsAs t x (j / t.decl.width) y) : RunsThread t x j y := by
  obtain ⟨gid, pid, active, now, rfl⟩ := h
  have hsum : j / t.decl.width * t.decl.width + j % t.decl.width = j := Nat.div_add_mod' j t.decl.width
  have hlane := laneOf_startGroup_thread (x := x) gid pid active now (Nat.mod_lt j hw) (by rw [hsum]; exact hj)
  rw [hsum] at hlane
  have hlt : j % t.decl.width < (startGroup t x (j / t.decl.width) gid pid active now).lanes.length := by
    rw [startGroup_lanes_length]
    exact Nat.mod_lt j hw
  refine ⟨rfl, rfl, rfl, rfl, ⟨_, rfl, rfl⟩, _, List.getElem_mem hlt, ?_⟩
  rw [← hlane, laneOf, List.getElem?_eq_getElem hlt, Option.getD_some]

/-- A party that starts runs each of its threads. -/
theorem startParty_runs (t : Task) (s : State) (x : PartyPlace) :
    ∃ new fresh, startParty t s x = { s with groups := s.groups ++ new, fresh := fresh } ∧
      ∀ j, j < t.decl.partySize → 0 < t.decl.width → ∃ y ∈ new, RunsThread t x j y := by
  obtain ⟨new, hnew, hstart⟩ := startParty_appends t s x
  refine ⟨new, _, hstart, fun j hj hw => ?_⟩
  have hcount : j / t.decl.width < groupCount t.decl := by
    have hstep : (j + t.decl.width) / t.decl.width ≤ (t.decl.partySize + t.decl.width - 1) / t.decl.width :=
      Nat.div_le_div_right (by omega)
    rw [Nat.add_div_right _ hw] at hstep
    exact hstep
  have hlt : j / t.decl.width < new.length := by rw [← hnew.length_eq, List.length_range]; exact hcount
  have hget := hnew.get (i := j / t.decl.width) (by rw [List.length_range]; exact hcount) hlt
  exact ⟨_, List.getElem_mem hlt, runsThread_of_startsAs hw hj (by simpa using hget)⟩

theorem startParties_run (t : Task) (xs : List PartyPlace) (s : State) :
    ∃ new fresh, xs.foldl (startParty t) s = { s with groups := s.groups ++ new, fresh := fresh } ∧
      ∀ x ∈ xs, ∀ j, j < t.decl.partySize → 0 < t.decl.width → ∃ y ∈ new, RunsThread t x j y := by
  induction xs generalizing s with
  | nil => exact ⟨[], s.fresh, by simp, by simp⟩
  | cons x xs ih =>
    obtain ⟨new, fresh, hstart, hruns⟩ := startParty_runs t s x
    obtain ⟨rest, fresh', hrest, hall⟩ := ih { s with groups := s.groups ++ new, fresh := fresh }
    refine ⟨new ++ rest, fresh', ?_, fun z hz j hj hw => ?_⟩
    · rw [List.foldl_cons, hstart, hrest]
      simp only [List.append_assoc]
    · rcases List.mem_cons.mp hz with rfl | hz
      · obtain ⟨y, hy, hrun⟩ := hruns j hj hw
        exact ⟨y, List.mem_append_left _ hy, hrun⟩
      · obtain ⟨y, hy, hrun⟩ := hall z hz j hj hw
        exact ⟨y, List.mem_append_right _ hy, hrun⟩

/-! ### The start -/

/-- The record of a task that starts. -/
def started (t : Task) : Task :=
  { t with state := .running, xfers := [], replicas := if t.block.isSome then tractsOf t else [] }

/-- A task that starts runs with the memory that was staged and with all its threads. -/
theorem startTask_runs {t : Task} {s : State} (hfind : findTask s t.uid = some t) (hmem : MemoryOnly s (staged t s)) :
    findTask (startTask s t) t.uid = some (started t) ∧ (startTask s t).sram.mem = (staged t s).sram.mem ∧
      (0 < t.decl.width → ∀ x ∈ t.places, ∀ j, j < t.decl.partySize → ∃ y ∈ (startTask s t).groups, RunsThread t x j y) := by
  have hmark := findTask_modTask_same (f := fun t =>
    { t with state := .running, xfers := [], replicas := if t.block.isSome then tractsOf t else [] }) (fun _ => rfl)
    ((hmem.findTask t.uid).trans hfind)
  obtain ⟨new, fresh, hstart, hruns⟩ := startParties_run t t.places (modTask (staged t s) t.uid fun t =>
    { t with state := .running, xfers := [], replicas := if t.block.isSome then tractsOf t else [] })
  have heq : startTask s t = _ := hstart
  rw [heq]
  refine ⟨hmark, rfl, fun hw x hx j hj => ?_⟩
  obtain ⟨y, hy, hrun⟩ := hruns x hx j hj hw
  exact ⟨y, List.mem_append_right _ hy, hrun⟩

end Sys2Proof.TaskStart
end

section
/-!
PROOF. The events of scheduling (R10, R89, R91, R94, R252, R260 to R263, R266, R269, R304): `TASK_STAGING` when every burst
has come, and the statement as a whole.
-/

namespace Sys2Proof.Scheduling

open Sys2Proof Sys2Proof.Machine Sys2Proof.Records Sys2Proof.Queues Sys2Proof.Placing Sys2Proof.Admitting
  Sys2Proof.StagingBursts Sys2Proof.RegionBytes Sys2Proof.StagingBytes Sys2Proof.TaskStart

section Staging

variable {s : State} {k : Task} (hfind : findTask s k.uid = some k) (hadmitted : k.state = .admitted)
  (hstop : k.stop = none) (hdone : xfersDone s k = true) (hgood : ∀ x ∈ k.xfers, xferFailed x = false)
include hfind hadmitted hstop hdone hgood

/-- R10: a task without regions and arguments starts with its scratch zero. -/
theorem taskStaging_bare (hregions : k.decl.regions = []) (hargs : k.args = none) (hw : 0 < k.decl.width) :
    ∃ t k', exec (.taskStaging k.uid) s = .next t ∧
      findTask t k.uid = some k' ∧ k'.state = .running ∧ k'.xfers = [] ∧
      (∀ x ∈ k.places, ∀ o, o < k.decl.scratch → cellGet t.sram.mem (x.core * 2 ^ 23 + x.base + o) = 0) ∧
      ∀ x ∈ k.places, ∀ j, j < k.decl.partySize → ∃ y ∈ t.groups, RunsThread k x j y := by
  have hstaged : staged k s = placeTables k (zeroScratch k s) := by
    rw [staged_noArgs hargs, stageRegions, hregions]
    rfl
  have hmemory : MemoryOnly s (staged k s) := by
    rw [hstaged, placeTables_frame]
    exact (zeroScratch_frame k s).trans rfl
  obtain ⟨hrecord, hmem, hruns⟩ := startTask_runs hfind hmemory
  refine ⟨startTask s k, started k, taskStaging_starts hfind hadmitted hstop hdone hgood, hrecord, rfl, rfl,
    fun x hx o ho => ?_, hruns hw⟩
  rw [hmem, hstaged, placeTables_mem]
  exact zeroScratch_inside hx ho

omit hfind hadmitted hstop hdone hgood in
/-- Staging reads the regions of kind 0, and those of kind 1 with IN (R86, R87). -/
theorem reads_iff {r : Region} (hkind : r.kind = .immutable ∨ r.kind = .shared) :
    r.reads = true ↔ r.kind = .immutable ∨ r.stageIn = true := by
  rcases hkind with h | h <;> simp [Region.reads, h]

/-- R10, R89, R91, R94, R304: a task with regions starts with its scratch zero and each region as staging leaves it. -/
theorem taskStaging_regions (hargs : k.args = none) (hw : 0 < k.decl.width) (hsound : Sound s)
    (hload : ∀ j r a, Stands k j r a → (r.kind = .immutable ∨ r.kind = .shared) ∧ r.size % 32 = 0 ∧
      (r.kind = .immutable ∨ r.stageIn = true → convExists r.dfmt r.sfmt = true) ∧ ∀ y ∈ r.relocs, y.1 + 4 ≤ r.size) :
    ∃ t k', exec (.taskStaging k.uid) s = .next t ∧
      findTask t k.uid = some k' ∧ k'.state = .running ∧ k'.xfers = [] ∧ k'.bases = k.bases ∧
      (∀ x ∈ k.places, (∀ j r a, Stands k j r a → a + r.size ≤ x.core * 2 ^ 23 + x.base ∨
          x.core * 2 ^ 23 + x.base + k.decl.scratch ≤ a) → ∀ o, o < k.decl.scratch →
        cellGet t.sram.mem (x.core * 2 ^ 23 + x.base + o) = 0) ∧
      (∀ x ∈ k.places, ∀ j, j < k.decl.partySize → ∃ y ∈ t.groups, RunsThread k x j y) ∧
      ∀ j r a, Stands k j r a →
        (∀ i r' a', Stands k i r' a' → i ≠ j → a + r.size ≤ a' ∨ a' + r'.size ≤ a) →
        (∀ x ∈ k.places, a + r.size ≤ x.core * 2 ^ 23 + x.base ∨ x.core * 2 ^ 23 + x.base + k.decl.scratch ≤ a) →
        (j ∈ k.adopted → ∀ o, o < r.size → cellGet t.sram.mem (a + o) = cellGet s.sram.mem (a + o)) ∧
        (j ∉ k.adopted → ¬ (r.kind = .immutable ∨ r.stageIn = true) → ∀ o, o < r.size →
          cellGet t.sram.mem (a + o) = 0) ∧
        (j ∉ k.adopted → r.kind = .immutable ∨ r.stageIn = true →
          ∀ image : List Byte, image.length = r.size * tyBits r.dfmt / tyBits r.sfmt →
          (∀ m, 64 * m < image.length → ∃ x ∈ k.xfers, x.record = j ∧ x.core = sliceOf a ∧ x.va = r.far + 64 * m ∧
            x.write = false) →
          (∀ x ∈ k.xfers, ∀ m, x.record = j → x.core = sliceOf a → x.va = r.far + 64 * m → x.write = false →
            x.state = .got ((image.drop (64 * m)).take 64)) →
          (∀ o, o < r.size → (∀ y ∈ r.relocs, o < y.1 ∨ y.1 + 4 ≤ o) →
            cellGet t.sram.mem (a + o) = convertedByte r.dfmt r.sfmt image o) ∧
          ∀ y ∈ r.relocs, (∀ z ∈ r.relocs, z ≠ y → z.1 + 4 ≤ y.1 ∨ y.1 + 4 ≤ z.1) →
            ∀ b, k.bases.getD y.2.1 none = some b →
              wordAt t.sram.mem (a + y.1) = BitVec.ofNat 32 (b + y.2.2)) := by
  obtain ⟨hrecord, hmem, hruns⟩ := startTask_runs hfind (staged_settles k hsound).2
  rw [staged_noArgs hargs, placeTables_mem] at hmem
  have hzero := (zeroScratch_settles k hsound).1
  have hloadable : ∀ j r a, Stands k j r a → Loadable r := fun j r a hstands => by
    obtain ⟨hkind, hsize, hconv, hrelocs⟩ := hload j r a hstands
    exact ⟨hkind, hsize, fun hreads => hconv ((reads_iff hkind).mp hreads), hrelocs⟩
  refine ⟨startTask s k, started k, taskStaging_starts hfind hadmitted hstop hdone hgood, hrecord, rfl, rfl, rfl, ?_,
    hruns hw, ?_⟩
  · intro x hx hclear o ho
    rw [hmem, stageRegions_outside hzero hloadable fun j r a hstands => by have := hclear j r a hstands; omega]
    exact zeroScratch_inside hx ho
  · intro j r a hstands hother hscratch
    have hreads := reads_iff (hload j r a hstands).1
    rw [hmem]
    refine ⟨fun hadopted o ho => ?_, fun hadopted hnot o ho => ?_, fun hadopted hstaged image hlen hcome hdata => ?_⟩
    · rw [stageRegions_adopted hzero hloadable hstands hother hadopted ho]
      exact zeroScratch_outside fun x hx => by have := hscratch x hx; omega
    · exact stageRegions_zero hzero hloadable hstands hother hadopted
        (by rw [← Bool.not_eq_true, hreads]; exact hnot) ho
    · exact stageRegions_image hzero hloadable hstands hother hadopted (hreads.mpr hstaged) hlen ⟨hcome, hdata⟩

/-- R269: a task with launch arguments starts with them over the start of record 0's region. -/
theorem taskStaging_arguments {ws : List Word} {a : Nat} (hargs : k.args = some ws) (hlen : ws.length = 4)
    (hbase : k.bases.head? = some (some a)) (hsound : Sound s) : ∃ t k', exec (.taskStaging k.uid) s = .next t ∧
      findTask t k.uid = some k' ∧ k'.state = .running ∧
      ∀ j, j < 4 → wordAt t.sram.mem (a + 4 * j) = ws.getD j 0 := by
  obtain ⟨hrecord, hmem, _⟩ := startTask_runs hfind (staged_settles k hsound).2
  refine ⟨startTask s k, started k, taskStaging_starts hfind hadmitted hstop hdone hgood, hrecord, rfl, fun j hj => ?_⟩
  rw [hmem]
  exact staged_args hsound hargs hlen hbase hj

end Staging

/-- Settles O55: each event by what its own operation does, and placement by the free runs of a slice and the ranking of
cores. -/
theorem schedulingEventsFollowTheirRules : Obligations.SchedulingEventsFollowTheirRules := by
  refine ⟨fun s k v q place b s' ad pl core n tract g h => ⟨?_, ?_, ?_, ?_, ?_, ?_, ?_, ?_⟩, placement_follows⟩
  · exact fun hfind hreleased hsaved hpart hnext hblock hplan hruns =>
      taskAdmission_admits hfind hreleased hsaved hpart hnext hblock hplan hruns
  · exact fun hfind hawaits hnew hwaited holdest =>
      ⟨_, blockingTask_blocks hfind hawaits hnew hwaited holdest, rfl⟩
  · exact fun hfind hawaits hwaited hfits hnone hv hmay hpart hcls hyoungest =>
      ⟨_, classPreemption_saves hfind hawaits hwaited hfits hnone hv hmay hpart hcls hyoungest, rfl⟩
  · exact fun hfind hmay hsteal => ⟨_, taskSteal_moves hfind hmay hsteal, rfl⟩
  · refine fun hfind hadmitted hstop => ⟨?_, ?_, ?_, ?_, ?_⟩
    · exact fun hdone => taskStaging_sends hfind hadmitted hstop hdone
    · exact fun hdone hfailed _ _ => taskStaging_fails hfind hadmitted hstop hdone hfailed
    · exact fun hdone hgood hregions hargs hw =>
        taskStaging_bare hfind hadmitted hstop hdone hgood hregions hargs hw
    · exact fun hdone hgood hargs hw hwf hclean hload =>
        taskStaging_regions hfind hadmitted hstop hdone hgood hargs hw ⟨hwf, hclean⟩ hload
    · exact fun ws a hdone hgood hargs hlen hbase hwf hclean =>
        taskStaging_arguments hfind hadmitted hstop hdone hgood hargs hlen hbase ⟨hwf, hclean⟩
  · exact fun hnone hslot hready => activeSetExchange_fills hnone hslot hready
  · exact fun hparked hother => activeSetExchange_deactivates hparked hother
  · exact fun hlong hready hactive hne => rotation_exchanges hlong hready hactive hne

end Sys2Proof.Scheduling
end

section
/-!
PROOF. The encoder against the decoder: the fields of every instruction word, which the encoder puts in their places and
the decoder reads there (R31, R37 to R52).
-/

namespace Sys2Proof.Layouts

open Sys2Proof.Readings Sys2Proof.Laws

/-! ### Fields and how they stand in a word -/

/-- A field of an instruction word. -/
inductive WordField where
  /-- Fixed bits: a part of the opcode, or reserved bits. -/
  | code {n : Nat} (x : BitVec n)
  /-- A register, a predicate, an immediate or a displacement. -/
  | bv {n : Nat} (x : BitVec n)
  | bit (x : Bool)
  /-- A guard (R34). -/
  | guard (g : Guard)
  /-- A choice that stands in the word as its code, in `n` bits. -/
  | coded (n c : Nat) (h : c < 2 ^ n)

namespace WordField

/-! The coded fields, in the widths that the format tables give them. -/

abbrev space (sp : Space) : WordField := coded 2 sp.code (Nat.lt_trans (space_lt sp) (by decide))
abbrev rule (r : Rule) : WordField := coded 2 r.code (rule_lt r)
abbrev ty (t : Ty) : WordField := coded 4 t.code (ty_lt t)
abbrev icond (c : ICond) : WordField := coded 4 c.code (Nat.lt_trans (icond_lt c) (by decide))
abbrev fcond (c : FCond) : WordField := coded 4 c.code (Nat.lt_trans (fcond_lt c) (by decide))
abbrev wcond (c : WCond) : WordField := coded 3 c.code (Nat.lt_trans (wcond_lt c) (by decide))
abbrev laneOp (op : LaneOp) : WordField := coded 5 op.code (Nat.lt_trans (laneOp_lt op) (by decide))
abbrev vote (m : VoteMode) : WordField := coded 6 m.code (Nat.lt_trans (vote_lt m) (by decide))
abbrev pop (m : PopMode) : WordField := coded 6 m.code (Nat.lt_trans (pop_lt m) (by decide))
abbrev jmode (m : JMode) : WordField := coded 6 m.code (Nat.lt_trans (jmode_lt m) (by decide))

/-- The bits that a field takes up. -/
@[simp] def width : WordField → Nat
  | @code n _ => n
  | @bv n _ => n
  | bit _ => 1
  | guard _ => 4
  | coded n _ _ => n

/-- The number that a field holds. -/
@[simp] def value : WordField → Nat
  | code x => x.toNat
  | bv x => x.toNat
  | bit x => x.toNat
  | guard g => g.toNat
  | coded _ c _ => c

theorem value_lt : ∀ f : WordField, f.value < 2 ^ f.width
  | code x => x.isLt
  | bv x => x.isLt
  | bit x => x.toNat_lt
  | guard g => guard_lt g
  | coded _ _ h => h

/-- The field stands in `w` from bit `lo` on: the decoder reads it there. -/
@[simp] def StandsAt (w lo : Nat) : WordField → Prop
  | @code n x => fld w lo n = x.toNat
  | @bv n x => bits n w lo = x
  | bit x => flag w lo = x
  | guard g => guardAt w lo = g
  | coded n c _ => fld w lo n = c

end WordField

theorem bits_of_fld {n w lo : Nat} {x : BitVec n} (h : fld w lo n = x.toNat) : bits n w lo = x :=
  BitVec.eq_of_toNat_eq (by rw [toNat_bits, h])

theorem flag_of_fld {w lo : Nat} {x : Bool} (h : fld w lo 1 = x.toNat) : flag w lo = x := by
  cases x <;> simp [flag, h]

theorem guardAt_of_fld {w lo : Nat} {g : Guard} (h : fld w lo 4 = g.toNat) : guardAt w lo = g := by
  have hcut : fld w lo 4 = fld w lo 3 + 2 ^ 3 * fld w (lo + 3) 1 := fld_add w lo 3 1
  have hlow : fld w lo 3 < 8 := fld_lt w lo 3
  have hp := g.p.isLt
  simp only [Guard.toNat] at h
  rw [guardAt, flag_of_fld (x := g.inv) (by omega), bits_of_fld (x := g.p) (by omega)]

/-- A field is read where its value is found. -/
theorem WordField.standsAt_of_fld {w lo : Nat} {f : WordField} (h : fld w lo f.width = f.value) : f.StandsAt w lo := by
  cases f with
  | code x => exact h
  | bv x => exact bits_of_fld h
  | bit x => exact flag_of_fld h
  | guard g => exact guardAt_of_fld h
  | coded n c hc => exact h

/-- The bits that some fields take up. -/
@[simp] def span : List WordField → Nat
  | [] => 0
  | f :: fs => f.width + span fs

/-- The number that fields spell, the highest first, as the tables of R37 to R47 list them. -/
@[simp] def join : List WordField → Nat
  | [] => 0
  | f :: fs => f.value * 2 ^ span fs + join fs

/-- The fixed bits among some fields. -/
@[simp] def fixed : List WordField → Nat
  | [] => 0
  | .code x :: fs => x.toNat * 2 ^ span fs + fixed fs
  | _ :: fs => fixed fs

/-- The operands among some fields, each with its lowest bit. -/
@[simp] def operands : List WordField → List (Nat × Nat)
  | [] => []
  | .code _ :: fs => operands fs
  | f :: fs => (f.value, span fs) :: operands fs

/-- Every field stands in `w` in its place, the last from bit 0 on. -/
@[simp] def Reads (w : Nat) : List WordField → Prop
  | [] => True
  | f :: fs => f.StandsAt w (span fs) ∧ Reads w fs

/-- `pack` of the fixed bits and the operands is the number that the fields spell. -/
theorem pack_fixed_operands (fs : List WordField) (x : Nat) :
    pack (x + fixed fs) (operands fs) = x + join fs := by
  induction fs generalizing x with
  | nil => simp
  | cons f fs ih =>
    cases f with
    | code v => simpa [Nat.add_assoc] using ih (x + v.toNat * 2 ^ span fs)
    | _ => 
      simp only [fixed, operands, join, pack_cons, WordField.value]
      rw [Nat.add_right_comm, ih, Nat.add_assoc]

theorem join_lt (fs : List WordField) : join fs < 2 ^ span fs := by
  induction fs with
  | nil => simp
  | cons f fs ih =>
    simp only [join, span, Nat.pow_add]
    calc f.value * 2 ^ span fs + join fs < (f.value + 1) * 2 ^ span fs := by rw [Nat.succ_mul]; omega
      _ ≤ 2 ^ f.width * 2 ^ span fs := Nat.mul_le_mul_right _ f.value_lt

/-- A number that fields spell, whatever stands above them, reads as these fields. -/
theorem reads_join (fs : List WordField) (x : Nat) : Reads (x * 2 ^ span fs + join fs) fs := by
  induction fs generalizing x with
  | nil => trivial
  | cons f fs ih =>
    have hword : x * 2 ^ span (f :: fs) + join (f :: fs) = (x * 2 ^ f.width + f.value) * 2 ^ span fs + join fs := by
      simp only [span, join, Nat.pow_add]
      ring
    rw [hword]
    refine ⟨WordField.standsAt_of_fld ?_, ih _⟩
    rw [fld, Nat.mul_comm _ (2 ^ span fs), Nat.mul_add_div (Nat.two_pow_pos _), Nat.div_eq_of_lt (join_lt fs),
      Nat.add_zero, Nat.mul_add_mod', Nat.mod_eq_of_lt f.value_lt]

/-! ### Codes -/

@[simp] theorem space_ofCode_code (x : Space) : Space.ofCode x.code = some x := by cases x <;> rfl
@[simp] theorem rule_ofCode_code (x : Rule) : Rule.ofCode x.code = some x := by cases x <;> rfl
@[simp] theorem ty_ofCode_code (x : Ty) : Ty.ofCode x.code = some x := by cases x <;> rfl
@[simp] theorem icond_ofCode_code (x : ICond) : ICond.ofCode x.code = some x := by cases x <;> rfl
@[simp] theorem fcond_ofCode_code (x : FCond) : FCond.ofCode x.code = some x := by cases x <;> rfl
@[simp] theorem wcond_ofCode_code (x : WCond) : WCond.ofCode x.code = some x := by cases x <;> rfl
@[simp] theorem laneOp_ofCode_code (x : LaneOp) : LaneOp.ofCode x.code = some x := by cases x <;> rfl
@[simp] theorem voteMode_ofCode_code (x : VoteMode) : VoteMode.ofCode x.code = some x := by cases x <;> rfl
@[simp] theorem popMode_ofCode_code (x : PopMode) : PopMode.ofCode x.code = some x := by cases x <;> rfl
@[simp] theorem jmode_ofCode_code (x : JMode) : JMode.ofCode x.code = some x := by cases x <;> rfl

@[simp] theorem need_some_bind {α : Type} (x : α) (e : DecodeError) (f : α → Except DecodeError Instr) :
    (need (some x) e).bind f = f x := rfl

@[simp] theorem reservedIf_true (r : Except DecodeError Instr) : reservedIf true r = r := rfl

/-! ### The fields of every instruction word -/

open WordField

/-- R37: major, D, A, B or IMM6, guard, S, F. -/
@[simp] def register (m d a b : BitVec 6) (gd : Guard) (sc : Bool) (f : BitVec 3) : List WordField :=
  [code m, bv d, bv a, bv b, guard gd, bit sc, code f]

/-- R37 for a major without a scalar bit: S is reserved. -/
@[simp] def vector (m d a b : BitVec 6) (gd : Guard) (f : BitVec 3) : List WordField :=
  [code m, bv d, bv a, bv b, guard gd, code 0#1, code f]

/-- The fields of a word of the instruction set, by the format tables of R37 to R47 and the opcode map of R48; an event
has none. -/
def layout : Instr → List WordField
  | .hint br ra rb => [code 0x3C#6, bv br, bit ra, bit rb, code 0#22]
  | .mod m =>
    [code 0x3D#6, bv m.sat, bit m.clmp, bit m.na, bit m.aa, bit m.nb, bit m.ab, bv m.scl, bv m.rm, bv m.sa,
      bv m.sb, code 0#8]
  | .imm hi => [code 0x3E#6, bv hi]
  | .add d a b gd sc => register 0x01 d a b gd sc 0
  | .sub d a b gd sc => register 0x01 d a b gd sc 1
  | .mul d a b gd sc => register 0x01 d a b gd sc 2
  | .mulhi d a b gd sc => register 0x01 d a b gd sc 3
  | .mulhu d a b gd sc => register 0x01 d a b gd sc 4
  | .mad d a b gd sc => register 0x01 d a b gd sc 5
  | .min d a b gd sc => register 0x01 d a b gd sc 6
  | .max d a b gd sc => register 0x01 d a b gd sc 7
  | .addImm d a imm gd sc => register 0x02 d a imm gd sc 0
  | .subImm d a imm gd sc => register 0x02 d a imm gd sc 1
  | .mulImm d a imm gd sc => register 0x02 d a imm gd sc 2
  | .mulhiImm d a imm gd sc => register 0x02 d a imm gd sc 3
  | .mulhuImm d a imm gd sc => register 0x02 d a imm gd sc 4
  | .madImm d a imm gd sc => register 0x02 d a imm gd sc 5
  | .minImm d a imm gd sc => register 0x02 d a imm gd sc 6
  | .maxImm d a imm gd sc => register 0x02 d a imm gd sc 7
  | .minu d a b gd sc => register 0x03 d a b gd sc 0
  | .maxu d a b gd sc => register 0x03 d a b gd sc 1
  | .and d a b gd sc => register 0x03 d a b gd sc 2
  | .or d a b gd sc => register 0x03 d a b gd sc 3
  | .xor d a b gd sc => register 0x03 d a b gd sc 4
  | .andn d a b gd sc => register 0x03 d a b gd sc 5
  | .rol d a b gd sc => register 0x03 d a b gd sc 6
  | .minuImm d a imm gd sc => register 0x04 d a imm gd sc 0
  | .maxuImm d a imm gd sc => register 0x04 d a imm gd sc 1
  | .andImm d a imm gd sc => register 0x04 d a imm gd sc 2
  | .orImm d a imm gd sc => register 0x04 d a imm gd sc 3
  | .xorImm d a imm gd sc => register 0x04 d a imm gd sc 4
  | .andnImm d a imm gd sc => register 0x04 d a imm gd sc 5
  | .rolImm d a imm gd sc => register 0x04 d a imm gd sc 6
  | .shl d a b gd sc => register 0x05 d a b gd sc 0
  | .shr d a b gd sc => register 0x05 d a b gd sc 1
  | .sar d a b gd sc => register 0x05 d a b gd sc 2
  | .divs d a b gd sc => register 0x05 d a b gd sc 3
  | .divu d a b gd sc => register 0x05 d a b gd sc 4
  | .rems d a b gd sc => register 0x05 d a b gd sc 5
  | .remu d a b gd sc => register 0x05 d a b gd sc 6
  | .lea d a b gd sc => register 0x05 d a b gd sc 7
  | .shlImm d a imm gd sc => register 0x06 d a imm gd sc 0
  | .shrImm d a imm gd sc => register 0x06 d a imm gd sc 1
  | .sarImm d a imm gd sc => register 0x06 d a imm gd sc 2
  | .divsImm d a imm gd sc => register 0x06 d a imm gd sc 3
  | .divuImm d a imm gd sc => register 0x06 d a imm gd sc 4
  | .remsImm d a imm gd sc => register 0x06 d a imm gd sc 5
  | .remuImm d a imm gd sc => register 0x06 d a imm gd sc 6
  | .leaImm d a imm gd sc => register 0x06 d a imm gd sc 7
  | .add64 d a b gd sc => register 0x07 d a b gd sc 0
  | .sub64 d a b gd sc => register 0x07 d a b gd sc 1
  | .shl64 d a b gd sc => register 0x07 d a b gd sc 2
  | .shr64 d a b gd sc => register 0x07 d a b gd sc 3
  | .add64Imm d a imm gd sc => register 0x08 d a imm gd sc 0
  | .sub64Imm d a imm gd sc => register 0x08 d a imm gd sc 1
  | .shl64Imm d a imm gd sc => register 0x08 d a imm gd sc 2
  | .shr64Imm d a imm gd sc => register 0x08 d a imm gd sc 3
  | .mov d a gd sc => [code 0x09#6, bv d, bv a, code 0#6, guard gd, bit sc, code 0#3]
  | .clz d a gd sc => [code 0x09#6, bv d, bv a, code 0#6, guard gd, bit sc, code 1#3]
  | .popc d a gd sc => [code 0x09#6, bv d, bv a, code 0#6, guard gd, bit sc, code 2#3]
  | .brev d a gd sc => [code 0x09#6, bv d, bv a, code 0#6, guard gd, bit sc, code 3#3]
  | .bfx d a b gd sc => register 0x09 d a b gd sc 4
  | .bfxu d a b gd sc => register 0x09 d a b gd sc 5
  | .bfi d a b gd sc => register 0x09 d a b gd sc 6
  | .movi d imm gd sc => [code 0x0A#6, bv d, code 0#6, bv imm, guard gd, bit sc, code 0#3]
  | .bfxImm d a imm gd sc => register 0x0A d a imm gd sc 4
  | .bfxuImm d a imm gd sc => register 0x0A d a imm gd sc 5
  | .bfiImm d a imm gd sc => register 0x0A d a imm gd sc 6
  | .sel d a b gd sc k => [code 0x0B#6, bv d, bv a, bv b, guard gd, bit sc, bv k]
  | .cmp cond a b gd sc pd => [code 0x0C#6, icond cond, code 0#2, bv a, bv b, guard gd, bit sc, bv pd]
  | .cmpImm cond a imm gd sc pd => [code 0x0C#6, icond cond, code 2#2, bv a, bv imm, guard gd, bit sc, bv pd]
  | .fcmp cond a b gd sc pd => [code 0x0D#6, fcond cond, code 0#2, bv a, bv b, guard gd, bit sc, bv pd]
  | .fcmpImm cond a imm gd sc pd => [code 0x0D#6, fcond cond, code 2#2, bv a, bv imm, guard gd, bit sc, bv pd]
  | .dcmp cond a b gd pd => [code 0x0D#6, fcond cond, code 1#2, bv a, bv b, guard gd, code 0#1, bv pd]
  | .pand pd id pa ia pb ib gd =>
    [code 0x0E#6, code 0#2, bv pd, bit id, code 0#2, bv pa, bit ia, code 0#2, bv pb, bit ib, guard gd, code 0#1,
      code 0#3]
  | .por pd id pa ia pb ib gd =>
    [code 0x0E#6, code 0#2, bv pd, bit id, code 0#2, bv pa, bit ia, code 0#2, bv pb, bit ib, guard gd, code 0#1,
      code 1#3]
  | .pxor pd id pa ia pb ib gd =>
    [code 0x0E#6, code 0#2, bv pd, bit id, code 0#2, bv pa, bit ia, code 0#2, bv pb, bit ib, guard gd, code 0#1,
      code 2#3]
  | .pnot pd id pa ia gd =>
    [code 0x0E#6, code 0#2, bv pd, bit id, code 0#2, bv pa, bit ia, code 0#6, guard gd, code 0#1, code 3#3]
  | .shfl d a b gd => vector 0x0F d a b gd 0
  | .bcast d a b gd => vector 0x0F d a b gd 1
  | .rdlane d a b gd => vector 0x0F d a b gd 2
  | .wrlane d a b gd => vector 0x0F d a b gd 3
  | .redl d a op gd => [code 0x0F#6, bv d, bv a, code 0#1, laneOp op, guard gd, code 0#1, code 4#3]
  | .scanl d a ex op gd => [code 0x0F#6, bv d, bv a, bit ex, laneOp op, guard gd, code 0#1, code 5#3]
  | .shflImm d a imm gd => vector 0x10 d a imm gd 0
  | .bcastImm d a imm gd => vector 0x10 d a imm gd 1
  | .rdlaneImm d a imm gd => vector 0x10 d a imm gd 2
  | .wrlaneImm d a imm gd => vector 0x10 d a imm gd 3
  | .vote d pa mode gd => [code 0x11#6, bv d, code 0#3, bv pa, vote mode, guard gd, code 0#1, code 0#3]
  | .popm d pa mode gd => [code 0x11#6, bv d, code 0#3, bv pa, pop mode, guard gd, code 0#1, code 1#3]
  | .elect pd gd => [code 0x11#6, code 0#3, bv pd, code 0#12, guard gd, code 0#1, code 2#3]
  | .fadd d a b gd sc => register 0x12 d a b gd sc 0
  | .fsub d a b gd sc => register 0x12 d a b gd sc 1
  | .fmul d a b gd sc => register 0x12 d a b gd sc 2
  | .ffma d a b gd sc => register 0x12 d a b gd sc 3
  | .fmin d a b gd sc => register 0x12 d a b gd sc 4
  | .fmax d a b gd sc => register 0x12 d a b gd sc 5
  | .fscale d a b gd sc => register 0x12 d a b gd sc 6
  | .faddImm d a imm gd sc => register 0x13 d a imm gd sc 0
  | .fsubImm d a imm gd sc => register 0x13 d a imm gd sc 1
  | .fmulImm d a imm gd sc => register 0x13 d a imm gd sc 2
  | .ffmaImm d a imm gd sc => register 0x13 d a imm gd sc 3
  | .fminImm d a imm gd sc => register 0x13 d a imm gd sc 4
  | .fmaxImm d a imm gd sc => register 0x13 d a imm gd sc 5
  | .fscaleImm d a imm gd sc => register 0x13 d a imm gd sc 6
  | .frcpe d a gd sc => [code 0x14#6, bv d, bv a, code 0#6, guard gd, bit sc, code 0#3]
  | .frsqe d a gd sc => [code 0x14#6, bv d, bv a, code 0#6, guard gd, bit sc, code 1#3]
  | .frnd d a gd sc => [code 0x14#6, bv d, bv a, code 0#6, guard gd, bit sc, code 2#3]
  | .fclass d a gd sc => [code 0x14#6, bv d, bv a, code 0#6, guard gd, bit sc, code 3#3]
  | .dadd d a b gd => vector 0x15 d a b gd 0
  | .dsub d a b gd => vector 0x15 d a b gd 1
  | .dmul d a b gd => vector 0x15 d a b gd 2
  | .dfma d a b gd => vector 0x15 d a b gd 3
  | .dmin d a b gd => vector 0x15 d a b gd 4
  | .dmax d a b gd => vector 0x15 d a b gd 5
  | .hadd2F16 d a b gd => vector 0x16 d a b gd 0
  | .hmul2F16 d a b gd => vector 0x16 d a b gd 1
  | .hfma2F16 d a b gd => vector 0x16 d a b gd 2
  | .hadd2Bf16 d a b gd => vector 0x16 d a b gd 4
  | .hmul2Bf16 d a b gd => vector 0x16 d a b gd 5
  | .hfma2Bf16 d a b gd => vector 0x16 d a b gd 6
  | .cvt d a src gd t => [code 0x17#6, bv d, bv a, code 0#2, ty src, guard gd, ty t]
  | .cvtsr d a b gd t => [code 0x18#6, bv d, bv a, bv b, guard gd, ty t]
  | .pack8 d a b gd t => [code 0x19#6, bv d, bv a, bv b, guard gd, ty t]
  | .unpk8 d a gd t => [code 0x1A#6, bv d, bv a, code 0#6, guard gd, ty t]
  | .pack4 d a b gd t => [code 0x1B#6, bv d, bv a, bv b, guard gd, ty t]
  | .unpk4 d a gd t => [code 0x1C#6, bv d, bv a, code 0#6, guard gd, ty t]
  | .lds sp d a imm t => [code 0x1D#6, code 0#2, space sp, bv d, bv a, bv imm, ty t]
  | .sts r sp d a imm t => [code 0x1E#6, rule r, space sp, bv d, bv a, bv imm, ty t]
  | .watch cond a imm gd sp => [code 0x1F#6, wcond cond, code 0#3, bv a, bv imm, guard gd, space sp, code 0#2]
  | .pres d a imm gd sp => [code 0x1F#6, bv d, bv a, bv imm, guard gd, space sp, code 1#2]
  | .absa d a imm gd => [code 0x1F#6, bv d, bv a, bv imm, guard gd, code 0#2, code 2#2]
  | .rela d a imm gd => [code 0x1F#6, bv d, bv a, bv imm, guard gd, code 1#2, code 3#2]
  | .ld sp d a imm gd t => [code 0x8#4, space sp, bv d, bv a, bv imm, guard gd, ty t]
  | .stP r d a imm gd t => [code 0x9#4, rule r, bv d, bv a, bv imm, guard gd, ty t]
  | .stG r d a imm gd t => [code 0xA#4, rule r, bv d, bv a, bv imm, guard gd, ty t]
  | .stK r d a imm gd t => [code 0xB#4, rule r, bv d, bv a, bv imm, guard gd, ty t]
  | .mldw x y sp t gd pair => [code 0x30#6, bv x, bv y, space sp, ty t, guard gd, code 0#2, bit pair, code 0#1]
  | .mldwS x y sp t gd pair => [code 0x30#6, bv x, bv y, space sp, ty t, guard gd, code 1#2, bit pair, code 0#1]
  | .mma x y sp t gd pair swap => [code 0x30#6, bv x, bv y, space sp, ty t, guard gd, code 2#2, bit pair, bit swap]
  | .mmas x y sp t gd pair swap => [code 0x30#6, bv x, bv y, space sp, ty t, guard gd, code 3#2, bit pair, bit swap]
  | .mdrn x y sp t gd pair tr => [code 0x31#6, bv x, bv y, space sp, ty t, guard gd, code 0#2, bit pair, bit tr]
  | .mzero tile gd pair => [code 0x31#6, code 0#5, bit tile, code 0#12, guard gd, code 1#2, bit pair, code 0#1]
  | .trd x y imm gd tile col => [code 0x31#6, bv x, bv y, bv imm, guard gd, code 2#2, bit tile, bit col]
  | .twr x y imm gd tile col => [code 0x31#6, bv x, bv y, bv imm, guard gd, code 3#2, bit tile, bit col]
  | .copy a imm gd sp => [code 0x32#6, code 0#3, code 0#3, bv a, bv imm, guard gd, space sp, code 0#2]
  | .cpys a gd => [code 0x32#6, code 1#3, code 0#3, bv a, code 0#6, guard gd, code 0#4]
  | .brd a imm gd sp => [code 0x32#6, code 2#3, code 0#3, bv a, bv imm, guard gd, space sp, code 0#2]
  | .brdi a imm gd sp => [code 0x32#6, code 3#3, code 0#3, bv a, bv imm, guard gd, space sp, code 0#2]
  | .hend gd => [code 0x32#6, code 4#3, code 0#15, guard gd, code 0#4]
  | .tq d a tbl ix gd t => [code 0x33#6, bv d, bv a, bv tbl, bit ix, code 0#1, guard gd, ty t]
  | .tqb d a tbl ix gd t => [code 0x33#6, bv d, bv a, bv tbl, bit ix, code 1#1, guard gd, ty t]
  | .bra gd disp => [code 0x34#6, guard gd, bv disp]
  | .jmp disp => [code 0x35#6, bv disp]
  | .call disp => [code 0x36#6, bv disp]
  | .split jk gd disp => [code 0x37#6, bv jk, guard gd, bv disp]
  | .nop gd => [code 0x38#6, code 0#18, guard gd, code 0#4]
  | .jmpr a imm gd => [code 0x38#6, code 0#6, bv a, bv imm, guard gd, code 1#4]
  | .ret a gd => [code 0x38#6, code 0#6, bv a, code 0#6, guard gd, code 2#4]
  | .join jk gd => [code 0x38#6, code 0#3, bv jk, code 0#12, guard gd, code 3#4]
  | .jmov d a mode gd => [code 0x38#6, bv d, bv a, jmode mode, guard gd, code 4#4]
  | .pace gd => [code 0x38#6, code 0#18, guard gd, code 5#4]
  | .pacen imm gd => [code 0x38#6, code 0#12, bv imm, guard gd, code 6#4]
  | .reform a gd => [code 0x38#6, code 0#6, bv a, code 0#6, guard gd, code 7#4]
  | .reformNext gd => [code 0x38#6, code 0#12, code 1#6, guard gd, code 7#4]
  | .exit gd => [code 0x38#6, code 0#18, guard gd, code 8#4]
  | .trap imm gd => [code 0x38#6, code 0#12, bv imm, guard gd, code 9#4]
  | .bkpt imm gd => [code 0x38#6, code 0#12, bv imm, guard gd, code 10#4]
  | .enq d a sp gd => [code 0x39#6, bv d, bv a, code 0#4, space sp, guard gd, code 0#4]
  | .deq d imm gd => [code 0x39#6, bv d, code 0#6, bv imm, guard gd, code 1#4]
  | .depdEdge d a gd => [code 0x39#6, bv d, bv a, code 0#6, guard gd, code 2#4]
  | .depdRel d a gd => [code 0x39#6, bv d, bv a, code 1#6, guard gd, code 2#4]
  | .srd d num gd => [code 0x3A#6, bv d, code 0#6, bv num, guard gd, code 0#4]
  | .swr d num gd => [code 0x3A#6, bv d, code 0#6, bv num, guard gd, code 1#4]
  | .rte gd => [code 0x3A#6, code 0#18, guard gd, code 2#4]
  | .icinv gd => [code 0x3A#6, code 0#18, guard gd, code 3#4]
  | .lagStall _ _ | .loadComplete _ _ | .storeOffer _ | .frontierChange _ _ | .stepLanding _ _ _ |
    .copyLineWrite _ _ | .copyNearRead _ | .copyBurstAccepted _ _ | .burstArrival _ _ | .binDraw _ _ |
    .lastBurstEvent _ | .queryComplete _ | .pchRequest _ _ | .latencyBoundExpiry _ | .perBankRefresh _ |
    .tableRowRefresh _ _ | .targetedRefresh _ _ | .ecsScrub _ _ | .sliceScrub _ | .rebuildSector _ | .matrixOpTurn _ |
    .drainWrite _ _ | .matrixClaimEnd _ | .activeSetExchange _ | .rotation _ | .taskAdmission _ _ | .blockingTask _ |
    .classPreemption _ | .taskSteal _ _ | .taskStaging _ | .taskRetirement _ | .taskStop _ | .preemption _ |
    .restore _ _ | .atsCompletion _ _ _ | .invalidateRequest _ _ _ | .faultBufferFlush _ |
    .pageRequestResponse _ _ _ | .stopMarker _ | .accessCounterNotify _ _ | .hostMemoryAccess _ _ _ |
    .snoopResponse _ | .sqtail _ _ | .hostLaunch _ | .completionEntryWrite _ | .cqhead _ _ | .sqcfg _ _ | .cqcfg _ _ |
    .registerWrite _ _ _ | .slstatWrite _ _ | .writePlatEntry _ _ _ | .writeQuotaRecord _ _ _ |
    .setContextArea _ _ _ _ | .stopTask _ _ | .dropKeptRegion _ _ | .readStopLog _ | .flushFaultBuffers _ |
    .setAccessCounterThreshold _ _ | .setDebugEnable _ _ _ | .repairBank _ _ | .bindFabricPeer _ _ _ _ |
    .readMargins _ | .releaseHeldHostLaunch _ _ | .attestationReport _ | .flitNak _ _ | .endToEndTimeout _ _ |
    .fabricCommand _ | .peerReset _ | .functionLevelReset _ | .powerArbitration _ _ | .marginPlan _ _ | .bringUp |
    .refreshManagement _ | .sriovEnable _ | .newFirmwareImage _ => []

/-- The fields of a word cover its 32 bits (R31). -/
theorem span_layout (i : Instr) : span (layout i) = if i.isWord then 32 else 0 := by
  cases i <;> rfl

/-- A word is spelled by its fields when its encoding adds up their fixed bits and their operands. -/
theorem encodeNat_eq_join_of_pack {i : Instr} {x : Nat} {l : List (Nat × Nat)} (he : encodeNat i = pack x l)
    (hx : fixed (layout i) = x) (hl : operands (layout i) = l) : encodeNat i = join (layout i) := by
  simpa [he, hx, hl] using pack_fixed_operands (layout i) 0

theorem encodeNat_mod_eq_join (m : ModWord) : encodeNat (.mod m) = join (layout (.mod m)) := by
  simp [encodeNat, layout, ModWord.toNat]
  omega

/-- The encoder puts every field in its place. -/
theorem encodeNat_eq_join (i : Instr) : encodeNat i = join (layout i) := by
  cases i
  case mod m => exact encodeNat_mod_eq_join m
  all_goals exact encodeNat_eq_join_of_pack rfl (by simp [layout]) rfl

/-- R40: the majors of `LD` and `ST` are four bits with the space or the rule below them. -/
theorem major_of_halves {w m c : Nat} (hm : fld w 28 4 = m) (hc : fld w 26 2 = c) : fld w 26 6 = c + 4 * m := by
  rw [← hm, ← hc]
  exact fld_add w 26 2 4

/-- The decoder reads every field in its place. -/
theorem decodeFields_of_reads {i : Instr} (hi : i.isWord = true) {w : Nat} (h : Reads w (layout i)) :
    decodeFields w = .ok i := by
  cases i <;> simp [layout] at h
  any_goals rw [decodeFields, h.1]
  case add | sub | mul | mulhi | mulhu | mad | min | max =>
    show decodeMajor01 w = _
    simp [decodeMajor01, h]
  case addImm | subImm | mulImm | mulhiImm | mulhuImm | madImm | minImm | maxImm =>
    show decodeMajor02 w = _
    simp [decodeMajor02, h]
  case minu | maxu | and | or | xor | andn | rol =>
    show decodeMajor03 w = _
    simp [decodeMajor03, h]
  case minuImm | maxuImm | andImm | orImm | xorImm | andnImm | rolImm =>
    show decodeMajor04 w = _
    simp [decodeMajor04, h]
  case shl | shr | sar | divs | divu | rems | remu | lea =>
    show decodeMajor05 w = _
    simp [decodeMajor05, h]
  case shlImm | shrImm | sarImm | divsImm | divuImm | remsImm | remuImm | leaImm =>
    show decodeMajor06 w = _
    simp [decodeMajor06, h]
  case add64 | sub64 | shl64 | shr64 =>
    show decodeMajor07 w = _
    simp [decodeMajor07, h]
  case add64Imm | sub64Imm | shl64Imm | shr64Imm =>
    show decodeMajor08 w = _
    simp [decodeMajor08, h]
  case mov | clz | popc | brev | bfx | bfxu | bfi =>
    show decodeMajor09 w = _
    simp [decodeMajor09, h]
  case movi | bfxImm | bfxuImm | bfiImm =>
    show decodeMajor0A w = _
    simp [decodeMajor0A, h]
  case sel =>
    show decodeMajor0B w = _
    simp [decodeMajor0B, h]
  case cmp | cmpImm =>
    show decodeMajor0C w = _
    simp [decodeMajor0C, h]
  case fcmp | fcmpImm | dcmp =>
    show decodeMajor0D w = _
    simp [decodeMajor0D, h]
  case pand | por | pxor | pnot =>
    show decodeMajor0E w = _
    simp [decodeMajor0E, h]
  case shfl | bcast | rdlane | wrlane | redl | scanl =>
    show decodeMajor0F w = _
    simp [decodeMajor0F, h]
  case shflImm | bcastImm | rdlaneImm | wrlaneImm =>
    show decodeMajor10 w = _
    simp [decodeMajor10, h]
  case vote | popm | elect =>
    show decodeMajor11 w = _
    simp [decodeMajor11, h]
  case fadd | fsub | fmul | ffma | fmin | fmax | fscale =>
    show decodeMajor12 w = _
    simp [decodeMajor12, h]
  case faddImm | fsubImm | fmulImm | ffmaImm | fminImm | fmaxImm | fscaleImm =>
    show decodeMajor13 w = _
    simp [decodeMajor13, h]
  case frcpe | frsqe | frnd | fclass =>
    show decodeMajor14 w = _
    simp [decodeMajor14, h]
  case dadd | dsub | dmul | dfma | dmin | dmax =>
    show decodeMajor15 w = _
    simp [decodeMajor15, h]
  case hadd2F16 | hmul2F16 | hfma2F16 | hadd2Bf16 | hmul2Bf16 | hfma2Bf16 =>
    show decodeMajor16 w = _
    simp [decodeMajor16, h]
  case cvt =>
    show decodeMajor17 w = _
    simp [decodeMajor17, h]
  case cvtsr =>
    show decodeMajor18 w = _
    simp [decodeMajor18, h]
  case pack8 =>
    show decodeMajor19 w = _
    simp [decodeMajor19, h]
  case unpk8 =>
    show decodeMajor1A w = _
    simp [decodeMajor1A, h]
  case pack4 =>
    show decodeMajor1B w = _
    simp [decodeMajor1B, h]
  case unpk4 =>
    show decodeMajor1C w = _
    simp [decodeMajor1C, h]
  case lds =>
    show decodeMajor1D w = _
    simp [decodeMajor1D, h]
  case sts =>
    show decodeMajor1E w = _
    simp [decodeMajor1E, h]
  case watch | pres | absa | rela =>
    show decodeMajor1F w = _
    simp [decodeMajor1F, h]
  case mldw | mldwS | mma | mmas =>
    show decodeMajor30 w = _
    simp [decodeMajor30, h]
  case mdrn | mzero | trd | twr =>
    show decodeMajor31 w = _
    simp [decodeMajor31, h]
  case copy | cpys | brd | brdi | hend =>
    show decodeMajor32 w = _
    simp [decodeMajor32, h]
  case tq | tqb =>
    show decodeMajor33 w = _
    simp [decodeMajor33, h]
  case bra =>
    show decodeMajor34 w = _
    simp [decodeMajor34, h]
  case jmp =>
    show decodeMajor35 w = _
    simp [decodeMajor35, h]
  case call =>
    show decodeMajor36 w = _
    simp [decodeMajor36, h]
  case split =>
    show decodeMajor37 w = _
    simp [decodeMajor37, h]
  case nop | jmpr | ret | join | jmov | pace | pacen | reform | reformNext | exit | trap | bkpt =>
    show decodeMajor38 w = _
    simp [decodeMajor38, h]
  case enq | deq | depdEdge | depdRel =>
    show decodeMajor39 w = _
    simp [decodeMajor39, h]
  case srd | swr | rte | icinv =>
    show decodeMajor3A w = _
    simp [decodeMajor3A, h]
  case hint =>
    show decodeMajor3C w = _
    simp [decodeMajor3C, h]
  case mod =>
    show decodeMajor3D w = _
    simp [decodeMajor3D, modAt, h]
  case imm =>
    show decodeMajor3E w = _
    simp [decodeMajor3E, h]
  case ld sp _ _ _ _ _ =>
    have hmajor : decodeFields w = decodeMajor20 w := by
      rw [decodeFields, major_of_halves h.1 h.2.1]
      cases sp <;> rfl
    simp [hmajor, decodeMajor20, h]
  case stP r _ _ _ _ _ =>
    have hmajor : decodeFields w = decodeMajor24 w := by
      rw [decodeFields, major_of_halves h.1 h.2.1]
      cases r <;> rfl
    simp [hmajor, decodeMajor24, h]
  case stG r _ _ _ _ _ =>
    have hmajor : decodeFields w = decodeMajor28 w := by
      rw [decodeFields, major_of_halves h.1 h.2.1]
      cases r <;> rfl
    simp [hmajor, decodeMajor28, h]
  case stK r _ _ _ _ _ =>
    have hmajor : decodeFields w = decodeMajor2C w := by
      rw [decodeFields, major_of_halves h.1 h.2.1]
      cases r <;> rfl
    simp [hmajor, decodeMajor2C, h]
  all_goals cases hi

/-- The word of an instruction reads as the instruction's fields. -/
theorem reads_encode {i : Instr} (hi : i.isWord = true) : Reads (encode i).toNat (layout i) := by
  have hlt : join (layout i) < 2 ^ 32 := by simpa [span_layout, hi] using join_lt (layout i)
  rw [encode, BitVec.toNat_ofNat, encodeNat_eq_join, Nat.mod_eq_of_lt hlt]
  simpa using reads_join (layout i) 0

/-- A well-formed instruction word decodes from its encoding. -/
theorem decode_encode {i : Instr} (hwf : i.wf = true) (hi : i.isWord = true) : decode (encode i) = .ok i :=
  decode_eq_ok.mpr ⟨decodeFields_of_reads hi (reads_encode hi), hwf⟩

/-- Settles O2: the encoder and the decoder follow one table of fields. -/
theorem encodeThenDecodeGivesTheInstruction : Obligations.EncodeThenDecodeGivesTheInstruction :=
  fun _ hwf hi => decode_encode hwf hi

end Sys2Proof.Layouts
end

section
/-!
PROOF. Words and their sequences: worked encodings (R31 to R48), what `HINT`, `MOD` and `IMM` do to the sequence they
stand in (R50, R52, R55, R58), and operands under `IMM` and `MOD` (R51, R53).
-/

namespace Sys2Proof.Sequences

open Sys2Proof Sys2Proof.Machine

/-! ### Words that decode -/

/-- A word that is the encoding of a well-formed instruction decodes to it. -/
theorem decode_eq_of_encode_eq {w : Word} {i : Instr} (he : encode i = w) (hwf : i.wf = true) (hi : i.isWord = true) :
    decode w = .ok i :=
  he ▸ Layouts.decode_encode hwf hi

/-- Settles O1: each of the words is the encoding of its instruction, so it decodes to it. -/
theorem decodedWordsAreTheSpecs : Obligations.DecodedWordsAreTheSpecs := by
  unfold Obligations.DecodedWordsAreTheSpecs
  dsimp only
  and_intros
  all_goals exact decode_eq_of_encode_eq (by decide) rfl rfl

/-! ### `HINT`, `MOD` and `IMM` (R58) -/

/-- The path past a word that its sequence goes on from, in the state `q`: of the words that the path holds, one is used up
(R306). -/
def extended (p : Path) (q : Prefix) : Path :=
  { p with pc := p.pc + 4, pre := { q with words := p.pre.words.tail }, park := none }

/-- R58: what a word of rank `n` does that extends its sequence to the state `q`. -/
theorem extends_or_traps {s : State} {g : Group} {p : Path} {w : Word} (h : Issuing s g p w) {i : Instr}
    {n : Nat} {q : Path → Word → Prefix}
    (hexec : exec i s = onPath s fun g p w =>
      if n ≤ p.pre.rank ∨ lastWord s g.task p.pc then illegalTrap s g p w else putPath s g (extended p (q p w))) :
    (lastWord s g.task p.pc = false → p.pre.rank < n → MovesPath i s g p (extended p (q p w))) ∧
    (lastWord s g.task p.pc = true ∨ n ≤ p.pre.rank →
      Traps i s g p (plainTrap 0x01 (reportLane p (wordActive p w)) w)) := by
  constructor
  · intro hlast hrank
    refine movesPath_of h hexec (if_neg ?_) rfl
    simp [hlast, hrank]
  · intro hbad
    exact traps_of h hexec (if_pos hbad.symm)

/-- Settles O34: `HINT`, `MOD` and `IMM` are of one shape, in the ranks 1 to 3. -/
theorem prefixWordsExtendTheSequence : Obligations.PrefixWordsExtendTheSequence := by
  intro s g p w br ra rb m hi h
  obtain ⟨hintMoves, hintTraps⟩ := extends_or_traps h (i := .hint br ra rb) (n := 1)
    (q := fun p w => { p.pre with rank := 1, start := seqStart p, hint := w }) rfl
  obtain ⟨modMoves, modTraps⟩ := extends_or_traps h (i := .mod m) (n := 2)
    (q := fun p _ => { p.pre with rank := 2, start := seqStart p, mod := some m }) rfl
  obtain ⟨immMoves, immTraps⟩ := extends_or_traps h (i := .imm hi) (n := 3)
    (q := fun p _ => { p.pre with rank := 3, start := seqStart p, hi := some hi }) rfl
  refine ⟨fun hlast => ⟨fun hrank => ?_, fun hrank => modMoves hlast (Nat.lt_succ_of_le hrank),
    fun hrank => immMoves hlast (Nat.lt_succ_of_le hrank)⟩, hintTraps, modTraps, immTraps⟩
  have hstart : seqStart p = p.pc := if_pos hrank
  simpa [extended, hstart] using hintMoves hlast (by omega)

/-! ### Operands -/

/-- R51: an immediate is the whole of what `IMM` carries and the field, and without `IMM` the field extended. -/
theorem imms_eq (p : Path) (f : BitVec 6) :
    imms p f = p.pre.hi.elim (f.signExtend 32) fun h => h ++ f := by
  unfold imms
  split <;> simp_all

theorem immu_eq (p : Path) (f : BitVec 6) :
    immu p f = p.pre.hi.elim (f.zeroExtend 32) fun h => h ++ f := by
  unfold immu
  split <;> simp_all

theorem modOf_none {p : Path} (hp : p.pre.mod = none) : modOf p = default := by rw [modOf, hp, Option.getD_none]

theorem modOf_some {p : Path} {m : ModWord} (hp : p.pre.mod = some m) : modOf p = m := by
  rw [modOf, hp, Option.getD_some]

/-! R53: what the three source selectors select. -/

theorem selRead_zero (g : Group) (p : Path) (sc : Bool) (l r : Nat) : selRead g p sc 0#2 l r = regRead g p sc l r := rfl

theorem selRead_one (g : Group) (p : Path) (sc : Bool) (l r : Nat) : selRead g p sc 1#2 l r = sreg p r := rfl

theorem selRead_two (g : Group) (p : Path) (sc : Bool) (l r : Nat) : selRead g p sc 2#2 l r = 0 := rfl

/-- Settles O9: an operand is what the selector in force selects, and the selectors are 0 without a `MOD` word. -/
theorem operandsAreAsTheirPrefixesSay : Obligations.OperandsAreAsTheirPrefixesSay := by
  intro g p f a b l k
  refine ⟨fun h hp => ?_, fun hp => ?_, fun hp => ?_, fun m hp => ?_⟩
  · simp [imms_eq, immu_eq, hp]
  · simp [imms_eq, immu_eq, hp]
  · have hsa : (modOf p).sa = 0 := by rw [modOf_none hp]; rfl
    have hsb : (modOf p).sb = 0 := by rw [modOf_none hp]; rfl
    simp [opA, opB, hsa, hsb, selRead_zero, regRead]
  · rw [← modOf_some hp]
    refine ⟨?_, ?_, ?_, ?_, ?_, ?_⟩ <;> intro hsel
    all_goals simp [opA, opB, hsel, selRead_zero, selRead_one, selRead_two, regRead]

end Sys2Proof.Sequences
end

section
/-!
PROOF. Code caches (R303, R306): a fetch fills the caches of its core and its tract, changes no byte of DRAM, and leaves
the word that the next fetch gets from the same address as it is.
-/

namespace Sys2Proof.CodeCaches

open Sys2Proof Sys2Proof.Machine

/-! ### One cache -/

/-- The words of a code cache, each under the holder, the image and the place it belongs to. -/
abbrev Cache := List ((Nat × Nat × Nat) × Word)

/-- The word that a code cache holds under a key. -/
def held (l : Cache) (k : Nat × Nat × Nat) : Option Word := (l.find? fun c => decide (c.1 = k)).map (·.2)

theorem cached_eq_isSome (l : Cache) (k : Nat × Nat × Nat) : cached l k = (held l k).isSome := by
  rw [cached, held, Option.isSome_map, List.isSome_find?]

theorem held_eq_none {l : Cache} {k : Nat × Nat × Nat} : held l k = none ↔ ∀ c ∈ l, c.1 ≠ k := by
  simp [held]

/-- A word new to a cache is added at its end; what stood there stays but for the oldest word. -/
theorem cacheWord_of_absent {l : Cache} {k : Nat × Nat × Nat} (h : held l k = none) (n : Nat) (w : Word) :
    ∃ l', l' ⊆ l ∧ cacheWord l n k w = l' ++ [(k, w)] := by
  have hany : cached l k = false := by simp [cached_eq_isSome, h]
  refine ⟨_, ?_, if_neg (by rw [cached] at hany; simp [hany])⟩
  split
  · exact List.eraseP_subset
  · exact List.Subset.refl l

theorem cacheWord_of_cached {l : Cache} {k : Nat × Nat × Nat} (h : held l k ≠ none) (n : Nat) (w : Word) :
    cacheWord l n k w = l := by
  have hany : cached l k = true := by simpa [cached_eq_isSome, Option.isSome_iff_ne_none] using h
  exact if_pos hany

/-- A word that is added to a cache is held afterwards. -/
theorem held_cacheWord_same {l : Cache} {k : Nat × Nat × Nat} (h : held l k = none) (n : Nat) (w : Word) :
    held (cacheWord l n k w) k = some w := by
  obtain ⟨l', hsub, heq⟩ := cacheWord_of_absent h n w
  have hold : l'.find? (fun c => decide (c.1 = k)) = none := by
    simpa using fun c hc => held_eq_none.mp h c (hsub hc)
  simp [heq, held, List.find?_append, hold]

/-- Adding a word brings no other one into a cache. -/
theorem held_cacheWord_other {l : Cache} {k k' : Nat × Nat × Nat} (h : held l k' = none) (hne : k ≠ k') (n : Nat)
    (w : Word) : held (cacheWord l n k w) k' = none := by
  by_cases hk : held l k = none
  · obtain ⟨l', hsub, heq⟩ := cacheWord_of_absent hk n w
    rw [held_eq_none] at h ⊢
    intro c hc
    rcases List.mem_append.mp (heq ▸ hc) with hin | hnew
    · exact h c (hsub hin)
    · rw [List.mem_singleton.mp hnew]; exact hne
  · rw [cacheWord_of_cached hk]; exact h

/-! ### A burst of words -/

/-- Filling a cache with the words of a burst, the wanted one last: the wanted word is held when its own step adds it and
no other step does. -/
theorem held_foldl_burstMates {f : Cache → Nat → Cache} {i : Instance} {n : Nat} {key : Nat × Nat × Nat} {w : Word}
    (hother : ∀ l k, k ≠ n → held l key = none → held (f l k) key = none)
    (hsame : ∀ l, held l key = none → held (f l n) key = some w) {l : Cache} (h : held l key = none) :
    held ((burstMates i n).foldl f l) key = some w := by
  rw [burstMates, List.foldl_append, List.foldl_cons, List.foldl_nil]
  refine hsame _ (List.foldlRecOn _ f h fun l hl k hk => hother l k ?_ hl)
  simpa using (Bool.and_eq_true_iff.mp (List.mem_filter.mp hk).2).2

theorem held_cacheWords {l : Cache} {h n : Nat} {i : Instance} (habsent : held l (h, i.id, n) = none) (s : State)
    (size : Nat) :
    held (cacheWords s l size h i (burstMates i n)) (h, i.id, n) = some (wordAt s.dram.mem (i.dpa + 4 * n)) :=
  held_foldl_burstMates (f := fun l k => cacheWord l size (h, i.id, k) (wordAt s.dram.mem (i.dpa + 4 * k)))
    (fun _ _ hne hl => held_cacheWord_other hl (by simpa using hne) _ _) (fun _ hl => held_cacheWord_same hl _ _) habsent

theorem held_fillCore {s : State} {core : Nat} {y : Instance × Nat} {w : Word}
    (habsent : held s.codeCache (core, y.1.id, y.2) = none)
    (htract : held s.tractCode (tractOf core, y.1.id, y.2) = some w) :
    held (fillCore s core y).codeCache (core, y.1.id, y.2) = some w := by
  refine held_foldl_burstMates (fun l k hne hl => ?_) (fun l hl => ?_) habsent
  · split
    · exact held_cacheWord_other hl (by simpa using hne) _ _
    · exact hl
  · obtain ⟨c, hfind, hc⟩ := Option.map_eq_some_iff.mp htract
    simp only [hfind]
    exact hc ▸ held_cacheWord_same hl _ _

/-! ### A fetch -/

/-- The word at a place of an image: from the cache of the core, from that of its tract, or from DRAM. -/
def wordFrom (s : State) (core : Nat) (y : Instance × Nat) : Word :=
  ((held s.codeCache (core, y.1.id, y.2)).or (held s.tractCode (tractOf core, y.1.id, y.2))).getD
    (wordAt s.dram.mem (y.1.dpa + 4 * y.2))

theorem fetchWord_eq (s : State) (core task : Nat) (a : Word) :
    fetchWord s core task a = (codePlace s task a).elim 0 (wordFrom s core) := by
  unfold fetchWord codePlace
  cases (findTask s task).bind (instanceOf s) with
  | none => rfl
  | some i =>
    simp only [Option.map_some, Option.elim_some, wordFrom, held]
    cases s.codeCache.find? fun c => decide (c.1 = (core, i.id, (a.toNat - i.pcBase.toNat) / 4)) with
    | some c => rfl
    | none =>
      cases s.tractCode.find? fun c => decide (c.1 = (tractOf core, i.id, (a.toNat - i.pcBase.toNat) / 4)) <;> rfl

/-- A place in code depends on the tasks and the images alone. -/
theorem codePlace_congr {s t : State} (htasks : t.tasks = s.tasks) (himages : t.instances = s.instances) (task : Nat)
    (a : Word) : codePlace t task a = codePlace s task a := by
  have himage : instanceOf t = instanceOf s := funext fun x => by rw [instanceOf, instanceOf, himages]
  rw [codePlace, codePlace, findTask, findTask, htasks, himage]

/-- The word at an address depends on the tasks, the images, the code caches and the bytes of DRAM alone. -/
theorem fetchWord_congr {s t : State} (htasks : t.tasks = s.tasks) (himages : t.instances = s.instances)
    (hcode : t.codeCache = s.codeCache) (htract : t.tractCode = s.tractCode) (hmem : t.dram.mem = s.dram.mem)
    (core task : Nat) (a : Word) : fetchWord t core task a = fetchWord s core task a := by
  have hword : wordFrom t core = wordFrom s core := funext fun y => by rw [wordFrom, wordFrom, hcode, htract, hmem]
  rw [fetchWord_eq, fetchWord_eq, codePlace_congr htasks himages, hword]

theorem readNormal_mem (d : Dram) (dpa : Nat) : (readNormal d dpa).mem = d.mem := by
  unfold readNormal countReport
  split <;> rfl

/-- A fetch changes no byte of DRAM. -/
theorem cacheFetched_mem (s : State) (core task : Nat) (a : Word) :
    (cacheFetched s core task a).dram.mem = s.dram.mem := by
  unfold cacheFetched
  split
  · rfl
  · split
    · rfl
    · split
      · exact readNormal_mem ..
      · rfl

/-- Filling the caches with the word at a place leaves that word as it is. -/
theorem wordFrom_fill {s : State} {core : Nat} {y : Instance × Nat}
    (habsent : held s.codeCache (core, y.1.id, y.2) = none) :
    wordFrom (fillCore (if codeMisses s core y then fillTract s core y else s) core y) core y = wordFrom s core y := by
  have hmiss : codeMisses s core y = (held s.tractCode (tractOf core, y.1.id, y.2)).isNone := by
    simp [codeMisses, cached_eq_isSome, habsent]
  cases htract : held s.tractCode (tractOf core, y.1.id, y.2) with
  | none =>
    have hcore := held_fillCore (s := fillTract s core y) habsent (held_cacheWords htract s tractCodeWords)
    rw [hmiss, htract, Option.isNone_none, if_pos rfl, wordFrom, wordFrom, hcore, habsent, htract]
    rfl
  | some w =>
    rw [hmiss, htract, Option.isNone_some, if_neg Bool.false_ne_true, wordFrom, wordFrom, held_fillCore habsent htract,
      habsent, htract]
    rfl

/-- A fetch leaves the word that it fetches as it is. -/
theorem fetchWord_cacheFetched (s : State) (core task : Nat) (a : Word) :
    fetchWord (cacheFetched s core task a) core task a = fetchWord s core task a := by
  have hplace := codePlace_congr (cacheFetched_tasks s core task a) (cacheFetched_instances s core task a) task a
  rw [fetchWord_eq, fetchWord_eq, hplace]
  unfold cacheFetched
  cases codePlace s task a with
  | none => rfl
  | some y =>
    simp only [Option.elim_some]
    split
    · rfl
    · next habsent => exact wordFrom_fill (by simpa [cached_eq_isSome] using habsent)

end Sys2Proof.CodeCaches
end

section
/-!
PROOF. The issue of a word (R31, R57, R68, R241, R267, R276, R306): the group and the path at the issue position, what
each outcome of fetching and decoding leaves as it was, and the first decision of a step.
-/

namespace Sys2Proof.Issuance

open Sys2Proof Sys2Proof.Machine Sys2Proof.CodeCaches

/-! ### Packing (R22, R267) -/

/-- A group without the marks that packing leaves on it. -/
def unpacked (x : Group) : Group := { x with packed := false, lastIssue := 0 }

/-- A group that issues, once it has had its share of the issue. -/
def led (s : State) (g : Group) : Group :=
  { g with packed := false, lastIssue := if g.packed then g.lastIssue else s.now }

theorem gid_of_findGroup {s : State} {gid : Nat} {g : Group} (h : findGroup s gid = some g) : g.gid = gid := by
  simpa using List.find?_some h

theorem pid_of_findPath {g : Group} {pid : Nat} {p : Path} (h : findPath g pid = some p) : p.pid = pid := by
  simpa using List.find?_some h

theorem findGroup_congr {s t : State} (h : t.groups = s.groups) (id : Nat) : findGroup t id = findGroup s id := by
  rw [findGroup, findGroup, h]

/-- Finding a group by its number after groups have changed that keep their numbers. -/
theorem find?_updWhere_gid {f : Group → Group} (hf : ∀ x, (f x).gid = x.gid) (l : List Group) (c : Group → Bool)
    (id : Nat) : (updWhere l c f).find? (fun x => decide (x.gid = id)) =
      (l.find? fun x => decide (x.gid = id)).map fun x => if c x then f x else x := by
  have hkey : ((fun x : Group => decide (x.gid = id)) ∘ fun x => if c x then f x else x) =
      fun x => decide (x.gid = id) := by
    funext x
    by_cases hc : c x <;> simp [hc, hf]
  rw [updWhere, List.find?_map, hkey]

/-- The groups that a fold takes by number from a list are of that list. -/
theorem mem_of_foldl_takes {f : Nat × List Nat → Group → Nat × List Nat}
    (hf : ∀ acc h, ∀ n ∈ (f acc h).2, n ∈ acc.2 ∨ n = h.gid) {l : List Group} {acc : Nat × List Nat} {n : Nat}
    (hn : n ∈ (l.foldl f acc).2) : n ∈ acc.2 ∨ ∃ h ∈ l, h.gid = n := by
  induction l generalizing acc with
  | nil => exact .inl hn
  | cons h l ih =>
    rcases ih hn with hin | ⟨x, hx, rfl⟩
    · exact (hf acc h n hin).imp_right fun e => ⟨h, List.mem_cons_self, e.symm⟩
    · exact .inr ⟨x, List.mem_cons_of_mem h hx, rfl⟩

/-- No group is packed with its own issue. -/
theorem gid_not_mem_packedWith (s : State) (g : Group) : g.gid ∉ packedWith s g := by
  intro hmem
  have htakes : ∀ (acc : Nat × List Nat) (h : Group),
      ∀ n ∈ (if acc.1 + h.width ≤ 64 then (acc.1 + h.width, acc.2 ++ [h.gid]) else acc).2, n ∈ acc.2 ∨ n = h.gid := by
    intro acc h n hn
    split at hn
    · simpa using hn
    · exact .inl hn
  rcases mem_of_foldl_takes htakes hmem with hnil | ⟨h, hh, hgid⟩
  · exact List.not_mem_nil hnil
  · have hother := (List.mem_filter.mp ((Placing.sortBy_perm _ _).mem_iff.mp hh)).2
    simp [hgid] at hother

/-- A group of the same core, marked by an issue that `g` leads. -/
def marked (s : State) (g h : Group) : Group :=
  { h with
    packed := decide (h.gid ∈ packedWith s g)
    lastIssue := if h.gid = g.gid ∨ h.gid ∈ packedWith s g then s.now else h.lastIssue }

theorem packIssue_of_packed {s : State} {g : Group} (hp : g.packed = true) :
    packIssue s g = putGroup s { g with packed := false } := if_pos hp

theorem packIssue_of_leads {s : State} {g : Group} (hp : g.packed = false) :
    packIssue s g = { s with groups := updWhere s.groups (fun h => decide (h.core = g.core)) (marked s g) } :=
  if_neg (by simp [hp])

theorem findGroup_packIssue_of_leads {s : State} {g : Group} (hp : g.packed = false) (id : Nat) :
    findGroup (packIssue s g) id =
      (findGroup s id).map fun x => if decide (x.core = g.core) then marked s g x else x := by
  rw [packIssue_of_leads hp]
  exact find?_updWhere_gid (f := marked s g) (fun _ => rfl) ..

/-- Packing leaves the group that issues with its share of the issue. -/
theorem findGroup_packIssue_same {s : State} {g : Group} (hg : findGroup s g.gid = some g) :
    findGroup (packIssue s g) g.gid = some (led s g) := by
  cases hp : g.packed with
  | true =>
    rw [packIssue_of_packed hp, findGroup_putGroup s g { g with packed := false } rfl hg, led, if_pos hp]
  | false =>
    rw [findGroup_packIssue_of_leads hp, hg]
    simp [marked, led, hp, gid_not_mem_packedWith]

/-- Packing marks other groups, and changes nothing else of them. -/
theorem findGroup_packIssue_other {s : State} {g : Group} {id : Nat} (hne : id ≠ g.gid) :
    (findGroup (packIssue s g) id).map unpacked = (findGroup s id).map unpacked := by
  cases hp : g.packed with
  | true => rw [packIssue_of_packed hp, findGroup_putGroup_other s { g with packed := false } id hne]
  | false =>
    rw [findGroup_packIssue_of_leads hp, Option.map_map]
    congr 1
    funext x
    simp only [Function.comp_apply]
    split <;> rfl

/-! ### The group and the path at the issue position (R241) -/

/-- The path whose turn it is: it waits no longer. -/
def turned (s : State) (p : Path) : Path := { p with turn := s.now, park := none }

/-- The group at the issue position. -/
def entered (s : State) (g : Group) (p : Path) : Group := setPath (led s g) (turned s p)

/-- The machine with a path at its word, before the fetch. -/
def atWord (s : State) (g : Group) (p : Path) : State :=
  { putGroup (packIssue s g) (entered s g p) with cursor := some { gid := g.gid, pid := p.pid, pc := p.pc, word := 0 } }

/-- In `v` the group `g` of `u` stands at an issue of its path `p` as `g'`, which has issued `n` sequences. Of other groups
only the packing has changed, and of `g` nothing but the packing, the path and the count. -/
def IssuesFrom (u : State) (g : Group) (p : Path) (v : State) (g' : Group) (n : Nat) : Prop :=
  findGroup v g.gid = some g' ∧ findPath g' p.pid = some (turned u p) ∧
  (∀ id, id ≠ p.pid → findPath g' id = findPath g id) ∧
  (∀ id, id ≠ g.gid → (findGroup v id).map unpacked = (findGroup u id).map unpacked) ∧
  v.cursor.map (fun c => (c.gid, c.pid, c.pc)) = some (g.gid, p.pid, p.pc) ∧
  g' = { g with lastIssue := if g.packed then g.lastIssue else u.now, packed := false, paths := g'.paths, issued := n }

/-- Counting a sequence for the group at the issue position. -/
theorem issuesFrom_counted {u v v' : State} {g : Group} {p : Path} {n : Nat}
    (h : IssuesFrom u g p v (entered u g p) g.issued)
    (hgroups : v'.groups = (putGroup v { entered u g p with issued := n }).groups)
    (hcursor : v'.cursor.map (fun c => (c.gid, c.pid, c.pc)) = some (g.gid, p.pid, p.pc)) :
    IssuesFrom u g p v' { entered u g p with issued := n } n := by
  obtain ⟨hgroup, hpath, hpaths, hothers, -, -⟩ := h
  refine ⟨?_, hpath, hpaths, fun id hne => ?_, hcursor, rfl⟩
  · rw [findGroup_congr hgroups]
    exact findGroup_putGroup v (entered u g p) { entered u g p with issued := n } rfl hgroup
  · rw [findGroup_congr hgroups, findGroup_putGroup_other v { entered u g p with issued := n } id hne, hothers id hne]

/-- The machine once the word has come: a path that holds words needs no fetch (R306). -/
def fetched (u : State) (g : Group) (p : Path) : State :=
  if p.pre.words.isEmpty then cacheFetched (atWord u g p) g.core g.task p.pc else atWord u g p

/-- The word that a path issues. -/
def issuedWord (u : State) (g : Group) (p : Path) : Word :=
  if !p.pre.words.isEmpty then p.pre.words.headD 0 else fetchWord u g.core g.task p.pc

/-- A word that the path does not hold and that cannot be read (R68). -/
def unreadable (u : State) (g : Group) (p : Path) : Bool :=
  p.pre.words.isEmpty && codeBad u g.core g.task p.pc

/-- The group at the issue position once its word is counted, if it ends a sequence and has not waited (R267). -/
def counted (u : State) (g : Group) (p : Path) (i : Instr) : Group :=
  { entered u g p with issued := if isPrefix i = true ∨ p.park.isSome = true then g.issued else g.issued + 1 }

/-- The machine at which the word `i` executes. -/
def executing (u : State) (g : Group) (p : Path) (i : Instr) : State :=
  { putGroup (fetched u g p) (counted u g p i) with
    cursor := some { gid := g.gid, pid := p.pid, pc := p.pc, word := issuedWord u g p } }

theorem atWord_frame (u : State) (g : Group) (p : Path) :
    atWord u g p = { u with groups := (atWord u g p).groups, cursor := (atWord u g p).cursor } := by
  rw [atWord, packIssue_frame]
  rfl

theorem fetched_groups (u : State) (g : Group) (p : Path) : (fetched u g p).groups = (atWord u g p).groups := by
  unfold fetched
  split
  · exact cacheFetched_groups ..
  · rfl

theorem fetched_cursor (u : State) (g : Group) (p : Path) : (fetched u g p).cursor = (atWord u g p).cursor := by
  unfold fetched
  split
  · exact cacheFetched_cursor ..
  · rfl

/-- Once the word has come, only groups, the cursor, code caches and the counts of the stacks have changed. -/
theorem fetched_frame (u : State) (g : Group) (p : Path) :
    fetched u g p = { u with
      groups := (fetched u g p).groups
      codeCache := (fetched u g p).codeCache
      tractCode := (fetched u g p).tractCode
      dram := (fetched u g p).dram
      cursor := (fetched u g p).cursor } := by
  unfold fetched
  split
  · rw [cacheFetched_frame, atWord_frame]
  · rw [atWord_frame]

theorem fetched_mem (u : State) (g : Group) (p : Path) : (fetched u g p).dram.mem = u.dram.mem := by
  have hdram : (atWord u g p).dram = u.dram := by rw [atWord_frame]
  unfold fetched
  split
  · rw [cacheFetched_mem, hdram]
  · rw [hdram]

/-- The word that has come is the one that the next fetch from there gets. -/
theorem fetchWord_fetched {u : State} {g : Group} {p : Path} (hwords : p.pre.words.isEmpty = true) :
    fetchWord (fetched u g p) g.core g.task p.pc = fetchWord u g.core g.task p.pc := by
  rw [fetched, if_pos hwords, fetchWord_cacheFetched]
  apply fetchWord_congr <;> rw [atWord_frame]

/-- Where a word cannot be read, its burst is counted and the task stops (R68, R278). -/
theorem stopFetch_stops (s : State) (g : Group) (p : Path) : ∃ v,
    stopFetch s g p = stopWith v g.task
      (uncorrectable (laneOf g (reportLane p 0)).step (laneOf g (reportLane p 0)).tid 0 (seqStart p)) ∧
    v = { s with dram := v.dram } ∧ v.dram.mem = s.dram.mem := by
  unfold stopFetch
  cases codePlace s g.task p.pc with
  | none => exact ⟨s, rfl, rfl, rfl⟩
  | some y => exact ⟨_, rfl, rfl, readNormal_mem ..⟩

/-- A word that is no instruction, or one whose sequence it does not accept, is illegal. -/
theorem dispatchWord_illegal {s : State} {g : Group} {p : Path} {waited : Bool} {w : Word}
    (h : (∃ e, decode w = .error e) ∨ ∃ i, decode w = .ok i ∧ isPrefix i = false ∧ prefixOk p i = false) :
    dispatchWord s g p waited w = .done (illegalTrap s g p w) := by
  rcases h with ⟨e, he⟩ | ⟨i, hi, hpre, hok⟩
  · simp [dispatchWord, he]
  · simp [dispatchWord, hi, hpre, hok]

/-- A word that its sequence accepts executes; it is counted unless it is `HINT`, `MOD` or `IMM`, or has waited. -/
theorem dispatchWord_runs {s : State} {g : Group} {p : Path} {waited : Bool} {w : Word} {i : Instr}
    (hdecode : decode w = .ok i) (haccepts : isPrefix i = true ∨ prefixOk p i = true) :
    dispatchWord s g p waited w = .run i
      { putGroup s { g with issued := if isPrefix i = true ∨ waited = true then g.issued else g.issued + 1 } with
        cursor := some { gid := g.gid, pid := p.pid, pc := p.pc, word := w } } := by
  by_cases hcount : isPrefix i = true ∨ waited = true
  · simp only [dispatchWord, hdecode, Bool.or_eq_true, if_pos haccepts, if_pos hcount]
  · simp only [dispatchWord, hdecode, Bool.or_eq_true, if_pos haccepts, if_neg hcount]

section

variable {u : State} {g : Group} {p : Path} (hg : findGroup u g.gid = some g) (hp : findPath g p.pid = some p)
include hg hp

/-- A machine that packing and the path's turn alone have touched: the group has not issued yet. -/
theorem issuesFrom_entered {v : State} (hgroups : v.groups = (atWord u g p).groups)
    (hcursor : v.cursor.map (fun c => (c.gid, c.pid, c.pc)) = some (g.gid, p.pid, p.pc)) :
    IssuesFrom u g p v (entered u g p) g.issued := by
  have hfind : ∀ id, findGroup v id = findGroup (putGroup (packIssue u g) (entered u g p)) id := findGroup_congr hgroups
  refine ⟨?_, findPath_setPath (led u g) p (turned u p) rfl hp,
    fun id hne => findPath_setPath_other (led u g) (turned u p) id hne, fun id hne => ?_, hcursor, rfl⟩
  · rw [hfind]
    exact findGroup_putGroup (packIssue u g) (led u g) _ rfl (findGroup_packIssue_same hg)
  · rw [hfind, findGroup_putGroup_other _ (entered u g p) id hne, findGroup_packIssue_other hne]

/-- The three ways of a fetch. -/
theorem issueFrom_eq : issueFrom u g p =
    if inImage u g.task p.pc = false then
      .done (addressTrap (atWord u g p) (entered u g p) (turned u p) (reportLane (turned u p) 0) 0 p.pc)
    else if unreadable u g p = true then .done (stopFetch (atWord u g p) (entered u g p) (turned u p))
    else dispatchWord (fetched u g p) (entered u g p) (turned u p) p.park.isSome (issuedWord u g p) := by
  have hat : atIssue (packIssue u g) ((findGroup (packIssue u g) g.gid).getD g) p = (entered u g p, turned u p) := by
    have hpath : findPath (led u g) p.pid = some p := hp
    rw [findGroup_packIssue_same hg, Option.getD_some, atIssue, hpath, Option.getD_some, packIssue_now]
    rfl
  cases himage : inImage u g.task p.pc with
  | false => simp only [issueFrom, hat, himage]; rfl
  | true =>
    cases hwords : p.pre.words with
    | nil => simp only [issueFrom, hat, himage, hwords, fetched, issuedWord, unreadable]; rfl
    | cons w ws => simp only [issueFrom, hat, himage, hwords, fetched, issuedWord, unreadable]; rfl

/-- R31: a program counter outside the image. -/
theorem outside_traps (himage : inImage u g.task p.pc = false) : ∃ v g',
    issueFrom u g p = .done (takeTrap v g' (turned u p) { kind := 2, lane := (lowest p.exec).getD 0, word := 0,
                                                          addr := p.pc, info := 0, after := false }) ∧
    IssuesFrom u g p v g' g.issued ∧ v = { u with groups := v.groups, cursor := v.cursor } := by
  refine ⟨atWord u g p, entered u g p, ?_, issuesFrom_entered hg hp rfl rfl, atWord_frame u g p⟩
  rw [issueFrom_eq hg hp, if_pos himage]
  rfl

/-- R68: a word that cannot be read. -/
theorem unreadable_stops (himage : inImage u g.task p.pc = true) (hbad : unreadable u g p = true) : ∃ v g',
    issueFrom u g p = .done (stopWith v g.task
      { kind := 0x0B, step := (laneOf g ((lowest p.exec).getD 0)).step, addr := 0, rule := 0, count := 0,
        tid0 := (laneOf g ((lowest p.exec).getD 0)).tid, tid1 := BitVec.allOnes 32, pc := seqStart p }) ∧
    IssuesFrom u g p v g' g.issued ∧
    v = { u with groups := v.groups, dram := v.dram, cursor := v.cursor } ∧ v.dram.mem = u.dram.mem := by
  have hissue : issueFrom u g p = .done (stopFetch (atWord u g p) (entered u g p) (turned u p)) := by
    rw [issueFrom_eq hg hp, if_neg (by simp [himage]), if_pos hbad]
  have hdram : (atWord u g p).dram = u.dram := by rw [atWord_frame]
  obtain ⟨v, hstop, hframe, hmem⟩ := stopFetch_stops (atWord u g p) (entered u g p) (turned u p)
  refine ⟨v, entered u g p, by rw [hissue, hstop]; rfl, issuesFrom_entered hg hp (by rw [hframe]) (by rw [hframe]; rfl),
    ?_, by rw [hmem, hdram]⟩
  rw [hframe, atWord_frame]

/-- R57: a word that is no instruction, or that does not accept what its sequence holds. -/
theorem illegal_traps (himage : inImage u g.task p.pc = true) (hgood : unreadable u g p = false)
    (hillegal : (∃ e, decode (issuedWord u g p) = .error e) ∨
      ∃ i, decode (issuedWord u g p) = .ok i ∧ isPrefix i = false ∧ prefixOk p i = false) : ∃ v g',
    issueFrom u g p = .done (takeTrap v g' (turned u p)
      { kind := 1, lane := (lowest (wordActive (turned u p) (issuedWord u g p))).getD ((lowest p.exec).getD 0)
        word := issuedWord u g p, addr := 0, info := 0, after := false }) ∧
    IssuesFrom u g p v g' g.issued ∧
    v = { u with groups := v.groups, codeCache := v.codeCache, tractCode := v.tractCode, dram := v.dram
                 cursor := v.cursor } ∧ v.dram.mem = u.dram.mem := by
  refine ⟨fetched u g p, entered u g p, ?_,
    issuesFrom_entered hg hp (fetched_groups u g p) (by rw [fetched_cursor]; rfl), fetched_frame u g p, fetched_mem u g p⟩
  rw [issueFrom_eq hg hp, if_neg (by simp [himage]), if_neg (by simp [hgood])]
  exact dispatchWord_illegal hillegal

/-- R31, R57: a word that its sequence accepts. -/
theorem word_executes (himage : inImage u g.task p.pc = true) (hgood : unreadable u g p = false) {i : Instr}
    (hdecode : decode (issuedWord u g p) = .ok i) (haccepts : isPrefix i = true ∨ prefixOk p i = true) : ∃ v g',
    issueFrom u g p = .run i v ∧ Issuing v g' (turned u p) (issuedWord u g p) ∧
    IssuesFrom u g p v g' (if isPrefix i = true ∨ p.park.isSome = true then g.issued else g.issued + 1) ∧
    (p.pre.words.isEmpty = true → fetchWord v g.core g.task p.pc = issuedWord u g p) ∧
    v = { u with groups := v.groups, codeCache := v.codeCache, tractCode := v.tractCode, dram := v.dram
                 cursor := v.cursor } ∧ v.dram.mem = u.dram.mem := by
  have hissue : issueFrom u g p = .run i (executing u g p i) := by
    rw [issueFrom_eq hg hp, if_neg (by simp [himage]), if_neg (by simp [hgood]),
      dispatchWord_runs (p := turned u p) hdecode haccepts]
    rfl
  have hfetched : IssuesFrom u g p (fetched u g p) (entered u g p) g.issued :=
    issuesFrom_entered hg hp (fetched_groups u g p) (by rw [fetched_cursor]; rfl)
  have hplace := issuesFrom_counted hfetched (v' := executing u g p i) rfl rfl
  have ⟨hgroup, hpath, _⟩ := hplace
  refine ⟨executing u g p i, counted u g p i, hissue, ⟨rfl, hgroup, hpath⟩, hplace, fun hwords => ?_, ?_,
    fetched_mem u g p⟩
  · calc fetchWord (executing u g p i) g.core g.task p.pc
      _ = fetchWord (fetched u g p) g.core g.task p.pc := fetchWord_congr rfl rfl rfl rfl rfl ..
      _ = fetchWord u g.core g.task p.pc := fetchWord_fetched hwords
      _ = issuedWord u g p := by simp [issuedWord, hwords]
  · rw [executing, fetched_frame]
    rfl

end

/-! ### The decision of a step -/

/-- The decision `d` is taken at `s`, which leaves `u`: the first of the agenda, the only move that the device can make,
or the one of several that a free value names. -/
def Taken (s : State) (d : Decision) (u : State) : Prop :=
  (∃ rest, s.agenda = d :: rest ∧ u = { tick s with agenda := rest }) ∨
  (s.agenda = [] ∧ candidates (tick s) = [d] ∧ u = tick s) ∨
  (s.agenda = [] ∧ 2 ≤ (candidates (tick s)).length ∧ u = { tick s with fresh := (tick s).fresh + 1 } ∧
    (candidates (tick s))[Config.choice (tick s).fresh % (candidates (tick s)).length]? = some d)

theorem nextDecision_of_agenda {s : State} {d : Decision} {rest : List Decision} (h : s.agenda = d :: rest) :
    nextDecision s = (some d, { s with agenda := rest }) := by
  simp only [nextDecision, h]

theorem nextDecision_of_schedule {s : State} (h : s.agenda = []) : nextDecision s = schedule s := by
  simp only [nextDecision, h]

theorem schedule_of_many {s : State} (h : 2 ≤ (candidates s).length) :
    schedule s = ((candidates s)[Config.choice s.fresh % (candidates s).length]?, { s with fresh := s.fresh + 1 }) := by
  unfold schedule
  split
  · simp_all
  · simp_all
  · rfl

theorem nextDecision_of_taken {s u : State} {d : Decision} (h : Taken s d u) : nextDecision (tick s) = (some d, u) := by
  rcases h with ⟨rest, hagenda, rfl⟩ | ⟨hagenda, honly, rfl⟩ | ⟨hagenda, hmany, rfl, hd⟩
  · exact nextDecision_of_agenda hagenda
  · rw [nextDecision_of_schedule (s := tick s) hagenda, schedule, honly]
  · rw [nextDecision_of_schedule (s := tick s) hagenda, schedule_of_many hmany, hd]

/-- How a step ends. -/
def outcome : Issue → Host.Outcome State Fault Refusal
  | .done t => .next t
  | .run i t => exec i t

theorem step_eq_outcome (s : State) : step s = outcome (carryOut (nextDecision (tick s))) := by
  rw [step, nextInstr]
  cases carryOut (nextDecision (tick s)) <;> rfl

/-- A step carries out the decision that is taken. -/
theorem step_of_taken {s u : State} {d : Decision} (h : Taken s d u) : step s = outcome (carryOut (some d, u)) := by
  rw [step_eq_outcome, nextDecision_of_taken h]

theorem step_idle {s : State} (hagenda : s.agenda = []) (hnone : candidates (tick s) = []) : step s = .next (tick s) := by
  rw [step_eq_outcome, nextDecision_of_schedule (s := tick s) hagenda, schedule, hnone]
  rfl

theorem carryOut_event (e : Instr) (u : State) :
    outcome (carryOut (some (.event e), u)) = if e.isWord then .next u else exec e u := by
  simp only [carryOut]
  split <;> rfl

theorem carryOut_issue (gid pid : Nat) (u : State) : carryOut (some (.issue gid pid), u) = issue gid pid u := rfl

/-- A path that may not issue, or that there is not, leaves the machine as it is. -/
theorem issue_impossible {u : State} {gid pid : Nat}
    (h : ¬ ∃ g p, findGroup u gid = some g ∧ findPath g pid = some p ∧ mayIssue u g p = true) :
    issue gid pid u = .done u := by
  rw [issue]
  cases hg : findGroup u gid with
  | none => rfl
  | some g =>
    cases hp : findPath g pid with
    | none => simp only [hp]
    | some p => simp only [hp, if_neg fun hmay => h ⟨g, p, hg, hp, hmay⟩]

theorem issue_possible {u : State} {g : Group} {p : Path} (hg : findGroup u g.gid = some g)
    (hp : findPath g p.pid = some p) (hmay : mayIssue u g p = true) : issue g.gid p.pid u = issueFrom u g p := by
  simp only [issue, hg, hp, if_pos hmay]

/-- Settles O4: the decision that is taken is carried out, and an issue ends in one of the four ways of a fetch. -/
theorem stepRunsTheDecodedInstruction : Obligations.StepRunsTheDecodedInstruction := by
  refine fun s => ⟨step_idle, fun d u (htaken : Taken s d u) => ⟨?_, ?_, ?_, ?_⟩⟩
  · rintro e rfl
    rw [step_of_taken htaken, carryOut_event]
  · rintro h rfl
    exact step_of_taken htaken
  · rintro gid pid rfl himpossible
    rw [step_of_taken htaken, carryOut_issue, issue_impossible himpossible, outcome]
  · rintro gid pid g p rfl hg hp hmay
    obtain rfl := gid_of_findGroup hg
    obtain rfl := pid_of_findPath hp
    have hstep : step s = outcome (issueFrom u g p) := by
      rw [step_of_taken htaken, carryOut_issue, issue_possible hg hp hmay]
    refine ⟨fun himage hbad => ?_, fun himage hbad => ?_, fun himage => ?_⟩
    · have hgood : unreadable u g p = false := by simpa [unreadable] using hbad
      refine ⟨fun i hdecode haccepts => ?_, fun hillegal => ?_⟩
      · obtain ⟨v, g', hissue, hissuing, hplace, hfetch, hframe⟩ := word_executes hg hp himage hgood hdecode haccepts
        exact ⟨v, g', by rw [hstep, hissue]; rfl, hissuing, hplace, fun hheld => hfetch (by simpa using hheld), hframe⟩
      · obtain ⟨v, g', hissue, hplace, hframe⟩ := illegal_traps hg hp himage hgood hillegal
        exact ⟨v, g', by rw [hstep, hissue]; rfl, hplace, hframe⟩
    · obtain ⟨v, g', hissue, hplace, hframe⟩ := unreadable_stops hg hp himage (by simpa [unreadable] using hbad)
      exact ⟨v, g', by rw [hstep, hissue]; rfl, hplace, hframe⟩
    · obtain ⟨v, g', hissue, hplace, hframe⟩ := outside_traps hg hp himage
      exact ⟨v, g', by rw [hstep, hissue]; rfl, hplace, hframe⟩

end Sys2Proof.Issuance
end

section
/-!
SUPPORT. What the invariant speaks of: the four memories, the plat and the partitions with their cores. Of each shared
operation of the machine it is said once whether it leaves them as they are (`footing_…`) or keeps what the invariant
demands of them (`sound_…`). Proofs stand as `(rfl)` where `simp` has to use the equation inside a side condition, which
it cannot do by unfolding.
-/

namespace Sys2Proof.Footings

open Sys2Proof Sys2Proof.Machine

/-- What the invariant speaks of. -/
structure Footing where
  sram : Cells 8
  dram : Cells 8
  tables : Cells 8
  host : Cells 8
  plat : Vector (BitVec 64) 16
  cores : List (Nat × BitVec 512)

/-- The footing of a machine. -/
def footing (s : State) : Footing :=
  { sram := s.sram.mem, dram := s.dram.mem, tables := s.dram.tableRows, host := s.host.mem, plat := s.dram.plat,
    cores := s.parts.map fun q => (q.id, q.cores) }

/-- What the invariant demands of a footing. -/
structure Footing.Sound (x : Footing) : Prop where
  sram : Memory.wf x.sram = true
  dram : Memory.wf x.dram = true
  tables : Memory.wf x.tables = true
  host : Memory.wf x.host = true
  plat : ∀ i j, (hi : i < 16) → (hj : j < 16) → i ≠ j → compatible x.plat[i] x.plat[j] = true
  cores : x.cores.Pairwise fun p q => p.1 ≠ q.1 → p.2 &&& q.2 = 0

theorem inv_iff_sound (s : State) : Inv s ↔ (footing s).Sound :=
  ⟨fun h => ⟨h.sram, h.dram, h.tables, h.host, h.plat, List.pairwise_map.mpr h.cores⟩,
    fun h => ⟨h.sram, h.dram, h.tables, h.host, h.plat, List.pairwise_map.mp h.cores⟩⟩

/-! ### Records -/

@[simp] theorem footing_mk (now fresh : Nat) (agenda : List Decision) (cursor : Option Cursor) (groups : List Group)
    (sram : Sram) (eng : Engines) (dram : Dram) (objects : List Object) (instances : List Instance)
    (codeCache tractCode : List ((Nat × Nat × Nat) × Word)) (tasks : List Task) (parts : List Partition)
    (kept : List Kept) (xlate : Xlate) (host : HostSide) (fabric : Fabric) (mgmt : Mgmt) :
    footing ⟨now, fresh, agenda, cursor, groups, sram, eng, dram, objects, instances, codeCache, tractCode, tasks, parts,
      kept, xlate, host, fabric, mgmt⟩ =
    ⟨sram.mem, dram.mem, dram.tableRows, host.mem, dram.plat, parts.map fun q => (q.id, q.cores)⟩ := (rfl)

@[simp] theorem footing_eta (s : State) :
    (⟨s.sram.mem, s.dram.mem, s.dram.tableRows, s.host.mem, s.dram.plat, s.parts.map fun q => (q.id, q.cores)⟩ : Footing) =
      footing s := (rfl)

/-- A change of partitions that keeps their numbers and cores. -/
@[simp] theorem footing_updParts (l : List Partition) (p : Partition → Bool) (f : Partition → Partition)
    (hf : ∀ q, (f q).id = q.id ∧ (f q).cores = q.cores) :
    (updWhere l p f).map (fun q => (q.id, q.cores)) = l.map fun q => (q.id, q.cores) := by
  simp only [updWhere, List.map_map]
  refine List.map_congr_left fun q _ => ?_
  simp only [Function.comp_apply]
  split
  · rw [(hf q).1, (hf q).2]
  · rfl

theorem footing_foldl {α : Type} {f : State → α → State} (hf : ∀ s x, footing (f s x) = footing s) (l : List α)
    (s : State) : footing (l.foldl f s) = footing s := by
  induction l generalizing s with
  | nil => rfl
  | cons x l ih => exact (ih _).trans (hf _ _)

theorem sound_foldl {α : Type} {f : State → α → State}
    (hf : ∀ s x, (footing s).Sound → (footing (f s x)).Sound) (l : List α) {s : State} (h : (footing s).Sound) :
    (footing (l.foldl f s)).Sound := by
  induction l generalizing s with
  | nil => exact h
  | cons x l ih => exact ih (hf _ _ h)

/-! ### Tasks, groups and traps -/

@[simp] theorem footing_setOwners (s : State) (l : List (Nat × Owner)) : footing (setOwners s l) = footing s := (rfl)
@[simp] theorem footing_putTask (s : State) (t : Task) : footing (putTask s t) = footing s := (rfl)
@[simp] theorem footing_modTask (s : State) (uid : Nat) (f : Task → Task) : footing (modTask s uid f) = footing s := (rfl)
@[simp] theorem footing_putGroup (s : State) (g : Group) : footing (putGroup s g) = footing s := (rfl)
@[simp] theorem footing_putPath (s : State) (g : Group) (p : Path) : footing (putPath s g p) = footing s := (rfl)
@[simp] theorem footing_stopWith (s : State) (task : Nat) (f : Frec) : footing (stopWith s task f) = footing s := (rfl)

@[simp] theorem footing_takeTrap (s : State) (g : Group) (p : Path) (t : TrapOf) :
    footing (takeTrap s g p t) = footing s := by rw [takeTrap_frame]; rfl

@[simp] theorem footing_addrTrap (s : State) (g : Group) (p : Path) (w : Word) (sp : Space) (store : Bool) (x : AddrFail) :
    footing (addrTrap s g p w sp store x) = footing s := by
  unfold addrTrap
  split <;> exact footing_takeTrap ..

@[simp] theorem footing_illegalTrap (s : State) (g : Group) (p : Path) (w : Word) :
    footing (illegalTrap s g p w) = footing s := footing_takeTrap ..
@[simp] theorem footing_controlTrap (s : State) (g : Group) (p : Path) (m : Mask) (w : Word) :
    footing (controlTrap s g p m w) = footing s := footing_takeTrap ..
@[simp] theorem footing_handlerTrap (s : State) (g : Group) (p : Path) (m : Mask) (w : Word) :
    footing (handlerTrap s g p m w) = footing s := footing_takeTrap ..
@[simp] theorem footing_addressTrap (s : State) (g : Group) (p : Path) (l : Nat) (w a : Word) :
    footing (addressTrap s g p l w a) = footing s := footing_takeTrap ..
@[simp] theorem footing_memoryTrap (s : State) (g : Group) (p : Path) (l : Nat) (w : Word) (sp : Space) (store : Bool)
    (a : Nat) : footing (memoryTrap s g p l w sp store a) = footing s := footing_takeTrap ..
@[simp] theorem footing_engineTrap (s : State) (g : Group) (p : Path) (l : Nat) (w a : Word) (f : Nat) :
    footing (engineTrap s g p l w a f) = footing s := footing_takeTrap ..
@[simp] theorem footing_matrixTrap (s : State) (g : Group) (p : Path) (l : Nat) (w : Word) :
    footing (matrixTrap s g p l w) = footing s := footing_takeTrap ..
@[simp] theorem footing_codeTrap (s : State) (g : Group) (p : Path) (m : Mask) (w : Word) (kind : Nat) (code : Word) :
    footing (codeTrap s g p m w kind code) = footing s := footing_takeTrap ..

/-! ### Writes -/

theorem Footing.Sound.writeSram {x : Footing} (h : x.Sound) (ws : List (Nat × Byte)) :
    Footing.Sound { x with sram := cellSetAll x.sram ws } := { h with sram := wf_cellSetAll _ _ h.sram }
theorem Footing.Sound.writeDram {x : Footing} (h : x.Sound) (ws : List (Nat × Byte)) :
    Footing.Sound { x with dram := cellSetAll x.dram ws } := { h with dram := wf_cellSetAll _ _ h.dram }
theorem Footing.Sound.writeHost {x : Footing} (h : x.Sound) (ws : List (Nat × Byte)) :
    Footing.Sound { x with host := cellSetAll x.host ws } := { h with host := wf_cellSetAll _ _ h.host }

/-! ### The slices -/

@[simp] theorem footing_putSliceReg (s : State) (r : SliceReg) : footing (putSliceReg s r) = footing s := (rfl)
@[simp] theorem footing_countBad (s : State) (sec : Nat) : footing (countBad s sec) = footing s := (rfl)
@[simp] theorem footing_stopBad (s : State) (w : Who) (sec : Nat) : footing (stopBad s w sec) = footing s := (rfl)
@[simp] theorem footing_rewatch (s : State) : footing (rewatch s) = footing s := (rfl)
@[simp] theorem footing_land (s : State) (o : Store) : footing (land s o) = footing s := (rfl)
@[simp] theorem footing_dropOffer (s : State) (o : Store) : footing (dropOffer s o) = footing s := (rfl)
@[simp] theorem footing_addClears (s : State) (req step : Nat) (lines : List Nat) :
    footing (addClears s req step lines) = footing s := (rfl)
@[simp] theorem footing_setPresent (s : State) (req line : Nat) : footing (setPresent s req line) = footing s := (rfl)

@[simp] theorem footing_clearErrors (s : State) (sec : Nat) : footing (clearErrors s sec) = footing s := by
  unfold clearErrors
  split <;> rfl

@[simp] theorem footing_acceptStore (s : State) (o : Store) : footing (acceptStore s o) = footing s := by
  unfold acceptStore
  split
  · simp
  · split
    · rfl
    · dsimp only
      split
      · rfl
      · split <;> rfl

@[simp] theorem sound_rewriteSector {s : State} (h : (footing s).Sound) (sec : Nat) (c : List Symbol) :
    (footing (rewriteSector s sec c)).Sound :=
  { (footing_clearErrors s sec).symm ▸ h with sram := wf_cellSetAll _ _ h.sram }

@[simp] theorem sound_readSector {s : State} (h : (footing s).Sound) (sec : Nat) : (footing (readSector s sec)).Sound := by
  unfold readSector
  split
  · exact h
  · split <;> simp [h]

@[simp] theorem sound_readSectors {α : Type} {s : State} (h : (footing s).Sound) (f : α → Nat) (l : List α) :
    (footing (l.foldl (fun s x => readSector s (f x)) s)).Sound :=
  sound_foldl (fun _ x h => sound_readSector h (f x)) l h

@[simp] theorem sound_sramWrite {s : State} (h : (footing s).Sound) (step : Option Nat) (ws : List (Nat × Byte)) :
    (footing (sramWrite s step ws)).Sound := h.writeSram ws

@[simp] theorem sound_sectorWrite {s : State} (h : (footing s).Sound) (w : Who) (step : Option Nat)
    (mine : List (Nat × Byte)) (sec : Nat) : (footing (sectorWrite s w step mine sec)).Sound := by
  unfold sectorWrite
  repeat' split
  all_goals simp [h]

@[simp] theorem sound_guardedWrite {s : State} (h : (footing s).Sound) (w : Who) (step : Option Nat)
    (ws : List (Nat × Byte)) : (footing (guardedWrite s w step ws)).Sound :=
  sound_foldl (fun _ _ h => sound_sectorWrite h ..) _ h

@[simp] theorem sound_counterUpdate {s : State} (h : (footing s).Sound) (w : Who) (cell : Option Nat) (n code : Nat) :
    (footing (counterUpdate s w cell n code)).Sound := by
  unfold counterUpdate
  split <;> simp [h]

@[simp] theorem sound_readRange {s : State} (h : (footing s).Sound) (a n : Nat) : (footing (readRange s a n).1).Sound :=
  sound_foldl (fun _ _ h => sound_readSector h _) _ h

theorem sound_landEntries {s : State} (h : (footing s).Sound) (es : List Entry) : (footing (landEntries s es)).Sound := by
  have read {t : State} (ht : (footing t).Sound) (e : Entry) : (footing (readForSum t e)).Sound := by
    unfold readForSum
    split <;> simp [ht]
  have fold := sound_foldl (fun t e ht => sound_guardedWrite (read ht e) (entryWho e) (some (landsAfter e))
    (landedBytes (readSector s e.sector) e)) es h
  simpa [landEntries] using fold

theorem sound_landStep {s : State} (h : (footing s).Sound) (d : Dom) (t slice : Nat) :
    (footing (landStep s d t slice)).Sound := by
  unfold landStep
  split
  · simp [h]
  · split
    · simp [h]
    · simp [sound_landEntries h]

@[simp] theorem sound_serveLoad {s : State} (h : (footing s).Sound) (g : Group) (p : Path) (r : LoadReq) :
    (footing (serveLoad s g p r)).Sound := by
  unfold serveLoad
  split <;> simp [h]

@[simp] theorem sound_tryLoad {s : State} (h : (footing s).Sound) (g : Group) (p : Path) (r : LoadReq) :
    (footing (tryLoad s g p r)).Sound := by
  unfold tryLoad
  split <;> simp [h]

theorem sound_watchTest {s : State} (h : (footing s).Sound) (cond : WCond) (g : Group) (p : Path) (ws : List (Nat × Nat)) :
    (footing (watchTest cond s g p ws)).Sound := by
  unfold watchTest
  split
  · simp [h]
  · dsimp only
    split <;> simp [h]

/-- A block that is read keeps a sound footing where what goes on with its bytes does. -/
theorem sound_withBlock {s : State} (h : (footing s).Sound) (g : Group) (p : Path) (w : Word) (l : Nat) (sp : Space)
    (addr align len : Nat) {k : State → List Byte → State} (hk : ∀ t bs, (footing t).Sound → (footing (k t bs)).Sound) :
    (footing (withBlock s g p w l sp addr align len k)).Sound := by
  unfold withBlock
  split
  · simp [h]
  · split
    · simp [h]
    · dsimp only
      split
      · simp [h]
      · split
        · simp [h]
        · exact hk _ _ (sound_readRange h ..)

/-! ### Paths, parties and groups -/

@[simp] theorem footing_grantEntry (s : State) (core gid : Nat) : footing (grantEntry s core gid) = footing s := by
  unfold grantEntry
  dsimp only
  repeat' split
  all_goals rfl

@[simp] theorem footing_refillPool (s : State) (core gid : Nat) : footing (refillPool s core gid) = footing s := by
  unfold refillPool
  rw [footing_foldl fun s (_ : Nat) => footing_grantEntry s core gid]

@[simp] theorem footing_settle (s : State) (g : Group) : footing (settle s g) = footing s := by
  unfold settle
  dsimp only
  split <;> simp

@[simp] theorem footing_newGroup (s : State) (task party core width : Nat) (handler : Option Nat) (completion : Bool)
    (threads : List Thread) (pc : Word) (params : List Word) :
    footing (newGroup s task party core width handler completion threads pc params) = footing s := (rfl)

@[simp] theorem footing_releaseParty (s : State) (task party : Nat) : footing (releaseParty s task party) = footing s := by
  unfold releaseParty
  split
  · rfl
  · dsimp only
    split <;> rfl

@[simp] theorem footing_releaseParties (s : State) (task : Nat) : footing (releaseParties s task) = footing s := by
  unfold releaseParties
  split
  · split
    · rw [footing_foldl fun s (x : PartyPlace) => footing_releaseParty s task x.index]
    · rfl
  · rfl

@[simp] theorem footing_releaseChildren (s : State) (task : Nat) : footing (releaseChildren s task) = footing s := by
  unfold releaseChildren
  split <;> rfl

@[simp] theorem footing_releaseReady (s : State) : footing (releaseReady s) = footing s := (rfl)
@[simp] theorem footing_noteExits (s : State) (g : Group) (m : Mask) (pc : Word) :
    footing (noteExits s g m pc) = footing s := (rfl)

@[simp] theorem footing_exitLanes (s : State) (g : Group) (q : Path) (m : Mask) :
    footing (exitLanes s g q m) = footing s := by
  unfold exitLanes
  dsimp only
  split <;> simp

@[simp] theorem footing_paceOn (s : State) (g : Group) (p : Path) (m : Mask) (r : Nat) :
    footing (paceOn s g p m r) = footing s := by
  unfold paceOn
  repeat' split
  all_goals rfl

theorem footing_fileThread {s t : State} {core width : Nat} {key : BinKey} {x : Thread}
    (h : fileThread s core width key x = some t) : footing t = footing s := by
  unfold fileThread at h
  dsimp only at h
  split at h
  · obtain rfl := Option.some.inj h
    rfl
  · obtain ⟨k, -, rfl⟩ := Option.map_eq_some_iff.mp h
    rfl

@[simp] theorem footing_fileLanes (s : State) (g : Group) (w : Nat) (t : Nat → Word) (ls : List Nat) :
    footing (fileLanes s g w t ls).1 = footing s := by
  suffices ∀ r : State × Mask, footing (ls.foldl (fun r l =>
      match fileThread r.1 g.core w (.reform g.task g.party (t l)) (laneOf g l) with
      | some s1 => (s1, r.2 ||| BitVec.twoPow 64 l)
      | none => r) r).1 = footing r.1 from this (s, 0)
  induction ls with
  | nil => exact fun _ => rfl
  | cons l ls ih =>
    intro r
    rw [List.foldl_cons, ih]
    split
    next h => exact footing_fileThread h
    · rfl

@[simp] theorem footing_drawBin (s : State) (b : Bin) (t : Task) : footing (drawBin s b t) = footing s := by
  unfold drawBin
  dsimp only
  repeat' split
  all_goals rfl

end Sys2Proof.Footings
end

section
/-!
SUPPORT. The footing of the machine under the engines, the stacks, translation and the life of tasks.
-/

namespace Sys2Proof.Footings

open Sys2Proof Sys2Proof.Machine

/-! ### The stacks -/

/-- What the footing takes from the stacks. -/
def ground (d : Dram) : Cells 8 × Cells 8 × Vector (BitVec 64) 16 := (d.mem, d.tableRows, d.plat)

theorem footing_withDram {s : State} {d : Dram} (h : ground d = ground s.dram) : footing { s with dram := d } = footing s := by
  obtain ⟨hmem, hrows, hplat⟩ : d.mem = s.dram.mem ∧ d.tableRows = s.dram.tableRows ∧ d.plat = s.dram.plat := by
    simpa [ground] using h
  simp [hmem, hrows, hplat]

theorem ground_foldl {α : Type} {f : Dram → α → Dram} (hf : ∀ d x, ground (f d x) = ground d) (l : List α) (d : Dram) :
    ground (l.foldl f d) = ground d := by
  induction l generalizing d with
  | nil => rfl
  | cons x l ih => exact (ih _).trans (hf _ _)

@[simp] theorem ground_activateNormal (d : Dram) (a : Nat) : ground (activateNormal d a) = ground d := rfl

@[simp] theorem ground_countReport (d : Dram) (a : Nat) : ground (countReport d a) = ground d := by
  unfold countReport
  split <;> rfl

@[simp] theorem ground_readNormal (d : Dram) (a : Nat) : ground (readNormal d a) = ground d := by
  simp [readNormal]

@[simp] theorem ground_activateTableRow (now : Nat) (d : Dram) (bank row : Nat) :
    ground (activateTableRow now d bank row) = ground d := by
  unfold activateTableRow
  dsimp only
  split <;> rfl

@[simp] theorem ground_openRow (now : Nat) (d : Dram) (q : Query) (block : Nat) (ws : List (Nat × Nat)) (row : Nat) :
    ground (openRow now d q block ws row) = ground d := by
  unfold openRow
  rw [ground_foldl fun d (b : Nat) => ground_countReport d (b * 64), ground_activateTableRow]

@[simp] theorem ground_dramWrite (d : Dram) (a : Nat) (bs : List Byte) :
    ground (dramWrite d a bs) = (cellSetAll d.mem (addressed a bs), d.tableRows, d.plat) := by
  unfold dramWrite
  dsimp only
  split <;> rfl

/-! ### Queries and their queues -/

@[simp] theorem footing_answerIssued (s : State) (x : Serve) : footing (answerIssued s x) = footing s := by
  rw [answerIssued_frame]; rfl

@[simp] theorem footing_answerHeld (s : State) : footing (answerHeld s) = footing s := by
  rw [answerHeld_frame]; rfl

@[simp] theorem footing_issueQueued (s : State) (f : QueueEntry → Bool) : footing (issueQueued s f) = footing s := by
  unfold issueQueued
  rw [footing_answerHeld]
  rfl

@[simp] theorem footing_issueFree (s : State) : footing (issueFree s) = footing s := footing_issueQueued s _

@[simp] theorem footing_endQuery (s : State) (q : Query) (block : Nat) : footing (endQuery s q block) = footing s := by
  unfold endQuery
  rw [footing_issueQueued]
  rfl

@[simp] theorem footing_takeResults (s : State) (q : Query) (block : Nat) (decl : Option (Nat × Nat)) (g : Option Group) :
    footing (takeResults s q block decl g) = footing s := by
  unfold takeResults
  split <;> rfl

@[simp] theorem footing_advanceQuery (s : State) (q : Query) (g : Option Group) (t : Task) :
    footing (advanceQuery s q g t) = footing s := by
  have opened (block row : Nat) (ws : List (Nat × Nat)) :
      footing { s with dram := openRow s.now s.dram q block ws row } = footing s := footing_withDram (by simp)
  unfold advanceQuery
  dsimp only
  split
  · simp
  · split
    · simpa using opened ..
    · split
      · simpa using opened ..
      · rw [footing_issueFree]
        exact opened ..

/-! ### Far bursts -/

@[simp] theorem footing_enterQueue (s : State) (c : Client) (a : Nat) : footing (enterQueue s c a) = footing s := by
  unfold enterQueue
  dsimp only
  split <;> rfl

@[simp] theorem sound_stackAccess {s : State} (h : (footing s).Sound) (c : Client) (write : Option (List Byte))
    (a len : Nat) : (footing (stackAccess s c write a len).1).Sound := by
  have entered : (footing (enterQueue s c a)).Sound := by simpa using h
  unfold stackAccess
  split
  · exact h
  · dsimp only
    split
    next bs =>
      have written : footing { enterQueue s c a with dram := dramWrite (enterQueue s c a).dram a bs } =
          { footing (enterQueue s c a) with
            dram := cellSetAll (footing (enterQueue s c a)).dram (addressed a bs) } := by
        have hd := ground_dramWrite (enterQueue s c a).dram a bs
        simp only [ground, Prod.mk.injEq] at hd
        obtain ⟨hmem, hrows, hplat⟩ := hd
        simp only [footing, hmem, hrows, hplat]
      rw [written]
      exact entered.writeDram _
    · have read : (footing { enterQueue s c a with dram := countReport (enterQueue s c a).dram a }).Sound := by
        rwa [footing_withDram (ground_countReport ..)]
      split <;> exact read

@[simp] theorem sound_hostAccess {s : State} (h : (footing s).Sound) (c : Client) (va : Nat) (write : Option (List Byte))
    (a len : Nat) : (footing (hostAccess s c va write a len).1).Sound := by
  unfold hostAccess
  cases write with
  | some bs => exact h.writeHost _
  | none => exact h

@[simp] theorem sendSnoop_mem (h : HostSide) (burst : Nat) (inv : Bool) : (sendSnoop h burst inv).mem = h.mem := by
  unfold sendSnoop
  split <;> rfl

@[simp] theorem sound_translated {s : State} (h : (footing s).Sound) (c : Client) (va : Nat) (write : Option (List Byte))
    (len : Nat) : (footing (translated s c va write len).1).Sound := by
  have phys {t : State} (ht : (footing t).Sound) (a : Nat) : (footing (physical t c va write a len).1).Sound := by
    unfold physical
    split
    · split
      · simpa using ht
      · split
        · exact sound_stackAccess ht ..
        · exact ht
    · exact sound_hostAccess ht ..
  unfold translated
  split
  next r _ => exact phys (t := { s with xlate := r.2 }) h _
  · exact h

theorem sound_farBurst {s : State} (h : (footing s).Sound) (c : Client) (write : Option (List Byte)) (va len : Nat) :
    (footing (farBurst s c write va len).1).Sound := by
  unfold farBurst
  split
  · split
    · exact h
    · split
      · split
        · exact h
        · exact sound_translated h ..
      · split <;> exact h
  · exact sound_translated h ..

/-! ### Copies, bulk reads and peers' commands -/

@[simp] theorem footing_putCopy (s : State) (c : Copy) : footing (putCopy s c) = footing s := (rfl)
@[simp] theorem footing_dropCopy (s : State) (id : Nat) : footing (dropCopy s id) = footing s := (rfl)
@[simp] theorem footing_putBulk (s : State) (b : Bulk) : footing (putBulk s b) = footing s := (rfl)
@[simp] theorem footing_stopDram (s : State) (h : ReqHead) : footing (stopDram s h) = footing s := (rfl)
@[simp] theorem footing_stopCopy (s : State) (h : ReqHead) (bad : List Nat) : footing (stopCopy s h bad) = footing s := (rfl)

@[simp] theorem sound_copyOutcome {c : Copy} {n : Nat} {r : State × BurstState} (h : (footing r.1).Sound) :
    (footing (copyOutcome c n r)).Sound := by
  unfold copyOutcome
  dsimp only
  split <;> simp [failCopy, h]

@[simp] theorem footing_bulkOutcome (b : Bulk) (n : Nat) (r : State × BurstState) :
    footing (bulkOutcome b n r) = footing r.1 := by
  unfold bulkOutcome
  dsimp only
  split <;> rfl

@[simp] theorem footing_serveOutcome (s : State) (x : Serve) (st : BurstState) :
    footing (serveOutcome s x st) = footing s := by
  unfold serveOutcome
  rw [footing_answerIssued]
  rfl

theorem sound_withoutData {s : State} {r : State × BurstState} (h : (footing s).Sound) (hr : (footing r.1).Sound) :
    (footing (withoutData s r).1).Sound := by
  unfold withoutData
  split
  case h_5 => exact h
  all_goals exact hr

theorem sound_requestCopy {s : State} (h : (footing s).Sound) (c : Copy) (n : Nat) (x : Burst) :
    (footing (requestCopy s c n x)).Sound := by
  unfold requestCopy
  split
  · exact h
  · split
    · exact sound_copyOutcome h
    · refine sound_copyOutcome ?_
      split
      · exact sound_farBurst h ..
      · exact sound_withoutData h (sound_farBurst h ..)

theorem sound_requestBulk {s : State} (h : (footing s).Sound) (b : Bulk) (n : Nat) (x : Burst) :
    (footing (requestBulk s b n x)).Sound := by
  unfold requestBulk
  split
  · exact h
  · split
    · exact h
    · split
      · simpa using h
      · rw [footing_bulkOutcome]
        exact sound_farBurst h ..

@[simp] theorem sound_serve {s : State} (h : (footing s).Sound) (x : Serve) : (footing (serve s x)).Sound := by
  unfold serve
  simp [h]

theorem sound_writeCopyLine {s : State} (h : (footing s).Sound) (c : Copy) (line : Nat) (bs : List (Nat × Byte)) :
    (footing (writeCopyLine s c line bs)).Sound := by
  unfold writeCopyLine
  dsimp only
  split <;> simp [h]

theorem sound_readNear {s : State} (h : (footing s).Sound) (c : Copy) : (footing (readNear s c)).Sound := by
  unfold readNear
  simp [footing_foldl footing_countBad, sound_foldl (fun _ x h => sound_readSector h x) _ h]

theorem sound_countBurst {s : State} (h : (footing s).Sound) (c : Copy) (n : Nat) (x : Burst) :
    (footing (countBurst s c n x)).Sound := by
  unfold countBurst
  dsimp only
  split <;> simp [h]

theorem sound_lastBurst {s : State} (h : (footing s).Sound) (b : Bulk) (t : Task) : (footing (lastBurst s b t)).Sound := by
  have finish {u : State} (hu : (footing u).Sound) : (footing (finishBulk u b)).Sound := by
    simp [finishBulk, hu]
  have landed : (footing (rewatch (landEntries s (windowEntries s b.head.id)))).Sound := by
    simp [sound_landEntries h]
  unfold lastBurst
  split
  · simp [h]
  · simp [h]
  · dsimp only
    split
    · split
      · exact finish landed
      · exact landed
    · exact finish landed

/-! ### Matrix engines -/

@[simp] theorem footing_putEngine (s : State) (e : Engine) : footing (putEngine s e) = footing s := (rfl)

@[simp] theorem footing_putEngines (s : State) (e f : Engine) (pair : Bool) : footing (putEngines s e f pair) = footing s := by
  unfold putEngines
  split <;> rfl

@[simp] theorem footing_mergeFlags (s : State) (op : MatrixOp) (fl : Word) : footing (mergeFlags s op fl) = footing s := by
  unfold mergeFlags
  split <;> rfl

@[simp] theorem footing_claimOne (s : State) (core : Nat) (claim : Nat × Nat) (follows : Bool) :
    footing (claimOne s core claim follows) = footing s := by
  unfold claimOne
  split <;> rfl

theorem footing_takeClaims {s t : State} {g : Group} {pair : Bool} (h : takeClaims s g pair = some t) :
    footing t = footing s := by
  unfold takeClaims at h
  dsimp only at h
  split at h
  · cases h
  · split at h
    · cases h
    · split at h <;> (obtain rfl := Option.some.inj h; simp)

@[simp] theorem footing_enqueueOp (s : State) (g : Group) (p q : Path) (l : Nat) (act : MatrixAct) :
    footing (enqueueOp s g p q l act) = footing s := by
  unfold enqueueOp
  split <;> rfl

theorem sound_readRanges {s : State} (h : (footing s).Sound) (rs : List (Nat × Nat)) :
    (footing (readRanges s rs).1).Sound := by
  unfold readRanges
  refine List.foldlRecOn (motive := fun r : State × Option Nat => (footing r.1).Sound) rs _ h fun r hr x _ => ?_
  split
  · exact hr
  · exact sound_readRange hr ..

/-- An operation that reads memory keeps a sound footing where what goes on after the read does. -/
theorem sound_withMemory {s : State} (h : (footing s).Sound) (g : Group) (p : Path) (l : Nat) (pair : Bool)
    (rs : List (Nat × Nat)) {k : State → State} (hk : ∀ t, (footing t).Sound → (footing (k t)).Sound) :
    (footing (withMemory s g p l pair rs k)).Sound := by
  unfold withMemory
  split
  · simp [h]
  next hs =>
    have claimed := (footing_takeClaims hs).symm ▸ h
    dsimp only
    split
    · exact claimed
    · split
      · exact sound_readRanges claimed rs
      · exact hk _ (sound_readRanges claimed rs)

@[simp] theorem footing_sparseTrap (s : State) (op : MatrixOp) (base : Nat) (x : Nat × Nat) :
    footing (sparseTrap s op base x) = footing s := by
  unfold sparseTrap
  split
  · exact footing_takeTrap ..
  · rfl

@[simp] theorem footing_selectorDone (s : State) (op : MatrixOp) : footing (selectorDone s op) = footing s := by
  unfold selectorDone
  split
  · split <;> rfl
  · rfl

@[simp] theorem footing_turn (s : State) (e : Engine) (op : MatrixOp) : footing (turn s e op) = footing s := by
  unfold turn
  split
  · unfold turnLoad
    dsimp only
    split <;> simp
  · simp [turnStream]
  · simp [turnDrain]
  · simp [turnZero]
  · unfold turnRead
    dsimp only
    split <;> rfl
  · rfl

theorem sound_writeDrainLine {s : State} (h : (footing s).Sound) (d : Drain) (x : Nat × List (Nat × Byte)) :
    (footing (writeDrainLine s d x)).Sound := by
  unfold writeDrainLine
  rw [footing_releaseParties]
  exact sound_guardedWrite h ..

end Sys2Proof.Footings
end

section
/-!
SUPPORT. The footing of the machine under the life of tasks, translation, the host link, management and the fabric.
-/

namespace Sys2Proof.Footings

open Sys2Proof Sys2Proof.Machine

/-! ### Records of tasks -/

@[simp] theorem footing_createRecord (s : State) (t : Task) : footing (createRecord s t) = footing s := by
  simp [createRecord]

@[simp] theorem footing_freeTask (s : State) (uid : Nat) : footing (freeTask s uid) = footing s := (rfl)
@[simp] theorem footing_pruneInstances (s : State) : footing (pruneInstances s) = footing s := (rfl)
@[simp] theorem footing_countDown (s : State) (uid : Nat) : footing (countDown s uid) = footing s := (rfl)
@[simp] theorem footing_dropHold (s : State) (uid : Nat) : footing (dropHold s uid) = footing s := (rfl)
@[simp] theorem footing_answerPair (s : State) (g : Group) (p : Path) (d : Nat) (x y : Word) :
    footing (answerPair s g p d x y) = footing s := (rfl)

@[simp] theorem footing_dropKept (s : State) (k : Kept) : footing (dropKept s k) = footing s := (rfl)
@[simp] theorem footing_dropAll (s : State) (l : List Kept) : footing (l.foldl dropKept s) = footing s :=
  footing_foldl footing_dropKept l s
@[simp] theorem footing_dropKeptWhere (s : State) (part : Nat) (f : Kept → Bool) :
    footing (dropKeptWhere s part f) = footing s := footing_dropAll s _

@[simp] theorem sound_completion {s : State} (h : (footing s).Sound) (t : Task) (code : Nat) :
    (footing (completion s t code)).Sound := by
  unfold completion
  split
  · exact h
  · split
    · unfold cellCompletion
      split
      · exact h
      · split
        · exact h
        · split <;> simp [h]
    · exact h

@[simp] theorem sound_cancelAll {s : State} (h : (footing s).Sound) (n : Nat) (us : List Nat) :
    (footing (cancelAll n s us)).Sound := by
  induction n generalizing s us with
  | zero => exact h
  | succ n ih =>
    cases us with
    | nil => exact h
    | cons u us =>
      unfold cancelAll
      split
      · split
        · exact ih (by simp [h]) _
        · exact ih h us
      · exact ih h us

@[simp] theorem sound_cancelTask {s : State} (h : (footing s).Sound) (uid : Nat) : (footing (cancelTask s uid)).Sound :=
  sound_cancelAll h _ _

@[simp] theorem sound_stopOrCancel {s : State} (h : (footing s).Sound) (uid kind : Nat) :
    (footing (stopOrCancel s uid kind)).Sound := by
  unfold stopOrCancel
  repeat' split
  all_goals simp [h]

theorem sound_stopChildren {s : State} (h : (footing s).Sound) (uid : Nat) : (footing (stopChildren s uid)).Sound :=
  sound_foldl (fun _ u h => sound_stopOrCancel h u 0x15) _ h

@[simp] theorem sound_endStopped {s : State} (h : (footing s).Sound) (t : Task) (kind code : Nat) :
    (footing (endStopped s t kind code)).Sound := by
  simp [endStopped, h]

/-! ### Launches -/

theorem sound_enqueue {s : State} (h : (footing s).Sound) (d : Nat) (g : Group) (p : Path) (l : Nat) (q : Launch) :
    (footing (enqueue d s g p l q)).Sound := by
  have fresh : (footing (freshId s).2).Sound := h
  unfold enqueue
  dsimp only
  split
  · exact h
  · simpa using fresh

theorem sound_addEdge {s : State} (h : (footing s).Sound) (issuer : Task) (a b : Nat) :
    (footing (addEdge s issuer a b).1).Sound := by
  unfold addEdge
  dsimp only
  repeat' split
  all_goals simp [h]

@[simp] theorem footing_releaseHeld (s : State) (issuer : Task) (n : Nat) : footing (releaseHeld s issuer n).1 = footing s := by
  unfold releaseHeld
  dsimp only
  repeat' split
  all_goals rfl

/-! ### Scrub and rebuild -/

@[simp] theorem footing_failBank (s : State) (slice bank : Nat) : footing (failBank s slice bank) = footing s := by
  unfold failBank
  dsimp only
  repeat' split
  all_goals rfl

@[simp] theorem footing_fixCopies (s : State) (sec : Nat) : footing (fixCopies s sec) = footing s := by
  unfold fixCopies
  split
  · rfl
  · dsimp only
    split <;> rfl

/-- A sector that is met by the scrub or the rebuild. -/
theorem sound_visit {s : State} (h : (footing s).Sound) (sec : Nat) :
    (footing (if sectorBad s sec then countBad s sec else readSector s sec)).Sound := by
  split <;> simp [h]

theorem sound_scrubSector {s : State} (h : (footing s).Sound) (slice : Nat) : (footing (scrubSector s slice)).Sound := by
  unfold scrubSector
  dsimp only
  split <;> simp only [footing_failBank, footing_putSliceReg, footing_fixCopies, sound_visit h]

theorem sound_rebuildOne {s : State} (h : (footing s).Sound) (slice a : Nat) : (footing (rebuildOne s slice a)).Sound := by
  unfold rebuildOne
  simp only [footing_putSliceReg, sound_visit h]

/-! ### Active sets -/

@[simp] theorem footing_activate (s : State) (g : Group) (k : Nat) : footing (activate s g k) = footing s := (rfl)
@[simp] theorem footing_deactivate (s : State) (g : Group) : footing (deactivate s g) = footing s := (rfl)

@[simp] theorem footing_fillActive (s : State) (core : Nat) : footing (fillActive s core) = footing s := by
  unfold fillActive
  split <;> rfl

/-! ### Admission and staging -/

theorem footing_admitPlan {c : Chooser} {q : Partition} {t : Task} {s : State} {r : State × List (Option Kept) × Plan}
    (h : admitPlan c q t s = some r) : footing r.1 = footing s := by
  obtain ⟨ds, -, hp⟩ := Option.bind_eq_some_iff.mp h
  obtain ⟨p, -, rfl⟩ := Option.map_eq_some_iff.mp hp
  exact footing_dropAll s ds

theorem footing_restorePlan {c : Chooser} {s : State} {q : Partition} {t : Task} {r : State × Plan}
    (h : restorePlan c s q t = some r) : footing r.1 = footing s := by
  obtain ⟨ds, -, hp⟩ := Option.bind_eq_some_iff.mp h
  obtain ⟨p, -, rfl⟩ := Option.map_eq_some_iff.mp hp
  exact footing_dropAll s ds

theorem wf_relocations (bases : List (Option Nat)) (dpa : Nat) (l : List CodeReloc) {m : Cells 8}
    (h : Memory.wf m = true) : Memory.wf (l.foldl (relocateCode bases dpa) m) = true :=
  List.foldlRecOn (motive := fun m : Cells 8 => Memory.wf m = true) l _ h fun _ hm _ _ => wf_cellSetAll _ _ hm

theorem sound_formInstance {s : State} (h : (footing s).Sound) (t : Task) (bases : List (Option Nat)) :
    (footing (formInstance s t bases).1).Sound := by
  unfold formInstance
  split
  · exact h
  next o _ =>
    split
    · exact h
    · dsimp only
      have read (d : Dram) (l k : List Nat) :
          ground (k.foldl (fun d b => activateNormal d (b * 64)) (l.foldl (fun d b => readNormal d (b * 64)) d)) = ground d := by
        rw [ground_foldl fun d (b : Nat) => ground_activateNormal d (b * 64),
          ground_foldl fun d (b : Nat) => ground_readNormal d (b * 64)]
      generalize hd : (instanceBursts o _).foldl (fun d b => activateNormal d (b * 64)) _ = d
      have hg : ground d = ground s.dram := by rw [← hd]; exact read ..
      obtain ⟨hmem, hrows, hplat⟩ : d.mem = s.dram.mem ∧ d.tableRows = s.dram.tableRows ∧ d.plat = s.dram.plat := by
        simpa [ground] using hg
      have wf : Memory.wf d.mem = true := hmem ▸ h.dram
      rw [footing_mk, hrows, hplat]
      exact { h with dram := wf_relocations _ _ _ (wf_cellSetAll _ _ wf) }

theorem sound_admitTask {s : State} (h : (footing s).Sound) (q : Partition) (t : Task) (ad : List (Option Kept)) (p : Plan)
    (block : Option Nat) : (footing (admitTask s q t ad p block)).Sound := by
  have formed := sound_formInstance h t p.bases
  unfold admitTask
  dsimp only
  split
  · rw [footing_stopWith, footing_dropKeptWhere]
    exact formed
  · rw [footing_dropKeptWhere]
    exact formed

@[simp] theorem footing_setXfer (s : State) (uid n : Nat) (st : BurstState) : footing (setXfer s uid n st) = footing s := by
  unfold setXfer
  dsimp only
  split <;> rfl

theorem sound_sendXfers {s : State} (h : (footing s).Sound) (t : Task) : (footing (sendXfers s t)).Sound := by
  refine sound_foldl (fun s y h => ?_) _ h
  unfold sendXfer
  rw [footing_setXfer]
  exact sound_farBurst h ..

theorem sound_freshRange {s : State} (h : (footing s).Sound) (a n : Nat) {m : Cells 8} (hm : Memory.wf m = true) :
    (footing (freshRange s a n m)).Sound := by
  have counted : footing ((badIn s a n).foldl countBad s) = footing s := footing_foldl footing_countBad _ s
  exact { counted.symm ▸ h with sram := hm }

@[simp] theorem sound_stageZero {s : State} (h : (footing s).Sound) (a n : Nat) : (footing (stageZero s a n)).Sound :=
  sound_freshRange h a n (wf_cellsClear _ _ _ h.sram)

theorem sound_stageRegion {s : State} (h : (footing s).Sound) (t : Task) (x : Nat × Region) :
    (footing (stageRegion t s x)).Sound := by
  unfold stageRegion
  split
  · exact h
  · split
    · exact h
    · split
      · exact sound_foldl (fun _ _ h => sound_guardedWrite h ..) _ (sound_freshRange h _ _ (wf_cellSetAll _ _ h.sram))
      · exact sound_stageZero h ..

theorem sound_stageArgs {s : State} (h : (footing s).Sound) (t : Task) : (footing (stageArgs t s)).Sound := by
  unfold stageArgs
  split
  · exact sound_guardedWrite h ..
  · exact h

/-- Replicas are placed on some cores of a device with a sound footing. -/
theorem sound_placeReplicas {s : State} (h : (footing s).Sound) (now block k : Nat) (bs : List Byte) (cores : List Nat) :
    (footing { s with dram := cores.foldl (placeReplica now block k bs) s.dram }).Sound := by
  refine List.foldlRecOn (motive := fun d : Dram => (footing { s with dram := d }).Sound) cores _ h fun d hd core _ => ?_
  unfold placeReplica
  have placed : (footing { s with dram := { d with
      tableRows := cellSetAll d.tableRows (bs.mapIdx fun o b => (tableDpa core block k o, b)) } }).Sound :=
    { hd with tables := wf_cellSetAll _ _ hd.tables }
  have rows := ground_foldl (fun d (r : Nat) => ground_activateTableRow now d (tableBank core block k)
    (firstTableRow + 16 * block + r)) (List.range ((bs.length + 1023) / 1024)) { d with
      tableRows := cellSetAll d.tableRows (bs.mapIdx fun o b => (tableDpa core block k o, b)) }
  rwa [← footing_withDram (s := { s with dram := { d with
    tableRows := cellSetAll d.tableRows (bs.mapIdx fun o b => (tableDpa core block k o, b)) } }) rows] at placed

theorem sound_placeTables {s : State} (h : (footing s).Sound) (t : Task) : (footing (placeTables t s)).Sound := by
  unfold placeTables
  split
  · exact h
  · refine sound_foldl (fun s x h => ?_) _ h
    refine List.foldlRecOn (motive := fun d : Dram => (footing { s with dram := d }).Sound) (tractsOf t) _ h fun d hd _ _ => ?_
    exact sound_placeReplicas (s := { s with dram := d }) hd ..

@[simp] theorem footing_startParty (t : Task) (s : State) (x : PartyPlace) : footing (startParty t s x) = footing s := by
  unfold startParty
  rw [footing_foldl fun s (n : Nat) => footing_newGroup s t.uid x.index x.core t.decl.width none false
    (groupThreads t x.index n) t.decl.entry []]

theorem sound_startTask {s : State} (h : (footing s).Sound) (t : Task) : (footing (startTask s t)).Sound := by
  unfold startTask
  rw [footing_foldl (footing_startParty t), footing_modTask]
  refine sound_stageArgs (sound_placeTables (sound_foldl (fun s x h => sound_stageRegion h t x) _ ?_) t) t
  exact sound_foldl (fun _ _ h => sound_stageZero h ..) _ h

/-! ### Retirement, stop, pre-emption and restore -/

theorem sound_beginWriteBack {s : State} (h : (footing s).Sound) (t : Task) : (footing (beginWriteBack s t)).Sound := by
  unfold beginWriteBack
  dsimp only
  split
  · simp [h]
  · refine sound_sendXfers ?_ _
    rw [footing_putTask]
    exact sound_foldl (fun _ _ h => sound_readSector h _) _ h

theorem sound_finishTask {s : State} (h : (footing s).Sound) (t : Task) : (footing (finishTask s t)).Sound := by
  have dropped : footing ((outRegions t).foldl (fun s x =>
      dropKeptWhere s t.part fun k => rangesMeet k.far k.farBytes x.1.far x.1.farBytes) s) = footing s :=
    footing_foldl (fun s (x : Region × Nat) => footing_dropKeptWhere s _ _) _ s
  unfold finishTask retire
  rw [footing_pruneInstances, footing_countDown]
  refine sound_completion ?_ _ _
  rw [footing_freeTask, footing_modTask]
  exact dropped.symm ▸ h

@[simp] theorem footing_discardTask (s : State) (uid : Nat) : footing (discardTask s uid) = footing s := by
  unfold discardTask
  dsimp only
  split
  · rw [footing_issueFree]
    rfl
  · rfl

@[simp] theorem footing_refillCores (s : State) (t : Task) : footing (refillCores s t) = footing s := by
  unfold refillCores
  rw [footing_foldl fun s (x : PartyPlace) => footing_refillPool s x.core 0]

theorem sound_stopTask {s : State} (h : (footing s).Sound) (t : Task) (kind : Nat) : (footing (stopTask s t kind)).Sound := by
  unfold stopTask
  refine sound_endStopped ?_ ..
  rw [footing_refillCores, footing_discardTask]
  exact h

@[simp] theorem footing_saveTask (s : State) (t : Task) : footing (saveTask s t) = footing s := by
  have gone : footing (refillCores (discardTask s t.uid) t) = footing s := by simp
  unfold saveTask
  rw [footing_putTask, footing_setOwners]
  exact gone

theorem sound_saveSettled {s : State} (h : (footing s).Sound) (t : Task) : (footing (saveSettled s t)).Sound := by
  unfold saveSettled
  split
  · simp [h]
  · rw [footing_saveTask]
    exact sound_foldl (fun _ _ h => sound_readSector h _) _ h

@[simp] theorem footing_restoreGroup (m : Move) (s : State) (g : Group) : footing (restoreGroup m s g) = footing s := by
  unfold restoreGroup
  rw [footing_refillPool]
  rfl

@[simp] theorem footing_restoreBin (m : Move) (s : State) (b : Bin) : footing (restoreBin m s b) = footing s := by
  unfold restoreBin
  dsimp only
  split <;> rfl

theorem sound_restoreScratch {s : State} (h : (footing s).Sound) (m : Move) (x : Nat × Cells 8) :
    (footing (restoreScratch m s x)).Sound := by
  unfold restoreScratch
  exact (sound_stageZero h _ _).writeSram _

theorem sound_replicateTables {s : State} (h : (footing s).Sound) (t : Task) (news : List Nat) :
    (footing (replicateTables t news s)).Sound := by
  unfold replicateTables
  split
  · exact sound_foldl (fun _ _ h => sound_placeReplicas h ..) _ h
  · exact h

theorem sound_restoreTask {s : State} (h : (footing s).Sound) (t : Task) (v : Saved) (p : Plan) :
    (footing (restoreTask s t v p)).Sound := by
  unfold restoreTask
  dsimp only
  rw [footing_mk, footing_eta, footing_foldl (footing_restoreBin _), footing_foldl (footing_restoreGroup _)]
  refine sound_replicateTables (s := restoreUnits _ _ _ _) ?_ _ _
  exact sound_foldl (fun _ x h => sound_restoreScratch h _ x) _ h

/-! ### Translation -/

@[simp] theorem sound_setWaiter {s : State} (h : (footing s).Sound) (w : Waiter) (st : BurstState) :
    (footing (setWaiter s w st)).Sound := by
  unfold setWaiter
  repeat' split
  all_goals simp [h]

@[simp] theorem footing_noteFault (s : State) (w : Waiter) (code : Nat) : footing (noteFault s w code) = footing s := by
  unfold noteFault
  dsimp only
  split <;> rfl

@[simp] theorem sound_refusePage {s : State} (h : (footing s).Sound) (w : Waiter) (code : Nat) :
    (footing (refusePage s w code)).Sound := sound_setWaiter (by simpa using h) ..

@[simp] theorem sound_waitPage {s : State} (h : (footing s).Sound) (w : Waiter) (tries : Nat) :
    (footing (waitPage s w tries)).Sound := by
  unfold waitPage
  split
  · exact h
  next k _ =>
    have ready (x : Xlate) (st : BurstState) : (footing (setWaiter { s with xlate := x } w st)).Sound :=
      sound_setWaiter (s := { s with xlate := x }) h w st
    dsimp only
    split <;> exact ready _ _

@[simp] theorem sound_missPage {s : State} (h : (footing s).Sound) (w : Waiter) : (footing (missPage s w)).Sound := by
  unfold missPage
  split
  · split <;> simp [h]
  · exact h

theorem sound_takeAts {s : State} (h : (footing s).Sound) (a : AtsAnswer) (r : Nat × Nat × Nat × Bool) :
    (footing (takeAts a s r)).Sound := by
  refine sound_foldl (fun s w h => ?_) _ h
  split <;> simp [h]

@[simp] theorem footing_completeInvalidations (s : State) : footing (completeInvalidations s) = footing s := (rfl)

theorem sound_wakePage {s : State} (h : (footing s).Sound) (w : Waiter) : (footing (wakePage s w)).Sound := by
  unfold wakePage
  split
  next k _ _ =>
    exact sound_setWaiter (s := { s with xlate := askAts s.xlate (tractOf w.client.core) k.1 (pageOf k.2) w.write.isSome }) h _ _
  · exact h

theorem sound_advanceGen {s : State} (h : (footing s).Sound) (tract : Nat) : (footing (advanceGen s tract)).Sound := by
  refine sound_foldl (fun s w h => ?_) _ h
  unfold renewPage
  split <;> simp [h]

/-! ### The host link and management -/

@[simp] theorem footing_modFn (s : State) (fn : Nat) (f : HostFn → HostFn) : footing (modFn s fn f) = footing s := (rfl)
@[simp] theorem footing_setStatus (s : State) (fn status : Nat) : footing (setStatus s fn status) = footing s := (rfl)
@[simp] theorem footing_refuse (s : State) (fn : Nat) : footing (refuse s fn) = footing s := (rfl)

@[simp] theorem footing_onFn (fn : Nat) (s : State) (g : HostFn → HostFn) : footing (onFn fn s g) = footing s := by
  unfold onFn
  split <;> rfl

@[simp] theorem footing_onDoorbell (fn : Nat) (s : State) (g : HostFn → HostFn) : footing (onDoorbell fn s g) = footing s := by
  unfold onDoorbell
  split
  · split <;> rfl
  · rfl

theorem sound_anyFn {s : State} (h : (footing s).Sound) (fn : Nat) {g : HostFn → State} (hg : ∀ f, (footing (g f)).Sound) :
    (footing (anyFn fn s g)).Sound := by
  unfold anyFn
  split
  · exact hg _
  · exact h

theorem sound_pfOnly {s : State} (h : (footing s).Sound) (fn : Nat) {g : HostFn → State} (hg : ∀ f, (footing (g f)).Sound) :
    (footing (pfOnly fn s g)).Sound :=
  sound_anyFn h fn fun f => by
    split
    · exact hg f
    · exact h

theorem sound_hostDram {s : State} (h : (footing s).Sound) (f : HostFn) (dpa : Nat) (data : Option (List Byte)) :
    (footing (hostDram s f dpa data)).Sound := by
  unfold hostDram
  dsimp only
  have entered := fun c : Client => sound_stackAccess (s := (freshId s).2) h c data dpa (64 - dpa % 64)
  split
  · split <;> exact entered _
  · split <;> exact entered _

theorem sound_snooped {s : State} (h : (footing s).Sound) (burst : Nat) (inv : Bool) (w : Waiter) :
    (footing (snooped burst inv s w)).Sound := by
  unfold snooped
  split
  · exact h
  · split
    · exact sound_setWaiter (sound_stackAccess h ..) ..
    · exact sound_setWaiter h ..

@[simp] theorem footing_hostLaunch (s : State) (f : HostFn) : footing (hostLaunch s f) = footing s := by
  unfold hostLaunch
  dsimp only
  split
  · rfl
  · rw [footing_createRecord]
    rfl

theorem sound_writeCompletion {s : State} (h : (footing s).Sound) (f : HostFn) (x : Nat × Nat) :
    (footing (writeCompletion s f x)).Sound := by
  unfold writeCompletion
  simp only [footing_modFn, footing_mk]
  exact h.writeHost _

@[simp] theorem footing_modPart (s : State) (part : Nat) (f : Partition → Partition)
    (hf : ∀ q, (f q).id = q.id ∧ (f q).cores = q.cores) : footing (modPart s part f) = footing s := by
  simp [modPart, hf]

@[simp] theorem footing_releaseDebug (s : State) (f : HostFn) (handle : Nat) : footing (releaseDebug s f handle) = footing s := by
  unfold releaseDebug
  split
  · split <;> rfl
  · rfl

/-! ### The fabric and resets -/

@[simp] theorem footing_answerPeer (s : State) (x : Serve) (code : Nat) (data : List Byte) :
    footing (answerPeer s x code data) = footing s := (rfl)
@[simp] theorem footing_dropOut (s : State) (o : FabOut) : footing (dropOut s o) = footing s := (rfl)

theorem sound_peerCommand {s : State} (h : (footing s).Sound) (x : Serve) : (footing (peerCommand s x)).Sound := by
  unfold peerCommand
  split
  · exact h
  · split
    · exact h
    · split
      · split
        · exact sound_serve h _
        · exact h
      · exact sound_serve (s := { (freshId s).2 with fabric := _ }) h _

@[simp] theorem sound_resolveOut {s : State} (h : (footing s).Sound) (o : FabOut) (st : BurstState) :
    (footing (resolveOut s o st)).Sound := by
  unfold resolveOut
  split <;> simp [h]

theorem sound_peerAnswer {s : State} (h : (footing s).Sound) (part seq code : Nat) (data : List Byte) :
    (footing (peerAnswer s part seq code data)).Sound := by
  unfold peerAnswer
  split
  · exact h
  · split
    · refine sound_resolveOut ?_ _ _
      repeat' split
      all_goals simp [h]
    · split <;> simp [h]

theorem sound_beginReset {s : State} (h : (footing s).Sound) (f : HostFn) : (footing (beginReset s f)).Sound :=
  sound_foldl (fun _ t h => sound_stopOrCancel h t.uid 0x14) _ h

theorem sound_finishReset {s : State} (h : (footing s).Sound) (f : HostFn) : (footing (finishReset s f)).Sound := by
  have answered : (footing (answerServing (dropKeptWhere s f.part fun _ => true) f.part)).Sound := by
    unfold answerServing
    rwa [footing_foldl fun s (x : Serve) => footing_answerPeer s x 0x04 [], footing_dropKeptWhere]
  have failed : (footing (failOwn (answerServing (dropKeptWhere s f.part fun _ => true) f.part) f.part)).Sound :=
    sound_foldl (fun _ w h => sound_setWaiter h w _) _ answered
  unfold finishReset
  dsimp only
  rw [footing_mk, footing_eta, footing_modFn,
    footing_modPart _ _ (fun q => { q with lastHandle := 0 }) fun _ => ⟨rfl, rfl⟩]
  exact sound_foldl (fun _ _ h => sound_advanceGen h _) _ failed

end Sys2Proof.Footings
end

section
/-!
SUPPORT. The footing of the machine under the instruction words: each shape of word, and then every word.
-/

namespace Sys2Proof.Footings

open Sys2Proof Sys2Proof.Machine

/-- What follows on a state with a sound footing has a sound footing. -/
structure Keeps (s : State) (o : Host.Outcome State Fault Refusal) : Prop where
  sound : (footing s).Sound → ∀ t, o = .next t → (footing t).Sound

theorem keeps_next {s t : State} (h : (footing s).Sound → (footing t).Sound) : Keeps s (.next t) :=
  ⟨fun hs _ hu => Host.Outcome.next.inj hu ▸ h hs⟩

theorem keeps_onPath {s : State} {f : Group → Path → Word → State}
    (hf : ∀ g p w, (footing s).Sound → (footing (f g p w)).Sound) : Keeps s (onPath s f) := by
  unfold onPath
  split
  · exact ⟨fun _ _ h => nomatch h⟩
  · split
    · exact ⟨fun _ _ h => nomatch h⟩
    · split
      · exact ⟨fun _ _ h => nomatch h⟩
      · exact keeps_next (hf _ _ _)

/-- Of two ways to go on, each keeps a sound footing. -/
theorem sound_ite {c : Prop} [Decidable c] {t u : State} (ht : (footing t).Sound) (hu : (footing u).Sound) :
    (footing (if c then t else u)).Sound := by
  split <;> assumption

/-! ### Words of the lanes -/

theorem keeps_laneOp (gd : Guard) (sc : Bool) (f : Group → Path → Nat → LaneOut) (s : State) :
    Keeps s (laneOp gd sc f s) := keeps_onPath fun _ _ _ h => h

theorem keeps_compareOp (gd : Guard) (sc : Bool) (pd : BitVec 3) (f : Group → Path → Nat → Bool × Word) (s : State) :
    Keeps s (compareOp gd sc pd f s) := keeps_onPath fun _ _ _ h => h

theorem keeps_predLogic (pd : BitVec 3) (id : Bool) (gd : Guard) (r : Path → Mask) (s : State) :
    Keeps s (predLogic pd id gd r s) := keeps_onPath fun _ _ _ h => h

theorem keeps_rdlane (d a : BitVec 6) (k : Path → Nat) (gd : Guard) (s : State) : Keeps s (rdlane d a k gd s) :=
  keeps_onPath fun _ _ _ h => by split <;> simp [h]

theorem keeps_wrlane (d a : BitVec 6) (k : Path → Nat) (gd : Guard) (s : State) : Keeps s (wrlane d a k gd s) :=
  keeps_onPath fun _ _ _ h => h

theorem keeps_vote (d : BitVec 6) (pa : BitVec 3) (mode : VoteMode) (gd : Guard) (s : State) :
    Keeps s (execVote d pa mode gd s) :=
  keeps_onPath fun _ _ _ h => by
    dsimp only
    split
    · simp [h]
    · cases mode <;> simp [h]

theorem keeps_elect (pd : BitVec 3) (gd : Guard) (s : State) : Keeps s (execElect pd gd s) :=
  keeps_onPath fun _ _ _ h => by split <;> simp [h]

theorem keeps_srd (d num : BitVec 6) (gd : Guard) (s : State) : Keeps s (execSrd d num gd s) :=
  keeps_onPath fun _ _ _ h => h

theorem keeps_swr (d num : BitVec 6) (gd : Guard) (s : State) : Keeps s (execSwr d num gd s) :=
  keeps_onPath fun _ _ _ h => by
    dsimp only
    repeat' split
    all_goals simp [h]

/-! ### Words of memory -/

theorem keeps_loadOp (sp : Space) (scalar : Bool) (d : BitVec 6) (ty : Ty) (ls : Group → Path → List (Nat × Nat))
    (s : State) : Keeps s (loadOp sp scalar d ty ls s) :=
  keeps_onPath fun _ _ _ h => by split <;> simp [h]

theorem keeps_storeOp (rule : Rule) (sp : Space) (ty : Ty) (ls : Group → Path → List (Nat × Nat))
    (data : Group → Path → Nat → Nat) (s : State) : Keeps s (storeOp rule sp ty ls data s) :=
  keeps_onPath fun _ _ _ h => by
    dsimp only
    split
    · simp [h]
    · split <;> simp [footing_foldl footing_land, h]

theorem keeps_stP (rule : Rule) (d a imm : BitVec 6) (gd : Guard) (ty : Ty) (s : State) :
    Keeps s (execStP rule d a imm gd ty s) := by
  unfold execStP
  exact keeps_storeOp ..

theorem keeps_stG (rule : Rule) (d a imm : BitVec 6) (gd : Guard) (ty : Ty) (s : State) :
    Keeps s (execStG rule d a imm gd ty s) := by
  unfold execStG
  exact keeps_storeOp ..

theorem keeps_stK (rule : Rule) (d a imm : BitVec 6) (gd : Guard) (ty : Ty) (s : State) :
    Keeps s (execStK rule d a imm gd ty s) := by
  unfold execStK
  exact keeps_storeOp ..

theorem keeps_sts (rule : Rule) (sp : Space) (d a imm : BitVec 6) (ty : Ty) (s : State) :
    Keeps s (execSts rule sp d a imm ty s) := by
  unfold execSts
  exact keeps_storeOp ..

theorem keeps_watch (cond : WCond) (a imm : BitVec 6) (gd : Guard) (sp : Space) (s : State) :
    Keeps s (execWatch cond a imm gd sp s) :=
  keeps_onPath fun _ _ _ h => by
    dsimp only
    repeat' split
    all_goals simp [h, sound_watchTest]

theorem keeps_addressOp (check : Bool) (sp : Space) (d a imm : BitVec 6) (gd : Guard) (f : State → Group → Nat → Word)
    (s : State) : Keeps s (addressOp check sp d a imm gd f s) :=
  keeps_onPath fun _ _ _ h => by
    dsimp only
    split <;> simp [h]

theorem keeps_pres (d a imm : BitVec 6) (gd : Guard) (sp : Space) (s : State) :
    Keeps s (execPres d a imm gd sp s) := by
  unfold execPres
  exact keeps_addressOp ..

theorem keeps_absa (d a imm : BitVec 6) (gd : Guard) (s : State) : Keeps s (execAbsa d a imm gd s) := by
  unfold execAbsa
  exact keeps_addressOp ..

theorem keeps_rela (d a imm : BitVec 6) (gd : Guard) (s : State) : Keeps s (execRela d a imm gd s) := by
  unfold execRela
  exact keeps_addressOp ..

theorem keeps_queryOp (qb : Bool) (d a : BitVec 6) (tbl : BitVec 4) (ix : Bool) (gd : Guard) (ty : Ty) (s : State) :
    Keeps s (queryOp qb d a tbl ix gd ty s) :=
  keeps_onPath fun _ _ _ h => by
    dsimp only
    split
    · simp [h]
    · split
      · simp [h]
      · exact h

/-! ### Words of the engines -/

@[simp] theorem footing_startCopy (s : State) (g : Group) (p : Path) (l : Nat) (q : CopyReq) (xs : List Nat) :
    footing (startCopy s g p l q xs) = footing s := (rfl)

@[simp] theorem footing_startBulk (s : State) (g : Group) (p : Path) (l : Nat) (q : BulkReq) (xs : List Nat) :
    footing (startBulk s g p l q xs) = footing s := (rfl)

theorem sound_issueCopy {s : State} (h : (footing s).Sound) (g : Group) (p : Path) (w : Word) (l : Nat) (q : CopyReq) :
    (footing (issueCopy s g p w l q)).Sound := by
  have go {t : State} (ht : (footing t).Sound) (bs : List Byte) : (footing (
      if 64 ≤ (t.eng.copies.filter fun c => decide (c.head.core = g.core)).length then putPath t g (parked p .issue)
      else startCopy t g p l q (indexList q.ixw bs))).Sound := by
    split <;> simp [ht]
  unfold issueCopy
  dsimp only
  split
  · simp [h]
  · split
    · exact sound_withBlock h g p w l _ _ _ _ fun _ bs ht => go ht bs
    · exact go h []

theorem sound_runCopy {s : State} (h : (footing s).Sound) (f : Nat) (addr : Word) (g : Group) (p : Path) (w : Word)
    (l : Nat) (ws : List Nat) : (footing (runCopy f addr s g p w l ws)).Sound := by
  unfold runCopy
  dsimp only
  split
  · simp [h]
  · exact sound_issueCopy h ..

theorem sound_issueBulk {s : State} (h : (footing s).Sound) (g : Group) (p : Path) (w : Word) (l : Nat) (q : BulkReq) :
    (footing (issueBulk s g p w l q)).Sound := by
  have go {t : State} (ht : (footing t).Sound) (bs : List Byte) : (footing (
      if 16 ≤ (t.eng.bulks.filter fun b => decide (b.head.core = g.core)).length then putPath t g (parked p .issue)
      else startBulk t g p l q (indexList q.ixw bs))).Sound := by
    split <;> simp [ht]
  unfold issueBulk
  dsimp only
  split
  · simp [h]
  · split
    · exact sound_withBlock h g p w l _ _ _ _ fun _ bs ht => go ht bs
    · exact go h []

theorem sound_runBulk {s : State} (h : (footing s).Sound) (f : Nat) (addr : Word) (g : Group) (p : Path) (w : Word)
    (l : Nat) (ws : List Nat) : (footing (runBulk f addr s g p w l ws)).Sound := by
  unfold runBulk
  exact sound_ite (by simp [h]) (sound_issueBulk h ..)

theorem keeps_copy (a imm : BitVec 6) (gd : Guard) (sp : Space) (s : State) : Keeps s (execCopy a imm gd sp s) :=
  keeps_onPath fun g p w h => by
    dsimp only
    split
    · simp [h]
    next l _ =>
      split
      · simp [h]
      · exact sound_withBlock h g p w l _ _ _ _ fun _ _ ht => sound_runCopy ht ..

theorem keeps_cpys (a : BitVec 6) (gd : Guard) (s : State) : Keeps s (execCpys a gd s) :=
  keeps_onPath fun _ _ _ h => by
    split
    · simp [h]
    · split
      · simp [h]
      · exact sound_runCopy h ..

theorem keeps_bulkOp (f : Nat) (a imm : BitVec 6) (gd : Guard) (sp : Space) (s : State) :
    Keeps s (bulkOp f a imm gd sp s) :=
  keeps_onPath fun g p w h => by
    dsimp only
    split
    · simp [h]
    next l _ =>
      split
      · simp [h]
      · exact sound_withBlock h g p w l _ _ _ _ fun _ _ ht => sound_runBulk ht ..

theorem keeps_hend (gd : Guard) (s : State) : Keeps s (execHend gd s) :=
  keeps_onPath fun _ _ _ h => by
    dsimp only
    split
    · simp [h]
    · split <;> simp [h]

/-- A matrix instruction keeps a sound footing where the elected lane's part does. -/
theorem keeps_matrixOp (gd : Guard) {f : State → Group → Path → Word → Nat → State} {s : State}
    (hf : ∀ g p w l, (footing s).Sound → (footing (f s g p w l)).Sound) : Keeps s (matrixOp gd f s) :=
  keeps_onPath fun g p w h => by
    split
    · simp [h]
    · split
      · simp [h]
      · exact hf g p w _ h

theorem keeps_loadPlane (sparse : Bool) (x y : BitVec 6) (sp : Space) (ty : Ty) (gd : Guard) (pair : Bool) (s : State) :
    Keeps s (loadPlane sparse x y sp ty gd pair s) :=
  keeps_matrixOp gd fun g p w l h => by
    dsimp only
    split
    · simp [h]
    · split
      · simp [h]
      · split
        · simp [h]
        · exact sound_withMemory h g p l pair _ fun _ ht => by simpa using ht

theorem keeps_streamRows (scaled : Bool) (x y : BitVec 6) (sp : Space) (ty : Ty) (gd : Guard) (pair swap : Bool)
    (s : State) : Keeps s (streamRows scaled x y sp ty gd pair swap s) :=
  keeps_matrixOp gd fun g p w l h => by
    generalize hrun : withMemory s g p l pair = run
    have entered (rs : List (Nat × Nat)) {k : State → State} (hk : ∀ t, footing (k t) = footing t) :
        (footing (run rs k)).Sound := by
      subst hrun
      exact sound_withMemory h g p l pair rs fun t ht => (hk t).symm ▸ ht
    refine sound_ite (by simp [h]) (sound_ite (by simp [h]) (sound_ite (by simp [h]) (sound_ite (by simp [h]) ?_)))
    dsimp only
    generalize firstFailing s g _ = bad
    cases bad with
    | some f => simp [h]
    | none => exact entered _ fun _ => footing_enqueueOp ..

theorem keeps_mdrn (x y : BitVec 6) (sp : Space) (ty : Ty) (gd : Guard) (pair tr : Bool) (s : State) :
    Keeps s (execMdrn x y sp ty gd pair tr s) :=
  keeps_matrixOp gd fun g p w l h => by
    dsimp only
    split
    · simp [h]
    · split
      · simp [h]
      · split
        · simp [h]
        · split
          · simp [h]
          next hc =>
            have claimed := (footing_takeClaims hc).symm ▸ h
            split <;> simp [claimed]

theorem keeps_mzero (tile : Bool) (gd : Guard) (pair : Bool) (s : State) : Keeps s (execMzero tile gd pair s) :=
  keeps_matrixOp gd fun g p w l h => by
    split
    · simp [h]
    · exact sound_withMemory h g p l pair _ fun _ ht => by simpa using ht

theorem keeps_trd (x y imm : BitVec 6) (gd : Guard) (tile col : Bool) (s : State) :
    Keeps s (execTrd x y imm gd tile col s) :=
  keeps_matrixOp gd fun g p _ l h => sound_withMemory h g p l false _ fun _ ht => by simpa using ht

theorem keeps_twr (x y imm : BitVec 6) (gd : Guard) (tile col : Bool) (s : State) :
    Keeps s (execTwr x y imm gd tile col s) :=
  keeps_matrixOp gd fun g p _ l h => sound_withMemory h g p l false _ fun _ ht => by simpa using ht

/-! ### Prefixes and control -/

theorem keeps_prefixOp (n : Nat) (f : Prefix → Prefix) (s : State) : Keeps s (prefixOp n f s) :=
  keeps_onPath fun _ _ _ h => by split <;> simp [h]

theorem keeps_mod (m : ModWord) (s : State) : Keeps s (execMod m s) := by
  unfold execMod
  exact keeps_prefixOp ..

theorem keeps_imm (hi : BitVec 26) (s : State) : Keeps s (execImm hi s) := by
  unfold execImm
  exact keeps_prefixOp ..

theorem keeps_hint (br : BitVec 2) (ra rb : Bool) (s : State) : Keeps s (execHint br ra rb s) :=
  keeps_onPath fun _ _ _ h => by split <;> simp [h]

theorem keeps_bra (gd : Guard) (disp : BitVec 22) (s : State) : Keeps s (execBra gd disp s) :=
  keeps_onPath fun _ _ _ h => by
    dsimp only
    split <;> simp [h]

theorem keeps_jmp (disp : BitVec 26) (s : State) : Keeps s (execJmp disp s) := keeps_onPath fun _ _ _ h => h
theorem keeps_call (disp : BitVec 26) (s : State) : Keeps s (execCall disp s) := keeps_onPath fun _ _ _ h => h
theorem keeps_nop (gd : Guard) (s : State) : Keeps s (execNop gd s) := keeps_onPath fun _ _ _ h => h

theorem keeps_jumpReg (gd : Guard) (t : Path → Word) (s : State) : Keeps s (jumpReg gd t s) :=
  keeps_onPath fun _ _ _ h => by
    dsimp only
    split
    · split <;> simp [h]
    all_goals simp [h]

theorem keeps_split (jk : BitVec 3) (gd : Guard) (disp : BitVec 19) (s : State) : Keeps s (execSplit jk gd disp s) :=
  keeps_onPath fun _ _ _ h => by
    dsimp only
    split
    · simp [h]
    · split
      · simp [h]
      · exact h

theorem keeps_join (jk : BitVec 3) (gd : Guard) (s : State) : Keeps s (execJoin jk gd s) :=
  keeps_onPath fun _ _ _ h => by
    dsimp only
    split
    · split <;> simp [h]
    all_goals simp [h]

theorem keeps_jmov (d a : BitVec 6) (mode : JMode) (gd : Guard) (s : State) : Keeps s (execJmov d a mode gd s) :=
  keeps_onPath fun _ _ _ h => by split <;> simp [h]

theorem keeps_paceOp (gd : Guard) (k : Path → Nat) (s : State) : Keeps s (paceOp gd k s) :=
  keeps_onPath fun _ _ _ h => by
    dsimp only
    repeat' split
    all_goals simp [h]

theorem keeps_reformOp (gd : Guard) (t : Group → Path → Nat → Word) (s : State) : Keeps s (reformOp gd t s) :=
  keeps_onPath fun _ _ _ h => by
    dsimp only
    repeat' split
    all_goals simp [h]

theorem keeps_exit (gd : Guard) (s : State) : Keeps s (execExit gd s) :=
  keeps_onPath fun _ _ _ h => by
    dsimp only
    repeat' split
    all_goals simp [h]

theorem keeps_rte (gd : Guard) (s : State) : Keeps s (execRte gd s) :=
  keeps_onPath fun _ _ _ h => by
    dsimp only
    repeat' split
    all_goals simp [h]

theorem keeps_trap (imm : BitVec 6) (gd : Guard) (s : State) : Keeps s (execTrap imm gd s) :=
  keeps_onPath fun _ _ _ h => by
    dsimp only
    split <;> simp [h]

theorem keeps_bkpt (imm : BitVec 6) (gd : Guard) (s : State) : Keeps s (execBkpt imm gd s) :=
  keeps_onPath fun _ _ _ h => by
    dsimp only
    repeat' split
    all_goals simp [h]

theorem keeps_icinv (gd : Guard) (s : State) : Keeps s (execIcinv gd s) :=
  keeps_onPath fun _ _ _ h => by
    dsimp only
    split
    · simp [h]
    · split
      · simp [h]
      · exact h

/-! ### Launches -/

/-- A launch instruction keeps a sound footing where the elected lane's part does. -/
theorem keeps_launchOp (gd : Guard) {f : State → Group → Path → Word → Nat → State} {s : State}
    (hf : ∀ g p w l, (footing s).Sound → (footing (f s g p w l)).Sound) : Keeps s (launchOp gd f s) :=
  keeps_onPath fun g p w h => by
    dsimp only
    split
    · simp [h]
    · split
      · simp [h]
      · exact hf g p w _ h

theorem keeps_enq (d a : BitVec 6) (sp : Space) (gd : Guard) (s : State) : Keeps s (execEnq d a sp gd s) :=
  keeps_launchOp gd fun g p w l h => sound_withBlock h g p w l _ _ _ _ fun t bs ht => by
    dsimp only
    split
    · simp [ht]
    · exact sound_enqueue ht ..

theorem keeps_deq (d imm : BitVec 6) (gd : Guard) (s : State) : Keeps s (execDeq d imm gd s) :=
  keeps_launchOp gd fun _ _ _ _ h => sound_ite (by simp [h]) (by simp [h])

theorem keeps_depdEdge (d a : BitVec 6) (gd : Guard) (s : State) : Keeps s (execDepdEdge d a gd s) :=
  keeps_launchOp gd fun _ _ _ _ h => by simpa using sound_addEdge h ..

theorem keeps_depdRel (d a : BitVec 6) (gd : Guard) (s : State) : Keeps s (execDepdRel d a gd s) :=
  keeps_launchOp gd fun _ _ _ _ h => by simpa using h

end Sys2Proof.Footings
end

section
/-!
SUPPORT. The footing of the machine under the events.
-/

namespace Sys2Proof.Footings

open Sys2Proof Sys2Proof.Machine

/-! ### Engines -/

theorem keeps_queryComplete (id : Nat) (s : State) : Keeps s (execQueryComplete id s) :=
  keeps_next fun h => by
    repeat' split
    all_goals simp [h]

theorem keeps_pchRequest (req n : Nat) (s : State) : Keeps s (execPchRequest req n s) :=
  keeps_next fun h => by
    split
    · split
      · exact sound_ite (sound_requestCopy h ..) h
      · exact h
    · split
      · exact sound_ite (sound_requestBulk h ..) h
      · exact h
    · exact sound_ite (sound_serve h _) h
    · exact h

theorem keeps_copyLineWrite (req line : Nat) (s : State) : Keeps s (execCopyLineWrite req line s) :=
  keeps_next fun h => by
    split
    · refine sound_ite ?_ h
      split
      · exact sound_writeCopyLine h ..
      · exact h
    · exact h

theorem keeps_copyNearRead (req : Nat) (s : State) : Keeps s (execCopyNearRead req s) :=
  keeps_next fun h => by
    split
    · exact sound_ite (sound_readNear h _) h
    · exact h

theorem keeps_copyBurstAccepted (req n : Nat) (s : State) : Keeps s (execCopyBurstAccepted req n s) :=
  keeps_next fun h => by
    split
    · split
      · exact sound_ite (sound_countBurst h ..) h
      · exact h
    · exact h

theorem keeps_burstArrival (req n : Nat) (s : State) : Keeps s (execBurstArrival req n s) :=
  keeps_next fun h => by
    split
    · split
      · split
        · refine sound_ite ?_ h
          split
          next hf => simpa using (footing_fileThread hf).symm ▸ h
          · exact h
        · exact h
      · exact h
    · exact h

theorem keeps_binDraw (core bin : Nat) (s : State) : Keeps s (execBinDraw core bin s) :=
  keeps_next fun h => by
    repeat' split
    all_goals simp [h]

theorem keeps_lastBurstEvent (req : Nat) (s : State) : Keeps s (execLastBurstEvent req s) :=
  keeps_next fun h => by
    split
    · split
      · exact sound_ite (sound_lastBurst h ..) h
      · exact h
    · exact h

theorem keeps_matrixOpTurn (core : Nat) (s : State) : Keeps s (execMatrixOpTurn core s) :=
  keeps_next fun h => by
    repeat' split
    all_goals simp [h]

theorem keeps_drainWrite (req line : Nat) (s : State) : Keeps s (execDrainWrite req line s) :=
  keeps_next fun h => by
    split
    · split
      · exact sound_ite (sound_writeDrainLine h ..) h
      · exact h
    · exact h

theorem keeps_matrixClaimEnd (core : Nat) (s : State) : Keeps s (execMatrixClaimEnd core s) :=
  keeps_next fun h => by
    split
    · exact sound_ite h h
    · exact h

/-! ### Paths and slices -/

theorem keeps_lagStall (gid pid : Nat) (s : State) : Keeps s (execLagStall gid pid s) :=
  keeps_next fun h => by
    repeat' split
    all_goals simp [h]

theorem keeps_loadComplete (gid pid : Nat) (s : State) : Keeps s (execLoadComplete gid pid s) :=
  keeps_next fun h => by
    repeat' split
    all_goals simp [h]

theorem keeps_storeOffer (po : Nat) (s : State) : Keeps s (execStoreOffer po s) :=
  keeps_next fun h => by
    repeat' split
    all_goals simp [h]

theorem keeps_frontierChange (d : Dom) (slice : Nat) (s : State) : Keeps s (execFrontierChange d slice s) :=
  keeps_next fun h => sound_ite h h

theorem keeps_stepLanding (d : Dom) (step slice : Nat) (s : State) : Keeps s (execStepLanding d step slice s) :=
  keeps_next fun h => sound_ite (by simpa using sound_landStep h ..) h

theorem keeps_sliceScrub (slice : Nat) (s : State) : Keeps s (execSliceScrub slice s) :=
  keeps_next fun h => sound_ite (sound_scrubSector h slice) h

theorem keeps_rebuildSector (slice : Nat) (s : State) : Keeps s (execRebuildSector slice s) :=
  keeps_next fun h => by
    split
    · exact sound_rebuildOne h ..
    · exact h

theorem keeps_slstatWrite (slice : Nat) (value : Word) (s : State) : Keeps s (execSlstatWrite slice value s) :=
  keeps_next fun h => sound_ite h h

/-! ### Stacks -/

theorem keeps_latencyBoundExpiry (pch : Nat) (s : State) : Keeps s (execLatencyBoundExpiry pch s) :=
  keeps_next fun h => sound_ite ((footing_issueQueued s (inAtExpiry s pch)).symm ▸ h) h

theorem keeps_perBankRefresh (bank : Nat) (s : State) : Keeps s (execPerBankRefresh bank s) :=
  keeps_next fun h => sound_ite h h

theorem keeps_tableRowRefresh (bank row : Nat) (s : State) : Keeps s (execTableRowRefresh bank row s) :=
  keeps_next fun h => sound_ite h h

theorem keeps_targetedRefresh (bank row : Nat) (s : State) : Keeps s (execTargetedRefresh bank row s) :=
  keeps_next fun h => sound_ite h h

theorem keeps_ecsScrub (burst : Nat) (outcome : ScrubOutcome) (s : State) : Keeps s (execEcsScrub burst outcome s) :=
  keeps_next fun h => sound_ite (by cases outcome <;> exact h) h

theorem keeps_refreshManagement (bank : Nat) (s : State) : Keeps s (execRefreshManagement bank s) :=
  keeps_next fun h => sound_ite h h

/-! ### Active sets and tasks -/

theorem keeps_activeSetExchange (core : Nat) (s : State) : Keeps s (execActiveSetExchange core s) :=
  keeps_next fun h => by split <;> simp [h]

theorem keeps_rotation (core : Nat) (s : State) : Keeps s (execRotation core s) :=
  keeps_next fun h => by
    repeat' split
    all_goals simp [h]

theorem keeps_taskAdmission (task : Nat) (place : Placement) (s : State) : Keeps s (execTaskAdmission task place s) :=
  keeps_next fun h => by
    split
    · refine sound_ite ?_ h
      split
      · split
        next hr => exact sound_ite (sound_admitTask ((footing_admitPlan hr).symm ▸ h) ..) h
        · exact h
      · exact h
    · exact h

theorem keeps_blockingTask (task : Nat) (s : State) : Keeps s (execBlockingTask task s) :=
  keeps_next fun h => by
    split
    · exact sound_ite h h
    · exact h

theorem keeps_classPreemption (task : Nat) (s : State) : Keeps s (execClassPreemption task s) :=
  keeps_next fun h => by
    repeat' split
    all_goals simp [h]

theorem keeps_taskSteal (tract task : Nat) (s : State) : Keeps s (execTaskSteal tract task s) :=
  keeps_next fun h => by
    repeat' split
    all_goals simp [h]

theorem keeps_taskStaging (task : Nat) (s : State) : Keeps s (execTaskStaging task s) :=
  keeps_next fun h => by
    split
    · exact sound_ite (sound_ite (sound_ite (sound_endStopped h ..) (sound_startTask h _)) (sound_sendXfers h _)) h
    · exact h

theorem keeps_taskRetirement (task : Nat) (s : State) : Keeps s (execTaskRetirement task s) :=
  keeps_next fun h => by
    split
    · exact sound_ite (sound_ite (sound_beginWriteBack h _) (sound_ite (sound_finishTask h _) (sound_sendXfers h _))) h
    · exact h

theorem keeps_taskStop (task : Nat) (s : State) : Keeps s (execTaskStop task s) :=
  keeps_next fun h => by
    split
    · split
      · exact sound_ite h (sound_ite (sound_stopTask h ..) (sound_stopChildren h _))
      · exact h
    · exact h

theorem keeps_preemption (task : Nat) (s : State) : Keeps s (execPreemption task s) :=
  keeps_next fun h => by
    split
    · exact sound_ite (sound_ite h (sound_ite h (sound_ite (sound_saveSettled h _) h))) h
    · exact h

theorem keeps_restore (task : Nat) (place : Placement) (s : State) : Keeps s (execRestore task place s) :=
  keeps_next fun h => by
    split
    · refine sound_ite ?_ h
      split
      next q v _ _ =>
        split
        next r hr =>
          have planned := (footing_restorePlan hr).symm ▸ h
          exact sound_ite (sound_restoreTask (s := { r.1 with xlate := askRegions r.1.xlate q _ }) planned ..) h
        · exact h
      · exact h
    · exact h

/-! ### Translation -/

theorem keeps_atsCompletion (pasid va : Nat) (answer : AtsAnswer) (s : State) :
    Keeps s (execAtsCompletion pasid va answer s) :=
  keeps_next fun h => sound_ite (sound_foldl (fun _ _ h => sound_takeAts h ..) _ h) h

theorem keeps_invalidateRequest (pasid va size : Nat) (s : State) : Keeps s (execInvalidateRequest pasid va size s) :=
  keeps_next fun h => h

theorem keeps_faultBufferFlush (tract : Nat) (s : State) : Keeps s (execFaultBufferFlush tract s) :=
  keeps_next fun h => sound_ite h h

theorem keeps_pageRequestResponse (tract gen : Nat) (code : PrgCode) (s : State) :
    Keeps s (execPageRequestResponse tract gen code s) :=
  keeps_next fun h =>
    sound_ite (sound_foldl (fun _ _ h => sound_ite (sound_wakePage h _) (sound_refusePage h ..)) _ h) h

theorem keeps_stopMarker (tract : Nat) (s : State) : Keeps s (execStopMarker tract s) :=
  keeps_next fun h => sound_ite (sound_advanceGen h _) h

theorem keeps_accessCounterNotify (die slot : Nat) (s : State) : Keeps s (execAccessCounterNotify die slot s) :=
  keeps_next fun h => by
    split
    · exact sound_ite h h
    · exact h

/-! ### The host link -/

theorem keeps_hostMemoryAccess (fn hpa : Nat) (data : Option (List Byte)) (s : State) :
    Keeps s (execHostMemoryAccess fn hpa data s) :=
  keeps_next fun h => by
    split
    · exact sound_ite (sound_hostDram h ..) h
    · exact h

theorem keeps_snoopResponse (snoop : Snoop) (s : State) : Keeps s (execSnoopResponse snoop s) :=
  keeps_next fun h => sound_ite (by
    rw [footing_completeInvalidations]
    exact sound_foldl (fun _ _ h => sound_snooped h ..) _ h) h

theorem keeps_sqtail (fn : Nat) (value : Word) (s : State) : Keeps s (execSqtail fn value s) :=
  keeps_next fun h => (footing_onDoorbell fn s _).symm ▸ h

theorem keeps_cqhead (fn : Nat) (value : Word) (s : State) : Keeps s (execCqhead fn value s) :=
  keeps_next fun h => (footing_onDoorbell fn s _).symm ▸ h

theorem keeps_sqcfg (fn : Nat) (value : Word) (s : State) : Keeps s (execSqcfg fn value s) :=
  keeps_next fun h => (footing_onFn fn s _).symm ▸ h

theorem keeps_cqcfg (fn : Nat) (value : Word) (s : State) : Keeps s (execCqcfg fn value s) :=
  keeps_next fun h => (footing_onFn fn s _).symm ▸ h

theorem keeps_registerWrite (fn offset : Nat) (value : Word) (s : State) : Keeps s (execRegisterWrite fn offset value s) :=
  keeps_next fun h => (footing_onFn fn s _).symm ▸ h

theorem keeps_hostLaunch (fn : Nat) (s : State) : Keeps s (execHostLaunch fn s) :=
  keeps_next fun h => by
    repeat' split
    all_goals simp [h]

theorem keeps_completionEntryWrite (fn : Nat) (s : State) : Keeps s (execCompletionEntryWrite fn s) :=
  keeps_next fun h => by
    split
    · split
      · exact sound_ite (sound_writeCompletion h ..) h
      · exact h
    · exact h

/-! ### The mailbox -/

theorem apart_comm (x y : BitVec 64) : apart x y = apart y x := Bool.or_comm ..

theorem compatible_comm (x y : BitVec 64) : compatible x y = compatible y x := by
  unfold compatible
  rw [apart_comm x y, Bool.or_comm (!platV x), show decide (platDom x = platDom y) = decide (platDom y = platDom x) from
    decide_eq_decide.mpr eq_comm]

/-- A plat entry that may be written stands beside the others. -/
theorem compatible_of_platWriteOk {plat : Vector (BitVec 64) 16} {index : Nat} {e : BitVec 64}
    (h : platWriteOk plat index e = true) {k : Nat} (hk : k < 16) (hne : k ≠ index) : compatible e plat[k] = true := by
  simp only [platWriteOk, Bool.and_eq_true, List.all_eq_true, List.mem_range, Bool.or_eq_true, decide_eq_true_eq] at h
  simpa [hne, hk] using h.2 k hk

/-- The plat stays compatible under a write that it admits. -/
theorem Footing.Sound.writePlat {x : Footing} (h : x.Sound) {index : Nat} (hi : index < 16) {e : BitVec 64}
    (hok : platWriteOk x.plat index e = true) : Footing.Sound { x with plat := x.plat.set index e } := by
  refine { h with plat := fun i j hi hj hij => ?_ }
  rw [Vector.getElem_set, Vector.getElem_set]
  split
  next hx =>
    rw [if_neg (hx ▸ hij)]
    exact compatible_of_platWriteOk hok hj (hx ▸ hij.symm)
  · split
    next hx =>
      rw [compatible_comm]
      exact compatible_of_platWriteOk hok hi (hx ▸ hij)
    · exact h.plat i j hi hj hij

theorem keeps_writePlatEntry (fn index : Nat) (value : BitVec 64) (s : State) :
    Keeps s (execWritePlatEntry fn index value s) :=
  keeps_next fun h => sound_pfOnly h fn fun _ => by
    split
    next hi =>
      split
      next hok => exact h.writePlat hi hok
      · exact h
    · exact sound_ite h h

/-- The cores that a quota record admits belong to no other partition. -/
theorem disjoint_of_quotaOk {s : State} {q : Partition} (h : quotaOk s q = true) {x : Partition} (hx : x ∈ s.parts)
    (hne : x.id ≠ q.id) : x.cores &&& q.cores = 0 := by
  simp only [quotaOk, Bool.and_eq_true, List.all_eq_true, Bool.or_eq_true, decide_eq_true_eq] at h
  exact (h.2 x hx).resolve_left hne

/-- The partitions stay apart under a quota record that they admit. -/
theorem pairwise_quota {s : State} {q : Partition} {words : List Word} {part : Nat} (hid : q.id = part)
    (hok : quotaOk s (quotaOf q words) = true)
    (h : s.parts.Pairwise fun x y => x.id ≠ y.id → x.cores &&& y.cores = 0) :
    (updWhere s.parts (fun x => decide (x.id = part)) fun q => quotaOf q words).Pairwise fun x y =>
      x.id ≠ y.id → x.cores &&& y.cores = 0 := by
  have fresh {x : Partition} (hx : x ∈ s.parts) (hne : x.id ≠ part) : x.cores &&& coreMask words = 0 :=
    disjoint_of_quotaOk hok hx (hid ▸ hne)
  refine List.pairwise_map.mpr (List.Pairwise.imp_of_mem (fun {x y} hx hy hxy => ?_) h)
  by_cases hxp : x.id = part <;> by_cases hyp : y.id = part <;> simp only [hxp, hyp, decide_true, decide_false, if_true]
  · exact fun hne => absurd (hxp.trans hyp.symm) hne
  · exact fun _ => (BitVec.and_comm ..).trans (fresh hy hyp)
  · exact fun _ => fresh hx hxp
  · exact hxy

theorem keeps_writeQuotaRecord (fn part : Nat) (words : List Word) (s : State) :
    Keeps s (execWriteQuotaRecord fn part words s) :=
  keeps_next fun h => sound_pfOnly h fn fun _ => by
    split
    next q hq =>
      have hid : q.id = part := by simpa [findPart] using List.find?_some hq
      split
      next hok =>
        exact (inv_iff_sound _).mp { (inv_iff_sound s).mpr h with
          cores := pairwise_quota hid hok.2 ((inv_iff_sound s).mpr h).cores }
      · exact h
    · exact h

theorem keeps_setContextArea (fn part base size : Nat) (s : State) : Keeps s (execSetContextArea fn part base size s) :=
  keeps_next fun h => sound_pfOnly h fn fun _ => by
    split
    · refine sound_ite ?_ h
      rw [footing_setStatus, footing_modPart _ _ (fun q => { q with ctxBase := base, ctxSize := size }) fun _ => ⟨rfl, rfl⟩]
      exact h
    · exact h

theorem keeps_stopTask (fn handle : Nat) (s : State) : Keeps s (execStopTask fn handle s) :=
  keeps_next fun h => sound_anyFn h fn fun _ => by split <;> simp [h]

theorem keeps_dropKeptRegion (fn far : Nat) (s : State) : Keeps s (execDropKeptRegion fn far s) :=
  keeps_next fun h => sound_anyFn h fn fun _ => by split <;> simp [h]

theorem keeps_readStopLog (fn : Nat) (s : State) : Keeps s (execReadStopLog fn s) :=
  keeps_next fun h => sound_anyFn h fn fun _ => sound_ite h h

theorem keeps_flushFaultBuffers (fn : Nat) (s : State) : Keeps s (execFlushFaultBuffers fn s) :=
  keeps_next fun h => sound_anyFn h fn fun _ => sound_foldl (fun _ _ h => sound_advanceGen h _) _ h

theorem keeps_setAccessCounterThreshold (fn value : Nat) (s : State) :
    Keeps s (execSetAccessCounterThreshold fn value s) :=
  keeps_next fun h => sound_anyFn h fn fun _ => h

theorem keeps_setDebugEnable (fn : Nat) (enable : Bool) (release : Option Nat) (s : State) :
    Keeps s (execSetDebugEnable fn enable release s) :=
  keeps_next fun h => sound_anyFn h fn fun f => by
    have enabled : footing (modPart s f.part fun q => { q with debug := enable }) = footing s :=
      footing_modPart s _ _ fun _ => ⟨rfl, rfl⟩
    dsimp only
    split <;> simpa [enabled] using h

theorem keeps_repairBank (fn slice : Nat) (s : State) : Keeps s (execRepairBank fn slice s) :=
  keeps_next fun h => sound_pfOnly h fn fun _ => sound_ite h h

theorem keeps_bindFabricPeer (fn dev part pasid : Nat) (s : State) : Keeps s (execBindFabricPeer fn dev part pasid s) :=
  keeps_next fun h => sound_anyFn h fn fun _ => sound_ite h h

theorem keeps_readMargins (fn : Nat) (s : State) : Keeps s (execReadMargins fn s) :=
  keeps_next fun h => sound_anyFn h fn fun _ => h

theorem keeps_releaseHeldHostLaunch (fn handle : Nat) (s : State) : Keeps s (execReleaseHeldHostLaunch fn handle s) :=
  keeps_next fun h => sound_anyFn h fn fun _ => by
    split
    · exact sound_ite h h
    · exact h

/-! ### The fabric and resets -/

theorem keeps_attestationReport (nonce : BitVec 256) (s : State) : Keeps s (execAttestationReport nonce s) :=
  keeps_next fun h => sound_ite h h

theorem keeps_flitNak (port flit : Nat) (s : State) : Keeps s (execFlitNak port flit s) :=
  keeps_next fun h => sound_ite h h

theorem keeps_endToEndTimeout (part seq : Nat) (s : State) : Keeps s (execEndToEndTimeout part seq s) :=
  keeps_next fun h => by
    split
    · exact sound_ite h h
    · exact h

theorem keeps_fabricCommand (msg : FabMsg) (s : State) : Keeps s (execFabricCommand msg s) :=
  keeps_next fun h => sound_ite (by
    cases msg with
    | read => exact sound_peerCommand h _
    | write => exact sound_peerCommand h _
    | answer => exact sound_peerAnswer h ..) h

theorem keeps_peerReset (scope : PeerScope) (s : State) : Keeps s (execPeerReset scope s) :=
  keeps_next fun h => sound_foldl (fun _ _ h => sound_resolveOut h ..) _ h

theorem keeps_functionLevelReset (fn : Nat) (s : State) : Keeps s (execFunctionLevelReset fn s) :=
  keeps_next fun h => by
    split
    · exact sound_ite h (sound_ite (sound_beginReset h _) (sound_ite (sound_finishReset h _) h))
    · exact h

/-! ### Power, firmware and bring-up -/

theorem keeps_powerArbitration (clocks shares : List Nat) (s : State) : Keeps s (execPowerArbitration clocks shares s) :=
  keeps_next fun h => sound_ite h h

theorem keeps_marginPlan (atReset : Bool) (plan : List Nat) (s : State) : Keeps s (execMarginPlan atReset plan s) :=
  keeps_next fun h => sound_ite h h

theorem keeps_newFirmwareImage (image : FwImage) (s : State) : Keeps s (execNewFirmwareImage image s) :=
  keeps_next fun h => sound_ite (sound_ite h h) h

theorem keeps_bringUp (s : State) : Keeps s (execBringUp s) :=
  keeps_next fun h => sound_ite h (sound_ite (sound_ite h h) (sound_ite h { h with cores := List.pairwise_singleton .. }))

/-- Partitions without cores are apart from all. -/
theorem pairwise_newParts {l : List Partition}
    (h : (l.map fun q => (q.id, q.cores)).Pairwise fun p q => p.1 ≠ q.1 → p.2 &&& q.2 = 0) (ids : List Nat) :
    ((l ++ ids.map newPart).map fun q => (q.id, q.cores)).Pairwise fun p q => p.1 ≠ q.1 → p.2 &&& q.2 = 0 := by
  have bare {x : Nat × BitVec 512} (hx : x ∈ (ids.map newPart).map fun q => (q.id, q.cores)) : x.2 = 0 := by
    obtain ⟨_, hq, rfl⟩ := List.mem_map.mp hx
    obtain ⟨_, -, rfl⟩ := List.mem_map.mp hq
    rfl
  rw [List.map_append]
  refine List.pairwise_append.mpr ⟨h, ?_, fun a _ b hb _ => by rw [bare hb]; exact BitVec.and_zero⟩
  exact List.pairwise_of_forall_mem_list fun a _ b hb _ => by rw [bare hb]; exact BitVec.and_zero

theorem keeps_sriovEnable (count : Nat) (s : State) : Keeps s (execSriovEnable count s) :=
  keeps_next fun h => sound_ite { h with cores := pairwise_newParts h.cores _ } h

end Sys2Proof.Footings
end

section
/-!
SUPPORT. Every instruction word and event, the issue of a word and the choice of a move keep a sound footing; so a step
keeps the invariant.
-/

namespace Sys2Proof.Footings

open Sys2Proof Sys2Proof.Machine

theorem keeps_exec (i : Instr) (s : State) : Keeps s (exec i s) := by
  cases i with
  | add | sub | mul | mad | addImm | subImm | mulImm | madImm | mulhi | mulhu | min | max | mulhiImm | mulhuImm |
    minImm | maxImm | minu | maxu | and | or | xor | andn | rol | minuImm | maxuImm | andImm | orImm | xorImm |
    andnImm | rolImm | shl | shr | sar | divs | divu | rems | remu | lea | shlImm | shrImm | sarImm | divsImm |
    divuImm | remsImm | remuImm | leaImm | bfx | bfxu | bfxImm | bfxuImm | add64 | sub64 | add64Imm | sub64Imm | shl64 |
    shr64 | shl64Imm | shr64Imm | mov | clz | popc | brev | bfi | movi | bfiImm | sel | shfl | redl | scanl |
    shflImm | popm | cvt | cvtsr | pack8 | pack4 | bcast | bcastImm | fadd | fsub | fmul | ffma | fmin | fmax |
    faddImm | fsubImm | fmulImm | ffmaImm | fminImm | fmaxImm | fscale | fscaleImm | frcpe | frsqe | frnd | fclass |
    dadd | dsub | dmul | dfma | dmin | dmax | hadd2F16 | hmul2F16 | hfma2F16 | hadd2Bf16 | hmul2Bf16 | hfma2Bf16 |
    unpk8 | unpk4 => exact keeps_laneOp ..
  | hint br ra rb => exact keeps_hint br ra rb s
  | vote => exact keeps_vote ..
  | elect => exact keeps_elect ..
  | watch => exact keeps_watch ..
  | copy => exact keeps_copy ..
  | cpys => exact keeps_cpys ..
  | hend => exact keeps_hend ..
  | bra => exact keeps_bra ..
  | jmp => exact keeps_jmp ..
  | call => exact keeps_call ..
  | split => exact keeps_split ..
  | nop gd => exact keeps_nop gd s
  | join => exact keeps_join ..
  | jmov => exact keeps_jmov ..
  | exit => exact keeps_exit ..
  | trap => exact keeps_trap ..
  | bkpt => exact keeps_bkpt ..
  | srd => exact keeps_srd ..
  | swr => exact keeps_swr ..
  | rte => exact keeps_rte ..
  | icinv => exact keeps_icinv ..
  | mod => exact keeps_mod ..
  | imm => exact keeps_imm ..
  | cmp | cmpImm | fcmp | fcmpImm | dcmp => exact keeps_compareOp ..
  | pand | por | pxor | pnot => exact keeps_predLogic ..
  | rdlane | rdlaneImm => exact keeps_rdlane ..
  | wrlane | wrlaneImm => exact keeps_wrlane ..
  | lds | ld => exact keeps_loadOp ..
  | sts => exact keeps_sts ..
  | stP => exact keeps_stP ..
  | stG => exact keeps_stG ..
  | stK => exact keeps_stK ..
  | pres => exact keeps_pres ..
  | absa => exact keeps_absa ..
  | rela => exact keeps_rela ..
  | mldw | mldwS => exact keeps_loadPlane ..
  | mma | mmas => exact keeps_streamRows ..
  | mdrn => exact keeps_mdrn ..
  | mzero => exact keeps_mzero ..
  | trd => exact keeps_trd ..
  | twr => exact keeps_twr ..
  | brd | brdi => exact keeps_bulkOp ..
  | tq | tqb => exact keeps_queryOp ..
  | jmpr | ret => exact keeps_jumpReg ..
  | pace | pacen => exact keeps_paceOp ..
  | reform | reformNext => exact keeps_reformOp ..
  | enq => exact keeps_enq ..
  | deq => exact keeps_deq ..
  | depdEdge => exact keeps_depdEdge ..
  | depdRel => exact keeps_depdRel ..
  | lagStall => exact keeps_lagStall ..
  | loadComplete => exact keeps_loadComplete ..
  | storeOffer => exact keeps_storeOffer ..
  | frontierChange => exact keeps_frontierChange ..
  | stepLanding => exact keeps_stepLanding ..
  | copyLineWrite => exact keeps_copyLineWrite ..
  | copyNearRead => exact keeps_copyNearRead ..
  | copyBurstAccepted => exact keeps_copyBurstAccepted ..
  | burstArrival => exact keeps_burstArrival ..
  | binDraw => exact keeps_binDraw ..
  | lastBurstEvent => exact keeps_lastBurstEvent ..
  | queryComplete => exact keeps_queryComplete ..
  | pchRequest => exact keeps_pchRequest ..
  | latencyBoundExpiry => exact keeps_latencyBoundExpiry ..
  | perBankRefresh => exact keeps_perBankRefresh ..
  | tableRowRefresh => exact keeps_tableRowRefresh ..
  | targetedRefresh => exact keeps_targetedRefresh ..
  | ecsScrub => exact keeps_ecsScrub ..
  | sliceScrub => exact keeps_sliceScrub ..
  | rebuildSector => exact keeps_rebuildSector ..
  | matrixOpTurn => exact keeps_matrixOpTurn ..
  | drainWrite => exact keeps_drainWrite ..
  | matrixClaimEnd => exact keeps_matrixClaimEnd ..
  | activeSetExchange => exact keeps_activeSetExchange ..
  | rotation => exact keeps_rotation ..
  | taskAdmission => exact keeps_taskAdmission ..
  | blockingTask => exact keeps_blockingTask ..
  | classPreemption => exact keeps_classPreemption ..
  | taskSteal => exact keeps_taskSteal ..
  | taskStaging => exact keeps_taskStaging ..
  | taskRetirement => exact keeps_taskRetirement ..
  | taskStop => exact keeps_taskStop ..
  | preemption => exact keeps_preemption ..
  | restore => exact keeps_restore ..
  | atsCompletion => exact keeps_atsCompletion ..
  | invalidateRequest => exact keeps_invalidateRequest ..
  | faultBufferFlush => exact keeps_faultBufferFlush ..
  | pageRequestResponse => exact keeps_pageRequestResponse ..
  | stopMarker => exact keeps_stopMarker ..
  | accessCounterNotify => exact keeps_accessCounterNotify ..
  | hostMemoryAccess => exact keeps_hostMemoryAccess ..
  | snoopResponse => exact keeps_snoopResponse ..
  | sqtail => exact keeps_sqtail ..
  | hostLaunch => exact keeps_hostLaunch ..
  | completionEntryWrite => exact keeps_completionEntryWrite ..
  | cqhead => exact keeps_cqhead ..
  | sqcfg => exact keeps_sqcfg ..
  | cqcfg => exact keeps_cqcfg ..
  | registerWrite => exact keeps_registerWrite ..
  | slstatWrite => exact keeps_slstatWrite ..
  | functionLevelReset => exact keeps_functionLevelReset ..
  | writePlatEntry => exact keeps_writePlatEntry ..
  | writeQuotaRecord => exact keeps_writeQuotaRecord ..
  | setContextArea => exact keeps_setContextArea ..
  | stopTask => exact keeps_stopTask ..
  | dropKeptRegion => exact keeps_dropKeptRegion ..
  | readStopLog => exact keeps_readStopLog ..
  | flushFaultBuffers => exact keeps_flushFaultBuffers ..
  | setAccessCounterThreshold => exact keeps_setAccessCounterThreshold ..
  | setDebugEnable => exact keeps_setDebugEnable ..
  | repairBank => exact keeps_repairBank ..
  | bindFabricPeer => exact keeps_bindFabricPeer ..
  | readMargins => exact keeps_readMargins ..
  | releaseHeldHostLaunch => exact keeps_releaseHeldHostLaunch ..
  | attestationReport => exact keeps_attestationReport ..
  | flitNak => exact keeps_flitNak ..
  | endToEndTimeout => exact keeps_endToEndTimeout ..
  | fabricCommand => exact keeps_fabricCommand ..
  | peerReset => exact keeps_peerReset ..
  | powerArbitration => exact keeps_powerArbitration ..
  | marginPlan => exact keeps_marginPlan ..
  | bringUp => exact keeps_bringUp ..
  | refreshManagement => exact keeps_refreshManagement ..
  | sriovEnable => exact keeps_sriovEnable ..
  | newFirmwareImage => exact keeps_newFirmwareImage ..

/-! ### What happens beside the opcode table -/

theorem footing_happening (h : Happening) (s : State) : footing (happening h s) = footing s := by
  cases h with
  | response gid pid =>
    simp only [happening, responseArrives]
    repeat' split
    all_goals simp
  | markBank slice bank =>
    simp only [happening, markBank]
    split <;> simp
  | flipSymbol sector bank bits =>
    simp only [happening, flipSymbol]
    split <;> rfl
  | burstError burst report =>
    simp only [happening]
    split <;> rfl
  | loadObject o =>
    simp only [happening, loadObject]
    repeat' split
    all_goals rfl
  | flipCopy | upsetEntry | upsetAccum | upsetEngine => rfl

/-! ### The issue of a word -/

@[simp] theorem footing_packIssue (s : State) (g : Group) : footing (packIssue s g) = footing s := by
  rw [packIssue_frame]
  rfl

@[simp] theorem footing_fillTract (s : State) (core : Nat) (y : Instance × Nat) :
    footing (fillTract s core y) = footing s :=
  footing_withDram (s := s) (d := readNormal s.dram (y.1.dpa + 4 * y.2)) (ground_readNormal ..)

@[simp] theorem footing_fillCore (s : State) (core : Nat) (y : Instance × Nat) :
    footing (fillCore s core y) = footing s := (rfl)

@[simp] theorem footing_cacheFetched (s : State) (core task : Nat) (a : Word) :
    footing (cacheFetched s core task a) = footing s := by
  unfold cacheFetched
  split
  · rfl
  · split
    · rfl
    · rw [footing_fillCore]
      split <;> simp

@[simp] theorem footing_stopFetch (s : State) (g : Group) (p : Path) : footing (stopFetch s g p) = footing s := by
  unfold stopFetch
  dsimp only
  rw [footing_stopWith]
  split
  · exact footing_withDram (ground_readNormal ..)
  · rfl

/-- The footing of the machine that an issue leaves. -/
def issuedFooting : Issue → Footing
  | .done s => footing s
  | .run _ s => footing s

theorem issuedFooting_dispatchWord (s : State) (g : Group) (p : Path) (waited : Bool) (w : Word) :
    issuedFooting (dispatchWord s g p waited w) = footing s := by
  unfold dispatchWord
  split
  · exact footing_illegalTrap ..
  · split
    · rfl
    · exact footing_illegalTrap ..

theorem issuedFooting_issueFrom (s : State) (g : Group) (p : Path) : issuedFooting (issueFrom s g p) = footing s := by
  have begun (g1 : Group) (c : Cursor) : footing { putGroup (packIssue s g) g1 with cursor := some c } = footing s :=
    footing_packIssue s g
  unfold issueFrom
  dsimp only
  split
  · exact (footing_addressTrap ..).trans (begun ..)
  · split
    · rw [issuedFooting_dispatchWord, begun]
    · split
      · exact (footing_stopFetch ..).trans (begun ..)
      · rw [issuedFooting_dispatchWord, footing_cacheFetched, begun]

theorem issuedFooting_issue (gid pid : Nat) (s : State) : issuedFooting (issue gid pid s) = footing s := by
  unfold issue
  split
  · rfl
  · split
    · rfl
    · split
      · exact issuedFooting_issueFrom ..
      · rfl

/-! ### A step -/

@[simp] theorem footing_tick (s : State) : footing (tick s) = footing s := (rfl)

@[simp] theorem footing_schedule (s : State) : footing (schedule s).2 = footing s := by
  unfold schedule
  split <;> rfl

@[simp] theorem footing_nextDecision (s : State) : footing (nextDecision s).2 = footing s := by
  unfold nextDecision
  split
  · rfl
  · exact footing_schedule s

theorem issuedFooting_carryOut (d : Option Decision × State) : issuedFooting (carryOut d) = footing d.2 := by
  unfold carryOut
  split
  · exact issuedFooting_issue ..
  · split <;> rfl
  · exact footing_happening ..
  · rfl

theorem issuedFooting_nextInstr (s : State) : issuedFooting (nextInstr s) = footing s := by
  simp [nextInstr, issuedFooting_carryOut]

theorem keeps_step (s : State) : Keeps s (step s) := by
  refine ⟨fun h t ht => ?_⟩
  have issued := issuedFooting_nextInstr s
  unfold step at ht
  split at ht
  next u hu =>
    obtain rfl : u = t := by simpa using ht
    have unchanged : footing u = footing s := by rw [← issued, hu]; rfl
    exact unchanged.symm ▸ h
  next i u hu =>
    have unchanged : footing u = footing s := by rw [← issued, hu]; rfl
    exact (keeps_exec i u).sound (unchanged.symm ▸ h) t ht

/-- Settles O6: each operation of the machine keeps what the invariant demands of the footing, so each word, each event and
each step does. -/
theorem stepsKeepTheInvariant : Obligations.StepsKeepTheInvariant := by
  unfold Obligations.StepsKeepTheInvariant
  exact fun s t h ht => (inv_iff_sound t).mpr ((keeps_step s).sound ((inv_iff_sound s).mp h) t ht)

end Sys2Proof.Footings
end

section
/-!
SUPPORT. A flush of the fault buffers on a machine where two requests have one number: a bulk read of a core of tract 0, whose
burst waits for a page, and a copy of a core of tract 1.
-/

namespace Sys2Proof.SharedNumbers

open Sys2Proof Sys2Proof.Machine

/-- A burst of byte 0 of the far memory. -/
def firstBurst (st : BurstState) : Burst := { va := 0, pos := 0, offset := 0, coord := (0, 0, 0), state := st }

/-- What a request of a core carries; its number is 0. -/
def headOn (core : Nat) : ReqHead := { id := 0, task := 0, party := 0, core := core, step := 0, tid := 0, pc := 0 }

/-- A copy of a core of tract 1 whose burst has not been sent. -/
def farCopy : Copy := { (default : Copy) with head := headOn 64, bursts := [firstBurst .todo] }

/-- A bulk read of a core of tract 0 whose burst waits for a page. -/
def nearBulk : Bulk := { (default : Bulk) with head := headOn 0, bursts := [firstBurst (.page 0 0)] }

/-- The device is up, with the physical function and the two requests. -/
def twoRequests : State :=
  { State.reset with mgmt.up := true, host.fns := [newFn 0 0], eng.copies := [farCopy], eng.bulks := [nearBulk] }

/-- The burst of the bulk read as it waits. -/
def bulkWaiter : Waiter :=
  { client := clientOf twoRequests (headOn 0) (.bulk 0) 0, va := 0, write := none, len := 64, state := .page 0 0 }

/-- The tract and the generation of each page record that a flush by the physical function leaves. -/
def recordsFlushed (s : State) : List (Nat × Nat) :=
  match exec (.flushFaultBuffers 0) s with
  | .next t => t.xlate.records.map fun r => (r.tract, r.gen)
  | _ => []

/-- The burst asks again in tract 0; the state it is given goes to the copy, which then asks again in tract 1. -/
theorem recordsFlushed_twoRequests : recordsFlushed twoRequests = [(0, 1), (1, 1)] := by decide

/-- Refutes O59: the statement finds the burst that waits for a page by its request number and burst number alone. Where a
copy and a bulk read have one number (the statement does not exclude it), the burst of the bulk read in tract 0 sends its new
request, its new state is entered in the copy's burst, and the flush of tract 1 lets that send a second one: two records stand
where the statement has one. -/
theorem not_managementCommandsWriteWhatTheyName : ¬ Obligations.ManagementCommandsWriteWhatTheyName := by
  unfold Obligations.ManagementCommandsWriteWhatTheyName
  intro h
  obtain ⟨-, -, -, -, -, -, -, -, -, -, -, -, hflush, -⟩ := h twoRequests (newFn 0 0) default default default 0 0 0 0 0 0 0 0 0
    0 0 [] false farCopy 0 0 (firstBurst .todo) bulkWaiter rfl
  obtain ⟨t, hexec, -, -, -, -, -, hrecords⟩ := hflush rfl rfl rfl rfl rfl rfl rfl rfl (by decide)
  have hflushed : recordsFlushed twoRequests = t.xlate.records.map fun r => (r.tract, r.gen) := by
    unfold recordsFlushed
    rw [show exec (.flushFaultBuffers 0) twoRequests = .next t from hexec]
  rw [recordsFlushed_twoRequests, hrecords] at hflushed
  exact absurd hflushed (by decide)

end Sys2Proof.SharedNumbers
end

section
/-!
SUPPORT. The far side of a burst: what it does once it enters the stacks (R63, R65, R68, R70), and how a copy takes what became
of its burst (R100).
-/

namespace Sys2Proof.FarSide

open Sys2Proof Sys2Proof.Machine Sys2Proof.StagingBytes

/-! ### The stacks -/

/-- Whether a request to an address waits in its queue when it enters now (R69, R70). -/
def waitsInQueue (s : State) (dpa : Nat) : Bool := queryAtBank s (bankOf dpa) || pchYields s (pchOf dpa)

@[simp] theorem enterQueue_mem (s : State) (c : Client) (dpa : Nat) : (enterQueue s c dpa).dram.mem = s.dram.mem := by
  simp only [enterQueue]
  split <;> rfl

@[simp] theorem countReport_mem (d : Dram) (dpa : Nat) : (countReport d dpa).mem = d.mem := by
  unfold countReport
  split <;> rfl

@[simp] theorem countReport_queues (d : Dram) (dpa : Nat) : (countReport d dpa).queues = d.queues := by
  unfold countReport
  split <;> rfl

@[simp] theorem dramWrite_mem (d : Dram) (dpa : Nat) (bs : List Byte) :
    (dramWrite d dpa bs).mem = cellSetAll d.mem (addressed dpa bs) := by
  simp only [dramWrite]
  split <;> rfl

@[simp] theorem dramWrite_queues (d : Dram) (dpa : Nat) (bs : List Byte) : (dramWrite d dpa bs).queues = d.queues := by
  simp only [dramWrite]
  split <;> rfl

/-- A request whose number no queued one bears stands in its queue when it has to wait there. -/
theorem inQueue_enterQueue {s : State} {c : Client} (hnew : ∀ y ∈ s.dram.queues, y.req ≠ c.req) (dpa : Nat) :
    inQueue (enterQueue s c dpa) c.req c.n = waitsInQueue s dpa := by
  have hold : (s.dram.queues.any fun e => decide (e.req = c.req) && decide (e.n = c.n)) = false := by
    simpa using fun y hy h => absurd h (hnew y hy)
  change inQueue (if waitsInQueue s dpa then _ else _) _ _ = _
  cases waitsInQueue s dpa
  · exact hold
  · simp [inQueue]

/-- The plat refuses a burst, which touches nothing. -/
theorem stackAccess_refused {s : State} {c : Client} {dpa : Nat} (h : platAllows s.dram.plat c.dom (rowOf dpa) = false)
    (write : Option (List Byte)) (len : Nat) : stackAccess s c write dpa len = (s, .failed 2) := by
  simp [stackAccess, h]

section Allowed

variable {s : State} {c : Client} {dpa : Nat} (h : platAllows s.dram.plat c.dom (rowOf dpa) = true)
include h

theorem stackAccess_write (bs : List Byte) (len : Nat) : stackAccess s c (some bs) dpa len =
    ({ enterQueue s c dpa with dram := dramWrite (enterQueue s c dpa).dram dpa bs }, .accepted) := by
  simp [stackAccess, h]

theorem stackAccess_read (hgood : reportOf s.dram (burstOf dpa) ≠ .uncorrectable) (len : Nat) :
    stackAccess s c none dpa len =
      ({ enterQueue s c dpa with dram := countReport (enterQueue s c dpa).dram dpa }, .got (bytesAt s.dram.mem dpa len)) := by
  simp [stackAccess, h, hgood]

theorem stackAccess_uncorrectable (hbad : reportOf s.dram (burstOf dpa) = .uncorrectable) (len : Nat) :
    stackAccess s c none dpa len =
      ({ enterQueue s c dpa with dram := countReport (enterQueue s c dpa).dram dpa }, .failed 3) := by
  simp [stackAccess, h, hbad]

/-- A write that enters the stacks overwrites its bytes. -/
theorem stackAccess_overwrites (hwf : Memory.wf s.dram.mem = true) (bs : List Byte) (len : Nat) :
    Overwrites s.dram.mem (stackAccess s c (some bs) dpa len).1.dram.mem dpa bs := by
  rw [stackAccess_write h]
  dsimp only
  rw [dramWrite_mem, enterQueue_mem]
  exact overwrites_cellSetAll hwf dpa bs

end Allowed

/-- A read that enters the stacks leaves their bytes. -/
theorem stackAccess_none_mem (s : State) (c : Client) (dpa len : Nat) :
    (stackAccess s c none dpa len).1.dram.mem = s.dram.mem := by
  cases h : platAllows s.dram.plat c.dom (rowOf dpa)
  · rw [stackAccess_refused h]
  · by_cases hbad : reportOf s.dram (burstOf dpa) = .uncorrectable
    · rw [stackAccess_uncorrectable h hbad]
      simp
    · rw [stackAccess_read h hbad]
      simp

/-! ### A copy and its bursts -/

theorem setBurst_eq_set {bs : List Burst} {n : Nat} {x : Burst} (h : bs[n]? = some x) (st : BurstState) :
    setBurst bs n st = bs.set n { x with state := st } := by
  rw [setBurst, List.modify_eq_set_getElem?, h]
  rfl

theorem findCopy_congr {s t : State} (h : t.eng = s.eng) (id : Nat) : findCopy t id = findCopy s id := by
  simp only [findCopy, h]

theorem findCopy_putCopy {s : State} {c d : Copy} (h : findCopy s c.head.id = some d) :
    findCopy (putCopy s c) c.head.id = some c :=
  find_updWhere _ _ _ _ (by simp) (fun _ => rfl) ⟨d, h⟩

/-- An outcome other than an uncorrectable error is entered in the copy, and nothing else changes. -/
theorem copyOutcome_goes {c : Copy} {n : Nat} {st : BurstState} (hkeep : c.outcome n st = st) (hgood : st ≠ .failed 3)
    (s : State) : copyOutcome c n (s, st) = putCopy s { c with bursts := setBurst c.bursts n st } := by
  simp [copyOutcome, hkeep, hgood]

/-- The copy as its burst then stands. -/
theorem findCopy_copyOutcome {s : State} {c d : Copy} {n : Nat} {x : Burst} {st : BurstState}
    (hfind : findCopy s c.head.id = some d) (hx : c.bursts[n]? = some x) (hkeep : c.outcome n st = st) (hgood : st ≠ .failed 3) :
    findCopy (copyOutcome c n (s, st)) c.head.id = some { c with bursts := c.bursts.set n { x with state := st } } := by
  rw [copyOutcome_goes hkeep hgood, setBurst_eq_set hx]
  exact findCopy_putCopy (c := { c with bursts := c.bursts.set n { x with state := st } }) hfind

end Sys2Proof.FarSide
end

section
/-!
PROOF. The events of the host link (R63, R65, R68 to R70, R294 to R297): host access, snoop responses, ring registers, host
launches and completion entries.
-/

namespace Sys2Proof.HostLink

open Sys2Proof Sys2Proof.Machine Sys2Proof.RegionBytes Sys2Proof.StagingBytes Sys2Proof.FarSide

/-! ### Functions -/

/-- Finding a function after functions of one number have changed. -/
theorem findFn_modFn {g : HostFn → HostFn} (hg : ∀ f, (g f).fn = f.fn) (s : State) (fn k : Nat) :
    findFn (modFn s fn g) k = if k = fn then (findFn s k).map g else findFn s k := by
  have hkey : ((fun f : HostFn => decide (f.fn = k)) ∘ fun f => if decide (f.fn = fn) = true then g f else f) =
      fun f => decide (f.fn = k) := by
    funext f
    by_cases h : f.fn = fn <;> simp [h, hg]
  simp only [findFn, modFn, updWhere, List.find?_map, hkey]
  split
  · cases h : s.host.fns.find? fun f => decide (f.fn = k) with
    | none => simp
    | some f =>
      obtain rfl : f.fn = k := by simpa using List.find?_some h
      by_cases hid : f.fn = fn <;> simp [hid]
  · simp

theorem findFn_modFn_same {g : HostFn → HostFn} (hg : ∀ f, (g f).fn = f.fn) {s : State} {fn : Nat} {f : HostFn}
    (h : findFn s fn = some f) : findFn (modFn s fn g) fn = some (g f) := by
  rw [findFn_modFn hg, if_pos rfl, h, Option.map_some]

theorem modFn_hostMem (s : State) (fn : Nat) (g : HostFn → HostFn) : (modFn s fn g).host.mem = s.host.mem := rfl

/-- The outcome of a command changes function `f` to `f'`, and nothing else. -/
def SetsFn (s : State) (o : Host.Outcome State Fault Refusal) (f f' : HostFn) : Prop :=
  ∃ t, o = .next t ∧ findFn t f.fn = some f' ∧ (∀ k, k ≠ f.fn → findFn t k = findFn s k) ∧
    t = { s with host := { s.host with fns := t.host.fns } }

theorem setsFn_modFn {s : State} {f f' : HostFn} (hf : findFn s f.fn = some f) {g : HostFn → HostFn}
    (hg : ∀ f, (g f).fn = f.fn) (hf' : g f = f') : SetsFn s (.next (modFn s f.fn g)) f f' :=
  ⟨modFn s f.fn g, rfl, hf' ▸ findFn_modFn_same hg hf, fun k hk => by rw [findFn_modFn hg, if_neg hk], rfl⟩

/-! ### Ring registers (R297) -/

section Registers

variable {s : State} {f : HostFn} (hf : findFn s f.fn = some f)
include hf

theorem onFn_sets {g : HostFn → HostFn} (hg : ∀ f, (g f).fn = f.fn) {f' : HostFn} (hf' : g f = f') :
    SetsFn s (.next (onFn f.fn s g)) f f' := by
  have hon : onFn f.fn s g = modFn s f.fn g := by simp [onFn, hf]
  rw [hon]
  exact setsFn_modFn hf hg hf'

theorem onDoorbell_resetting (hr : f.part ∈ s.host.resetting) (g : HostFn → HostFn) : onDoorbell f.fn s g = s := by
  simp [onDoorbell, hf, isResetting, hr]

theorem onDoorbell_sets (hr : f.part ∉ s.host.resetting) {g : HostFn → HostFn} (hg : ∀ f, (g f).fn = f.fn) {f' : HostFn}
    (hf' : g f = f') : SetsFn s (.next (onDoorbell f.fn s g)) f f' := by
  have hon : onDoorbell f.fn s g = modFn s f.fn g := by simp [onDoorbell, hf, isResetting, hr]
  rw [hon]
  exact setsFn_modFn hf hg hf'

theorem sqtail_sets (hr : f.part ∉ s.host.resetting) (v : Word) : SetsFn s (exec (.sqtail f.fn v) s) f
    (if f.sqEn then { f with sqTail := v.toNat % 4096 % 2 ^ f.sqN } else f) :=
  onDoorbell_sets hf hr (fun f => by split <;> rfl) rfl

theorem cqhead_sets (hr : f.part ∉ s.host.resetting) (v : Word) : SetsFn s (exec (.cqhead f.fn v) s) f
    (if f.cqEn then { f with cqHead := v.toNat % 4096 % 2 ^ f.cqM } else f) :=
  onDoorbell_sets hf hr (fun f => by split <;> rfl) rfl

theorem sqcfg_sets (v : Word) : SetsFn s (exec (.sqcfg f.fn v) s) f
    (if f.sqEn then { f with sqEn := v.getLsbD 31 }
      else if v.getLsbD 31 = true ∧ 4 ≤ v.toNat % 16 ∧ v.toNat % 16 ≤ 12 then
        { f with sqN := v.toNat % 16, sqEn := true, sqHead := 0, sqTail := 0 }
      else { f with sqN := v.toNat % 16 }) := by
  refine onFn_sets hf (fun f => ?_) ?_
  · dsimp only
    repeat' split
    all_goals rfl
  · have hsize : bitsOf v.toNat 3 0 = v.toNat % 16 := by simp [bitsOf]
    simp only [hsize, ringOk, Bool.and_eq_true, decide_eq_true_eq]

/-- What `CQCFG` makes of a function. -/
theorem cqcfg_sets (v : Word) {f' : HostFn} (hf' : (if f.cqEn then { f with cqEn := v.getLsbD 31, cqIen := v.getLsbD 30 }
      else if v.getLsbD 31 = true ∧ 4 ≤ v.toNat % 16 ∧ v.toNat % 16 ≤ 12 then
        { f with cqM := v.toNat % 16, cqVector := v.toNat / 2 ^ 16 % 64, cqIen := v.getLsbD 30, cqEn := true, cqHead := 0,
                 cqTail := 0, phase := true }
      else { f with cqM := v.toNat % 16, cqVector := v.toNat / 2 ^ 16 % 64, cqIen := v.getLsbD 30 }) = f') :
    SetsFn s (exec (.cqcfg f.fn v) s) f f' := by
  refine onFn_sets hf (fun f => ?_) (Eq.trans ?_ hf')
  · dsimp only
    repeat' split
    all_goals rfl
  · have hsize : bitsOf v.toNat 3 0 = v.toNat % 16 := by simp [bitsOf]
    have hvector : bitsOf v.toNat 21 16 = v.toNat / 2 ^ 16 % 64 := by simp [bitsOf]
    simp only [hsize, hvector, ringOk, Bool.and_eq_true, decide_eq_true_eq]

/-- A base register while its ring is off; with the ring on the write changes nothing. -/
theorem registerWrite_sets (offset : Nat) (v : Word) {f' : HostFn} (hf' : (
      if offset = 0x1000 ∧ !f.sqEn then { f with sqBase := setBase f.sqBase false v }
      else if offset = 0x1004 ∧ !f.sqEn then { f with sqBase := setBase f.sqBase true v }
      else if offset = 0x1018 ∧ !f.cqEn then { f with cqBase := setBase f.cqBase false v }
      else if offset = 0x101C ∧ !f.cqEn then { f with cqBase := setBase f.cqBase true v }
      else f) = f') : SetsFn s (exec (.registerWrite f.fn offset v) s) f f' := by
  refine onFn_sets hf (fun f => ?_) hf'
  repeat' split
  all_goals rfl

end Registers

theorem setBase_low (b : BitVec 64) (v : Word) : setBase b false v = b.extractLsb' 32 32 ++ (v &&& 0xFFFFF000) := by
  have hhigh : (b >>> 32).setWidth 32 = b.extractLsb' 32 32 := rfl
  simp [setBase, hhigh]

theorem setBase_high (b : BitVec 64) (v : Word) : setBase b true v = v ++ b.extractLsb' 0 32 := by
  simp [setBase, BitVec.setWidth_eq_extractLsb' (show 32 ≤ 64 by omega)]

/-! ### Host access to device memory (R63, R65, R68 to R70, R294, R295) -/

theorem hdmOf_hdm {h : HostSide} {dpa : Nat} (hd : dpa < hdmSize) : hdmOf h (h.hpa0 + dpa) = some dpa := by
  rw [hdmOf, if_pos (by omega), Nat.add_sub_cancel_left]

/-- The client of a request of the host. -/
def hostClient (s : State) (f : HostFn) : Client :=
  { part := f.part, pasid := 0, dom := fnDom s f, handle := 0, core := 0, front := .tract 0, req := s.fresh, n := 0 }

/-- The host's side with a response, which waits while the request does. -/
def respondsWith (queued : Bool) (id : Nat) (h : HostSide) (r : HostResponse) : HostSide :=
  if queued then { h with held := h.held ++ [(id, r)] } else { h with responses := h.responses ++ [r] }

section Access

variable {s : State} {f : HostFn} {dpa : Nat} (hf : findFn s f.fn = some f) (hd : dpa < hdmSize)
  (hfree : queueFree s dpa = true)
include hf hd hfree

theorem hostMemoryAccess_eq {data : Option (List Byte)} (hlen : dpa % 64 + (data.map (·.length)).getD 0 ≤ 64) :
    exec (.hostMemoryAccess f.fn (s.host.hpa0 + dpa) data) s = .next (hostDram s f dpa data) := by
  simp only [exec, execHostMemoryAccess, hf, hdmOf_hdm hd, if_pos (And.intro hlen hfree)]

end Access

/-- The host's side after a read: the host may hold the burst. -/
def tracks (h : HostSide) (burst : Nat) : HostSide :=
  { h with tracked := if h.tracked.contains burst then h.tracked else h.tracked ++ [burst] }

theorem mem_tracked_tracks (h : HostSide) (burst : Nat) : burst ∈ (tracks h burst).tracked := by
  simp only [tracks, List.contains_iff_mem]
  split
  · assumption
  · simp

section Responses

variable {s : State} {f : HostFn} {dpa : Nat}

theorem hostDram_answers {data : Option (List Byte)} {t : State} {st : BurstState} {queued : Bool}
    (hgo : stackAccess (freshId s).2 (hostClient s f) data dpa (64 - dpa % 64) = (t, st)) (hst : ∀ d, st ≠ .got d)
    (hq : inQueue t s.fresh 0 = queued) :
    hostDram s f dpa data = { t with host := respondsWith queued s.fresh t.host (hostResponse f.fn dpa st) } := by
  unfold hostClient at hgo
  unfold hostDram
  dsimp only [freshId] at hgo ⊢
  rw [hgo]
  dsimp only
  rw [hq]
  cases st with
  | got d => exact absurd rfl (hst d)
  | _ => cases queued <;> rfl

theorem hostDram_returns {t : State} {d : List Byte} {queued : Bool}
    (hgo : stackAccess (freshId s).2 (hostClient s f) none dpa (64 - dpa % 64) = (t, .got d))
    (hq : inQueue t s.fresh 0 = queued) :
    hostDram s f dpa none = { t with
      host := tracks (respondsWith queued s.fresh t.host (hostResponse f.fn dpa (.got d))) (burstOf dpa) } := by
  unfold hostClient at hgo
  unfold hostDram
  dsimp only [freshId] at hgo ⊢
  rw [hgo]
  dsimp only
  rw [hq]
  cases queued <;> rfl

variable (hnew : ∀ y ∈ s.dram.queues, y.req < s.fresh)
include hnew

theorem inQueue_hostRequest {t : State} (ht : t.dram.queues = (enterQueue (freshId s).2 (hostClient s f) dpa).dram.queues) :
    inQueue t s.fresh 0 = waitsInQueue s dpa := by
  have hentered : inQueue (enterQueue (freshId s).2 (hostClient s f) dpa) s.fresh 0 = waitsInQueue s dpa :=
    inQueue_enterQueue (s := (freshId s).2) (c := hostClient s f) (fun y hy => Nat.ne_of_lt (hnew y hy)) dpa
  unfold inQueue at hentered ⊢
  rw [ht]
  exact hentered

/-- A request the plat refuses is answered with status 2, and touches no row. -/
theorem hostDram_refused (hplat : platAllows s.dram.plat (fnDom s f) (rowOf dpa) = false) (data : Option (List Byte)) :
    hostDram s f dpa data = { s with
      fresh := s.fresh + 1
      host := { s.host with responses := s.host.responses ++ [⟨f.fn, dpa, 2, []⟩] } } := by
  have hout : inQueue (freshId s).2 s.fresh 0 = false := by
    simpa [inQueue, freshId] using fun y hy h => absurd h (Nat.ne_of_lt (hnew y hy))
  exact hostDram_answers (stackAccess_refused (s := (freshId s).2) (c := hostClient s f) hplat data _) (by simp) hout

section Permitted

variable (hplat : platAllows s.dram.plat (fnDom s f) (rowOf dpa) = true)
include hplat

theorem hostDram_write (bs : List Byte) : ∃ t, hostDram s f dpa (some bs) = t ∧
    t.host = respondsWith (waitsInQueue s dpa) s.fresh s.host ⟨f.fn, dpa, 0, []⟩ ∧ t.sram = s.sram ∧ t.tasks = s.tasks ∧
    (Memory.wf s.dram.mem = true → Overwrites s.dram.mem t.dram.mem dpa bs) := by
  have hframe := stackAccess_frame (freshId s).2 (hostClient s f) (some bs) dpa (64 - dpa % 64)
  have hover := stackAccess_overwrites (s := (freshId s).2) (c := hostClient s f) hplat (bs := bs) (len := 64 - dpa % 64)
  have hgo := stackAccess_write (s := (freshId s).2) (c := hostClient s f) hplat bs (64 - dpa % 64)
  have hq := inQueue_hostRequest (f := f) (dpa := dpa) hnew (t := (stackAccess (freshId s).2 (hostClient s f) (some bs) dpa
    (64 - dpa % 64)).1) (by rw [hgo]; exact dramWrite_queues _ _ _)
  refine ⟨_, hostDram_answers (t := (stackAccess (freshId s).2 (hostClient s f) (some bs) dpa (64 - dpa % 64)).1)
    (st := .accepted) (Prod.ext rfl (by rw [hgo])) (by simp) hq, ?_, ?_, ?_, hover⟩
  all_goals rw [hframe]; rfl

theorem hostDram_read (hgood : reportOf s.dram (burstOf dpa) = .clean) : ∃ t, hostDram s f dpa none = t ∧
    t.host = tracks (respondsWith (waitsInQueue s dpa) s.fresh s.host
      ⟨f.fn, dpa, 0, bytesAt s.dram.mem dpa (64 - dpa % 64)⟩) (burstOf dpa) ∧
    t.dram.mem = s.dram.mem ∧ t.sram = s.sram ∧ t.tasks = s.tasks := by
  have hframe := stackAccess_frame (freshId s).2 (hostClient s f) none dpa (64 - dpa % 64)
  have hmem := stackAccess_none_mem (freshId s).2 (hostClient s f) dpa (64 - dpa % 64)
  have hgo := stackAccess_read (s := (freshId s).2) (c := hostClient s f) hplat (dpa := dpa)
    (fun h => by cases hgood.symm.trans h) (64 - dpa % 64)
  have hq := inQueue_hostRequest (f := f) (dpa := dpa) hnew (t := (stackAccess (freshId s).2 (hostClient s f) none dpa
    (64 - dpa % 64)).1) (by rw [hgo]; exact countReport_queues _ _)
  refine ⟨_, hostDram_returns (t := (stackAccess (freshId s).2 (hostClient s f) none dpa (64 - dpa % 64)).1)
    (d := bytesAt s.dram.mem dpa (64 - dpa % 64)) (Prod.ext rfl (by rw [hgo]; rfl)) hq, ?_, hmem, ?_, ?_⟩
  all_goals rw [hframe]; rfl

theorem hostDram_uncorrectable (hbad : reportOf s.dram (burstOf dpa) = .uncorrectable) : ∃ t, hostDram s f dpa none = t ∧
    t.dram.mem = s.dram.mem ∧ t.host = respondsWith (waitsInQueue s dpa) s.fresh s.host ⟨f.fn, dpa, 3, []⟩ := by
  have hframe := stackAccess_frame (freshId s).2 (hostClient s f) none dpa (64 - dpa % 64)
  have hmem := stackAccess_none_mem (freshId s).2 (hostClient s f) dpa (64 - dpa % 64)
  have hgo := stackAccess_uncorrectable (s := (freshId s).2) (c := hostClient s f) hplat (dpa := dpa) hbad (64 - dpa % 64)
  have hq := inQueue_hostRequest (f := f) (dpa := dpa) hnew (t := (stackAccess (freshId s).2 (hostClient s f) none dpa
    (64 - dpa % 64)).1) (by rw [hgo]; exact countReport_queues _ _)
  refine ⟨_, hostDram_answers (t := (stackAccess (freshId s).2 (hostClient s f) none dpa (64 - dpa % 64)).1)
    (st := .failed 3) (Prod.ext rfl (by rw [hgo])) (by simp) hq, hmem, ?_⟩
  rw [hframe]
  rfl

end Permitted

end Responses

/-! ### The answer to a snoop (R295) -/

/-- The state in which the snoop of a burst has been answered. -/
def snoopAnswered (s : State) (burst : Nat) (inv : Bool) : State := { s with
  host.snoops := s.host.snoops.filter fun b => decide (b ≠ (burst, inv))
  host.tracked := if inv then s.host.tracked.filter fun b => decide (b ≠ burst) else s.host.tracked }

theorem foldl_snooped (burst : Nat) (inv : Bool) (l : List Waiter) (s : State) :
    l.foldl (snooped burst inv) s = (l.filter fun y => (waitsSnoop burst inv y).isSome).foldl (snooped burst inv) s := by
  rw [List.foldl_filter]
  congr
  funext t y
  cases h : waitsSnoop burst inv y <;> simp [snooped, h]

theorem snoopResponse_one {s : State} {burst : Nat} {inv : Bool} {w : Waiter}
    (hw : ((waiters s).filter fun y => (waitsSnoop burst inv y).isSome) = [w]) (hs : (burst, inv) ∈ s.host.snoops) :
    exec (.snoopResponse ⟨burst, inv⟩) s =
      .next (completeInvalidations (snooped burst inv (snoopAnswered s burst inv) w)) := by
  have hfold := foldl_snooped burst inv (waiters s) (snoopAnswered s burst inv)
  rw [hw, List.foldl_cons, List.foldl_nil] at hfold
  rw [← hfold]
  simp only [exec, execSnoopResponse, List.contains_iff_mem, hs, if_true]
  rfl

theorem snooped_goes {s : State} {w : Waiter} {dpa : Nat} (hstate : w.state = .snoop dpa) (hva : isFabric w.va = false)
    (hfree : queueFree s dpa = true) : snooped (burstOf dpa) w.write.isSome s w =
      setWaiter (stackAccess s w.client w.write dpa w.len).1 w (stackAccess s w.client w.write dpa w.len).2 := by
  have hwaits : waitsSnoop (burstOf dpa) w.write.isSome w = some dpa := by simp [waitsSnoop, hstate]
  simp [snooped, hwaits, hfree, waiterDom, hva]

/-- A burst of a copy that waited for its snoop goes on. -/
theorem snoopResponse_goes {s : State} {c : Copy} {n : Nat} {x : Burst} {w : Waiter} {dpa : Nat}
    (hfind : findCopy s c.head.id = some c) (hx : c.bursts[n]? = some x) (hreq : w.client.req = c.head.id)
    (hn : w.client.n = n) (hstate : w.state = .snoop dpa) (hva : isFabric w.va = false)
    (hw : ((waiters s).filter fun y => (waitsSnoop (burstOf dpa) w.write.isSome y).isSome) = [w])
    (hs : (burstOf dpa, w.write.isSome) ∈ s.host.snoops) (hfree : queueFree s dpa = true) {st : BurstState}
    (hst : (stackAccess (snoopAnswered s (burstOf dpa) w.write.isSome) w.client w.write dpa w.len).2 = st)
    (hkeep : c.outcome n st = st) (hgood : st ≠ .failed 3) :
    ∃ t, exec (.snoopResponse ⟨burstOf dpa, w.write.isSome⟩) s = .next t ∧
      (burstOf dpa, w.write.isSome) ∉ t.host.snoops ∧
      findCopy t c.head.id = some { c with bursts := c.bursts.set n { x with state := st } } ∧ t.sram = s.sram ∧
      t.host = (snoopAnswered s (burstOf dpa) w.write.isSome).host ∧
      t.dram = (stackAccess (snoopAnswered s (burstOf dpa) w.write.isSome) w.client w.write dpa w.len).1.dram := by
  have hframe := stackAccess_frame (snoopAnswered s (burstOf dpa) w.write.isSome) w.client w.write dpa w.len
  rw [snoopResponse_one hw hs, snooped_goes (s := snoopAnswered s (burstOf dpa) w.write.isSome) hstate hva hfree, hst]
  generalize stackAccess (snoopAnswered s (burstOf dpa) w.write.isSome) w.client w.write dpa w.len = r at hframe
  have hcopy : findCopy r.1 c.head.id = some c := by rw [hframe]; exact hfind
  have hset : setWaiter r.1 w st = copyOutcome c n (r.1, st) := by simp only [setWaiter, hreq, hcopy, hn]
  have hhost : r.1.host = (snoopAnswered s (burstOf dpa) w.write.isSome).host := by rw [hframe]
  rw [hset]
  refine ⟨_, rfl, ?_, findCopy_copyOutcome hcopy hx hkeep hgood, ?_, ?_, ?_⟩
  all_goals rw [copyOutcome_goes hkeep hgood]
  · change _ ∉ r.1.host.snoops
    rw [hhost]
    simp [snoopAnswered]
  · change r.1.sram = s.sram
    rw [hframe]
    rfl
  · exact hhost
  · rfl

/-! ### Host launches (R296) -/

/-- A launch is refused a task whose declaration is not there (log entry 77). -/
theorem decl_of_refusal {s : State} {q : Partition} {d : Option TaskDecl} {l : Launch} {ok leader : Bool} {depth : Nat}
    {t : Task} (h : refusal s q d l ok leader depth t = 0) : some (d.getD default) = d := by
  cases d with
  | some d => rfl
  | none =>
    have hok : l.ok none = false := rfl
    simp only [refusal, hok] at h
    repeat' split at h
    all_goals simp_all

/-- Where no older record is due, the newest alone may be released. -/
theorem releaseReady_newest {s : State} {l : List Task} {t : Task} (ht : s.tasks = l ++ [t])
    (hold : ∀ k ∈ l, k.state = .waiting → k.counter ≠ 0) :
    ∃ k, (releaseReady s).tasks = l ++ [k] ∧ (k = t ∨ k = { t with state := .released, releasedAt := s.now }) := by
  have hkept : (l.map fun k => if (decide (k.state = .waiting) && decide (k.counter = 0)) = true then
      { k with state := .released, releasedAt := s.now } else k) = l := by
    refine (List.map_congr_left fun k hk => if_neg ?_).trans (List.map_id _)
    simpa using hold k hk
  unfold releaseReady updWhere
  dsimp only
  rw [ht, List.map_append, hkept]
  refine ⟨_, rfl, ?_⟩
  beta_reduce
  split
  · exact .inr rfl
  · exact .inl rfl

/-- The records once a new one has been created. -/
theorem createRecord_tasks {s : State} {t : Task} (hold : ∀ k ∈ s.tasks, k.state = .waiting → k.counter ≠ 0) :
    ∃ k, (createRecord s t).tasks = s.tasks ++ [k] ∧ k.uid = t.uid ∧ k.fn = t.fn ∧ k.part = t.part ∧
      k.handle = (findPart s t.part).elim 0 (·.lastHandle) + 1 ∧ k.parent = t.parent ∧ k.depth = t.depth ∧
      k.object = t.object ∧ k.decl = t.decl ∧ k.nparty = t.nparty := by
  unfold createRecord
  obtain ⟨k, hk, rfl | rfl⟩ := releaseReady_newest (s := { s with
    tasks := s.tasks ++ [_], parts := _ }) rfl hold
  all_goals exact ⟨_, hk, rfl, rfl, rfl, rfl, rfl, rfl, rfl, rfl, rfl⟩

theorem findTask_fresh {s t : State} {k : Task} (ht : t.tasks = s.tasks ++ [k]) (hold : ∀ y ∈ s.tasks, y.uid < k.uid) :
    findTask t k.uid = some k := by
  have hnone : s.tasks.find? (fun y => decide (y.uid = k.uid)) = none := by
    simpa using fun y hy => Nat.ne_of_lt (hold y hy)
  simp [findTask, ht, hnone]

theorem findTask_others {s t : State} {k : Task} (ht : t.tasks = s.tasks ++ [k]) {id : Nat} (hid : id ≠ k.uid) :
    findTask t id = findTask s id := by
  simp [findTask, ht, hid.symm]

/-! ### Completion entries (R296, R297) -/

section Entry

variable (f : HostFn) (handle code : Nat)

@[simp] theorem cqEntry_length : (cqEntry f (handle, code)).length = 16 := by simp [cqEntry]

theorem cqEntry_handle {k : Nat} (hk : k < 4) : (cqEntry f (handle, code)).getD k 0 = byteAt handle k := by
  have hin : k < (bytesOfNat 4 handle).length := by simpa using hk
  rw [cqEntry, List.append_assoc, List.getD_append _ _ _ _ hin]
  simp [List.getD, bytesOfNat_getElem? hk]

theorem cqEntry_word {k : Nat} (hk : k < 4) : (cqEntry f (handle, code)).getD (4 + k) 0 =
    byteAt ((if f.phase then 2 ^ 31 else 0) + code % 256) k := by
  have hin : k < (bytesOfNat 4 ((if f.phase then 2 ^ 31 else 0) + code % 256)).length := by simpa using hk
  rw [cqEntry, List.append_assoc, List.getD_append_right _ _ _ _ (by simp), bytesOfNat_length, Nat.add_sub_cancel_left,
    List.getD_append _ _ _ _ hin]
  simp [List.getD, bytesOfNat_getElem? hk]

theorem cqEntry_tail {k : Nat} (hk : 8 ≤ k) : (cqEntry f (handle, code)).getD k 0 = 0 := by
  rw [cqEntry, List.getD_append_right _ _ _ _ (by simpa using hk)]
  rw [List.getD, List.getElem?_replicate]
  generalize k - _ = j
  split <;> rfl

end Entry

theorem byteAt_phase_low (phase : Bool) (code : Nat) :
    byteAt ((if phase then 2 ^ 31 else 0) + code % 256) 0 = BitVec.ofNat 8 code := by
  refine BitVec.eq_of_toNat_eq ?_
  rw [toNat_byteAt, BitVec.toNat_ofNat]
  cases phase
  · simp
  · simp
    omega

theorem byteAt_phase_middle (phase : Bool) (code : Nat) {k : Nat} (hk : k = 1 ∨ k = 2) :
    byteAt ((if phase then 2 ^ 31 else 0) + code % 256) k = 0 := by
  refine BitVec.eq_of_toNat_eq ?_
  rw [toNat_byteAt]
  rcases hk with rfl | rfl <;> cases phase <;> simp <;> omega

theorem byteAt_phase_high (phase : Bool) (code : Nat) :
    byteAt ((if phase then 2 ^ 31 else 0) + code % 256) 3 = if phase then 0x80 else 0 := by
  refine BitVec.eq_of_toNat_eq ?_
  rw [toNat_byteAt]
  cases phase <;> simp <;> omega

/-! ### The clauses of the obligation -/

section Launches

variable {s : State} {f : HostFn} {q : Partition} (hf : findFn s f.fn = some f) (hen : f.sqEn = true)
  (hne : f.sqHead ≠ f.sqTail) (hr : f.part ∉ s.host.resetting) (hq : findPart s f.part = some q)
include hf hen hne hr hq

/-- The sixteen words of the next submission entry. -/
def entryWords (s : State) (f : HostFn) : List Nat := wordsOf (bytesAt s.host.mem (f.sqBase.toNat + 64 * f.sqHead) 64)

/-- The object that an entry names. -/
def entryObject (ws : List Nat) : Nat := ws.getD 0 0 + 2 ^ 32 * ws.getD 1 0

/-- The declaration that an entry names. -/
def entryDecl (s : State) (f : HostFn) (ws : List Nat) : Option TaskDecl :=
  declOf (hostObject s f (entryObject ws)) (launchOf ((ws.drop 2).take 8))

/-- The record that an entry asks for. -/
def entryTask (s : State) (f : HostFn) (ws : List Nat) : Task :=
  newTask s.fresh f.part 0 (entryObject ws) ((entryDecl s f ws).getD default) (launchOf ((ws.drop 2).take 8))
    (launchOf ((ws.drop 2).take 8)).cls 1 none (some f.fn) none

/-- Why an entry is refused, or 0. -/
def entryRefusal (s : State) (f : HostFn) (q : Partition) (ws : List Nat) : Nat :=
  refusal s q (entryDecl s f ws) (launchOf ((ws.drop 2).take 8)) (hostFieldsOk ws (launchOf ((ws.drop 2).take 8))) true 1
    (entryTask s f ws)

/-- A function whose next submission entry has been read. -/
def entryRead (f : HostFn) : HostFn := { f with sqHead := (f.sqHead + 1) % 2 ^ f.sqN }

theorem hostLaunch_eq : exec (.hostLaunch f.fn) s = .next (
    if entryRefusal s f q (entryWords s f) ≠ 0 then
      modFn (modFn s f.fn entryRead) f.fn fun f' =>
        { f' with waiting := f'.waiting ++ [(0, 0x40 + entryRefusal s f q (entryWords s f))] }
    else createRecord (freshId (modFn s f.fn entryRead)).2 (entryTask s f (entryWords s f))) := by
  have hready : sqReady s f = true := by simp [sqReady, hen, hne, isResetting, hr]
  have hpart : (findPart s f.part).getD default = q := by rw [hq]; rfl
  change execHostLaunch f.fn s = _
  unfold execHostLaunch
  rw [hf]
  dsimp only
  rw [if_pos hready]
  unfold hostLaunch
  dsimp only
  rw [hpart]
  rfl

theorem hostLaunch_refused (hwhy : entryRefusal s f q (entryWords s f) ≠ 0) :
    ∃ t, exec (.hostLaunch f.fn) s = .next t ∧
      findFn t f.fn = some { entryRead f with waiting := f.waiting ++ [(0, 0x40 + entryRefusal s f q (entryWords s f))] } ∧
      t = { s with host := { s.host with fns := t.host.fns } } := by
  refine ⟨_, (hostLaunch_eq hf hen hne hr hq).trans (congrArg _ (if_pos hwhy)), ?_, rfl⟩
  have hread : findFn (modFn s f.fn entryRead) f.fn = some (entryRead f) :=
    findFn_modFn_same (g := entryRead) (fun _ => rfl) hf
  exact findFn_modFn_same (g := fun f' => { f' with
    waiting := f'.waiting ++ [(0, 0x40 + entryRefusal s f q (entryWords s f))] }) (fun _ => rfl) hread

theorem hostLaunch_creates (hwhy : entryRefusal s f q (entryWords s f) = 0)
    (hold : ∀ k ∈ s.tasks, k.uid < s.fresh ∧ (k.state = .waiting → k.counter ≠ 0)) :
    ∃ t k, exec (.hostLaunch f.fn) s = .next t ∧ findFn t f.fn = some (entryRead f) ∧ findTask t s.fresh = some k ∧
      k.fn = some f.fn ∧ k.part = f.part ∧ k.handle = q.lastHandle + 1 ∧ k.parent = none ∧ k.depth = 1 ∧
      k.object = entryObject (entryWords s f) ∧ some k.decl = entryDecl s f (entryWords s f) ∧
      k.nparty = (launchOf (((entryWords s f).drop 2).take 8)).nparty ∧
      (∀ id, id ≠ s.fresh → findTask t id = findTask s id) ∧ t.sram = s.sram := by
  have hpart : findPart (freshId (modFn s f.fn entryRead)).2 f.part = some q := hq
  obtain ⟨k, ht, huid, hfn, hkp, hhandle, hparent, hdepth, hobject, hdecl, hnparty⟩ :=
    createRecord_tasks (s := (freshId (modFn s f.fn entryRead)).2) (t := entryTask s f (entryWords s f))
      fun k hk => (hold k hk).2
  have huid : k.uid = s.fresh := huid
  refine ⟨_, k, (hostLaunch_eq hf hen hne hr hq).trans (congrArg _ (if_neg (not_not.mpr hwhy))), ?_, ?_, hfn, hkp, ?_,
    hparent, hdepth, hobject, ?_, hnparty, ?_, rfl⟩
  · exact findFn_modFn_same (g := entryRead) (fun _ => rfl) hf
  · rw [← huid]
    exact findTask_fresh ht fun y hy => huid ▸ (hold y hy).1
  · rw [hhandle]
    change (findPart (freshId (modFn s f.fn entryRead)).2 f.part).elim 0 (·.lastHandle) + 1 = _
    rw [hpart]
    rfl
  · rw [hdecl]
    exact decl_of_refusal hwhy
  · intro id hid
    exact findTask_others (s := s) ht (huid ▸ hid)

end Launches

/-- The host's memory and interrupts once a completion entry has been written. -/
def entryWritten (s : State) (f : HostFn) (x : Nat × Nat) : State := { s with
  host.mem := cellSetAll s.host.mem (addressed (f.cqBase.toNat + 16 * f.cqTail) (cqEntry f x))
  host.msix := if f.cqIen then s.host.msix ++ [(f.fn, f.cqVector)] else s.host.msix }

/-- A function whose oldest completion entry has been written, where the ring then ends at `tail`. -/
def entryTaken (tail : Nat) (f : HostFn) : HostFn :=
  { f with waiting := f.waiting.drop 1, cqTail := tail, phase := if tail = 0 then !f.phase else f.phase }

theorem entryWritten_sram (s : State) (f : HostFn) (x : Nat × Nat) : (entryWritten s f x).sram = s.sram := by
  simp only [entryWritten]

theorem entryWritten_overwrites {s : State} (hwf : Memory.wf s.host.mem = true) (f : HostFn) (x : Nat × Nat) :
    Overwrites s.host.mem (entryWritten s f x).host.mem (f.cqBase.toNat + 16 * f.cqTail) (cqEntry f x) := by
  have hmem : (entryWritten s f x).host.mem =
      cellSetAll s.host.mem (addressed (f.cqBase.toNat + 16 * f.cqTail) (cqEntry f x)) := by simp only [entryWritten]
  rw [hmem]
  exact overwrites_cellSetAll hwf _ _

theorem entryWritten_msix (s : State) (f : HostFn) (x : Nat × Nat) :
    (entryWritten s f x).host.msix = s.host.msix ++ if f.cqIen then [(f.fn, f.cqVector)] else [] := by
  unfold entryWritten
  dsimp only
  split <;> simp

theorem findFn_entryWritten (s : State) (f : HostFn) (x : Nat × Nat) (k : Nat) :
    findFn (entryWritten s f x) k = findFn s k := by
  unfold entryWritten findFn
  rfl

theorem writeCompletion_eq (s : State) (f : HostFn) (x : Nat × Nat) :
    writeCompletion s f x = modFn (entryWritten s f x) f.fn (entryTaken ((f.cqTail + 1) % 2 ^ f.cqM)) := by
  unfold writeCompletion entryWritten entryTaken
  rfl

/-- The oldest completion entry is written, and its function moves on. -/
theorem completionEntryWrite_writes {s : State} {f : HostFn} (hf : findFn s f.fn = some f) {x : Nat × Nat}
    (hx : f.waiting.head? = some x) (hen : f.cqEn = true) (hr : f.part ∉ s.host.resetting)
    (hroom : (f.cqTail + 1) % 2 ^ f.cqM ≠ f.cqHead) :
    exec (.completionEntryWrite f.fn) s =
      .next (modFn (entryWritten s f x) f.fn (entryTaken ((f.cqTail + 1) % 2 ^ f.cqM))) := by
  have hcq : cqRoom s f = true := by simp [cqRoom, hen, hroom, isResetting, hr]
  change execCompletionEntryWrite f.fn s = _
  unfold execCompletionEntryWrite
  rw [hf]
  dsimp only
  rw [hx]
  dsimp only
  rw [if_pos hcq, writeCompletion_eq]

/-- Settles O58, clause by clause: a request of the host, the answer to a snoop, the ring registers, a launch, and a
completion entry. -/
theorem hostEventsFollowTheirRules : Obligations.HostEventsFollowTheirRules := by
  intro s f v dpa bs c n x w handle code q hf hpa sets on size queued responds
  have hsets : ∀ (i : Instr) (f' : HostFn), SetsFn s (exec i s) f f' → sets i f' := fun _ _ h => h
  refine ⟨?_, ?_, ?_, ?_, ?_, ?_, ?_, ?_, ?_, ?_, ?_⟩
  · intro hd hfree hlen hwf hnew
    have hwrite := hostMemoryAccess_eq hf hd hfree (data := some bs) hlen
    have hread := hostMemoryAccess_eq hf hd hfree (data := none) (Nat.le_of_lt (Nat.mod_lt dpa (by omega)))
    refine ⟨fun hplat => ?_, fun hplat => ?_, fun hplat hgood => ?_, fun hplat hbad => ?_⟩
    · obtain ⟨t, rfl, hhost, hsram, htasks, hover⟩ := hostDram_write hnew hplat bs
      refine ⟨_, hwrite, fun k hk => ?_, fun a ha => (hover hwf).outside ha, hsram, htasks, hhost⟩
      rw [(hover hwf).inside hk, List.getD_eq_getElem _ _ hk]
    · exact ⟨_, hwrite, by rw [hostDram_refused hnew hplat]⟩
    · obtain ⟨t, rfl, hhost, hmem, hsram, htasks⟩ := hostDram_read hnew hplat hgood
      exact ⟨_, hread, hhost ▸ mem_tracked_tracks _ _, by rw [hhost]; rfl, hmem, hsram, htasks⟩
    · obtain ⟨t, rfl, hmem, hhost⟩ := hostDram_uncorrectable hnew hplat hbad
      exact ⟨_, hread, hmem, hhost⟩
  · intro hfind hx hreq hn hstate hva hw hs hfree hplat hgood goes
    refine ⟨fun hnone => ?_, fun hsome hkeep hwf => ?_⟩
    · have hgo := stackAccess_read (s := snoopAnswered s (burstOf dpa) w.write.isSome) (c := w.client) hplat (dpa := dpa)
        (fun h => by cases hgood.symm.trans h) w.len
      have hmem := stackAccess_none_mem (snoopAnswered s (burstOf dpa) w.write.isSome) w.client dpa w.len
      rw [← hnone] at hgo hmem
      obtain ⟨t, hexec, hgone, hcopy, hsram, hhost, hdram⟩ := snoopResponse_goes hfind hx hreq hn hstate hva hw hs hfree
        (st := .got (bytesAt s.dram.mem dpa w.len)) (by rw [hgo]; rfl) (outcome_other _ _ (by simp)) (by simp)
      refine ⟨t, hexec, hgone, hcopy, hsram, ?_, ?_⟩
      · rw [hdram, hmem]
        rfl
      · rw [hhost, hnone]
        rfl
    · have hgo := stackAccess_write (s := snoopAnswered s (burstOf dpa) w.write.isSome) (c := w.client) hplat (dpa := dpa)
        bs w.len
      have hover := stackAccess_overwrites (s := snoopAnswered s (burstOf dpa) w.write.isSome) (c := w.client) hplat
        (dpa := dpa) hwf bs w.len
      rw [← hsome] at hgo hover
      obtain ⟨t, hexec, hgone, hcopy, hsram, hhost, hdram⟩ := snoopResponse_goes hfind hx hreq hn hstate hva hw hs hfree
        (st := .accepted) (by rw [hgo]) (outcome_sound hkeep _) (by simp)
      rw [← hdram] at hover
      refine ⟨t, hexec, hgone, hcopy, hsram, fun k hk => ?_, fun a ha => hover.outside ha, fun y => ?_⟩
      · rw [hover.inside hk, List.getD_eq_getElem _ _ hk]
      · rw [hhost, hsome]
        simp [snoopAnswered]
  · intro hr
    exact ⟨congrArg _ (onDoorbell_resetting hf hr _), congrArg _ (onDoorbell_resetting hf hr _)⟩
  · intro hr
    exact ⟨hsets _ _ (sqtail_sets hf hr v), hsets _ _ (cqhead_sets hf hr v)⟩
  · exact hsets _ _ (sqcfg_sets hf v)
  · intro hen
    exact hsets _ _ (cqcfg_sets hf v (if_pos hen))
  · intro hen hon hlow hhigh
    exact hsets _ _ (cqcfg_sets hf v (by rw [hen, if_neg Bool.false_ne_true, if_pos ⟨hon, hlow, hhigh⟩]))
  · intro hen hbad
    exact hsets _ _ (cqcfg_sets hf v (by rw [hen, if_neg Bool.false_ne_true, if_neg hbad]))
  · intro low high
    refine ⟨hsets _ _ (registerWrite_sets hf _ v ?_), hsets _ _ (registerWrite_sets hf _ v ?_),
      hsets _ _ (registerWrite_sets hf _ v ?_), hsets _ _ (registerWrite_sets hf _ v ?_)⟩
    · cases f.sqEn <;> simp [low, setBase_low]
    · cases f.sqEn <;> simp [high, setBase_high]
    · cases f.cqEn <;> simp [low, setBase_low]
    · cases f.cqEn <;> simp [high, setBase_high]
  · intro hen hne hr hq
    exact ⟨hostLaunch_refused hf hen hne hr hq, hostLaunch_creates hf hen hne hr hq⟩
  · intro hx hen hr hroom hwf a tail
    have hexec := completionEntryWrite_writes hf hx hen hr hroom
    have hfn := findFn_modFn_same (g := entryTaken tail) (fun _ => rfl)
      ((findFn_entryWritten s f (handle, code) f.fn).trans hf)
    have hover := entryWritten_overwrites hwf f (handle, code)
    have hmsix := entryWritten_msix s f (handle, code)
    have hsram := entryWritten_sram s f (handle, code)
    generalize entryWritten s f (handle, code) = t at hexec hfn hover hmsix hsram
    have hlen := cqEntry_length f handle code
    have hcell : ∀ {k}, k < 16 → cellGet t.host.mem (a + k) = (cqEntry f (handle, code)).getD k 0 :=
      fun hk => hover.inside (by omega)
    refine ⟨_, hexec, ?_, fun k hk => ?_, ?_, ?_, fun k hk => ?_, fun b hb => hover.outside (by omega), hmsix, hsram⟩
    · rw [hfn, entryTaken, List.drop_one]
    · rw [modFn_hostMem, hcell (by omega), cqEntry_handle f handle code hk]
    · rw [modFn_hostMem, hcell (by omega), cqEntry_word f handle code (k := 0) (by omega), byteAt_phase_low]
    · rw [modFn_hostMem, hcell (by omega), cqEntry_word f handle code (k := 3) (by omega), byteAt_phase_high]
    · rcases hk with rfl | rfl | ⟨hlow, hhigh⟩
      · rw [modFn_hostMem, hcell (by omega), cqEntry_word f handle code (k := 1) (by omega), byteAt_phase_middle _ _ (.inl rfl)]
      · rw [modFn_hostMem, hcell (by omega), cqEntry_word f handle code (k := 2) (by omega), byteAt_phase_middle _ _ (.inr rfl)]
      · rw [modFn_hostMem, hcell (by omega), cqEntry_tail f handle code hlow]

end Sys2Proof.HostLink
end

section
/-!
SUPPORT. Where the bytes of tables stand, and how their replicas are placed (R61, R67, R73 to R75): addresses, counts of
activations, and the writes of a placement.
-/

namespace Sys2Proof.TableRows

open Sys2Proof Sys2Proof.Machine

/-! ### Counts by key -/

theorem assoc_append {α β : Type} [DecidableEq α] {l : List (α × β)} {k : α} (h : ∀ x ∈ l, x.1 ≠ k) (l' : List (α × β))
    (d : β) : assoc (l ++ l') k d = assoc l' k d := by
  have hnone : l.find? (fun x => decide (x.1 = k)) = none := List.find?_eq_none.mpr fun x hx => by simpa using h x hx
  simp [assoc, List.find?_append, hnone]

theorem assoc_replace {α β : Type} [DecidableEq α] (l : List (α × β)) (k : α) (v : β) (j : α) (d : β) :
    assoc (l.map fun x => if x.1 = k then (k, v) else x) j d =
      if j = k then (if l.any fun x => decide (x.1 = k) then v else d) else assoc l j d := by
  induction l with
  | nil => split <;> rfl
  | cons x l ih =>
    obtain ⟨a, b⟩ := x
    rw [List.map_cons]
    by_cases hjk : j = k
    · subst hjk
      by_cases ha : a = j
      · simp [ha, assoc_cons]
      · rw [if_pos rfl] at ih ⊢
        simp only [ha, if_false, assoc_cons, ih, List.any_cons, decide_false, Bool.false_or]
    · rw [if_neg hjk] at ih ⊢
      by_cases ha : a = k
      · have hka : ¬ k = j := fun h => hjk h.symm
        have haj : ¬ a = j := fun h => hjk (h.symm.trans ha)
        simp only [ha, if_true, assoc_cons, ih, hka, if_false]
      · simp only [ha, if_false, assoc_cons, ih]

theorem assoc_setAssoc {α β : Type} [DecidableEq α] (l : List (α × β)) (k : α) (v : β) (j : α) (d : β) :
    assoc (setAssoc l k v) j d = if j = k then v else assoc l j d := by
  unfold setAssoc
  split
  case isTrue hany =>
    rw [assoc_replace, hany]
    simp
  case isFalse hnone =>
    have habsent : ∀ x ∈ l, x.1 ≠ k := fun x hx h => hnone (List.any_eq_true.mpr ⟨x, hx, by simpa using h⟩)
    by_cases hjk : j = k
    · subst hjk
      rw [assoc_append habsent, assoc_cons]
      simp
    · rw [if_neg hjk]
      have hkj : ¬ k = j := fun h => hjk h.symm
      simp [assoc, List.find?_append, hkj]

theorem assoc_bump {α : Type} [DecidableEq α] (l : List (α × Nat)) (k j : α) :
    assoc (bump l k) j 0 = if j = k then assoc l j 0 + 1 else assoc l j 0 := by
  rw [bump, assoc_setAssoc]
  split
  case isTrue h => rw [h]
  case isFalse => rfl

/-- Counting distinct keys once each. -/
theorem assoc_foldl_bump {α : Type} [DecidableEq α] {ks : List α} (hn : ks.Nodup) (l : List (α × Nat)) (j : α) :
    assoc (ks.foldl bump l) j 0 = if j ∈ ks then assoc l j 0 + 1 else assoc l j 0 := by
  induction ks generalizing l with
  | nil => simp
  | cons k ks ih =>
    obtain ⟨hk, hn⟩ := List.nodup_cons.mp hn
    rw [List.foldl_cons, ih hn, assoc_bump]
    by_cases hj : j = k
    · subst hj
      simp [hk]
    · simp [hj]

/-! ### Addresses (R61, R73, R74) -/

/-- The last digit of a number in mixed radix, and what stands before it. -/
theorem radix_digit {a hi n lo : Nat} (h : a = hi * n + lo) (hlo : lo < n) : a / n = hi ∧ a % n = lo := by
  subst h
  rw [Nat.mul_comm, Nat.mul_add_div (by omega), Nat.mul_add_mod, Nat.div_eq_of_lt hlo, Nat.mod_eq_of_lt hlo]
  exact ⟨rfl, rfl⟩

/-- The fields of a device-physical address (R61): it is a number in mixed radix. -/
theorem dpaOf_fields {stack quad pch bank col : Nat} (row : Nat) (hstack : stack < 8) (hquad : quad < 4) (hpch : pch < 16)
    (hbank : bank < 16) (hcol : col < 1024) {a : Nat} (ha : dpaOf stack quad pch bank row col = a) :
    a / 2 ^ 23 = row ∧ a / 2 ^ 21 % 4 * 256 + a % 256 = col ∧ a / 2 ^ 8 % 8 = stack ∧ a / 2 ^ 11 % 4 = quad ∧
      a / 2 ^ 13 % 16 = pch ∧ a / 2 ^ 17 % 4 = bank / 4 ∧ a / 2 ^ 19 % 4 = bank % 4 := by
  have hradix : a = ((((((row * 4 + col / 256) * 4 + bank % 4) * 4 + bank / 4) * 16 + pch) * 4 + quad) * 8 + stack) * 256 +
      col % 256 := by
    rw [← ha, dpaOf]
    omega
  obtain ⟨h8, hlow⟩ := radix_digit hradix (Nat.mod_lt _ (by omega))
  obtain ⟨h11, hs⟩ := radix_digit h8 hstack
  obtain ⟨h13, hq⟩ := radix_digit h11 hquad
  obtain ⟨h17, hp⟩ := radix_digit h13 hpch
  obtain ⟨h19, hg⟩ := radix_digit h17 (by omega)
  obtain ⟨h21, hk⟩ := radix_digit h19 (by omega)
  obtain ⟨h23, hc⟩ := radix_digit h21 (by omega)
  simp only [Nat.div_div_eq_div_mul, Nat.reduceMul] at hs hq hp hg hk hc h23
  exact ⟨h23, by rw [hlow, show 2 ^ 21 = 2097152 from rfl, hc]; omega, hs, hq, hp, hg, hk⟩

section Address

variable {core b tbl o : Nat}

/-- The fields of the address of a byte of a table. -/
theorem tableDpa_fields (hcore : core < 512) (htbl : tbl < 16) {a : Nat} (ha : tableDpa core b tbl o = a) :
    a / 2 ^ 23 = 65408 + 16 * b + o / 1024 ∧ a / 2 ^ 21 % 4 * 256 + a % 256 = o % 1024 ∧
      a / 2 ^ 8 % 8 = (core / 64 + 8 - 2 * (core % 64 / 16)) % 8 ∧ a / 2 ^ 11 % 4 = core % 64 / 16 ∧
      a / 2 ^ 13 % 16 = core % 16 ∧ a / 2 ^ 17 % 4 = tbl / 4 ∧ a / 2 ^ 19 % 4 = tbl % 4 := by
  have hstack : (tractOf core + 16 - 2 * (core % 64 / 16)) % 8 = (core / 64 + 8 - 2 * (core % 64 / 16)) % 8 := by
    unfold tractOf
    omega
  have hpch : core % 64 % 16 = core % 16 := by omega
  unfold tableDpa at ha
  dsimp only at ha
  rw [hstack, hpch] at ha
  exact dpaOf_fields _ (by omega) (by omega) (by omega) htbl (by omega) ha

theorem bankOf_tableDpa (hcore : core < 512) (htbl : tbl < 16) : bankOf (tableDpa core b tbl o) =
    (((core / 64 + 8 - 2 * (core % 64 / 16)) % 8 * 4 + core % 64 / 16) * 16 + core % 16) * 16 + tbl := by
  obtain ⟨_, _, hstack, hquad, hpch, hgroup, hbank⟩ := tableDpa_fields (b := b) (o := o) hcore htbl rfl
  rw [bankOf, pchOf, hstack, hquad, hpch, hgroup, hbank, Nat.add_assoc _ (tbl / 4 * 4), Nat.div_add_mod']

variable {core' tbl' o' : Nat}

/-- Two tables of replicas of different cores, or of different numbers, lie in different banks. -/
theorem tableBank_inj (hcore : core < 512) (htbl : tbl < 16) (hcore' : core' < 512) (htbl' : tbl' < 16)
    (h : bankOf (tableDpa core b tbl o) = bankOf (tableDpa core' b tbl' o')) : core = core' ∧ tbl = tbl' := by
  rw [bankOf_tableDpa hcore htbl, bankOf_tableDpa hcore' htbl'] at h
  obtain ⟨hpch, htbl⟩ := radix_digit h htbl'
  rw [(radix_digit rfl ‹tbl < 16›).1] at hpch
  rw [(radix_digit rfl ‹tbl < 16›).2] at htbl
  obtain ⟨hquad, hch⟩ := radix_digit hpch (Nat.mod_lt core' (by omega))
  rw [(radix_digit rfl (Nat.mod_lt core (by omega))).1] at hquad
  rw [(radix_digit rfl (Nat.mod_lt core (by omega))).2] at hch
  exact ⟨by omega, htbl⟩

/-- One block holds each byte of each table of each core once. -/
theorem tableDpa_inj (hcore : core < 512) (htbl : tbl < 16) (hcore' : core' < 512) (htbl' : tbl' < 16) (h : tableDpa core b tbl o = tableDpa core' b tbl' o') :
    core = core' ∧ tbl = tbl' ∧ o = o' := by
  obtain ⟨hc, ht⟩ := tableBank_inj hcore htbl hcore' htbl' (congrArg bankOf h)
  obtain ⟨hrow, hcol, _⟩ := tableDpa_fields hcore htbl h
  obtain ⟨hrow', hcol', _⟩ := tableDpa_fields (b := b) (o := o') hcore' htbl' rfl
  have hdiv : o / 1024 = o' / 1024 := Nat.add_left_cancel (hrow.symm.trans hrow')
  have hmod : o % 1024 = o' % 1024 := hcol.symm.trans hcol'
  rw [← Nat.div_add_mod o 1024, hdiv, hmod, Nat.div_add_mod]
  exact ⟨hc, ht, rfl⟩

end Address

/-! ### Placing replicas (R67, R73 to R75) -/

/-- One table in the replica of one core: the core, the table's number and its bytes. -/
structure Placing where
  core : Nat
  tbl : Nat
  bytes : List Byte

/-- The rows that a placement activates. -/
def Placing.rows (b : Nat) (p : Placing) : List (Nat × Nat) :=
  (List.range ((p.bytes.length + 1023) / 1024)).map fun r => (tableBank p.core b p.tbl, firstTableRow + 16 * b + r)

/-- Place one table in the replica of one core. -/
def place (now b : Nat) (d : Dram) (p : Placing) : Dram := placeReplica now b p.tbl p.bytes d p.core

theorem activateTableRow_other (now : Nat) (d : Dram) (bank row : Nat) :
    (activateTableRow now d bank row).mem = d.mem ∧ (activateTableRow now d bank row).tableRows = d.tableRows := by
  unfold activateTableRow
  dsimp only
  split <;> exact ⟨rfl, rfl⟩

theorem activateTableRow_rowActs {d : Dram} {bank row : Nat} (h : assoc d.rowActs (bank, row) 0 < 2048) (now : Nat) :
    (activateTableRow now d bank row).rowActs = bump d.rowActs (bank, row) := by
  unfold activateTableRow
  rw [if_neg (by omega)]

theorem foldl_activate_other (now : Nat) (ks : List (Nat × Nat)) (d : Dram) :
    (ks.foldl (fun d k => activateTableRow now d k.1 k.2) d).mem = d.mem ∧
      (ks.foldl (fun d k => activateTableRow now d k.1 k.2) d).tableRows = d.tableRows := by
  induction ks generalizing d with
  | nil => exact ⟨rfl, rfl⟩
  | cons k ks ih =>
    obtain ⟨hmem, hrows⟩ := activateTableRow_other now d k.1 k.2
    obtain ⟨hmem', hrows'⟩ := ih (activateTableRow now d k.1 k.2)
    exact ⟨hmem'.trans hmem, hrows'.trans hrows⟩

/-- Distinct rows below their bound are activated once each, without a targeted refresh (R67). -/
theorem foldl_activate_rowActs {ks : List (Nat × Nat)} (hn : ks.Nodup) (now : Nat) {d : Dram}
    (h : ∀ k ∈ ks, assoc d.rowActs k 0 < 2048) :
    (ks.foldl (fun d k => activateTableRow now d k.1 k.2) d).rowActs = ks.foldl bump d.rowActs := by
  induction ks generalizing d with
  | nil => rfl
  | cons k ks ih =>
    obtain ⟨hk, hn⟩ := List.nodup_cons.mp hn
    have hone := activateTableRow_rowActs (d := d) (bank := k.1) (row := k.2) (h k List.mem_cons_self) now
    rw [List.foldl_cons, ih hn, hone, List.foldl_cons]
    intro j hj
    rw [hone, assoc_bump, if_neg (by rintro rfl; exact hk hj)]
    exact h j (List.mem_cons_of_mem k hj)

theorem place_eq (now b : Nat) (d : Dram) (p : Placing) : place now b d p =
    (p.rows b).foldl (fun d k => activateTableRow now d k.1 k.2)
      { d with tableRows := cellSetAll d.tableRows (p.bytes.mapIdx fun o v => (tableDpa p.core b p.tbl o, v)) } := by
  rw [Placing.rows, List.foldl_map]
  rfl

theorem place_mem (now b : Nat) (d : Dram) (p : Placing) : (place now b d p).mem = d.mem := by
  rw [place_eq, (foldl_activate_other now _ _).1]

theorem place_tableRows (now b : Nat) (d : Dram) (p : Placing) : (place now b d p).tableRows =
    cellSetAll d.tableRows (p.bytes.mapIdx fun o v => (tableDpa p.core b p.tbl o, v)) := by
  rw [place_eq, (foldl_activate_other now _ _).2]

theorem foldl_place_mem (now b : Nat) (ps : List Placing) (d : Dram) : (ps.foldl (place now b) d).mem = d.mem := by
  induction ps generalizing d with
  | nil => rfl
  | cons p ps ih => rw [List.foldl_cons, ih, place_mem]

/-- Placements that activate distinct rows below their bound count each once. -/
theorem foldl_place_rowActs (now b : Nat) {ps : List Placing} (hn : (ps.flatMap (Placing.rows b)).Nodup) {d : Dram}
    (h : ∀ k, assoc d.rowActs k 0 < 2048 ∨ k ∉ ps.flatMap (Placing.rows b)) :
    (ps.foldl (place now b) d).rowActs = (ps.flatMap (Placing.rows b)).foldl bump d.rowActs := by
  induction ps generalizing d with
  | nil => rfl
  | cons p ps ih =>
    rw [List.flatMap_cons] at hn h ⊢
    obtain ⟨hp, hps, hapart⟩ := List.nodup_append.mp hn
    have hone : (place now b d p).rowActs = (p.rows b).foldl bump d.rowActs := by
      rw [place_eq, foldl_activate_rowActs hp now]
      exact fun k hk => (h k).resolve_right fun hno => hno (List.mem_append_left _ hk)
    rw [List.foldl_cons, ih hps, hone, List.foldl_append]
    intro k
    rw [hone, assoc_foldl_bump hp]
    by_cases hin : k ∈ p.rows b
    · exact .inr fun hlater => hapart k hin k hlater rfl
    · rw [if_neg hin]
      exact (h k).imp_right fun hno hlater => hno (List.mem_append_right _ hlater)

/-! ### The bytes of placed tables -/

/-- A placement in a block: of a core and a table that exist, and no longer than a table. -/
def Placing.Fits (p : Placing) : Prop := p.core < 512 ∧ p.tbl < 16 ∧ p.bytes.length ≤ 16384

section OnePlacing

variable {b : Nat}

theorem placing_keys_nodup (b : Nat) {p : Placing} (hp : p.Fits) :
    ((p.bytes.mapIdx fun o v => (tableDpa p.core b p.tbl o, v)).map (·.1)).Nodup := by
  obtain ⟨hcore, htbl, hlen⟩ := hp
  have hkeys : (p.bytes.mapIdx fun o v => (tableDpa p.core b p.tbl o, v)).map (·.1) =
      (List.range p.bytes.length).map (tableDpa p.core b p.tbl) := by
    apply List.ext_getElem <;> simp
  rw [hkeys]
  refine List.Nodup.map_on (fun o _ o' _ h => ?_) List.nodup_range
  exact (tableDpa_inj hcore htbl hcore htbl h).2.2

theorem place_inside (now : Nat) {d : Dram} (hwf : Memory.wf d.tableRows = true) {p : Placing} (hp : p.Fits) {o : Nat}
    {v : Byte} (ho : p.bytes[o]? = some v) : cellGet (place now b d p).tableRows (tableDpa p.core b p.tbl o) = v := by
  rw [place_tableRows]
  refine cellGet_cellSetAll _ _ hwf (placing_keys_nodup b hp) (tableDpa p.core b p.tbl o, v) ?_
  obtain ⟨hlt, hv⟩ := List.getElem?_eq_some_iff.mp ho
  exact List.mem_mapIdx.mpr ⟨o, hlt, by rw [hv]⟩

theorem place_outside (now : Nat) {d : Dram} (hwf : Memory.wf d.tableRows = true) {p : Placing} {a : Nat}
    (ha : ∀ o, o < p.bytes.length → a ≠ tableDpa p.core b p.tbl o) :
    cellGet (place now b d p).tableRows a = cellGet d.tableRows a := by
  rw [place_tableRows]
  refine cellGet_cellSetAll_other _ _ hwf a fun c hc hca => ?_
  obtain ⟨o, hlt, rfl⟩ := List.mem_mapIdx.mp hc
  exact ha o hlt hca.symm

theorem place_wf (now : Nat) {d : Dram} (hwf : Memory.wf d.tableRows = true) (p : Placing) :
    Memory.wf (place now b d p).tableRows = true := by
  rw [place_tableRows]
  exact wf_cellSetAll _ _ hwf

theorem foldl_place_outside (now : Nat) {ps : List Placing} {d : Dram} (hwf : Memory.wf d.tableRows = true) {a : Nat}
    (ha : ∀ p ∈ ps, ∀ o, o < p.bytes.length → a ≠ tableDpa p.core b p.tbl o) :
    cellGet (ps.foldl (place now b) d).tableRows a = cellGet d.tableRows a := by
  induction ps generalizing d with
  | nil => rfl
  | cons p ps ih =>
    rw [List.foldl_cons, ih (place_wf now hwf p) fun q hq => ha q (List.mem_cons_of_mem p hq),
      place_outside now hwf (ha p List.mem_cons_self)]

/-- Placements of different tables or cores leave each other's bytes. -/
theorem foldl_place_inside (now : Nat) {ps : List Placing} (hps : ∀ p ∈ ps, p.Fits)
    (hn : (ps.map fun p => (p.core, p.tbl)).Nodup) {d : Dram} (hwf : Memory.wf d.tableRows = true) {p : Placing}
    (hp : p ∈ ps) {o : Nat} {v : Byte} (ho : p.bytes[o]? = some v) :
    cellGet (ps.foldl (place now b) d).tableRows (tableDpa p.core b p.tbl o) = v := by
  induction ps generalizing d with
  | nil => cases hp
  | cons q ps ih =>
    rw [List.map_cons, List.nodup_cons] at hn
    obtain ⟨hq, hn⟩ := hn
    rw [List.foldl_cons]
    rcases List.mem_cons.mp hp with rfl | hp
    · obtain ⟨hcore, htbl, hlen⟩ := hps p List.mem_cons_self
      obtain ⟨hlt, _⟩ := List.getElem?_eq_some_iff.mp ho
      rw [foldl_place_outside now (place_wf now hwf p)]
      · exact place_inside now hwf ⟨hcore, htbl, hlen⟩ ho
      · intro r hr o' ho' heq
        obtain ⟨hcore', htbl', hlen'⟩ := hps r (List.mem_cons_of_mem p hr)
        obtain ⟨hc, ht, _⟩ := tableDpa_inj hcore htbl hcore' htbl' heq
        exact hq (List.mem_map.mpr ⟨r, hr, by rw [hc, ht]⟩)
    · exact ih (fun r hr => hps r (List.mem_cons_of_mem q hr)) hn (place_wf now hwf q) hp

end OnePlacing

/-- Placements of different tables or cores activate different rows. -/
theorem rows_nodup (b : Nat) {ps : List Placing} (hps : ∀ p ∈ ps, p.Fits) (hn : (ps.map fun p => (p.core, p.tbl)).Nodup) :
    (ps.flatMap (Placing.rows b)).Nodup := by
  rw [List.nodup_flatMap]
  refine ⟨fun p _ => ?_, ?_⟩
  · exact List.nodup_range.map fun x y h => by simpa using h
  · have hpairs := List.pairwise_map.mp hn
    refine hpairs.imp_of_mem fun {p q} hp hq hne k hk hk' => hne ?_
    obtain ⟨r, _, rfl⟩ := List.mem_map.mp hk
    obtain ⟨r', _, heq⟩ := List.mem_map.mp hk'
    obtain ⟨hcore, htbl, _⟩ := hps p hp
    obtain ⟨hcore', htbl', _⟩ := hps q hq
    obtain ⟨hc, ht⟩ := tableBank_inj hcore htbl hcore' htbl' (congrArg Prod.fst heq).symm
    rw [hc, ht]

end Sys2Proof.TableRows
end

section
/-!
SUPPORT. The tables of a task that starts (R61, R67, R73 to R75): what staging places in the rows of its block.
-/

namespace Sys2Proof.TablePlacement

open Sys2Proof Sys2Proof.Machine Sys2Proof.Records Sys2Proof.Admitting Sys2Proof.RegionBytes Sys2Proof.StagingBytes
  Sys2Proof.TaskStart Sys2Proof.TableRows

/-! ### Staging into slices leaves the stacks -/

/-- From `s` to `u` neither the stacks nor the time has changed. -/
def KeepsStacks (s u : State) : Prop := u.dram = s.dram ∧ u.now = s.now

theorem KeepsStacks.trans {s t u : State} (h : KeepsStacks s t) (h' : KeepsStacks t u) : KeepsStacks s u :=
  ⟨h'.1.trans h.1, h'.2.trans h.2⟩

theorem keepsStacks_foldl {α : Type} {g : State → α → State} (hg : ∀ s x, KeepsStacks s (g s x)) (l : List α) (s : State) :
    KeepsStacks s (l.foldl g s) := by
  induction l generalizing s with
  | nil => exact ⟨rfl, rfl⟩
  | cons x l ih => exact (hg s x).trans (ih _)

theorem keepsStacks_freshRange (s : State) (a n : Nat) (m : Cells 8) : KeepsStacks s (freshRange s a n m) := by
  unfold freshRange
  rw [foldl_countBad_frame]
  exact ⟨rfl, rfl⟩

theorem keepsStacks_sectorWrite (s : State) (w : Who) (step : Option Nat) (mine : List (Nat × Byte)) (sec : Nat) :
    KeepsStacks s (sectorWrite s w step mine sec) := by
  unfold sectorWrite
  split
  · constructor
    all_goals
      simp only [sramWrite, clearErrors_dram, clearErrors_now]
      split <;> rfl
  · split
    · constructor
      all_goals
        rw [stopBad, stopWith_eq]
        rfl
    · constructor
      all_goals simp only [sramWrite, readSector_dram, readSector_now]

theorem keepsStacks_stagePart (t : Task) (s : State) (a : Nat) (bs : List Byte) : KeepsStacks s (stagePart t s a bs) :=
  keepsStacks_foldl (fun s sec => keepsStacks_sectorWrite s (stagingWho t) none _ sec) _ s

theorem keepsStacks_stageRegion (t : Task) (s : State) (x : Nat × Region) : KeepsStacks s (stageRegion t s x) := by
  unfold stageRegion
  split
  · exact ⟨rfl, rfl⟩
  · split
    · exact ⟨rfl, rfl⟩
    · split
      · exact (keepsStacks_freshRange s _ _ _).trans
          (keepsStacks_foldl (fun s y => keepsStacks_stagePart t s _ _) _ _)
      · exact keepsStacks_freshRange s _ _ _

theorem keepsStacks_slices (t : Task) (s : State) : KeepsStacks s (stageRegions t (zeroScratch t s)) :=
  (keepsStacks_foldl (fun s _ => keepsStacks_freshRange s _ _ _) t.places s).trans
    (keepsStacks_foldl (keepsStacks_stageRegion t) _ _)

theorem keepsStacks_stageArgs (t : Task) (s : State) : KeepsStacks s (stageArgs t s) := by
  unfold stageArgs
  split
  · exact keepsStacks_stagePart t s _ _
  · exact ⟨rfl, rfl⟩

/-! ### What staging places -/

/-- The tables of a task, with the numbers of their records. -/
def tablesOf (t : Task) : List (Nat × Region) :=
  (t.decl.regions.mapIdx fun k r => (k, r)).filter fun x => decide (x.2.kind = .table)

theorem numbered_keys_nodup (rs : List Region) : ((rs.mapIdx fun k r => (k, r)).map Prod.fst).Nodup := by
  have hfst : (rs.mapIdx fun k r => (k, r)).map Prod.fst = List.range rs.length := by
    apply List.ext_getElem <;> simp
  rw [hfst]
  exact List.nodup_range

theorem mem_tablesOf {t : Task} {x : Nat × Region} : x ∈ tablesOf t ↔ t.decl.regions[x.1]? = some x.2 ∧ x.2.kind = .table := by
  rw [tablesOf, List.mem_filter, mem_numbered, decide_eq_true_eq]

/-- The cores that hold replicas of a task's tables. -/
def replicaCores (t : Task) : List Nat := (tractsOf t).flatMap tractCores

theorem mem_tractCores {c core : Nat} : core ∈ tractCores c ↔ core / 64 = c := by
  simp only [tractCores, List.mem_map, List.mem_range]
  constructor
  · rintro ⟨k, hk, rfl⟩
    omega
  · rintro rfl
    exact ⟨core % 64, Nat.mod_lt _ (by omega), Nat.div_add_mod' core 64⟩

theorem mem_replicaCores {t : Task} {core : Nat} : core ∈ replicaCores t ↔ ∃ x ∈ t.places, x.core / 64 = core / 64 := by
  rw [replicaCores, List.mem_flatMap]
  constructor
  · rintro ⟨c, hc, hcore⟩
    obtain ⟨x, hx, rfl⟩ := mem_tractsOf.mp hc
    exact ⟨x, hx, (mem_tractCores.mp hcore).symm⟩
  · rintro ⟨x, hx, hcore⟩
    exact ⟨core / 64, mem_tractsOf.mpr ⟨x, hx, hcore⟩, mem_tractCores.mpr rfl⟩

theorem replicaCores_nodup (t : Task) : (replicaCores t).Nodup := by
  refine List.nodup_flatMap.mpr ⟨fun c _ => List.nodup_range.map fun x y h => by simpa using h, ?_⟩
  refine (List.nodup_dedup _).imp fun hne core hc hc' => hne ?_
  rw [← mem_tractCores.mp hc, mem_tractCores.mp hc']

/-- The image of a table as the tract of a core has read it. -/
def tableImage (t : Task) (x : Nat × Region) (core : Nat) : List Byte :=
  stagedBytes t x.1 (tableCore t (core / 64)) x.2.far x.2.farBytes

/-- Every table in the replica of every core. -/
def placings (t : Task) : List Placing :=
  (tablesOf t).flatMap fun x => (replicaCores t).map fun core => ⟨core, x.2.tbl, tableImage t x core⟩

theorem mem_placings {t : Task} {p : Placing} : p ∈ placings t ↔
    ∃ x ∈ tablesOf t, ∃ core ∈ replicaCores t, p = ⟨core, x.2.tbl, tableImage t x core⟩ := by
  simp only [placings, List.mem_flatMap, List.mem_map, eq_comm]

theorem foldl_tract (t : Task) (now b : Nat) (x : Nat × Region) (d : Dram) :
    (tractsOf t).foldl (fun d c => (tractCores c).foldl (placeReplica now b x.2.tbl
      (stagedBytes t x.1 (tableCore t c) x.2.far x.2.farBytes)) d) d =
    ((replicaCores t).map fun core => (⟨core, x.2.tbl, tableImage t x core⟩ : Placing)).foldl (place now b) d := by
  rw [List.foldl_map, replicaCores, List.foldl_flatMap]
  refine List.foldl_ext _ _ d fun d c _ => ?_
  refine List.foldl_ext _ _ d fun d core hcore => ?_
  obtain rfl := mem_tractCores.mp hcore
  rfl

theorem placeTables_dram {t : Task} {b : Nat} (hb : t.block = some b) (s : State) :
    (placeTables t s).dram = (placings t).foldl (place s.now b) s.dram := by
  unfold placeTables
  rw [hb, placings, List.foldl_flatMap]
  dsimp only
  rw [show ((t.decl.regions.mapIdx fun k r => (k, r)).filter fun x => decide (x.2.kind = .table)) = tablesOf t from rfl]
  generalize tablesOf t = xs
  induction xs generalizing s with
  | nil => rfl
  | cons x xs ih =>
    rw [List.foldl_cons, List.foldl_cons, ih]
    dsimp only
    rw [foldl_tract]

/-- The stacks once a task has started. -/
theorem startTask_dram {t : Task} {b : Nat} (hb : t.block = some b) (s : State) :
    (startTask s t).dram = (placings t).foldl (place s.now b) s.dram := by
  obtain ⟨new, fresh, hstart, _⟩ := startParties_run t t.places (modTask (staged t s) t.uid fun t =>
    { t with state := .running, xfers := [], replicas := if t.block.isSome then tractsOf t else [] })
  have heq : startTask s t = _ := hstart
  have hslices := keepsStacks_slices t s
  rw [heq]
  change (staged t s).dram = _
  rw [staged, (keepsStacks_stageArgs t _).1, placeTables_dram hb, hslices.1, hslices.2]

/-! ### Its bytes and its activations -/

section Placed

variable {t : Task} (hcores : ∀ x ∈ t.places, x.core < 512)
  (hfit : ∀ (j : Nat) (r : Region), t.decl.regions[j]? = some r → r.kind = .table → r.tbl < 16 ∧ r.size ≤ 16384)
  (hapart : ∀ (i j : Nat) (r r' : Region), t.decl.regions[i]? = some r → r.kind = .table → t.decl.regions[j]? = some r' → r'.kind = .table →
    i ≠ j → r.tbl ≠ r'.tbl)

theorem tableImage_length_le {x : Nat × Region} (hx : x ∈ tablesOf t) (core : Nat) :
    (tableImage t x core).length ≤ x.2.size := by
  have hbytes : x.2.farBytes = x.2.size := by simp [Region.farBytes, (mem_tablesOf.mp hx).2]
  exact hbytes ▸ stagedBytes_length_le t x.1 _ x.2.far x.2.farBytes

include hcores hfit in
theorem placings_fit : ∀ p ∈ placings t, p.Fits := by
  intro p hp
  obtain ⟨x, hx, core, hcore, rfl⟩ := mem_placings.mp hp
  obtain ⟨hr, hkind⟩ := mem_tablesOf.mp hx
  obtain ⟨htbl, hsize⟩ := hfit _ _ hr hkind
  obtain ⟨y, hy, hsame⟩ := mem_replicaCores.mp hcore
  have := hcores y hy
  exact ⟨by dsimp only; omega, htbl, Nat.le_trans (tableImage_length_le hx core) hsize⟩

include hapart in
theorem placings_nodup : ((placings t).map fun p => (p.core, p.tbl)).Nodup := by
  rw [placings, List.map_flatMap]
  refine List.nodup_flatMap.mpr ⟨fun x _ => ?_, ?_⟩
  · rw [List.map_map]
    exact (replicaCores_nodup t).map fun a b h => congrArg Prod.fst h
  · have hkeys : (tablesOf t).Pairwise fun x y => x.1 ≠ y.1 :=
      List.pairwise_map.mp (List.Nodup.sublist (List.filter_sublist.map Prod.fst) (numbered_keys_nodup t.decl.regions))
    refine hkeys.imp_of_mem fun {x y} hx hy hne k hk hk' => ?_
    obtain ⟨hx, hxk⟩ := mem_tablesOf.mp hx
    obtain ⟨hy, hyk⟩ := mem_tablesOf.mp hy
    dsimp only at hk hk'
    rw [List.map_map, List.mem_map] at hk hk'
    obtain ⟨c, _, rfl⟩ := hk
    obtain ⟨c', _, heq⟩ := hk'
    exact hapart _ _ _ _ hx hxk hy hyk hne (congrArg Prod.snd heq).symm

include hcores hfit hapart

/-- R73 to R75: what placement leaves in the table rows. -/
theorem foldl_placings_inside {b : Nat} (now : Nat) {d : Dram} (hwf : Memory.wf d.tableRows = true) {j : Nat} {r : Region}
    (hr : t.decl.regions[j]? = some r) (hkind : r.kind = .table) {core : Nat}
    (hplaced : ∃ x ∈ t.places, x.core / 64 = core / 64) {image : List Byte} (hlen : image.length = r.size)
    (hcome : ImageCome t j (tableCore t (core / 64)) r.far image) {o : Nat} {v : Byte} (ho : image[o]? = some v) :
    cellGet ((placings t).foldl (place now b) d).tableRows (tableDpa core b r.tbl o) = v := by
  have hbytes : r.farBytes = r.size := by simp [Region.farBytes, hkind]
  have himage : tableImage t (j, r) core = image := by
    rw [tableImage, hbytes, ← hlen]
    exact stagedBytes_eq hcome
  have hin : (⟨core, r.tbl, image⟩ : Placing) ∈ placings t :=
    mem_placings.mpr ⟨(j, r), mem_tablesOf.mpr ⟨hr, hkind⟩, core, mem_replicaCores.mpr hplaced, by rw [himage]⟩
  exact foldl_place_inside now (placings_fit hcores hfit) (placings_nodup hapart) hwf hin ho

/-- R67: each row of a table is activated once. -/
theorem foldl_placings_rowActs {b : Nat} (now : Nat) {d : Dram} (hacts : ∀ y, assoc d.rowActs y 0 < 2048) {j : Nat}
    {r : Region} (hr : t.decl.regions[j]? = some r) (hkind : r.kind = .table) {core : Nat}
    (hplaced : ∃ x ∈ t.places, x.core / 64 = core / 64) {image : List Byte} (hlen : image.length = r.size)
    (hcome : ImageCome t j (tableCore t (core / 64)) r.far image) {m : Nat} (hm : 1024 * m < r.size) :
    assoc ((placings t).foldl (place now b) d).rowActs (bankOf (tableDpa core b r.tbl 0), 65408 + 16 * b + m) 0 =
      assoc d.rowActs (bankOf (tableDpa core b r.tbl 0), 65408 + 16 * b + m) 0 + 1 := by
  have hbytes : r.farBytes = r.size := by simp [Region.farBytes, hkind]
  have himage : tableImage t (j, r) core = image := by
    rw [tableImage, hbytes, ← hlen]
    exact stagedBytes_eq hcome
  have hin : (⟨core, r.tbl, image⟩ : Placing) ∈ placings t :=
    mem_placings.mpr ⟨(j, r), mem_tablesOf.mpr ⟨hr, hkind⟩, core, mem_replicaCores.mpr hplaced, by rw [himage]⟩
  have hrows := rows_nodup b (placings_fit hcores hfit) (placings_nodup hapart)
  rw [foldl_place_rowActs now b hrows fun k => .inl (hacts k), assoc_foldl_bump hrows, if_pos]
  refine List.mem_flatMap.mpr ⟨_, hin, List.mem_map.mpr ⟨m, List.mem_range.mpr ?_, rfl⟩⟩
  dsimp only
  omega

omit hcores hfit hapart in
/-- Every other byte of the table rows stays. -/
theorem foldl_placings_outside {b : Nat} (now : Nat) {d : Dram} (hwf : Memory.wf d.tableRows = true)
    (hcores : ∀ x ∈ t.places, x.core < 512) {a : Nat}
    (ha : ∀ (j : Nat) (r : Region) (core o : Nat), t.decl.regions[j]? = some r ∧ r.kind = .table →
      (core < 512 ∧ ∃ x ∈ t.places, x.core / 64 = core / 64) → o < r.size → a ≠ tableDpa core b r.tbl o) :
    cellGet ((placings t).foldl (place now b) d).tableRows a = cellGet d.tableRows a := by
  refine foldl_place_outside now hwf fun p hp o ho => ?_
  obtain ⟨x, hx, core, hcore, rfl⟩ := mem_placings.mp hp
  obtain ⟨y, hy, hsame⟩ := mem_replicaCores.mp hcore
  have := hcores y hy
  exact ha x.1 x.2 core o (mem_tablesOf.mp hx) ⟨by omega, y, hy, hsame⟩ (Nat.lt_of_lt_of_le ho (tableImage_length_le hx core))

end Placed

end Sys2Proof.TablePlacement
end

section
/-!
SUPPORT. Table queries (R76 to R80, R83): when a query goes on, the rows it opens, and what it leaves unchanged.
-/

namespace Sys2Proof.QueryRows

open Sys2Proof Sys2Proof.Machine Sys2Proof.Records Sys2Proof.Placing Sys2Proof.TableRows

/-! ### Finding a query -/

theorem find_of_nodup {α β : Type} [DecidableEq β] {f : α → β} {l : List α} (hn : (l.map f).Nodup) {x : α} (hx : x ∈ l) :
    (l.find? fun y => decide (f y = f x)) = some x := by
  induction l with
  | nil => cases hx
  | cons y l ih =>
    obtain ⟨hy, hn⟩ := List.nodup_cons.mp hn
    rcases List.mem_cons.mp hx with rfl | hx
    · simp
    · have hne : f y ≠ f x := fun h => hy (h ▸ List.mem_map_of_mem hx)
      simp [hne, ih hn hx]

theorem queryComplete_waits {s : State} {q : Query}
    (hfind : (s.eng.queries.find? fun x => decide (x.id = q.id)) = some q)
    (h : ∀ k, findTask s q.task = some k → queryMoves s q k = false) : exec (.queryComplete q.id) s = .next s := by
  change execQueryComplete q.id s = _
  unfold execQueryComplete
  rw [hfind]
  dsimp only
  cases hk : findTask s q.task with
  | none => rfl
  | some k =>
    dsimp only
    rw [h k hk]
    rfl

theorem queryComplete_goes {s : State} {q : Query} {k : Task}
    (hfind : (s.eng.queries.find? fun x => decide (x.id = q.id)) = some q) (hk : findTask s q.task = some k)
    (h : queryMoves s q k = true) :
    exec (.queryComplete q.id) s = .next (advanceQuery s q (findGroup s q.gid) k) := by
  change execQueryComplete q.id s = _
  unfold execQueryComplete
  rw [hfind]
  dsimp only
  rw [hk]
  dsimp only
  rw [h]
  rfl

theorem queryActs_of {s : State} {q : Query} {k : Task} (hk : findTask s q.task = some k) (hstop : k.stop = none) :
    queryActs s q = true := by
  simp [queryActs, hk, hstop]

/-- R76: a query waits behind one that goes before it. -/
theorem queryBehind_of_before {s : State} {q x : Query} {before after : List Query}
    (hlist : s.eng.queries = before ++ q :: after) (hn : (s.eng.queries.map (·.id)).Nodup) (hx : x ∈ before)
    (hacts : queryActs s x = true) (hgoes : goesBefore x q = true) : queryBehind s q = true := by
  have hbefore : ∀ y ∈ before, decide (y.id ≠ q.id) = true := by
    intro y hy
    rw [hlist, List.map_append, List.nodup_append] at hn
    exact decide_eq_true (hn.2.2 _ (List.mem_map_of_mem hy) _ (List.mem_map_of_mem List.mem_cons_self))
  have htake : (s.eng.queries.takeWhile fun y => decide (y.id ≠ q.id)) = before := by
    rw [hlist, List.takeWhile_append_of_pos hbefore]
    simp
  rw [queryBehind, htake, List.any_eq_true]
  exact ⟨x, hx, by rw [hacts, hgoes]; rfl⟩

/-! ### The indices of a query -/

/-- Index `j` of an index register. -/
def indexAt (ix : Bool) (x : Word) (j : Nat) : Nat :=
  if ix then x.toNat / 2 ^ (16 * j) % 65536 else x.toNat / 2 ^ (8 * j) % 256

/-- How many indices an index register holds. -/
def indexCount (ix : Bool) : Nat := if ix then 2 else 4

theorem indicesOf_eq (ix : Bool) (x : Word) : indicesOf ix x = (List.range (indexCount ix)).map (indexAt ix x) := by
  cases ix <;> rfl

/-- Whether an index is in range of a table that is declared, of the query's entry size. -/
def InRange (decl : Option (Nat × Nat)) (z x : Nat) : Prop :=
  match decl with
  | some (size, count) => z = size ∧ x < count
  | none => False

theorem mem_wanted {q : Query} {decl : Option (Nat × Nat)} {w : Nat × Nat} : w ∈ wanted q decl ↔
    ∃ y ∈ q.lanes, ∃ j, j < indexCount q.ix ∧ InRange decl q.ty.size (indexAt q.ix y.2 j) ∧
      w = (y.1, indexAt q.ix y.2 j) := by
  cases decl with
  | none => simp [wanted, InRange]
  | some d =>
    obtain ⟨size, count⟩ := d
    simp only [wanted, InRange]
    by_cases hz : q.ty.size = size
    · rw [if_pos hz]
      simp only [List.mem_flatMap, List.mem_map, List.mem_filter, indicesOf_eq, List.mem_range, decide_eq_true_eq, hz,
        true_and]
      constructor
      · rintro ⟨y, hy, x, ⟨⟨j, hj, rfl⟩, hx⟩, rfl⟩
        exact ⟨y, hy, j, hj, hx, rfl⟩
      · rintro ⟨y, hy, j, hj, hx, rfl⟩
        exact ⟨y, hy, _, ⟨⟨j, hj, rfl⟩, hx⟩, rfl⟩
    · simp [hz]

/-! ### The rows of a query (R76) -/

theorem mem_queryRows {q : Query} {block : Nat} {ws : List (Nat × Nat)} {r : Nat} :
    r ∈ queryRows q block ws ↔ ∃ w ∈ ws, rowOf (entryDpa q block w.2) = r := by
  rw [queryRows, (sortBy_perm _ _).mem_iff, List.mem_dedup, List.mem_map]

/-- Each row once, in ascending order. -/
theorem queryRows_ascending (q : Query) (block : Nat) (ws : List (Nat × Nat)) :
    (queryRows q block ws).Pairwise (· < ·) := by
  have hnodup : (ws.map fun w => rowOf (entryDpa q block w.2)).dedup.Nodup := List.nodup_dedup _
  refine sortBy_pairwise (R := fun a b => a < b) (fun _ _ _ => Nat.lt_trans) (hnodup.imp fun {a b} hne => ?_)
  simp only [Decides, decide_eq_true_eq, decide_eq_false_iff_not]
  omega

/-! ### What queries leave unchanged -/

/-- From `s` to `t` no byte of the slices, of the stacks or of the host's memory has changed, and on the host's side its
responses alone. -/
def Quiet (s t : State) : Prop :=
  t.sram = s.sram ∧ t.dram.mem = s.dram.mem ∧ t.dram.tableRows = s.dram.tableRows ∧ t.host.mem = s.host.mem ∧
    t.host.fns = s.host.fns ∧ t.host.tracked = s.host.tracked

theorem Quiet.trans {s t u : State} (h : Quiet s t) (h' : Quiet t u) : Quiet s u := by
  obtain ⟨h1, h2, h3, h4, h5, h6⟩ := h
  obtain ⟨h1', h2', h3', h4', h5', h6'⟩ := h'
  exact ⟨h1'.trans h1, h2'.trans h2, h3'.trans h3, h4'.trans h4, h5'.trans h5, h6'.trans h6⟩

/-- The requests that a filter lets go are answered. -/
theorem issueQueued_quiet (s : State) (f : QueueEntry → Bool) :
    Quiet s (issueQueued s f) ∧ (issueQueued s f).groups = s.groups ∧ (issueQueued s f).tasks = s.tasks ∧
      (issueQueued s f).eng = s.eng := by
  rw [issueQueued, answerHeld_frame]
  exact ⟨⟨rfl, rfl, rfl, rfl, rfl, rfl⟩, rfl, rfl, rfl⟩

theorem endQuery_quiet (s : State) (q : Query) (block : Nat) :
    Quiet s (endQuery s q block) ∧ (endQuery s q block).groups = s.groups ∧ (endQuery s q block).tasks = s.tasks ∧
      (endQuery s q block).eng.queries = s.eng.queries.filter fun x => decide (x.id ≠ q.id) := by
  obtain ⟨hquiet, hgroups, htasks, heng⟩ := issueQueued_quiet (dropQuery s q.id) fun e =>
    !pchYields (dropQuery s q.id) e.pch &&
      (decide (e.bank = tableBank q.core block q.tbl) || !queryAtBank (dropQuery s q.id) e.bank)
  exact ⟨hquiet, hgroups, htasks, congrArg (·.queries) heng⟩

theorem openRow_other (now : Nat) (d : Dram) (q : Query) (block : Nat) (ws : List (Nat × Nat)) (row : Nat) :
    (openRow now d q block ws row).mem = d.mem ∧ (openRow now d q block ws row).tableRows = d.tableRows := by
  have hfold : ∀ (bs : List Nat) (d : Dram), (bs.foldl (fun d b => countReport d (b * 64)) d).mem = d.mem ∧
      (bs.foldl (fun d b => countReport d (b * 64)) d).tableRows = d.tableRows := by
    intro bs
    induction bs with
    | nil => exact fun d => ⟨rfl, rfl⟩
    | cons b bs ih =>
      intro d
      obtain ⟨hmem, hrows⟩ := ih (countReport d (b * 64))
      exact ⟨hmem.trans (FarSide.countReport_mem d _), hrows.trans (Admitting.countReport_tableRows d _)⟩
  obtain ⟨hmem, hrows⟩ := activateTableRow_other now d (tableBank q.core block q.tbl) row
  exact ⟨(hfold _ _).1.trans hmem, (hfold _ _).2.trans hrows⟩

/-- The state with a row opened for a query. -/
def rowOpened (s : State) (q : Query) (block : Nat) (ws : List (Nat × Nat)) (row : Nat) : State :=
  { s with dram := openRow s.now s.dram q block ws row }

theorem rowOpened_quiet (s : State) (q : Query) (block : Nat) (ws : List (Nat × Nat)) (row : Nat) :
    Quiet s (rowOpened s q block ws row) := by
  obtain ⟨hmem, hrows⟩ := openRow_other s.now s.dram q block ws row
  exact ⟨rfl, hmem, hrows, rfl, rfl, rfl⟩

/-! ### One step of a query -/

section Step

variable {s : State} {q : Query} {g : Option Group} {k : Task}

theorem advanceQuery_last (h : rowsLeft q (k.block.getD 0) (wanted q (tableDecl k q.tbl)) = []) :
    advanceQuery s q g k = takeResults (endQuery s q (k.block.getD 0)) q (k.block.getD 0) (tableDecl k q.tbl) g := by
  unfold advanceQuery
  dsimp only
  rw [h]

variable {r : Nat} {more : List Nat} (h : rowsLeft q (k.block.getD 0) (wanted q (tableDecl k q.tbl)) = r :: more)
include h

theorem advanceQuery_bad {x : Nat × Nat}
    (hbad : badLane s q (k.block.getD 0) (wanted q (tableDecl k q.tbl)) r = some x) : advanceQuery s q g k =
      stopWith (endQuery (rowOpened s q (k.block.getD 0) (wanted q (tableDecl k q.tbl)) r) q (k.block.getD 0)) q.task
        (uncorrectable (consumer g x.1).step (consumer g x.1).tid 0 q.pc) := by
  unfold advanceQuery
  dsimp only
  rw [h]
  dsimp only
  rw [hbad]
  rfl

variable (hgood : badLane s q (k.block.getD 0) (wanted q (tableDecl k q.tbl)) r = none)
include hgood

theorem advanceQuery_finishes (hmore : more = []) : advanceQuery s q g k =
    takeResults (endQuery (rowOpened s q (k.block.getD 0) (wanted q (tableDecl k q.tbl)) r) q (k.block.getD 0)) q
      (k.block.getD 0) (tableDecl k q.tbl) g := by
  unfold advanceQuery
  dsimp only
  rw [h]
  dsimp only
  rw [hgood]
  dsimp only
  rw [if_pos hmore]
  rfl

/-- The query with one more row opened. -/
def opensOne (x : Query) : Query := { x with opened := x.opened + 1, resumes := false }

theorem advanceQuery_opens (hmore : more ≠ []) : advanceQuery s q g k = issueFree
    { rowOpened s q (k.block.getD 0) (wanted q (tableDecl k q.tbl)) r with
      eng.queries := updWhere s.eng.queries (fun x => decide (x.id = q.id)) opensOne } := by
  unfold advanceQuery
  dsimp only
  rw [h]
  dsimp only
  rw [hgood]
  dsimp only
  rw [if_neg hmore]
  rfl

end Step

end Sys2Proof.QueryRows
end

section
/-!
SUPPORT. The results of a query (R78, R79): the registers and `QSTAT` of each lane that asked.
-/

namespace Sys2Proof.QueryResults

open Sys2Proof Sys2Proof.Machine Sys2Proof.RegionBytes Sys2Proof.QueryRows

/-! ### Bytes of a register -/

theorem byteAt_natOfBytes (l : List Byte) (i : Nat) : byteAt (natOfBytes l) i = l.getD i 0 := by
  induction l generalizing i with
  | nil => simp [natOfBytes, byteAt]
  | cons b l ih =>
    have hb : b.toNat < 256 := b.isLt
    cases i with
    | zero =>
      refine BitVec.eq_of_toNat_eq ?_
      simp only [toNat_byteAt, natOfBytes, List.getD_cons_zero, Nat.mul_zero, Nat.pow_zero, Nat.div_one]
      omega
    | succ i =>
      rw [List.getD_cons_succ, ← ih i]
      have hdiv : (b.toNat + 256 * natOfBytes l) / 2 ^ (8 * (i + 1)) = natOfBytes l / 2 ^ (8 * i) := by
        rw [show 2 ^ (8 * (i + 1)) = 256 * 2 ^ (8 * i) by rw [Nat.mul_succ, Nat.pow_add, Nat.mul_comm],
          ← Nat.div_div_eq_div_mul]
        congr 1
        omega
      rw [byteAt, natOfBytes, hdiv, byteAt]

theorem extract_ofNat {n i : Nat} (hi : i < 4) : (BitVec.ofNat 32 n).extractLsb' (8 * i) 8 = byteAt n i := by
  refine BitVec.eq_of_toNat_eq ?_
  rw [toNat_byteAt, BitVec.extractLsb'_toNat, BitVec.toNat_ofNat, Nat.shiftRight_eq_div_pow]
  obtain rfl | rfl | rfl | rfl : i = 0 ∨ i = 1 ∨ i = 2 ∨ i = 3 := by omega
  all_goals norm_num
  all_goals omega

/-- The bytes of registers that are packed from a list of bytes. -/
theorem extract_packed (bs : List Byte) (j : Nat) :
    (BitVec.ofNat 32 (natOfBytes ((bs.drop (4 * (j / 4))).take 4))).extractLsb' (8 * (j % 4)) 8 = bs.getD j 0 := by
  have hj : j % 4 < 4 := Nat.mod_lt j (by omega)
  rw [extract_ofNat hj, byteAt_natOfBytes, List.getD_eq_getElem?_getD, List.getElem?_take_of_lt hj, List.getElem?_drop,
    Nat.div_add_mod, ← List.getD_eq_getElem?_getD]

/-! ### The entries of a lane -/

/-- The entry of an index, or zero. -/
def entryOf (s : State) (q : Query) (block : Nat) (decl : Option (Nat × Nat)) (x : Nat) : Nat :=
  match decl with
  | some (size, count) => if q.ty.size = size ∧ x < count then entryValue s q block x else 0
  | none => 0

theorem laneEntries_eq (s : State) (q : Query) (block : Nat) (decl : Option (Nat × Nat)) (x : Word) :
    laneEntries s q block decl (indicesOf q.ix x) =
      (List.range (indexCount q.ix)).map fun j => entryOf s q block decl (indexAt q.ix x j) := by
  rw [laneEntries, indicesOf_eq, List.map_map]
  cases decl <;> rfl

section Results

variable (s : State) (q : Query) (block : Nat) (decl : Option (Nat × Nat)) (x : Word)

/-- The result registers of a lane. -/
def results : List Word := queryResult q (laneEntries s q block decl (indicesOf q.ix x))

theorem results_length : (results s q block decl x).length = queryRegs q.qb q.ix q.ty := by
  rw [results, laneEntries_eq, queryResult]
  cases hqb : q.qb
  · simp
  · simp [queryRegs, indexCount]

theorem results_widened (hqb : q.qb = true) {j : Nat} (hj : j < indexCount q.ix) :
    (results s q block decl x).getD j 0 = widen q.ty (entryOf s q block decl (indexAt q.ix x j)) := by
  rw [results, laneEntries_eq, queryResult, if_pos hqb, List.getD_eq_getElem?_getD]
  simp [hj]

theorem results_packed (hqb : q.qb = false) {j : Nat} (hj : j < 4 * queryRegs q.qb q.ix q.ty) :
    ((results s q block decl x).getD (j / 4) 0).extractLsb' (8 * (j % 4)) 8 = if j < indexCount q.ix * q.ty.size then
      byteAt (entryOf s q block decl (indexAt q.ix x (j / q.ty.size))) (j % q.ty.size) else 0 := by
  have hreg : j / 4 < queryRegs q.qb q.ix q.ty := Nat.div_lt_of_lt_mul hj
  have hbytes : ∀ e ∈ (List.range (indexCount q.ix)).map (fun j => entryOf s q block decl (indexAt q.ix x j)),
      (bytesOfNat q.ty.size e).length = q.ty.size := fun e _ => bytesOfNat_length _ e
  rw [results, laneEntries_eq, queryResult, if_neg (by simp [hqb])]
  rw [List.getD_eq_getElem?_getD, List.getElem?_map, List.getElem?_range hreg, Option.map_some, Option.getD_some,
    extract_packed, List.getD_eq_getElem?_getD]
  split
  case isTrue hin =>
    have hz : 0 < q.ty.size := Nat.pos_of_ne_zero fun h => by rw [h, Nat.mul_zero] at hin; omega
    have hpiece := getElem?_flatMap_pieces hbytes (k := j / q.ty.size) (Nat.mod_lt j hz)
    have hentry : j / q.ty.size < indexCount q.ix := Nat.div_lt_of_lt_mul (by rwa [Nat.mul_comm])
    rw [Nat.div_add_mod] at hpiece
    rw [hpiece, List.getElem?_map, List.getElem?_range hentry, Option.map_some, Option.bind_some,
      bytesOfNat_getElem? (Nat.mod_lt j hz), Option.getD_some]
  case isFalse hout =>
    rw [List.getElem?_eq_none, Option.getD_none]
    rw [length_flatMap_pieces hbytes, List.length_map, List.length_range]
    omega

end Results

/-! ### `QSTAT` (R78, R79) -/

/-- The status of a lane whose first index out of range is `n`, at position `j`. -/
def notedRange (w : Word) (j n : Nat) : Word :=
  (w &&& 0xFF00003F) ||| BitVec.ofNat 32 (n * 256) ||| BitVec.ofNat 32 (j * 64) ||| 1

/-- One index out of range. -/
def noteRange (w : Word) (y : Nat × Nat) : Word := if w &&& 1 = 0 then notedRange w y.1 y.2 else w

theorem getLsbD_kept : ∀ i, i < 32 → (0xFF00003F : BitVec 32).getLsbD i = decide (i < 6 ∨ 24 ≤ i) := by decide

theorem getLsbD_notedRange (w : Word) {i j n : Nat} (hi : i < 32) (hj : j < 4) (hn : n < 65536) :
    (notedRange w j n).getLsbD i = if i = 0 then true else if i < 6 ∨ 24 ≤ i then w.getLsbD i
      else if i < 8 then j.testBit (i - 6) else n.testBit (i - 8) := by
  have hfix : (BitVec.ofNat 32 (n * 256)).getLsbD i = (decide (8 ≤ i) && n.testBit (i - 8)) := by
    rw [BitVec.getLsbD_ofNat, decide_eq_true hi, Bool.true_and, show 256 = 2 ^ 8 from rfl, Nat.testBit_mul_two_pow]
  have hpos : (BitVec.ofNat 32 (j * 64)).getLsbD i = (decide (6 ≤ i) && j.testBit (i - 6)) := by
    rw [BitVec.getLsbD_ofNat, decide_eq_true hi, Bool.true_and, show 64 = 2 ^ 6 from rfl, Nat.testBit_mul_two_pow]
  have hone : (1 : BitVec 32).getLsbD i = decide (i = 0) := by simp [BitVec.getLsbD_one]
  have hjhigh : 8 ≤ i → j.testBit (i - 6) = false := fun h => Nat.testBit_lt_two_pow
    (Nat.lt_of_lt_of_le hj (Nat.pow_le_pow_right (n := 2) (by omega) (show 2 ≤ i - 6 by omega)))
  have hnhigh : 24 ≤ i → n.testBit (i - 8) = false := fun h => Nat.testBit_lt_two_pow
    (Nat.lt_of_lt_of_le hn (Nat.pow_le_pow_right (n := 2) (by omega) (show 16 ≤ i - 8 by omega)))
  simp only [notedRange, BitVec.getLsbD_or, BitVec.getLsbD_and, getLsbD_kept i hi, hfix, hpos, hone]
  by_cases h0 : i = 0
  · subst h0; simp
  · by_cases h6 : i < 6
    · simp [h0, h6, show ¬ 6 ≤ i by omega, show ¬ 8 ≤ i by omega]
    · by_cases h8 : i < 8
      · simp [h0, h6, h8, show 6 ≤ i by omega, show ¬ 8 ≤ i by omega, show ¬ 24 ≤ i by omega]
      · by_cases h24 : 24 ≤ i
        · simp [h0, h24, hjhigh (by omega), hnhigh h24]
        · simp [h0, h6, h8, h24, hjhigh (by omega), show 8 ≤ i by omega]

/-- The fields of a status that notes an index out of range. -/
theorem notedRange_fields (w : Word) {j n : Nat} (hj : j < 4) (hn : n < 65536) :
    (notedRange w j n).getLsbD 0 = true ∧ (notedRange w j n).extractLsb' 8 16 = BitVec.ofNat 16 n ∧
      (notedRange w j n).extractLsb' 6 2 = BitVec.ofNat 2 j ∧ (notedRange w j n).extractLsb' 1 5 = w.extractLsb' 1 5 ∧
      (notedRange w j n).extractLsb' 24 8 = w.extractLsb' 24 8 := by
  refine ⟨?_, ?_, ?_, ?_, ?_⟩
  · rw [getLsbD_notedRange w (by omega) hj hn]
    rfl
  all_goals
    refine BitVec.eq_of_getLsbD_eq fun i hi => ?_
    rw [BitVec.getLsbD_extractLsb', getLsbD_notedRange w (by omega) hj hn]
  · rw [BitVec.getLsbD_ofNat, if_neg (by omega), if_neg (by omega), if_neg (by omega), Nat.add_sub_cancel_left]
  · rw [BitVec.getLsbD_ofNat, if_neg (by omega), if_neg (by omega), if_pos (by omega), Nat.add_sub_cancel_left]
  · rw [BitVec.getLsbD_extractLsb', if_neg (by omega), if_pos (by omega)]
  · rw [BitVec.getLsbD_extractLsb', if_neg (by omega), if_pos (by omega)]

theorem and_one_eq_zero (w : Word) : w &&& 1 = 0 ↔ w.getLsbD 0 = false := by
  constructor
  · intro h
    have h0 := congrArg (·.getLsbD 0) h
    simpa using h0
  · intro h
    refine BitVec.eq_of_getLsbD_eq fun i hi => ?_
    by_cases h0 : i = 0
    · rw [h0, BitVec.getLsbD_and, h, Bool.false_and]
      rfl
    · simp [BitVec.getLsbD_one, h0]

theorem foldl_noteRange_set {w : Word} (h : w.getLsbD 0 = true) (ys : List (Nat × Nat)) : ys.foldl noteRange w = w := by
  have hset : ¬ w &&& 1 = 0 := by rw [and_one_eq_zero, h]; simp
  induction ys with
  | nil => rfl
  | cons y ys ih => rw [List.foldl_cons, noteRange, if_neg hset, ih]

/-- A status takes the first index out of range, where it has none. -/
theorem foldl_noteRange_cons {w : Word} {y : Nat × Nat} (hj : y.1 < 4) (hn : y.2 < 65536) (ys : List (Nat × Nat)) :
    (y :: ys).foldl noteRange w = if w.getLsbD 0 = true then w else notedRange w y.1 y.2 := by
  split
  case isTrue h => exact foldl_noteRange_set h _
  case isFalse h =>
    rw [List.foldl_cons, noteRange, if_pos ((and_one_eq_zero w).mpr (by simpa using h))]
    exact foldl_noteRange_set (notedRange_fields w hj hn).1 ys

theorem indexAt_lt (ix : Bool) (x : Word) (j : Nat) : indexAt ix x j < 65536 := by
  unfold indexAt
  split <;> omega

section Status

variable {size count : Nat} {q : Query} {x : Word} (hz : q.ty.size = size)
include hz

/-- The indices out of range, with their positions. -/
def outOfRange (count : Nat) (ix : Bool) (x : Word) : List (Nat × Nat) :=
  ((List.range (indexCount ix)).map fun j => (j, indexAt ix x j)).filter fun y => decide (count ≤ y.2)

theorem qstatAfter_sized (w : Word) : qstatAfter (some (size, count)) q.ty.size (indicesOf q.ix x) w =
    (outOfRange count q.ix x).foldl noteRange w := by
  have hpos : (indicesOf q.ix x).mapIdx (fun k x => (k, x)) = (List.range (indexCount q.ix)).map fun j =>
      (j, indexAt q.ix x j) := by
    rw [indicesOf_eq]
    apply List.ext_getElem <;> simp
  simp only [qstatAfter, hz, ne_eq, not_true_eq_false, if_false]
  rw [hpos]
  rfl

theorem qstatAfter_allIn (hin : ∀ j, j < indexCount q.ix → indexAt q.ix x j < count) (w : Word) :
    qstatAfter (some (size, count)) q.ty.size (indicesOf q.ix x) w = w := by
  have hnone : outOfRange count q.ix x = [] := by
    refine List.filter_eq_nil_iff.mpr fun y hy => ?_
    obtain ⟨j, hj, rfl⟩ := List.mem_map.mp hy
    have := hin j (List.mem_range.mp hj)
    simpa using this
  rw [qstatAfter_sized hz, hnone, List.foldl_nil]

theorem qstatAfter_firstOut {j : Nat} (hj : j < indexCount q.ix) (hout : count ≤ indexAt q.ix x j)
    (hfirst : ∀ m, m < j → indexAt q.ix x m < count) (w : Word) :
    qstatAfter (some (size, count)) q.ty.size (indicesOf q.ix x) w =
      if w.getLsbD 0 = true then w else notedRange w j (indexAt q.ix x j) := by
  have hlen : j < ((List.range (indexCount q.ix)).map fun j => (j, indexAt q.ix x j)).length := by simpa using hj
  have hbefore : (((List.range (indexCount q.ix)).map fun j => (j, indexAt q.ix x j)).take j).filter
      (fun y => decide (count ≤ y.2)) = [] := by
    refine List.filter_eq_nil_iff.mpr fun y hy => ?_
    rw [← List.map_take, List.take_range, List.mem_map] at hy
    obtain ⟨m, hm, rfl⟩ := hy
    have := hfirst m (by have := List.mem_range.mp hm; omega)
    simpa using this
  have hcount : indexCount q.ix ≤ 4 := by unfold indexCount; split <;> omega
  rw [qstatAfter_sized hz, outOfRange, ← List.take_append_drop j (List.map _ _), List.filter_append, hbefore,
    List.nil_append, List.drop_eq_getElem_cons hlen, List.filter_cons]
  rw [List.getElem_map, List.getElem_range, if_pos (by simpa using hout),
    foldl_noteRange_cons (Nat.lt_of_lt_of_le hj hcount) (indexAt_lt _ _ _)]

omit hz in
theorem qstatAfter_missized (hz : q.ty.size ≠ size) (w : Word) :
    qstatAfter (some (size, count)) q.ty.size (indicesOf q.ix x) w = w ||| 4 := by
  simp [qstatAfter, hz]

end Status

/-! ### The lanes of a query -/

theorem getLsbD_maskOf {ls : List Nat} (h : ∀ l ∈ ls, l < 64) (k : Nat) : (maskOf ls).getLsbD k = decide (k ∈ ls) := by
  have hfold : ∀ (ls : List Nat) (m : Mask), (∀ l ∈ ls, l < 64) →
      (ls.foldl (fun m l => m ||| BitVec.twoPow 64 l) m).getLsbD k = (m.getLsbD k || decide (k ∈ ls)) := by
    intro ls
    induction ls with
    | nil => simp
    | cons l ls ih =>
      intro m h
      rw [List.foldl_cons, ih _ fun l' hl' => h l' (List.mem_cons_of_mem l hl'), BitVec.getLsbD_or,
        getLsbD_twoPow64 l k (h l List.mem_cons_self), Bool.or_assoc]
      simp
  exact (hfold ls 0 h).trans (by simp)

theorem assoc_of_mem {α β : Type} [DecidableEq α] {l : List (α × β)} (hn : (l.map (·.1)).Nodup) {x : α × β} (hx : x ∈ l)
    (d : β) : assoc l x.1 d = x.2 := by
  rw [assoc, find_of_nodup (f := Prod.fst) hn hx]

/-- Registers from `d` on, in a list of writes. -/
theorem assoc_numbered (ws : List Word) (d r : Nat) (w : Word) : assoc (ws.mapIdx fun k w => (d + k, w)) r w =
    if d ≤ r ∧ r < d + ws.length then ws.getD (r - d) 0 else w := by
  have hkeys : (ws.mapIdx fun k w => (d + k, w)).map (·.1) = (List.range ws.length).map (d + ·) := by
    apply List.ext_getElem <;> simp
  split
  case isTrue h =>
    have hlt : r - d < ws.length := by omega
    have hmem : (r, ws.getD (r - d) 0) ∈ ws.mapIdx fun k w => (d + k, w) := by
      refine List.mem_mapIdx.mpr ⟨r - d, hlt, ?_⟩
      rw [List.getD_eq_getElem _ _ hlt, Nat.add_sub_cancel' h.1]
    refine assoc_of_mem ?_ hmem w
    rw [hkeys]
    exact List.nodup_range.map fun x y h => by simpa using h
  case isFalse h =>
    refine assoc_absent _ _ _ ?_
    rw [hkeys]
    intro hmem
    obtain ⟨k, hk, rfl⟩ := List.mem_map.mp hmem
    have := List.mem_range.mp hk
    omega

theorem numbered_nodup (ws : List Word) (d : Nat) : ((ws.mapIdx fun k w => (d + k, w)).map (·.1)).Nodup := by
  have hkeys : (ws.mapIdx fun k w => (d + k, w)).map (·.1) = (List.range ws.length).map (d + ·) := by
    apply List.ext_getElem <;> simp
  rw [hkeys]
  exact List.nodup_range.map fun x y h => by simpa using h

/-- A thread once its lane's results have been written. -/
def answered (s : State) (q : Query) (block : Nat) (decl : Option (Nat × Nat)) (x : Word) (t : Thread) : Thread :=
  let t := ((results s q block decl x).mapIdx fun k w => (q.d + k, w)).foldl (fun t y => setVreg t y.1 y.2) t
  { t with qstat := qstatAfter decl q.ty.size (indicesOf q.ix x) t.qstat }

theorem answered_qstat (s : State) (q : Query) (block : Nat) (decl : Option (Nat × Nat)) (x : Word) (t : Thread) :
    (answered s q block decl x t).qstat = qstatAfter decl q.ty.size (indicesOf q.ix x) t.qstat := by
  rw [answered, foldl_setVreg_rest]

theorem answered_rest (s : State) (q : Query) (block : Nat) (decl : Option (Nat × Nat)) (x : Word) (t : Thread) :
    answered s q block decl x t = { t with
      v := (answered s q block decl x t).v, qstat := (answered s q block decl x t).qstat } := by
  rw [answered, foldl_setVreg_rest]

theorem vreg_answered (s : State) (q : Query) (block : Nat) (decl : Option (Nat × Nat)) (x : Word) (t : Thread) {r : Nat}
    (hr : r < 64) : vreg (answered s q block decl x t) r =
      if q.d ≤ r ∧ r < q.d + queryRegs q.qb q.ix q.ty then (results s q block decl x).getD (r - q.d) 0 else vreg t r := by
  have h := vreg_foldl ((results s q block decl x).mapIdx fun k w => (q.d + k, w)) t r hr (numbered_nodup _ _)
  rw [assoc_numbered, results_length] at h
  exact h

section Group

variable {s : State} {q : Query} (block : Nat) (decl : Option (Nat × Nat)) {g : Group} (hn : (q.lanes.map (·.1)).Nodup)
  (hlanes : ∀ x ∈ q.lanes, x.1 < 64)

theorem writeResults_frame (s : State) (q : Query) (block : Nat) (decl : Option (Nat × Nat)) (g : Group) :
    writeResults s q block decl g = { g with lanes := (writeResults s q block decl g).lanes } := rfl

theorem writeResults_length (s : State) (q : Query) (block : Nat) (decl : Option (Nat × Nat)) (g : Group) :
    (writeResults s q block decl g).lanes.length = g.lanes.length := modLanes_length g _ _

include hlanes

theorem mem_lanes_lt : ∀ l ∈ q.lanes.map (·.1), l < 64 := by
  intro l hl
  obtain ⟨x, hx, rfl⟩ := List.mem_map.mp hl
  exact hlanes x hx

theorem laneOf_writeResults_other {l : Nat} (hl : l ∉ q.lanes.map (·.1)) :
    laneOf (writeResults s q block decl g) l = laneOf g l := by
  by_cases hin : l < g.lanes.length
  · rw [writeResults, laneOf_modLanes _ _ _ _ hin, getLsbD_maskOf (mem_lanes_lt hlanes), decide_eq_false hl]
    rfl
  · exact laneOf_modLanes_beyond _ _ _ _ hin

include hn

theorem laneOf_writeResults {x : Nat × Word} (hx : x ∈ q.lanes) (hin : x.1 < g.lanes.length) :
    laneOf (writeResults s q block decl g) x.1 = answered s q block decl x.2 (laneOf g x.1) := by
  have hmem : x.1 ∈ q.lanes.map (·.1) := List.mem_map_of_mem hx
  rw [writeResults, laneOf_modLanes _ _ _ _ hin, getLsbD_maskOf (mem_lanes_lt hlanes), decide_eq_true hmem, if_pos rfl,
    assoc_of_mem hn hx]
  rfl

theorem laneOf_writeResults_rest (l : Nat) : laneOf (writeResults s q block decl g) l = { laneOf g l with
    v := (laneOf (writeResults s q block decl g) l).v, qstat := (laneOf (writeResults s q block decl g) l).qstat } := by
  by_cases hl : l ∈ q.lanes.map (·.1)
  · obtain ⟨x, hx, rfl⟩ := List.mem_map.mp hl
    by_cases hin : x.1 < g.lanes.length
    · rw [laneOf_writeResults block decl hn hlanes hx hin]
      exact answered_rest _ _ _ _ _ _
    · rw [writeResults, laneOf_modLanes_beyond _ _ _ _ hin]
  · rw [laneOf_writeResults_other block decl hlanes hl]

end Group

end Sys2Proof.QueryResults
end

section
/-!
PROOF. Table queries (R61, R67, R70, R73 to R80, R83): where tables stand, what `TQ` and `TQB` ask, and the answer.
-/

namespace Sys2Proof.Queries

open Sys2Proof Sys2Proof.Machine Sys2Proof.Records Sys2Proof.RegionBytes Sys2Proof.StagingBursts Sys2Proof.TableRows
  Sys2Proof.TablePlacement Sys2Proof.QueryRows Sys2Proof.QueryResults

/-! ### Issue (R77, R79, R81) -/

/-- `TQ` or `TQB`. -/
def queryWord (d a : BitVec 6) (tbl : BitVec 4) (ix qb : Bool) (gd : Guard) (ty : Ty) : Instr :=
  if qb then .tqb d a tbl ix gd ty else .tq d a tbl ix gd ty

theorem exec_queryWord (d a : BitVec 6) (tbl : BitVec 4) (ix qb : Bool) (gd : Guard) (ty : Ty) (s : State) :
    exec (queryWord d a tbl ix qb gd ty) s = queryOp qb d a tbl ix gd ty s := by
  cases qb <;> rfl

section Issue

variable {s : State} {g : Group} {p : Path} {w : Word} (h : Issuing s g p w) (d a : BitVec 6) (tbl : BitVec 4) (ix qb : Bool)
  {gd : Guard} (ty : Ty)
include h

theorem query_masked (hact : activeMask p gd = 0) : MovesPath (queryWord d a tbl ix qb gd ty) s g p p.past :=
  movesPath_of h (exec_queryWord d a tbl ix qb gd ty s) (by dsimp only; rw [if_pos hact]; rfl) rfl

theorem query_waits (hact : activeMask p gd ≠ 0) (hfull : 16 ≤ coreQueries s g.core) :
    MovesPath (queryWord d a tbl ix qb gd ty) s g p { p with park := some .issue } :=
  movesPath_of h (exec_queryWord d a tbl ix qb gd ty s) (by dsimp only; rw [if_neg hact, if_pos hfull]; rfl) rfl

/-- The query that a word asks. -/
def asked (s : State) (g : Group) (p : Path) (d a : BitVec 6) (tbl : BitVec 4) (ix qb : Bool) (gd : Guard) (ty : Ty) : Query :=
  { id := s.fresh, task := g.task, gid := g.gid, core := g.core, d := d.toNat, tbl := tbl.toNat, ix := ix, qb := qb, ty := ty,
    pc := seqStart p, lanes := (lanesOf (activeMask p gd)).map fun l => (l, laneReg g l a.toNat), opened := 0 }

theorem query_asks (hact : activeMask p gd ≠ 0) (hroom : coreQueries s g.core < 16) :
    ∃ t, exec (queryWord d a tbl ix qb gd ty) s = .next t ∧ GoesOn s g p p.past t ∧
      t = { s with fresh := s.fresh + 1, groups := t.groups,
                   eng := { s.eng with queries := s.eng.queries ++ [asked s g p d a tbl ix qb gd ty] } } := by
  refine ⟨putPath { (freshId s).2 with eng.queries := s.eng.queries ++ [asked s g p d a tbl ix qb gd ty] } g (advance p),
    ?_, ⟨setPath g (advance p), pathOnly_putPath h g (advance p) rfl rfl rfl, rfl⟩, rfl⟩
  rw [exec_queryWord, queryOp, onPath_next h]
  dsimp only
  rw [if_neg hact, if_neg (by omega)]
  rfl

end Issue

/-! ### Staging (R61, R67, R73 to R75) -/

theorem entryOf_congr {s t : State} (h : t.dram.tableRows = s.dram.tableRows) (q : Query) (block : Nat)
    (decl : Option (Nat × Nat)) (x : Nat) : entryOf t q block decl x = entryOf s q block decl x := by
  cases decl with
  | none => rfl
  | some d => simp only [entryOf, entryValue, h]

/-! ### The answer (R76, R78 to R80, R83) -/

section Answer

variable {s : State} {q : Query} {k : Task}

/-- A query that needs no further row than it opens now is over, and its group takes the results. -/
theorem query_answers (g : Option Group) (hrows : (rowsLeft q (k.block.getD 0) (wanted q (tableDecl k q.tbl))).length ≤ 1)
    (hgood : ∀ r ∈ rowsLeft q (k.block.getD 0) (wanted q (tableDecl k q.tbl)),
      badLane s q (k.block.getD 0) (wanted q (tableDecl k q.tbl)) r = none) :
    ∃ t, advanceQuery s q g k = takeResults t q (k.block.getD 0) (tableDecl k q.tbl) g ∧ Quiet s t ∧
      t.groups = s.groups ∧ t.tasks = s.tasks ∧ t.eng.queries = s.eng.queries.filter fun x => decide (x.id ≠ q.id) := by
  cases hleft : rowsLeft q (k.block.getD 0) (wanted q (tableDecl k q.tbl)) with
  | nil => exact ⟨_, advanceQuery_last hleft, endQuery_quiet s q _⟩
  | cons r more =>
    rw [hleft] at hrows hgood
    have hmore : more = [] := List.length_eq_zero_iff.mp (by simpa using hrows)
    obtain ⟨hquiet, hgroups, htasks, hqueries⟩ := endQuery_quiet (rowOpened s q (k.block.getD 0)
      (wanted q (tableDecl k q.tbl)) r) q (k.block.getD 0)
    exact ⟨_, advanceQuery_finishes hleft (hgood r List.mem_cons_self) hmore, (rowOpened_quiet s q _ _ r).trans hquiet,
      hgroups, htasks, hqueries⟩

/-- A query that needs further rows opens one. -/
theorem query_opens (g : Option Group) (hrows : 2 ≤ (rowsLeft q (k.block.getD 0) (wanted q (tableDecl k q.tbl))).length)
    (hgood : ∀ r ∈ rowsLeft q (k.block.getD 0) (wanted q (tableDecl k q.tbl)),
      badLane s q (k.block.getD 0) (wanted q (tableDecl k q.tbl)) r = none) :
    (advanceQuery s q g k).eng.queries =
        s.eng.queries.map (fun x => if x.id = q.id then { x with opened := x.opened + 1, resumes := false } else x) ∧
      (advanceQuery s q g k).groups = s.groups ∧ (advanceQuery s q g k).tasks = s.tasks ∧ Quiet s (advanceQuery s q g k) := by
  cases hleft : rowsLeft q (k.block.getD 0) (wanted q (tableDecl k q.tbl)) with
  | nil => rw [hleft] at hrows; simp at hrows
  | cons r more =>
    rw [hleft] at hrows hgood
    have hmore : more ≠ [] := by rintro rfl; simp at hrows
    rw [advanceQuery_opens hleft (hgood r List.mem_cons_self) hmore, issueFree]
    obtain ⟨hquiet, hgroups, htasks, heng⟩ := issueQueued_quiet { rowOpened s q (k.block.getD 0)
      (wanted q (tableDecl k q.tbl)) r with
        eng.queries := updWhere s.eng.queries (fun x => decide (x.id = q.id)) opensOne } (entryFree _)
    refine ⟨?_, hgroups, htasks, Quiet.trans (t := rowOpened s q (k.block.getD 0) (wanted q (tableDecl k q.tbl)) r)
      (rowOpened_quiet s q _ _ r) hquiet⟩
    rw [heng]
    simp only [updWhere, decide_eq_true_eq]
    rfl

/-- R83: an uncorrectable burst stops the task, and nothing is written. -/
theorem query_stops {g : Option Group} {r : Nat} {more : List Nat} {x : Nat × Nat} (hk : findTask s q.task = some k)
    (hstop : k.stop = none) (hleft : rowsLeft q (k.block.getD 0) (wanted q (tableDecl k q.tbl)) = r :: more)
    (hbad : badLane s q (k.block.getD 0) (wanted q (tableDecl k q.tbl)) r = some x) :
    findTask (advanceQuery s q g k) q.task =
        some { k with frec := uncorrectable (consumer g x.1).step (consumer g x.1).tid 0 q.pc, stop := some 0x0B } ∧
      (advanceQuery s q g k).groups = s.groups ∧ Quiet s (advanceQuery s q g k) := by
  obtain ⟨hquiet, hgroups, htasks, _⟩ := endQuery_quiet (rowOpened s q (k.block.getD 0) (wanted q (tableDecl k q.tbl)) r) q
    (k.block.getD 0)
  rw [advanceQuery_bad hleft hbad]
  refine ⟨?_, ?_, ?_⟩
  · have hfind : findTask (endQuery (rowOpened s q (k.block.getD 0) (wanted q (tableDecl k q.tbl)) r) q (k.block.getD 0))
        q.task = some k := by rw [findTask, htasks]; exact hk
    rw [findTask_stopWith_same hfind, stopped, hstop]
    rfl
  · rw [stopWith_eq]
    exact hgroups
  · rw [stopWith_eq]
    exact (rowOpened_quiet s q _ _ r).trans hquiet

end Answer

/-- Settles O48: where tables stand and are placed, what a query asks, the order of queries, and one step of a query. -/
theorem queriesReturnTheirEntries : Obligations.QueriesReturnTheirEntries := by
  refine ⟨⟨?_, ?_⟩, ?_⟩
  · intro core b tbl o hcore _ htbl _
    exact tableDpa_fields hcore htbl rfl
  · intro s k b hfind hadmitted hstop hb hb8 hdone hgood hwf hcores table placed hfit hapart
    have hfit' : ∀ (j : Nat) (r : Region), k.decl.regions[j]? = some r → r.kind = .table → r.tbl < 16 ∧ r.size ≤ 16384 :=
      fun j r hr hkind => hfit j r ⟨hr, hkind⟩
    have hapart' : ∀ (i j : Nat) (r r' : Region), k.decl.regions[i]? = some r → r.kind = .table →
        k.decl.regions[j]? = some r' → r'.kind = .table → i ≠ j → r.tbl ≠ r'.tbl :=
      fun i j r r' hr hkind hr' hkind' => hapart i j r r' ⟨hr, hkind⟩ ⟨hr', hkind'⟩
    have hdram := startTask_dram hb s
    refine ⟨startTask s k, taskStaging_starts hfind hadmitted hstop hdone hgood, ?_, ?_, ?_⟩
    · rw [hdram, foldl_place_mem]
    · rintro j r core image ⟨hr, hkind⟩ ⟨_, hplaced⟩ hlen hcome hdata
      rw [hdram]
      exact ⟨fun o v ho => foldl_placings_inside hcores hfit' hapart' s.now hwf hr hkind hplaced hlen ⟨hcome, hdata⟩ ho,
        fun hacts m hm =>
          foldl_placings_rowActs hcores hfit' hapart' s.now hacts hr hkind hplaced hlen ⟨hcome, hdata⟩ hm⟩
    · intro a ha
      rw [hdram]
      exact foldl_placings_outside s.now hwf hcores ha
  · intro s g p w d a tbl ix qb gd ty q k i ask here
    refine ⟨fun h => ⟨?_, ?_, ?_⟩, ?_, ?_⟩
    · exact query_masked h d a tbl ix qb ty
    · exact query_waits h d a tbl ix qb ty
    · exact query_asks h d a tbl ix qb ty
    · intro before after x hlist hn hx hcore htable hk hstop
      have hq : q ∈ s.eng.queries := by rw [hlist]; exact List.mem_append_right _ List.mem_cons_self
      have hgoes : goesBefore x q = true := by simpa [goesBefore, hcore] using .inr htable
      have hbehind := queryBehind_of_before hlist hn hx (queryActs_of hk hstop) hgoes
      exact queryComplete_waits (find_of_nodup hn hq) fun k' _ => by simp [queryMoves, hbehind]
    · intro hq hn hbehind hg hk hstop hlanes hlt n many z block inside entry ws rows quiet
      have hgid : g.gid = q.gid := by simpa using List.find?_some hg
      have hfind := find_of_nodup hn hq
      have hinside : ∀ x j, inside x j ↔ InRange (tableDecl k q.tbl) z (indexAt q.ix x j) := fun x j => by
        cases hdecl : tableDecl k q.tbl <;> simp only [inside, hdecl] <;> exact Iff.rfl
      have hentry : ∀ x j, entry x j = entryOf s q block (tableDecl k q.tbl) (indexAt q.ix x j) := fun x j => by
        cases hdecl : tableDecl k q.tbl <;> simp only [entry, hdecl] <;> rfl
      have hmoves : queryYields s q k = false → exec (.queryComplete q.id) s = .next (advanceQuery s q (some g) k) :=
        fun hyield => by
          rw [← hg]
          exact queryComplete_goes hfind hk (by simp [queryMoves, hbehind, hstop, hyield])
      refine ⟨⟨queryRows_ascending _ _ _, fun r => ?_⟩, ?_, ?_, ?_⟩
      · rw [mem_queryRows]
        constructor
        · rintro ⟨_, hw, rfl⟩
          obtain ⟨x, hx, j, hj, hin, rfl⟩ := mem_wanted.mp hw
          exact ⟨x, hx, j, hj, (hinside _ _).mpr hin, rfl⟩
        · rintro ⟨x, hx, j, hj, hin, rfl⟩
          exact ⟨_, mem_wanted.mpr ⟨x, hx, j, hj, (hinside _ _).mp hin, rfl⟩, rfl⟩
      · intro hyield
        refine queryComplete_waits hfind fun k' hk' => ?_
        obtain rfl : k = k' := Option.some.inj (hk.symm.trans hk')
        simp [queryMoves, hyield]
      · intro hyield r more x hleft hbad
        obtain ⟨htask, hgroups, hquiet⟩ := query_stops (g := some g) hk hstop hleft hbad
        exact ⟨_, _, hmoves hyield, htask, rfl, rfl, rfl, rfl, rfl, hgroups, hquiet⟩
      · intro hyield hgood
        refine ⟨fun hmany => ⟨_, hmoves hyield, query_opens (some g) hmany hgood⟩, fun hfew => ?_⟩
        obtain ⟨t, hadvance, hquiet, hgroups, htasks, hqueries⟩ := query_answers (some g) hfew hgood
        have hgt : findGroup t g.gid = some g := by rw [findGroup, hgroups, hgid]; exact hg
        have hrows := hquiet.2.2.1
        refine ⟨_, writeResults t q block (tableDecl k q.tbl) g, (hmoves hyield).trans (congrArg _ hadvance), ?_, ?_,
          writeResults_frame _ _ _ _ _, writeResults_length _ _ _ _ _, ?_, ?_, ?_, hqueries, htasks, hquiet⟩
        · rw [← hgid]
          exact findGroup_putGroup t g _ rfl hgt
        · intro id hid
          have hother : findGroup (putGroup t (writeResults t q block (tableDecl k q.tbl) g)) id = findGroup t id :=
            findGroup_putGroup_other t _ id (by rw [writeResults, modLanes_gid, hgid]; exact hid)
          exact hother.trans (by rw [findGroup, hgroups]; rfl)
        · exact laneOf_writeResults_rest _ _ hlanes hlt
        · exact fun l hl => laneOf_writeResults_other _ _ hlt hl
        · intro x hx hin was now
          have hlane := laneOf_writeResults (s := t) block (tableDecl k q.tbl) (g := g) hlanes hlt hx hin
          have hqstat : now = qstatAfter (tableDecl k q.tbl) q.ty.size (indicesOf q.ix x.2) was := by
            simp only [now, hlane, answered_qstat]
            rfl
          have hreg : ∀ r, r < 64 → laneReg (writeResults t q block (tableDecl k q.tbl) g) x.1 r =
              if q.d ≤ r ∧ r < q.d + queryRegs q.qb q.ix q.ty then
                (results t q block (tableDecl k q.tbl) x.2).getD (r - q.d) 0 else laneReg g x.1 r := fun r hr => by
            rw [laneReg, hlane, vreg_answered _ _ _ _ _ _ hr]
            rfl
          refine ⟨?_, ?_, ?_, ?_, ?_⟩
          · intro hqb j hj hr
            have hregs : queryRegs q.qb q.ix q.ty = many := by rw [hqb]; rfl
            rw [hreg _ hr, if_pos (by omega), Nat.add_sub_cancel_left, results_widened _ _ _ _ _ hqb hj,
              entryOf_congr hrows, hentry]
          · intro hqb j hj hr
            rw [hreg _ hr, if_pos ⟨by omega, by omega⟩, Nat.add_sub_cancel_left, results_packed _ _ _ _ _ hqb hj,
              entryOf_congr hrows, hentry]
            rfl
          · intro r hr hout
            rw [hreg _ hr, if_neg (by omega)]
          · intro size count hdecl
            rw [hdecl] at hqstat
            refine ⟨fun hz hall => ?_, fun hz j hj hout hfirst => ?_, fun hz => ?_⟩
            · rw [hqstat, qstatAfter_allIn hz hall]
            · rw [qstatAfter_firstOut hz hj hout hfirst] at hqstat
              refine ⟨fun hset => by rw [hqstat, if_pos hset], fun hclear => ?_⟩
              rw [if_neg (by rw [hclear]; exact Bool.false_ne_true)] at hqstat
              rw [hqstat]
              have hcount : many ≤ 4 := by simp only [many]; split <;> omega
              exact notedRange_fields was (Nat.lt_of_lt_of_le hj hcount) (indexAt_lt _ _ _)
            · rw [hqstat, qstatAfter_missized hz]
          · intro hdecl
            rw [hqstat, hdecl]
            rfl

end Sys2Proof.Queries
end

section
/-!
SUPPORT. Bytes and counter cells that an engine request writes (R97, R99, R135), and the counts of sectors that it cannot
read.
-/

namespace Sys2Proof.EngineWrites

open Sys2Proof Sys2Proof.Machine Sys2Proof.Records Sys2Proof.RegionBytes Sys2Proof.StagingBytes

/-! ### Writes under the bank code, in slices without errors -/

/-- From `s` to `u` bytes of the slices have been written, and no symbol is in error. -/
def WritesBytes (s u : State) : Prop := Sound u ∧
  u = { s with sram := { s.sram with mem := u.sram.mem, undo := u.sram.undo, flips := u.sram.flips } }

theorem WritesBytes.trans {s t u : State} (h : WritesBytes s t) (h' : WritesBytes t u) : WritesBytes s u := by
  obtain ⟨_, ht⟩ := h
  obtain ⟨hsound, hu⟩ := h'
  refine ⟨hsound, ?_⟩
  rw [ht] at hu
  exact hu

theorem sectorWrite_writes {s : State} (h : Sound s) (w : Who) (step : Option Nat) (mine : List (Nat × Byte)) (sec : Nat) :
    (sectorWrite s w step mine sec).sram.mem = cellSetAll s.sram.mem mine ∧ WritesBytes s (sectorWrite s w step mine sec) := by
  have hread : readSector s sec = s := by simp [readSector, h.2 sec]
  have hclear : clearErrors s sec = { s with sram.flips := (clearErrors s sec).sram.flips } ∧
      (clearErrors s sec).sram.flips ⊆ s.sram.flips := by
    unfold clearErrors
    split
    · exact ⟨rfl, fun x hx => (List.mem_filter.mp hx).1⟩
    · exact ⟨rfl, List.Subset.refl _⟩
  have hwf := wf_cellSetAll (l := mine) _ h.1
  unfold sectorWrite
  rw [sectorBad_of_sound h sec, hread]
  split
  · obtain ⟨hframe, hflips⟩ := hclear
    have hmem : (clearErrors s sec).sram.mem = s.sram.mem := by rw [hframe]
    have hslices : (clearErrors s sec).sram.slices = s.sram.slices := by rw [hframe]
    refine ⟨congrArg (cellSetAll · mine) hmem, sound_of_flips h ?_ hslices hflips, ?_⟩
    · change Memory.wf (cellSetAll (clearErrors s sec).sram.mem mine) = true
      rw [hmem]
      exact hwf
    · simp only [Bool.false_eq_true, if_false]
      unfold sramWrite
      rw [hframe]
  · refine ⟨rfl, sound_of_flips h hwf rfl (List.Subset.refl _), ?_⟩
    cases step <;> rfl

theorem foldl_sectorWrite_writes (w : Who) (step : Option Nat) {ws : List (Nat × Byte)} (hn : (ws.map (·.1)).Nodup)
    (secs : List Nat) {s : State} (h : Sound s) :
    let u := secs.foldl (fun s sec => sectorWrite s w step (ws.filter fun x => decide (sectorOf x.1 = sec)) sec) s
    WritesBytes s u ∧ (∀ i, (∀ x ∈ ws, x.1 ≠ i) → cellGet u.sram.mem i = cellGet s.sram.mem i) ∧
      ∀ x ∈ ws, cellGet u.sram.mem x.1 = if sectorOf x.1 ∈ secs then x.2 else cellGet s.sram.mem x.1 := by
  induction secs generalizing s with
  | nil => exact ⟨⟨h, rfl⟩, fun _ _ => rfl, fun _ _ => by simp⟩
  | cons sec secs ih =>
    obtain ⟨hmem, hwrites⟩ := sectorWrite_writes h w step (ws.filter fun x => decide (sectorOf x.1 = sec)) sec
    obtain ⟨hrest, hout, hin⟩ := ih hwrites.1
    have hmine : ∀ x ∈ ws, cellGet (cellSetAll s.sram.mem (ws.filter fun x => decide (sectorOf x.1 = sec))) x.1 =
        if sectorOf x.1 = sec then x.2 else cellGet s.sram.mem x.1 := by
      intro x hx
      split
      case isTrue hsec =>
        exact cellGet_cellSetAll _ _ h.1 (List.Nodup.sublist (List.filter_sublist.map _) hn) x
          (List.mem_filter.mpr ⟨hx, decide_eq_true hsec⟩)
      case isFalse hsec =>
        refine cellGet_cellSetAll_other _ _ h.1 _ fun y hy hyx => hsec ?_
        rw [← hyx]
        exact of_decide_eq_true (List.mem_filter.mp hy).2
    refine ⟨hwrites.trans hrest, fun i hi => ?_, fun x hx => ?_⟩
    · rw [List.foldl_cons, hout i hi, hmem]
      exact cellGet_cellSetAll_other _ _ h.1 i fun x hx => hi x (List.mem_filter.mp hx).1
    · rw [List.foldl_cons, hin x hx, hmem, hmine x hx]
      by_cases hlater : sectorOf x.1 ∈ secs <;> by_cases hsec : sectorOf x.1 = sec <;> simp [hlater, hsec]

/-- A write of distinct bytes writes each, and no other. -/
theorem guardedWrite_writes {s : State} (h : Sound s) (w : Who) (step : Option Nat) {ws : List (Nat × Byte)}
    (hn : (ws.map (·.1)).Nodup) : WritesBytes s (guardedWrite s w step ws) ∧
      (∀ x ∈ ws, cellGet (guardedWrite s w step ws).sram.mem x.1 = x.2) ∧
      ∀ i, (∀ x ∈ ws, x.1 ≠ i) → cellGet (guardedWrite s w step ws).sram.mem i = cellGet s.sram.mem i := by
  obtain ⟨hwrites, hout, hin⟩ := foldl_sectorWrite_writes w step hn (sectorsOf ws) h
  refine ⟨hwrites, fun x hx => ?_, hout⟩
  have hsec : sectorOf x.1 ∈ sectorsOf ws := List.mem_dedup.mpr (List.mem_map_of_mem hx)
  exact (hin x hx).trans (if_pos hsec)

/-! ### Counter cells (R99) -/

/-- The addresses of a counter cell. -/
def cellBytes (a : Nat) : List Nat := (List.range 4).map fun j => a + j

theorem mem_cellBytes {a b : Nat} : b ∈ cellBytes a ↔ a ≤ b ∧ b < a + 4 := by
  simp only [cellBytes, List.mem_map, List.mem_range]
  constructor
  · rintro ⟨j, hj, rfl⟩
    omega
  · rintro ⟨h, h'⟩
    exact ⟨b - a, by omega, by omega⟩

theorem counted_counterWord (w : Word) (n code : Nat) : Counted w (counterWord w n code) n code := by
  have hw : w.toNat < 2 ^ 32 := w.isLt
  have hcount : (w.toNat % 2 ^ 24 + 2 ^ 24 - n % 2 ^ 24) % 2 ^ 24 < 2 ^ 24 := Nat.mod_lt _ (Nat.two_pow_pos 24)
  have herr : (if w.toNat / 2 ^ 24 = 0 then code % 256 else w.toNat / 2 ^ 24) < 256 := by split <;> omega
  have hnat : (counterWord w n code).toNat = (w.toNat % 2 ^ 24 + 2 ^ 24 - n % 2 ^ 24) % 2 ^ 24 +
      2 ^ 24 * (if w.toNat / 2 ^ 24 = 0 then code % 256 else w.toNat / 2 ^ 24) := by
    rw [counterWord]
    simp only [BitVec.toNat_ofNat]
    omega
  constructor
  · rw [hnat]
    omega
  · rw [hnat]
    omega

/-- From `s` to `u` a counter cell has been updated, its watches have been tested, and no symbol is in error. -/
def UpdatesCell (s u : State) : Prop := Sound u ∧ u = { s with
  groups := u.groups, sram := { s.sram with mem := u.sram.mem, undo := u.sram.undo, flips := u.sram.flips } }

theorem counterUpdate_counts {s : State} (h : Sound s) (w : Who) (a n code : Nat) :
    UpdatesCell s (counterUpdate s w (some a) n code) ∧
      Counted (wordAt s.sram.mem a) (wordAt (counterUpdate s w (some a) n code).sram.mem a) n code ∧
      ∀ b, b ∉ cellBytes a → cellGet (counterUpdate s w (some a) n code).sram.mem b = cellGet s.sram.mem b := by
  have hread : readSector s (sectorOf a) = s := by simp [readSector, h.2]
  have heq : counterUpdate s w (some a) n code = rewatch (guardedWrite s w none
      (addressed a (bytesOfNat 4 (counterWord (wordAt s.sram.mem a) n code).toNat))) := by
    unfold counterUpdate
    dsimp only
    rw [hread]
  obtain ⟨⟨hsound, hframe⟩, hin, hout⟩ := guardedWrite_writes h w none (addressed_nodup a
    (bytesOfNat 4 (counterWord (wordAt s.sram.mem a) n code).toNat))
  rw [heq]
  generalize guardedWrite s w none (addressed a (bytesOfNat 4 (counterWord (wordAt s.sram.mem a) n code).toNat)) = u at *
  refine ⟨⟨hsound, ?_⟩, ?_, fun b hb => hout b fun x hx hxb => hb ?_⟩
  · rw [hframe]
    rfl
  · have hword : wordAt u.sram.mem a = BitVec.ofNat 32 (counterWord (wordAt s.sram.mem a) n code).toNat := by
      refine wordAt_eq_of_bytes fun o ho => ?_
      have hmem : (a + o, byteAt (counterWord (wordAt s.sram.mem a) n code).toNat o) ∈
          addressed a (bytesOfNat 4 (counterWord (wordAt s.sram.mem a) n code).toNat) := by
        refine mem_addressed.mpr ⟨o, by simpa using ho, ?_⟩
        rw [List.getD_eq_getElem?_getD, bytesOfNat_getElem? ho, Option.getD_some]
      exact hin _ hmem
    change Counted _ (wordAt u.sram.mem a) n code
    rw [hword, BitVec.ofNat_toNat, BitVec.setWidth_eq]
    exact counted_counterWord _ n code
  · obtain ⟨o, ho, rfl⟩ := mem_addressed.mp hx
    rw [bytesOfNat_length] at ho
    exact mem_cellBytes.mpr ⟨by omega, by omega⟩

/-! ### Parties that have ended (R101, R127) -/

theorem releaseParties_frame (s : State) (task : Nat) : releaseParties s task = { s with
    sram := { s.sram with
      owners := (releaseParties s task).sram.owners, undo := (releaseParties s task).sram.undo
      copies := (releaseParties s task).sram.copies } } := by
  have hone : ∀ (s : State) (party : Nat), releaseParty s task party = { s with
      sram := { s.sram with
        owners := (releaseParty s task party).sram.owners, undo := (releaseParty s task party).sram.undo
        copies := (releaseParty s task party).sram.copies } } := by
    intro s party
    unfold releaseParty
    split
    · rfl
    · dsimp only
      split <;> rfl
  have hfold : ∀ (xs : List PartyPlace) (s : State), xs.foldl (fun s x => releaseParty s task x.index) s = { s with
      sram := { s.sram with
        owners := (xs.foldl (fun s x => releaseParty s task x.index) s).sram.owners
        undo := (xs.foldl (fun s x => releaseParty s task x.index) s).sram.undo
        copies := (xs.foldl (fun s x => releaseParty s task x.index) s).sram.copies } } := by
    intro xs
    induction xs with
    | nil => exact fun s => rfl
    | cons x xs ih =>
      intro s
      rw [List.foldl_cons, ih, hone]
  unfold releaseParties
  split
  · split
    · exact hfold _ s
    · rfl
  · rfl

/-! ### Sectors that cannot be decoded (R135) -/

theorem sliceReg_slice (s : State) (j : Nat) : (sliceReg s j).slice = j := by
  unfold sliceReg
  cases h : s.sram.slices.find? fun r => decide (r.slice = j) with
  | none => rfl
  | some r => simpa using List.find?_some h

theorem sliceReg_congr {s t : State} (h : t.sram.slices = s.sram.slices) (j : Nat) : sliceReg t j = sliceReg s j := by
  rw [sliceReg, sliceReg, h]

theorem sliceReg_putSliceReg (s : State) (r : SliceReg) (j : Nat) :
    sliceReg (putSliceReg s r) j = if r.slice = j then r else sliceReg s j := by
  unfold sliceReg putSliceReg
  dsimp only
  rw [List.find?_append]
  split
  case isTrue h =>
    subst h
    have hnone : (s.sram.slices.filter fun x => decide (x.slice ≠ r.slice)).find? (fun x => decide (x.slice = r.slice)) =
        none := List.find?_eq_none.mpr fun x hx => by simpa using (List.mem_filter.mp hx).2
    rw [hnone]
    simp
  case isFalse h =>
    have hrest : (s.sram.slices.filter fun x => decide (x.slice ≠ r.slice)).find? (fun x => decide (x.slice = j)) =
        s.sram.slices.find? fun x => decide (x.slice = j) := by
      rw [List.find?_filter]
      congr 1
      funext x
      by_cases hx : x.slice = j
      · simp [hx, Ne.symm h]
      · simp [hx]
    rw [hrest]
    simp [h]

theorem unc_readSector (s : State) (sec j : Nat) : (sliceReg (readSector s sec) j).unc = (sliceReg s j).unc := by
  have hrewrite : ∀ c, (rewriteSector s sec c).sram.slices = s.sram.slices := by
    intro c
    unfold rewriteSector clearErrors
    split <;> rfl
  unfold readSector
  split
  · rfl
  · split
    · rfl
    · rw [sliceReg_putSliceReg]
      split
      case isTrue h =>
        have hj : sliceOf (sec * 32) = j := (sliceReg_slice s _).symm.trans h
        rw [hj]
      case isFalse => rw [sliceReg_congr (hrewrite _)]
    · rw [sliceReg_congr (hrewrite _)]
    · rw [sliceReg_congr (hrewrite _)]

theorem unc_foldl_readSector (l : List Nat) (s : State) (j : Nat) :
    (sliceReg (l.foldl readSector s) j).unc = (sliceReg s j).unc := by
  induction l generalizing s with
  | nil => rfl
  | cons sec l ih => rw [List.foldl_cons, ih, unc_readSector]

theorem unc_countBad (s : State) (sec j : Nat) : (sliceReg (countBad s sec) j).unc =
    if sliceOf (sec * 32) = j then min ((sliceReg s j).unc + 1) 255 else (sliceReg s j).unc := by
  unfold countBad
  dsimp only
  rw [sliceReg_putSliceReg]
  dsimp only
  rw [sliceReg_slice]
  split
  case isTrue h => rw [h]
  case isFalse => rfl

/-- Each sector that is counted adds one to its slice's count, which stops at 255. -/
theorem unc_foldl_countBad (l : List Nat) (s : State) (j : Nat) : (sliceReg (l.foldl countBad s) j).unc =
    if (l.filter fun y => decide (sliceOf (y * 32) = j)).length = 0 then (sliceReg s j).unc
    else min ((sliceReg s j).unc + (l.filter fun y => decide (sliceOf (y * 32) = j)).length) 255 := by
  induction l generalizing s with
  | nil => simp
  | cons sec l ih =>
    rw [List.foldl_cons, ih, unc_countBad]
    by_cases hsec : sliceOf (sec * 32) = j
    · rw [if_pos hsec, List.filter_cons_of_pos (by simpa using hsec), List.length_cons, if_neg (Nat.succ_ne_zero _)]
      split <;> omega
    · rw [if_neg hsec, List.filter_cons_of_neg (by simpa using hsec)]

theorem foldl_readSector_frame (l : List Nat) (s : State) :
    l.foldl readSector s = { s with sram := (l.foldl readSector s).sram } := by
  induction l generalizing s with
  | nil => rfl
  | cons sec l ih => rw [List.foldl_cons, ih, readSector_frame]

theorem foldl_readSector_sound {s : State} (h : Sound s) (l : List Nat) : l.foldl readSector s = s := by
  induction l with
  | nil => rfl
  | cons sec l ih =>
    have hread : readSector s sec = s := by simp [readSector, h.2 sec]
    rw [List.foldl_cons, hread, ih]

end Sys2Proof.EngineWrites
end

section
/-!
SUPPORT. Where a burst goes once it is sent (R20, R65, R283 to R286, R295, R299 to R301): its translation, the stacks, host
memory and the fabric.
-/

namespace Sys2Proof.BurstWays

open Sys2Proof Sys2Proof.Machine Sys2Proof.StagingBytes Sys2Proof.TableRows Sys2Proof.FarSide

/-! ### Access counters (R286) -/

/-- Whether a counter counts the accesses of a PASID to a place on an I/O die. -/
abbrev CountsFor (die pasid place : Nat) (y : AccessCounter) : Prop :=
  y.die = die ∧ y.pasid = pasid ∧ y.block = place / 65536

/-- A counter of one access. -/
def firstAccess (die pasid place : Nat) : AccessCounter := { die := die, pasid := pasid, block := place / 65536, count := 1 }

/-- The counter with the lower count, the first of two with one count. -/
def lower (b c : AccessCounter) : AccessCounter := if c.count < b.count then c else b

theorem foldl_lower (l : List AccessCounter) (b : AccessCounter) : (l.foldl lower b = b ∨ l.foldl lower b ∈ l) ∧
    (l.foldl lower b).count ≤ b.count ∧ ∀ y ∈ l, (l.foldl lower b).count ≤ y.count := by
  induction l generalizing b with
  | nil => exact ⟨.inl rfl, Nat.le_refl _, fun y hy => absurd hy List.not_mem_nil⟩
  | cons c l ih =>
    obtain ⟨hmem, hle, hall⟩ := ih (lower b c)
    have hpick : lower b c = b ∨ lower b c = c := by unfold lower; split <;> simp
    have hb : (lower b c).count ≤ b.count := by unfold lower; split <;> omega
    have hc : (lower b c).count ≤ c.count := by unfold lower; split <;> omega
    refine ⟨?_, Nat.le_trans hle hb, fun y hy => ?_⟩
    · rcases hmem with hmem | hmem
      · rw [List.foldl_cons, hmem]
        exact hpick.imp_right fun h => List.mem_cons.mpr (.inl h)
      · exact .inr (List.mem_cons_of_mem c hmem)
    · rcases List.mem_cons.mp hy with rfl | hy
      · exact Nat.le_trans hle hc
      · exact hall y hy

section Counters

variable (x : Xlate) (die pasid va : Nat)

theorem countsFor_eq (y : AccessCounter) : (decide (y.die = die) && decide (y.pasid = pasid) &&
    decide (y.block = va / 65536)) = decide (CountsFor die pasid va y) := by
  rw [Bool.eq_iff_iff]
  simp only [Bool.and_eq_true, decide_eq_true_eq, and_assoc]

variable {x die pasid va}

theorem countAccess_known (h : ∃ y ∈ x.counters, CountsFor die pasid va y) : (countAccess x die pasid va).counters =
    x.counters.map fun y => if CountsFor die pasid va y then { y with count := y.count + 1 } else y := by
  unfold countAccess updWhere
  simp only [countsFor_eq]
  have hany : (x.counters.any fun y => decide (CountsFor die pasid va y)) = true := by simpa using h
  rw [if_pos hany]
  simp only [decide_eq_true_eq]

section New

variable (h : ∀ y ∈ x.counters, ¬ CountsFor die pasid va y)
include h

theorem none_counts : (x.counters.any fun y => decide (CountsFor die pasid va y)) = false :=
  List.any_eq_false.mpr fun y hy => by simpa using h y hy

theorem countAccess_room (hroom : (x.counters.filter fun y => decide (y.die = die)).length < 4096) :
    (countAccess x die pasid va).counters = x.counters ++ [firstAccess die pasid va] := by
  unfold countAccess
  simp only [countsFor_eq]
  rw [none_counts h, if_neg Bool.false_ne_true, if_pos hroom]
  rfl

theorem countAccess_full (hfull : 4096 ≤ (x.counters.filter fun y => decide (y.die = die)).length) :
    ∃ low ∈ x.counters, low.die = die ∧ (∀ y ∈ x.counters, y.die = die → low.count ≤ y.count) ∧
      ∀ y, y ∈ (countAccess x die pasid va).counters ↔ (y ∈ x.counters ∧ y ≠ low) ∨ y = firstAccess die pasid va := by
  have heq : (countAccess x die pasid va).counters = (x.counters.filter fun y => !decide (y =
      (x.counters.filter fun y => decide (y.die = die)).foldl lower
        ((x.counters.filter fun y => decide (y.die = die)).headD (firstAccess die pasid va)))) ++
      [firstAccess die pasid va] := by
    unfold countAccess
    simp only [countsFor_eq]
    rw [none_counts h, if_neg Bool.false_ne_true, if_neg (by omega)]
    rfl
  have hhead : ∃ y l, (x.counters.filter fun y => decide (y.die = die)) = y :: l :=
    List.exists_cons_of_length_pos (by omega)
  obtain ⟨y, l, hmine⟩ := hhead
  obtain ⟨hmem, hle, hall⟩ := foldl_lower (y :: l) y
  have hin : (y :: l).foldl lower y ∈ x.counters.filter fun y => decide (y.die = die) := by
    rw [hmine]
    exact hmem.elim (fun h => List.mem_cons.mpr (.inl h)) id
  rw [heq, hmine, List.headD_cons]
  obtain ⟨hlow, hdie⟩ := List.mem_filter.mp hin
  refine ⟨_, hlow, of_decide_eq_true hdie, fun z hz hzdie => ?_, fun z => ?_⟩
  · refine hall z ?_
    rw [← hmine]
    exact List.mem_filter.mpr ⟨hz, decide_eq_true hzdie⟩
  · simp only [List.mem_append, List.mem_filter, List.mem_singleton, Bool.not_eq_true', decide_eq_false_iff_not, ne_eq]

end New

end Counters

/-! ### Translation (R283, R284) -/

section Ways

variable {s : State} {c : Client} {va : Nat} {write : Option (List Byte)} {len : Nat}

theorem translated_missing (h : translate s.xlate c.front (tractOf c.core) c.pasid va write.isSome = none) :
    translated s c va write len =
      ({ s with xlate := askAts s.xlate (tractOf c.core) c.pasid (pageOf va) write.isSome }, .ats 0) := by
  rw [translated, h]

theorem translated_found {hpa : Nat} {xl : Xlate}
    (h : translate s.xlate c.front (tractOf c.core) c.pasid va write.isSome = some (hpa, xl)) :
    translated s c va write len = physical { s with xlate := xl } c va write hpa len := by
  rw [translated, h]

theorem askAts_frame (x : Xlate) (tract pasid page : Nat) (write : Bool) :
    askAts x tract pasid page write = { x with asked := (askAts x tract pasid page write).asked } := by
  unfold askAts
  split <;> rfl

theorem askAts_known {x : Xlate} {tract pasid page : Nat} {write : Bool} (h : (tract, pasid, page, write) ∈ x.asked) :
    (askAts x tract pasid page write).asked = x.asked := by
  unfold askAts
  rw [if_pos (List.contains_iff_mem.mpr h)]

theorem askAts_new {x : Xlate} {tract pasid page : Nat} {write : Bool} (h : (tract, pasid, page, write) ∉ x.asked) :
    (askAts x tract pasid page write).asked = x.asked ++ [(tract, pasid, page, write)] := by
  unfold askAts
  rw [if_neg fun hin => h (List.contains_iff_mem.mp hin)]

/-! ### The stacks and host memory (R65, R286, R295) -/

theorem hdmOf_device {h : HostSide} {dpa : Nat} (hd : dpa < hdmSize) : hdmOf h (h.hpa0 + dpa) = some dpa := by
  rw [hdmOf, if_pos (by omega), Nat.add_sub_cancel_left]

theorem hdmOf_host {h : HostSide} {hpa : Nat} (hh : hpa < h.hpa0 ∨ h.hpa0 + hdmSize ≤ hpa) : hdmOf h hpa = none := by
  rw [hdmOf, if_neg (by omega)]

theorem physical_snoop {dpa : Nat} (hd : dpa < hdmSize) (htracked : burstOf dpa ∈ s.host.tracked)
    (hdata : write ≠ some []) : physical s c va write (s.host.hpa0 + dpa) len =
      ({ s with host := sendSnoop s.host (burstOf dpa) write.isSome }, .snoop dpa) := by
  rw [physical, hdmOf_device hd]
  dsimp only
  rw [if_pos (by simp [htracked, hdata])]

theorem physical_stacks {dpa : Nat} (hd : dpa < hdmSize) (hfree : queueFree s dpa = true)
    (hgo : burstOf dpa ∉ s.host.tracked ∨ write = some []) :
    physical s c va write (s.host.hpa0 + dpa) len = stackAccess s c write dpa len := by
  rw [physical, hdmOf_device hd]
  dsimp only
  rw [if_neg (by rcases hgo with h | h <;> simp [h]), if_pos hfree]

theorem physical_host {hpa : Nat} (hh : hpa < s.host.hpa0 ∨ s.host.hpa0 + hdmSize ≤ hpa) :
    physical s c va write hpa len = hostAccess s c va write hpa len := by
  rw [physical, hdmOf_host hh]

theorem sendSnoop_known {h : HostSide} {burst : Nat} {inv : Bool} (hin : (burst, inv) ∈ h.snoops) :
    sendSnoop h burst inv = h := by
  unfold sendSnoop
  rw [if_pos (List.contains_iff_mem.mpr hin)]

theorem sendSnoop_new {h : HostSide} {burst : Nat} {inv : Bool} (hin : (burst, inv) ∉ h.snoops) :
    sendSnoop h burst inv = { h with snoops := h.snoops ++ [(burst, inv)] } := by
  unfold sendSnoop
  rw [if_neg fun h => hin (List.contains_iff_mem.mp h)]

/-! ### The fabric (R299 to R301) -/

theorem isFabric_iff : isFabric va = true ↔ va / 2 ^ 63 % 2 = 1 := decide_eq_true_iff

theorem farBurst_direct (h : isFabric va = false) : farBurst s c write va len = translated s c va write len := by
  rw [farBurst, h, if_neg Bool.false_ne_true]

section Bound

variable (hfabric : isFabric va = true)
include hfabric

/-- The binding of a fabric address. -/
def boundTo (s : State) (part va : Nat) : Option Binding :=
  s.fabric.bindings.find? fun b => decide (b.part = part) && decide (b.dev = devOf va)

theorem farBurst_unbound (h : boundTo s c.part va = none) : farBurst s c write va len = (s, .failed 4) := by
  unfold boundTo at h
  rw [farBurst, hfabric, if_pos rfl, h]

variable {b : Binding} (h : boundTo s c.part va = some b)
include h

theorem farBurst_own (hdev : devOf va = s.fabric.dev) {p : Partition} (hp : findPart s b.peer = some p)
    (hr : b.peer ∉ s.host.resetting) : farBurst s c write va len =
      translated s { c with pasid := b.pasid, dom := p.dom } (rvaOf va) write len := by
  have hanswers : answers s b.peer = true := by simp [answers, hp, hr]
  unfold boundTo at h
  rw [farBurst, hfabric, if_pos rfl, h]
  dsimp only
  rw [if_pos hdev, hanswers, hp]
  rfl

theorem farBurst_silent (hdev : devOf va = s.fabric.dev) (hno : findPart s b.peer = none ∨ b.peer ∈ s.host.resetting) :
    farBurst s c write va len = (s, .failed 4) := by
  have hanswers : answers s b.peer = false := by rcases hno with hno | hno <;> simp [answers, hno]
  unfold boundTo at h
  rw [farBurst, hfabric, if_pos rfl, h]
  dsimp only
  rw [if_pos hdev, hanswers]
  rfl

theorem farBurst_unreachable (hdev : devOf va ≠ s.fabric.dev) (hno : devOf va ∉ s.fabric.reachable) :
    farBurst s c write va len = (s, .failed 4) := by
  unfold boundTo at h
  rw [farBurst, hfabric, if_pos rfl, h]
  dsimp only
  rw [if_neg hdev, if_neg fun hin => hno (List.contains_iff_mem.mp hin)]

theorem farBurst_sends (hdev : devOf va ≠ s.fabric.dev) (hreach : devOf va ∈ s.fabric.reachable) :
    farBurst s c write va len = sendFabric s c b va write len := by
  unfold boundTo at h
  rw [farBurst, hfabric, if_pos rfl, h]
  dsimp only
  rw [if_neg hdev, if_pos (List.contains_iff_mem.mpr hreach)]

end Bound

end Ways

end Sys2Proof.BurstWays
end

section
/-!
SUPPORT. A copy sends a burst (R63, R65, R98, R100): what becomes of the burst, and what of its task.
-/

namespace Sys2Proof.CopyRequests

open Sys2Proof Sys2Proof.Machine Sys2Proof.Records Sys2Proof.StagingBytes Sys2Proof.FarSide Sys2Proof.EngineWrites
  Sys2Proof.BurstWays

/-! ### The bytes that an outbound burst carries -/

theorem writeData_isSome (c : Copy) (x : Burst) : (c.writeData x).isSome = c.outbound := by
  unfold Copy.writeData
  cases c.outbound <;> rfl

theorem writeData_inbound {c : Copy} (h : c.outbound = false) (x : Burst) : c.writeData x = none := by
  simp [Copy.writeData, h]

theorem writeData_sound {c : Copy} {x : Burst} (h : c.outbound = true) (hsound : c.badFor x = []) :
    c.writeData x = some (c.farBytes (c.nearData.getD []) x) := by
  simp [Copy.writeData, h, hsound]

theorem writeData_bad {c : Copy} {x : Burst} (h : c.outbound = true) (hbad : c.badFor x ≠ []) : c.writeData x = some [] := by
  simp [Copy.writeData, h, hbad]

theorem outbound_of_bad {c : Copy} {x : Burst} (h : c.badFor x ≠ []) : c.outbound = true := by
  by_contra hno
  exact h (badFor_inbound (by simpa using hno) x)

@[simp] theorem farBytes_length (c : Copy) (near : List Byte) (b : Burst) : (c.farBytes near b).length = c.burstLen b := by
  simp [Copy.farBytes]

theorem badOf_eq {c : Copy} {n : Nat} {x : Burst} (hx : c.bursts[n]? = some x) : c.badOf n = c.badFor x := by
  simp [Copy.badOf, hx]

/-! ### Sending -/

/-- The client of a burst of a copy. -/
def copyClient (k : Task) (q : Partition) (c : Copy) (n : Nat) : Client :=
  { part := k.part, pasid := q.pasid, dom := q.dom, handle := k.handle, core := c.head.core, front := .copy c.head.core,
    req := c.head.id, n := n }

/-- What a burst that is sent meets at the far side, and with its near bytes decided. -/
def met (s : State) (k : Task) (q : Partition) (c : Copy) (n : Nat) (x : Burst) : State × BurstState :=
  if (c.badFor x).isEmpty then farBurst s (copyClient k q c n) (c.writeData x) x.va (c.burstLen x)
  else withoutData s (farBurst s (copyClient k q c n) (c.writeData x) x.va (c.burstLen x))

/-- Whether copies stand as they stood, and their tasks. -/
def KeepsCopies (s u : State) : Prop := u = { s with xlate := u.xlate, dram := u.dram, host := u.host, fabric := u.fabric }

theorem KeepsCopies.sram {s u : State} (h : KeepsCopies s u) : u.sram = s.sram := by
  unfold KeepsCopies at h
  rw [h]

theorem KeepsCopies.tasks {s u : State} (h : KeepsCopies s u) : u.tasks = s.tasks := by
  unfold KeepsCopies at h
  rw [h]

theorem farBurst_keepsCopies (s : State) (c : Client) (write : Option (List Byte)) (va len : Nat) :
    KeepsCopies s (farBurst s c write va len).1 := farBurst_frame s c write va len

theorem withoutData_keepsCopies {s : State} {r : State × BurstState} (h : KeepsCopies s r.1) :
    KeepsCopies s (withoutData s r).1 := by
  unfold withoutData
  split
  case h_5 => exact rfl
  all_goals exact h

theorem met_keepsCopies (s : State) (k : Task) (q : Partition) (c : Copy) (n : Nat) (x : Burst) :
    KeepsCopies s (met s k q c n x).1 := by
  unfold met
  split
  · exact farBurst_keepsCopies ..
  · exact withoutData_keepsCopies (farBurst_keepsCopies ..)

section Sound

variable {s : State} {k : Task} {q : Partition} {c : Copy} {n : Nat} {x : Burst}

theorem met_sound (h : c.badFor x = []) :
    met s k q c n x = farBurst s (copyClient k q c n) (c.writeData x) x.va (c.burstLen x) := by
  rw [met, h]
  rfl

/-- The outcomes that come before the near bytes are read. -/
def Early (st : BurstState) : Prop := (∃ code, st = .failed code) ∨ (∃ tries, st = .ats tries)

theorem met_early (h : Early (farBurst s (copyClient k q c n) (c.writeData x) x.va (c.burstLen x)).2) :
    met s k q c n x = farBurst s (copyClient k q c n) (c.writeData x) x.va (c.burstLen x) := by
  unfold met
  generalize farBurst s (copyClient k q c n) (c.writeData x) x.va (c.burstLen x) = r at *
  obtain ⟨u, st⟩ := r
  split
  · rfl
  · rcases h with ⟨code, rfl⟩ | ⟨tries, rfl⟩ <;> rfl

theorem met_accepted (h : c.badFor x ≠ [])
    (hgo : (farBurst s (copyClient k q c n) (c.writeData x) x.va (c.burstLen x)).2 = .accepted) :
    met s k q c n x = (s, .failed 3) := by
  rw [met, if_neg (by simpa using h), withoutData, hgo]

end Sound

section Sends

variable {s : State} {k : Task} {q : Partition} {c : Copy} {n : Nat} {x : Burst} (hfind : findCopy s c.head.id = some c)
  (htask : findTask s c.head.task = some k) (hstop : k.stop = none) (hrun : k.state = .running) (hsave : k.saving = false)
  (hx : c.bursts[n]? = some x)

include htask hstop hrun in
theorem taskActs_of : taskActs s c.head.task = true := by
  simp [taskActs, landsAllowed, htask, hstop, hrun]

include htask hstop hrun hsave in
theorem copyActs_of : copyActs s c = true := by
  simp [copyActs, taskStarts, taskActs_of htask hstop hrun, htask, hsave]

include hfind htask hstop hrun hsave hx

theorem pchRequest_sends (htodo : x.state = .todo) (hnear : c.outbound = true → c.nearData.isSome = true) :
    exec (.pchRequest c.head.id n) s = .next (requestCopy s c n x) := by
  have hsends : copySends s c x = true := by
    have hout : (!c.outbound || c.nearData.isSome) = true := by
      cases hb : c.outbound
      · rfl
      · rw [hnear hb]
        rfl
    rw [copySends, htodo, copyActs_of htask hstop hrun hsave, hout]
    rfl
  change execPchRequest c.head.id n s = _
  unfold execPchRequest
  rw [hfind]
  dsimp only
  rw [hx]
  dsimp only
  rw [if_pos hsends]

omit hfind hstop hrun hsave hx in
theorem requestCopy_outside (hfar : c.farOk k x = false) : requestCopy s c n x = copyOutcome c n (s, .failed 5) := by
  rw [requestCopy, htask]
  dsimp only
  rw [hfar]
  rfl

omit hfind hstop hrun hsave hx in
theorem requestCopy_met (hpart : findPart s k.part = some q) (hfar : c.farOk k x = true) :
    requestCopy s c n x = copyOutcome c n (met s k q c n x) := by
  have hclient : clientOf s c.head (.copy c.head.core) n = copyClient k q c n := by
    rw [clientOf, htask, Option.getD_some, hpart]
    rfl
  rw [requestCopy, htask]
  dsimp only
  rw [hfar, hclient]
  rfl

omit htask hstop hrun hsave in
/-- A burst that goes on, fails or has come, but is not lost to an uncorrectable error. -/
theorem copyOutcome_next {u : State} {st : BurstState} (hu : KeepsCopies s u) (hgood : st ≠ .failed 3)
    (hkeep : st = .accepted → c.badFor x = []) : ∃ t, copyOutcome c n (u, st) = t ∧
      findCopy t c.head.id = some { c with bursts := c.bursts.set n { x with state := st } } ∧
      t = { u with eng := t.eng } ∧ t.sram = s.sram ∧ t.tasks = s.tasks := by
  have hcopy : findCopy u c.head.id = some c := by rw [hu]; exact hfind
  have hout : c.outcome n st = st := by
    by_cases h : st = .accepted
    · exact outcome_sound (by rw [badOf_eq hx, hkeep h]) st
    · exact outcome_other c n h
  refine ⟨_, rfl, findCopy_copyOutcome hcopy hx hout hgood, ?_, ?_, ?_⟩
  · rw [copyOutcome_goes hout hgood]
    rfl
  · rw [copyOutcome_goes hout hgood]
    exact hu.sram
  · rw [copyOutcome_goes hout hgood]
    exact hu.tasks

omit hsave in
/-- A burst lost to an uncorrectable error: the task stops, and the code of the first burst that failed is entered in the
counter cell (R100). -/
theorem copyOutcome_lost (hsound : Sound s) {u : State} (hu : KeepsCopies s u) :
    ∃ t k', copyOutcome c n (u, .failed 3) = t ∧
      findCopy t c.head.id = some { c with bursts := c.bursts.set n { x with state := .failed 3 } } ∧
      findTask t c.head.task = some k' ∧ k'.stop = some 0x0B ∧ k'.frec.kind = 0x0B ∧
      k'.frec.addr = BitVec.ofNat 32 ((c.badFor x).headD 0 * 32) ∧ t.dram = u.dram ∧
      (c.cnt = none → t.sram.mem = s.sram.mem) ∧
      ∀ a, c.cnt = some a → Counted (wordAt s.sram.mem a) (wordAt t.sram.mem a) 0
          (errorCode (c.bursts.set n { x with state := .failed 3 })) ∧
        ∀ b, b ∉ cellBytes a → cellGet t.sram.mem b = cellGet s.sram.mem b := by
  have hcopy : findCopy u c.head.id = some c := by rw [hu]; exact hfind
  have hout : c.outcome n (.failed 3) = .failed 3 := outcome_other c n (by simp)
  generalize hc1 : ({ c with bursts := setBurst c.bursts n (.failed 3) } : Copy) = c1
  have hhead : c1.head = c.head := by rw [← hc1]
  have hcnt : c1.cnt = c.cnt := by rw [← hc1]
  have hbursts : c1.bursts = c.bursts.set n { x with state := .failed 3 } := by rw [← hc1, ← setBurst_eq_set hx]
  have hc1' : c1 = { c with bursts := c.bursts.set n { x with state := .failed 3 } } := by
    rw [← hc1, setBurst_eq_set hx]
  have heq : copyOutcome c n (u, .failed 3) = stopCopy (failCopy (putCopy u c1) c1) c.head (c.badFor x) := by
    unfold copyOutcome
    dsimp only
    rw [hout, hc1, if_pos rfl, badOf_eq hx]
  have hput : putCopy u c1 = { u with eng := (putCopy u c1).eng } := rfl
  have htask' : findTask (putCopy u c1) c.head.task = some k := by
    rw [findTask, putCopy_tasks, hu.tasks]
    exact htask
  have hcopy' : findCopy (putCopy u c1) c.head.id = some c1 := by
    rw [← hhead]
    exact findCopy_putCopy (hhead ▸ hcopy)
  have hsram : (putCopy u c1).sram = s.sram := hu.sram
  have hsound' : Sound (putCopy u c1) := sound_of_flips hsound (by rw [hsram]; exact hsound.1) (by rw [hsram])
    (by rw [hsram]; exact List.Subset.refl _)
  have hlive : liveCounter (putCopy u c1) c.head.task c.cnt = c.cnt := by
    rw [liveCounter, taskActs_of htask' hstop hrun]
    rfl
  have hfail : failCopy (putCopy u c1) c1 =
      counterUpdate (putCopy u c1) (headWho c.head) c.cnt 0 (errorCode c1.bursts) := by
    rw [failCopy, hhead, hcnt, hlive]
  have hkept : ∃ v, failCopy (putCopy u c1) c1 = v ∧ v.eng = (putCopy u c1).eng ∧ v.tasks = (putCopy u c1).tasks ∧
      v.dram = u.dram ∧ (c.cnt = none → v.sram.mem = s.sram.mem) ∧
      ∀ a, c.cnt = some a → Counted (wordAt s.sram.mem a) (wordAt v.sram.mem a) 0 (errorCode c1.bursts) ∧
        ∀ b, b ∉ cellBytes a → cellGet v.sram.mem b = cellGet s.sram.mem b := by
    refine ⟨_, rfl, ?_⟩
    rw [hfail]
    cases hcell : c.cnt with
    | none => exact ⟨rfl, rfl, rfl, fun _ => congrArg (·.mem) hsram, fun a ha => absurd ha (by simp)⟩
    | some a =>
      obtain ⟨⟨_, hframe⟩, hcounted, hrest⟩ := counterUpdate_counts hsound' (headWho c.head) a 0 (errorCode c1.bursts)
      rw [hsram] at hcounted hrest
      refine ⟨by rw [hframe], by rw [hframe], by rw [hframe]; rfl, fun h => absurd h (by simp), fun a' ha => ?_⟩
      obtain rfl := Option.some.inj ha
      exact ⟨hcounted, hrest⟩
  obtain ⟨v, hv, heng, htasks, hdram, hnone, hcell⟩ := hkept
  have hfindv : findTask v c.head.task = some k := by rw [findTask, htasks]; exact htask'
  rw [heq, hv, stopCopy]
  refine ⟨_, _, rfl, ?_, findTask_stopWith_same hfindv _, ?_⟩
  · rw [stopWith_eq]
    change findCopy v c.head.id = _
    rw [findCopy_congr heng, hcopy', hc1']
  · rw [stopped, hstop, stopWith_eq]
    rw [hbursts] at hcell
    exact ⟨rfl, rfl, rfl, hdram, hnone, hcell⟩

end Sends

end Sys2Proof.CopyRequests
end

section
/-!
SUPPORT. The near side of a copy (R97 to R99, R135): the bytes it reads, the lines it writes, and the end of the copy.
-/

namespace Sys2Proof.CopyNearSide

open Sys2Proof Sys2Proof.Machine Sys2Proof.Records Sys2Proof.RegionBytes Sys2Proof.StagingBytes Sys2Proof.FarSide
  Sys2Proof.EngineWrites Sys2Proof.CopyRequests

/-! ### The bytes of a line (R97) -/

theorem mem_lineBytes {c : Copy} {line : Nat} {y : Nat × Nat} :
    y ∈ c.lineBytes line ↔ y.2 < c.len ∧ (c.near + y.2) / 128 = line ∧ y.1 = c.near + y.2 := by
  obtain ⟨a, o⟩ := y
  simp only [Copy.lineBytes, List.mem_filterMap, List.mem_map, List.mem_range]
  constructor
  · rintro ⟨b, ⟨i, hi, rfl⟩, h⟩
    split at h
    · obtain ⟨rfl, rfl⟩ : line * 128 + i = a ∧ line * 128 + i - c.near = o := by simpa using h
      exact ⟨by omega, by omega, by omega⟩
    · cases h
  · rintro ⟨ho, hline, rfl⟩
    refine ⟨c.near + o, ⟨(c.near + o) % 128, Nat.mod_lt _ (by omega), by omega⟩, ?_⟩
    rw [if_pos (by omega)]
    simp

theorem lineBytes_nodup (c : Copy) (line : Nat) : ((c.lineBytes line).map (·.1)).Nodup := by
  have hkeys : (c.lineBytes line).map (·.1) = ((List.range 128).map fun i => line * 128 + i).filter fun a =>
      decide (c.near ≤ a ∧ a < c.near + c.len) := by
    rw [Copy.lineBytes, List.map_filterMap, ← List.filterMap_eq_filter]
    refine List.filterMap_congr fun a _ => ?_
    by_cases h : c.near ≤ a ∧ a < c.near + c.len <;> simp [h, Option.guard]
  rw [hkeys]
  exact (List.nodup_range.map fun x y h => by simpa using h).filter _

/-- The bytes of a line stand once every one of them has come. -/
theorem lineData_cases (c : Copy) (line : Nat) :
    ((∀ y ∈ c.lineBytes line, (c.nearByte y.2).isSome = true) ∧
      c.lineData line = some ((c.lineBytes line).map fun y => (y.1, (c.nearByte y.2).getD 0))) ∨
    ((∃ y ∈ c.lineBytes line, c.nearByte y.2 = none) ∧ c.lineData line = none) := by
  have heq : c.lineData line = if (c.lineBytes line).all fun y => (c.nearByte y.2).isSome then
      some ((c.lineBytes line).map fun y => (y.1, (c.nearByte y.2).getD 0)) else none := by
    unfold Copy.lineData
    dsimp only
    rw [List.all_map, List.map_map]
    rfl
  by_cases hall : ((c.lineBytes line).all fun y => (c.nearByte y.2).isSome) = true
  · exact .inl ⟨List.all_eq_true.mp hall, by rw [heq, if_pos hall]⟩
  · refine .inr ⟨?_, by rw [heq, if_neg hall]⟩
    obtain ⟨y, hy, hnone⟩ := List.all_eq_false.mp (Bool.eq_false_iff.mpr hall)
    exact ⟨y, hy, by simpa using hnone⟩

theorem lineData_none_iff (c : Copy) (line : Nat) :
    c.lineData line = none ↔ ∃ o, (o < c.len ∧ (c.near + o) / 128 = line) ∧ c.nearByte o = none := by
  rcases lineData_cases c line with ⟨hall, hsome⟩ | ⟨⟨y, hy, hnone⟩, hdata⟩
  · rw [hsome]
    refine ⟨fun h => absurd h (by simp), fun ⟨o, ⟨ho, hline⟩, hnone⟩ => ?_⟩
    have hin := hall (c.near + o, o) (mem_lineBytes.mpr ⟨ho, hline, rfl⟩)
    rw [hnone] at hin
    cases hin
  · obtain ⟨ho, hline, _⟩ := mem_lineBytes.mp hy
    exact ⟨fun _ => ⟨y.2, ⟨ho, hline⟩, hnone⟩, fun _ => hdata⟩

theorem lineData_some {c : Copy} {line : Nat} {bs : List (Nat × Byte)} (h : c.lineData line = some bs) :
    (bs.map (·.1)).Nodup ∧ ∀ a v, (a, v) ∈ bs ↔
      ∃ o, (o < c.len ∧ (c.near + o) / 128 = line) ∧ a = c.near + o ∧ c.nearByte o = some v := by
  rcases lineData_cases c line with ⟨hall, hsome⟩ | ⟨_, hnone⟩
  · obtain rfl := Option.some.inj (hsome.symm.trans h)
    refine ⟨?_, fun a v => ?_⟩
    · rw [List.map_map]
      exact lineBytes_nodup c line
    · rw [List.mem_map]
      constructor
      · rintro ⟨y, hy, heq⟩
        obtain ⟨ho, hline, haddr⟩ := mem_lineBytes.mp hy
        obtain ⟨b, hb⟩ := Option.isSome_iff_exists.mp (hall y hy)
        obtain ⟨rfl, rfl⟩ := Prod.mk.inj heq
        exact ⟨y.2, ⟨ho, hline⟩, haddr, by rw [hb]; rfl⟩
      · rintro ⟨o, ⟨ho, hline⟩, rfl, hv⟩
        exact ⟨(c.near + o, o), mem_lineBytes.mpr ⟨ho, hline, rfl⟩, by rw [hv]; rfl⟩
  · rw [hnone] at h
    cases h

theorem line_of_lineData {c : Copy} {line : Nat} {bs : List (Nat × Byte)} (h : c.lineData line = some bs) :
    ∀ y ∈ bs, y.1 / 128 = line := by
  intro y hy
  obtain ⟨o, ⟨_, hline⟩, haddr, _⟩ := ((lineData_some h).2 y.1 y.2).mp hy
  rw [haddr, hline]

/-! ### The near bytes of an outbound copy (R98, R135) -/

section Near

variable {s : State} {c : Copy} {k : Task} (hfind : findCopy s c.head.id = some c)
  (htask : findTask s c.head.task = some k) (hstop : k.stop = none) (hrun : k.state = .running)
include hfind htask hstop hrun

theorem copyNearRead_reads (hout : c.outbound = true) (hnone : c.nearData = none)
    (hlanded : rangeLanded s c.near c.len c.head.step = true) :
    exec (.copyNearRead c.head.id) s = .next (readNear s c) := by
  have hready : nearReady s c = true := by
    rw [nearReady, hout, hnone, taskActs_of htask hstop hrun, hlanded]
    rfl
  change execCopyNearRead c.head.id s = _
  unfold execCopyNearRead
  rw [hfind]
  dsimp only
  rw [if_pos hready]

end Near

/-- The sectors of an outbound copy's near bytes that cannot be decoded. -/
def nearBad (s : State) (c : Copy) : List Nat := (sectorRange c.near c.len).filter (sectorBad s)

/-- The state in which the near sectors have been read and the bad ones counted. -/
def nearRead (s : State) (c : Copy) : State :=
  (nearBad s c).foldl countBad ((sectorRange c.near c.len).foldl readSector s)

/-- The copy with its near bytes. -/
def withNear (s : State) (c : Copy) : Copy :=
  { c with nearData := some (bytesAt (nearRead s c).sram.mem c.near c.len), badNear := nearBad s c, begun := true }

theorem readNear_eq (s : State) (c : Copy) : readNear s c = putCopy (nearRead s c) (withNear s c) := rfl

theorem nearRead_frame (s : State) (c : Copy) : nearRead s c = { s with sram := (nearRead s c).sram } := by
  unfold nearRead
  rw [foldl_countBad_frame, foldl_readSector_frame]

theorem findCopy_readNear {s : State} {c : Copy} (hfind : findCopy s c.head.id = some c) :
    findCopy (readNear s c) c.head.id = some (withNear s c) := by
  have hcopy : findCopy (nearRead s c) c.head.id = some c := by rw [nearRead_frame]; exact hfind
  rw [readNear_eq]
  exact findCopy_putCopy (c := withNear s c) hcopy

theorem unc_readNear (s : State) (c : Copy) (j : Nat) : (sliceReg (readNear s c) j).unc =
    if ((nearBad s c).filter fun y => decide (sliceOf (y * 32) = j)).length = 0 then (sliceReg s j).unc
    else min ((sliceReg s j).unc + ((nearBad s c).filter fun y => decide (sliceOf (y * 32) = j)).length) 255 := by
  have hput : sliceReg (readNear s c) j = sliceReg (nearRead s c) j := rfl
  rw [hput, nearRead, unc_foldl_countBad, unc_foldl_readSector]

theorem nearRead_sound {s : State} (h : Sound s) (c : Copy) : nearRead s c = s ∧ nearBad s c = [] := by
  have hbad : nearBad s c = [] := List.filter_eq_nil_iff.mpr fun sec _ => by simp [sectorBad_of_sound h sec]
  refine ⟨?_, hbad⟩
  rw [nearRead, hbad, foldl_readSector_sound h]
  rfl

/-! ### The end of a step of a copy (R99) -/

theorem findCopy_dropCopy (s : State) (id : Nat) : findCopy (dropCopy s id) id = none := by
  simp [findCopy, dropCopy]

theorem wordAt_congr {m m' : Cells 8} {a : Nat} (h : ∀ b, b ∈ cellBytes a → cellGet m' b = cellGet m b) :
    wordAt m' a = wordAt m a := by
  rw [wordAt, wordAt]
  congr 2
  exact List.map_congr_left fun o ho => h _ (List.mem_map_of_mem ho)

/-- What a copy does last in a step: its counter, its end, and the parties that it kept. -/
def counted (u : State) (c : Copy) (n code : Nat) (last : Prop) [Decidable last] : State :=
  releaseParties (if last then dropCopy (counterUpdate u (headWho c.head) c.cnt n code) c.head.id
    else counterUpdate u (headWho c.head) c.cnt n code) c.head.task

theorem counted_spec {u : State} (hsound : Sound u) {c c' : Copy} (hfind : findCopy u c.head.id = some c') (n code : Nat)
    (last : Prop) [Decidable last] :
    findCopy (counted u c n code last) c.head.id = (if last then none else some c') ∧
      (counted u c n code last).dram = u.dram ∧ (counted u c n code last).sram.clears = u.sram.clears ∧
      (c.cnt = none → (counted u c n code last).sram.mem = u.sram.mem) ∧
      ∀ a, c.cnt = some a →
        Counted (wordAt u.sram.mem a) (wordAt (counted u c n code last).sram.mem a) n code ∧
        ∀ b, b ∉ cellBytes a → cellGet (counted u c n code last).sram.mem b = cellGet u.sram.mem b := by
  have hupdate : ∃ v, counterUpdate u (headWho c.head) c.cnt n code = v ∧ v.eng = u.eng ∧ v.dram = u.dram ∧
      v.sram.clears = u.sram.clears ∧ (c.cnt = none → v.sram.mem = u.sram.mem) ∧
      ∀ a, c.cnt = some a → Counted (wordAt u.sram.mem a) (wordAt v.sram.mem a) n code ∧
        ∀ b, b ∉ cellBytes a → cellGet v.sram.mem b = cellGet u.sram.mem b := by
    refine ⟨_, rfl, ?_⟩
    cases hcell : c.cnt with
    | none => exact ⟨rfl, rfl, rfl, fun _ => rfl, fun a ha => absurd ha (by simp)⟩
    | some a =>
      obtain ⟨⟨_, hframe⟩, hcounted, hrest⟩ := counterUpdate_counts hsound (headWho c.head) a n code
      refine ⟨by rw [hframe], by rw [hframe], by rw [hframe], fun h => absurd h (by simp), fun a' ha => ?_⟩
      obtain rfl := Option.some.inj ha
      exact ⟨hcounted, hrest⟩
  obtain ⟨v, hv, heng, hdram, hclears, hnone, hcell⟩ := hupdate
  unfold counted
  rw [hv, releaseParties_frame]
  by_cases hlast : last
  · simp only [if_pos hlast]
    exact ⟨findCopy_dropCopy v c.head.id, hdram, hclears, hnone, hcell⟩
  · simp only [if_neg hlast]
    refine ⟨?_, hdram, hclears, hnone, hcell⟩
    change findCopy v c.head.id = some c'
    rw [findCopy_congr heng, hfind]

end Sys2Proof.CopyNearSide
end

section
/-!
SUPPORT. The steps that a copy counts (R97, R99): an accepted burst, and a line that is written.
-/

namespace Sys2Proof.CopySteps

open Sys2Proof Sys2Proof.Machine Sys2Proof.Records Sys2Proof.StagingBytes Sys2Proof.FarSide Sys2Proof.EngineWrites
  Sys2Proof.CopyRequests Sys2Proof.CopyNearSide

section Steps

variable {s : State} {c : Copy} {k : Task} (hfind : findCopy s c.head.id = some c)
  (htask : findTask s c.head.task = some k) (hstop : k.stop = none) (hrun : k.state = .running)

include htask hstop hrun in
theorem liveCounter_of : liveCounter s c.head.task c.cnt = c.cnt := by
  rw [liveCounter, taskActs_of htask hstop hrun]
  rfl

/-! ### An accepted burst (R99) -/

/-- The copy with an accepted burst counted. -/
def burstCounted (c : Copy) (n : Nat) (x : Burst) : Copy := { c with bursts := c.bursts.set n { x with state := .done 0 } }

include hfind htask hstop hrun in
theorem copyBurstAccepted_counts {n : Nat} {x : Burst} (hx : c.bursts[n]? = some x) (hout : c.outbound = true)
    (hnear : c.nearData.isSome = true) (haccepted : x.state = .accepted) :
    exec (.copyBurstAccepted c.head.id n) s = .next (counted (putCopy s (burstCounted c n x)) c (c.burstLen x)
      (if (burstCounted c n x).bursts.all isDone then errorCode (burstCounted c n x).bursts else 0)
      ((burstCounted c n x).bursts.all isDone = true)) := by
  have hcode : errorCode [x] = 0 := by simp [errorCode, haccepted]
  have hcount : countBurst s c n x = counted (putCopy s (burstCounted c n x)) c (c.burstLen x)
      (if (burstCounted c n x).bursts.all isDone then errorCode (burstCounted c n x).bursts else 0)
      ((burstCounted c n x).bursts.all isDone = true) := by
    unfold countBurst counted
    dsimp only
    rw [hcode, liveCounter_of htask hstop hrun, setBurst_eq_set hx]
    rfl
  change execCopyBurstAccepted c.head.id n s = _
  unfold execCopyBurstAccepted
  rw [hfind]
  dsimp only
  rw [hx]
  dsimp only
  rw [if_pos ⟨hout, hnear, .inl haccepted⟩, hcount]

/-! ### A line (R97, R99) -/

/-- The state in which a line has been written and is present. -/
def lineWritten (s : State) (c : Copy) (line : Nat) (bs : List (Nat × Byte)) : State :=
  rewatch (setPresent (guardedWrite s (headWho c.head) (some c.head.step) bs) c.head.id line)

/-- The copy with a line written. -/
def lineCounted (c : Copy) (line : Nat) : Copy := { c with lines := c.lines.filter fun l => decide (l ≠ line), begun := true }

include hfind htask hstop hrun in
theorem copyLineWrite_counts (hsave : k.saving = false) {line : Nat} {bs : List (Nat × Byte)} (hout : c.outbound = false)
    (hline : line ∈ c.lines) (hmay : engineMayWrite s c.head.id line = true) (hfree : copyQueued s c = false)
    (hdata : c.lineData line = some bs) :
    exec (.copyLineWrite c.head.id line) s = .next (counted (putCopy (lineWritten s c line bs) (lineCounted c line)) c
      bs.length (if (lineCounted c line).lines = [] then errorCode c.bursts else 0) ((lineCounted c line).lines = [])) := by
  have hwrite : writeCopyLine s c line bs = counted (putCopy (lineWritten s c line bs) (lineCounted c line)) c
      bs.length (if (lineCounted c line).lines = [] then errorCode c.bursts else 0) ((lineCounted c line).lines = []) := by
    unfold writeCopyLine counted
    dsimp only
    rw [liveCounter_of htask hstop hrun]
    rfl
  change execCopyLineWrite c.head.id line s = _
  unfold execCopyLineWrite
  rw [hfind]
  dsimp only
  rw [if_pos ⟨by rw [hout]; rfl, hline, copyActs_of htask hstop hrun hsave, hmay, by rw [hfree]; rfl⟩, hdata, ← hwrite]

theorem lineWritten_spec (hsound : Sound s) (c : Copy) {line : Nat} {bs : List (Nat × Byte)} (hn : (bs.map (·.1)).Nodup) :
    Sound (lineWritten s c line bs) ∧ (lineWritten s c line bs).eng = s.eng ∧ (lineWritten s c line bs).dram = s.dram ∧
      (∀ y ∈ (lineWritten s c line bs).sram.clears, ¬ (y.req = c.head.id ∧ y.line = line)) ∧
      (∀ y ∈ bs, cellGet (lineWritten s c line bs).sram.mem y.1 = y.2) ∧
      ∀ a, (∀ y ∈ bs, y.1 ≠ a) → cellGet (lineWritten s c line bs).sram.mem a = cellGet s.sram.mem a := by
  obtain ⟨⟨hwritten, hframe⟩, hin, hout⟩ := guardedWrite_writes hsound (headWho c.head) (some c.head.step) hn
  refine ⟨?_, ?_, ?_, fun y hy => ?_, hin, hout⟩
  · exact sound_of_flips hwritten hwritten.1 rfl (List.Subset.refl _)
  · change (guardedWrite s (headWho c.head) (some c.head.step) bs).eng = s.eng
    rw [hframe]
  · change (guardedWrite s (headWho c.head) (some c.head.step) bs).dram = s.dram
    rw [hframe]
  · have hy : y ∈ (guardedWrite s (headWho c.head) (some c.head.step) bs).sram.clears.filter fun y =>
        !(decide (y.req = c.head.id) && decide (y.line = line)) := hy
    rintro ⟨hreq, hline⟩
    simpa [hreq, hline] using (List.mem_filter.mp hy).2

end Steps

end Sys2Proof.CopySteps
end

section
/-!
SUPPORT. The geometry of a copy (R94 to R96): the bursts that cover its far bytes, and the elements that its near bytes
give.
-/

namespace Sys2Proof.CopyGeometry

open Sys2Proof Sys2Proof.Machine Sys2Proof.CopyRequests

/-! ### Far ranges in bursts (R94, R95) -/

/-- Burst `k` of a far range. -/
def burstAt (far pos k : Nat) : Burst :=
  { va := max far ((far / 64 + k) * 64), pos := pos, offset := max far ((far / 64 + k) * 64) - far, coord := (0, 0, 0),
    state := .todo }

theorem splitBursts_eq (far len pos : Nat) : splitBursts far len pos =
    (List.range ((far + len - 1) / 64 - far / 64 + 1)).map (burstAt far pos) := rfl

/-- Whether a burst of a far range of `len` bytes carries its byte `f`. -/
def Carries (len : Nat) (b : Burst) (f : Nat) : Prop :=
  b.offset ≤ f ∧ f < b.offset + min (64 - b.va % 64) (len - b.offset)

/-- The bursts of a range lie in the range, from its start or from a burst boundary on. -/
theorem burstAt_of_mem {far len pos : Nat} (hlen : 1 ≤ len) {b : Burst} (hb : b ∈ splitBursts far len pos) :
    b.pos = pos ∧ b.va = far + b.offset ∧ b.offset < len ∧ b.state = .todo ∧ (b.offset = 0 ∨ b.va % 64 = 0) := by
  rw [splitBursts_eq] at hb
  obtain ⟨k, hk, rfl⟩ := List.mem_map.mp hb
  have hk := List.mem_range.mp hk
  refine ⟨rfl, ?_, ?_, rfl, ?_⟩
  · simp only [burstAt]
    omega
  · simp only [burstAt]
    omega
  · simp only [burstAt]
    omega

/-- The bursts of a range carry each of its bytes once. -/
theorem splitBursts_cover {far len pos f : Nat} (hf : f < len) :
    ∃ b ∈ splitBursts far len pos, Carries len b f ∧ ∀ y ∈ splitBursts far len pos, Carries len y f → y = b := by
  refine ⟨burstAt far pos ((far + f) / 64 - far / 64), ?_, ?_, fun y hy hcarries => ?_⟩
  · rw [splitBursts_eq]
    refine List.mem_map_of_mem (List.mem_range.mpr ?_)
    omega
  · simp only [Carries, burstAt]
    omega
  · rw [splitBursts_eq] at hy
    obtain ⟨k, _, rfl⟩ := List.mem_map.mp hy
    obtain ⟨hle, hlt⟩ := hcarries
    have hk : k = (far + f) / 64 - far / 64 := by
      simp only [burstAt] at hle hlt
      omega
    rw [hk]

section Indexed

variable {q : CopyReq} {xs : List Nat} {m x : Nat} (hindexed : q.indexed = true) (hx : xs[m]? = some x)
include hindexed hx

/-- The bursts of list position `m`. -/
theorem mem_bursts_at {b : Burst} : (b ∈ q.bursts xs ∧ b.pos = m) ↔ b ∈ (if x < q.len then
    splitBursts ((q.far + x * q.rlen * 32) % 2 ^ 64) (q.rlen * 32) m
    else [{ va := 0, pos := m, offset := 0, coord := (0, 0, 0), state := .failed (0x80 + (q.first + m)) }]) := by
  have hpos : ∀ (y : Nat × Nat), b ∈ (if y.2 < q.len then
      splitBursts ((q.far + y.2 * q.rlen * 32) % 2 ^ 64) (q.rlen * 32) y.1
      else [{ va := 0, pos := y.1, offset := 0, coord := (0, 0, 0), state := .failed (0x80 + (q.first + y.1)) }]) →
      b.pos = y.1 := by
    intro y hy
    split at hy
    · rw [splitBursts_eq] at hy
      obtain ⟨k, _, rfl⟩ := List.mem_map.mp hy
      rfl
    · rw [List.mem_singleton.mp hy]
  rw [CopyReq.bursts, if_pos hindexed, List.mem_flatMap]
  constructor
  · rintro ⟨⟨y, hy, hb⟩, hm⟩
    obtain ⟨i, hi, rfl⟩ := List.mem_mapIdx.mp hy
    obtain rfl : i = m := (hpos _ hb).symm.trans hm
    obtain ⟨_, rfl⟩ := List.getElem?_eq_some_iff.mp hx
    exact hb
  · intro hb
    obtain ⟨hm, rfl⟩ := List.getElem?_eq_some_iff.mp hx
    exact ⟨⟨(m, xs[m]), List.mem_mapIdx.mpr ⟨m, hm, rfl⟩, hb⟩, hpos (m, xs[m]) hb⟩

end Indexed

/-! ### Element sizes (R94) -/

/-- The sizes of the source and the destination elements of each conversion. -/
def sizesOf (conv : Nat) : Nat × Nat := [(1, 1), (4, 2), (2, 4), (4, 1), (1, 2), (2, 4)].getD conv (1, 1)

theorem convSizes_eq {conv : Nat} (h : conv ≤ 5) : convSizes conv = sizesOf conv := by
  interval_cases conv <;> rfl

theorem sizesOf_pos (conv : Nat) : 0 < (sizesOf conv).1 ∧ 0 < (sizesOf conv).2 := by
  by_cases h : conv ≤ 5
  · interval_cases conv <;> exact ⟨by decide, by decide⟩
  · rw [sizesOf, List.getD_eq_default _ _ (by simp only [List.length_cons, List.length_nil]; omega)]
    exact ⟨by decide, by decide⟩

/-- What each conversion makes of a source element. -/
def converted (conv x : Nat) : Nat :=
  [x, (roundTo bf16 .rne (f32.value x)).1, (roundTo f32 .rne (bf16.value x)).1, (roundTo e4m3 .rne (f32.value x)).1,
    (roundTo bf16 .rne (e4m3.value x)).1, (roundTo f32 .rne (f16.value x)).1].getD conv 0

theorem convElem_eq {conv : Nat} (h : conv ≤ 5) (x : Nat) : convElem conv x = converted conv x := by
  interval_cases conv <;> rfl

/-- The far bytes of a contiguous copy are its length, in far elements. -/
theorem farLength_eq {q : CopyReq} (hok : q.ok = true) (hindexed : q.indexed = false) :
    q.nearLen / nearUnit q.conv q.outbound * farUnit q.conv q.outbound =
        (if q.outbound then q.len / (sizesOf q.conv).1 * (sizesOf q.conv).2 else q.len) ∧
      1 ≤ (if q.outbound then q.len / (sizesOf q.conv).1 * (sizesOf q.conv).2 else q.len) := by
  simp only [CopyReq.ok, hindexed, Bool.false_eq_true, if_false, Bool.and_eq_true, CopyReq.commonOk, CopyReq.contiguousOk,
    decide_eq_true_eq] at hok
  obtain ⟨⟨⟨_, hconv⟩, _⟩, ⟨⟨⟨⟨⟨⟨hlow, _⟩, halign⟩, _⟩, _⟩, _⟩, _⟩⟩ := hok
  have hsizes : (sizesOf q.conv).1 ∣ 4 ∧ 0 < (sizesOf q.conv).2 := by
    refine ⟨?_, (sizesOf_pos q.conv).2⟩
    generalize q.conv = conv at hconv
    interval_cases conv <;> decide
  obtain ⟨⟨d, hd⟩, hpos⟩ := hsizes
  have hfirst := (sizesOf_pos q.conv).1
  have hwhole : q.len / (sizesOf q.conv).1 * (sizesOf q.conv).1 = q.len :=
    Nat.div_mul_cancel (Nat.dvd_trans ⟨d, hd⟩ (by omega))
  have hmany : 1 ≤ q.len / (sizesOf q.conv).1 := by
    have hle : (sizesOf q.conv).1 ≤ 4 := Nat.le_of_dvd (by omega) ⟨d, hd⟩
    exact Nat.div_pos (by omega) hfirst
  rw [CopyReq.nearLen, hindexed, if_neg Bool.false_ne_true, nearUnit, farUnit, convSizes_eq hconv]
  cases q.outbound
  · simp only [Bool.false_eq_true, if_false]
    rw [Nat.mul_div_cancel _ hpos]
    exact ⟨hwhole, by omega⟩
  · simp only [if_true]
    exact ⟨trivial, Nat.mul_pos hmany hpos⟩

/-- The far bytes of one burst of a copy. -/
theorem burstLen_eq {c : Copy} {b : Burst} (hb : ∀ code, b.state ≠ .failed code) (hconv : c.conv ≤ 5) :
    c.burstLen b = min (64 - b.va % 64) ((if c.indexed then c.rlen * 32 else
      if c.outbound then c.len / (sizesOf c.conv).1 * (sizesOf c.conv).2
      else c.len / (sizesOf c.conv).2 * (sizesOf c.conv).1) - b.offset) := by
  have hrow : c.farRow = if c.indexed then c.rlen * 32 else
      if c.outbound then c.len / (sizesOf c.conv).1 * (sizesOf c.conv).2
      else c.len / (sizesOf c.conv).2 * (sizesOf c.conv).1 := by
    rw [Copy.farRow, nearUnit, farUnit, convSizes_eq hconv]
    cases c.outbound <;> rfl
  rw [Copy.burstLen, hrow]
  cases hstate : b.state with
  | failed code => exact absurd hstate (hb code)
  | _ => rfl

/-! ### The swizzle (R96) -/

/-- Blocks of `w` bytes exchanged within 128 bytes. -/
def mix (w m u : Nat) : Nat := (u / w ^^^ m) * w + u % w

theorem mix_parts {w m u : Nat} (hw : 0 < w) : mix w m u / w = u / w ^^^ m ∧ mix w m u % w = u % w :=
  TableRows.radix_digit rfl (Nat.mod_lt u hw)

theorem mix_mix {w m u : Nat} (hw : 0 < w) : mix w m (mix w m u) = u := by
  obtain ⟨hdiv, hmod⟩ := mix_parts (m := m) (u := u) hw
  rw [mix, hdiv, hmod, Nat.xor_assoc, Nat.xor_self, Nat.xor_zero]
  exact Nat.div_add_mod' u w

theorem mix_block {w m u t : Nat} (hw : 0 < w) (hm : m < 2 ^ t) : mix w m u / (w * 2 ^ t) = u / (w * 2 ^ t) := by
  have hhigh : (u / w ^^^ m) / 2 ^ t = u / w / 2 ^ t := by
    rw [← Nat.shiftRight_eq_div_pow, Nat.shiftRight_xor_distrib, Nat.shiftRight_eq_div_pow, Nat.shiftRight_eq_div_pow,
      Nat.div_eq_of_lt hm, Nat.xor_zero]
  rw [← Nat.div_div_eq_div_mul, ← Nat.div_div_eq_div_mul, (mix_parts hw).1, hhigh]

theorem mix_lt {w m u t row : Nat} (hw : 0 < w) (hm : m < 2 ^ t) (hrow : row % (w * 2 ^ t) = 0) (hu : u < row) :
    mix w m u < row := by
  have hpos : 0 < w * 2 ^ t := Nat.mul_pos hw (Nat.two_pow_pos t)
  obtain ⟨n, rfl⟩ := Nat.dvd_of_mod_eq_zero hrow
  have hlt : u / (w * 2 ^ t) < n := Nat.div_lt_of_lt_mul hu
  rw [← mix_block hw hm (u := u)] at hlt
  rw [Nat.mul_comm]
  exact Nat.lt_mul_of_div_lt hlt hpos

/-- The place of a byte of a row, by its swizzle and its list position. -/
def placeOf (swz m u : Nat) : Nat :=
  if swz = 1 then ((u / 16) ^^^ (m % 8)) * 16 + u % 16 else if swz = 2 then ((u / 32) ^^^ (m % 4)) * 32 + u % 32 else u

theorem swizzle_eq {swz : Nat} (h : swz ≤ 2) (m u : Nat) : swizzle swz m u = placeOf swz m u := by
  interval_cases swz <;> rfl

theorem swizzle_placeOf {swz : Nat} (h : swz ≤ 2) (m u : Nat) : swizzle swz m (placeOf swz m u) = u := by
  interval_cases swz
  · rfl
  · exact mix_mix (w := 16) (by omega)
  · exact mix_mix (w := 32) (by omega)

theorem placeOf_lt {swz row u : Nat} (h : swz ≤ 2) (hrow : swz ≠ 0 → row % 128 = 0) (m : Nat) (hu : u < row) :
    placeOf swz m u < row := by
  interval_cases swz
  · exact hu
  · exact mix_lt (w := 16) (t := 3) (by omega) (Nat.mod_lt m (by omega)) (hrow (by omega)) hu
  · exact mix_lt (w := 32) (t := 2) (by omega) (Nat.mod_lt m (by omega)) (hrow (by omega)) hu

/-! ### The bytes of an inbound copy (R94 to R96) -/

section Inbound

variable {c : Copy} (hconv : c.conv ≤ 5) (hswz : c.swz ≤ 2)

include hconv in
theorem nearRow_eq : c.nearRow = if c.indexed then
    c.rlen * 32 / (if c.outbound then (sizesOf c.conv).2 else (sizesOf c.conv).1) *
      (if c.outbound then (sizesOf c.conv).1 else (sizesOf c.conv).2) else c.len := by
  rw [Copy.nearRow, farUnit, nearUnit, convSizes_eq hconv]

theorem burstFor_unique {b : Burst} {k f : Nat} (hb : b ∈ c.bursts) (hpos : b.pos = k) (hlow : b.offset ≤ f)
    (hhigh : f < b.offset + c.burstLen b)
    (hone : ∀ y ∈ c.bursts, y.pos = k → y.offset ≤ f → f < y.offset + c.burstLen y → y = b) : c.burstFor k f = some b := by
  cases hfind : c.burstFor k f with
  | none =>
    have hno := List.find?_eq_none.mp hfind b hb
    simp [hpos, hlow, hhigh] at hno
  | some y =>
    have hy := List.find?_some hfind
    simp only [Bool.and_eq_true, decide_eq_true_eq] at hy
    obtain ⟨⟨hypos, hylow⟩, hyhigh⟩ := hy
    rw [hone y (List.mem_of_find?_eq_some hfind) hypos hylow hyhigh]

variable {k e i : Nat} (hi : i < (sizesOf c.conv).2) (hin : e * (sizesOf c.conv).2 + i < c.nearRow)
  (hrow : c.swz ≠ 0 → c.nearRow % 128 = 0)
include hconv hswz hi hin hrow

/-- The near byte at the place of byte `i` of element `e` of row `k`, from the burst that carries the element. -/
theorem nearByte_placed {b : Burst} (hburst : c.burstFor k (e * (sizesOf c.conv).1) = some b) :
    (∀ data, b.state = .got data →
      c.nearByte (k * c.nearRow + placeOf c.swz (c.first + k) (e * (sizesOf c.conv).2 + i)) =
        some (byteAt (converted c.conv
          (natOfBytes ((data.drop (e * (sizesOf c.conv).1 - b.offset)).take (sizesOf c.conv).1))) i)) ∧
    ∀ code, b.state = .failed code →
      c.nearByte (k * c.nearRow + placeOf c.swz (c.first + k) (e * (sizesOf c.conv).2 + i)) = some c.fill := by
  obtain ⟨hdiv, hmod⟩ := TableRows.radix_digit (hi := k) rfl (placeOf_lt hswz hrow (c.first + k) hin)
  obtain ⟨hdiv', hmod'⟩ := TableRows.radix_digit (hi := e) rfl hi
  rw [Copy.nearByte, hdiv, hmod, swizzle_placeOf hswz, nearUnit, farUnit, convSizes_eq hconv]
  simp only [Bool.false_eq_true, if_false]
  rw [hdiv', hmod', hburst]
  constructor
  · intro data hstate
    simp only [hstate, convByte, convElem_eq hconv]
  · intro code hstate
    simp only [hstate]

end Inbound

/-! ### The bytes of an outbound burst (R94 to R96) -/

theorem farBytes_getElem? {c : Copy} (hconv : c.conv ≤ 5) (hswz : c.swz ≤ 2) (near : List Byte) (b : Burst) {j : Nat}
    (hj : j < c.burstLen b) : (c.farBytes near b)[j]? = some (byteAt (converted c.conv
      (natOfBytes ((List.range (sizesOf c.conv).1).map fun t => near.getD (b.pos * c.nearRow +
        placeOf c.swz (c.first + b.pos) ((b.offset + j) / (sizesOf c.conv).2 * (sizesOf c.conv).1 + t)) 0)))
      ((b.offset + j) % (sizesOf c.conv).2)) := by
  rw [Copy.farBytes, List.getElem?_map, List.getElem?_range hj, Option.map_some, nearUnit, farUnit, convSizes_eq hconv]
  simp only [if_true, convByte, convElem_eq hconv, swizzle_eq hswz]

end Sys2Proof.CopyGeometry
end

section
/-!
SUPPORT. What a burst of a copy meets, way by way (R65, R283 to R286, R295, R299, R300).
-/

namespace Sys2Proof.CopyWays

open Sys2Proof Sys2Proof.Machine Sys2Proof.StagingBytes Sys2Proof.TableRows Sys2Proof.FarSide Sys2Proof.EngineWrites
  Sys2Proof.BurstWays Sys2Proof.CopyRequests

/-! ### Access counters -/

/-- An access is counted (R286). -/
theorem countAccess_counts (x : Xlate) (die pasid place : Nat) :
    ((∃ y ∈ x.counters, CountsFor die pasid place y) → (countAccess x die pasid place).counters =
      x.counters.map fun y => if CountsFor die pasid place y then { y with count := y.count + 1 } else y) ∧
    ((∀ y ∈ x.counters, ¬ CountsFor die pasid place y) →
      ((x.counters.filter fun y => decide (y.die = die)).length < 4096 →
        (countAccess x die pasid place).counters = x.counters ++ [firstAccess die pasid place]) ∧
      (4096 ≤ (x.counters.filter fun y => decide (y.die = die)).length → ∃ low ∈ x.counters, low.die = die ∧
        (∀ y ∈ x.counters, y.die = die → low.count ≤ y.count) ∧
        ∀ y, y ∈ (countAccess x die pasid place).counters ↔
          (y ∈ x.counters ∧ y ≠ low) ∨ y = firstAccess die pasid place)) :=
  ⟨countAccess_known, fun h => ⟨countAccess_room h, countAccess_full h⟩⟩

/-! ### The ways of a burst -/

theorem enterQueue_xlate (s : State) (c : Client) (dpa : Nat) : (enterQueue s c dpa).xlate = s.xlate := by
  unfold enterQueue
  dsimp only
  split <;> rfl

section Way

variable {s : State} {k : Task} {q : Partition} {c : Copy} {n : Nat} {x : Burst} {c' : Client} {va : Nat}
  (hway : ∀ write len, farBurst s (copyClient k q c n) write x.va len = translated s c' va write len)
include hway

theorem met_missing (hnone : translate s.xlate c'.front (tractOf c'.core) c'.pasid va c.outbound = none) :
    met s k q c n x = ({ s with xlate := askAts s.xlate (tractOf c'.core) c'.pasid (pageOf va) c.outbound }, .ats 0) := by
  have hgo : farBurst s (copyClient k q c n) (c.writeData x) x.va (c.burstLen x) =
      ({ s with xlate := askAts s.xlate (tractOf c'.core) c'.pasid (pageOf va) c.outbound }, .ats 0) := by
    rw [hway, translated_missing (by rw [writeData_isSome]; exact hnone), writeData_isSome]
  rw [met_early (by rw [hgo]; exact .inr ⟨0, rfl⟩), hgo]

theorem far_found {hpa : Nat} {xl : Xlate}
    (hfound : translate s.xlate c'.front (tractOf c'.core) c'.pasid va c.outbound = some (hpa, xl)) : farBurst s (copyClient k q c n) (c.writeData x) x.va (c.burstLen x) =
    physical { s with xlate := xl } c' va (c.writeData x) hpa (c.burstLen x) := by
  rw [hway, translated_found (by rw [writeData_isSome]; exact hfound)]

section Device

variable {dpa : Nat} {xl : Xlate} (hd : dpa < hdmSize)
  (hfound : translate s.xlate c'.front (tractOf c'.core) c'.pasid va c.outbound = some (s.host.hpa0 + dpa, xl))
include hd hfound

theorem met_snoop (htracked : burstOf dpa ∈ s.host.tracked) (hsound : c.badFor x = []) (hlen : 0 < c.burstLen x) :
    met s k q c n x = ({ s with xlate := xl, host := sendSnoop s.host (burstOf dpa) c.outbound }, .snoop dpa) := by
  have hdata : c.writeData x ≠ some [] := by
    cases hout : c.outbound
    · rw [writeData_inbound hout]
      simp
    · rw [writeData_sound hout hsound]
      intro h
      have hnil := congrArg List.length (Option.some.inj h)
      rw [farBytes_length] at hnil
      exact absurd hnil (by simpa using Nat.ne_of_gt hlen)
  rw [met_sound hsound, far_found hway hfound, physical_snoop (s := { s with xlate := xl }) hd htracked hdata,
    writeData_isSome]

theorem far_stacks (hfree : queueFree s dpa = true) (hgo : burstOf dpa ∉ s.host.tracked ∨ c.writeData x = some []) :
    farBurst s (copyClient k q c n) (c.writeData x) x.va (c.burstLen x) =
      stackAccess { s with xlate := xl } c' (c.writeData x) dpa (c.burstLen x) := by
  rw [far_found hway hfound, physical_stacks (s := { s with xlate := xl }) hd hfree hgo]

theorem met_refused (hfree : queueFree s dpa = true)
    (hgo : burstOf dpa ∉ s.host.tracked ∨ (c.outbound = true ∧ ¬ c.badFor x = []))
    (hplat : platAllows s.dram.plat c'.dom (rowOf dpa) = false) :
    met s k q c n x = ({ s with xlate := xl }, .failed 2) := by
  have hfar := far_stacks hway hd hfound hfree (hgo.imp_right fun h => writeData_bad h.1 h.2)
  rw [stackAccess_refused (s := { s with xlate := xl }) hplat] at hfar
  rw [met_early (by rw [hfar]; exact .inl ⟨2, rfl⟩), hfar]

section Enters

variable (hfree : queueFree s dpa = true)
include hfree

theorem met_bad (hplat : platAllows s.dram.plat c'.dom (rowOf dpa) = true) (hbad : c.badFor x ≠ []) : met s k q c n x = (s, .failed 3) := by
  have hdata := writeData_bad (outbound_of_bad hbad) hbad
  refine met_accepted hbad ?_
  rw [far_stacks hway hd hfound hfree (.inr hdata), hdata, stackAccess_write (s := { s with xlate := xl }) hplat]

variable (htracked : burstOf dpa ∉ s.host.tracked)
include htracked

theorem met_written (hout : c.outbound = true) (hsound : c.badFor x = []) : met s k q c n x =
    stackAccess { s with xlate := xl } c' (some (c.farBytes (c.nearData.getD []) x)) dpa (c.burstLen x) := by
  rw [met_sound hsound, far_stacks hway hd hfound hfree (.inl htracked), writeData_sound hout hsound]

theorem met_inbound (hout : c.outbound = false) :
    met s k q c n x = stackAccess { s with xlate := xl } c' none dpa (c.burstLen x) := by
  rw [met_sound (badFor_inbound hout x), far_stacks hway hd hfound hfree (.inl htracked), writeData_inbound hout]

end Enters

end Device

theorem met_host {hpa : Nat} {xl : Xlate}
    (hfound : translate s.xlate c'.front (tractOf c'.core) c'.pasid va c.outbound = some (hpa, xl))
    (hh : hpa < s.host.hpa0 ∨ s.host.hpa0 + hdmSize ≤ hpa) (hsound : c.badFor x = []) :
    met s k q c n x = hostAccess { s with xlate := xl } c' va (c.writeData x) hpa (c.burstLen x) := by
  rw [met_sound hsound, far_found hway hfound, physical_host (s := { s with xlate := xl }) hh]

end Way

/-- A burst that no way takes fails with code 4. -/
theorem met_noWay {s : State} {k : Task} {q : Partition} {c : Copy} {n : Nat} {x : Burst}
    (h : ∀ write len, farBurst s (copyClient k q c n) write x.va len = (s, .failed 4)) :
    met s k q c n x = (s, .failed 4) := by
  rw [met_early (by rw [h]; exact .inl ⟨4, rfl⟩), h]

/-! ### A burst that is sent -/

section Sent

variable {s : State} {k : Task} {q : Partition} {c : Copy} {n : Nat} {x : Burst} (hfind : findCopy s c.head.id = some c)
  (htask : findTask s c.head.task = some k) (hstop : k.stop = none) (hrun : k.state = .running) (hsave : k.saving = false)
  (hpart : findPart s k.part = some q) (hx : c.bursts[n]? = some x) (htodo : x.state = .todo)
  (hnear : c.outbound = true → c.nearData.isSome = true)
include hfind htask hstop hrun hsave hx htodo hnear

theorem request_outside (hfar : c.farOk k x = false) : ∃ t, exec (.pchRequest c.head.id n) s = .next t ∧
    findCopy t c.head.id = some { c with bursts := c.bursts.set n { x with state := .failed 5 } } ∧
    t = { s with eng := t.eng } ∧ t.sram = s.sram ∧ t.tasks = s.tasks := by
  obtain ⟨t, ht, hrest⟩ := copyOutcome_next hfind hx (u := s) (st := .failed 5) rfl (by simp) (by simp)
  refine ⟨t, ?_, hrest⟩
  rw [pchRequest_sends hfind htask hstop hrun hsave hx htodo hnear, requestCopy_outside htask hfar, ht]

include hpart
variable (hfar : c.farOk k x = true)
include hfar

theorem request_met : exec (.pchRequest c.head.id n) s = .next (copyOutcome c n (met s k q c n x)) := by
  rw [pchRequest_sends hfind htask hstop hrun hsave hx htodo hnear, requestCopy_met htask hpart hfar]

theorem request_sent {u : State} {st : BurstState} (hmet : met s k q c n x = (u, st)) (hgood : st ≠ .failed 3)
    (hkeep : st = .accepted → c.badFor x = []) : ∃ t, exec (.pchRequest c.head.id n) s = .next t ∧
      findCopy t c.head.id = some { c with bursts := c.bursts.set n { x with state := st } } ∧
      t = { u with eng := t.eng } ∧ t.sram = s.sram ∧ t.tasks = s.tasks := by
  have hu : KeepsCopies s u := by
    have h := met_keepsCopies s k q c n x
    rw [hmet] at h
    exact h
  obtain ⟨t, ht, hrest⟩ := copyOutcome_next hfind hx hu hgood hkeep
  refine ⟨t, ?_, hrest⟩
  rw [request_met hfind htask hstop hrun hsave hpart hx htodo hnear hfar, hmet, ht]

theorem request_lost (hsound : Sound s) {u : State} (hmet : met s k q c n x = (u, .failed 3)) :
    ∃ t k', exec (.pchRequest c.head.id n) s = .next t ∧
      findCopy t c.head.id = some { c with bursts := c.bursts.set n { x with state := .failed 3 } } ∧
      findTask t c.head.task = some k' ∧ k'.stop = some 0x0B ∧ k'.frec.kind = 0x0B ∧
      k'.frec.addr = BitVec.ofNat 32 ((c.badFor x).headD 0 * 32) ∧ t.dram = u.dram ∧
      (c.cnt = none → t.sram.mem = s.sram.mem) ∧
      ∀ a, c.cnt = some a → Counted (wordAt s.sram.mem a) (wordAt t.sram.mem a) 0
          (errorCode (c.bursts.set n { x with state := .failed 3 })) ∧
        ∀ b, b ∉ cellBytes a → cellGet t.sram.mem b = cellGet s.sram.mem b := by
  have hu : KeepsCopies s u := by
    have h := met_keepsCopies s k q c n x
    rw [hmet] at h
    exact h
  obtain ⟨t, k', ht, hrest⟩ := copyOutcome_lost hfind htask hstop hrun hx hsound hu
  refine ⟨t, k', ?_, hrest⟩
  rw [request_met hfind htask hstop hrun hsave hpart hx htodo hnear hfar, hmet, ht]

end Sent

end Sys2Proof.CopyWays
end

section
/-!
SUPPORT. What becomes of a burst that a copy sends, way by way (R20, R63, R65, R100, R284, R286, R295, R299 to R301).
-/

namespace Sys2Proof.CopyEvents

open Sys2Proof Sys2Proof.Machine Sys2Proof.StagingBytes Sys2Proof.TableRows Sys2Proof.FarSide Sys2Proof.EngineWrites
  Sys2Proof.BurstWays Sys2Proof.CopyRequests Sys2Proof.CopyWays

/-- A burst that its copy may send, and that lies in the task's regions. -/
structure Ready (s : State) (k : Task) (q : Partition) (c : Copy) (n : Nat) (x : Burst) : Prop where
  found : findCopy s c.head.id = some c
  task : findTask s c.head.task = some k
  goes : k.stop = none
  runs : k.state = .running
  stays : k.saving = false
  part : findPart s k.part = some q
  burst : c.bursts[n]? = some x
  todo : x.state = .todo
  near : c.outbound = true → c.nearData.isSome = true
  far : c.farOk k x = true

/-- Sending a burst ends in `t`, in which the burst stands at `st`. -/
def Sent (s : State) (c : Copy) (n : Nat) (x : Burst) (t : State) (st : BurstState) : Prop :=
  exec (.pchRequest c.head.id n) s = .next t ∧
    findCopy t c.head.id = some { c with bursts := c.bursts.set n { x with state := st } } ∧
    t.sram.mem = s.sram.mem ∧ t.tasks = s.tasks

/-- Sending a burst stops its task, as sector `sec` cannot be corrected (R100). -/
def Lost (s : State) (c : Copy) (n : Nat) (x : Burst) (sec : Nat) : Prop :=
  ∃ t k', exec (.pchRequest c.head.id n) s = .next t ∧
    findCopy t c.head.id = some { c with bursts := c.bursts.set n { x with state := .failed 3 } } ∧
    findTask t c.head.task = some k' ∧ k'.stop = some 0x0B ∧ k'.frec.kind = 0x0B ∧
    k'.frec.addr = BitVec.ofNat 32 (sec * 32) ∧ t.dram.mem = s.dram.mem ∧
    (c.cnt = none → t.sram.mem = s.sram.mem) ∧
    ∀ a, c.cnt = some a → a % 4 = 0 →
      Counted (wordAt s.sram.mem a) (wordAt t.sram.mem a) 0 (errorCode (c.bursts.set n { x with state := .failed 3 })) ∧
      ∀ b, b ∉ cellBytes a → cellGet t.sram.mem b = cellGet s.sram.mem b

/-- The bytes of a burst's command: those that it writes, or zeros for a read. -/
def carried (c : Copy) (x : Burst) : List Byte :=
  if c.outbound then c.farBytes (c.nearData.getD []) x else List.replicate (c.burstLen x) 0

@[simp] theorem carried_length (c : Copy) (x : Burst) : (carried c x).length = c.burstLen x := by
  unfold carried
  split <;> simp

section Data

variable {c : Copy} {x : Burst} (hsound : c.badFor x = [])
include hsound

theorem writeData_carried (hout : c.outbound = true) : c.writeData x = some (carried c x) := by
  rw [writeData_sound hout hsound, carried, if_pos hout]

theorem writeData_getD : (c.writeData x).getD (List.replicate (c.burstLen x) 0) = carried c x := by
  cases hout : c.outbound
  · rw [writeData_inbound hout, carried, if_neg (by simp [hout])]
    rfl
  · rw [writeData_carried hsound hout]
    rfl

end Data

section Events

variable {s : State} {k : Task} {q : Partition} {c : Copy} {n : Nat} {x : Burst} (h : Ready s k q c n x)
include h

theorem Ready.sent {u : State} {st : BurstState} (hmet : met s k q c n x = (u, st)) (hgood : st ≠ .failed 3)
    (hkeep : st = .accepted → c.badFor x = []) : ∃ eng, Sent s c n x { u with eng := eng } st := by
  obtain ⟨t, hexec, hcopy, ht, hsram, htasks⟩ :=
    request_sent h.found h.task h.goes h.runs h.stays h.part h.burst h.todo h.near h.far hmet hgood hkeep
  refine ⟨t.eng, ?_⟩
  rw [← ht]
  exact ⟨hexec, hcopy, congrArg (·.mem) hsram, htasks⟩

theorem Ready.lost (hsound : Sound s) {u : State} (hmet : met s k q c n x = (u, .failed 3))
    (hmem : u.dram.mem = s.dram.mem) : Lost s c n x ((c.badFor x).headD 0) := by
  obtain ⟨t, k', hexec, hcopy, htask, hstop, hkind, haddr, hdram, hnone, hcell⟩ :=
    request_lost h.found h.task h.goes h.runs h.stays h.part h.burst h.todo h.near h.far hsound hmet
  exact ⟨t, k', hexec, hcopy, htask, hstop, hkind, haddr, (congrArg (·.mem) hdram).trans hmem, hnone,
    fun a ha _ => hcell a ha⟩

/-! ### A burst that is translated here -/

section Way

variable {pasid dom va : Nat} (hway : ∀ write len, farBurst s (copyClient k q c n) write x.va len =
  translated s { copyClient k q c n with pasid := pasid, dom := dom } va write len)
include hway

theorem asks_page (hnone : translate s.xlate (.copy c.head.core) (tractOf c.head.core) pasid va c.outbound = none) :
    ∃ t, (Sent s c n x t (.ats 0) ∧ t.dram.mem = s.dram.mem) ∧ t.host = s.host ∧ t.fabric = s.fabric ∧
      t.xlate = { s.xlate with asked := t.xlate.asked } ∧
      ((tractOf c.head.core, pasid, va / 4096, c.outbound) ∈ s.xlate.asked → t.xlate.asked = s.xlate.asked) ∧
      ((tractOf c.head.core, pasid, va / 4096, c.outbound) ∉ s.xlate.asked →
        t.xlate.asked = s.xlate.asked ++ [(tractOf c.head.core, pasid, va / 4096, c.outbound)]) := by
  obtain ⟨eng, hsent⟩ := h.sent (met_missing hway hnone) (by simp) (by simp)
  exact ⟨_, ⟨hsent, rfl⟩, rfl, rfl, askAts_frame .., askAts_known, askAts_new⟩

section Device

variable {dpa : Nat} {xl : Xlate} (hd : dpa < hdmSize)
  (hfound : translate s.xlate (.copy c.head.core) (tractOf c.head.core) pasid va c.outbound = some (s.host.hpa0 + dpa, xl))
include hd hfound

theorem asks_host (htracked : burstOf dpa ∈ s.host.tracked) (hsound : c.badFor x = []) (hlen : 0 < c.burstLen x) :
    ∃ t, (Sent s c n x t (.snoop dpa) ∧ t.dram.mem = s.dram.mem) ∧ t.xlate = xl ∧ t.dram = s.dram ∧
      ((burstOf dpa, c.outbound) ∈ s.host.snoops → t.host = s.host) ∧
      ((burstOf dpa, c.outbound) ∉ s.host.snoops →
        t.host = { s.host with snoops := s.host.snoops ++ [(burstOf dpa, c.outbound)] }) := by
  obtain ⟨eng, hsent⟩ := h.sent (met_snoop hway hd hfound htracked hsound hlen) (by simp) (by simp)
  exact ⟨_, ⟨hsent, rfl⟩, rfl, rfl, sendSnoop_known, sendSnoop_new⟩

variable (hfree : queueFree s dpa = true)
include hfree

theorem plat_refuses (hgo : burstOf dpa ∉ s.host.tracked ∨ (c.outbound = true ∧ ¬ c.badFor x = []))
    (hplat : platAllows s.dram.plat dom (rowOf dpa) = false) : ∃ t, (Sent s c n x t (.failed 2) ∧
      t.dram.mem = s.dram.mem) ∧ t.xlate = xl ∧ t.dram = s.dram ∧ t.host = s.host := by
  obtain ⟨eng, hsent⟩ := h.sent (met_refused hway hd hfound hfree hgo hplat) (by simp) (by simp)
  exact ⟨_, ⟨hsent, rfl⟩, rfl, rfl, rfl⟩

variable (htracked : burstOf dpa ∉ s.host.tracked) (hplat : platAllows s.dram.plat dom (rowOf dpa) = true)
include htracked hplat

theorem enters_stacks (hout : c.outbound = true) (hsound : c.badFor x = []) (hwf : Memory.wf s.dram.mem = true) :
    ∃ t, Sent s c n x t .accepted ∧ t.xlate = xl ∧ ∀ a, cellGet t.dram.mem a =
      if dpa ≤ a ∧ a < dpa + c.burstLen x then (carried c x).getD (a - dpa) 0 else cellGet s.dram.mem a := by
  obtain ⟨u, hmet, hxlate, hover⟩ : ∃ u, met s k q c n x = (u, .accepted) ∧ u.xlate = xl ∧
      Overwrites s.dram.mem u.dram.mem dpa (carried c x) := by
    have hover := stackAccess_overwrites (s := { s with xlate := xl })
      (c := { copyClient k q c n with pasid := pasid, dom := dom }) hplat hwf (carried c x) (c.burstLen x)
    rw [stackAccess_write (s := { s with xlate := xl }) hplat] at hover
    refine ⟨_, ?_, ?_, hover⟩
    · rw [met_written hway hd hfound hfree htracked hout hsound, ← writeData_sound hout hsound,
        writeData_carried hsound hout, stackAccess_write (s := { s with xlate := xl }) hplat]
    · exact enterQueue_xlate ..
  obtain ⟨eng, hsent⟩ := h.sent hmet (by simp) fun _ => hsound
  refine ⟨_, hsent, hxlate, fun a => ?_⟩
  rw [hover a, carried_length]

omit h in
theorem met_brings (hout : c.outbound = false) (hgood : reportOf s.dram (burstOf dpa) ≠ .uncorrectable) :
    ∃ u, met s k q c n x = (u, .got (bytesAt s.dram.mem dpa (c.burstLen x))) ∧ u.xlate = xl ∧
      u.dram.mem = s.dram.mem := by
  have hmet : met s k q c n x = _ := met_inbound hway hd hfound hfree htracked hout
  rw [stackAccess_read (s := { s with xlate := xl }) hplat hgood] at hmet
  exact ⟨_, hmet, enterQueue_xlate .., by rw [countReport_mem, enterQueue_mem]⟩

theorem brings_bytes (hout : c.outbound = false) (hgood : reportOf s.dram (burstOf dpa) ≠ .uncorrectable) :
    ∃ t, (Sent s c n x t (.got (bytesAt s.dram.mem dpa (c.burstLen x))) ∧ t.dram.mem = s.dram.mem) ∧ t.xlate = xl := by
  obtain ⟨u, hmet, hxlate, hmem⟩ := met_brings hway hd hfound hfree htracked hplat hout hgood
  obtain ⟨eng, hsent⟩ := h.sent hmet (by simp) (by simp)
  exact ⟨_, ⟨hsent, hmem⟩, hxlate⟩

theorem loses_inbound (hsound : Sound s) (hout : c.outbound = false)
    (hbad : reportOf s.dram (burstOf dpa) = .uncorrectable) : Lost s c n x 0 := by
  have hmet : met s k q c n x = _ := met_inbound hway hd hfound hfree htracked hout
  rw [stackAccess_uncorrectable (s := { s with xlate := xl }) hplat hbad] at hmet
  have hlost := h.lost hsound hmet (by rw [countReport_mem, enterQueue_mem])
  rw [badFor_inbound hout] at hlost
  exact hlost

end Device

section Host

variable {hpa : Nat} {xl : Xlate}
  (hfound : translate s.xlate (.copy c.head.core) (tractOf c.head.core) pasid va c.outbound = some (hpa, xl))
  (hhost : hpa < s.host.hpa0 ∨ s.host.hpa0 + hdmSize ≤ hpa)
include hfound hhost

theorem writes_host (hout : c.outbound = true) (hsound : c.badFor x = []) (hwf : Memory.wf s.host.mem = true) :
    ∃ t, (Sent s c n x t .accepted ∧ t.dram.mem = s.dram.mem) ∧ t.dram = s.dram ∧
      t.xlate.counters = (countAccess xl 0 pasid va).counters ∧ ∀ a, cellGet t.host.mem a =
        if hpa ≤ a ∧ a < hpa + c.burstLen x then (carried c x).getD (a - hpa) 0 else cellGet s.host.mem a := by
  have hmet := met_host hway hfound hhost hsound
  rw [writeData_carried hsound hout] at hmet
  obtain ⟨eng, hsent⟩ := h.sent hmet (by simp) fun _ => hsound
  refine ⟨_, ⟨hsent, rfl⟩, rfl, rfl, fun a => ?_⟩
  rw [← carried_length]
  exact overwrites_cellSetAll hwf hpa (carried c x) a

theorem reads_host (hout : c.outbound = false) :
    ∃ t, (Sent s c n x t (.got (bytesAt s.host.mem hpa (c.burstLen x))) ∧ t.dram.mem = s.dram.mem) ∧ t.dram = s.dram ∧
      t.xlate.counters = (countAccess xl 0 pasid va).counters ∧ t.host = s.host := by
  have hmet := met_host hway hfound hhost (badFor_inbound hout x)
  rw [writeData_inbound hout] at hmet
  obtain ⟨eng, hsent⟩ := h.sent hmet (by simp) (by simp)
  exact ⟨_, ⟨hsent, rfl⟩, rfl, rfl, rfl⟩

end Host

end Way

/-! ### A burst over the fabric -/

theorem finds_noWay (hno : ∀ write len, farBurst s (copyClient k q c n) write x.va len = (s, .failed 4)) :
    ∃ t, (Sent s c n x t (.failed 4) ∧ t.dram.mem = s.dram.mem) ∧ t.fabric = s.fabric ∧ t.xlate = s.xlate ∧
      t.host = s.host ∧ t.dram = s.dram := by
  obtain ⟨eng, hsent⟩ := h.sent (met_noWay hno) (by simp) (by simp)
  exact ⟨_, ⟨hsent, rfl⟩, rfl, rfl, rfl, rfl⟩

/-- The command of a burst that leaves over the fabric. -/
def commandOf (s : State) (k : Task) (c : Copy) (n : Nat) (x : Burst) (b : Binding) (port : Nat) : FabOut :=
  { part := k.part, seq := assoc s.fabric.nextSeq k.part 0, dev := devOf x.va, peer := b.peer, pasid := b.pasid
    rva := rvaOf x.va, write := c.outbound, data := carried c x, req := c.head.id, burst := n, port := port, sends := 1
    since := s.now }

theorem leaves_device {b : Binding} (hsends : ∀ write len, farBurst s (copyClient k q c n) write x.va len =
    sendFabric s (copyClient k q c n) b x.va write len) (hsound : c.badFor x = []) :
    ∃ t port, (Sent s c n x t (.fabric (assoc s.fabric.nextSeq k.part 0)) ∧ t.dram.mem = s.dram.mem) ∧ port < 48 ∧
      t.host = s.host ∧ t.dram = s.dram ∧ t.fabric.out = s.fabric.out ++ [commandOf s k c n x b port] ∧
      (∀ y, assoc t.fabric.nextSeq y 0 = if y = k.part then (assoc s.fabric.nextSeq k.part 0 + 1) % 2 ^ 32
        else assoc s.fabric.nextSeq y 0) ∧
      t.xlate.counters = (countAccess s.xlate (port / 24) q.pasid x.va).counters := by
  have hmet := (met_sound (s := s) (k := k) (q := q) (n := n) hsound).trans (hsends _ _)
  unfold sendFabric at hmet
  dsimp only at hmet
  rw [writeData_getD hsound, writeData_isSome] at hmet
  obtain ⟨eng, hsent⟩ := h.sent hmet (by simp) (by simp)
  exact ⟨_, Config.firstPort (assoc s.fabric.nextSeq k.part 0) % 48, ⟨hsent, rfl⟩, Nat.mod_lt _ (by omega), rfl, rfl, rfl,
    fun y => assoc_setAssoc .., rfl⟩

end Events

end Sys2Proof.CopyEvents
end

section
/-!
SUPPORT. What a step of a copy leaves (R97 to R99, R135): the near bytes that it reads, the bursts and the lines that it
counts.
-/

namespace Sys2Proof.CopyCourse

open Sys2Proof Sys2Proof.Machine Sys2Proof.StagingBytes Sys2Proof.FarSide Sys2Proof.EngineWrites Sys2Proof.CopyRequests
  Sys2Proof.CopyNearSide Sys2Proof.CopySteps

section Steps

variable {s : State} {c : Copy} {k : Task} (hfind : findCopy s c.head.id = some c)
  (htask : findTask s c.head.task = some k) (hstop : k.stop = none) (hrun : k.state = .running)
include hfind htask hstop hrun

section Near

variable (hout : c.outbound = true) (hnone : c.nearData = none) (hlanded : rangeLanded s c.near c.len c.head.step = true)
include hout hnone hlanded

theorem reads_near : ∃ t, exec (.copyNearRead c.head.id) s = .next t ∧ t.tasks = s.tasks ∧
    findCopy t c.head.id = some { c with
      nearData := some (bytesAt t.sram.mem c.near c.len), badNear := nearBad s c, begun := true } ∧
    ∀ j, (sliceReg t j).unc =
      if ((nearBad s c).filter fun y => decide (sliceOf (y * 32) = j)).length = 0 then (sliceReg s j).unc
      else min ((sliceReg s j).unc + ((nearBad s c).filter fun y => decide (sliceOf (y * 32) = j)).length) 255 := by
  refine ⟨_, copyNearRead_reads hfind htask hstop hrun hout hnone hlanded, ?_, findCopy_readNear hfind, unc_readNear s c⟩
  rw [readNear_eq, putCopy_tasks, nearRead_frame]

theorem reads_near_sound (hsound : Sound s) : ∃ t, exec (.copyNearRead c.head.id) s = .next t ∧
    findCopy t c.head.id = some { c with
      nearData := some (bytesAt s.sram.mem c.near c.len), badNear := [], begun := true } ∧
    t.sram.mem = s.sram.mem ∧ t.dram.mem = s.dram.mem ∧ t.tasks = s.tasks := by
  obtain ⟨hread, hbad⟩ := nearRead_sound hsound c
  have hcopy := findCopy_readNear hfind
  refine ⟨_, copyNearRead_reads hfind htask hstop hrun hout hnone hlanded, ?_, ?_⟩
  · rw [hcopy, withNear, hread, hbad]
  · rw [readNear_eq, hread]
    exact ⟨rfl, rfl, rfl⟩

end Near

variable (hsound : Sound s)
include hsound

theorem counts_burst {n : Nat} {x : Burst} (hx : c.bursts[n]? = some x) (hout : c.outbound = true)
    (hnear : c.nearData.isSome = true) (haccepted : x.state = .accepted) :
    ∃ t, exec (.copyBurstAccepted c.head.id n) s = .next t ∧
      findCopy t c.head.id = (if (burstCounted c n x).bursts.all isDone then none else some (burstCounted c n x)) ∧
      t.dram.mem = s.dram.mem ∧ (c.cnt = none → t.sram.mem = s.sram.mem) ∧
      ∀ a, c.cnt = some a → a % 4 = 0 →
        Counted (wordAt s.sram.mem a) (wordAt t.sram.mem a) (c.burstLen x)
          (if (burstCounted c n x).bursts.all isDone then errorCode (burstCounted c n x).bursts else 0) ∧
        ∀ b, b ∉ cellBytes a → cellGet t.sram.mem b = cellGet s.sram.mem b := by
  have hcopy : findCopy (putCopy s (burstCounted c n x)) c.head.id = some (burstCounted c n x) :=
    findCopy_putCopy (c := burstCounted c n x) hfind
  have hsound' : Sound (putCopy s (burstCounted c n x)) := hsound
  obtain ⟨hfound, hdram, _, hnone, hcell⟩ := counted_spec hsound' hcopy (c.burstLen x)
    (if (burstCounted c n x).bursts.all isDone then errorCode (burstCounted c n x).bursts else 0)
    ((burstCounted c n x).bursts.all isDone = true)
  exact ⟨_, copyBurstAccepted_counts hfind htask hstop hrun hx hout hnear haccepted, hfound, congrArg (·.mem) hdram, hnone,
    fun a ha _ => hcell a ha⟩

omit hfind htask hstop hrun hsound in
/-- A counter cell lies in one line. -/
theorem cell_apart {a line : Nat} {bs : List (Nat × Byte)} (hline : ∀ y ∈ bs, y.1 / 128 = line) (ha : a % 4 = 0)
    (hne : a / 128 ≠ line) : ∀ y ∈ bs, y.1 ∉ cellBytes a := by
  intro y hy hin
  have hy := hline y hy
  obtain ⟨hlow, hhigh⟩ := mem_cellBytes.mp hin
  omega

theorem writes_line (hsave : k.saving = false) {line : Nat} {bs : List (Nat × Byte)} (hout : c.outbound = false)
    (hin : line ∈ c.lines) (hmay : engineMayWrite s c.head.id line = true) (hfree : copyQueued s c = false)
    (hdata : c.lineData line = some bs) :
    ∃ t, exec (.copyLineWrite c.head.id line) s = .next t ∧
      findCopy t c.head.id = (if (lineCounted c line).lines = [] then none else some (lineCounted c line)) ∧
      (∀ y ∈ t.sram.clears, ¬ (y.req = c.head.id ∧ y.line = line)) ∧ t.dram.mem = s.dram.mem ∧
      (c.cnt = none → (∀ y ∈ bs, cellGet t.sram.mem y.1 = y.2) ∧
        ∀ a, (∀ y ∈ bs, y.1 ≠ a) → cellGet t.sram.mem a = cellGet s.sram.mem a) ∧
      ∀ a, c.cnt = some a → a % 4 = 0 → a / 128 ≠ line → (∀ y ∈ bs, cellGet t.sram.mem y.1 = y.2) ∧
        Counted (wordAt s.sram.mem a) (wordAt t.sram.mem a) bs.length
          (if (lineCounted c line).lines = [] then errorCode c.bursts else 0) ∧
        ∀ b, (∀ y ∈ bs, y.1 ≠ b) → b ∉ cellBytes a → cellGet t.sram.mem b = cellGet s.sram.mem b := by
  obtain ⟨hwritten, heng, hdram, hclears, hbytes, hrest⟩ := lineWritten_spec hsound c (lineData_some hdata).1
  have hexec := copyLineWrite_counts hfind htask hstop hrun hsave hout hin hmay hfree hdata
  generalize lineWritten s c line bs = v at *
  have hcopy : findCopy (putCopy v (lineCounted c line)) c.head.id = some (lineCounted c line) :=
    findCopy_putCopy (c := lineCounted c line) ((findCopy_congr heng _).trans hfind)
  have hsound' : Sound (putCopy v (lineCounted c line)) := hwritten
  obtain ⟨hfound, hdram', hclears', hnone, hcell⟩ := counted_spec hsound' hcopy bs.length
    (if (lineCounted c line).lines = [] then errorCode c.bursts else 0) ((lineCounted c line).lines = [])
  refine ⟨_, hexec, hfound, ?_, ?_, fun hcnt => ?_, fun a hcnt ha hne => ?_⟩
  · rw [hclears']
    exact hclears
  · rw [hdram']
    exact congrArg (·.mem) hdram
  · rw [hnone hcnt]
    exact ⟨hbytes, hrest⟩
  · have hapart := cell_apart (line_of_lineData hdata) ha hne
    obtain ⟨hcounted, hother⟩ := hcell a hcnt
    have hword : wordAt v.sram.mem a = wordAt s.sram.mem a :=
      wordAt_congr fun b hb => hrest b fun y hy hyb => hapart y hy (hyb ▸ hb)
    refine ⟨fun y hy => (hother y.1 (hapart y hy)).trans (hbytes y hy), ?_, fun b hb hcellb => ?_⟩
    · rw [← hword]
      exact hcounted
    · exact (hother b hcellb).trans (hrest b hb)

end Steps

end Sys2Proof.CopyCourse
end

section
/-!
O49: the events of a copy move its bytes (R63, R65, R94 to R100, R135).
-/

namespace Sys2Proof.CopyEvents

open Sys2Proof Sys2Proof.Machine Sys2Proof.StagingBytes Sys2Proof.FarSide Sys2Proof.EngineWrites Sys2Proof.BurstWays
  Sys2Proof.CopyRequests Sys2Proof.CopyWays Sys2Proof.CopyNearSide Sys2Proof.CopySteps Sys2Proof.CopyCourse
  Sys2Proof.CopyGeometry

/-! ### Which way a burst takes -/

section Route

variable {s : State} {k : Task} {q p : Partition} {c : Copy} {n : Nat} {x : Burst} {b : Binding} {pasid dom va : Nat}

theorem not_isFabric (h : ¬ x.va / 2 ^ 63 % 2 = 1) : isFabric x.va = false := decide_eq_false h

/-- A burst to the task's own address space, or over a binding to a partition of this device, is translated here. -/
theorem translated_here (h : (¬ x.va / 2 ^ 63 % 2 = 1 ∧ pasid = q.pasid ∧ dom = q.dom ∧ va = x.va) ∨
    (x.va / 2 ^ 63 % 2 = 1 ∧ boundTo s k.part x.va = some b ∧ devOf x.va = s.fabric.dev ∧ findPart s b.peer = some p ∧
      b.peer ∉ s.host.resetting ∧ pasid = b.pasid ∧ dom = p.dom ∧ va = rvaOf x.va)) :
    ∀ write len, farBurst s (copyClient k q c n) write x.va len =
      translated s { copyClient k q c n with pasid := pasid, dom := dom } va write len := by
  intro write len
  rcases h with ⟨hdirect, rfl, rfl, rfl⟩ | ⟨hfabric, hbound, hdev, hpeer, hreset, rfl, rfl, rfl⟩
  · exact farBurst_direct (not_isFabric hdirect)
  · exact farBurst_own (isFabric_iff.mpr hfabric) hbound hdev hpeer hreset

/-- A fabric address that is unbound, unreachable or under reset is served by nobody. -/
theorem served_by_nobody (hfabric : x.va / 2 ^ 63 % 2 = 1) (h : boundTo s k.part x.va = none ∨
    (boundTo s k.part x.va = some b ∧ devOf x.va = s.fabric.dev ∧
      (findPart s b.peer = none ∨ b.peer ∈ s.host.resetting)) ∨
    (boundTo s k.part x.va = some b ∧ devOf x.va ≠ s.fabric.dev ∧ devOf x.va ∉ s.fabric.reachable)) :
    ∀ write len, farBurst s (copyClient k q c n) write x.va len = (s, .failed 4) := by
  intro write len
  have hfabric := isFabric_iff.mpr hfabric
  rcases h with hnone | ⟨hbound, hdev, hno⟩ | ⟨hbound, hdev, hno⟩
  · exact farBurst_unbound hfabric hnone
  · exact farBurst_silent hfabric hbound hdev hno
  · exact farBurst_unreachable hfabric hbound hdev hno

/-- The accesses that a state has counted after one more (R286). -/
theorem counts_of {was : Xlate} {t : State} {die place : Nat}
    (h : t.xlate.counters = (countAccess was die pasid place).counters) :
    ((∃ y ∈ was.counters, CountsFor die pasid place y) → t.xlate.counters =
      was.counters.map fun y => if CountsFor die pasid place y then { y with count := y.count + 1 } else y) ∧
    ((∀ y ∈ was.counters, ¬ CountsFor die pasid place y) →
      ((was.counters.filter fun y => decide (y.die = die)).length < 4096 →
        t.xlate.counters = was.counters ++ [firstAccess die pasid place]) ∧
      (4096 ≤ (was.counters.filter fun y => decide (y.die = die)).length → ∃ low ∈ was.counters, low.die = die ∧
        (∀ y ∈ was.counters, y.die = die → low.count ≤ y.count) ∧
        ∀ y, y ∈ t.xlate.counters ↔ (y ∈ was.counters ∧ y ≠ low) ∨ y = firstAccess die pasid place)) := by
  rw [h]
  exact countAccess_counts was die pasid place

end Route

/-! ### A write of the stacks, byte by byte -/

theorem bytes_of_write {c : Copy} {x : Burst} {m m' : Cells 8} {dpa : Nat} (hout : c.outbound = true)
    (h : ∀ a, cellGet m' a =
      if dpa ≤ a ∧ a < dpa + c.burstLen x then (carried c x).getD (a - dpa) 0 else cellGet m a) :
    (∀ j b, (c.farBytes (c.nearData.getD []) x)[j]? = some b → cellGet m' (dpa + j) = b) ∧
      ∀ j, j < dpa ∨ dpa + c.burstLen x ≤ j → cellGet m' j = cellGet m j := by
  constructor
  · intro j b hb
    obtain ⟨hj, _⟩ := List.getElem?_eq_some_iff.mp hb
    rw [farBytes_length] at hj
    rw [h, if_pos (by omega), carried, if_pos hout, Nat.add_sub_cancel_left, List.getD_eq_getElem?_getD, hb, Option.getD_some]
  · intro j hj
    rw [h, if_neg (by omega)]

/-! ### The bursts of a copy (R94, R95) -/

/-- The bursts of a contiguous copy are those of its far range. -/
theorem bursts_contiguous {q : CopyReq} (hok : q.ok = true) (hindexed : q.indexed = false) (xs : List Nat) :
    q.bursts xs = splitBursts q.far
      (if q.outbound then q.len / (sizesOf q.conv).1 * (sizesOf q.conv).2 else q.len) 0 := by
  rw [CopyReq.bursts, hindexed, if_neg Bool.false_ne_true, (farLength_eq hok hindexed).1]

section Rows

variable {q : CopyReq} {xs : List Nat} {m x : Nat} (hindexed : q.indexed = true) (hx : xs[m]? = some x)
include hindexed hx

/-- The bursts of an index in range carry each byte of its far row once. -/
theorem row_covered (hrlen : 1 ≤ q.rlen) (hin : x < q.len) {f : Nat} (hf : f < q.rlen * 32) :
    ∃ b, (b ∈ q.bursts xs ∧ b.pos = m ∧ Carries (q.rlen * 32) b f) ∧
      b.va = (q.far + x * q.rlen * 32) % 2 ^ 64 + b.offset ∧ b.state = .todo ∧
      ∀ y, y ∈ q.bursts xs ∧ y.pos = m ∧ Carries (q.rlen * 32) y f → y = b := by
  have hat := @mem_bursts_at q xs m x hindexed hx
  simp only [if_pos hin] at hat
  obtain ⟨b, hb, hcarries, hone⟩ := splitBursts_cover (far := (q.far + x * q.rlen * 32) % 2 ^ 64) (pos := m) hf
  obtain ⟨hmem, hpos⟩ := hat.mpr hb
  obtain ⟨_, hva, _, htodo, _⟩ := burstAt_of_mem (by omega) hb
  exact ⟨b, ⟨hmem, hpos, hcarries⟩, hva, htodo, fun y ⟨hy, hypos, hcarry⟩ => hone y (hat.mp ⟨hy, hypos⟩) hcarry⟩

/-- An index out of range has one burst, which has failed. -/
theorem index_failed (hout : q.len ≤ x) {b : Burst} : (b ∈ q.bursts xs ∧ b.pos = m) ↔
    b = { va := 0, pos := m, offset := 0, coord := (0, 0, 0), state := .failed (0x80 + (q.first + m)) } := by
  rw [mem_bursts_at hindexed hx, if_neg (by omega), List.mem_singleton]

end Rows

/-! ### The bytes of an element (R94 to R96) -/

section Elements

variable {c : Copy} {b : Burst} {fu nu row k : Nat} (hconv : c.conv ≤ 5) (hswz : c.swz ≤ 2)
include hconv hswz

theorem inbound_placed {e i : Nat} (hfu : (sizesOf c.conv).1 = fu) (hnu : (sizesOf c.conv).2 = nu) (hnear : c.nearRow = row)
    (hrow : c.swz ≠ 0 → row % 128 = 0) (hi : i < nu) (hin : e * nu + i < row) (hburst : c.burstFor k (e * fu) = some b) :
    (∀ data, b.state = .got data → c.nearByte (k * row + placeOf c.swz (c.first + k) (e * nu + i)) =
      some (byteAt (converted c.conv (natOfBytes ((data.drop (e * fu - b.offset)).take fu))) i)) ∧
    ∀ code, b.state = .failed code →
      c.nearByte (k * row + placeOf c.swz (c.first + k) (e * nu + i)) = some c.fill := by
  subst hfu hnu hnear
  exact nearByte_placed hconv hswz hi hin hrow hburst

theorem outbound_placed {j : Nat} (hfu : (sizesOf c.conv).2 = fu) (hnu : (sizesOf c.conv).1 = nu) (hnear : c.nearRow = row)
    (hpos : b.pos = k) (near : List Byte) (hj : j < c.burstLen b) :
    (c.farBytes near b)[j]? = some (byteAt (converted c.conv (natOfBytes ((List.range nu).map fun t =>
      near.getD (k * row + placeOf c.swz (c.first + k) ((b.offset + j) / fu * nu + t)) 0))) ((b.offset + j) % fu)) := by
  subst hfu hnu hnear hpos
  exact farBytes_getElem? hconv hswz near b hj

end Elements

/-- Settles O49: the events of a copy, the way of a burst that is sent, and the bytes of a copy, each clause from the lemma
that says what its step does. -/
theorem copyEventsMoveTheBytes : Obligations.CopyEventsMoveTheBytes := by
  unfold Obligations.CopyEventsMoveTheBytes
  refine ⟨?steps, ?ways, ?rows, ?contiguous, ?lengths, ?lines, ?elements⟩
  case steps =>
    intro s c n line x k q dpa bs hfind htask hstop hrun hsave hpart hx
    refine ⟨reads_near hfind htask hstop hrun, ?_⟩
    intro herrors hwf sends becomes ends cells lost
    have hsound : Sound s := ⟨hwf, herrors⟩
    have hready : x.state = .todo → (c.outbound = true → c.nearData.isSome = true) → c.farOk k x = true →
        Ready s k q c n x := fun htodo hnear hfar =>
      ⟨hfind, htask, hstop, hrun, hsave, hpart, hx, htodo, hnear, hfar⟩
    have hway : isFabric x.va = false → ∀ write len, farBurst s (copyClient k q c n) write x.va len =
        translated s { copyClient k q c n with pasid := q.pasid, dom := q.dom } x.va write len :=
      fun hdirect write len => farBurst_direct hdirect
    refine ⟨?_, ?_, fun hout hnone hlanded => reads_near_sound hfind htask hstop hrun hout hnone hlanded hsound,
      fun hout hnear haccepted => counts_burst hfind htask hstop hrun hsound hx hout hnear haccepted, ?_⟩
    · intro htodo hout hnear hfar hdirect hd hfree hdram hfound htracked hplat
      have h := hready htodo (fun _ => hnear) hfar
      rw [← hout] at hfound
      refine ⟨fun hbad => h.lost hsound (met_bad (hway hdirect) hd hfound hfree hplat hbad) rfl, fun hgood => ?_⟩
      obtain ⟨t, ⟨hexec, hcopy, hsram, htasks⟩, _, hbytes⟩ :=
        enters_stacks h (hway hdirect) hd hfound hfree htracked hplat hout hgood hdram
      obtain ⟨hin, hrest⟩ := bytes_of_write hout hbytes
      exact ⟨t, hexec, hcopy, hin, hrest, hsram, htasks⟩
    · intro htodo hout
      have hnear : c.outbound = true → c.nearData.isSome = true := fun h => absurd h (by simp [hout])
      refine ⟨fun hfar => ?_, fun hfar hdirect hd hfree hfound htracked => ?_⟩
      · obtain ⟨t, hexec, hcopy, ht, hsram, htasks⟩ :=
          request_outside hfind htask hstop hrun hsave hx htodo hnear hfar
        exact ⟨t, hexec, hcopy, congrArg (·.mem) hsram, by rw [ht], htasks⟩
      · have h := hready htodo hnear hfar
        rw [← hout] at hfound
        refine ⟨fun hplat => ?_, fun hplat hgood => ?_, fun hplat hbad =>
          loses_inbound h (hway hdirect) hd hfound hfree htracked hplat hsound hout hbad⟩
        · obtain ⟨t, ⟨⟨hexec, hcopy, hsram, htasks⟩, hdram⟩, _⟩ :=
            plat_refuses h (hway hdirect) hd hfound hfree (.inl htracked) hplat
          exact ⟨t, hexec, hcopy, hsram, hdram, htasks⟩
        · obtain ⟨t, ⟨⟨hexec, hcopy, hsram, htasks⟩, hdram⟩, _⟩ :=
            brings_bytes h (hway hdirect) hd hfound hfree htracked hplat hout hgood
          exact ⟨t, hexec, hcopy, hsram, hdram, htasks⟩
    · intro hout hin hmay hfree hdata rest
      obtain ⟨t, hexec, hcopy, hrest⟩ := writes_line hfind htask hstop hrun hsound hsave hout hin hmay hfree hdata
      refine ⟨t, hexec, ?_, hrest⟩
      simp only [ends, decide_eq_true_eq]
      exact hcopy
  case ways =>
    intro s c n x k q p b xl pasid dom va hpa dpa hfind htask hstop hrun hsave hpart hx htodo hfar hnear
      fabric dev bound sound data sent goes counts
    have h : Ready s k q c n x := ⟨hfind, htask, hstop, hrun, hsave, hpart, hx, htodo, hnear, hfar⟩
    refine ⟨?_, fun hfabric hno => finds_noWay h (served_by_nobody hfabric hno), ?_⟩
    · intro hroute page found
      have hway := translated_here (c := c) (n := n) hroute
      refine ⟨asks_page h hway, fun hfound hd => ⟨asks_host h hway hd hfound, fun hgo hfree =>
        plat_refuses h hway hd hfound hfree hgo, fun htracked hfree hplat =>
          ⟨enters_stacks h hway hd hfound hfree htracked hplat, brings_bytes h hway hd hfound hfree htracked hplat⟩⟩,
        fun hfound hhost => ⟨fun hout hsound hwf => ?_, fun hout => ?_⟩⟩
      · obtain ⟨t, hgoes, hdram, hcount, hbytes⟩ := writes_host h hway hfound hhost hout hsound hwf
        exact ⟨t, hgoes, hdram, counts_of hcount, hbytes⟩
      · obtain ⟨t, hgoes, hdram, hcount, hkept⟩ := reads_host h hway hfound hhost hout
        exact ⟨t, hgoes, hdram, counts_of hcount, hkept⟩
    · intro hfabric hbound hdev hreach hsound hpasid seq
      obtain ⟨t, port, hgoes, hport, hhost, hdram, hcommand, hseq, hcount⟩ := leaves_device h
        (fun write len => farBurst_sends (isFabric_iff.mpr hfabric) hbound hdev hreach) hsound
      rw [← hpasid] at hcount
      exact ⟨t, port, hgoes, hport, hhost, hdram, hcommand, hseq, counts_of hcount⟩
  case rows =>
    intro q xs m x hindexed hrlen _ hx row covers
    exact ⟨fun hin f hf => row_covered hindexed hx hrlen hin hf, fun hout b => index_failed hindexed hx hout⟩
  case contiguous =>
    intro q xs hok hindexed sizes total covers
    have hbursts : q.bursts xs = splitBursts q.far total 0 := bursts_contiguous hok hindexed xs
    refine ⟨fun f hf => ?_, fun b hb => ?_⟩
    · obtain ⟨b, hb, hcarries, hone⟩ := splitBursts_cover (far := q.far) (pos := 0) hf
      rw [← hbursts] at hb hone
      exact ⟨b, ⟨hb, hcarries⟩, fun y ⟨hy, hcarry⟩ => hone y hy hcarry⟩
    · rw [hbursts] at hb
      exact burstAt_of_mem (farLength_eq hok hindexed).2 hb
  case lengths => exact fun c b hstate hconv => burstLen_eq hstate hconv
  case lines => exact fun c line => ⟨lineData_none_iff c line, fun bs hdata => lineData_some hdata⟩
  case elements =>
    intro c b k e i hconv hswz sizes fu nu value row place hrow _ hpos
    have hnear : c.nearRow = row := nearRow_eq hconv
    refine ⟨fun hout hb hi hin hlow hhigh hone => ?_, fun hout near => ⟨farBytes_length c near b, fun j hj => ?_⟩⟩
    · exact inbound_placed hconv hswz (if_neg (by simp [hout])).symm (if_neg (by simp [hout])).symm hnear hrow hi hin
        (burstFor_unique hb hpos hlow hhigh hone)
    · exact outbound_placed hconv hswz (if_pos hout).symm (if_pos hout).symm hnear hpos near hj

end Sys2Proof.CopyEvents
end

section
/-!
PROOF. `PRES`, `ABSA` and `RELA` (R101, R125, R140, R151, R152): the register that each lane writes, and the lane that traps.
-/

namespace Sys2Proof.AddressWords

open Sys2Proof Sys2Proof.Machine

/-! ### Lanes and their addresses (R139, R140) -/

theorem lt_of_getLsbD {m : Mask} {l : Nat} (h : m.getLsbD l = true) : l < 64 := by
  by_contra hl
  simp [BitVec.getLsbD_of_ge m l (by omega)] at h

theorem mem_lanesOf {m : Mask} {l : Nat} : l ∈ lanesOf m ↔ m.getLsbD l = true := by
  simp only [lanesOf, List.mem_filter, List.mem_range, and_iff_right_iff_imp]
  exact lt_of_getLsbD

theorem mem_laneAddrs {g : Group} {p : Path} {a imm : BitVec 6} {gd : Guard} {x : Nat × Nat} :
    x ∈ laneAddrs g p a imm gd ↔ (activeMask p gd).getLsbD x.1 = true ∧ x.2 = effAddr g p a imm x.1 := by
  simp only [laneAddrs, List.mem_map, mem_lanesOf]
  constructor
  · rintro ⟨l, hl, rfl⟩
    exact ⟨hl, rfl⟩
  · rintro ⟨hl, hx⟩
    exact ⟨x.1, hl, Prod.ext rfl hx.symm⟩

/-- The lowest active lane whose address fails a test is the one that the test names. -/
theorem firstLane_laneAddrs {g : Group} {p : Path} {a imm : BitVec 6} {gd : Guard} {bad : Nat → Bool} {l : Nat}
    (hl : (activeMask p gd).getLsbD l = true) (hbad : bad (effAddr g p a imm l) = true)
    (hlow : ∀ k, k < l → (activeMask p gd).getLsbD k = true → bad (effAddr g p a imm k) = false) :
    firstLane (laneAddrs g p a imm gd) bad = some (l, effAddr g p a imm l) := by
  have hfind : (lanesOf (activeMask p gd)).find? (fun k => bad (effAddr g p a imm k)) = some l := by
    rw [lanesOf, List.find?_filter]
    refine List.find?_range_eq_some.mpr ⟨by simp [hl, hbad], by simpa using lt_of_getLsbD hl, fun k hk => ?_⟩
    by_cases h : (activeMask p gd).getLsbD k = true
    · simp [hlow k hk h]
    · simp [h]
  rw [firstLane, laneAddrs, List.find?_map]
  exact congrArg (Option.map _) hfind

theorem firstLane_eq_none {ls : List (Nat × Nat)} {bad : Nat → Bool} :
    firstLane ls bad = none ↔ ∀ x ∈ ls, bad x.2 = false := by
  simp [firstLane]

theorem absoluteOf_of_resolve {s : State} {g : Group} {sp : Space} {ea n a : Nat} (h : resolve s g sp ea n = .ok a) :
    absoluteOf s g sp ea = a := by
  cases sp
  case party =>
    simp only [resolve] at h
    cases hk : findTask s g.task with
    | none => simp [hk] at h
    | some k =>
      simp only [hk] at h
      split at h
      · simpa [absoluteOf, hk] using h
      · simp at h
  all_goals
    simp only [resolve] at h
    split at h
    · simp at h
    · simpa [absoluteOf] using h

theorem isOk_of_resolve {s : State} {g : Group} {sp : Space} {ea n a : Nat} (h : resolve s g sp ea n = .ok a) :
    (resolve s g sp ea n).isOk = true := by
  rw [h]
  rfl

theorem isOk_eq_false {s : State} {g : Group} {sp : Space} {ea n : Nat} (h : ∀ a, resolve s g sp ea n ≠ .ok a) :
    (resolve s g sp ea n).isOk = false := by
  cases hr : resolve s g sp ea n with
  | error _ => rfl
  | ok a => exact absurd hr (h a)

/-! ### The common course of the three words -/

section Word

variable {s : State} {g : Group} {p : Path} {w : Word} (h : Issuing s g p w) {i : Instr} {check : Bool} {sp : Space}
  {d a imm : BitVec 6} {gd : Guard} {f : State → Group → Nat → Word} (hi : exec i s = addressOp check sp d a imm gd f s)
include h hi

/-- Where every address passes its check, each active lane writes its value. -/
theorem addressOp_writes {val : Nat → Word}
    (hok : ∀ l, (activeMask p gd).getLsbD l = true → check = true → (resolve s g sp (effAddr g p a imm l) 1).isOk = true)
    (hval : ∀ l, (activeMask p gd).getLsbD l = true → f s g (effAddr g p a imm l) = val l) :
    WritesWord i s g p d gd false val := by
  have hnone : firstLane (laneAddrs g p a imm gd) (fun ea => check && !(resolve s g sp ea 1).isOk) = none := by
    refine firstLane_eq_none.mpr fun x hx => ?_
    obtain ⟨hl, hx⟩ := mem_laneAddrs.mp hx
    cases hc : check
    · rfl
    · simp [hx, hok _ hl hc]
  refine ⟨_, by rw [hi, addressOp, onPath_next h], ?_⟩
  simp only [hnone]
  refine ⟨_, _, pathOnly_putPath h _ _ rfl (by simp) rfl, fun l => ?_, rfl, fun l hl r hr => ?_, fun l hl => ?_,
    fun r _ => rfl⟩
  · by_cases hl : l < g.lanes.length
    · rw [laneOf_setPath, laneOf_modLanes _ _ _ _ hl]
      split
      · rw [setVreg_rest]
      · rfl
    · rw [laneOf_setPath, laneOf_modLanes_beyond _ _ _ _ hl]
  · simp only [laneReg, laneOf_setPath, laneOf_modLanes _ _ _ _ hl, true_and]
    split
    next hact => rw [vreg_setVreg _ _ _ _ hr, assoc_cons, assoc_nil, hval l hact]
    next => rfl
  · rw [laneOf_setPath, laneOf_modLanes _ _ _ _ hl]
    split
    · rw [setVreg_rest]
      simp
    · simp

/-- The lowest active lane whose address its space does not hold takes the trap. -/
theorem addressOp_traps {l : Nat} (hl : (activeMask p gd).getLsbD l = true) (hc : check = true)
    (hbad : ∀ x, resolve s g sp (effAddr g p a imm l) 1 ≠ .ok x)
    (hlow : ∀ k, k < l → (activeMask p gd).getLsbD k = true → ∃ x, resolve s g sp (effAddr g p a imm k) 1 = .ok x) :
    AddressTraps i s g p w l sp (effAddr g p a imm l) := by
  refine traps_of h hi ?_
  have hfirst : firstLane (laneAddrs g p a imm gd) (fun ea => check && !(resolve s g sp ea 1).isOk) =
      some (l, effAddr g p a imm l) :=
    firstLane_laneAddrs hl (by simp [hc, isOk_eq_false hbad]) fun k hk hact => by
      obtain ⟨x, hx⟩ := hlow k hk hact
      simp [isOk_of_resolve hx]
  simp only [hfirst]
  simp [memoryTrap, plainTrap]

end Word

theorem exec_pres (d a imm : BitVec 6) (gd : Guard) (sp : Space) (s : State) : exec (.pres d a imm gd sp) s =
    addressOp true sp d a imm gd (fun s g ea => if linePresent s (lineOf (absoluteOf s g sp ea)) then 1 else 0) s := rfl

theorem exec_absa (d a imm : BitVec 6) (gd : Guard) (s : State) : exec (.absa d a imm gd) s =
    addressOp true .party d a imm gd (fun s g ea => BitVec.ofNat 32 (absoluteOf s g .party ea)) s := rfl

theorem exec_rela (d a imm : BitVec 6) (gd : Guard) (s : State) : exec (.rela d a imm gd) s =
    addressOp false .task d a imm gd (fun s g ea =>
      if sameHolder (ownerAt s ea) (.party g.task g.party) && decide (sliceOf ea = g.core) then
        BitVec.ofNat 32 (ea - absoluteOf s g .party 0)
      else BitVec.allOnes 32) s := rfl

/-! ### Presence in three copies (R125) -/

theorem majority_bool : ∀ a b c : Bool, majority a b c = some ((a && b) || (a && c) || (b && c)) := by decide

/-- The presence of a line is what two of its copies say. -/
theorem linePresent_eq (s : State) (line : Nat) : linePresent s line =
    ((presenceCopy s line 0 && presenceCopy s line 1) || (presenceCopy s line 0 && presenceCopy s line 2) ||
      (presenceCopy s line 1 && presenceCopy s line 2)) := by
  unfold linePresent
  split
  next hnone => simp [presenceCopy, hnone]
  next => rw [majority_bool, Option.getD_some]

/-! ### Holders (R101, R152) -/

theorem sameHolder_party (o : Owner) (t i : Nat) :
    sameHolder o (.party t i) = true ↔ o = .party t i ∨ o = .draining t i := by
  cases o <;> simp [sameHolder]

/-- Settles O31: the three words have one course, in which each lane writes a value of its address or the lowest whose address
fails traps; the values are read off from the copies and the owner tag. -/
theorem presenceAndTranslationWriteOneRegister : Obligations.PresenceAndTranslationWriteOneRegister := by
  unfold Obligations.PresenceAndTranslationWriteOneRegister
  intro s g p w d a imm gd sp adr h ea base written copy present
  have hcopy : ∀ x k, presenceCopy s x k = copy x k := fun x k => by
    simp only [copy, List.head?_filterMap]
    rfl
  refine ⟨fun hok => ?pres, fun hok => ?absa, ?traps, ?rela⟩
  case pres =>
    refine addressOp_writes h (exec_pres d a imm gd sp s) (fun l hl _ => isOk_of_resolve (hok l hl)) fun l hl => ?_
    have hadr : absoluteOf s g sp (effAddr g p a imm l) = adr l := absoluteOf_of_resolve (hok l hl)
    simp only [hadr, lineOf, linePresent_eq, hcopy]
    rfl
  case absa =>
    exact addressOp_writes h (exec_absa d a imm gd s) (fun l hl _ => isOk_of_resolve (hok l hl)) fun l _ => rfl
  case traps =>
    intro l sq bad hl hbad hlow
    have hheld : ∀ k, k < l → (activeMask p gd).getLsbD k = true → ∃ x, resolve s g sq (ea k) 1 = .ok x :=
      fun k hk hact => by simpa [bad] using hlow k hk hact
    refine ⟨addressOp_traps h (exec_pres d a imm gd sq s) hl rfl hbad hheld, ?_⟩
    rintro rfl
    exact addressOp_traps h (exec_absa d a imm gd s) hl rfl hbad hheld
  case rela =>
    refine addressOp_writes h (exec_rela d a imm gd s) (fun _ _ hc => absurd hc (by decide)) fun l _ => ?_
    simp only [Bool.and_eq_true, sameHolder_party, decide_eq_true_eq]
    rfl

end Sys2Proof.AddressWords
end

section
/-!
SUPPORT. A block of memory that the elected lane of a word reads (R27, R28, R103, R135, R140), the ranges that a request names,
and the lines that it marks to become absent (R97, R115).
-/

namespace Sys2Proof.RequestBlocks

open Sys2Proof Sys2Proof.Machine Sys2Proof.Records Sys2Proof.EngineWrites

/-! ### Sectors -/

/-- Meeting a sector that cannot be decoded does what `StopsAt` says. -/
theorem stopBad_stopsAt (s : State) (w : Who) (sec : Nat) : StopsAt s w sec (stopBad s w sec) := by
  refine ⟨rfl, fun n => ?_, ?_⟩
  · change sliceReg (countBad s sec) n = _
    simp only [countBad, sliceReg_putSliceReg, sliceReg_slice, offsetOf]
    by_cases h : n = sliceOf (sec * 32)
    · rw [if_pos h, if_pos h.symm]
    · rw [if_neg h, if_neg (Ne.symm h)]
  · rw [stopBad, stopWith_eq]
    refine List.map_congr_left fun x _ => ?_
    by_cases hx : x.uid = w.task <;> cases hs : x.stop <;> simp [hx, hs, stopped, uncorrectable]

/-- The first sector of a range that cannot be decoded is the one that a read of the range meets. -/
theorem find_sectorBad {s : State} {secs : List Nat} {k sec : Nat} (hk : secs[k]? = some sec) (hbad : sectorBad s sec = true)
    (hfirst : ∀ (j y : Nat), j < k → secs[j]? = some y → sectorBad s y = false) :
    secs.find? (fun x => sectorBad s x) = some sec := by
  obtain ⟨hlt, rfl⟩ := List.getElem?_eq_some_iff.mp hk
  exact List.find?_eq_some_iff_getElem.mpr ⟨hbad, k, hlt, rfl, fun j hj => by
    simp [hfirst j secs[j] hj (List.getElem?_eq_getElem (by omega))]⟩

theorem readSector_of_sectorErrors {s : State} {sec : Nat} (h : sectorErrors s sec = []) : readSector s sec = s := by
  simp [readSector, h]

theorem sectorBad_of_sectorErrors {s : State} {sec : Nat} (h : sectorErrors s sec = []) : sectorBad s sec = false := by
  simp [sectorBad, sectorOutcome, h]

/-- A range without an error is read as it stands. -/
theorem readRange_of_sectorErrors {s : State} {a n : Nat} (h : ∀ sec ∈ sectorRange a n, sectorErrors s sec = []) :
    readRange s a n = (s, none) := by
  have hfold : ∀ secs : List Nat, (∀ sec ∈ secs, sectorErrors s sec = []) → secs.foldl readSector s = s := by
    intro secs
    induction secs with
    | nil => exact fun _ => rfl
    | cons sec secs ih =>
      intro hs
      obtain ⟨hsec, hrest⟩ := List.forall_mem_cons.mp hs
      rw [List.foldl_cons, readSector_of_sectorErrors hsec, ih hrest]
  have hgood : (sectorRange a n).find? (fun x => sectorBad s x) = none :=
    List.find?_eq_none.mpr fun sec hsec => by simp [sectorBad_of_sectorErrors (h sec hsec)]
  simp only [readRange, hfold _ h, hgood]

/-! ### Words whose outcome is known -/

section Word

variable {s : State} {g : Group} {p : Path} {w : Word} (h : Issuing s g p w) {i : Instr}

theorem addressTraps_of_next {l : Nat} {sp : Space} {a : Nat} (hexec : exec i s = .next (memoryTrap s g p l w sp false a)) :
    AddressTraps i s g p w l sp a := by
  unfold AddressTraps Traps
  simpa [memoryTrap, plainTrap] using hexec

include h

theorem movesPath_of_next {q : Path} (hexec : exec i s = .next (putPath s g q)) (hq : q.pid = p.pid) : MovesPath i s g p q :=
  ⟨putPath s g q, setPath g q, hexec, pathOnly_putPath h g q hq rfl rfl, rfl⟩

/-- A word that reads a block and goes on with its bytes. -/
theorem blockCourse_of_next {l : Nat} {sp : Space} {addr align len : Nat} {k : State → List Byte → State}
    (hexec : exec i s = .next (withBlock s g p w l sp addr align len k)) : BlockCourse i s g p w l sp addr align len := by
  unfold withBlock at hexec
  refine ⟨fun halign => ?_, fun halign a hres => ?_,
    fun halign a hres => ⟨fun hready => ?_, fun hready n sec hn hbad hfirst => ?_⟩⟩
  · rw [if_pos halign] at hexec
    exact addressTraps_of_next hexec
  all_goals
    rw [if_neg (not_not.mpr halign)] at hexec
    simp only [hres] at hexec
  · exact addressTraps_of_next hexec
  · refine movesPath_of_next h (q := parked p .issue) ?_ rfl
    simpa [hready] using hexec
  · simp only [hready, readRange, find_sectorBad hn hbad hfirst] at hexec
    exact ⟨_, hexec, stopBad_stopsAt ..⟩

end Word

/-- A block that can be read is read. -/
theorem withBlock_readable {s : State} {g : Group} {l : Nat} {sp : Space} {addr align len : Nat} {bs : List Byte}
    (hread : ReadableBlock s g l sp addr align len bs) (p : Path) (w : Word) (k : State → List Byte → State) :
    withBlock s g p w l sp addr align len k = k s bs := by
  obtain ⟨halign, a, hres, hready, hgood, rfl⟩ := hread
  simp [withBlock, halign, hres, hready, readRange_of_sectorErrors hgood]

/-! ### Ranges that a request names (R140) -/

theorem firstFailing_cons_ok {s : State} {g : Group} {r : Named} {x : Nat} (h : resolve s g r.sp r.addr r.len = .ok x)
    (rs : List Named) : firstFailing s g (r :: rs) = firstFailing s g rs := by
  simp [firstFailing, h]

theorem firstFailing_cons_error {s : State} {g : Group} {r : Named} {a : Nat} (h : resolve s g r.sp r.addr r.len = .error a)
    (rs : List Named) : firstFailing s g (r :: rs) = some (r.sp, a) := by
  simp [firstFailing, h]

/-- The first named range that fails is the one reported. -/
theorem firstFailing_eq_some {s : State} {g : Group} {rs : List Named} {k : Nat} {r : Named} {a : Nat} (hk : rs[k]? = some r)
    (hbad : resolve s g r.sp r.addr r.len = .error a)
    (hfirst : ∀ (j : Nat) (y : Named), j < k → rs[j]? = some y → ∃ x, resolve s g y.sp y.addr y.len = .ok x) :
    firstFailing s g rs = some (r.sp, a) := by
  induction rs generalizing k with
  | nil => simp at hk
  | cons y rs ih =>
    cases k with
    | zero =>
      obtain rfl : y = r := by simpa using hk
      exact firstFailing_cons_error hbad rs
    | succ k =>
      obtain ⟨x, hx⟩ := hfirst 0 y (by omega) rfl
      rw [firstFailing_cons_ok hx]
      exact ih (by simpa using hk) fun j z hj hz => hfirst (j + 1) z (by omega) (by simpa using hz)

theorem namedTraps_of_next {s : State} {g : Group} {p : Path} {w : Word} {i : Instr} {l : Nat} {rs : List Named}
    (hexec : ∀ x, firstFailing s g rs = some x → exec i s = .next (memoryTrap s g p l w x.1 false x.2)) :
    NamedTraps i s g p w l rs := by
  intro k r a hk hbad hfirst
  have hnext := hexec (r.sp, a) (firstFailing_eq_some hk hbad hfirst)
  exact addressTraps_of_next hnext

/-! ### A request whose fields are good -/

/-- The course that a copy and a bulk read share once their fields have been checked (R103, R123): the named ranges are checked,
the index list of an indexed request is read, and `go` begins it. -/
def issueRequest (s : State) (g : Group) (p : Path) (w : Word) (l : Nat) (rs : List Named) (indexed : Bool) (list : Named)
    (go : State → List Byte → State) : State :=
  match firstFailing s g rs with
  | some x => memoryTrap s g p l w x.1 false x.2
  | none => if indexed then withBlock s g p w l list.sp list.addr 1 list.len go else go s []

section Request

variable {s : State} {g : Group} {p : Path} {w : Word} {i : Instr} {l : Nat} {rs : List Named} {indexed : Bool} {list : Named}
  {go : State → List Byte → State} (hexec : exec i s = .next (issueRequest s g p w l rs indexed list go))
include hexec

theorem request_namedTraps : NamedTraps i s g p w l rs := by
  refine namedTraps_of_next fun x hx => ?_
  rw [hexec, issueRequest, hx]

variable (hnamed : firstFailing s g rs = none)
include hnamed

theorem request_indexCourse (h : Issuing s g p w) (hindexed : indexed = true) :
    BlockCourse i s g p w l list.sp list.addr 1 list.len := by
  refine blockCourse_of_next h (k := go) ?_
  rw [hexec, issueRequest, hnamed]
  exact congrArg _ (if_pos hindexed)

/-- A request whose ranges may be addressed begins, once its index list can be read. -/
theorem request_begins {ls : List Byte} (hlist : indexed = true → ReadableBlock s g l list.sp list.addr 1 list.len ls) :
    exec i s = .next (go s (if indexed then ls else [])) := by
  rw [hexec, issueRequest, hnamed]
  cases hindexed : indexed
  · rfl
  · simp only [if_true, withBlock_readable (hlist hindexed)]

end Request

/-! ### Lines that become absent (R97, R115) -/

theorem mem_clears_addClears {s : State} {req step : Nat} {lines : List Nat} {c : Clear} :
    c ∈ (addClears s req step lines).sram.clears ↔ c ∈ s.sram.clears ∨ (c.line ∈ lines ∧ c.req = req ∧ c.step = step ∧
      c.landed = false ∧ domainOf s (c.line * 128) = some c.dom) := by
  simp only [addClears, List.mem_append, List.mem_filterMap, Option.map_eq_some_iff]
  refine or_congr_right ⟨?_, ?_⟩
  · rintro ⟨line, hline, d, hd, rfl⟩
    exact ⟨hline, rfl, rfl, rfl, hd⟩
  · rintro ⟨hline, hreq, hstep, hlanded, hd⟩
    refine ⟨c.line, hline, c.dom, hd, ?_⟩
    rw [← hreq, ← hstep, ← hlanded]

/-! ### Bytes of a block (R3, R28) -/

/-- The bytes of the first sectors of a range. -/
theorem length_rangeSectors (s : State) (task a n t m : Nat) :
    ((List.range m).flatMap fun k =>
      loadBytes s task t (max a ((a / 32 + k) * 32)) (min (a + n) ((a / 32 + k + 1) * 32) - max a ((a / 32 + k) * 32))).length =
        min (a + n) ((a / 32 + m) * 32) - a := by
  induction m with
  | zero =>
    simp only [List.range_zero, List.flatMap_nil, List.length_nil]
    omega
  | succ m ih =>
    rw [List.range_succ, List.flatMap_append, List.length_append, ih, List.flatMap_singleton]
    simp only [loadBytes, List.length_map, List.length_range]
    omega

theorem length_rangeBytes (s : State) (task a t : Nat) {n : Nat} (hn : 1 ≤ n) : (rangeBytes s task a n t).length = n := by
  unfold rangeBytes
  refine (length_rangeSectors s task a n t _).trans ?_
  omega

theorem length_of_readableBlock {s : State} {g : Group} {l : Nat} {sp : Space} {addr align len : Nat} {bs : List Byte}
    (hread : ReadableBlock s g l sp addr align len bs) (hlen : 1 ≤ len) : bs.length = len := by
  obtain ⟨_, _, _, _, _, rfl⟩ := hread
  exact length_rangeBytes _ _ _ _ hlen

end Sys2Proof.RequestBlocks
end

section
/-!
PROOF. `COPY` and `CPYS` (R92 to R97, R103): from the request block to the outstanding copy.
-/

namespace Sys2Proof.CopyStarts

open Sys2Proof Sys2Proof.Machine Sys2Proof.RequestBlocks

/-! ### The request block -/

/-- `CPYS` or `COPY`. -/
def copyWord (scalar : Bool) (a imm : BitVec 6) (gd : Guard) (sp : Space) : Instr :=
  if scalar then .cpys a gd else .copy a imm gd sp

/-- The words of the block, which stands in eight scalar registers or in memory. -/
def copyBlock (scalar : Bool) (p : Path) (a : BitVec 6) (bs : List Byte) : List Nat :=
  if scalar then (List.range 8).map fun k => (sreg p (a.toNat + k)).toNat else wordsOf bs

/-- What an engine-request trap of a copy reports (R274). -/
def copyTrap (scalar : Bool) (l : Nat) (w ea : Word) : TrapOf :=
  { kind := 5, lane := l, word := w, addr := if scalar then 0 else ea, info := if scalar then 1 else 0, after := false }

theorem lowest_zero : lowest 0 = none := by decide

section Word

variable {s : State} {g : Group} {p : Path} {w : Word} (h : Issuing s g p w) (scalar : Bool) (a imm : BitVec 6) {gd : Guard}
  (sp : Space)
include h

theorem copy_masked (hact : activeMask p gd = 0) : MovesPath (copyWord scalar a imm gd sp) s g p p.past := by
  refine movesPath_of_next h ?_ rfl
  cases scalar
  · change execCopy a imm gd sp s = _
    rw [execCopy, onPath_next h, hact, lowest_zero]
    rfl
  · change execCpys a gd s = _
    rw [execCpys, onPath_next h, hact, lowest_zero]
    rfl

variable {l : Nat} (hl : lowest (activeMask p gd) = some l)
include hl

theorem copy_inHandler (hhandler : g.handler.isSome = true) :
    Traps (copyWord scalar a imm gd sp) s g p (copyTrap scalar l w (opA g p false a l + imms p imm)) := by
  unfold Traps
  cases scalar
  · change execCopy a imm gd sp s = _
    simp only [execCopy, onPath_next h, hl, if_pos hhandler]
    rfl
  · change execCpys a gd s = _
    simp only [execCpys, onPath_next h, hl, if_pos hhandler]
    rfl

/-- The block of a `COPY` is read first. -/
theorem exec_copy_block (hhandler : g.handler = none) : exec (copyWord false a imm gd sp) s =
    .next (withBlock s g p w l sp (opA g p false a l + imms p imm).toNat 32 32 fun s bs =>
      runCopy 0 (opA g p false a l + imms p imm) s g p w l (wordsOf bs)) := by
  change execCopy a imm gd sp s = _
  simp [execCopy, onPath_next h, hl, hhandler]

/-- A block that stands in registers, or that can be read, is checked. -/
theorem exec_copyWord (hhandler : g.handler = none) {bs : List Byte}
    (hread : scalar = false → ReadableBlock s g l sp (opA g p false a l + imms p imm).toNat 32 32 bs) :
    exec (copyWord scalar a imm gd sp) s = .next (runCopy (if scalar then 1 else 0)
      (if scalar then 0 else opA g p false a l + imms p imm) s g p w l (copyBlock scalar p a bs)) := by
  cases scalar
  · rw [exec_copy_block h a imm sp hl hhandler, withBlock_readable (hread rfl)]
    rfl
  · change execCpys a gd s = _
    simp only [execCpys, onPath_next h, hl, hhandler]
    rfl

end Word

/-! ### The request -/

/-- The ranges that a copy request names (R103, R140). -/
def copyNamed (q : CopyReq) : List Named :=
  [⟨q.nsp, q.near, q.nearLen⟩] ++ (if q.nocnt then [] else [⟨q.csp, q.cnt, 4⟩]) ++
    (if q.indexed then [⟨q.isp, q.idx, q.listLen⟩] else [])

/-- The outstanding copy of a request, with the indices `xs`. -/
def startedCopy (s : State) (g : Group) (p : Path) (l : Nat) (q : CopyReq) (xs : List Nat) : Copy :=
  { head := headOf g p l s.fresh, outbound := q.outbound, indexed := q.indexed, conv := q.conv,
    fill := BitVec.ofNat 8 q.fill, swz := q.swz, far := q.far, near := absoluteOf s g q.nsp q.near, len := q.nearLen,
    rows := q.len, first := q.first, rlen := q.rlen, idx := xs,
    cnt := if q.nocnt then none else some (absoluteOf s g q.csp q.cnt), bursts := q.bursts xs, nearData := none, badNear := [],
    lines := if q.outbound then [] else linesOf (absoluteOf s g q.nsp q.near) q.nearLen, begun := false }

/-- A copy starts beside the others, its lines about to become absent, and its path goes on. -/
theorem startCopy_eq (s : State) (g : Group) (p : Path) (l : Nat) (q : CopyReq) (xs : List Nat) :
    startCopy s g p l q xs =
      let c := startedCopy s g p l q xs
      putPath { s with
        fresh := s.fresh + 1
        eng := { s.eng with copies := s.eng.copies ++ [c] }
        sram := { s.sram with clears := (addClears s s.fresh c.head.step c.lines).sram.clears } } g (advance p) := rfl

theorem mem_startedCopy_lines {s : State} {g : Group} {p : Path} {l : Nat} {q : CopyReq} {xs : List Nat} {line : Nat} :
    line ∈ (startedCopy s g p l q xs).lines ↔
      q.outbound = false ∧ line ∈ linesOf (absoluteOf s g q.nsp q.near) q.nearLen := by
  cases hout : q.outbound <;> simp [startedCopy, hout]

/-- The copies that the core of a group has under way (R103). -/
def coreCopies (s : State) (g : Group) : Nat := (s.eng.copies.filter fun c => decide (c.head.core = g.core)).length

/-- A checked request waits for room on its core, or starts with the indices of its list (R103). -/
def beginCopy (g : Group) (p : Path) (l : Nat) (q : CopyReq) (s : State) (ls : List Byte) : State :=
  if 64 ≤ coreCopies s g then putPath s g (parked p .issue) else startCopy s g p l q (indexList q.ixw ls)

theorem issueCopy_eq (s : State) (g : Group) (p : Path) (w : Word) (l : Nat) (q : CopyReq) : issueCopy s g p w l q =
    issueRequest s g p w l (copyNamed q) q.indexed ⟨q.isp, q.idx, q.listLen⟩ (beginCopy g p l q) := rfl

section Request

variable {s : State} {g : Group} {p : Path} {w : Word} {i : Instr} {l f : Nat} {addr : Word} {ws : List Nat}

theorem copy_refused (hexec : exec i s = .next (runCopy f addr s g p w l ws))
    (hbad : (copyReqOf ws).ok = false ∨ (copyReqOf ws).cntInside s g = true) :
    Traps i s g p { kind := 5, lane := l, word := w, addr := addr, info := BitVec.ofNat 32 f, after := false } := by
  have hrefused : (!(copyReqOf ws).ok || (copyReqOf ws).cntInside s g) = true := by
    rcases hbad with hbad | hbad <;> simp [hbad]
  simp only [runCopy, hrefused, if_true] at hexec
  exact hexec

theorem runCopy_accepted (hok : (copyReqOf ws).ok = true) (hcnt : (copyReqOf ws).cntInside s g = false) :
    runCopy f addr s g p w l ws = issueRequest s g p w l (copyNamed (copyReqOf ws)) (copyReqOf ws).indexed
      ⟨(copyReqOf ws).isp, (copyReqOf ws).idx, (copyReqOf ws).listLen⟩ (beginCopy g p l (copyReqOf ws)) := by
  rw [← issueCopy_eq]
  simp [runCopy, hok, hcnt]

variable {q : CopyReq} {ls : List Byte} (h : Issuing s g p w) (hexec : exec i s = .next (beginCopy g p l q s ls))
include h hexec

theorem copy_waits (hfull : 64 ≤ coreCopies s g) : MovesPath i s g p { p with park := some .issue } := by
  refine movesPath_of_next h (q := parked p .issue) ?_ rfl
  rw [hexec, beginCopy, if_pos hfull]

theorem copy_starts (hroom : coreCopies s g < 64) :
    let c := startedCopy s g p l q (indexList q.ixw ls)
    ∃ t, exec i s = .next t ∧ GoesOn s g p p.past t ∧ t.eng.copies = s.eng.copies ++ [c] ∧
      (c.outbound = true → t.sram = s.sram) ∧
      (∀ k, k ∈ t.sram.clears ↔ k ∈ s.sram.clears ∨ (k.line ∈ c.lines ∧ k.req = s.fresh ∧ k.step = c.head.step ∧
        k.landed = false ∧ domainOf s (k.line * 128) = some k.dom)) ∧
      t = { s with
        fresh := s.fresh + 1, groups := t.groups, eng := { s.eng with copies := t.eng.copies }
        sram := { s.sram with clears := t.sram.clears } } := by
  intro c
  refine ⟨startCopy s g p l q (indexList q.ixw ls), by rw [hexec, beginCopy, if_neg (by omega)],
    ⟨setPath g (advance p), pathOnly_putPath h g (advance p) rfl rfl rfl, rfl⟩, rfl, fun hout => ?_, fun k => ?_, rfl⟩
  · have hlines : c.lines = [] := by
      refine List.eq_nil_iff_forall_not_mem.mpr fun line hline => ?_
      exact absurd (mem_startedCopy_lines.mp hline).1 (by simpa [c, startedCopy] using hout)
    change { s.sram with clears := (addClears s s.fresh c.head.step c.lines).sram.clears } = s.sram
    simp [hlines, addClears]
  · exact mem_clears_addClears

end Request

end Sys2Proof.CopyStarts
end

section
/-!
PROOF. `BRD` and `BRDI` (R104 to R107, R115, R123): from the request block to the outstanding bulk read and its bursts.
-/

namespace Sys2Proof.BulkStarts

open Sys2Proof Sys2Proof.Machine Sys2Proof.RegionBytes Sys2Proof.RequestBlocks Sys2Proof.CopyStarts

/-! ### The request block -/

/-- `BRDI` or `BRD`. -/
def bulkWord (indexed : Bool) (a imm : BitVec 6) (gd : Guard) (sp : Space) : Instr :=
  if indexed then .brdi a imm gd sp else .brd a imm gd sp

/-- The function code of the two words (R274). -/
def bulkCode (indexed : Bool) : Nat := if indexed then 3 else 2

theorem exec_bulkWord (indexed : Bool) (a imm : BitVec 6) (gd : Guard) (sp : Space) (s : State) :
    exec (bulkWord indexed a imm gd sp) s = bulkOp (bulkCode indexed) a imm gd sp s := by
  cases indexed <;> rfl

section Word

variable {s : State} {g : Group} {p : Path} {w : Word} (h : Issuing s g p w) (indexed : Bool) (a imm : BitVec 6) {gd : Guard}
  (sp : Space)
include h

theorem bulk_masked (hact : activeMask p gd = 0) : MovesPath (bulkWord indexed a imm gd sp) s g p p.past := by
  refine movesPath_of_next h (q := advance p) ?_ rfl
  rw [exec_bulkWord, bulkOp, onPath_next h, hact, lowest_zero]

variable {l : Nat} (hl : lowest (activeMask p gd) = some l)
include hl

theorem bulk_inHandler (hhandler : g.handler.isSome = true) : Traps (bulkWord indexed a imm gd sp) s g p
    { kind := 5, lane := l, word := w, addr := opA g p false a l + imms p imm, info := BitVec.ofNat 32 (bulkCode indexed),
      after := false } := by
  unfold Traps
  simp only [exec_bulkWord, bulkOp, onPath_next h, hl, if_pos hhandler]
  rfl

/-- The block is read first. -/
theorem exec_bulk_block (hhandler : g.handler = none) : exec (bulkWord indexed a imm gd sp) s =
    .next (withBlock s g p w l sp (opA g p false a l + imms p imm).toNat 64 64 fun s bs =>
      runBulk (bulkCode indexed) (opA g p false a l + imms p imm) s g p w l (wordsOf bs)) := by
  simp [exec_bulkWord, bulkOp, onPath_next h, hl, hhandler]

theorem exec_bulk_readable (hhandler : g.handler = none) {bs : List Byte}
    (hread : ReadableBlock s g l sp (opA g p false a l + imms p imm).toNat 64 64 bs) :
    exec (bulkWord indexed a imm gd sp) s =
      .next (runBulk (bulkCode indexed) (opA g p false a l + imms p imm) s g p w l (wordsOf bs)) := by
  rw [exec_bulk_block h indexed a imm sp hl hhandler, withBlock_readable hread]

end Word

/-! ### Bursts and their coordinates (R106, R120) -/

theorem getElem?_indexList {wide16 : Bool} {ls : List Byte} {m : Nat} (hm : m < ls.length / (if wide16 then 2 else 4)) :
    (indexList wide16 ls)[m]? =
      some (natOfBytes ((ls.drop ((if wide16 then 2 else 4) * m)).take (if wide16 then 2 else 4))) := by
  simp [indexList, hm]

/-- A list of `n` indices has `n` of them. -/
theorem length_indexList {wide16 : Bool} {ls : List Byte} {n : Nat} (hlen : ls.length = n * (if wide16 then 2 else 4)) :
    (indexList wide16 ls).length = n := by
  cases wide16 <;> simp [indexList, hlen]

/-- Burst `j` of the row that list position `m` names by the index `x`. -/
def rowBurst (q : BulkReq) (m x j : Nat) : Burst :=
  { va := (q.far + (x * q.rlen + j) * 64) % 2 ^ 64, pos := m, offset := j * 64, coord := (m * q.rlen + j, m, x)
    state := if x < q.rows then .todo else .failed (0x80 + m) }

section Bursts

variable {q : BulkReq} {xs : List Nat}

theorem length_bursts_indexed (hindexed : q.indexed = true) : (q.bursts xs).length = xs.length * q.rlen := by
  rw [BulkReq.bursts, if_pos hindexed, length_flatMap_pieces (m := q.rlen) fun _ _ => by simp]
  simp

theorem getElem?_bursts_indexed (hindexed : q.indexed = true) {m j x : Nat} (hx : xs[m]? = some x) (hj : j < q.rlen) :
    (q.bursts xs)[m * q.rlen + j]? = some (rowBurst q m x j) := by
  rw [BulkReq.bursts, if_pos hindexed, Nat.mul_comm m, getElem?_flatMap_pieces (fun _ _ => by simp) hj]
  simp [hx, hj, rowBurst]

theorem length_bursts_contiguous (hcontiguous : q.indexed = false) : (q.bursts xs).length = q.rows := by
  simp [BulkReq.bursts, hcontiguous]

theorem getElem?_bursts_contiguous (hcontiguous : q.indexed = false) {n : Nat} (hn : n < q.rows) : (q.bursts xs)[n]? =
    some { va := (q.far + 64 * n) % 2 ^ 64, pos := 0, offset := 64 * n, coord := (n, 64 * n, 0), state := .todo } := by
  simp [BulkReq.bursts, hcontiguous, hn]

end Bursts

/-! ### The request -/

/-- The ranges that a bulk-read request names (R123, R140). -/
def bulkNamed (q : BulkReq) : List Named :=
  [⟨q.wsp, q.win, q.winLen⟩] ++ (if q.nocnt then [] else [⟨q.csp, q.cnt, 4⟩]) ++
    (if q.indexed then [⟨q.isp, q.idx, q.listLen⟩] else [])

/-- The outstanding bulk read of a request, with the indices `xs`. -/
def startedBulk (s : State) (g : Group) (p : Path) (l : Nat) (q : BulkReq) (xs : List Nat) : Bulk :=
  { head := headOf g p l s.fresh, win := absoluteOf s g q.wsp q.win, winLines := q.wln, winSpace := q.wsp,
    cnt := if q.nocnt then none else some (absoluteOf s g q.csp q.cnt), hnd := q.hnd,
    chnd := if q.ce then some q.chnd else none, tag := q.tag,
    params := (List.range 8).map fun k => BitVec.ofNat 32 (blockWord q.params k), indexed := q.indexed,
    total := q.total, rows := q.rows, idx := xs, bursts := q.bursts xs, born := 0, landed := false }

/-- A bulk read starts beside the others, the lines of its window about to become absent, and its path goes on. -/
theorem startBulk_eq (s : State) (g : Group) (p : Path) (l : Nat) (q : BulkReq) (xs : List Nat) :
    startBulk s g p l q xs =
      let b := startedBulk s g p l q xs
      putPath { s with
        fresh := s.fresh + 1
        eng := { s.eng with bulks := s.eng.bulks ++ [b] }
        sram := { s.sram with clears := (addClears s s.fresh b.head.step (linesOf b.win q.winLen)).sram.clears } }
        g (advance p) := rfl

/-- The bulk reads that the core of a group has under way (R111). -/
def coreBulks (s : State) (g : Group) : Nat := (s.eng.bulks.filter fun b => decide (b.head.core = g.core)).length

/-- A checked request waits for room on its core, or starts with the indices of its list (R111, R123). -/
def beginBulk (g : Group) (p : Path) (l : Nat) (q : BulkReq) (s : State) (ls : List Byte) : State :=
  if 16 ≤ coreBulks s g then putPath s g (parked p .issue) else startBulk s g p l q (indexList q.ixw ls)

theorem issueBulk_eq (s : State) (g : Group) (p : Path) (w : Word) (l : Nat) (q : BulkReq) : issueBulk s g p w l q =
    issueRequest s g p w l (bulkNamed q) q.indexed ⟨q.isp, q.idx, q.listLen⟩ (beginBulk g p l q) := rfl

/-- What a bulk-read request of a task must keep (R104, R105, R107, R108, R123). -/
def BulkGood (s : State) (g : Group) (k : Task) (q : BulkReq) : Prop :=
  q.commonOk = true ∧ (if q.indexed then q.indexedOk else q.contiguousOk) = true ∧ q.handlersOk k = true ∧ q.clash s g = false

theorem refused_iff {s : State} {g : Group} {k : Task} {q : BulkReq} :
    (!(q.commonOk && (if q.indexed then q.indexedOk else q.contiguousOk)) || !q.handlersOk k || q.clash s g) = true ↔
      ¬ BulkGood s g k q := by
  unfold BulkGood
  cases q.commonOk <;> cases (if q.indexed then q.indexedOk else q.contiguousOk) <;> simp
  cases q.handlersOk k <;> simp

section Request

variable {s : State} {g : Group} {p : Path} {w : Word} {i : Instr} {l : Nat} {indexed : Bool} {addr : Word} {ws : List Nat}
  {k : Task} (hk : findTask s g.task = some k)

theorem decide_bulkCode (indexed : Bool) : decide (bulkCode indexed = 3) = indexed := by
  cases indexed <;> rfl

include hk in
/-- The fields of a request are checked. -/
theorem runBulk_eq : runBulk (bulkCode indexed) addr s g p w l ws =
    if (!((bulkReqOf indexed ws).commonOk && (if (bulkReqOf indexed ws).indexed then (bulkReqOf indexed ws).indexedOk
        else (bulkReqOf indexed ws).contiguousOk)) || !(bulkReqOf indexed ws).handlersOk k ||
        (bulkReqOf indexed ws).clash s g) = true
      then engineTrap s g p l w addr (bulkCode indexed) else issueBulk s g p w l (bulkReqOf indexed ws) := by
  simp only [runBulk, decide_bulkCode, hk, Option.getD_some]

include hk in
theorem bulk_refused (hexec : exec i s = .next (runBulk (bulkCode indexed) addr s g p w l ws))
    (hbad : ¬ BulkGood s g k (bulkReqOf indexed ws)) : Traps i s g p
      { kind := 5, lane := l, word := w, addr := addr, info := BitVec.ofNat 32 (bulkCode indexed), after := false } := by
  rw [runBulk_eq hk, if_pos (refused_iff.mpr hbad)] at hexec
  exact hexec

include hk in
theorem runBulk_accepted (hgood : BulkGood s g k (bulkReqOf indexed ws)) : runBulk (bulkCode indexed) addr s g p w l ws =
    issueRequest s g p w l (bulkNamed (bulkReqOf indexed ws)) indexed
      ⟨(bulkReqOf indexed ws).isp, (bulkReqOf indexed ws).idx, (bulkReqOf indexed ws).listLen⟩
      (beginBulk g p l (bulkReqOf indexed ws)) := by
  rw [runBulk_eq hk, if_neg (mt refused_iff.mp (not_not.mpr hgood)), issueBulk_eq]
  rfl

variable {q : BulkReq} {ls : List Byte} (h : Issuing s g p w) (hexec : exec i s = .next (beginBulk g p l q s ls))
include h hexec

theorem bulk_waits (hfull : 16 ≤ coreBulks s g) : MovesPath i s g p { p with park := some .issue } := by
  refine movesPath_of_next h (q := parked p .issue) ?_ rfl
  rw [hexec, beginBulk, if_pos hfull]

theorem bulk_starts (hroom : coreBulks s g < 16) :
    let b := startedBulk s g p l q (indexList q.ixw ls)
    ∃ t, exec i s = .next t ∧ GoesOn s g p p.past t ∧ t.eng.bulks = s.eng.bulks ++ [b] ∧
      (∀ c, c ∈ t.sram.clears ↔ c ∈ s.sram.clears ∨ (c.line ∈ linesOf b.win q.winLen ∧ c.req = s.fresh ∧
        c.step = b.head.step ∧ c.landed = false ∧ domainOf s (c.line * 128) = some c.dom)) ∧
      t = { s with
        fresh := s.fresh + 1, groups := t.groups, eng := { s.eng with bulks := t.eng.bulks }
        sram := { s.sram with clears := t.sram.clears } } := by
  intro b
  exact ⟨startBulk s g p l q (indexList q.ixw ls), by rw [hexec, beginBulk, if_neg (by omega)],
    ⟨setPath g (advance p), pathOnly_putPath h g (advance p) rfl rfl rfl, rfl⟩, rfl, fun c => mem_clears_addClears, rfl⟩

end Request

/-- The bursts of a started bulk read are as many as its total. -/
theorem length_bursts_started {q : BulkReq} {xs : List Nat} (hlen : q.indexed = true → xs.length = q.count) :
    (q.bursts xs).length = q.total := by
  cases hindexed : q.indexed
  · rw [length_bursts_contiguous hindexed]
    simp [BulkReq.total, hindexed]
  · rw [length_bursts_indexed hindexed, hlen hindexed]
    simp [BulkReq.total, hindexed]

/-- The index list of a good request has as many indices as the request says. -/
theorem length_indices {s : State} {g : Group} {k : Task} {q : BulkReq} {l : Nat} {ls : List Byte} (hgood : BulkGood s g k q)
    (hlist : q.indexed = true → ReadableBlock s g l q.isp q.idx 1 q.listLen ls) (hindexed : q.indexed = true) :
    ls.length = q.count * (if q.ixw then 2 else 4) := by
  have hcount : 1 ≤ q.count := by
    obtain ⟨-, hok, -, -⟩ := hgood
    rw [if_pos hindexed] at hok
    simp only [BulkReq.indexedOk, Bool.and_eq_true, decide_eq_true_eq] at hok
    tauto
  refine length_of_readableBlock (hlist hindexed) ?_
  split <;> omega

end Sys2Proof.BulkStarts
end

section
/-!
PROOF. The engine requests begin as their blocks say (R92 to R97, R103 to R107, R115, R123).
-/

namespace Sys2Proof.EngineStarts

open Sys2Proof Sys2Proof.Machine Sys2Proof.RequestBlocks Sys2Proof.CopyStarts Sys2Proof.BulkStarts

/-! ### The fields of a block -/

/-- A test in the model's Booleans is the statement's test. -/
theorem if_decide {α : Type} {c : Prop} [Decidable c] {x y : α} : (if decide c = true then x else y) = if c then x else y := by
  simp

theorem fill_copyReqOf (ws : List Nat) :
    BitVec.ofNat 8 (copyReqOf ws).fill = BitVec.ofNat 8 (ws.getD 5 0 / 2 ^ 16) := by
  refine BitVec.eq_of_toNat_eq ?_
  rw [BitVec.toNat_ofNat, BitVec.toNat_ofNat]
  exact Nat.mod_mod _ _

theorem indexed_copyReqOf (ws : List Nat) : (copyReqOf ws).indexed = decide (ws.getD 5 0 % 4 = 1) := by
  simp [CopyReq.indexed, bitsOf, copyReqOf, blockWord]

theorem indexList_nil (wide16 : Bool) : indexList wide16 [] = [] := by
  simp [indexList]

/-- A request without an index list starts with no indices. -/
theorem indexList_of_indexed (q : CopyReq) (ls : List Byte) :
    indexList q.ixw (if q.indexed then ls else []) = if q.indexed then indexList q.ixw ls else [] := by
  split
  · rfl
  · exact indexList_nil q.ixw

theorem params_bulkReqOf (indexed : Bool) (ws : List Nat) :
    ((List.range 8).map fun k => BitVec.ofNat 32 (blockWord (bulkReqOf indexed ws).params k)) =
      (List.range 8).map fun j => BitVec.ofNat 32 (ws.getD (8 + j) 0) := by
  refine List.map_congr_left fun j _ => ?_
  simp [bulkReqOf, blockWord]

theorem rlen_bulkReqOf (indexed : Bool) (ws : List Nat) : (bulkReqOf indexed ws).rlen = ws.getD 3 0 % 256 := by
  simp [BulkReq.rlen, bitsOf, bulkReqOf, blockWord]

theorem total_bulkReqOf (indexed : Bool) (ws : List Nat) : (bulkReqOf indexed ws).total =
    if indexed then ws.getD 3 0 / 2 ^ 8 % 256 * (ws.getD 3 0 % 256) else ws.getD 6 0 := by
  rw [BulkReq.total, rlen_bulkReqOf]
  rfl

/-- The bursts of a row go to the index that the list has at the row's position. -/
theorem getElem?_bursts_indexList {q : BulkReq} {ls : List Byte} (hindexed : q.indexed = true)
    (hlen : ls.length = q.count * (if q.ixw then 2 else 4)) {m j : Nat} (hm : m < q.count) (hj : j < q.rlen) :
    (q.bursts (indexList q.ixw ls))[m * q.rlen + j]? =
      some (rowBurst q m (natOfBytes ((ls.drop ((if q.ixw then 2 else 4) * m)).take (if q.ixw then 2 else 4))) j) := by
  refine getElem?_bursts_indexed hindexed (getElem?_indexList ?_) hj
  rw [hlen, Nat.mul_div_cancel _ (by split <;> omega)]
  exact hm

/-- Settles O47: both requests are checked in the same order, and what starts is what the block and the indices say. -/
theorem copiesAndBulkReadsStartFromTheirBlocks : Obligations.CopiesAndBulkReadsStartFromTheirBlocks := by
  unfold Obligations.CopiesAndBulkReadsStartFromTheirBlocks
  refine ⟨?copies, ?bulks⟩
  case copies =>
    intro s g p w a imm gd sp scalar bs ls h i
    refine ⟨copy_masked h scalar a imm sp, ?_⟩
    intro l hl ea ws q bad near named
    refine ⟨copy_inHandler h scalar a imm sp hl, fun hhandler hmem => ?_, fun hhandler hread => ?_⟩
    · subst hmem
      exact blockCourse_of_next h (exec_copy_block h a imm sp hl hhandler)
    have hrun := exec_copyWord h scalar a imm sp hl hhandler hread
    have hgood : q.ok = true → q.cntInside s g = false → exec i s =
        .next (issueRequest s g p w l named q.indexed ⟨q.isp, q.idx, q.listLen⟩ (beginCopy g p l q)) :=
      fun hok hcnt => hrun.trans (congrArg _ (runCopy_accepted hok hcnt))
    refine ⟨fun hbad => ?_, fun hok hcnt => request_namedTraps (hgood hok hcnt),
      fun hok hcnt hnamed => request_indexCourse (hgood hok hcnt) hnamed h, fun hok hcnt hnamed hlist => ?_⟩
    · have htrap := copy_refused hrun hbad
      cases scalar <;> exact htrap
    have hbegin := request_begins (hgood hok hcnt) hnamed hlist
    refine ⟨copy_waits h hbegin, fun hroom => ?_⟩
    obtain ⟨t, hexec, hon, hcopies, hout, hclears, ht⟩ := copy_starts h hbegin hroom
    exact ⟨t, _, hexec, hon, hcopies, rfl, rfl, rfl, rfl, rfl, rfl, fill_copyReqOf ws, if_decide,
      indexList_of_indexed q ls, rfl, indexed_copyReqOf ws, rfl, rfl, rfl, rfl, rfl, fun line => mem_startedCopy_lines, hout, hclears, ht⟩
  case bulks =>
    intro s g p w a imm gd sp indexed bs ls k h hk i
    refine ⟨bulk_masked h indexed a imm sp, ?_⟩
    intro l hl ea ws q bad win good named core far burst
    refine ⟨fun hhandler => ?_, fun hhandler => blockCourse_of_next h (exec_bulk_block h indexed a imm sp hl hhandler),
      fun hhandler hread => ?_⟩
    · have htrap := bulk_inHandler h indexed a imm sp hl hhandler
      cases indexed <;> exact htrap
    have hrun := exec_bulk_readable h indexed a imm sp hl hhandler hread
    have hgood : good → exec i s =
        .next (issueRequest s g p w l named indexed ⟨q.isp, q.idx, q.listLen⟩ (beginBulk g p l q)) :=
      fun hgood => hrun.trans (congrArg _ (runBulk_accepted hk hgood))
    refine ⟨fun hbad => ?_, fun hfields => request_namedTraps (hgood hfields),
      fun hfields hnamed => request_indexCourse (hgood hfields) hnamed h, fun hfields hnamed hlist => ?_⟩
    · have htrap := bulk_refused hk hrun hbad
      cases indexed <;> exact htrap
    have hbegin := request_begins (hgood hfields) hnamed hlist
    refine ⟨bulk_waits h hbegin, fun hroom => ?_⟩
    obtain ⟨t, hexec, hon, hbulks, hclears, ht⟩ := bulk_starts h hbegin hroom
    refine ⟨t, _, hexec, hon, hbulks, rfl, rfl, rfl, rfl, rfl, if_decide, if_decide, params_bulkReqOf indexed ws,
      total_bulkReqOf indexed ws, ?length, fun n hcontiguous hn => ?contiguous, fun m j hindexed hm hj => ?rows, rfl, rfl, hclears, ht⟩
    case length =>
      refine length_bursts_started fun hindexed => ?_
      obtain rfl : indexed = true := hindexed
      exact length_indexList (length_indices hfields hlist rfl)
    case contiguous =>
      exact congrArg (Option.map burst) (getElem?_bursts_contiguous hcontiguous hn)
    case rows =>
      subst hindexed
      rw [← rlen_bulkReqOf true ws] at hj ⊢
      have hrow := getElem?_bursts_indexList (q := q) rfl (length_indices hfields hlist rfl) hm hj
      refine (congrArg (Option.map burst) hrow).trans ?_
      rw [show (if q.ixw then 2 else 4) = if ws.getD 5 0 / 2 ^ 11 % 2 = 1 then 2 else 4 from if_decide]
      rfl

end Sys2Proof.EngineStarts
end

section
/-!
SUPPORT. A task that has been told to stop, on a machine where two records have one number: one of them is its child, which has
been told to stop already, and the other is not.
-/

namespace Sys2Proof.SharedTaskNumbers

open Sys2Proof Sys2Proof.Machine

/-- The task that has been told to stop. -/
def parentTask : Task := { (default : Task) with uid := 0, state := .running, stop := some 2 }

/-- A record of number 1 that runs on. -/
def otherTask : Task := { (default : Task) with uid := 1, state := .running }

/-- The child, of number 1 too, which has been told to stop. -/
def childTask : Task := { otherTask with parent := some 0, stop := some 0x15 }

/-- The device is up, with the three records. -/
def twoRecords : State := { State.reset with mgmt.up := true, tasks := [parentTask, otherTask, childTask] }

/-- The stop of the parent waits for the child, and changes nothing. -/
theorem stop_waits : exec (.taskStop parentTask.uid) twoRecords = .next twoRecords := rfl

/-- Refutes O56: the statement finds the child of a task that is told to stop by its number alone. Where another record has that
number and stands before it in the list of records (the statement does not exclude it), the record found is not the child: the
child has been told to stop, the stop of its parent waits for it, and the record found runs on. -/
theorem not_tasksLeaveAndReturn : ¬ Obligations.TasksLeaveAndReturn := by
  unfold Obligations.TasksLeaveAndReturn
  intro h
  obtain ⟨-, -, -, hchild, -⟩ :=
    h twoRecords parentTask otherTask default default default 2 0 default ⟨[], [], [], [], []⟩ default 0 []
      rfl
  obtain ⟨t, j, hexec, hfound, hstop, -⟩ := hchild rfl (by decide) (by decide) rfl (by decide) rfl
  obtain rfl : twoRecords = t := by simpa [stop_waits] using hexec
  obtain rfl : otherTask = j := by simpa [show findTask twoRecords otherTask.uid = some otherTask from rfl] using hfound
  exact absurd hstop (by decide)

end Sys2Proof.SharedTaskNumbers
end

section
/-!
SUPPORT. A group whose paths have changed is put back (R241, R246): the instruction-buffer pool where no path is held, the
rejoins that are due, and the first path.
-/

namespace Sys2Proof.Settling

open Sys2Proof Sys2Proof.Machine

/-! ### The instruction-buffer pool (R241) -/

/-- No path of the machine is held. -/
def NothingHeld (s : State) : Prop := ∀ x ∈ s.groups, ∀ p ∈ x.paths, heldSince p = none

theorem longestHeld_eq_none {ps : List (Nat × Path)} (h : ∀ x ∈ ps, heldSince x.2 = none) : longestHeld ps = none := by
  unfold longestHeld
  induction ps with
  | nil => rfl
  | cons x ps ih =>
    obtain ⟨hx, hps⟩ := List.forall_mem_cons.mp h
    rw [List.foldl_cons, hx]
    exact ih hps

/-- A free entry goes to nobody where no path is held. -/
theorem grantEntry_eq {s : State} (h : NothingHeld s) (core gid : Nat) : grantEntry s core gid = s := by
  have hall : ∀ x ∈ (s.groups.filter fun g => decide (g.core = core)).flatMap fun g => g.paths.map fun p => (g.gid, p),
      heldSince x.2 = none := by
    intro x hx
    obtain ⟨g, hg, hin⟩ := List.mem_flatMap.mp hx
    obtain ⟨p, hp, rfl⟩ := List.mem_map.mp hin
    exact h g (List.mem_filter.mp hg).1 p hp
  unfold grantEntry
  split
  · rfl
  · dsimp only
    rw [longestHeld_eq_none fun x hx => hall x (List.mem_filter.mp hx).1, longestHeld_eq_none hall]

theorem refillPool_eq {s : State} (h : NothingHeld s) (core gid : Nat) : refillPool s core gid = s := by
  unfold refillPool
  induction List.range 32 with
  | nil => rfl
  | cons n ns ih => rw [List.foldl_cons, grantEntry_eq h, ih]

theorem nothingHeld_putGroup {s : State} (h : NothingHeld s) {g : Group} (hg : ∀ p ∈ g.paths, heldSince p = none) :
    NothingHeld (putGroup s g) := by
  intro x hx p hp
  obtain ⟨y, hy, rfl⟩ := List.mem_map.mp hx
  split at hp
  · exact hg p hp
  · exact h y hy p hp

/-! ### Rejoins that are due (R246) -/

theorem getLsbD_foldl_exec (ps : List Path) (a : Mask) (l : Nat) : (ps.foldl (fun a p => a ||| p.exec) a).getLsbD l = true ↔
    a.getLsbD l = true ∨ ∃ x ∈ ps, x.exec.getLsbD l = true := by
  induction ps generalizing a with
  | nil => simp
  | cons p ps ih => simp [ih, or_assoc]

/-- The lanes of some paths. -/
theorem getLsbD_lanesOfPaths (ps : List Path) (l : Nat) : (ps.foldl (fun a p => a ||| p.exec) (0 : Mask)).getLsbD l = true ↔
    ∃ x ∈ ps, x.exec.getLsbD l = true := by
  rw [getLsbD_foldl_exec]
  simp

theorem mem_lanesOf {m : Mask} {l : Nat} : l ∈ lanesOf m ↔ m.getLsbD l = true := by
  simp only [lanesOf, List.mem_filter, List.mem_range, and_iff_right_iff_imp]
  exact BitVec.lt_of_getLsbD

theorem joinReady_iff {g : Group} {m : Mask} : joinReady g m = true ↔ Arrived g m := by
  simp only [joinReady, Arrived, List.all_eq_true, mem_lanesOf, Bool.or_eq_true, decide_eq_true_eq, getLsbD_lanesOfPaths,
    parkedWith, List.mem_filter, and_assoc, or_assoc]

theorem readyMask_eq_none {g : Group} (h : ∀ x ∈ g.paths, ∀ m, joinMask x = some m → ¬ Arrived g m) : readyMask g = none := by
  refine List.find?_eq_none.mpr fun m hm => ?_
  obtain ⟨x, hx, hjoin⟩ := List.mem_filterMap.mp hm
  exact mt joinReady_iff.mp (h x hx m hjoin)

theorem rejoin_eq {g : Group} (h : readyMask g = none) (n : Nat) : rejoin n g = g := by
  cases n with
  | zero => rfl
  | succ n => rw [rejoin, h]

/-! ### The first path (R241) -/

theorem keepFirst_of_first {g : Group} (h : ∃ p ∈ g.paths, p.slot = .first) : keepFirst g = g := by
  have hany : (g.paths.any fun p => decide (p.slot = .first)) = true := by simpa using h
  rw [keepFirst, if_pos hany]

theorem setPath_unplaced {g : Group} (hpids : (g.paths.map (·.pid)).Nodup) {p : Path} (hp : p ∈ g.paths) (slot : Slot) :
    (setPath g { p with slot := slot }).paths.map Path.unplaced = g.paths.map Path.unplaced := by
  simp only [setPath, updWhere, List.map_map]
  refine List.map_congr_left fun x hx => ?_
  simp only [Function.comp_apply, decide_eq_true_eq]
  split
  case isTrue hpid =>
    obtain rfl := List.inj_on_of_nodup_map hpids hx hp hpid
    rfl
  case isFalse => rfl

/-- Where no path is held, keeping a first path changes no more than the place of one path. -/
theorem keepFirst_spec {g : Group} (hpids : (g.paths.map (·.pid)).Nodup) (hheld : ∀ p ∈ g.paths, heldSince p = none) :
    keepFirst g = { g with paths := (keepFirst g).paths } ∧
      (keepFirst g).paths.map Path.unplaced = g.paths.map Path.unplaced ∧ ∀ p ∈ (keepFirst g).paths, heldSince p = none := by
  have hnone : longestHeld (g.paths.map fun p => (0, p)) = none := by
    refine longestHeld_eq_none fun x hx => ?_
    obtain ⟨p, hp, rfl⟩ := List.mem_map.mp hx
    exact hheld p hp
  unfold keepFirst
  split
  · exact ⟨rfl, rfl, hheld⟩
  · split
    case h_1 p hfind =>
      refine ⟨rfl, setPath_unplaced hpids (List.mem_of_find?_eq_some hfind) .first, fun x hx => ?_⟩
      obtain ⟨y, hy, rfl⟩ := List.mem_map.mp hx
      split
      · rfl
      · exact hheld y hy
    case h_2 =>
      rw [hnone]
      exact ⟨rfl, rfl, hheld⟩

/-! ### Putting the group back -/

section Settle

variable {s : State} (hheld : NothingHeld s) {h : Group}
include hheld

/-- A group without a path ends. -/
theorem settle_ends (hpaths : h.paths = []) :
    settle s h = { s with groups := s.groups.filter fun x => decide (x.gid ≠ h.gid) } := by
  have hkeep : keepFirst (rejoin h.paths.length h) = h := by
    rw [hpaths]
    change keepFirst h = h
    simp [keepFirst, hpaths, longestHeld]
  have hrest : NothingHeld { s with groups := s.groups.filter fun x => decide (x.gid ≠ h.gid) } :=
    fun x hx => hheld x (List.mem_filter.mp hx).1
  unfold settle
  dsimp only
  rw [hkeep, hpaths]
  exact refillPool_eq hrest _ _

/-- A group in which no rejoin is due goes on. -/
theorem settle_goesOn (hready : readyMask h = none) (hpids : (h.paths.map (·.pid)).Nodup)
    (hnone : ∀ p ∈ h.paths, heldSince p = none) (hpaths : h.paths ≠ []) : settle s h = putGroup s (keepFirst h) := by
  obtain ⟨-, hplaces, hkept⟩ := keepFirst_spec hpids hnone
  have hsome : (keepFirst h).paths.isEmpty = false := by
    have hlength := congrArg List.length hplaces
    rw [List.length_map, List.length_map] at hlength
    have := List.length_pos_of_ne_nil hpaths
    rw [List.isEmpty_eq_false_iff, ← List.length_pos_iff]
    omega
  unfold settle
  dsimp only
  rw [rejoin_eq hready, hsome]
  exact refillPool_eq (nothingHeld_putGroup hheld hkept) _ _

end Settle

/-! ### Lanes that leave (R246, R250, R252) -/

theorem dropLanes_leave (g : Group) {p q : Path} (hpid : q.pid = p.pid) (hexec : q.exec = p.exec) (m : Mask) (st : LaneState) :
    LanesLeave g p q m st (dropLanes g q m st) := by
  have hlanes := laneOf_modLanes g m fun _ t => { t with state := st }
  unfold LanesLeave dropLanes
  dsimp only
  rw [hexec, hpid]
  split
  · exact ⟨rfl, modLanes_length .., hlanes, rfl⟩
  · refine ⟨rfl, modLanes_length .., hlanes, ?_⟩
    simp [setPath, updWhere]

end Sys2Proof.Settling
end

section
/-!
PROOF. `EXIT` and `HEND` (R34, R124, R252, R277): the lanes that end, the group that goes on or is gone, and the report lines of
the threads that exit.
-/

namespace Sys2Proof.LaneExits

open Sys2Proof Sys2Proof.Machine Sys2Proof.Records Sys2Proof.EngineWrites Sys2Proof.Issuance Sys2Proof.RequestBlocks
  Sys2Proof.Settling

/-! ### Which lanes are active (R34) -/

/-- Under the guard 0b1111 no lane is active. -/
theorem activeMask_never {gd : Guard} (hinv : gd.inv = true) (hp : gd.p = 7) (p : Path) : activeMask p gd = 0 := by
  simp [activeMask, hinv, predOf, hp]

theorem never_eq_false {gd : Guard} (h : ¬ (gd.inv = true ∧ gd.p = 7)) : never gd = false := by
  simpa [never] using h

/-- No lane is left over exactly where every lane of the path is active. -/
theorem inactive_eq_zero_iff {p : Path} {gd : Guard} : p.exec &&& ~~~(activeMask p gd) = 0 ↔ activeMask p gd = p.exec := by
  unfold activeMask
  generalize (if gd.inv then ~~~(predOf p gd.p) else predOf p gd.p) = x
  simp only [BitVec.eq_of_getLsbD_eq_iff]
  refine forall₂_congr fun l hl => ?_
  simp [hl]
  tauto

/-! ### The two words -/

section Word

variable {s : State} {g : Group} {p : Path} {w : Word} (h : Issuing s g p w) (gd : Guard)
include h

theorem exec_exit : exec (.exit gd) s = .next (if never gd then putPath s g (advance p)
    else if g.handler.isSome then handlerTrap s g p (activeMask p gd) w
    else if activeMask p gd = 0 then putPath s g (advance p)
    else exitLanes (noteExits s g (activeMask p gd) (seqStart p)) g (advance p) (activeMask p gd)) := by
  change execExit gd s = _
  rw [execExit, onPath_next h]

theorem exec_hend : exec (.hend gd) s = .next (if activeMask p gd = 0 then putPath s g (advance p)
    else if g.handler.isNone then handlerTrap s g p (activeMask p gd) w
    else exitLanes s g (advance p) (activeMask p gd)) := by
  change execHend gd s = _
  rw [execHend, onPath_next h]

variable {gd}

theorem exit_never (hinv : gd.inv = true) (hp : gd.p = 7) : MovesPath (.exit gd) s g p p.past := by
  have hnever : never gd = true := by simp [never, hinv, hp]
  refine movesPath_of_next h (q := advance p) ?_ rfl
  rw [exec_exit h, if_pos hnever]

theorem exit_masked (hhandler : g.handler = none) (hact : activeMask p gd = 0) : MovesPath (.exit gd) s g p p.past := by
  refine movesPath_of_next h (q := advance p) ?_ rfl
  rw [exec_exit h, hhandler, if_neg (c := Option.isSome none = true) Bool.false_ne_true, if_pos hact, ite_self]

theorem hend_masked (hact : activeMask p gd = 0) : MovesPath (.hend gd) s g p p.past := by
  refine movesPath_of_next h (q := advance p) ?_ rfl
  rw [exec_hend h, if_pos hact]

theorem exit_inHandler (hhandler : g.handler.isSome = true) (hgd : ¬ (gd.inv = true ∧ gd.p = 7)) : Traps (.exit gd) s g p
    { kind := 4, lane := (lowest (activeMask p gd)).getD ((lowest p.exec).getD 0), word := w, addr := 0, info := 0,
      after := false } := by
  unfold Traps
  rw [exec_exit h, never_eq_false hgd, if_neg Bool.false_ne_true, if_pos hhandler]
  rfl

theorem hend_inTask (hhandler : g.handler = none) (hact : activeMask p gd ≠ 0) : Traps (.hend gd) s g p
    { kind := 4, lane := (lowest (activeMask p gd)).getD ((lowest p.exec).getD 0), word := w, addr := 0, info := 0,
      after := false } := by
  unfold Traps
  rw [exec_hend h, if_neg hact, hhandler, if_pos Option.isNone_none]
  rfl

end Word

/-! ### The group whose lanes end (R252) -/

/-- The group after the lanes of `m` of its path `p` have ended. -/
def left (g : Group) (p : Path) (m : Mask) : Group := dropLanes g (advance p) m .exited

theorem left_leave (g : Group) (p : Path) (m : Mask) : LanesLeave g p p.past m .exited (left g p m) :=
  dropLanes_leave g rfl rfl m .exited

theorem left_gid (g : Group) (p : Path) (m : Mask) : (left g p m).gid = g.gid := by
  rw [(left_leave g p m).1]

theorem laneOf_left {g : Group} {l : Nat} (hl : l < g.lanes.length) (p : Path) (m : Mask) : laneOf (left g p m) l =
    if m.getLsbD l then { laneOf g l with state := .exited } else laneOf g l :=
  (left_leave g p m).2.2.1 l hl

section Left

variable {g : Group} {p : Path} {m : Mask} (hpath : findPath g p.pid = some p) (hpids : (g.paths.map (·.pid)).Nodup)

/-- A path that keeps lanes goes on with them. -/
theorem left_part (hrest : p.exec &&& ~~~m ≠ 0) : left g p m =
    setPath (modLanes g m fun _ t => { t with state := .exited }) { p.past with exec := p.exec &&& ~~~m } := by
  unfold left dropLanes
  exact if_neg hrest

/-- A path whose lanes have all ended is gone. -/
theorem left_paths_rest (hrest : p.exec &&& ~~~m = 0) :
    (left g p m).paths = g.paths.filter fun x => decide (x.pid ≠ p.pid) := by
  rw [(left_leave g p m).2.2.2, if_pos hrest]

include hpids in
theorem left_pids : ((left g p m).paths.map (·.pid)).Nodup := by
  by_cases hrest : p.exec &&& ~~~m = 0
  · rw [left_paths_rest hrest]
    exact hpids.sublist (List.filter_sublist.map _)
  · have hkeys : (left g p m).paths.map (·.pid) = g.paths.map (·.pid) := by
      rw [left_part hrest, setPath, updWhere, List.map_map]
      refine List.map_congr_left fun x _ => ?_
      simp only [Function.comp_apply, decide_eq_true_eq]
      split
      · exact Eq.symm ‹_›
      · rfl
    rwa [hkeys]

include hpath in
theorem left_held (hown : ∀ x ∈ g.paths, heldSince x = none) : ∀ x ∈ (left g p m).paths, heldSince x = none := by
  by_cases hrest : p.exec &&& ~~~m = 0
  · rw [left_paths_rest hrest]
    exact fun x hx => hown x (List.mem_filter.mp hx).1
  · rw [left_part hrest]
    intro x hx
    obtain ⟨y, hy, rfl⟩ := List.mem_map.mp hx
    split
    · exact hown p (List.mem_of_find?_eq_some hpath)
    · exact hown y hy

include hpath hpids in
/-- A path that goes on keeps its place, so that the group keeps its first path. -/
theorem left_first (hfirst : ∃ x ∈ g.paths, x.slot = .first) (hrest : p.exec &&& ~~~m ≠ 0) :
    ∃ x ∈ (left g p m).paths, x.slot = .first := by
  obtain ⟨x, hx, hslot⟩ := hfirst
  rw [left_part hrest]
  refine ⟨_, List.mem_map_of_mem hx, ?_⟩
  split
  case isTrue hpid =>
    obtain rfl := List.inj_on_of_nodup_map hpids hx (List.mem_of_find?_eq_some hpath) (of_decide_eq_true hpid)
    exact hslot
  case isFalse => exact hslot

include hpath hpids in
/-- The last path of a group leaves none behind, any other leaves the others. -/
theorem left_paths_eq_nil_iff (hrest : p.exec &&& ~~~m = 0) : (left g p m).paths = [] ↔ g.paths = [p] := by
  have hmem := List.mem_of_find?_eq_some hpath
  rw [left_paths_rest hrest, List.filter_eq_nil_iff]
  simp only [ne_eq, decide_eq_true_eq, not_not]
  refine ⟨fun hall => ?_, fun hone x hx => ?_⟩
  · have heq : ∀ x ∈ g.paths, x = p := fun x hx => List.inj_on_of_nodup_map hpids hx hmem (hall x hx)
    exact List.perm_singleton.mp ((List.perm_ext_iff_of_nodup hpids.of_map (List.nodup_singleton p)).mpr fun x =>
      ⟨fun hx => List.mem_singleton.mpr (heq x hx), fun hx => List.mem_singleton.mp hx ▸ hmem⟩)
  · rw [hone, List.mem_singleton] at hx
    rw [hx]

end Left

/-! ### The group is put back -/

section Settled

variable {s : State} {g : Group} {p : Path} {m : Mask} (hpath : findPath g p.pid = some p) (hheld : NoneHeld s g)
  (hpids : (g.paths.map (·.pid)).Nodup) (hready : readyMask (left g p m) = none)
include hpath hheld hpids

include hready in
theorem settle_part (hrest : p.exec &&& ~~~m ≠ 0) : settle s (left g p m) = putGroup s (left g p m) := by
  obtain ⟨hnone, hown, hfirst⟩ := hheld
  have hkept := left_first hpath hpids hfirst hrest
  have hpaths : (left g p m).paths ≠ [] := by
    obtain ⟨x, hx, -⟩ := hkept
    exact List.ne_nil_of_mem hx
  rw [settle_goesOn hnone hready (left_pids hpids) (left_held hpath hown) hpaths, keepFirst_of_first hkept]

theorem settle_gone (hrest : p.exec &&& ~~~m = 0) (hone : g.paths = [p]) :
    settle s (left g p m) = { s with groups := s.groups.filter fun x => decide (x.gid ≠ g.gid) } := by
  rw [settle_ends hheld.1 ((left_paths_eq_nil_iff hpath hpids hrest).mpr hone), left_gid]

include hready in
theorem settle_rest (hrest : p.exec &&& ~~~m = 0) (hmore : g.paths ≠ [p]) :
    settle s (left g p m) = putGroup s (keepFirst (left g p m)) :=
  settle_goesOn hheld.1 hready (left_pids hpids) (left_held hpath hheld.2.1)
    (mt (left_paths_eq_nil_iff hpath hpids hrest).mp hmore)

omit hpath in
theorem keepFirst_left (hpath : findPath g p.pid = some p) :
    keepFirst (left g p m) = { left g p m with paths := (keepFirst (left g p m)).paths } ∧
      (keepFirst (left g p m)).paths.map Path.unplaced = (left g p m).paths.map Path.unplaced := by
  obtain ⟨hframe, hplaces, -⟩ := keepFirst_spec (left_pids hpids) (left_held hpath hheld.2.1)
  exact ⟨hframe, hplaces⟩

include hready in
/-- No other group changes. -/
theorem findGroup_settle_other {id : Nat} (hid : id ≠ g.gid) : findGroup (settle s (left g p m)) id = findGroup s id := by
  by_cases hrest : p.exec &&& ~~~m = 0
  · by_cases hone : g.paths = [p]
    · rw [settle_gone hpath hheld hpids hrest hone, findGroup, findGroup, List.find?_filter]
      refine congrArg (s.groups.find? ·) (funext fun x => ?_)
      by_cases hx : x.gid = id <;> simp [hx, hid]
    · rw [settle_rest hpath hheld hpids hready hrest hone]
      refine findGroup_putGroup_other s _ id ?_
      rwa [(keepFirst_left hheld hpids hpath).1, left_gid]
  · rw [settle_part hpath hheld hpids hready hrest]
    exact findGroup_putGroup_other s _ id (by rwa [left_gid])

/-- The state changes in its groups alone. -/
theorem settle_frame (hready : readyMask (left g p m) = none) :
    settle s (left g p m) = { s with groups := (settle s (left g p m)).groups } := by
  by_cases hrest : p.exec &&& ~~~m = 0
  · by_cases hone : g.paths = [p]
    · rw [settle_gone hpath hheld hpids hrest hone]
    · rw [settle_rest hpath hheld hpids hready hrest hone]
      rfl
  · rw [settle_part hpath hheld hpids hready hrest]
    rfl

theorem findGroup_settle_gone (hrest : p.exec &&& ~~~m = 0) (hone : g.paths = [p]) :
    findGroup (settle s (left g p m)) g.gid = none := by
  rw [settle_gone hpath hheld hpids hrest hone, findGroup, List.find?_filter]
  simp

variable (hgroup : findGroup s g.gid = some g)
include hgroup hready

/-- Lanes that are left over go on past the word. -/
theorem findGroup_settle_part (hrest : p.exec &&& ~~~m ≠ 0) : ∃ g', findGroup (settle s (left g p m)) g.gid = some g' ∧
    findPath g' p.pid = some { p.past with exec := p.exec &&& ~~~m } ∧
    (∀ id, id ≠ p.pid → findPath g' id = findPath g id) ∧
    ∀ l, l < g.lanes.length → laneOf g' l = if m.getLsbD l then { laneOf g l with state := .exited } else laneOf g l := by
  refine ⟨left g p m, ?_, ?_, fun id hid => ?_, fun l hl => laneOf_left hl p m⟩
  · rw [settle_part hpath hheld hpids hready hrest]
    exact findGroup_putGroup s g _ (left_gid g p m) hgroup
  · rw [left_part hrest]
    exact findPath_setPath (modLanes g m _) p { p.past with exec := p.exec &&& ~~~m } rfl hpath
  · rw [left_part hrest]
    exact findPath_setPath_other (modLanes g m _) { p.past with exec := p.exec &&& ~~~m } id hid

/-- A path whose last lane ends leaves the other paths of the group. -/
theorem findGroup_settle_rest (hrest : p.exec &&& ~~~m = 0) (hmore : g.paths ≠ [p]) :
    ∃ g', findGroup (settle s (left g p m)) g.gid = some g' ∧
      g'.paths.map Path.unplaced = (g.paths.filter fun x => decide (x.pid ≠ p.pid)).map Path.unplaced ∧
      ∀ l, l < g.lanes.length → laneOf g' l = if m.getLsbD l then { laneOf g l with state := .exited } else laneOf g l := by
  obtain ⟨hframe, hplaces⟩ := keepFirst_left (m := m) hheld hpids hpath
  refine ⟨keepFirst (left g p m), ?_, ?_, fun l hl => ?_⟩
  · rw [settle_rest hpath hheld hpids hready hrest hmore]
    exact findGroup_putGroup s g _ (by rw [hframe, left_gid]) hgroup
  · rw [hplaces, left_paths_rest hrest]
  · rw [hframe]
    exact laneOf_left hl p m

end Settled

/-! ### Task records (R101, R265, R277) -/

/-- Finding a record by its number after the records that meet a test have changed. -/
theorem findTask_updWhere {f : Task → Task} (hf : ∀ t, (f t).uid = t.uid) (s : State) (due : Task → Bool) (id : Nat) :
    findTask { s with tasks := updWhere s.tasks due f } id = (findTask s id).map fun t => if due t then f t else t := by
  have hkey : ((fun t : Task => decide (t.uid = id)) ∘ fun t => if due t = true then f t else t) =
      fun t => decide (t.uid = id) := by
    funext t
    by_cases h : due t = true <;> simp [h, hf]
  simp only [findTask, updWhere, List.find?_map, hkey]

/-- Every task record of `s` stands in `t`, with its report lines. -/
def KeepsReports (s t : State) : Prop :=
  ∀ id k, findTask s id = some k → ∃ k', findTask t id = some k' ∧ k'.exited = k.exited

theorem KeepsReports.trans {s t u : State} (h : KeepsReports s t) (h' : KeepsReports t u) : KeepsReports s u := by
  intro id k hk
  obtain ⟨k', hk', hexited⟩ := h id k hk
  obtain ⟨k'', hk'', hexited'⟩ := h' id k' hk'
  exact ⟨k'', hk'', hexited'.trans hexited⟩

theorem keepsReports_of_tasks {s t : State} (h : t.tasks = s.tasks) : KeepsReports s t := by
  intro id k hk
  exact ⟨k, by rw [findTask, h]; exact hk, rfl⟩

theorem keepsReports_updWhere {f : Task → Task} (hf : ∀ t, (f t).uid = t.uid) (hexited : ∀ t, (f t).exited = t.exited)
    (s : State) (due : Task → Bool) : KeepsReports s { s with tasks := updWhere s.tasks due f } := by
  intro id k hk
  refine ⟨_, by rw [findTask_updWhere hf, hk]; rfl, ?_⟩
  dsimp only
  split
  · exact hexited k
  · rfl

theorem releaseChildren_keepsReports (s : State) (task : Nat) : KeepsReports s (releaseChildren s task) := by
  unfold releaseChildren
  split
  · exact keepsReports_of_tasks rfl
  · exact keepsReports_updWhere (f := fun t => { t with hold := false, counter := t.counter - 1 }) (fun _ => rfl)
      (fun _ => rfl) s _

theorem releaseReady_keepsReports (s : State) : KeepsReports s (releaseReady s) :=
  keepsReports_updWhere (f := fun t => { t with state := .released, releasedAt := s.now }) (fun _ => rfl) (fun _ => rfl) s _

theorem releaseParties_keepsReports (s : State) (task : Nat) : KeepsReports s (releaseParties s task) :=
  keepsReports_of_tasks (by rw [releaseParties_frame])

theorem releaseChildren_frame (s : State) (task : Nat) :
    releaseChildren s task = { s with tasks := (releaseChildren s task).tasks } := by
  unfold releaseChildren
  split <;> rfl

/-- What the end of threads does for their task: its ended parties, its held children, and the tasks that are then ready. -/
def releaseAfter (s : State) (task : Nat) : State := releaseReady (releaseChildren (releaseParties s task) task)

theorem releaseAfter_keepsReports (s : State) (task : Nat) : KeepsReports s (releaseAfter s task) :=
  (releaseParties_keepsReports s task).trans ((releaseChildren_keepsReports _ task).trans (releaseReady_keepsReports _))

theorem releaseAfter_frame (s : State) (task : Nat) : releaseAfter s task = { s with
    tasks := (releaseAfter s task).tasks
    sram := { s.sram with owners := (releaseAfter s task).sram.owners, undo := (releaseAfter s task).sram.undo
                          copies := (releaseAfter s task).sram.copies } } := by
  unfold releaseAfter releaseReady
  rw [releaseChildren_frame, releaseParties_frame]

/-- The report lines of the threads of a mask that exit (R277). -/
def exitReports (g : Group) (p : Path) (m : Mask) : List ThreadReport := (lanesOf m).map fun l =>
  { tid := (laneOf g l).tid, step := (laneOf g l).step, tin := (laneOf g l).tin
    pc := if p.pre.rank = 0 then p.pc else p.pre.start, bc0 := 0, tag := 0 }

theorem findTask_noteExits {s : State} {g : Group} {k : Task} (hk : findTask s g.task = some k) (p : Path) (m : Mask) :
    findTask (noteExits s g m (seqStart p)) g.task = some { k with exited := k.exited ++ exitReports g p m } :=
  findTask_modTask_same (f := fun t => { t with exited := t.exited ++ exitReports g p m }) (fun _ => rfl) hk

/-! ### Lanes that end (R124, R252) -/

section Ends

variable {s : State} {g : Group} {p : Path} {w : Word} (h : Issuing s g p w) {gd : Guard} (hact : activeMask p gd ≠ 0)
include h hact

theorem hend_ends (hhandler : g.handler.isSome = true) :
    exec (.hend gd) s = .next (settle s (left g p (activeMask p gd))) := by
  have htask : g.handler.isNone = false := by rw [← Option.not_isSome, hhandler]; rfl
  rw [exec_hend h, if_neg hact, htask, if_neg Bool.false_ne_true, exitLanes]
  exact congrArg _ (if_pos hhandler)

theorem exit_ends (hhandler : g.handler = none) : exec (.exit gd) s = .next (releaseAfter
    (settle (noteExits s g (activeMask p gd) (seqStart p)) (left g p (activeMask p gd))) g.task) := by
  have hnever : never gd = false := never_eq_false fun hgd => hact (activeMask_never hgd.1 hgd.2 p)
  rw [exec_exit h, hnever, if_neg Bool.false_ne_true, hhandler, if_neg (c := Option.isSome none = true) Bool.false_ne_true,
    if_neg hact, exitLanes, hhandler]
  rfl

end Ends

/-! ### The groups after lanes have ended -/

/-- What becomes of the groups of `s` where the lanes `m` of the path `p` of `g` end: lanes left over go on past the word,
the last lane of a path ends it, the last path of a group ends that, and no other group changes. -/
def LanesEnd (s : State) (g : Group) (p : Path) (m : Mask) (t : State) : Prop :=
  (p.exec &&& ~~~m ≠ 0 → ∃ g', findGroup t g.gid = some g' ∧
    findPath g' p.pid = some { p.past with exec := p.exec &&& ~~~m } ∧
    (∀ id, id ≠ p.pid → findPath g' id = findPath g id) ∧
    ∀ l, l < g.lanes.length → laneOf g' l = if m.getLsbD l then { laneOf g l with state := .exited } else laneOf g l) ∧
  (p.exec &&& ~~~m = 0 → g.paths = [p] → findGroup t g.gid = none) ∧
  (p.exec &&& ~~~m = 0 → g.paths ≠ [p] → ∃ g', findGroup t g.gid = some g' ∧
    g'.paths.map Path.unplaced = (g.paths.filter fun x => decide (x.pid ≠ p.pid)).map Path.unplaced ∧
    ∀ l, l < g.lanes.length → laneOf g' l = if m.getLsbD l then { laneOf g l with state := .exited } else laneOf g l) ∧
  ∀ id, id ≠ g.gid → findGroup t id = findGroup s id

/-- Putting the group back makes the lanes end, in any state with the groups of `s`. -/
theorem lanesEnd_settle {s u t : State} {g : Group} {p : Path} {m : Mask} (hu : u.groups = s.groups)
    (ht : t.groups = (settle u (left g p m)).groups) (hpath : findPath g p.pid = some p) (hheld : NoneHeld u g)
    (hpids : (g.paths.map (·.pid)).Nodup) (hgroup : findGroup u g.gid = some g)
    (hready : readyMask (left g p m) = none) : LanesEnd s g p m t := by
  unfold LanesEnd
  simp only [findGroup_congr ht, ← findGroup_congr hu]
  exact ⟨findGroup_settle_part hpath hheld hpids hready hgroup, findGroup_settle_gone hpath hheld hpids,
    findGroup_settle_rest hpath hheld hpids hready hgroup,
    fun id hid => findGroup_settle_other hpath hheld hpids hready hid⟩

/-- The threads that `EXIT` ends have left their report lines. -/
theorem findTask_exit {s : State} {g : Group} {p : Path} {m : Mask} (hpath : findPath g p.pid = some p)
    (hheld : NoneHeld s g) (hpids : (g.paths.map (·.pid)).Nodup) (hready : readyMask (left g p m) = none) {k : Task}
    (hk : findTask s g.task = some k) : ∃ k',
      findTask (releaseAfter (settle (noteExits s g m (seqStart p)) (left g p m)) g.task) g.task = some k' ∧
        k'.exited = k.exited ++ exitReports g p m := by
  have hframe := settle_frame (s := noteExits s g m (seqStart p)) hpath hheld hpids hready
  refine releaseAfter_keepsReports _ g.task g.task { k with exited := k.exited ++ exitReports g p m } ?_
  rw [hframe]
  exact findTask_noteExits hk p m

/-- Where lanes of a task's group end, groups, task records and owner tags change, and nothing else. -/
theorem exit_frame {s : State} {g : Group} {p : Path} {m : Mask} (hpath : findPath g p.pid = some p)
    (hheld : NoneHeld s g) (hpids : (g.paths.map (·.pid)).Nodup) (hready : readyMask (left g p m) = none) {t : State}
    (ht : t = releaseAfter (settle (noteExits s g m (seqStart p)) (left g p m)) g.task) : t = { s with
      groups := t.groups, tasks := t.tasks
      sram := { s.sram with owners := t.sram.owners, undo := t.sram.undo, copies := t.sram.copies } } := by
  rw [settle_frame (s := noteExits s g m (seqStart p)) hpath hheld hpids hready] at ht
  generalize (settle (noteExits s g m (seqStart p)) (left g p m)).groups = gs at ht
  have hreleased := releaseAfter_frame { noteExits s g m (seqStart p) with groups := gs } g.task
  rw [← ht] at hreleased
  have hgroups : t.groups = gs := congrArg State.groups hreleased
  rw [hgroups]
  exact hreleased

/-- Settles O40: where a word of the right kind ends lanes, the group is put back with them gone, and `EXIT` then notes the
reports and releases what the end of its threads releases. -/
theorem exitEndsTheActiveLanes : Obligations.ExitEndsTheActiveLanes := by
  unfold Obligations.ExitEndsTheActiveLanes
  refine ⟨fun s g p w gd h hinv hp => ⟨exit_never h hinv hp, hend_masked h (activeMask_never hinv hp p)⟩,
    fun s g p w gd h => ⟨exit_inHandler h, hend_inTask h, fun hact => ⟨hend_masked h hact, fun hhandler =>
      exit_masked h hhandler hact⟩⟩, ?ends⟩
  case ends =>
    intro s g p w gd handler h hheld hhandler hpids hact act i hdue
    have hready : readyMask (left g p act) = none := readyMask_eq_none (hdue _ (left_leave g p act))
    have hrest : p.exec &&& ~~~act = 0 ↔ act = p.exec := inactive_eq_zero_iff
    simp only [ne_eq, ← hrest]
    have hgroup := h.group
    have hpath := h.path
    cases handler with
    | true =>
      have hframe := settle_frame hpath hheld hpids hready
      obtain ⟨hpart, hgone, hmore, hother⟩ := lanesEnd_settle (s := s) rfl rfl hpath hheld hpids hgroup hready
      refine ⟨_, hend_ends h hact hhandler, hpart, hgone, hmore, hother, fun _ hno => absurd hno.symm Bool.false_ne_true,
        ?frame, fun _ => ⟨(congrArg State.tasks hframe :), (congrArg State.sram hframe :)⟩⟩
      case frame =>
        rw [hframe]
    | false =>
      have hexec := exit_ends h hact (by simpa using hhandler)
      have hgroups := congrArg State.groups (releaseAfter_frame (settle (noteExits s g act (seqStart p)) (left g p act)) g.task)
      have htask : ∀ {k}, findTask s g.task = some k → _ := fun {k} => findTask_exit (m := act) hpath hheld hpids hready
      have hframe := fun t ht => exit_frame (t := t) hpath hheld hpids hready ht
      generalize releaseAfter (settle (noteExits s g act (seqStart p)) (left g p act)) g.task = t at hexec hgroups htask hframe
      obtain ⟨hpart, hgone, hmore, hother⟩ := lanesEnd_settle (s := s) (u := noteExits s g act (seqStart p)) rfl
        hgroups hpath hheld hpids hgroup hready
      exact ⟨t, hexec, hpart, hgone, hmore, hother, fun k _ hk => htask hk, hframe t rfl,
        fun hno => absurd hno Bool.false_ne_true⟩

end Sys2Proof.LaneExits
end

section
/-!
PROOF. A bulk read sends a burst (R63, R106, R111, R116, R120): the order and number of its bursts, the checks, and what a
burst meets at the far side.
-/

namespace Sys2Proof.BulkRequests

open Sys2Proof Sys2Proof.Machine Sys2Proof.Records Sys2Proof.FarSide Sys2Proof.BurstWays Sys2Proof.CopyRequests

/-! ### A bulk read in the engine's list -/

theorem findBulk_congr {s t : State} (h : t.eng.bulks = s.eng.bulks) (id : Nat) : findBulk t id = findBulk s id := by
  rw [findBulk, findBulk, h]

theorem findBulk_putBulk {s : State} {b d : Bulk} (h : findBulk s b.head.id = some d) :
    findBulk (putBulk s b) b.head.id = some b :=
  find_updWhere _ _ _ _ (by simp) (fun _ => rfl) ⟨d, h⟩

theorem stopDram_frame (s : State) (h : ReqHead) : stopDram s h = { s with tasks := (stopDram s h).tasks } := by
  rw [stopDram, stopWith_eq]
  rfl

/-! ### The outcome of a burst (R120) -/

/-- Burst `n` of the bulk read `b`, which was `x`, is in the state `st`; no byte anywhere has changed. -/
def Stands (s : State) (b : Bulk) (n : Nat) (x : Burst) (st : BurstState) (t : State) : Prop :=
  findBulk t b.head.id = some { b with bursts := b.bursts.set n { x with state := st } } ∧ t.sram = s.sram ∧
    t.dram.mem = s.dram.mem ∧ t.host.mem = s.host.mem

section Outcome

variable {s u : State} {b : Bulk} {n : Nat} {x : Burst} (hfind : findBulk s b.head.id = some b) (hx : b.bursts[n]? = some x)
  (hu : KeepsCopies s u)

include hfind hx hu in
theorem stands_bulkOutcome (hdram : u.dram.mem = s.dram.mem) (hhost : u.host.mem = s.host.mem) (st : BurstState) :
    Stands s b n x st (bulkOutcome b n (u, st)) := by
  have heng : u.eng = s.eng := by
    unfold KeepsCopies at hu
    rw [hu]
  have hput : Stands s b n x st (putBulk u { b with bursts := setBurst b.bursts n st }) := by
    refine ⟨?_, hu.sram, hdram, hhost⟩
    rw [setBurst_eq_set hx]
    exact findBulk_putBulk ((findBulk_congr (congrArg _ heng) _).trans hfind)
  unfold bulkOutcome
  dsimp only
  split
  · rw [stopDram_frame]
    exact hput
  · exact hput

theorem bulkOutcome_tasks {st : BurstState} (hgood : st ≠ .failed 3) : (bulkOutcome b n (u, st)).tasks = u.tasks := by
  unfold bulkOutcome
  dsimp only
  rw [if_neg hgood]
  rfl

theorem bulkOutcome_xlate (st : BurstState) : (bulkOutcome b n (u, st)).xlate = u.xlate := by
  unfold bulkOutcome
  dsimp only
  split
  · rw [stopDram_frame]
    rfl
  · rfl

include hu in
/-- An uncorrectable burst stops its task. -/
theorem bulkOutcome_lost {k : Task} (htask : findTask s b.head.task = some k) (hstop : k.stop = none) :
    ∃ k', findTask (bulkOutcome b n (u, .failed 3)) b.head.task = some k' ∧ k'.stop = some 0x0B ∧ k'.frec.kind = 0x0B := by
  have hput : findTask (putBulk u { b with bursts := setBurst b.bursts n (.failed 3) }) b.head.task = some k := by
    rw [findTask]
    change u.tasks.find? _ = _
    rw [hu.tasks]
    exact htask
  refine ⟨_, findTask_stopWith_same hput _, ?_⟩
  rw [stopped, hstop]
  exact ⟨rfl, rfl⟩

end Outcome

/-! ### The word that sends it (R111) -/

/-- Whether burst `n` waits for those before it, or for an entry. -/
def Waits (s : State) (b : Bulk) (n : Nat) (x : Burst) : Prop :=
  x.state = .todo ∧ ((∃ j y, j < n ∧ b.bursts[j]? = some y ∧ y.state = .todo) ∨ 1024 ≤ outstandingBursts s b.head.core)

theorem waits_iff (s : State) (b : Bulk) (n : Nat) (x : Burst) : Waits s b n x ↔ x.state = .todo ∧
    ((b.bursts.take n).any (fun y => decide (y.state = .todo)) = true ∨ 1024 ≤ outstandingBursts s b.head.core) := by
  have hearlier : (b.bursts.take n).any (fun y => decide (y.state = .todo)) = true ↔
      ∃ j y, j < n ∧ b.bursts[j]? = some y ∧ y.state = .todo := by
    simp only [List.any_eq_true, decide_eq_true_eq, List.mem_iff_getElem?, List.getElem?_take]
    constructor
    · rintro ⟨y, ⟨j, hj⟩, hstate⟩
      obtain ⟨hlt, hget⟩ := Option.ite_none_right_eq_some.mp hj
      exact ⟨j, y, hlt, hget, hstate⟩
    · rintro ⟨j, y, hlt, hget, hstate⟩
      exact ⟨y, ⟨j, by rw [if_pos hlt, hget]⟩, hstate⟩
  rw [Waits, hearlier]

/-- Whether a region of kind 2 that may be read holds 64 bytes. -/
def Allowed (k : Task) (va : Nat) : Prop :=
  ∃ r ∈ k.decl.regions, r.kind = .dram ∧ r.ar = true ∧ r.far ≤ va ∧ va + 64 ≤ r.far + r.size

theorem farAllowed_iff {k : Task} {va : Nat} : farAllowed k false va 64 = true ↔ Allowed k va := by
  simp [farAllowed, Allowed, and_assoc]

/-- The client of a burst of a bulk read. -/
def bulkClient (k : Task) (q : Partition) (b : Bulk) (n : Nat) : Client :=
  { part := k.part, pasid := q.pasid, dom := q.dom, handle := k.handle, core := b.head.core, front := .bulk b.head.core,
    req := b.head.id, n := n }

section Sends

variable {s : State} {k : Task} {q : Partition} {b : Bulk} {n : Nat} {x : Burst} (hcopy : findCopy s b.head.id = none)
  (hfind : findBulk s b.head.id = some b) (htask : findTask s b.head.task = some k) (hstop : k.stop = none)
  (hrun : k.state = .running) (hsave : k.saving = false) (hpart : findPart s k.part = some q)
  (hx : b.bursts[n]? = some x) (hstate : x.state = .todo ∨ x.state = .again)

include htask hstop hrun hsave hstate in
theorem bulkSends_of : bulkSends s b x = true := by
  have hacts : taskActs s b.head.task = true := by simp [taskActs, landsAllowed, htask, hstop, hrun]
  rcases hstate with hstate | hstate <;> simp [bulkSends, hstate, taskStarts, hacts, htask, hsave]

include hcopy hfind htask hstop hrun hsave hx hstate in
theorem pchRequest_bulk : exec (.pchRequest b.head.id n) s = .next (requestBulk s b n x) := by
  change execPchRequest b.head.id n s = _
  unfold execPchRequest
  rw [hcopy, hfind]
  dsimp only
  rw [hx]
  dsimp only
  rw [if_pos (bulkSends_of htask hstop hrun hsave hstate)]

include htask

theorem requestBulk_waits (hwaits : Waits s b n x) : requestBulk s b n x = s := by
  rw [requestBulk, htask]
  exact if_pos ((waits_iff s b n x).mp hwaits)

variable (hgo : ¬ Waits s b n x)
include hgo

theorem requestBulk_outside (hno : ¬ Allowed k x.va) : requestBulk s b n x = bulkOutcome b n (s, .failed 5) := by
  have hfar : farAllowed k false x.va 64 = false := by simpa using mt farAllowed_iff.mp hno
  rw [requestBulk, htask]
  dsimp only
  rw [if_neg (mt (waits_iff s b n x).mpr hgo), hfar]
  rfl

include hpart in
theorem requestBulk_sends (hfar : Allowed k x.va) :
    requestBulk s b n x = bulkOutcome b n (farBurst s (bulkClient k q b n) none x.va 64) := by
  have hclient : clientOf s b.head (.bulk b.head.core) n = bulkClient k q b n := by
    rw [clientOf, htask, Option.getD_some, hpart]
    rfl
  rw [requestBulk, htask]
  dsimp only
  rw [if_neg (mt (waits_iff s b n x).mpr hgo), farAllowed_iff.mpr hfar, hclient]
  rfl

end Sends

/-! ### What a burst meets (R20, R65, R283, R295, R299) -/

section Meets

variable {s : State} {c : Client} {va : Nat} (hdirect : isFabric va = false)
include hdirect

theorem farBurst_asks (h : translate s.xlate c.front (tractOf c.core) c.pasid va false = none) (len : Nat) :
    farBurst s c none va len = ({ s with xlate := askAts s.xlate (tractOf c.core) c.pasid (pageOf va) false }, .ats 0) := by
  rw [farBurst_direct hdirect]
  exact translated_missing h

theorem farBurst_stacks {dpa : Nat} {xl : Xlate}
    (h : translate s.xlate c.front (tractOf c.core) c.pasid va false = some (s.host.hpa0 + dpa, xl)) (hd : dpa < hdmSize)
    (hfree : queueFree s dpa = true) (htracked : burstOf dpa ∉ s.host.tracked) (len : Nat) :
    farBurst s c none va len = stackAccess { s with xlate := xl } c none dpa len := by
  rw [farBurst_direct hdirect, translated_found (write := none) h]
  exact physical_stacks (s := { s with xlate := xl }) hd hfree (.inl htracked)

theorem farBurst_host {hpa : Nat} {xl : Xlate}
    (h : translate s.xlate c.front (tractOf c.core) c.pasid va false = some (hpa, xl))
    (hh : hpa < s.host.hpa0 ∨ s.host.hpa0 + hdmSize ≤ hpa) (len : Nat) :
    farBurst s c none va len = hostAccess { s with xlate := xl } c va none hpa len := by
  rw [farBurst_direct hdirect, translated_found (write := none) h]
  exact physical_host (s := { s with xlate := xl }) hh

end Meets

@[simp] theorem enterQueue_host (s : State) (c : Client) (dpa : Nat) : (enterQueue s c dpa).host = s.host := by
  simp only [enterQueue]
  split <;> rfl

theorem mem_askAts (x : Xlate) (tract pasid page : Nat) (write : Bool) :
    (tract, pasid, page, write) ∈ (askAts x tract pasid page write).asked := by
  by_cases h : (tract, pasid, page, write) ∈ x.asked
  · rwa [askAts_known h]
  · simp [askAts_new h]

/-- Sending burst `n` of the bulk read `b`, which is `x`, leaves it in the state `st` and no byte changed. -/
def Becomes (s : State) (b : Bulk) (n : Nat) (x : Burst) (st : BurstState) (P : State → Prop) : Prop :=
  ∃ t, exec (.pchRequest b.head.id n) s = .next t ∧
    findBulk t b.head.id = some { b with bursts := b.bursts.set n { x with state := st } } ∧ t.sram = s.sram ∧
    t.dram.mem = s.dram.mem ∧ t.host.mem = s.host.mem ∧ P t

theorem becomes_of {s t : State} {b : Bulk} {n : Nat} {x : Burst} {st : BurstState} {P : State → Prop}
    (hexec : exec (.pchRequest b.head.id n) s = .next t) (hstands : Stands s b n x st t) (hP : P t) :
    Becomes s b n x st P := by
  obtain ⟨hfind, hsram, hdram, hhost⟩ := hstands
  exact ⟨t, hexec, hfind, hsram, hdram, hhost, hP⟩

theorem Becomes.imp {s : State} {b : Bulk} {n : Nat} {x : Burst} {st : BurstState} {P Q : State → Prop}
    (h : Becomes s b n x st P) (hPQ : ∀ t, P t → Q t) : Becomes s b n x st Q := by
  obtain ⟨t, hexec, hfind, hsram, hdram, hhost, hP⟩ := h
  exact ⟨t, hexec, hfind, hsram, hdram, hhost, hPQ t hP⟩

/-- What sending a burst of a bulk read does. -/
def RequestRules (s : State) (b : Bulk) (n : Nat) (x : Burst) (k : Task) (q : Partition) (dpa hpa : Nat) (xl : Xlate) : Prop :=
  let core := b.head.core
  let same := fun t : State => t.tasks = s.tasks
  let finds := translate s.xlate (.bulk core) (tractOf core) q.pasid x.va false
  (Waits s b n x → exec (.pchRequest b.head.id n) s = .next s) ∧
  (¬ Waits s b n x → ¬ Allowed k x.va → Becomes s b n x (.failed 5) same) ∧
  (¬ Waits s b n x → Allowed k x.va → isFabric x.va = true → boundTo s k.part x.va = none →
    Becomes s b n x (.failed 4) same) ∧
  (¬ Waits s b n x → Allowed k x.va → isFabric x.va = false →
    (finds = none → Becomes s b n x (.ats 0) fun t => same t ∧ (tractOf core, q.pasid, x.va / 4096, false) ∈ t.xlate.asked) ∧
    (finds = some (s.host.hpa0 + dpa, xl) → dpa < hdmSize → queueFree s dpa = true → burstOf dpa ∉ s.host.tracked →
      (platAllows s.dram.plat q.dom (rowOf dpa) = false → Becomes s b n x (.failed 2) same) ∧
      (platAllows s.dram.plat q.dom (rowOf dpa) = true → reportOf s.dram (burstOf dpa) ≠ .uncorrectable →
        Becomes s b n x (.got (bytesAt s.dram.mem dpa 64)) same) ∧
      (platAllows s.dram.plat q.dom (rowOf dpa) = true → reportOf s.dram (burstOf dpa) = .uncorrectable →
        Becomes s b n x (.failed 3) fun t =>
          ∃ k', findTask t b.head.task = some k' ∧ k'.stop = some 0x0B ∧ k'.frec.kind = 0x0B)) ∧
    (finds = some (hpa, xl) → hpa < s.host.hpa0 ∨ s.host.hpa0 + hdmSize ≤ hpa →
      Becomes s b n x (.got (bytesAt s.host.mem hpa 64)) same))

section Meeting

variable {s : State} {k : Task} {q : Partition} {b : Bulk} {n : Nat} {x : Burst} (hcopy : findCopy s b.head.id = none)
  (hfind : findBulk s b.head.id = some b) (htask : findTask s b.head.task = some k) (hstop : k.stop = none)
  (hrun : k.state = .running) (hsave : k.saving = false) (hpart : findPart s k.part = some q)
  (hx : b.bursts[n]? = some x) (hstate : x.state = .todo ∨ x.state = .again)
include hcopy hfind htask hstop hrun hsave hx hstate

theorem pchRequest_waits (hwaits : Waits s b n x) : exec (.pchRequest b.head.id n) s = .next s := by
  rw [pchRequest_bulk hcopy hfind htask hstop hrun hsave hx hstate, requestBulk_waits htask hwaits]

section Goes

variable (hgo : ¬ Waits s b n x)
include hgo

theorem pchRequest_outside (hno : ¬ Allowed k x.va) : Becomes s b n x (.failed 5) fun t => t.tasks = s.tasks := by
  refine becomes_of ?_ (stands_bulkOutcome hfind hx (u := s) rfl rfl rfl _) (bulkOutcome_tasks (by simp))
  rw [pchRequest_bulk hcopy hfind htask hstop hrun hsave hx hstate, requestBulk_outside htask hgo hno]

variable (hfar : Allowed k x.va)
include hpart hfar

theorem pchRequest_sends : exec (.pchRequest b.head.id n) s =
    .next (bulkOutcome b n (farBurst s (bulkClient k q b n) none x.va 64)) := by
  rw [pchRequest_bulk hcopy hfind htask hstop hrun hsave hx hstate, requestBulk_sends htask hpart hgo hfar]

variable {u : State} {st : BurstState} (hmeets : farBurst s (bulkClient k q b n) none x.va 64 = (u, st))
  (hdram : u.dram.mem = s.dram.mem) (hhost : u.host.mem = s.host.mem)
include hmeets hdram hhost

/-- A burst that is sent takes the outcome of the far side, and is not lost. -/
theorem becomes_met (hgood : st ≠ .failed 3) :
    Becomes s b n x st fun t => t.tasks = s.tasks ∧ t.xlate = u.xlate := by
  have hu : KeepsCopies s u := by simpa only [hmeets] using farBurst_keepsCopies s (bulkClient k q b n) none x.va 64
  have hexec := pchRequest_sends hcopy hfind htask hstop hrun hsave hpart hx hstate hgo hfar
  rw [hmeets] at hexec
  exact becomes_of hexec (stands_bulkOutcome hfind hx hu hdram hhost st)
    ⟨(bulkOutcome_tasks hgood).trans hu.tasks, bulkOutcome_xlate st⟩

/-- A burst that is lost to an uncorrectable error stops its task. -/
theorem becomes_lost (hbad : st = .failed 3) : Becomes s b n x st fun t =>
    ∃ k', findTask t b.head.task = some k' ∧ k'.stop = some 0x0B ∧ k'.frec.kind = 0x0B := by
  subst hbad
  have hu : KeepsCopies s u := by simpa only [hmeets] using farBurst_keepsCopies s (bulkClient k q b n) none x.va 64
  have hexec := pchRequest_sends hcopy hfind htask hstop hrun hsave hpart hx hstate hgo hfar
  rw [hmeets] at hexec
  exact becomes_of hexec (stands_bulkOutcome hfind hx hu hdram hhost _) (bulkOutcome_lost hu htask hstop)

end Goes

include hpart in
theorem requestRules (dpa hpa : Nat) (xl : Xlate) : RequestRules s b n x k q dpa hpa xl := by
  have hmet := fun hgo hfar u st => becomes_met (u := u) (st := st) hcopy hfind htask hstop hrun hsave hpart hx hstate hgo hfar
  have hlost := fun hgo hfar u st => becomes_lost (u := u) (st := st) hcopy hfind htask hstop hrun hsave hpart hx hstate hgo
    hfar
  refine ⟨pchRequest_waits hcopy hfind htask hstop hrun hsave hx hstate,
    pchRequest_outside hcopy hfind htask hstop hrun hsave hx hstate, fun hgo hfar hfabric hno => ?unbound,
    fun hgo hfar hdirect => ⟨fun hnone => ?asks, fun hsome hd hfree htracked => ?device, fun hsome hh => ?host⟩⟩
  case unbound =>
    exact (hmet hgo hfar _ _ (farBurst_unbound hfabric hno) rfl rfl (by simp)).imp fun t ht => ht.1
  case asks =>
    refine (hmet hgo hfar _ _ (farBurst_asks hdirect hnone 64) rfl rfl (by simp)).imp fun t ⟨htasks, hxlate⟩ => ⟨htasks, ?_⟩
    rw [hxlate]
    exact mem_askAts ..
  case host =>
    exact (hmet hgo hfar _ _ (farBurst_host hdirect hsome hh 64) rfl rfl (by simp)).imp fun t ht => ht.1
  case device =>
    have hmeets := farBurst_stacks (c := bulkClient k q b n) hdirect hsome hd hfree htracked 64
    refine ⟨fun hno => ?_, fun hplat hgood => ?_, fun hplat hbad => ?_⟩
    · rw [stackAccess_refused (s := { s with xlate := xl }) hno] at hmeets
      exact (hmet hgo hfar _ _ hmeets rfl rfl (by simp)).imp fun t ht => ht.1
    · rw [stackAccess_read (s := { s with xlate := xl }) hplat hgood] at hmeets
      exact (hmet hgo hfar _ _ hmeets (by simp) (by simp) (by simp)).imp fun t ht => ht.1
    · rw [stackAccess_uncorrectable (s := { s with xlate := xl }) hplat hbad] at hmeets
      exact hlost hgo hfar _ _ hmeets (by simp) (by simp) rfl

end Meeting

end Sys2Proof.BulkRequests
end

section
/-!
SUPPORT. Fresh groups of handlers and of reform bins (R107, R109, R110, R188, R251, R263): their path, its scalar registers
and their place in the list of groups.
-/

namespace Sys2Proof.FreshGroups

open Sys2Proof Sys2Proof.Machine Sys2Proof.PartyStart

/-! ### The scalar registers (R107) -/

theorem assoc_mapIdx (l : List Word) (m r : Nat) (d : Word) :
    assoc (l.mapIdx fun k w => (k + m, w)) r d = if m ≤ r then l[r - m]?.getD d else d := by
  induction l generalizing m with
  | nil => simp
  | cons x l ih =>
    have hshift : l.mapIdx (fun k w => (k + 1 + m, w)) = l.mapIdx fun k w => (k + (m + 1), w) := by
      congr 1
      funext k w
      rw [Nat.add_right_comm, Nat.add_assoc]
    rw [List.mapIdx_cons, hshift, assoc_cons, ih, Nat.zero_add]
    rcases Nat.lt_trichotomy m r with h | rfl | h
    · obtain ⟨j, rfl⟩ := Nat.exists_eq_add_of_lt h
      rw [if_neg (by omega), if_pos (by omega), if_pos (by omega), show m + j + 1 - (m + 1) = j by omega,
        show m + j + 1 - m = j + 1 by omega, List.getElem?_cons_succ]
    · simp
    · rw [if_neg (by omega), if_neg (by omega), if_neg (by omega)]

/-- The path of a fresh group, with its parameters in its scalar registers. -/
def freshPath (pid : Nat) (pc : Word) (n : Nat) (params : List Word) : Path :=
  (params.mapIdx fun k w => (k, w)).foldl (fun p x => setSreg p x.1 x.2) (newPath pid pc n)

theorem sreg_freshPath (pid : Nat) (pc : Word) (n : Nat) (params : List Word) {r : Nat} (hr : r < 32) :
    sreg (freshPath pid pc n params) r = params.getD r 0 := by
  have hkeys : ((params.mapIdx fun k w => (k, w)).map (·.1)).Nodup := by
    have : (params.mapIdx fun k w => (k, w)).map (·.1) = List.range params.length := by
      apply List.ext_getElem <;> simp
    rw [this]
    exact List.nodup_range
  have hassoc := assoc_mapIdx params 0 r (0 : Word)
  simp only [Nat.add_zero, Nat.zero_le, if_true, Nat.sub_zero] at hassoc
  rw [freshPath, sreg_foldl _ _ _ hr hkeys, sreg_newPath, hassoc, List.getD_eq_getElem?_getD]

theorem sreg_freshPath_rest (pid : Nat) (pc : Word) (n : Nat) {params : List Word} {r : Nat} (hr : params.length ≤ r) :
    sreg (freshPath pid pc n params) r = 0 := by
  by_cases h : r < 32
  · rw [sreg_freshPath pid pc n params h, List.getD_eq_default _ _ hr]
  · exact dif_neg h

/-- A fresh path but for its scalar registers. -/
theorem freshPath_frame (pid : Nat) (pc : Word) (n : Nat) (params : List Word) :
    freshPath pid pc n params = { newPath pid pc n with s := (freshPath pid pc n params).s } :=
  foldl_setSreg_rest _ _

/-! ### A fresh group -/

/-- A fresh group of `s` on a core. -/
def freshGroup (s : State) (task party core width : Nat) (handler : Option Nat) (completion : Bool) (threads : List Thread)
    (pc : Word) (params : List Word) : Group :=
  { gid := s.fresh, task := task, party := party, core := core, width := width, handler := handler,
    completion := completion, lanes := threads ++ List.replicate (width - threads.length) emptyLane,
    paths := [freshPath (s.fresh + 1) pc threads.length params],
    active := if groupFits s task core then activeSlot s core else none, issued := 0, lastIssue := 0, packed := false,
    readySince := s.now }

/-- It comes to the end of the list of groups, and takes two numbers. -/
theorem newGroup_eq (s : State) (task party core width : Nat) (handler : Option Nat) (completion : Bool)
    (threads : List Thread) (pc : Word) (params : List Word) :
    newGroup s task party core width handler completion threads pc params = { s with
      groups := s.groups ++ [freshGroup s task party core width handler completion threads pc params]
      fresh := s.fresh + 2 } := rfl

theorem freshGroup_lanes (s : State) (task party core width : Nat) (handler : Option Nat) (completion : Bool)
    (threads : List Thread) (pc : Word) (params : List Word) :
    (freshGroup s task party core width handler completion threads pc params).lanes.take threads.length = threads :=
  List.take_left

/-! ### Handler threads (R109) -/

theorem vreg_handlerThread (step : Nat) (bc data : List Word) {r : Nat} (hr : r < 64) :
    vreg (handlerThread step bc data) r = data.getD r 0 := by
  rw [vreg, dif_pos hr]
  exact Vector.getElem_ofFn hr

theorem handlerThread_bc (step : Nat) (x y z u : Word) (data : List Word) :
    (handlerThread step [x, y, z, u] data).bc = #v[x, y, z, u] := by
  apply Vector.ext
  intro i hi
  obtain rfl | rfl | rfl | rfl : i = 0 ∨ i = 1 ∨ i = 2 ∨ i = 3 := by omega
  all_goals rfl

end Sys2Proof.FreshGroups
end

section
/-!
PROOF. The birth of a handler and the drawing of a bin (R109 to R111, R251).
-/

namespace Sys2Proof.HandlerBirths

open Sys2Proof Sys2Proof.Machine Sys2Proof.Records Sys2Proof.FarSide Sys2Proof.Placing Sys2Proof.FreshGroups
  Sys2Proof.BulkRequests

/-! ### Filing a thread (R110) -/

/-- Sixteen bins a core: one is free where fewer are in use. -/
theorem freeBin_isSome {s : State} {core : Nat} (h : (s.eng.bins.filter fun y => decide (y.core = core)).length < 16) :
    ∃ k, freeBin s core = some k := by
  rw [← Option.isSome_iff_exists, freeBin, List.find?_isSome]
  by_contra hno
  have hused : ∀ k ∈ List.range 16, k ∈ (s.eng.bins.filter fun y => decide (y.core = core)).map (·.slot) := by
    intro k hk
    have hbusy : ¬ (!(s.eng.bins.any fun b => decide (b.core = core) && decide (b.slot = k))) = true :=
      fun hfree => hno ⟨k, hk, hfree⟩
    obtain ⟨b, hb, hcore, hslot⟩ : ∃ b ∈ s.eng.bins, b.core = core ∧ b.slot = k := by simpa using hbusy
    exact List.mem_map.mpr ⟨b, List.mem_filter.mpr ⟨hb, decide_eq_true hcore⟩, hslot⟩
  have hlength := (List.nodup_range.subperm hused).length_le
  rw [List.length_range, List.length_map] at hlength
  omega

/-- A thread is filed where a bin is free: in a bin of its key. -/
theorem fileThread_files {s : State} {core : Nat} (h : (s.eng.bins.filter fun y => decide (y.core = core)).length < 16)
    (width : Nat) (key : BinKey) (t : Thread) : ∃ bins, fileThread s core width key t = some { s with eng.bins := bins } ∧
      ∃ y ∈ bins, y.core = core ∧ y.key = key ∧ t ∈ y.threads := by
  unfold fileThread
  dsimp only
  split
  case h_1 b hfits =>
    obtain ⟨⟨hcore, hkey⟩, -⟩ : (b.core = core ∧ b.key = key) ∧ b.threads.length < width := by
      simpa using List.find?_some hfits
    refine ⟨_, rfl, _, List.mem_map_of_mem (List.mem_of_find?_eq_some hfits), ?_⟩
    rw [if_pos (by simp [hcore])]
    exact ⟨hcore, hkey, List.mem_append_right _ (List.mem_singleton_self t)⟩
  case h_2 =>
    obtain ⟨k, hk⟩ := freeBin_isSome h
    rw [hk]
    exact ⟨_, rfl, _, List.mem_append_right _ (List.mem_singleton_self _), rfl, rfl, List.mem_singleton_self t⟩

/-! ### The handler of a burst (R109) -/

section Burst

variable {b : Bulk} {x : Burst} {data : List Byte}

theorem burstThread_bc : (burstThread b x data).bc = #v[BitVec.ofNat 32 x.coord.1, BitVec.ofNat 32 x.coord.2.1,
    BitVec.ofNat 32 x.coord.2.2, BitVec.ofNat 32 b.tag] :=
  handlerThread_bc ..

variable (hlen : data.length = 64)
include hlen

theorem vreg_burstThread {r : Nat} (hr : r < 16) :
    vreg (burstThread b x data) r = BitVec.ofNat 32 (natOfBytes ((data.drop (4 * r)).take 4)) := by
  rw [burstThread, vreg_handlerThread _ _ _ (by omega), wordsOf, hlen]
  simp [hr]

theorem vreg_burstThread_rest {r : Nat} (hr : 16 ≤ r) (hr' : r < 64) : vreg (burstThread b x data) r = 0 := by
  rw [burstThread, vreg_handlerThread _ _ _ hr', List.getD_eq_default]
  rw [wordsOf, hlen]
  simpa using hr

end Burst

/-- The handler of burst `n`, which was `x` and carries `data`, stands in a bin of the request, and the burst is done. -/
def HandlerBorn (s : State) (b : Bulk) (n : Nat) (x : Burst) (data : List Byte) (t : State) : Prop :=
  findBulk t b.head.id = some { b with bursts := b.bursts.set n { x with state := .done 0 }, born := b.born + 1 } ∧
  (∃ y ∈ t.eng.bins, y.core = b.head.core ∧ y.key = .handler b.head.task b.head.party b.head.id ∧
    ∃ h ∈ y.threads, h.step = BitVec.ofNat 64 (b.head.step + 1) ∧
      (∀ r, r < 16 → vreg h r = BitVec.ofNat 32 (natOfBytes ((data.drop (4 * r)).take 4))) ∧
      (∀ r, 16 ≤ r → r < 64 → vreg h r = 0) ∧
      h.bc = #v[BitVec.ofNat 32 x.coord.1, BitVec.ofNat 32 x.coord.2.1, BitVec.ofNat 32 x.coord.2.2, BitVec.ofNat 32 b.tag]) ∧
  t = { s with eng := { s.eng with bins := t.eng.bins, bulks := t.eng.bulks } }

section Arrival

variable {s : State} {b : Bulk} {n : Nat} {x : Burst} {k : Task} {data : List Byte}
  (hfind : findBulk s b.head.id = some b) (htask : findTask s b.head.task = some k) (hstop : k.stop = none)
  (hrun : k.state = .running) (hx : b.bursts[n]? = some x) (hgot : x.state = .got data)
  (hqueue : inQueue s b.head.id n = false) (hslot : handlerSlot s k b.head.core = true)
include hfind htask hstop hrun hx hgot hqueue hslot

/-- `BURST_ARRIVAL` files the handler of a burst that has come, and the burst is done. -/
theorem burstArrival_files {bins : List Bin}
    (hfile : fileThread s b.head.core k.decl.width (.handler b.head.task b.head.party b.head.id) (burstThread b x data) =
      some { s with eng.bins := bins }) : exec (.burstArrival b.head.id n) s = .next (putBulk { s with eng.bins := bins }
        { b with bursts := setBurst b.bursts n (.done 0), born := b.born + 1 }) := by
  have hacts : taskActs s b.head.task = true := by simp [taskActs, landsAllowed, htask, hstop, hrun]
  change execBurstArrival b.head.id n s = _
  rw [execBurstArrival, hfind]
  dsimp only
  rw [hx, htask]
  dsimp only
  rw [hgot]
  dsimp only
  rw [if_pos (by simp [hacts, hqueue, hslot]), hfile]

theorem burstArrival_born (hlen : data.length = 64)
    (hroom : (s.eng.bins.filter fun y => decide (y.core = b.head.core)).length < 16) :
    ∃ t, exec (.burstArrival b.head.id n) s = .next t ∧ HandlerBorn s b n x data t := by
  obtain ⟨bins, hfile, y, hy, hcore, hkey, hin⟩ := fileThread_files hroom k.decl.width
    (.handler b.head.task b.head.party b.head.id) (burstThread b x data)
  refine ⟨_, burstArrival_files hfind htask hstop hrun hx hgot hqueue hslot hfile, ?_,
    ⟨y, hy, hcore, hkey, _, hin, rfl, fun r hr => vreg_burstThread hlen hr, fun r hr hr' => vreg_burstThread_rest hlen hr hr',
      burstThread_bc⟩, rfl⟩
  rw [setBurst_eq_set hx]
  exact findBulk_putBulk (d := b) hfind

end Arrival

/-! ### Drawing a bin (R110, R251) -/

section Draw

variable {s : State} {bin : Bin} {k : Task}

/-- `BIN_DRAW` draws a bin that is full, or old enough. -/
theorem binDraw_draws (hfind : findBin s bin.core bin.slot = some bin) (htask : findTask s (binTask bin) = some k)
    (hstop : k.stop = none) (hrun : k.state = .running)
    (hdue : k.decl.width ≤ bin.threads.length ∨ bin.since + 256 ≤ s.now) :
    exec (.binDraw bin.core bin.slot) s = .next (drawBin s bin k) := by
  have hacts : taskActs s k.uid = true := by
    simp [taskActs, landsAllowed, uid_of_findTask htask, htask, hstop, hrun]
  have hbinDue : binDue s bin = true := by simp [binDue, htask, hacts, hdue]
  change execBinDraw bin.core bin.slot s = _
  rw [execBinDraw, hfind]
  dsimp only
  rw [htask]
  dsimp only
  rw [if_pos hbinDue]

/-- The state without a bin. -/
def withoutBin (s : State) (bin : Bin) : State :=
  { s with eng.bins := s.eng.bins.filter fun x => !(decide (x.core = bin.core) && decide (x.slot = bin.slot)) }

theorem mem_withoutBin {y : Bin} :
    y ∈ (withoutBin s bin).eng.bins ↔ y ∈ s.eng.bins ∧ ¬ (y.core = bin.core ∧ y.slot = bin.slot) := by
  simp only [withoutBin, List.mem_filter, Bool.not_eq_true', Bool.and_eq_false_iff, decide_eq_false_iff_not, not_and_or]

theorem drawBin_reform {tk pt : Nat} {pc : Word} (hkey : bin.key = .reform tk pt pc) : drawBin s bin k =
    newGroup (withoutBin s bin) tk pt bin.core k.decl.width none false (byTid bin.threads) pc [] := by
  rw [drawBin, hkey]
  rfl

theorem drawBin_handler {tk pt rq : Nat} (hkey : bin.key = .handler tk pt rq) {b : Bulk} (hb : findBulk s rq = some b) :
    drawBin s bin k = newGroup (withoutBin s bin) tk pt bin.core k.decl.width (some rq) false bin.threads
      (handlerEntry k b.hnd) b.params := by
  rw [drawBin, hkey]
  dsimp only
  rw [hb]
  rfl

theorem byTid_perm (l : List Thread) : (byTid l).Perm l := sortBy_perm _ l

theorem byTid_pairwise (l : List Thread) : (byTid l).Pairwise fun u v => u.tid.toNat ≤ v.tid.toNat := by
  refine sortBy_pairwise (R := fun u v : Thread => u.tid.toNat ≤ v.tid.toNat) (fun _ _ _ => Nat.le_trans) ?_
  refine List.pairwise_of_forall fun u v => ⟨fun h => of_decide_eq_true h, ?_⟩
  exact fun h => Nat.le_of_not_le (of_decide_eq_false h)

/-- The bin is gone, and its threads stand in the fresh group `g'` with the path `p'`: at their next program counter in
ascending `TID`, or at the entry of their handler with the parameters of its request. -/
def BinDrawn (s : State) (bin : Bin) (k : Task) (b : Bulk) (t : State) (g' : Group) (p' : Path) : Prop :=
  (∀ y, y ∈ t.eng.bins ↔ y ∈ s.eng.bins ∧ ¬ (y.core = bin.core ∧ y.slot = bin.slot)) ∧
  t.groups = s.groups ++ [g'] ∧ g'.gid = s.fresh ∧ g'.core = bin.core ∧ g'.paths = [p'] ∧
  g'.active = (if groupFits s g'.task bin.core then activeSlot s bin.core else none) ∧
  p'.exec = fullMask bin.threads.length ∧ p'.pre = Prefix.none ∧ p'.park = none ∧
  (∀ tk pt pc, bin.key = .reform tk pt pc → p'.pc = pc ∧ g'.task = tk ∧ g'.party = pt ∧ g'.handler = none ∧
    (g'.lanes.take bin.threads.length).Perm bin.threads ∧
    (g'.lanes.take bin.threads.length).Pairwise (fun u v => u.tid.toNat ≤ v.tid.toNat) ∧ ∀ r, sreg p' r = 0) ∧
  (∀ tk pt rq, bin.key = .handler tk pt rq → p'.pc = assoc k.decl.handlers b.hnd 0 ∧ g'.task = tk ∧ g'.party = pt ∧
    g'.handler = some rq ∧ g'.lanes.take bin.threads.length = bin.threads ∧
    (∀ r, r < 8 → sreg p' r = b.params.getD r 0) ∧ ∀ r, 8 ≤ r → sreg p' r = 0)

theorem binDrawn_reform {tk pt : Nat} {pc : Word} (hkey : bin.key = .reform tk pt pc) (b : Bulk) :
    ∃ g' p', BinDrawn s bin k b (drawBin s bin k) g' p' := by
  have hlength : (byTid bin.threads).length = bin.threads.length := (byTid_perm bin.threads).length_eq
  have hlanes := freshGroup_lanes (withoutBin s bin) tk pt bin.core k.decl.width none false (byTid bin.threads) pc []
  rw [drawBin_reform hkey, newGroup_eq]
  refine ⟨_, _, fun y => mem_withoutBin, rfl, rfl, rfl, rfl, rfl, congrArg fullMask hlength, rfl, rfl, fun _ _ _ h => ?_,
    fun _ _ _ h => ?_⟩
  · obtain ⟨rfl, rfl, rfl⟩ := BinKey.reform.inj (hkey.symm.trans h)
    rw [← hlength, hlanes]
    exact ⟨rfl, rfl, rfl, rfl, byTid_perm _, byTid_pairwise _, fun r => sreg_freshPath_rest _ _ _ (Nat.zero_le r)⟩
  · rw [hkey] at h
    cases h

theorem binDrawn_handler {tk pt rq : Nat} (hkey : bin.key = .handler tk pt rq) {b : Bulk} (hb : findBulk s rq = some b)
    (hparams : b.params.length = 8) : ∃ g' p', BinDrawn s bin k b (drawBin s bin k) g' p' := by
  have hlanes := freshGroup_lanes (withoutBin s bin) tk pt bin.core k.decl.width (some rq) false bin.threads
    (handlerEntry k b.hnd) b.params
  have hpath := freshPath_frame ((withoutBin s bin).fresh + 1) (handlerEntry k b.hnd) bin.threads.length b.params
  rw [drawBin_handler hkey hb, newGroup_eq]
  refine ⟨_, _, fun y => mem_withoutBin, rfl, rfl, rfl, rfl, rfl, congrArg Path.exec hpath, congrArg Path.pre hpath,
    congrArg Path.park hpath, fun _ _ _ h => ?_, fun _ _ _ h => ?_⟩
  · rw [hkey] at h
    cases h
  · obtain ⟨rfl, rfl, rfl⟩ := BinKey.handler.inj (hkey.symm.trans h)
    exact ⟨congrArg Path.pc hpath, rfl, rfl, rfl, hlanes, fun r hr => sreg_freshPath _ _ _ _ (by omega),
      fun r hr => sreg_freshPath_rest _ _ _ (hparams ▸ hr)⟩

theorem binDraw_drawn (b : Bulk) (hfind : findBin s bin.core bin.slot = some bin)
    (htask : findTask s (binTask bin) = some k) (hstop : k.stop = none) (hrun : k.state = .running)
    (hdue : k.decl.width ≤ bin.threads.length ∨ bin.since + 256 ≤ s.now)
    (hhandler : ∀ tk pt rq, bin.key = .handler tk pt rq → findBulk s rq = some b ∧ b.params.length = 8) :
    ∃ t g' p', exec (.binDraw bin.core bin.slot) s = .next t ∧ BinDrawn s bin k b t g' p' := by
  have hexec := binDraw_draws hfind htask hstop hrun hdue
  have hdrawn : ∃ g' p', BinDrawn s bin k b (drawBin s bin k) g' p' := by
    cases hkey : bin.key with
    | reform tk pt pc => exact binDrawn_reform hkey b
    | handler tk pt rq =>
      obtain ⟨hb, hparams⟩ := hhandler tk pt rq hkey
      exact binDrawn_handler hkey hb hparams
  obtain ⟨g', p', hdrawn⟩ := hdrawn
  exact ⟨_, g', p', hexec, hdrawn⟩

end Draw

end Sys2Proof.HandlerBirths
end

section
/-!
PROOF. The last-burst event (R116 to R120): the handlers' stores land together, and the request ends or starts its completion
handler; or two stores collide.
-/

namespace Sys2Proof.LastBursts

open Sys2Proof Sys2Proof.Machine Sys2Proof.Records Sys2Proof.StagingBytes Sys2Proof.EngineWrites Sys2Proof.RequestBlocks
  Sys2Proof.CopyNearSide Sys2Proof.FreshGroups Sys2Proof.BulkRequests

/-! ### The bytes an entry lands (R145, R147) -/

theorem mem_sectorBytes {a sector : Nat} : a ∈ sectorBytes sector ↔ a / 32 = sector := by
  simp only [sectorBytes, List.mem_map, List.mem_range]
  constructor
  · rintro ⟨k, hk, rfl⟩
    omega
  · rintro rfl
    exact ⟨a % 32, Nat.mod_lt _ (by omega), by omega⟩

theorem sectorBytes_nodup (sector : Nat) : (sectorBytes sector).Nodup :=
  List.nodup_range.map fun x y h => by simpa using h

/-- A byte that lands at an address bears it. -/
theorem landedByte_fst {s : State} {e : Entry} {a : Nat} {x : Nat × Byte} (h : landedByte s e a = some x) : x.1 = a := by
  unfold landedByte at h
  dsimp only at h
  split at h
  · cases h
  · split at h
    · obtain ⟨o, -, rfl⟩ := Option.map_eq_some_iff.mp h
      rfl
    · obtain ⟨o, -, rfl⟩ := Option.map_eq_some_iff.mp h
      rfl
    · obtain rfl := Option.some.inj h
      rfl
    · obtain rfl := Option.some.inj h
      rfl

theorem mem_landedBytes {s : State} {e : Entry} {x : Nat × Byte} :
    x ∈ landedBytes s e ↔ x.1 / 32 = e.sector ∧ landedByte s e x.1 = some x := by
  simp only [landedBytes, List.mem_filterMap, mem_sectorBytes]
  constructor
  · rintro ⟨a, ha, h⟩
    rw [landedByte_fst h]
    exact ⟨ha, h⟩
  · rintro ⟨ha, h⟩
    exact ⟨x.1, ha, h⟩

theorem landedBytes_nodup (s : State) (e : Entry) : ((landedBytes s e).map (·.1)).Nodup := by
  rw [landedBytes, List.map_filterMap]
  refine (sectorBytes_nodup e.sector).filterMap fun a a' b ha ha' => ?_
  obtain ⟨x, hx, rfl⟩ := Option.map_eq_some_iff.mp ha
  obtain ⟨y, hy, hxy⟩ := Option.map_eq_some_iff.mp ha'
  rw [← landedByte_fst hx, ← landedByte_fst hy, hxy]

/-! ### Landing together (R116, R117) -/

/-- The bytes of `u` once the entries `es` have landed, as they read in `s`, over those of `m`. -/
def LandedOver (s : State) (es : List Entry) (m : Cells 8) (u : State) : Prop :=
  (∀ e ∈ es, ∀ a, a / 32 = e.sector → cellGet u.sram.mem a = ((landedByte s e a).map (·.2)).getD (cellGet m a)) ∧
  ∀ a, (∀ e ∈ es, e.sector ≠ a / 32) → cellGet u.sram.mem a = cellGet m a

theorem readForSum_of_sound {u : State} (h : Sound u) (e : Entry) : readForSum u e = u := by
  unfold readForSum
  split
  · exact readSector_of_sectorErrors (h.2 _)
  · rfl

/-- One entry lands. -/
def landOne (s u : State) (e : Entry) : State :=
  guardedWrite (readForSum u e) (entryWho e) (some (landsAfter e)) (landedBytes s e)

theorem landOne_writes (s : State) {u : State} (h : Sound u) (e : Entry) :
    WritesBytes u (landOne s u e) ∧ LandedOver s [e] u.sram.mem (landOne s u e) := by
  obtain ⟨hwrites, hin, hout⟩ := guardedWrite_writes h (entryWho e) (some (landsAfter e)) (landedBytes_nodup s e)
  rw [landOne, readForSum_of_sound h]
  refine ⟨hwrites, fun e' he a ha => ?_, fun a ha => hout a fun x hx => ?_⟩
  · obtain rfl := List.mem_singleton.mp he
    cases hbyte : landedByte s e' a with
    | some x =>
      obtain rfl := landedByte_fst hbyte
      exact hin x (mem_landedBytes.mpr ⟨ha, hbyte⟩)
    | none =>
      refine hout a fun x hx hxa => ?_
      rw [← hxa, (mem_landedBytes.mp hx).2] at hbyte
      cases hbyte
  · rintro rfl
    exact ha e (List.mem_singleton_self e) (mem_landedBytes.mp hx).1.symm

theorem foldl_landOne_writes (s : State) {es : List Entry} (hn : (es.map (·.sector)).Nodup) {u : State} (h : Sound u) :
    WritesBytes u (es.foldl (landOne s) u) ∧ LandedOver s es u.sram.mem (es.foldl (landOne s) u) := by
  induction es generalizing u with
  | nil => exact ⟨⟨h, rfl⟩, fun e he => absurd he List.not_mem_nil, fun _ _ => rfl⟩
  | cons e es ih =>
    obtain ⟨hnew, hrest⟩ := List.nodup_cons.mp hn
    obtain ⟨hone, hin, hout⟩ := landOne_writes s h e
    obtain ⟨hmany, hins, houts⟩ := ih hrest hone.1
    have hother : ∀ e' ∈ es, e.sector ≠ e'.sector := fun e' he' heq =>
      hnew (List.mem_map.mpr ⟨e', he', heq.symm⟩)
    refine ⟨hone.trans hmany, fun e' he' a ha => ?_, fun a ha => ?_⟩
    · rcases List.mem_cons.mp he' with rfl | hlater
      · rw [List.foldl_cons, houts a fun e'' he'' => ha ▸ (hother e'' he'').symm]
        exact hin e' (List.mem_singleton_self e') a ha
      · rw [List.foldl_cons, hins e' hlater a ha, hout a]
        intro e'' he''
        rw [List.mem_singleton.mp he'', ha]
        exact hother e' hlater
    · rw [List.foldl_cons, houts a fun e' he' => ha e' (List.mem_cons_of_mem e he')]
      refine hout a fun e' he' => ?_
      rw [List.mem_singleton.mp he']
      exact ha e List.mem_cons_self

/-- From `s` to `u` entries have landed and watches have been tested: of the machine only paths, pending entries and the
bytes of the slices have changed, and no symbol is in error. -/
def Lands (s u : State) : Prop := Sound u ∧ u = { s with
  groups := u.groups
  sram := { s.sram with mem := u.sram.mem, undo := u.sram.undo, flips := u.sram.flips, entries := u.sram.entries
                        accums := u.sram.accums } }

theorem landEntries_lands {s : State} (h : Sound s) {es : List Entry} (hn : (es.map (·.sector)).Nodup) :
    Lands s (rewatch (landEntries s es)) ∧
      LandedOver s es s.sram.mem (rewatch (landEntries s es)) := by
  have hfold : (es.foldl (fun t e => guardedWrite (readForSum t e) (entryWho e) (some (landsAfter e))
      (landedBytes (readSector s e.sector) e)) s) = es.foldl (landOne s) s := by
    congr 1
    funext t e
    rw [readSector_of_sectorErrors (h.2 _)]
    rfl
  obtain ⟨⟨hsound, hframe⟩, hlanded⟩ := foldl_landOne_writes s hn h
  unfold landEntries
  dsimp only
  rw [hfold]
  generalize es.foldl (landOne s) s = v at hsound hframe hlanded
  refine ⟨⟨sound_of_flips hsound hsound.1 rfl (List.Subset.refl _), ?_⟩, hlanded⟩
  rw [hframe]
  rfl

/-! ### The end of a bulk read (R117, R119) -/

/-- The window has become present and the request is gone, before its counter is updated. -/
def windowPresent (s : State) (b : Bulk) : State :=
  let s1 := { s with
    sram.clears := s.sram.clears.filter fun c => decide (c.req ≠ b.head.id)
    sram.copies := presenceWritten s.sram.copies b.lines
    eng.bulks := s.eng.bulks.filter fun x => decide (x.head.id ≠ b.head.id) }
  { s1 with sram.undo := s1.sram.undo.filter (undoNeeded s1) }

theorem finishBulk_eq (s : State) (b : Bulk) : finishBulk s b =
    releaseParties (counterUpdate (windowPresent s b) (headWho b.head) b.cnt b.total (errorCode b.bursts)) b.head.task := rfl

/-- The request is gone, with its claims on lines, and no task record has changed. -/
def Ended (s : State) (b : Bulk) (t : State) : Prop :=
  findBulk t b.head.id = none ∧ (∀ c ∈ t.sram.clears, c.req ≠ b.head.id) ∧ t.tasks = s.tasks

theorem ended_windowPresent (s : State) (b : Bulk) : Ended s b (windowPresent s b) := by
  refine ⟨?_, fun c hc => of_decide_eq_true (List.mem_filter.mp hc).2, rfl⟩
  rw [findBulk, List.find?_eq_none]
  intro x hx
  simpa using of_decide_eq_true (List.mem_filter.mp hx).2

theorem ended_of {s t u : State} {b : Bulk} (h : Ended s b t) (heng : u.eng = t.eng)
    (hclears : u.sram.clears = t.sram.clears) (htasks : u.tasks = t.tasks) : Ended s b u := by
  obtain ⟨hfind, hgone, hsame⟩ := h
  exact ⟨(findBulk_congr (congrArg _ heng) _).trans hfind, by rw [hclears]; exact hgone, htasks.trans hsame⟩

/-- What ends a request leaves of bytes: its counter cell is updated, where it names one. -/
def CellUpdated (b : Bulk) (m m' : Cells 8) : Prop :=
  (b.cnt = none → m' = m) ∧ ∀ a, b.cnt = some a → Counted (wordAt m a) (wordAt m' a) b.total (errorCode b.bursts) ∧
    ∀ i, i ∉ cellBytes a → cellGet m' i = cellGet m i

theorem finishBulk_ends {s : State} (h : Sound s) (b : Bulk) :
    Ended s b (finishBulk s b) ∧ CellUpdated b s.sram.mem (finishBulk s b).sram.mem := by
  have hsound : Sound (windowPresent s b) := sound_of_flips h h.1 rfl (List.Subset.refl _)
  have hupdate : ∃ v, counterUpdate (windowPresent s b) (headWho b.head) b.cnt b.total (errorCode b.bursts) = v ∧
      Ended s b v ∧ CellUpdated b s.sram.mem v.sram.mem := by
    refine ⟨_, rfl, ?_⟩
    unfold CellUpdated
    cases hcell : b.cnt with
    | none => exact ⟨ended_windowPresent s b, fun _ => rfl, fun a ha => absurd ha (by simp)⟩
    | some a =>
      obtain ⟨⟨-, hframe⟩, hcounted⟩ := counterUpdate_counts hsound (headWho b.head) a b.total (errorCode b.bursts)
      refine ⟨ended_of (ended_windowPresent s b) (by rw [hframe]) (by rw [hframe]) (by rw [hframe]),
        fun hno => absurd hno (by simp), fun a' ha => ?_⟩
      obtain rfl := Option.some.inj ha
      exact hcounted
  obtain ⟨v, hv, hended, hcell⟩ := hupdate
  rw [finishBulk_eq, hv, releaseParties_frame]
  exact ⟨ended_of hended rfl rfl rfl, hcell⟩

/-! ### The event -/

section Event

variable {s : State} {b : Bulk} {k : Task}

theorem lastBurstEvent_takesPlace (hfind : findBulk s b.head.id = some b) (htask : findTask s b.head.task = some k)
    (hready : lastBurstReady s b k = true) : exec (.lastBurstEvent b.head.id) s = .next (lastBurst s b k) := by
  change execLastBurstEvent b.head.id s = _
  rw [execLastBurstEvent, hfind]
  dsimp only
  rw [htask]
  dsimp only
  rw [if_pos hready]

theorem lastBurst_collides {c : Nat × Nat × List Store} (h : lowestCollision (windowEntries s b.head.id) = some c) :
    lastBurst s b k = stopWith s b.head.task (collisionFrec (b.head.step + 1) true c) := by
  rw [lastBurst, h]

variable (hnone : lowestCollision (windowEntries s b.head.id) = none)
  (hupset : ∀ e ∈ windowEntries s b.head.id, entryUpset s e = false)

include hupset in
theorem find?_entryUpset : (windowEntries s b.head.id).find? (entryUpset s) = none :=
  List.find?_eq_none.mpr fun e he => by simp [hupset e he]

include hnone hupset

theorem lastBurst_finishes (hdone : b.chnd = none ∨ b.landed = true) :
    lastBurst s b k = finishBulk (rewatch (landEntries s (windowEntries s b.head.id))) b := by
  have hfind := find?_entryUpset hupset
  rcases hdone with hchnd | hlanded
  · simp [lastBurst, hnone, hfind, hchnd]
  · cases hchnd : b.chnd <;> simp [lastBurst, hnone, hfind, hchnd, hlanded]

theorem lastBurst_starts {key : Nat} (hchnd : b.chnd = some key) (hfirst : b.landed = false) :
    lastBurst s b k = startCompletion (rewatch (landEntries s (windowEntries s b.head.id))) b k key := by
  simp [lastBurst, hnone, find?_entryUpset hupset, hchnd, hfirst]

end Event

/-! ### The clauses of the statement -/

/-- The handlers' bytes stand, and no byte outside them and `cell` has changed. -/
def Written (s : State) (b : Bulk) (t : State) (cell : List Nat) : Prop :=
  (∀ e ∈ windowEntries s b.head.id, ∀ a, a / 32 = e.sector →
    cellGet t.sram.mem a = ((landedByte s e a).map (·.2)).getD (cellGet s.sram.mem a)) ∧
  (∀ a, a ∉ cell → (∀ e ∈ windowEntries s b.head.id, e.sector ≠ a / 32) →
    cellGet t.sram.mem a = cellGet s.sram.mem a)

theorem written_of_mem {s u t : State} {b : Bulk} (h : LandedOver s (windowEntries s b.head.id) s.sram.mem u)
    (hmem : t.sram.mem = u.sram.mem) : Written s b t [] := by
  unfold Written
  rw [hmem]
  exact ⟨h.1, fun a _ => h.2 a⟩

/-- A counter cell in a sector of its own leaves what has landed. -/
theorem written_of_cell {s u t : State} {b : Bulk} (h : LandedOver s (windowEntries s b.head.id) s.sram.mem u) {a : Nat}
    (ha : a % 4 = 0) (hsector : ∀ e ∈ windowEntries s b.head.id, e.sector ≠ a / 32)
    (hcell : ∀ i, i ∉ cellBytes a → cellGet t.sram.mem i = cellGet u.sram.mem i) : Written s b t (cellBytes a) := by
  refine ⟨fun e he i hi => ?_, fun i hi hrest => (hcell i hi).trans (h.2 i hrest)⟩
  rw [hcell i fun hin => ?_, h.1 e he i hi]
  have := mem_cellBytes.mp hin
  exact hsector e he (by omega)

section Clauses

variable {s : State} {b : Bulk} {k : Task} (hfind : findBulk s b.head.id = some b)
  (htask : findTask s b.head.task = some k) (hready : lastBurstReady s b k = true)
include hfind htask hready

theorem lastBurstEvent_collides (hstop : k.stop = none) {c : Nat × Nat × List Store}
    (h : lowestCollision (windowEntries s b.head.id) = some c) :
    ∃ t k', exec (.lastBurstEvent b.head.id) s = .next t ∧ t.sram = s.sram ∧ findTask t b.head.task = some k' ∧
      k'.stop = some 0x12 ∧ k'.frec.kind = 0x12 ∧ k'.frec.addr = BitVec.ofNat 32 c.1 ∧
      k'.frec.step = BitVec.ofNat 64 (b.head.step + 1) := by
  have hexec := lastBurstEvent_takesPlace hfind htask hready
  have hstopped := findTask_stopWith_same htask (collisionFrec (b.head.step + 1) true c)
  rw [stopped, hstop] at hstopped
  rw [lastBurst_collides h] at hexec
  exact ⟨_, _, hexec, rfl, hstopped, rfl, rfl, rfl, rfl⟩

variable (hsound : Sound s) (hsectors : ((windowEntries s b.head.id).map (·.sector)).Nodup)
  (hnone : lowestCollision (windowEntries s b.head.id) = none)
  (hupset : ∀ e ∈ windowEntries s b.head.id, entryUpset s e = false)
include hsound hsectors hnone hupset

/-- Without a completion handler, or after it, the request ends. -/
theorem lastBurstEvent_ends (hdone : b.chnd = none ∨ b.landed = true) :
    ∃ u t, LandedOver s (windowEntries s b.head.id) s.sram.mem u ∧ exec (.lastBurstEvent b.head.id) s = .next t ∧
      Ended s b t ∧ CellUpdated b u.sram.mem t.sram.mem := by
  obtain ⟨⟨hsound', hframe⟩, hlanded⟩ := landEntries_lands hsound hsectors
  obtain ⟨⟨hgone, hclears, htasks⟩, hcell⟩ := finishBulk_ends hsound' b
  refine ⟨_, _, hlanded, lastBurstEvent_takesPlace hfind htask hready, ?_⟩
  rw [lastBurst_finishes hnone hupset hdone]
  exact ⟨⟨hgone, hclears, htasks.trans (by rw [hframe])⟩, hcell⟩

theorem lastBurstEvent_plain (hdone : b.chnd = none ∨ b.landed = true) (hcnt : b.cnt = none) :
    ∃ t, exec (.lastBurstEvent b.head.id) s = .next t ∧ Written s b t [] ∧ Ended s b t := by
  obtain ⟨u, t, hlanded, hexec, hended, hsame, -⟩ := lastBurstEvent_ends hfind htask hready hsound hsectors hnone hupset hdone
  exact ⟨t, hexec, written_of_mem hlanded (hsame hcnt), hended⟩

theorem lastBurstEvent_counts (hdone : b.chnd = none ∨ b.landed = true) {a : Nat} (hcnt : b.cnt = some a)
    (ha : a % 4 = 0) (hsector : ∀ e ∈ windowEntries s b.head.id, e.sector ≠ a / 32) :
    ∃ t, exec (.lastBurstEvent b.head.id) s = .next t ∧ Written s b t (cellBytes a) ∧ Ended s b t ∧
      Counted (wordAt s.sram.mem a) (wordAt t.sram.mem a) b.total (errorCode b.bursts) := by
  obtain ⟨u, t, hlanded, hexec, hended, -, hcell⟩ := lastBurstEvent_ends hfind htask hready hsound hsectors hnone hupset hdone
  obtain ⟨hcounted, hrest⟩ := hcell a hcnt
  have hword : wordAt u.sram.mem a = wordAt s.sram.mem a := by
    refine wordAt_congr fun i hi => hlanded.2 i fun e he heq => hsector e he ?_
    have := mem_cellBytes.mp hi
    omega
  rw [hword] at hcounted
  exact ⟨t, hexec, written_of_cell hlanded ha hsector hrest, hended, hcounted⟩

/-- The completion handler starts in a group of its own. -/
theorem lastBurstEvent_completes {key : Nat} (hchnd : b.chnd = some key) (hfirst : b.landed = false) :
    ∃ t g' p', exec (.lastBurstEvent b.head.id) s = .next t ∧ Written s b t [] ∧
      findBulk t b.head.id = some { b with landed := true } ∧ t.groups.getLast? = some g' ∧
      g'.completion = true ∧ g'.handler = some b.head.id ∧ g'.paths = [p'] ∧
      p'.pc = assoc k.decl.handlers key 0 ∧ (laneOf g' 0).step = BitVec.ofNat 64 (b.head.step + 1) ∧
      (laneOf g' 0).bc = #v[BitVec.ofNat 32 b.total, BitVec.ofNat 32 (errorCode b.bursts),
        BitVec.ofNat 32 b.born, BitVec.ofNat 32 b.tag] := by
  obtain ⟨⟨-, hframe⟩, hlanded⟩ := landEntries_lands hsound hsectors
  have hexec := lastBurstEvent_takesPlace hfind htask hready
  rw [lastBurst_starts hnone hupset hchnd hfirst, startCompletion, newGroup_eq] at hexec
  refine ⟨_, _, _, hexec, written_of_mem hlanded rfl, ?_, List.getLast?_concat, rfl, rfl, rfl,
    congrArg Path.pc (freshPath_frame ..), rfl, handlerThread_bc ..⟩
  refine findBulk_putBulk (b := { b with landed := true }) (d := b) ?_
  rw [hframe]
  exact hfind

end Clauses

end Sys2Proof.LastBursts
end

section
/-!
PROOF. The events of a bulk read (R106, R109 to R111, R116 to R120, R251).
-/

namespace Sys2Proof.BulkReads

open Sys2Proof Sys2Proof.Machine Sys2Proof.BulkRequests Sys2Proof.HandlerBirths Sys2Proof.LastBursts

/-- Settles O50, event by event: the burst that is sent takes the outcome of the far side; one that has come is filed in a
bin; a bin becomes a fresh group; and the stores of the handlers land one sector at a time, in sectors of their own. -/
theorem bulkReadEventsRunTheHandlers : Obligations.BulkReadEventsRunTheHandlers := by
  unfold Obligations.BulkReadEventsRunTheHandlers
  intro s b n x k data bin key q dpa hpa xl
  refine ⟨?request, fun _ => ⟨?arrival, ?draw, ?last⟩⟩
  case request =>
    exact fun hcopy hfind htask hstop hrun hsave hpart hx hstate =>
      requestRules hcopy hfind htask hstop hrun hsave hpart hx hstate dpa hpa xl
  case arrival =>
    exact fun hfind htask hstop hrun hx hgot hlen hqueue hslot hroom =>
      burstArrival_born hfind htask hstop hrun hx hgot hqueue hslot hlen hroom
  case draw =>
    intro hfind htask hstop hrun hdue _ hhandler
    exact binDraw_drawn b hfind htask hstop hrun hdue hhandler
  case last =>
    intro hfind htask _ hstop hready herrors hwf hsectors
    have hsound : StagingBytes.Sound s := ⟨hwf, herrors⟩
    refine ⟨fun hnone hupset => ⟨?plain, ?counts, ?completes⟩, fun c hc =>
      lastBurstEvent_collides hfind htask hready hstop hc⟩
    case plain =>
      exact lastBurstEvent_plain hfind htask hready hsound hsectors hnone hupset
    case counts =>
      exact fun hdone a hcnt ha hsector =>
        lastBurstEvent_counts hfind htask hready hsound hsectors hnone hupset hdone hcnt ha hsector
    case completes =>
      exact lastBurstEvent_completes hfind htask hready hsound hsectors hnone hupset

end Sys2Proof.BulkReads
end

section
/-!
SUPPORT. Reading sectors whole through the bank code (R134): what one read, and several reads in a row, do to the bytes, to
the errors and to the counts of a slice.
-/

namespace Sys2Proof.SectorReads

open Sys2Proof Sys2Proof.Machine Sys2Proof.StagingBytes Sys2Proof.EngineWrites Sys2Proof.RequestBlocks

/-! ### Symbols and bytes (R125) -/

theorem length_bytesOfSymbols (c : List Symbol) : (bytesOfSymbols c).length = 2 * c.length := by
  simp [bytesOfSymbols, Nat.mul_comm]

theorem length_symbolsOf : ∀ bs : List Byte, (symbolsOf bs).length = bs.length / 2
  | [] => rfl
  | [x] => by simp [symbolsOf]
  | _ :: _ :: l => by
    rw [symbolsOf, List.length_cons, length_symbolsOf l]
    simp only [List.length_cons]
    omega

/-- Bytes in pairs are the bytes of their symbols. -/
theorem bytesOfSymbols_symbolsOf : ∀ bs : List Byte, bs.length % 2 = 0 → bytesOfSymbols (symbolsOf bs) = bs
  | [], _ => rfl
  | [x], h => by simp at h
  | a :: b :: l, h => by
    have hrest : bytesOfSymbols (symbolsOf l) = l := bytesOfSymbols_symbolsOf l (by simp only [List.length_cons] at h; omega)
    have hlow : (b ++ a).setWidth 8 = a := BitVec.setWidth_append_eq_right
    have hhigh : ((b ++ a) >>> 8).setWidth 8 = b :=
      BitVec.setWidth_ushiftRight_eq_extractLsb.trans BitVec.extractLsb'_append_eq_left
    exact congrArg₂ (· ++ ·) (congrArg₂ (fun x y => [x, y]) hlow hhigh) hrest

theorem length_fixSymbol (c : List Symbol) (k : Nat) (e : Symbol) : (fixSymbol c k e).length = c.length :=
  List.length_modify ..

/-- A decoding delivers as many symbols as it was given. -/
theorem length_of_decodeSymbols {erased : List Nat} {c d : List Symbol} (h : (decodeSymbols erased c).word = some d) :
    d.length = c.length := by
  unfold decodeSymbols at h
  dsimp only at h
  split at h
  case h_1 =>
    split at h
    · cases h
      rfl
    · split at h
      · cases h
        exact length_fixSymbol ..
      · cases h
  case h_2 =>
    split at h
    · cases h
      exact length_fixSymbol ..
    · cases h
  case h_3 =>
    cases h
    rw [length_fixSymbol, length_fixSymbol]

theorem length_bytesAt (m : Cells 8) (a n : Nat) : (bytesAt m a n).length = n := by simp [bytesAt]

theorem length_storedSymbols (s : State) (x : Nat) : (storedSymbols s x).length = 18 := by
  have hfold : ∀ (es : List (Nat × Symbol)) (c : List Symbol),
      (es.foldl (fun c e => fixSymbol c e.1 e.2) c).length = c.length := by
    intro es
    induction es with
    | nil => exact fun _ => rfl
    | cons e es ih => exact fun c => (ih _).trans (length_fixSymbol ..)
  rw [storedSymbols, hfold, encodeSymbols]
  simp [length_symbolsOf, length_bytesAt]

theorem sectorOf_mul {x i : Nat} (hi : i < 32) : sectorOf (x * 32 + i) = x := by
  unfold sectorOf
  omega

/-! ### The outcome of a sector -/

theorem sectorOutcome_clean {s : State} {x : Nat} (h : sectorErrors s x = []) :
    sectorOutcome s x = .clean (symbolsOf (bytesAt s.sram.mem (x * 32) 32)) := by
  simp [sectorOutcome, h]

theorem sectorOutcome_decoded {s : State} {x : Nat} (h : sectorErrors s x ≠ []) :
    sectorOutcome s x = decodeSymbols (erasures s x) (storedSymbols s x) := by
  simp [sectorOutcome, h]

theorem correctedBank_clean {s : State} {x : Nat} (h : sectorErrors s x = []) : correctedBank s x = none := by
  simp [correctedBank, sectorOutcome_clean h]

theorem word_eq_some {o : CodeOutcome} {c : List Symbol} :
    o.word = some c ↔ o = .clean c ∨ o = .rebuilt c ∨ ∃ b, o = .corrected c b := by
  cases o <;> simp [CodeOutcome.word]

/-- Every sector but a bad one delivers a word. -/
theorem word_of_not_bad {s : State} {x : Nat} (h : sectorBad s x = false) : ∃ c, (sectorOutcome s x).word = some c := by
  unfold sectorBad at h
  cases ho : sectorOutcome s x <;> simp [ho, CodeOutcome.word] at h ⊢

/-- What a sector delivers is thirty-two bytes. -/
theorem length_delivered {s : State} {x : Nat} {c : List Symbol} (h : (sectorOutcome s x).word = some c) :
    (bytesOfSymbols (c.take 16)).length = 32 := by
  have hlen : 16 ≤ c.length := by
    by_cases herr : sectorErrors s x = []
    · rw [sectorOutcome_clean herr] at h
      cases h
      rw [length_symbolsOf, length_bytesAt]
    · rw [sectorOutcome_decoded herr] at h
      rw [length_of_decodeSymbols h, length_storedSymbols]
      omega
  rw [length_bytesOfSymbols, List.length_take]
  omega

/-- A sector without an error delivers the bytes that stand there. -/
theorem delivered_clean {s : State} {x : Nat} {c : List Symbol} (h : sectorErrors s x = [])
    (hc : (sectorOutcome s x).word = some c) : bytesOfSymbols (c.take 16) = bytesAt s.sram.mem (x * 32) 32 := by
  rw [sectorOutcome_clean h] at hc
  cases hc
  rw [List.take_of_length_le (by rw [length_symbolsOf, length_bytesAt]), bytesOfSymbols_symbolsOf]
  rw [length_bytesAt]

/-! ### Reading one sector -/

/-- A sector with errors that can be decoded is rewritten, and its slice counts a corrected symbol. -/
theorem readSector_of_word {s : State} {x : Nat} {c : List Symbol} (herr : sectorErrors s x ≠ [])
    (hc : (sectorOutcome s x).word = some c) : readSector s x =
      if (correctedBank s x).isSome = true then
        putSliceReg (rewriteSector s x c) { sliceReg s (sliceOf (x * 32)) with
          slcorr := satInc (sliceReg s (sliceOf (x * 32))).slcorr }
      else rewriteSector s x c := by
  have hempty : (sectorErrors s x).isEmpty = false := by simpa using herr
  cases ho : sectorOutcome s x <;> rw [ho] at hc <;> cases hc <;> simp [readSector, correctedBank, hempty, ho]

theorem rewriteSector_slices (s : State) (x : Nat) (c : List Symbol) :
    (rewriteSector s x c).sram.slices = s.sram.slices := by
  unfold rewriteSector clearErrors
  split <;> rfl

/-- A rewritten sector keeps no flipped symbol, whether or not it had one. -/
theorem rewriteSector_flips (s : State) (x : Nat) (c : List Symbol) :
    (rewriteSector s x c).sram.flips = s.sram.flips.filter fun e => decide (e.1.1 ≠ x) := by
  unfold rewriteSector clearErrors
  split
  case isTrue => rfl
  case isFalse h =>
    refine (List.filter_eq_self.mpr fun e he => ?_).symm
    simp only [List.any_eq_true, not_exists, not_and, decide_eq_true_eq] at h
    exact decide_eq_true (h e he)

section Read

variable {s : State} {x : Nat}

/-- A sector that can be decoded is left as it stands, or has errors and is rewritten. -/
theorem readSector_cases (h : sectorBad s x = false) :
    (sectorErrors s x = [] ∧ readSector s x = s) ∨
    (sectorErrors s x ≠ [] ∧ ∃ c, (sectorOutcome s x).word = some c ∧
      (readSector s x).sram.mem = (rewriteSector s x c).sram.mem ∧
      (readSector s x).sram.flips = (rewriteSector s x c).sram.flips) := by
  by_cases herr : sectorErrors s x = []
  · exact .inl ⟨herr, readSector_of_sectorErrors herr⟩
  · obtain ⟨c, hc⟩ := word_of_not_bad h
    refine .inr ⟨herr, c, hc, ?_⟩
    rw [readSector_of_word herr hc]
    split <;> exact ⟨rfl, rfl⟩

theorem readSector_rest (s : State) (x : Nat) : readSector s x = { s with
    sram.mem := (readSector s x).sram.mem
    sram.flips := (readSector s x).sram.flips
    sram.slices := (readSector s x).sram.slices } := by
  unfold readSector rewriteSector clearErrors putSliceReg
  repeat' split
  all_goals rfl

/-- The slice of a sector counts one corrected symbol more, and no other register changes. -/
theorem sliceReg_readSector (h : sectorBad s x = false) (n : Nat) : sliceReg (readSector s x) n =
    { sliceReg s n with
      slcorr := if sliceOf (x * 32) = n ∧ (correctedBank s x).isSome = true then satInc (sliceReg s n).slcorr
        else (sliceReg s n).slcorr } := by
  by_cases herr : sectorErrors s x = []
  · rw [readSector_of_sectorErrors herr, correctedBank_clean herr]
    simp
  · obtain ⟨c, hc⟩ := word_of_not_bad h
    have hrewrite : sliceReg (rewriteSector s x c) n = sliceReg s n := sliceReg_congr (rewriteSector_slices s x c) n
    rw [readSector_of_word herr hc]
    split
    next hcorr =>
      rw [sliceReg_putSliceReg, hrewrite]
      dsimp only
      rw [sliceReg_slice]
      by_cases hn : sliceOf (x * 32) = n
      · simp [hn, hcorr, sliceReg_slice]
      · simp [hn]
    next hcorr => simp [hrewrite, hcorr]

theorem erasures_readSector (h : sectorBad s x = false) (y : Nat) : erasures (readSector s x) y = erasures s y := by
  simp only [erasures, sliceReg_readSector h, erasedBanks, failedBanks]

/-- A sector that has been read has no error. -/
theorem sectorErrors_readSector_self (h : sectorBad s x = false) : sectorErrors (readSector s x) x = [] := by
  obtain ⟨herr, hread⟩ | ⟨-, c, -, -, hflips⟩ := readSector_cases h
  · rw [hread, herr]
  · have hnone : ∀ e ∈ (readSector s x).sram.flips, e.1.1 ≠ x := fun e he => by
      rw [hflips, rewriteSector_flips] at he
      exact of_decide_eq_true (List.mem_filter.mp he).2
    simp only [sectorErrors, sectorFlips, List.dedup_eq_nil, List.map_eq_nil_iff, List.filter_eq_nil_iff]
    exact fun e he => by simp [hnone e he]

/-- The symbols of every other sector stay as they are. -/
theorem sectorFlips_readSector (h : sectorBad s x = false) {y : Nat} (hy : y ≠ x) :
    sectorFlips (readSector s x) y = sectorFlips s y := by
  obtain ⟨-, hread⟩ | ⟨-, c, -, -, hflips⟩ := readSector_cases h
  · rw [hread]
  · rw [sectorFlips, erasures_readSector h, hflips, rewriteSector_flips, List.filter_filter, sectorFlips]
    congr 1
    refine List.filter_congr fun e _ => ?_
    by_cases he : e.1.1 = y
    · simp [he, hy]
    · simp [he]

theorem sectorErrors_readSector (h : sectorBad s x = false) {y : Nat} (hy : y ≠ x) :
    sectorErrors (readSector s x) y = sectorErrors s y := by
  rw [sectorErrors, sectorFlips_readSector h hy, sectorErrors]

variable (hwf : Memory.wf s.sram.mem = true)
include hwf

theorem wf_readSector : Memory.wf (readSector s x).sram.mem = true := by
  obtain ⟨ws, hws⟩ := readSector_mem s x
  rw [hws]
  exact wf_cellSetAll ws _ hwf

/-- What the decoding delivers stands in a sector that has been read, and no other byte changes. -/
theorem readSector_delivers (h : sectorBad s x = false) :
    (∀ a, sectorOf a ≠ x → cellGet (readSector s x).sram.mem a = cellGet s.sram.mem a) ∧
      ∀ c, (sectorOutcome s x).word = some c →
        bytesAt (readSector s x).sram.mem (x * 32) 32 = bytesOfSymbols (c.take 16) := by
  obtain ⟨herr, hread⟩ | ⟨herr, c, hc, hmem, -⟩ := readSector_cases h
  · rw [hread]
    exact ⟨fun _ _ => rfl, fun c hc => (delivered_clean herr hc).symm⟩
  · have hover : Overwrites s.sram.mem (readSector s x).sram.mem (x * 32) (bytesOfSymbols (c.take 16)) := by
      rw [hmem, rewriteSector_mem]
      exact overwrites_cellSetAll hwf _ _
    have hlen := length_delivered hc
    refine ⟨fun a ha => hover.outside ?_, fun d hd => ?_⟩
    · rw [hlen]
      unfold sectorOf at ha
      omega
    · obtain rfl : c = d := Option.some.inj (hc.symm.trans hd)
      refine List.ext_getElem (by rw [length_bytesAt, hlen]) fun o ho ho' => ?_
      simp only [bytesAt, List.getElem_map, List.getElem_range]
      rw [hover.inside ho', List.getD_eq_getElem _ _ ho']

/-- The bytes of another sector stay as they are. -/
theorem bytesAt_readSector (h : sectorBad s x = false) {y : Nat} (hy : y ≠ x) :
    bytesAt (readSector s x).sram.mem (y * 32) 32 = bytesAt s.sram.mem (y * 32) 32 :=
  List.map_congr_left fun i hi => (readSector_delivers hwf h).1 _ (by rwa [sectorOf_mul (List.mem_range.mp hi)])

/-- What another sector decodes to stays as it is. -/
theorem sectorOutcome_readSector (h : sectorBad s x = false) {y : Nat} (hy : y ≠ x) :
    sectorOutcome (readSector s x) y = sectorOutcome s y := by
  simp only [sectorOutcome, storedSymbols, sectorErrors_readSector h hy, sectorFlips_readSector h hy, erasures_readSector h,
    bytesAt_readSector hwf h hy]

theorem correctedBank_readSector (h : sectorBad s x = false) {y : Nat} (hy : y ≠ x) :
    correctedBank (readSector s x) y = correctedBank s y := by
  rw [correctedBank, sectorOutcome_readSector hwf h hy, correctedBank]

theorem sectorBad_readSector (h : sectorBad s x = false) {y : Nat} (hy : sectorBad s y = false) :
    sectorBad (readSector s x) y = false := by
  by_cases hyx : y = x
  · subst hyx
    exact sectorBad_of_sectorErrors (sectorErrors_readSector_self h)
  · rw [sectorBad, sectorOutcome_readSector hwf h hyx]
    exact hy

end Read

/-! ### Reading several sectors -/

theorem foldl_readSector_clean {s : State} {secs : List Nat} (h : ∀ x ∈ secs, sectorErrors s x = []) :
    secs.foldl readSector s = s := by
  induction secs with
  | nil => rfl
  | cons x secs ih =>
    obtain ⟨hx, hrest⟩ := List.forall_mem_cons.mp h
    rw [List.foldl_cons, readSector_of_sectorErrors hx, ih hrest]

/-- The distinct elements of a list that pass a test, where the first of them no longer passes it for the rest. -/
theorem length_filter_dedup_cons {x : Nat} {l : List Nat} {P Q : Nat → Bool} (hx : Q x = false)
    (hQ : ∀ y, y ≠ x → Q y = P y) :
    ((x :: l).dedup.filter P).length = (l.dedup.filter Q).length + if P x then 1 else 0 := by
  have hsame : ∀ r : List Nat, x ∉ r → r.filter Q = r.filter P := fun r hr =>
    List.filter_congr fun y hy => hQ y fun e => hr (e ▸ hy)
  have hcons : ∀ r : List Nat, x ∉ r → ((x :: r).filter P).length = (r.filter Q).length + if P x then 1 else 0 := by
    intro r hr
    rw [hsame r hr, List.filter_cons]
    split <;> simp
  by_cases hmem : x ∈ l
  · have hperm := List.perm_cons_erase (List.mem_dedup.mpr hmem)
    have hfresh : x ∉ l.dedup.erase x := (List.nodup_dedup l).not_mem_erase
    rw [List.dedup_cons_of_mem hmem, (hperm.filter P).length_eq, hcons _ hfresh, (hperm.filter Q).length_eq,
      List.filter_cons]
    simp [hx]
  · rw [List.dedup_cons_of_notMem hmem]
    exact hcons _ (by simpa using hmem)

/-- A saturating count goes up by one more where one more sector is corrected. -/
theorem satCount_succ (d m : Nat) (b : Prop) [Decidable b] :
    (if m = 0 then (if b then satInc d else d) else min ((if b then satInc d else d) + m) 0xFFFFFFFF) =
      if m + (if b then 1 else 0) = 0 then d else min (d + (m + if b then 1 else 0)) 0xFFFFFFFF := by
  unfold satInc
  by_cases hb : b
  · simp only [if_pos hb, Nat.succ_ne_zero, if_false]
    split <;> omega
  · simp only [if_neg hb, Nat.add_zero]

/-- One sector is read whole, and then those of a list. -/
theorem readsSectors_cons {s u : State} {x : Nat} {secs : List Nat} (hwf : Memory.wf s.sram.mem = true)
    (hx : sectorBad s x = false) (hreads : ReadsSectors (readSector s x) secs u) : ReadsSectors s (x :: secs) u := by
  obtain ⟨hothers, hdelivers⟩ := readSector_delivers hwf hx
  have hself := sectorErrors_readSector_self hx
  refine ⟨?rest, fun y hy => ?clean, fun y hy c hc => ?delivered, fun a ha => ?others, fun y hy => ?errors,
    fun n => ?counted⟩
  case rest =>
    have hlater := hreads.rest
    rw [readSector_rest s x] at hlater
    exact hlater
  case clean =>
    by_cases hmem : y ∈ secs
    · exact hreads.clean y hmem
    · obtain rfl : y = x := (List.mem_cons.mp hy).resolve_right hmem
      rw [hreads.errors y hmem, hself]
  case delivered =>
    have hword := word_eq_some.mpr hc
    by_cases hyx : y = x
    · subst hyx
      by_cases hmem : y ∈ secs
      · rw [hreads.delivered y hmem _ (.inl (sectorOutcome_clean hself)),
          delivered_clean hself (congrArg CodeOutcome.word (sectorOutcome_clean hself)), hdelivers c hword]
      · rw [← hdelivers c hword]
        refine List.map_congr_left fun i hi => hreads.others _ ?_
        rwa [sectorOf_mul (List.mem_range.mp hi)]
    · exact hreads.delivered y (List.mem_of_ne_of_mem hyx hy) c (by rwa [sectorOutcome_readSector hwf hx hyx])
  case others =>
    obtain ⟨hax, hsecs⟩ := not_or.mp (mt List.mem_cons.mpr ha)
    rw [hreads.others a hsecs, hothers a hax]
  case errors =>
    obtain ⟨hyx, hsecs⟩ := not_or.mp (mt List.mem_cons.mpr hy)
    rw [hreads.errors y hsecs, sectorErrors_readSector hx hyx]
  case counted =>
    intro k r
    have hk : k = _ := length_filter_dedup_cons (x := x) (l := secs)
      (P := fun y => decide (sliceOf (y * 32) = n) && (correctedBank s y).isSome)
      (Q := fun y => decide (sliceOf (y * 32) = n) && (correctedBank (readSector s x) y).isSome)
      (by simp [correctedBank_clean hself]) fun y hyx => by simp only [correctedBank_readSector hwf hx hyx]
    have hcount := hreads.counted n
    simp only [sliceReg_readSector hx] at hcount
    change sliceReg u n = { sliceReg s n with
      slcorr := if k = 0 then (sliceReg s n).slcorr else min ((sliceReg s n).slcorr + k) 0xFFFFFFFF }
    rw [hcount, hk]
    simp only [Bool.and_eq_true, decide_eq_true_eq]
    generalize (List.filter _ secs.dedup).length = m
    rw [satCount_succ]

/-- The sectors of a list, read one after the other, are all read whole (R134). -/
theorem foldl_readSector_reads {secs : List Nat} {s : State} (hwf : Memory.wf s.sram.mem = true)
    (hgood : ∀ x ∈ secs, sectorBad s x = false) : ReadsSectors s secs (secs.foldl readSector s) := by
  induction secs generalizing s with
  | nil => exact ⟨rfl, by simp, by simp, fun _ _ => rfl, fun _ _ => rfl, fun n => by simp⟩
  | cons x secs ih =>
    obtain ⟨hx, hrest⟩ := List.forall_mem_cons.mp hgood
    exact readsSectors_cons hwf hx (ih (wf_readSector hwf) fun y hy => sectorBad_readSector hwf hx (hrest y hy))

end Sys2Proof.SectorReads
end

section
/-!
SUPPORT. When a load may be served (R28, R97, R115, R118, R141, R160).
-/

namespace Sys2Proof.LoadWaits

open Sys2Proof Sys2Proof.Machine

theorem atLeast_iff {f : Option Nat} {t : Nat} : atLeast f t = true ↔ ∀ x, f = some x → t ≤ x := by
  cases f <;> simp [atLeast]

theorem isCounter_iff {s : State} {task w : Nat} : isCounter s task w = true ↔
    (∃ c ∈ s.eng.copies, c.head.task = task ∧ c.cnt = some (4 * w)) ∨
      ∃ b ∈ s.eng.bulks, b.head.task = task ∧ b.cnt = some (4 * w) := by
  simp [isCounter, Nat.mul_comm w 4]

/-- Every word that an access meets is a counter cell. -/
theorem allCounters_iff {s : State} {task a z : Nat} (hz : 0 < z) : allCounters s task a z = true ↔
    ∀ w, a / 4 ≤ w → w ≤ (a + z - 1) / 4 → isCounter s task w = true := by
  simp only [allCounters, List.all_eq_true, List.mem_range]
  constructor
  · intro h w hlo hhi
    have hw := h (w - a / 4) (by omega)
    rwa [Nat.add_sub_cancel' hlo] at hw
  · exact fun h k hk => h _ (by omega) (by omega)

/-- What holds of nothing below `t` holds from `t` on only. -/
theorem lt_imp_not {n t : Nat} {A : Prop} : (n < t → ¬A) ↔ (A → t ≤ n) := by rw [imp_not_comm, not_lt]

theorem landedBelow_iff {s : State} {d : Dom} {slice t : Nat} : landedBelow s d slice t = true ↔ LandedTo s d slice t := by
  simp only [landedBelow, LandedTo, Bool.and_eq_true, List.any_eq_false, decide_eq_true_eq, not_and,
    Option.isNone_iff_eq_none, and_imp, Bool.not_eq_eq_eq_not, Bool.not_true, lt_imp_not]

theorem presentFor_iff {s : State} {own : Option Nat} {a z t : Nat} :
    presentFor s own a z t = true ↔ PresentTo s own a z t := by
  simp only [presentFor, PresentTo, Bool.and_eq_true, Bool.not_eq_eq_eq_not, Bool.not_true, List.any_eq_false,
    decide_eq_true_eq]
  refine and_congr (forall₂_congr fun c _ => ?clear) ⟨fun h l k b hl => ?reads, fun h e he => ?copy⟩
  case clear =>
    simp only [not_and, and_imp]
    exact ⟨fun h hlo hhi hown hright => not_lt.mp fun hearlier => h hearlier hown hlo hhi hright,
      fun h hearlier hown hlo hhi hright => not_lt.mpr (h hlo hhi hown hright) hearlier⟩
  case reads =>
    change lineOf a ≤ l → l ≤ lineOf (a + z - 1) → _
    simpa using h _ hl
  case copy =>
    cases e with
    | tag g k o => simp
    | presence l k b =>
      have hline : lineOf a ≤ l → l ≤ lineOf (a + z - 1) → _ := h l k b he
      simpa using hline

theorem loadReady_iff {s : State} {own : Option Nat} {task a z t : Nat} (hz : 0 < z) :
    loadReady s own task a z t = true ↔
      (∀ w, a / 4 ≤ w → w ≤ (a + z - 1) / 4 → isCounter s task w = true) ∨
      ∀ d, domainOf s a = some d →
        (∀ f, knownAt s d (sliceOf a) = some f → t ≤ f) ∧ LandedTo s d (sliceOf a) t ∧ PresentTo s own a z t := by
  rw [loadReady, Bool.or_eq_true, allCounters_iff hz]
  refine or_congr_right ?_
  cases domainOf s a with
  | none => simp
  | some d => simp [atLeast_iff, landedBelow_iff, presentFor_iff, and_assoc]

end Sys2Proof.LoadWaits
end

section
/-!
PROOF. Loads (R28, R126, R135, R139 to R142, R149): the checks they pass, what they place, and what holds or stops them.
-/

namespace Sys2Proof.Loads

open Sys2Proof Sys2Proof.Machine Sys2Proof.RequestBlocks Sys2Proof.AddressWords Sys2Proof.SectorReads Sys2Proof.LoadWaits

/-! ### The words of an element (R142) -/

/-- `SEXT` of R170 is the signed reading of the low bits. -/
theorem sextInt_eq_toInt {n : Nat} (hn : 0 < n) (v : Nat) : sextInt v n = (BitVec.ofNat n v).toInt := by
  have hpow := Nat.two_pow_pred_add_two_pow_pred hn
  rw [BitVec.toInt_eq_toNat_cond, BitVec.toNat_ofNat, sextInt, if_neg (by omega)]
  have hhalf : v % 2 ^ n < 2 ^ (n - 1) ↔ 2 * (v % 2 ^ n) < 2 ^ n := by omega
  simp only [hhalf]
  push_cast
  rfl

theorem extend_eq_loadedWords (ty : Ty) (m : Nat) : extend ty m = loadedWords ty m := by
  cases ty
  case i8 | i16 => exact congrArg (fun x : Int => [BitVec.ofInt 32 x]) (sextInt_eq_toInt (by decide) m)
  all_goals rfl

/-! ### The lanes of a load -/

/-- The lanes of `LD` or `LDS` with their effective addresses (R139, R149). -/
def loadLanes (scalar : Bool) (g : Group) (p : Path) (a imm : BitVec 6) (gd : Guard) : List (Nat × Nat) :=
  if scalar then scalarAddr p a imm else laneAddrs g p a imm gd

/-- The lanes stand in ascending order. -/
theorem loadLanes_ascend (scalar : Bool) (g : Group) (p : Path) (a imm : BitVec 6) (gd : Guard) :
    (loadLanes scalar g p a imm gd).Pairwise fun x y => x.1 < y.1 := by
  cases scalar
  case false => exact List.pairwise_map.mpr (List.pairwise_lt_range.filter _)
  case true =>
    simp only [loadLanes, if_true, scalarAddr]
    cases lowest p.exec <;> simp

/-- Of elements in ascending order the lowest that fails a test is the one that the test finds. -/
theorem find_lowest {ls : List (Nat × Nat)} (hls : ls.Pairwise fun x y => x.1 < y.1) {bad : Nat × Nat → Bool}
    {x : Nat × Nat} (hx : x ∈ ls) (hbad : bad x = true) (hlow : ∀ y ∈ ls, y.1 < x.1 → bad y = false) :
    ls.find? bad = some x := by
  obtain ⟨before, after, rfl⟩ := List.append_of_mem hx
  refine List.find?_eq_some_iff_append.mpr ⟨hbad, before, after, rfl, fun y hy => ?_⟩
  have hyx := (List.pairwise_append.mp hls).2.2 y hy x List.mem_cons_self
  simp [hlow y (List.mem_append_left _ hy) hyx]

/-! ### The checks (R140) -/

/-- Accesses that pass are not refused. -/
theorem checkLoad_of_passes {s : State} {g : Group} {sp : Space} {z : Nat} {ls : List (Nat × Nat)} {adr : Nat → Nat}
    (h : AccessesPass s g sp z ls adr) : checkLoad s g sp z ls = none := by
  have haligned : firstLane ls (fun ea => decide (ea % z ≠ 0)) = none :=
    firstLane_eq_none.mpr fun x hx => by simp [(h x hx).1]
  have hresolved : firstLane ls (fun ea => !(resolve s g sp ea z).isOk) = none :=
    firstLane_eq_none.mpr fun x hx => by simp [isOk_of_resolve (h x hx).2.1]
  simp only [checkLoad, haligned, hresolved, Option.map_eq_none_iff]
  refine firstLane_eq_none.mpr fun x hx => ?_
  obtain ⟨-, hres, hown⟩ := h x hx
  cases hb : bulkOf s g with
  | none => rfl
  | some b =>
    cases hg : g.completion
    · simpa [hres, meetsWindow] using hown b hb hg
    · simp [hres]

/-! ### The course of a load -/

/-- The request of a load whose accesses pass. -/
def loadRequest (s : State) (g : Group) (scalar : Bool) (d : BitVec 6) (ty : Ty) (ls : List (Nat × Nat))
    (adr : Nat → Nat) : LoadReq :=
  { own := if g.completion then g.handler else none, scalar := scalar, reg := d.toNat, ty := ty,
    accs := ls.map fun x => { lane := x.1, addr := adr x.1, step := (laneOf g x.1).step.toNat }
    issued := s.fresh }

/-- What a lane places: the words of its element from its register on, and no flag. -/
def loadOut (u : State) (d : BitVec 6) (ty : Ty) (adr : Nat → Nat) (g : Group) (_ : Path) (l : Nat) : LaneOut :=
  { regs := (loadedWords ty (loadedNumber u g.task (laneOf g l).step.toNat (adr l) ty.size)).mapIdx fun k x =>
      (d.toNat + k, x)
    flags := 0 }

theorem mapIdx_self {α : Type} (l : List α) : l.mapIdx (fun _ x => x) = l := List.ext_getElem (by simp) (by simp)

/-- A load of several lanes changes the registers of its lanes, one lane after the other. -/
theorem foldl_loadInto_lanes {r : LoadReq} (hr : r.scalar = false) (acc : Nat → Access) (hacc : ∀ l, (acc l).lane = l)
    (ws : Access → List Word) {xs : List Nat} (hn : xs.Nodup) (h64 : ∀ l ∈ xs, l < 64) (g : Group) (p : Path) :
    (xs.map acc).foldl (fun gp x => loadInto gp.1 gp.2 r x (ws x)) (g, p) =
      ({ g with lanes := g.lanes.mapIdx fun l t => if l ∈ xs
          then ((ws (acc l)).mapIdx fun k w => (r.reg + k, w)).foldl (fun t y => setVreg t y.1 y.2) t else t }, p) := by
  induction xs generalizing g with
  | nil => simp [mapIdx_self]
  | cons x xs ih =>
    obtain ⟨hx, hn⟩ := List.nodup_cons.mp hn
    rw [List.map_cons, List.foldl_cons, loadInto, hr]
    simp only [Bool.false_eq_true, if_false]
    rw [ih hn fun l hl => h64 l (List.mem_cons_of_mem x hl)]
    refine Prod.ext (congrArg (fun ts => { g with lanes := ts }) ?_) rfl
    simp only [modLanes, List.mapIdx_mapIdx]
    refine congrArg (List.mapIdx · g.lanes) (funext fun l => funext fun t => ?_)
    simp only [Function.comp, hacc, getLsbD_twoPow64 _ _ (h64 x List.mem_cons_self), List.mem_cons, decide_eq_true_eq]
    by_cases hl : l = x
    · subst hl
      simp [hx]
    · simp [hl]

theorem applyOut_noFlags (t : Thread) (regs : List (Nat × Word)) :
    applyOut t { regs := regs, flags := 0 } = regs.foldl (fun t x => setVreg t x.1 x.2) t := by
  have hflags : t.flags ||| (0 : Word) = t.flags := by simp
  simp only [applyOut, hflags]
  rw [foldl_setVreg_rest]

theorem modLanes_noFlags (g : Group) (m : Mask) : modLanes g m (fun _ t => { t with flags := t.flags ||| 0 }) = g := by
  have hlanes : (g.lanes.mapIdx fun l t => if m.getLsbD l then { t with flags := t.flags ||| 0 } else t) = g.lanes :=
    List.ext_getElem (by simp) (by simp)
  rw [modLanes, hlanes]

/-- The guard of `LD`; `LDS` acts for every lane of its path (R149). -/
def loadGuard (scalar : Bool) (gd : Guard) : Guard := if scalar then { inv := false, p := 7 } else gd

theorem activeMask_all (p : Path) : activeMask p { inv := false, p := 7 } = p.exec := BitVec.and_allOnes

/-- The elements of a load are placed as a lane instruction places its results. -/
theorem foldl_loadInto (s u : State) (scalar : Bool) (g : Group) (p : Path) (d a imm : BitVec 6) (ty : Ty) (gd : Guard)
    (adr : Nat → Nat) :
    let r := loadRequest s g scalar d ty (loadLanes scalar g p a imm gd) adr
    let gp := r.accs.foldl (fun gp x =>
      loadInto gp.1 gp.2 r x (extend r.ty (natOfBytes (loadBytes u g.task x.step x.addr r.ty.size)))) (g, p)
    (gp.1, advance gp.2) = laneEffect (loadGuard scalar gd) scalar (loadOut u d ty adr) g p := by
  intro r gp
  cases scalar
  case false =>
    have hgp := foldl_loadInto_lanes (r := r) rfl
      (fun l => { lane := l, addr := adr l, step := (laneOf g l).step.toNat }) (fun _ => rfl)
      (fun x => extend ty (natOfBytes (loadBytes u g.task x.step x.addr ty.size))) (xs := lanesOf (activeMask p gd))
      (List.nodup_range.filter _) (fun l hl => lt_of_getLsbD (mem_lanesOf.mp hl)) g p
    have haccs : r.accs = (lanesOf (activeMask p gd)).map fun l =>
        { lane := l, addr := adr l, step := (laneOf g l).step.toNat } := List.map_map ..
    rw [← haccs] at hgp
    rw [show gp = _ from hgp, laneEffect]
    refine Prod.ext (congrArg (fun ts => { g with lanes := ts }) ?_) rfl
    refine congrArg (List.mapIdx · g.lanes) (funext fun l => funext fun t => ?_)
    simp only [mem_lanesOf, extend_eq_loadedWords, loadOut, applyOut_noFlags]
    rfl
  case true =>
    simp only [gp, r, loadRequest, loadLanes, if_true, scalarAddr, laneEffect, loadGuard, activeMask_all]
    cases lowest p.exec with
    | none => rfl
    | some l =>
      simp only [loadOut, modLanes_noFlags, ← extend_eq_loadedWords]
      rfl

/-- The sectors that the elements of a load lie in, in lane order. -/
def loadSectors (ls : List (Nat × Nat)) (adr : Nat → Nat) : List Nat := ls.map fun x => sectorOf (adr x.1)

/-- A load whose sectors can all be decoded reads them whole, and then places its elements. -/
theorem serveLoad_places (s : State) (scalar : Bool) (g : Group) (p : Path) (d a imm : BitVec 6) (ty : Ty) (gd : Guard)
    (adr : Nat → Nat) (hgood : ∀ x ∈ loadLanes scalar g p a imm gd, sectorBad s (sectorOf (adr x.1)) = false) :
    let ls := loadLanes scalar g p a imm gd
    let u := (loadSectors ls adr).foldl readSector s
    let r := laneEffect (loadGuard scalar gd) scalar (loadOut u d ty adr) g p
    serveLoad s g p (loadRequest s g scalar d ty ls adr) = putPath u r.1 r.2 := by
  intro ls u r
  have hnone : (loadRequest s g scalar d ty ls adr).accs.find? (fun x => sectorBad s (sectorOf x.addr)) = none := by
    simpa [loadRequest, List.find?_eq_none] using hgood
  have hread : (loadRequest s g scalar d ty ls adr).accs.foldl (fun s x => readSector s (sectorOf x.addr)) s = u := by
    simp only [u, loadRequest, loadSectors, List.foldl_map]
  have hplace := foldl_loadInto s u scalar g p d a imm ty gd adr
  simp only [serveLoad, hnone, hread]
  exact congrArg (fun x : Group × Path => putPath u x.1 x.2) hplace

/-- The lowest lane whose sector cannot be decoded stops the task. -/
theorem serveLoad_stops {s : State} {scalar : Bool} {g : Group} {p : Path} {d : BitVec 6} {ty : Ty} {ls : List (Nat × Nat)}
    {adr : Nat → Nat} {x : Nat × Nat} (hls : ls.Pairwise fun x y => x.1 < y.1) (hx : x ∈ ls)
    (hbad : sectorBad s (sectorOf (adr x.1)) = true)
    (hlow : ∀ y ∈ ls, y.1 < x.1 → sectorBad s (sectorOf (adr y.1)) = false) :
    serveLoad s g p (loadRequest s g scalar d ty ls adr) =
      stopBad s { task := g.task, step := (laneOf g x.1).step, tid := (laneOf g x.1).tid, pc := seqStart p }
        (sectorOf (adr x.1)) := by
  have hfind : ls.find? (fun x => sectorBad s (sectorOf (adr x.1))) = some x := find_lowest hls hx hbad hlow
  simp only [serveLoad, loadRequest, List.find?_map, Function.comp_def, hfind, Option.map_some]

theorem allReady_iff {s : State} {scalar : Bool} {g : Group} {d : BitVec 6} {ty : Ty} {ls : List (Nat × Nat)}
    {adr : Nat → Nat} : allReady s g (loadRequest s g scalar d ty ls adr) = true ↔
      ∀ x ∈ ls, loadReady s (if g.completion then g.handler else none) g.task (adr x.1) ty.size
        (laneOf g x.1).step.toNat = true ∧ storeAhead s g.core (adr x.1) s.fresh = false := by
  simp [allReady, loadRequest]

theorem exec_load (scalar : Bool) (sp : Space) (d a imm : BitVec 6) (ty : Ty) (gd : Guard) (s : State) :
    exec (if scalar then .lds sp d a imm ty else .ld sp d a imm gd ty) s =
      loadOp sp scalar d ty (fun g p => loadLanes scalar g p a imm gd) s := by
  cases scalar <;> rfl

section Word

variable {s : State} {g : Group} {p : Path} {w : Word} (h : Issuing s g p w) {scalar : Bool} {sp : Space}
  {d a imm : BitVec 6} {ty : Ty} {gd : Guard} {adr : Nat → Nat} {i : Instr}
  (hi : exec i s = loadOp sp scalar d ty (fun g p => loadLanes scalar g p a imm gd) s)
  (hpass : AccessesPass s g sp ty.size (loadLanes scalar g p a imm gd) adr) {r : LoadReq}
  (hr : r = loadRequest s g scalar d ty (loadLanes scalar g p a imm gd) adr)
include h hi hpass hr

/-- A load whose lanes pass the checks is served, or parks on its request. -/
theorem load_tries : exec i s = .next (tryLoad s g p r) := by
  have haccs : (loadLanes scalar g p a imm gd).map (fun x =>
      ({ lane := x.1, addr := absoluteOf s g sp x.2, step := (laneOf g x.1).step.toNat } : Access)) =
        (loadRequest s g scalar d ty (loadLanes scalar g p a imm gd) adr).accs :=
    List.map_congr_left fun x hx => by rw [absoluteOf_of_resolve (hpass x hx).2.1]
  rw [hi, hr, loadOp, onPath_next h]
  simp only [checkLoad_of_passes hpass, haccs]
  rfl

theorem load_parks (hwait : allReady s g r = false) : MovesPath i s g p { p with park := some (.load r) } := by
  refine movesPath_of_next h ?_ rfl
  rw [load_tries h hi hpass hr, tryLoad, hwait]
  rfl

variable (hready : allReady s g r = true)
include hready

theorem load_serves : exec i s = .next (serveLoad s g p r) := by
  rw [load_tries h hi hpass hr, tryLoad, if_pos hready]

/-- A load whose sectors can all be decoded places its elements in the machine that has read them. -/
theorem load_places (hgood : ∀ x ∈ loadLanes scalar g p a imm gd, sectorBad s (sectorOf (adr x.1)) = false) :
    let u := (loadSectors (loadLanes scalar g p a imm gd) adr).foldl readSector s
    ∃ t, exec i s = .next t ∧ LaneWrites u g p (loadGuard scalar gd) scalar (fun l => (loadOut u d ty adr g p l).regs)
      (fun _ => 0) t := by
  intro u
  have hu : Issuing u g p w := by
    have hframe : u = { s with sram := u.sram } := EngineWrites.foldl_readSector_frame _ s
    rw [hframe]
    exact ⟨h.cursor, h.group, h.path⟩
  obtain ⟨t, hlane, hwrites⟩ := laneOp_writes hu (loadGuard scalar gd) scalar (loadOut u d ty adr) fun _ =>
    QueryResults.numbered_nodup _ _
  refine ⟨t, ?_, hwrites⟩
  rw [laneOp, onPath_next hu] at hlane
  rw [load_serves h hi hpass hr hready, hr, serveLoad_places s scalar g p d a imm ty gd adr hgood]
  exact hlane

end Word

/-- Settles O27: a load that passes its checks is served as a lane instruction over the sectors it has read, or parks on its
request. -/
theorem loadsPlaceTheElementsOrWait : Obligations.LoadsPlaceTheElementsOrWait := by
  unfold Obligations.LoadsPlaceTheElementsOrWait
  refine ⟨?served, ?parked, ?ready⟩
  case served =>
    intro s g p w sp d a imm ty gd adr scalar h _ mask ls step own i places hpass hserved
    have hls : ls = loadLanes scalar g p a imm gd := by cases scalar <;> rfl
    clear_value ls
    subst hls
    have hi : exec i s = _ := exec_load scalar sp d a imm ty gd s
    have hready := allReady_iff (scalar := scalar) (d := d).mpr hserved
    refine ⟨fun hclean => ?clean, fun hwf hgood => ?corrected, fun x hx hbad hlow => ?stops⟩
    case clean =>
      have hplaces := load_places h hi hpass rfl hready fun x hx => sectorBad_of_sectorErrors (hclean x hx)
      have hread : (loadSectors (loadLanes scalar g p a imm gd) adr).foldl readSector s = s :=
        foldl_readSector_clean (List.forall_mem_map.mpr hclean)
      rw [hread] at hplaces
      exact hplaces
    case corrected =>
      obtain ⟨t, ht, hplaces⟩ := load_places h hi hpass rfl hready hgood
      exact ⟨_, t, ht, foldl_readSector_reads hwf (List.forall_mem_map.mpr hgood), hplaces⟩
    case stops =>
      refine ⟨_, load_serves h hi hpass rfl hready, ?_⟩
      rw [serveLoad_stops (loadLanes_ascend ..) hx hbad hlow]
      exact stopBad_stopsAt ..
  case parked =>
    intro s g p w sp d a imm ty gd adr scalar h ls step own hpass hwait
    have hls : ls = loadLanes scalar g p a imm gd := by cases scalar <;> rfl
    clear_value ls
    subst hls
    refine load_parks h (exec_load ..) hpass rfl (Bool.eq_false_iff.mpr fun hready => ?_)
    obtain ⟨x, hx, hlate⟩ := hwait
    obtain ⟨hnow, hfirst⟩ := allReady_iff.mp hready x hx
    exact hlate.elim (fun hno => by simp [own, step, hnow] at hno) fun hno => by simp [hfirst] at hno
  case ready =>
    intro s own task a z t hz counter
    simp only [counter, loadReady_iff hz, isCounter_iff]

end Sys2Proof.Loads
end

section
/-!
PROOF. The registers that a loaded element fills (R142).
-/

namespace Sys2Proof.LoadedElements

open Sys2Proof Sys2Proof.Machine Sys2Proof.Loads

/-- A narrow element that is moved as it is, or zero-extended, fills a register with its number. -/
theorem ofNat_eq_setWidth {n m : Nat} (hm : m < 2 ^ n) : BitVec.ofNat 32 m = (BitVec.ofNat n m).setWidth 32 :=
  BitVec.eq_of_toNat_eq (by simp [Nat.mod_eq_of_lt hm])

/-- A half element stands in the low half of its register. -/
theorem ofNat_eq_append {m : Nat} (hm : m < 2 ^ 16) : BitVec.ofNat 32 m = (0 : BitVec 16) ++ BitVec.ofNat 16 m :=
  (ofNat_eq_setWidth hm).trans (BitVec.setWidth_eq_append (by decide))

/-- The words of a wide element, low word first, are the halves of its pattern. -/
theorem words_of_ofNat (m : Nat) : [BitVec.ofNat 32 m, BitVec.ofNat 32 (m / 2 ^ 32)] =
    [(BitVec.ofNat 64 m).extractLsb' 0 32, (BitVec.ofNat 64 m).extractLsb' 32 32] := by
  have hlow : BitVec.ofNat 32 m = (BitVec.ofNat 64 m).extractLsb' 0 32 := BitVec.eq_of_toNat_eq (by simp)
  have hhigh : BitVec.ofNat 32 (m / 2 ^ 32) = (BitVec.ofNat 64 m).extractLsb' 32 32 :=
    BitVec.eq_of_toNat_eq (by simp [Nat.shiftRight_eq_div_pow]; omega)
  rw [hlow, hhigh]

/-- Settles O20: an element is placed as its words, which for each width are those that the rule gives. -/
theorem loadedElementsExtendByType : Obligations.LoadedElementsExtendByType := by
  unfold Obligations.LoadedElementsExtendByType
  intro m
  simp only [extend_eq_loadedWords]
  refine ⟨fun hm => ⟨rfl, ?byte⟩, fun hm => ⟨rfl, ?half, ?f16, ?bf16⟩, fun _ => ⟨rfl, rfl, rfl⟩, fun _ => ⟨?i64, ?f64⟩⟩
  case byte => exact congrArg (fun x => [x]) (ofNat_eq_setWidth hm)
  case half => exact congrArg (fun x => [x]) (ofNat_eq_setWidth hm)
  case f16 | bf16 => exact congrArg (fun x => [x]) (ofNat_eq_append hm)
  case i64 | f64 => exact words_of_ofNat m

end Sys2Proof.LoadedElements
end

section
/-!
SUPPORT. The checks of an access (R112 to R114, R140, R143, R149): which lane is refused, by which row, and what passes.
-/

namespace Sys2Proof.AccessChecks

open Sys2Proof Sys2Proof.Machine Sys2Proof.AddressWords Sys2Proof.Loads

/-! ### The lanes of an access and their addresses (R139, R149) -/

/-- Whether a lane acts: of `LDS` and `STS` the lowest of `EXEC`, of the others every active lane. -/
def Acts (scalar : Bool) (p : Path) (gd : Guard) (k : Nat) : Prop :=
  if scalar then lowest p.exec = some k else (activeMask p gd).getLsbD k = true

/-- The effective address of a lane that acts. -/
def accessAddr (scalar : Bool) (g : Group) (p : Path) (a imm : BitVec 6) (k : Nat) : Nat :=
  (if scalar then sreg p a.toNat + imms p imm else opA g p false a k + imms p imm).toNat

theorem mem_loadLanes {scalar : Bool} {g : Group} {p : Path} {a imm : BitVec 6} {gd : Guard} {x : Nat × Nat} :
    x ∈ loadLanes scalar g p a imm gd ↔ Acts scalar p gd x.1 ∧ x.2 = accessAddr scalar g p a imm x.1 := by
  cases scalar
  case false => exact mem_laneAddrs
  case true =>
    simp only [loadLanes, scalarAddr, Acts, accessAddr, if_true, Option.mem_toList, Option.map_eq_some_iff]
    constructor
    · rintro ⟨l, hl, rfl⟩
      exact ⟨hl, rfl⟩
    · rintro ⟨hl, hx⟩
      exact ⟨x.1, hl, Prod.ext rfl hx.symm⟩

/-- A lane that acts stands in the list with its address. -/
theorem mem_loadLanes_of_acts {scalar : Bool} {g : Group} {p : Path} {a imm : BitVec 6} {gd : Guard} {l : Nat}
    (hl : Acts scalar p gd l) : (l, accessAddr scalar g p a imm l) ∈ loadLanes scalar g p a imm gd :=
  mem_loadLanes.mpr ⟨hl, rfl⟩

/-- What holds of every lane that acts, and of its address, holds of the list. -/
theorem forall_loadLanes {scalar : Bool} {g : Group} {p : Path} {a imm : BitVec 6} {gd : Guard} {Q : Nat → Nat → Prop} :
    (∀ x ∈ loadLanes scalar g p a imm gd, Q x.1 x.2) ↔ ∀ k, Acts scalar p gd k → Q k (accessAddr scalar g p a imm k) := by
  constructor
  · exact fun h k hk => h _ (mem_loadLanes_of_acts hk)
  · intro h x hx
    obtain ⟨hk, haddr⟩ := mem_loadLanes.mp hx
    rw [haddr]
    exact h _ hk

/-! ### The rows of the checks -/

section Rows

variable {s : State} {g : Group} {sp : Space} {z : Nat} {ls : List (Nat × Nat)}

/-- The head of a list in ascending order is its lowest element. -/
theorem head?_lowest (hls : ls.Pairwise fun x y => x.1 < y.1) {x : Nat × Nat} (hx : x ∈ ls) (hlow : ∀ y ∈ ls, ¬y.1 < x.1) :
    ls.head? = some x := by
  cases ls with
  | nil => cases hx
  | cons y ls =>
    obtain rfl | hx := List.mem_cons.mp hx
    · rfl
    · exact absurd ((List.pairwise_cons.mp hls).1 x hx) (hlow y List.mem_cons_self)

/-- Whether an access breaks one of the first two rows of R140: it is not aligned, or all are and it does not resolve. -/
def Fails (s : State) (g : Group) (sp : Space) (z : Nat) (ls : List (Nat × Nat)) (x : Nat × Nat) : Prop :=
  x.2 % z ≠ 0 ∨ ((∀ y ∈ ls, y.2 % z = 0) ∧ ∀ r, resolve s g sp x.2 z ≠ .ok r)

/-- Every access keeps the first two rows, and resolves at `adr`. -/
def Resolves (s : State) (g : Group) (sp : Space) (z : Nat) (ls : List (Nat × Nat)) (adr : Nat → Nat) : Prop :=
  ∀ x ∈ ls, x.2 % z = 0 ∧ resolve s g sp x.2 z = .ok (adr x.1)

/-- The lowest access that breaks one of the two rows is the one that its row finds. -/
theorem firstLane_of_fails (hls : ls.Pairwise fun x y => x.1 < y.1) {x : Nat × Nat} (hx : x ∈ ls) (hbad : Fails s g sp z ls x)
    (hlow : ∀ y ∈ ls, y.1 < x.1 → ¬Fails s g sp z ls y) :
    firstLane ls (fun ea => decide (ea % z ≠ 0)) = some x ∨
      (firstLane ls (fun ea => decide (ea % z ≠ 0)) = none ∧
        firstLane ls (fun ea => !(resolve s g sp ea z).isOk) = some x) := by
  obtain hmis | ⟨hall, hres⟩ := hbad
  · refine .inl (find_lowest hls hx (by simpa using hmis) fun y hy hyx => ?_)
    simpa using (not_or.mp (hlow y hy hyx)).1
  · refine .inr ⟨firstLane_eq_none.mpr fun y hy => by simp [hall y hy], ?_⟩
    refine find_lowest hls hx (by simp [isOk_eq_false hres]) fun y hy hyx => ?_
    obtain ⟨r, hr⟩ : ∃ r, resolve s g sp y.2 z = .ok r := by
      by_contra hno
      exact hlow y hy hyx (.inr ⟨hall, fun r hr => hno ⟨r, hr⟩⟩)
    simp [isOk_of_resolve hr]

theorem firstLane_of_resolves {adr : Nat → Nat} (h : Resolves s g sp z ls adr) :
    firstLane ls (fun ea => decide (ea % z ≠ 0)) = none ∧ firstLane ls (fun ea => !(resolve s g sp ea z).isOk) = none :=
  ⟨firstLane_eq_none.mpr fun x hx => by simp [(h x hx).1],
    firstLane_eq_none.mpr fun x hx => by simp [isOk_of_resolve (h x hx).2]⟩

theorem checkLoad_of_fails (hls : ls.Pairwise fun x y => x.1 < y.1) {x : Nat × Nat} (hx : x ∈ ls)
    (hbad : Fails s g sp z ls x) (hlow : ∀ y ∈ ls, y.1 < x.1 → ¬Fails s g sp z ls y) :
    checkLoad s g sp z ls = some { lane := x.1, addr := x.2, rule := false } := by
  obtain hmis | ⟨hall, hres⟩ := firstLane_of_fails hls hx hbad hlow
  · simp only [checkLoad, hmis]
  · simp only [checkLoad, hall, hres]

theorem checkStore_of_fails (hls : ls.Pairwise fun x y => x.1 < y.1) {x : Nat × Nat} (hx : x ∈ ls)
    (hbad : Fails s g sp z ls x) (hlow : ∀ y ∈ ls, y.1 < x.1 → ¬Fails s g sp z ls y) :
    checkStore s g sp z ls = some { lane := x.1, addr := x.2, rule := false } := by
  obtain hmis | ⟨hall, hres⟩ := firstLane_of_fails hls hx hbad hlow
  · simp only [checkStore, hmis]
  · simp only [checkStore, hall, hres]

/-- A store to an immutable region that resolves is refused in its first lane; one without a lane passes (R143). -/
theorem checkStore_immutable {adr : Nat → Nat} (h : Resolves s g .immutable z ls adr) :
    checkStore s g .immutable z ls = ls.head?.map fun x => { lane := x.1, addr := x.2, rule := false } := by
  obtain ⟨haligned, hresolved⟩ := firstLane_of_resolves h
  simp only [checkStore, haligned, hresolved, if_true]
  cases ls <;> rfl

/-! ### The window of a handler's request (R112 to R114) -/

theorem meetsWindow_iff {b : Bulk} {a n : Nat} : meetsWindow b a n = true ↔ a < b.win + 128 * b.winLines ∧ b.win < a + n := by
  simp [meetsWindow]

/-- The lowest access of a handler, but a completion handler, to its own window breaks the handler rule. -/
theorem checkLoad_of_own (hls : ls.Pairwise fun x y => x.1 < y.1) {adr : Nat → Nat} (h : Resolves s g sp z ls adr) {b : Bulk}
    (hb : bulkOf s g = some b) (hg : g.completion = false) {x : Nat × Nat} (hx : x ∈ ls)
    (hown : meetsWindow b (adr x.1) z = true) (hlow : ∀ y ∈ ls, y.1 < x.1 → meetsWindow b (adr y.1) z = false) :
    checkLoad s g sp z ls = some { lane := x.1, addr := x.2, rule := true } := by
  obtain ⟨haligned, hresolved⟩ := firstLane_of_resolves h
  simp only [checkLoad, haligned, hresolved, hb, hg]
  rw [firstLane, find_lowest hls hx (by simp [(h x hx).2, hown]) fun y hy hyx => by simp [(h y hy).2, hlow y hy hyx]]
  rfl

/-- Whether a store to an address stays in the window of a request, and names it in its space. -/
def StaysInside (b : Bulk) (sp : Space) (z a : Nat) : Prop :=
  b.win ≤ a ∧ a + z ≤ b.win + 128 * b.winLines ∧ sp = b.winSpace

theorem staysInside_iff {b : Bulk} {sp : Space} {z a : Nat} :
    StaysInside b sp z a ↔ (!insideWindow b a z || decide (sp ≠ b.winSpace)) = false := by
  simp [StaysInside, insideWindow, and_assoc]

theorem handler_of_bulkOf {b : Bulk} (hb : bulkOf s g = some b) : ∃ id, g.handler = some id := by
  obtain ⟨id, hid, -⟩ := Option.bind_eq_some_iff.mp hb
  exact ⟨id, hid⟩

/-- The lowest store of a handler that leaves its window is refused. -/
theorem checkStore_of_outside (hls : ls.Pairwise fun x y => x.1 < y.1) {adr : Nat → Nat} (h : Resolves s g sp z ls adr)
    (hsp : sp ≠ .immutable) {b : Bulk} (hb : bulkOf s g = some b) {x : Nat × Nat} (hx : x ∈ ls)
    (hout : ¬StaysInside b sp z (adr x.1)) (hlow : ∀ y ∈ ls, y.1 < x.1 → StaysInside b sp z (adr y.1)) :
    checkStore s g sp z ls = some { lane := x.1, addr := x.2, rule := false } := by
  obtain ⟨haligned, hresolved⟩ := firstLane_of_resolves h
  obtain ⟨id, hid⟩ := handler_of_bulkOf hb
  simp only [checkStore, haligned, hresolved, if_neg hsp, hb, hid]
  rw [firstLane, find_lowest hls hx]
  · have hleaves := eq_true_of_ne_false (mt staysInside_iff.mpr hout)
    simpa only [(h x hx).2] using hleaves
  · exact fun y hy hyx => by simpa [(h y hy).2] using staysInside_iff.mp (hlow y hy hyx)

/-- A store that resolves, and whose handler stays in its window, passes. -/
theorem checkStore_of_inside {adr : Nat → Nat} (h : Resolves s g sp z ls adr) (hsp : sp ≠ .immutable)
    (hin : ∀ b, bulkOf s g = some b → ∀ x ∈ ls, StaysInside b sp z (adr x.1)) : checkStore s g sp z ls = none := by
  obtain ⟨haligned, hresolved⟩ := firstLane_of_resolves h
  simp only [checkStore, haligned, hresolved, if_neg hsp]
  rw [firstLane_eq_none.mpr fun x hx => ?_]
  cases hb : bulkOf s g with
  | none => cases g.handler <;> rfl
  | some b =>
    obtain ⟨id, hid⟩ := handler_of_bulkOf hb
    simpa [hid, (h x hx).2] using staysInside_iff.mp (hin b hb x hx)

end Rows

/-! ### What a refused access does -/

/-- The word of a store (R143, R149). -/
def storeInstr (scalar : Bool) (rule : Rule) (sp : Space) (d a imm : BitVec 6) (gd : Guard) (ty : Ty) : Instr :=
  if scalar then .sts rule sp d a imm ty
  else match sp with
    | .party => .stP rule d a imm gd ty
    | .task => .stG rule d a imm gd ty
    | .immutable => .stK rule d a imm gd ty

/-- The element that a lane stores. -/
def storedData (scalar : Bool) (ty : Ty) (d : BitVec 6) (g : Group) (p : Path) (l : Nat) : Nat :=
  if scalar then scalarData ty d p else storeData ty d g p l

theorem exec_storeInstr (scalar : Bool) (rule : Rule) (sp : Space) (d a imm : BitVec 6) (gd : Guard) (ty : Ty) (s : State) :
    exec (storeInstr scalar rule sp d a imm gd ty) s =
      storeOp rule sp ty (fun g p => loadLanes scalar g p a imm gd) (storedData scalar ty d) s := by
  cases scalar <;> cases sp <;> rfl

section Word

variable {s : State} {g : Group} {p : Path} {w : Word} (h : Issuing s g p w) {sp : Space} {ty : Ty}
  {ls : Group → Path → List (Nat × Nat)} {x : AddrFail}
include h

theorem storeOp_of_refused {rule : Rule} {data : Group → Path → Nat → Nat}
    (hx : checkStore s g sp ty.size (ls g p) = some x) :
    storeOp rule sp ty ls data s = .next (addrTrap s g p w sp true x) := by
  rw [storeOp, onPath_next h]
  simp only [hx]

theorem loadOp_of_refused {scalar : Bool} {d : BitVec 6} (hx : checkLoad s g sp ty.size (ls g p) = some x) :
    loadOp sp scalar d ty ls s = .next (addrTrap s g p w sp false x) := by
  rw [loadOp, onPath_next h]
  simp only [hx]

end Word

end Sys2Proof.AccessChecks
end

section
/-!
PROOF. Bad accesses trap before any effect (R112 to R114, R140, R143, R149).
-/

namespace Sys2Proof.BadAccesses

open Sys2Proof Sys2Proof.Machine Sys2Proof.AddressWords Sys2Proof.Loads Sys2Proof.RequestBlocks Sys2Proof.AccessChecks

/-- The word of a load or of a store. -/
def accessInstr (store scalar : Bool) (rule : Rule) (sp : Space) (d a imm : BitVec 6) (gd : Guard) (ty : Ty) : Instr :=
  if store then storeInstr scalar rule sp d a imm gd ty
  else if scalar then .lds sp d a imm ty else .ld sp d a imm gd ty

/-- The check of a load or of a store. -/
def checkAccess (store : Bool) (s : State) (g : Group) (sp : Space) (z : Nat) (ls : List (Nat × Nat)) : Option AddrFail :=
  if store then checkStore s g sp z ls else checkLoad s g sp z ls

theorem checkAccess_of_fails {store : Bool} {s : State} {g : Group} {sp : Space} {z : Nat} {ls : List (Nat × Nat)}
    (hls : ls.Pairwise fun x y => x.1 < y.1) {x : Nat × Nat} (hx : x ∈ ls) (hbad : Fails s g sp z ls x)
    (hlow : ∀ y ∈ ls, y.1 < x.1 → ¬Fails s g sp z ls y) :
    checkAccess store s g sp z ls = some { lane := x.1, addr := x.2, rule := false } := by
  cases store
  case false => exact checkLoad_of_fails hls hx hbad hlow
  case true => exact checkStore_of_fails hls hx hbad hlow

theorem accessInstr_eq (store scalar : Bool) (rule : Rule) (sp : Space) (d a imm : BitVec 6) (gd : Guard) (ty : Ty) :
    accessInstr store scalar rule sp d a imm gd ty =
      if scalar then (if store then .sts rule sp d a imm ty else .lds sp d a imm ty)
      else if store then (match sp with
        | .party => .stP rule d a imm gd ty
        | .task => .stG rule d a imm gd ty
        | .immutable => .stK rule d a imm gd ty)
      else .ld sp d a imm gd ty := by
  cases store <;> cases scalar <;> rfl

section Word

variable {s : State} {g : Group} {p : Path} {w : Word} (h : Issuing s g p w) {store scalar : Bool} {rule : Rule} {sp : Space}
  {d a imm : BitVec 6} {gd : Guard} {ty : Ty}
include h

/-- A word of which an access is refused takes the trap of that access. -/
theorem exec_accessInstr_of_refused {x : AddrFail}
    (hx : checkAccess store s g sp ty.size (loadLanes scalar g p a imm gd) = some x) :
    exec (accessInstr store scalar rule sp d a imm gd ty) s = .next (addrTrap s g p w sp store x) := by
  cases store
  case false => exact (exec_load scalar sp d a imm ty gd s).trans (loadOp_of_refused h hx)
  case true => exact (exec_storeInstr scalar rule sp d a imm gd ty s).trans (storeOp_of_refused h hx)

/-- A store without a lane does nothing. -/
theorem storeOp_nil {data : Group → Path → Nat → Nat} {ls : Group → Path → List (Nat × Nat)} {i : Instr}
    (hi : exec i s = storeOp rule sp ty ls data s) (hnil : ls g p = []) (hpass : checkStore s g sp ty.size [] = none) :
    MovesPath i s g p p.past := by
  refine movesPath_of_next h ?_ rfl
  rw [hi, storeOp, onPath_next h]
  simp only [hnil, hpass]
  rfl

end Word

/-- Settles O29: the list of lanes and addresses ascends, so the lane that a row finds is the lowest that fails it; and where
the earlier rows pass, the next one decides. -/
theorem badAccessesTrapBeforeAnyEffect : Obligations.BadAccessesTrapBeforeAnyEffect := by
  unfold Obligations.BadAccessesTrapBeforeAnyEffect
  refine ⟨?immutable, ?rows⟩
  case immutable =>
    intro s g p w rule d a imm ty gd scalar h act ea i
    have hi : i = storeInstr scalar rule .immutable d a imm gd ty := by cases scalar <;> rfl
    have hexec := exec_storeInstr scalar rule .immutable d a imm gd ty s
    rw [← hi] at hexec
    refine ⟨fun hnone => ?nothing, fun l hl hfirst hgood => ?lowest⟩
    case nothing =>
      have hnil : loadLanes scalar g p a imm gd = [] :=
        List.eq_nil_iff_forall_not_mem.mpr fun x hx => hnone x.1 (mem_loadLanes.mp hx).1
      exact storeOp_nil h hexec hnil (checkStore_immutable (adr := id) (by simp [Resolves]))
    case lowest =>
      have hres : Resolves s g .immutable ty.size (loadLanes scalar g p a imm gd) ea := fun x hx => by
        obtain ⟨hx, haddr⟩ := mem_loadLanes.mp hx
        rw [haddr]
        exact hgood x.1 hx
      have hhead : (loadLanes scalar g p a imm gd).head? = some (l, ea l) :=
        head?_lowest (loadLanes_ascend ..) (mem_loadLanes_of_acts hl)
          fun y hy hyl => hfirst y.1 hyl (mem_loadLanes.mp hy).1
      have hcheck := checkStore_immutable hres
      rw [hhead] at hcheck
      rw [hexec, storeOp_of_refused h hcheck]
      rfl
  case rows =>
    intro s g p w rule d a imm ty gd l store scalar sp h act ea i space address bad hl
    have hi : i = accessInstr store scalar rule sp d a imm gd ty := (accessInstr_eq ..).symm
    have hspace : space = spaceBits sp := by cases sp <;> rfl
    have hls := loadLanes_ascend scalar g p a imm gd
    have hmem : (l, ea l) ∈ loadLanes scalar g p a imm gd := mem_loadLanes_of_acts hl
    have traps (hx : checkAccess store s g sp ty.size (loadLanes scalar g p a imm gd) =
        some { lane := l, addr := ea l, rule := false }) : address := by
      change exec i s = _
      rw [hi, exec_accessInstr_of_refused h hx, hspace]
      rfl
    refine ⟨fun hbad hlow => traps ?row, ?window⟩
    case row =>
      have hfails : ∀ k, Fails s g sp ty.size (loadLanes scalar g p a imm gd) (k, ea k) ↔ bad k := fun k =>
        or_congr_right (and_congr_left' (forall_loadLanes (Q := fun _ n => n % ty.size = 0)))
      refine checkAccess_of_fails hls hmem ((hfails l).mpr hbad) ?_
      refine forall_loadLanes (Q := fun k n => k < l → ¬Fails s g sp ty.size _ (k, n)) |>.mpr fun k hk hkl => ?_
      exact mt (hfails k).mp (hlow k hkl hk)
    case window =>
      intro b adr hb hgood own inside
      have hres : Resolves s g sp ty.size (loadLanes scalar g p a imm gd) adr :=
        forall_loadLanes (Q := fun k n => n % ty.size = 0 ∧ resolve s g sp n ty.size = .ok (adr k)) |>.mpr hgood
      refine ⟨?store, ?load⟩
      case store =>
        rintro rfl hsp hout hlow
        exact traps (checkStore_of_outside hls hres hsp hb hmem hout fun y hy hyl => hlow y.1 hyl (mem_loadLanes.mp hy).1)
      case load =>
        rintro rfl hcomp hown hlow
        rw [hi]
        refine exec_accessInstr_of_refused (store := false) h
          (checkLoad_of_own hls hres hb hcomp hmem (meetsWindow_iff.mpr hown) fun y hy hyl => ?_)
        exact eq_false_of_ne_true (mt meetsWindow_iff.mp (hlow y.1 hyl (mem_loadLanes.mp hy).1))

end Sys2Proof.BadAccesses
end

section
/-!
PROOF. Stores (R139, R143, R144, R149, R158): which clears and copies hold one back, and what a store that goes ahead offers.
-/

namespace Sys2Proof.StoreOffers

open Sys2Proof Sys2Proof.Machine Sys2Proof.AddressWords Sys2Proof.Loads Sys2Proof.LoadWaits Sys2Proof.RequestBlocks
  Sys2Proof.AccessChecks

/-! ### What holds a store back (R97, R98, R114, R115, R144) -/

/-- Whether a clear holds back the stores of a group: of a thread every one, of a handler those that it does not pass over. -/
def HoldsBack (s : State) (own : Option Nat) (c : Clear) : Prop :=
  ∀ id, own = some id → c.req ≠ id ∧ (findBulk s c.req = none ∨ ∀ b, findBulk s id = some b → c.step < b.head.step)

theorem passesClear_iff {s : State} {id : Nat} {c : Clear} : passesClear s id c = false ↔
    c.req ≠ id ∧ (findBulk s c.req = none ∨ ∀ b, findBulk s id = some b → c.step < b.head.step) := by
  cases hreq : findBulk s c.req <;> cases hid : findBulk s id <;> simp [passesClear, hreq, hid]

theorem presenceWrong_of_copies {s : State} (h : s.sram.copies = []) (l : Nat) : presenceWrong s l = false := by
  simp [presenceWrong, linePresent, h]

theorem copyUnread_iff {s : State} {a z t : Nat} : copyUnread s a z t = true ↔
    ∃ c ∈ s.eng.copies, c.outbound = true ∧ c.nearData = none ∧ c.head.step < t ∧
      (∀ k, findTask s c.head.task = some k → k.stop = none) ∧ a < c.near + c.len ∧ c.near < a + z := by
  have htold : ∀ task, toldToStop s task = false ↔ ∀ k, findTask s task = some k → k.stop = none := fun task => by
    cases h : findTask s task <;> simp [toldToStop, h]
  simp [copyUnread, ← htold, and_assoc]

theorem storeWaits_iff {s : State} (hcopies : s.sram.copies = []) {own : Option Nat} {a z t : Nat} :
    storeWaits s own a z t = true ↔
      (∃ c ∈ s.sram.clears, c.step < t ∧ lineOf a ≤ c.line ∧ c.line ≤ lineOf (a + z - 1) ∧ HoldsBack s own c) ∨
        copyUnread s a z t = true := by
  unfold storeWaits
  rw [Bool.or_eq_true]
  refine or_congr_left ?_
  cases own with
  | none => simp [presentFor, hcopies, presenceWrong_of_copies hcopies, HoldsBack]
  | some id => simp [handlerOwed, HoldsBack, passesClear_iff, and_assoc]

/-! ### The element of a lane (R143) -/

theorem pairNat_eq (lo hi : Word) : pairNat lo hi = (hi ++ lo).toNat := by
  rw [BitVec.toNat_append, ← Nat.shiftLeft_add_eq_or_of_lt lo.isLt, Nat.shiftLeft_eq, pairNat]
  omega

/-- What a lane stores: its register, or its pair, low word first. -/
def element (scalar : Bool) (ty : Ty) (d : BitVec 6) (g : Group) (p : Path) (l : Nat) : BitVec 64 :=
  if scalar then (if ty.size = 8 then sreg p (d.toNat + 1) else 0) ++ sreg p d.toNat
  else (if ty.size = 8 then opB g p false (.reg d) l 1 else 0) ++ opB g p false (.reg d) l

theorem storedData_eq (scalar : Bool) (ty : Ty) (d : BitVec 6) (g : Group) (p : Path) (l : Nat) :
    storedData scalar ty d g p l = (element scalar ty d g p l).toNat := by
  have hword : ∀ x : Word, ((0 : Word) ++ x).toNat = x.toNat := fun x => by
    rw [BitVec.toNat_append]
    simp
  cases scalar
  all_goals
    simp only [storedData, element, storeData, scalarData, if_true, Bool.false_eq_true, if_false]
    split
    · exact pairNat_eq ..
    · exact (hword _).symm

/-- The low `n` bits of a pattern. -/
theorem ofNat_mod_two_pow (x : BitVec 64) {n : Nat} (hn : n ≤ 64) : BitVec.ofNat 64 (x.toNat % 2 ^ n) = x % 2 ^ n := by
  refine BitVec.eq_of_toNat_eq ?_
  rw [BitVec.toNat_ofNat, BitVec.toNat_umod, BitVec.toNat_pow, show (2 : BitVec 64).toNat = 2 from rfl,
    Nat.mod_eq_of_lt (lt_of_le_of_lt (Nat.mod_le ..) x.isLt)]
  obtain hlt | rfl := hn.lt_or_eq
  · rw [Nat.mod_eq_of_lt (Nat.pow_lt_pow_right (by decide) hlt)]
  · rw [Nat.mod_self, Nat.mod_zero, Nat.mod_eq_of_lt x.isLt]

theorem size_le (ty : Ty) : ty.size ≤ 8 := by cases ty <;> decide

/-! ### Offers (R158) -/

/-- Stores that are offered one after the other take the next numbers, and nothing else changes. -/
theorem foldl_land (os : List Store) (s : State) : os.foldl land s = { s with
    fresh := s.fresh + os.length
    sram.offers := s.sram.offers ++ os.mapIdx fun k o => { o with po := s.fresh + k } } := by
  induction os generalizing s with
  | nil => simp
  | cons o os ih =>
    rw [List.foldl_cons, ih]
    simp [land, freshId, List.mapIdx_cons, Nat.add_assoc, Nat.add_comm 1]

/-! ### The course of a store -/

/-- The stores that the lanes of a word offer. -/
def storesOf (s : State) (g : Group) (p : Path) (rule : Rule) (ty : Ty) (data : Group → Path → Nat → Nat)
    (adr : Nat → Nat) (ls : List (Nat × Nat)) : List Store :=
  ls.map fun x => storeOf s g p rule ty x.1 (adr x.1) (data g p x.1)

section Word

variable {s : State} {g : Group} {p : Path} {w : Word} (h : Issuing s g p w) {i : Instr} {rule : Rule} {sp : Space} {ty : Ty}
  {ls : Group → Path → List (Nat × Nat)} {data : Group → Path → Nat → Nat} {adr : Nat → Nat}
  (hi : exec i s = storeOp rule sp ty ls data s) (hcheck : checkStore s g sp ty.size (ls g p) = none)
  (hres : Resolves s g sp ty.size (ls g p) adr)
include h hi hcheck hres

/-- A word whose lanes pass the checks waits where one of its stores must, and otherwise offers them all. -/
theorem storeOp_of_passes : exec i s = .next
    (if (ls g p).any (fun x => storeWaits s g.handler (adr x.1) ty.size (laneOf g x.1).step.toNat) then
      putPath s g (parked p .issue)
    else putPath ((storesOf s g p rule ty data adr (ls g p)).foldl land s) g (advance p)) := by
  have hstores : (ls g p).map (fun x => storeOf s g p rule ty x.1 (absoluteOf s g sp x.2) (data g p x.1)) =
      storesOf s g p rule ty data adr (ls g p) :=
    List.map_congr_left fun x hx => by rw [absoluteOf_of_resolve (hres x hx).2]
  rw [hi, storeOp, onPath_next h]
  simp only [hcheck, hstores]
  rw [storesOf, List.any_map]
  rfl

theorem store_waits (hwait : ∃ x ∈ ls g p, storeWaits s g.handler (adr x.1) ty.size (laneOf g x.1).step.toNat = true) :
    MovesPath i s g p (parked p .issue) := by
  refine movesPath_of_next h ?_ rfl
  rw [storeOp_of_passes h hi hcheck hres, if_pos (List.any_eq_true.mpr hwait)]

theorem store_offers
    (hgo : ∀ x ∈ ls g p, storeWaits s g.handler (adr x.1) ty.size (laneOf g x.1).step.toNat = false) :
    ∃ t g', exec i s = .next t ∧ PathOnly s g p (withoutOffers s t) g' p.past ∧ g'.lanes = g.lanes ∧
      t.sram.offers = s.sram.offers ++
        (storesOf s g p rule ty data adr (ls g p)).mapIdx fun k o => { o with po := s.fresh + k } := by
  have hnone : ¬(ls g p).any (fun x => storeWaits s g.handler (adr x.1) ty.size (laneOf g x.1).step.toNat) = true := by
    simpa using hgo
  refine ⟨_, setPath g p.past, by rw [storeOp_of_passes h hi hcheck hres, if_neg hnone], ?_, rfl, ?_⟩
  · rw [foldl_land]
    exact pathOnly_putPath h g p.past rfl rfl rfl
  · rw [foldl_land]
    rfl

end Word

/-- Settles O28: a word whose lanes pass the checks waits where a clear or a copy holds one of its stores back, and otherwise
offers its stores, numbered in lane order. -/
theorem storesAreOfferedAndLandLater : Obligations.StoresAreOfferedAndLandLater := by
  unfold Obligations.StoresAreOfferedAndLandLater
  intro s g p w rule sp d a imm ty gd adr scalar h hsp ls step data hres hin i held owed unread
  have hls : ls = loadLanes scalar g p a imm gd := by cases scalar <;> rfl
  clear_value ls
  subst hls
  have hinstr : i = storeInstr scalar rule sp d a imm gd ty := by
    cases scalar
    case true => rfl
    case false =>
      cases sp
      case immutable => exact absurd rfl hsp
      all_goals rfl
  have hexec := exec_storeInstr scalar rule sp d a imm gd ty s
  rw [← hinstr] at hexec
  have hcheck := checkStore_of_inside hres hsp hin
  have hwaits : s.sram.copies = [] → ∀ l, storeWaits s g.handler (adr l) ty.size (step l) = true ↔ owed l ∨ unread l :=
    fun hcopies l => (storeWaits_iff hcopies).trans (or_congr_right copyUnread_iff)
  have hparks := store_waits h hexec hcheck hres
  refine ⟨fun hcopies => ?held, hwaits, hparks, fun hgo => ?offered⟩
  case held =>
    rintro ⟨x, hx, hheld⟩
    exact hparks ⟨x, hx, (hwaits hcopies x.1).mpr hheld⟩
  case offered =>
    obtain ⟨t, g', ht, hpath, hlanes, hoffers⟩ := store_offers h hexec hcheck hres hgo
    refine ⟨t, g', _, ht, hpath, hlanes, hoffers, by simp [storesOf], fun k hk => ?_⟩
    generalize hl : (loadLanes scalar g p a imm gd)[k].1 = l
    have hbits : 8 * ty.size ≤ 64 := Nat.mul_le_mul_left 8 (size_le ty)
    have hdata : BitVec.ofNat 64 (storedData scalar ty d g p l % 2 ^ (8 * ty.size)) = data l % 2 ^ (8 * ty.size) := by
      rw [storedData_eq, ofNat_mod_two_pow _ hbits]
      rfl
    refine ⟨{ storeOf s g p rule ty l (adr l) (storedData scalar ty d g p l) with po := s.fresh + k }, ?_, rfl, rfl, rfl, rfl,
      rfl, rfl, rfl, rfl, rfl, rfl, hdata, rfl⟩
    simp [storesOf, List.getElem?_eq_getElem hk, hl]

end Sys2Proof.StoreOffers
end

section
/-!
PROOF. `WATCH` (R134, R135, R140, R150): its checks, its tests and its waits.
-/

namespace Sys2Proof.Watches

open Sys2Proof Sys2Proof.Machine Sys2Proof.AddressWords Sys2Proof.Loads Sys2Proof.SectorReads Sys2Proof.RequestBlocks
  Sys2Proof.AccessChecks

/-! ### The conditions -/

/-- The count of a counter word is zero where its low 24 bits are. -/
theorem count_eq_zero_iff (x : Word) : x &&& 0x00FFFFFF = 0 ↔ x.extractLsb' 0 24 = 0 := by
  have hmask : (x &&& 0x00FFFFFF).toNat = x.toNat % 2 ^ 24 :=
    (BitVec.toNat_and ..).trans (Nat.and_two_pow_sub_one_eq_mod x.toNat 24)
  rw [← BitVec.toNat_inj, hmask, ← BitVec.toNat_inj, BitVec.extractLsb'_toNat]
  rfl

/-- The error code of a counter word is zero where its high eight bits are. -/
theorem code_eq_zero_iff (x : Word) : x >>> 24 = 0 ↔ x.extractLsb' 24 8 = 0 := by
  have hhigh : x.toNat >>> 24 < 2 ^ 8 := by
    rw [Nat.shiftRight_eq_div_pow]
    exact Nat.div_lt_of_lt_mul x.isLt
  rw [← BitVec.toNat_inj, BitVec.toNat_ushiftRight, ← BitVec.toNat_inj, BitVec.extractLsb'_toNat, Nat.mod_eq_of_lt hhigh]
  rfl

theorem watchMet_iff (c : WCond) (x : Word) : watchMet c x = true ↔ match c with
    | .z => x.extractLsb' 0 24 = 0
    | .nz => x.extractLsb' 0 24 ≠ 0
    | .ze => x.extractLsb' 0 24 = 0 ∨ x.extractLsb' 24 8 ≠ 0
    | .e => x.extractLsb' 24 8 ≠ 0 := by
  cases c <;> simp only [watchMet, Bool.or_eq_true, decide_eq_true_eq, count_eq_zero_iff, code_eq_zero_iff, ne_eq]

/-! ### The words of a watch -/

/-- Each word is named by a lane. -/
theorem mem_of_mem_watchWords {ls : List (Nat × Nat)} {x : Nat × Nat} (h : x ∈ watchWords ls) : x ∈ ls := by
  suffices hfold : ∀ (ls ws : List (Nat × Nat)),
      x ∈ ls.foldl (fun ws x => if ws.any fun y => decide (y.2 = x.2) then ws else ws ++ [x]) ws → x ∈ ws ∨ x ∈ ls from
    (hfold ls [] h).resolve_left List.not_mem_nil
  intro ls
  induction ls with
  | nil => exact fun ws h => .inl h
  | cons y ls ih =>
    intro ws h
    obtain hws | hls := ih _ h
    · dsimp only at hws
      split at hws
      · exact .inl hws
      · rw [List.mem_append, List.mem_singleton] at hws
        exact hws.imp_right fun e => List.mem_cons.mpr (.inl e)
    · exact .inr (List.mem_cons_of_mem y hls)

/-- The addresses of the words of a watch. -/
def watchedWords (adr : Nat → Nat) (ls : List (Nat × Nat)) : List Nat := (watchWords ls).map fun x => adr x.1

/-- The words of a watch at their addresses, each with the lane that named it first. -/
def placedWords (adr : Nat → Nat) (ls : List (Nat × Nat)) : List (Nat × Nat) := (watchWords ls).map fun x => (x.1, adr x.1)

theorem map_snd_placedWords (adr : Nat → Nat) (ls : List (Nat × Nat)) :
    (placedWords adr ls).map Prod.snd = watchedWords adr ls := List.map_map ..

/-- The tests of words whose sectors have no error. -/
theorem testWords_of_clean {u : State} {c : WCond} {words : List Nat} (h : ∀ a ∈ words, sectorErrors u (sectorOf a) = []) :
    testWords u c (words.map fun a => (a, false)) = words.map fun a => (a, watchMet c (wordAt u.sram.mem a)) := by
  rw [testWords, List.map_map]
  exact List.map_congr_left fun a ha => by simp [h a ha]

/-! ### The course of a watch -/

theorem exec_watch (c : WCond) (a imm : BitVec 6) (gd : Guard) (sp : Space) (s : State) :
    exec (.watch c a imm gd sp) s = execWatch c a imm gd sp s := rfl

section Word

variable {s : State} {g : Group} {p : Path} {w : Word} (h : Issuing s g p w) {c : WCond} {a imm : BitVec 6} {gd : Guard}
  {sp : Space} {adr : Nat → Nat}
include h

/-- The lowest lane that breaks one of the first two rows traps. -/
theorem watch_refused {x : Nat × Nat} (hx : x ∈ laneAddrs g p a imm gd) (hbad : Fails s g sp 4 (laneAddrs g p a imm gd) x)
    (hlow : ∀ y ∈ laneAddrs g p a imm gd, y.1 < x.1 → ¬Fails s g sp 4 (laneAddrs g p a imm gd) y) :
    AddressTraps (.watch c a imm gd sp) s g p w x.1 sp x.2 := by
  refine addressTraps_of_next ?_
  rw [exec_watch, execWatch, onPath_next h]
  have hls : (laneAddrs g p a imm gd).Pairwise fun x y => x.1 < y.1 := loadLanes_ascend false g p a imm gd
  obtain hmis | ⟨haligned, hres⟩ := firstLane_of_fails hls hx hbad hlow
  · simp only [hmis]
  · simp only [haligned, hres]

variable (hres : Resolves s g sp 4 (laneAddrs g p a imm gd) adr)
include hres

/-- A handler's `WATCH` breaks the handler rule. -/
theorem watch_in_handler (hg : g.handler.isSome = true) {l : Nat} (hl : lowest (activeMask p gd) = some l) :
    Traps (.watch c a imm gd sp) s g p { kind := 4, lane := l, word := w, addr := 0, info := 0, after := false } := by
  obtain ⟨haligned, hresolved⟩ := firstLane_of_resolves hres
  obtain ⟨id, hid⟩ := Option.isSome_iff_exists.mp hg
  obtain ⟨rest, hrest⟩ := List.head?_eq_some_iff.mp hl
  have hlist : laneAddrs g p a imm gd = (l, effAddr g p a imm l) :: rest.map fun l => (l, effAddr g p a imm l) := by
    rw [laneAddrs, hrest, List.map_cons]
  rw [hlist] at haligned hresolved
  refine traps_of h (exec_watch ..) ?_
  simp only [hlist, haligned, hresolved, hid]
  rfl

variable (hg : g.handler = none)
include hg

/-- A fifth word traps. -/
theorem watch_fifth {x : Nat × Nat} (hx : (watchWords (laneAddrs g p a imm gd))[4]? = some x) :
    AddressTraps (.watch c a imm gd sp) s g p w x.1 sp x.2 := by
  obtain ⟨haligned, hresolved⟩ := firstLane_of_resolves hres
  refine addressTraps_of_next ?_
  rw [exec_watch, execWatch, onPath_next h]
  simp only [haligned, hresolved, hg, hx]

variable (hfew : (watchWords (laneAddrs g p a imm gd)).length ≤ 4)
include hfew

/-- With at most four words the watch is tested, or waits for its slots and its tests. -/
theorem watch_passes : exec (.watch c a imm gd sp) s = .next
    (if slotsFree s g (watchedWords adr (laneAddrs g p a imm gd)).length &&
        (watchedWords adr (laneAddrs g p a imm gd)).all (testArrives s g) then
      watchTest c s g p (placedWords adr (laneAddrs g p a imm gd))
    else putPath s g (parked p .issue)) := by
  obtain ⟨haligned, hresolved⟩ := firstLane_of_resolves hres
  have hfifth : (watchWords (laneAddrs g p a imm gd))[4]? = none := List.getElem?_eq_none hfew
  have hwords : (watchWords (laneAddrs g p a imm gd)).map (fun x => (x.1, absoluteOf s g sp x.2)) =
      placedWords adr (laneAddrs g p a imm gd) :=
    List.map_congr_left fun x hx => by rw [absoluteOf_of_resolve (hres x (mem_of_mem_watchWords hx)).2]
  rw [exec_watch, execWatch, onPath_next h, ← map_snd_placedWords, List.length_map, List.all_map]
  simp only [haligned, hresolved, hg, hfifth, hwords]
  rfl

theorem watch_waits (hwait : slotsFree s g (watchedWords adr (laneAddrs g p a imm gd)).length = false ∨
      ¬∀ x ∈ watchedWords adr (laneAddrs g p a imm gd), testArrives s g x = true) :
    MovesPath (.watch c a imm gd sp) s g p (parked p .issue) := by
  refine movesPath_of_next h ?_ rfl
  rw [watch_passes h hres hg hfew, if_neg]
  rw [Bool.and_eq_true, List.all_eq_true, not_and_or, Bool.not_eq_true]
  exact hwait

variable (hslots : slotsFree s g (watchedWords adr (laneAddrs g p a imm gd)).length = true)
  (harrives : ∀ x ∈ watchedWords adr (laneAddrs g p a imm gd), testArrives s g x = true)
include hslots harrives

theorem watch_tests :
    exec (.watch c a imm gd sp) s = .next (watchTest c s g p (placedWords adr (laneAddrs g p a imm gd))) := by
  rw [watch_passes h hres hg hfew, if_pos]
  exact Bool.and_eq_true_iff.mpr ⟨hslots, List.all_eq_true.mpr harrives⟩

/-- The first word whose sector cannot be decoded stops the task. -/
theorem watch_stops {k : Nat} {x : Nat × Nat} (hx : (watchWords (laneAddrs g p a imm gd))[k]? = some x)
    (hbad : sectorBad s (sectorOf (adr x.1)) = true)
    (hfirst : ∀ (j : Nat) y, j < k → (watchWords (laneAddrs g p a imm gd))[j]? = some y →
      sectorBad s (sectorOf (adr y.1)) = false) :
    exec (.watch c a imm gd sp) s = .next (stopBad s
      { task := g.task, step := (laneOf g x.1).step, tid := (laneOf g x.1).tid, pc := seqStart p } (sectorOf (adr x.1))) := by
  obtain ⟨hk, rfl⟩ := List.getElem?_eq_some_iff.mp hx
  have hfind : (watchWords (laneAddrs g p a imm gd)).find? (fun x => sectorBad s (sectorOf (adr x.1))) =
      some (watchWords (laneAddrs g p a imm gd))[k] :=
    List.find?_eq_some_iff_getElem.mpr ⟨hbad, k, hk, rfl, fun j hj => by
      simp [hfirst j _ hj (List.getElem?_eq_getElem (by omega))]⟩
  rw [watch_tests h hres hg hfew hslots harrives, watchTest, placedWords, List.find?_map]
  simp only [Function.comp_def, hfind, Option.map_some]

/-- Where every word can be read, the path goes on if all of them meet the condition, and otherwise parks on its tests. -/
theorem watch_good {words : List Nat} (hwords : words = watchedWords adr (laneAddrs g p a imm gd))
    {u : State} (hu : u = (words.map sectorOf).foldl readSector s) (hgood : ∀ a ∈ words, sectorBad s (sectorOf a) = false)
    (hclean : ∀ a ∈ words, sectorErrors u (sectorOf a) = []) :
    exec (.watch c a imm gd sp) s = .next (putPath u g
      (if words.all (fun a => watchMet c (wordAt u.sram.mem a)) then advance p
      else parked p (.watch c (words.map fun a => (a, watchMet c (wordAt u.sram.mem a)))))) := by
  have hsnd : (placedWords adr (laneAddrs g p a imm gd)).map Prod.snd = words := (map_snd_placedWords ..).trans hwords.symm
  have hnone : (placedWords adr (laneAddrs g p a imm gd)).find? (fun x => sectorBad s (sectorOf x.2)) = none :=
    List.find?_eq_none.mpr fun x hx => by simp [hgood x.2 (hsnd ▸ List.mem_map_of_mem hx)]
  have hread : (placedWords adr (laneAddrs g p a imm gd)).foldl (fun s x => readSector s (sectorOf x.2)) s = u := by
    rw [hu, ← hsnd, List.foldl_map, List.foldl_map]
  have htested : testWords u c ((placedWords adr (laneAddrs g p a imm gd)).map fun x => (x.2, false)) =
      words.map fun a => (a, watchMet c (wordAt u.sram.mem a)) := by
    rw [← testWords_of_clean hclean, ← hsnd, List.map_map]
    rfl
  rw [watch_tests h hres hg hfew hslots harrives, watchTest]
  simp only [hnone, hread, htested, List.all_map, Function.comp_def]
  split <;> rfl

end Word

/-- Settles O30: the rows of the check, the slots and the tests come in this order; the words are then read, and each is
tested where its sector stands corrected. -/
theorem watchTestsOrParks : Obligations.WatchTestsOrParks := by
  unfold Obligations.WatchTestsOrParks
  intro s g p w c a imm gd sp adr h ls words met arrives becomes tests lost bad address
  have hmet : ∀ u a, watchMet c (wordAt u.sram.mem a) = true ↔ met u a := fun u a => watchMet_iff c _
  have haddress : ∀ x : Nat × Nat, AddressTraps (.watch c a imm gd sp) s g p w x.1 sp x.2 → address x := fun x hx => by
    cases sp <;> exact hx
  refine ⟨fun x hx hbad hlow => haddress x (watch_refused h hx hbad hlow), fun hres => ⟨fun hg l hl =>
    watch_in_handler h hres hg hl, fun hg x hx => haddress x (watch_fifth h hres hg hx), fun hg hfew =>
    ⟨fun hslots harrives => ?tested, fun hwait => watch_waits h hres hg hfew hwait⟩⟩⟩
  case tested =>
    have htests : ∀ u, u = (words.map sectorOf).foldl readSector s → (∀ a ∈ words, sectorBad s (sectorOf a) = false) →
        (∀ a ∈ words, sectorErrors u (sectorOf a) = []) → tests u := by
      intro u hu hgood hclean
      have hissue : Issuing u g p w := by
        have hframe : u = { s with sram := u.sram } := hu ▸ EngineWrites.foldl_readSector_frame _ s
        rw [hframe]
        exact ⟨h.cursor, h.group, h.path⟩
      have hexec := watch_good h hres hg hfew hslots harrives (c := c) (words := words) rfl hu hgood hclean
      have hbecomes : ∀ q, q.pid = p.pid → exec (.watch c a imm gd sp) s = .next (putPath u g q) → becomes u q :=
        fun q hq hnext => ⟨_, _, hnext, pathOnly_putPath hissue g q hq rfl rfl, rfl⟩
      refine ⟨fun hall => hbecomes _ rfl ?_, fun ⟨x, hx, hno⟩ =>
        ⟨words.map fun a => (a, watchMet c (wordAt u.sram.mem a)), hbecomes _ rfl ?_, ?_, ?_⟩⟩
      · rw [hexec, if_pos (List.all_eq_true.mpr fun a ha => (hmet u a).mpr (hall a ha))]
        rfl
      · rw [hexec, if_neg fun hall => hno ((hmet u x).mp (List.all_eq_true.mp hall x hx))]
        rfl
      · exact (List.map_map ..).trans (List.map_id _)
      · exact List.forall_mem_map.mpr fun a _ => hmet u a
    refine ⟨fun hclean => ?clean, fun hwf hgood => ?corrected, fun k x hx hbad hfirst => ?stops⟩
    case clean =>
      have hread : s = (words.map sectorOf).foldl readSector s :=
        (foldl_readSector_clean (List.forall_mem_map.mpr hclean)).symm
      exact htests s hread (fun a ha => sectorBad_of_sectorErrors (hclean a ha)) hclean
    case corrected =>
      have hgood' : ∀ a ∈ words, sectorBad s (sectorOf a) = false :=
        List.forall_mem_map.mpr fun x hx => eq_false_of_ne_true (hgood x hx)
      have hreads := foldl_readSector_reads hwf (List.forall_mem_map.mpr hgood')
      exact ⟨_, hreads, htests _ rfl hgood' fun a ha => hreads.clean _ (List.mem_map_of_mem ha)⟩
    case stops =>
      refine ⟨_, watch_stops h hres hg hfew hslots harrives hx hbad fun j y hj hy => ?_, stopBad_stopsAt ..⟩
      exact eq_false_of_ne_true (hfirst j y hj hy)

end Sys2Proof.Watches
end

section
/-!
PROOF. What lands at a byte under each store rule (R145 to R148, R179), and which stores collide.
-/

namespace Sys2Proof.LandedStores

open Sys2Proof Sys2Proof.Machine Sys2Proof.Placing

/-! ### The stores that cover a byte -/

/-- The stores of an entry that cover a byte. -/
def coverers (e : Entry) (a : Nat) : List Store := e.stores.filter fun o => covers o a

/-- The byte that a store writes at an address. -/
def byteFrom (a : Nat) (o : Store) : Nat × Byte := (a, byteAt o.data.toNat (a - o.addr))

section Rules

variable {s : State} {e : Entry} {a : Nat} {y : Store} (hy : (coverers e a).head? = some y)
include hy

theorem landedByte_low (hrule : y.rule = .low) : landedByte s e a = (lowWinner (coverers e a)).map (byteFrom a) := by
  unfold coverers at hy ⊢
  simp only [landedByte, hy, hrule]
  rfl

theorem landedByte_any (hrule : y.rule = .any) : landedByte s e a = (anyWinner s.fresh (coverers e a)).map (byteFrom a) := by
  unfold coverers at hy ⊢
  simp only [landedByte, hy, hrule]
  rfl

theorem landedByte_sum (hrule : y.rule = .sum) :
    landedByte s e a = some (a, byteAt (sumValue s (coverers e a) y) (a - y.addr)) := by
  unfold coverers at hy ⊢
  simp only [landedByte, hy, hrule]

theorem landedByte_flt (hrule : y.rule = .flt) : landedByte s e a = some (byteFrom a y) := by
  unfold coverers at hy
  simp only [landedByte, hy, hrule]
  rfl

end Rules

/-- Where a store covers a byte, one of the covering stores stands first. -/
theorem exists_head {l : List Store} {x : Store} (hx : x ∈ l) : ∃ y ∈ l, l.head? = some y := by
  cases l with
  | nil => cases hx
  | cons y l => exact ⟨y, List.mem_cons_self, rfl⟩

/-! ### `LOW` (R145, R148) -/

/-- The order of writers, and of the stores of one writer in program order. -/
def Before (u v : Store) : Prop := u.writer < v.writer ∨ (u.writer = v.writer ∧ u.po ≤ v.po)

theorem byWriter_pairwise (l : List Store) : (byWriter l).Pairwise Before := by
  refine sortBy_pairwise (R := Before) (fun u v w huv hvw => ?_)
    (List.pairwise_of_forall fun u v => ⟨fun h => ?_, fun h => ?_⟩)
  · unfold Before at *
    omega
  · simpa [Before] using h
  · simp only [Bool.or_eq_false_iff, Bool.and_eq_false_iff, decide_eq_false_iff_not] at h
    unfold Before
    omega

theorem mem_byWriter {l : List Store} {x : Store} : x ∈ byWriter l ↔ x ∈ l := (sortBy_perm _ l).mem_iff

/-- The last of a list in order comes after every other. -/
theorem before_getLast {α : Type} {R : α → α → Prop} {l : List α} (hl : l.Pairwise R) {x z : α} (hx : x ∈ l)
    (hz : l.getLast? = some z) : x = z ∨ R x z := by
  obtain ⟨init, rfl⟩ := List.getLast?_eq_some_iff.mp hz
  obtain hinit | hlast := List.mem_append.mp hx
  · exact .inr ((List.pairwise_append.mp hl).2.2 x hinit z (List.mem_singleton_self z))
  · exact .inl (List.mem_singleton.mp hlast)

/-- The lowest writer's last store decides. -/
theorem lowWinner_eq {l : List Store} {x : Store} (hx : x ∈ l) (hpo : (l.map (·.po)).Nodup)
    (hlow : ∀ y ∈ l, x.writer < y.writer ∨ (x.writer = y.writer ∧ y.po ≤ x.po)) : lowWinner l = some x := by
  have hsorted := byWriter_pairwise l
  have hmem : x ∈ byWriter l := mem_byWriter.mpr hx
  unfold lowWinner
  obtain ⟨h, rest, hlist⟩ := List.exists_cons_of_ne_nil (List.ne_nil_of_mem hmem)
  have hwriter : h.writer = x.writer := by
    have hh : h ∈ l := mem_byWriter.mp (hlist ▸ List.mem_cons_self)
    have hlowest := hlow h hh
    rw [hlist] at hsorted hmem
    obtain rfl | hrest := List.mem_cons.mp hmem
    · rfl
    · have hbefore : Before h x := (List.pairwise_cons.mp hsorted).1 x hrest
      unfold Before at hbefore
      omega
  have hhead : (byWriter l).head? = some h := by rw [hlist, List.head?_cons]
  simp only [hhead, hwriter]
  have hmine : x ∈ (byWriter l).filter fun y => decide (y.writer = x.writer) := List.mem_filter.mpr ⟨hmem, by simp⟩
  obtain ⟨z, hz⟩ := Option.isSome_iff_exists.mp (List.getLast?_isSome.mpr (List.ne_nil_of_mem hmine))
  obtain ⟨hzmem, hzwriter⟩ := List.mem_filter.mp (List.mem_of_getLast? hz)
  have hzl := mem_byWriter.mp hzmem
  have hzpo : z.po = x.po := by
    obtain rfl | hbefore := before_getLast (hsorted.filter _) hmine hz
    · rfl
    · have hle := hlow z hzl
      unfold Before at hbefore
      simp only [decide_eq_true_eq] at hzwriter
      omega
  rw [hz, List.inj_on_of_nodup_map hpo hzl hx hzpo]

/-! ### `ANY` (R146) -/

/-- One of the stores survives, the same one wherever the same stores cover. -/
theorem anyWinner_mem {l : List Store} (hl : l ≠ []) (fresh : Nat) : ∃ y ∈ l, anyWinner fresh l = some y := by
  have hpos := List.length_pos_iff.mpr hl
  have hlt : ∀ n, n % max l.length 1 < l.length := fun n => by
    rw [Nat.max_eq_left hpos]
    exact Nat.mod_lt n hpos
  exact ⟨_, List.getElem_mem (hlt _), List.getElem?_eq_getElem (hlt _)⟩

/-! ### Integer `SUM` (R145) -/

theorem foldl_add_data (l : List Store) (n : Nat) :
    l.foldl (fun t o => t + o.data.toNat) n = n + (l.map fun y => y.data.toNat).sum := by
  induction l generalizing n with
  | nil => rfl
  | cons o l ih => rw [List.foldl_cons, ih, List.map_cons, List.sum_cons, Nat.add_assoc]

theorem sumValue_integer {s : State} {l : List Store} {x : Store} (h : floatSum x = false) : sumValue s l x =
    (natOfBytes (bytesAt s.sram.mem x.addr x.size) + (l.map fun y => y.data.toNat).sum) % 2 ^ (8 * x.size) := by
  rw [sumValue, h, foldl_add_data]
  rfl

/-! ### Collisions (R145, R146) -/

theorem sameCell_iff {x y : Store} : sameCell x y = true ↔ x.addr = y.addr ∧ cellTy x.ty = cellTy y.ty := by
  simp [sameCell]

theorem collisionKind_iff (x : Store) (l : List Store) :
    (collisionKind (x :: l) = some 0x11 ↔ (∃ y ∈ l, y.rule ≠ x.rule) ∨
      (x.rule = .sum ∧ ∃ y ∈ l, ¬(x.addr = y.addr ∧ cellTy x.ty = cellTy y.ty))) ∧
    (collisionKind (x :: l) = some 0x10 ↔ ¬(∃ y ∈ l, y.rule ≠ x.rule) ∧ x.rule = .flt ∧ l ≠ []) := by
  have hany : (l.any fun y => decide (y.rule ≠ x.rule)) = true ↔ ∃ y ∈ l, y.rule ≠ x.rule := by simp
  rw [collisionKind]
  by_cases hmixed : ∃ y ∈ l, y.rule ≠ x.rule
  · rw [if_pos (hany.mpr hmixed)]
    simp [hmixed]
  · rw [if_neg (mt hany.mp hmixed), or_iff_right hmixed, and_iff_right hmixed]
    cases x.rule
    case low | any => simp
    case sum => simp [sameCell_iff]
    case flt => simp

/-! ### Floating-point `SUM` (R147, R179) -/

/-- Whether an infinity of a sign is the old value or a contribution. -/
def Reaches (old : FVal) (l : List Store) (v : Store → FVal) (n : Bool) : Prop := old = .inf n ∨ ∃ y ∈ l, v y = .inf n

/-- Whether a cell lands as the canonical NaN: a NaN, or infinities of both signs. -/
def Diverges (old : FVal) (l : List Store) (v : Store → FVal) : Prop :=
  old.isNan = true ∨ (∃ y ∈ l, (v y).isNan = true) ∨ (Reaches old l v false ∧ Reaches old l v true)

/-- The marks and the sum of an accumulator say what the contributions are. -/
structure Marks (l : List Store) (v : Store → FVal) (nan pinf ninf nz : Bool) (sum : Int) : Prop where
  nan : nan = true ↔ ∃ y ∈ l, (v y).isNan = true
  pinf : pinf = true ↔ ∃ y ∈ l, v y = .inf false
  ninf : ninf = true ↔ ∃ y ∈ l, v y = .inf true
  nz : nz = true ↔ ∀ y ∈ l, (v y).isZero = true ∧ (v y).neg = true
  sum : sum = (l.map fun y => unitsOf (v y)).sum

/-- A single contribution marks itself. -/
theorem marks_singleton (v : Store → FVal) (x : Store) : Marks [x] v (v x).isNan (decide (v x = .inf false))
    (decide (v x = .inf true)) ((v x).isZero && (v x).neg) (unitsOf (v x)) := by
  constructor <;> simp

section Sum

variable {f : Fmt} {old : FVal} {l : List Store} {v : Store → FVal} {nan pinf ninf nz : Bool} {sum : Int}
  (h : Marks l v nan pinf ninf nz sum)
include h

theorem reaches_iff : ((pinf || decide (old = .inf false)) = true ↔ Reaches old l v false) ∧
    ((ninf || decide (old = .inf true)) = true ↔ Reaches old l v true) := by
  simp [Reaches, h.pinf, h.ninf, or_comm]

theorem diverges_iff :
    (nan || old.isNan || ((pinf || decide (old = .inf false)) && (ninf || decide (old = .inf true)))) = true ↔
      Diverges old l v := by
  obtain ⟨hp, hn⟩ := reaches_iff h (old := old)
  rw [Bool.or_eq_true, Bool.or_eq_true, Bool.and_eq_true, hp, hn, h.nan, Diverges, or_comm (a := ∃ y ∈ l, (v y).isNan = true),
    or_assoc]

/-- What a cell lands as (R147). -/
theorem sumLands_cases :
    (Diverges old l v → sumLands f old nan pinf ninf nz sum = f.nanBits false) ∧
    (¬Diverges old l v → Reaches old l v false → sumLands f old nan pinf ninf nz sum = (roundTo f .rne (.inf false)).1) ∧
    (¬Diverges old l v → Reaches old l v true → sumLands f old nan pinf ninf nz sum = (roundTo f .rne (.inf true)).1) ∧
    (¬Diverges old l v → ¬Reaches old l v false → ¬Reaches old l v true →
      sumLands f old nan pinf ninf nz sum = if unitsOf old + sum = 0 then f.signBit (nz && old.isZero && old.neg)
        else (roundTo f .rne (.fin (decide (unitsOf old + sum < 0)) (unitsOf old + sum).natAbs (-149))).1) := by
  obtain ⟨hp, hn⟩ := reaches_iff h (old := old)
  have hd := diverges_iff h (old := old)
  simp only [sumLands]
  refine ⟨fun hdiv => if_pos (hd.mpr hdiv), fun hdiv hpos => ?_, fun hdiv hneg => ?_, fun hdiv hpos hneg => ?_⟩
  · rw [if_neg (mt hd.mp hdiv), if_pos (hp.mpr hpos)]
  · rw [if_neg (mt hd.mp hdiv), if_neg fun hpos => hdiv (.inr (.inr ⟨hp.mp hpos, hneg⟩)), if_pos (hn.mpr hneg)]
  · rw [if_neg (mt hd.mp hdiv), if_neg (mt hp.mp hpos), if_neg (mt hn.mp hneg)]

theorem nz_eq_all : nz = l.all fun y => (v y).isZero && (v y).neg :=
  Bool.eq_iff_iff.mpr (h.nz.trans (by simp))

/-- A cell lands as the number that the rule gives, whatever of its cases holds. -/
theorem sumLands_eq {r : Nat} {half : Prop} [Decidable half] (hf : f = if half then bf16 else f32)
    (hnan : Diverges old l v → r = if half then 0x7FC0 else 0x7FC00000)
    (hpos : ¬Diverges old l v → Reaches old l v false → r = if half then 0x7F80 else 0x7F800000)
    (hneg : ¬Diverges old l v → Reaches old l v true → r = if half then 0xFF80 else 0xFF800000)
    (hexact : ¬Diverges old l v → ¬Reaches old l v false → ¬Reaches old l v true →
      unitsOf old + (l.map fun y => unitsOf (v y)).sum ≠ 0 →
      r = (roundTo f .rne (.fin (decide (unitsOf old + (l.map fun y => unitsOf (v y)).sum < 0))
        (unitsOf old + (l.map fun y => unitsOf (v y)).sum).natAbs (-149))).1)
    (hzero : ¬Diverges old l v → ¬Reaches old l v false → ¬Reaches old l v true →
      unitsOf old + (l.map fun y => unitsOf (v y)).sum = 0 →
      r = if old.isZero && old.neg && l.all (fun y => (v y).isZero && (v y).neg) then 2 ^ (f.bits - 1) else 0) :
    sumLands f old nan pinf ninf nz sum = r := by
  obtain ⟨cnan, cpos, cneg, cfin⟩ := sumLands_cases h (f := f) (old := old)
  have hconsts : f.nanBits false = (if half then 0x7FC0 else 0x7FC00000) ∧
      (roundTo f .rne (.inf false)).1 = (if half then 0x7F80 else 0x7F800000) ∧
      (roundTo f .rne (.inf true)).1 = (if half then 0xFF80 else 0xFF800000) := by
    rw [hf]
    split <;> exact ⟨rfl, rfl, rfl⟩
  obtain ⟨knan, kpos, kneg⟩ := hconsts
  by_cases hd : Diverges old l v
  · rw [cnan hd, knan, hnan hd]
  by_cases hp : Reaches old l v false
  · rw [cpos hd hp, kpos, hpos hd hp]
  by_cases hn : Reaches old l v true
  · rw [cneg hd hn, kneg, hneg hd hn]
  rw [cfin hd hp hn, h.sum]
  split
  next h0 =>
    rw [hzero hd hp hn h0, Fmt.signBit, nz_eq_all h, Bool.and_assoc, Bool.and_comm]
  next h0 => rw [hexact hd hp hn h0]

end Sum

/-! ### The value of a floating-point cell -/

/-- Whether a store is one of the contributions to the cell of `x` under its key. -/
def Alike (x y : Store) : Prop :=
  y.rule = x.rule ∧ y.addr = x.addr ∧ y.ty = x.ty ∧ y.size = x.size ∧ y.step = x.step ∧ y.dom = x.dom ∧ y.req = x.req

theorem accumFor_of_alike {x y : Store} (h : Alike x y) : accumFor y = accumFor x := by
  obtain ⟨-, haddr, hty, -, hstep, hdom, hreq⟩ := h
  funext c
  simp only [accumFor, haddr, hty, hstep, hdom, hreq]

section Value

variable {s : State} {l : List Store} {x y : Store} (hrule : x.rule = .sum) (hty : x.ty = .bf16 ∨ x.ty = .f32)
include hrule hty

theorem floatSum_of_float : floatSum x = true := by
  rcases hty with hty | hty <;> simp [floatSum, hrule, hty]

theorem sumValue_of_accum (hy : Alike x y) {c : Accum} (hc : s.sram.accums.find? (accumFor x) = some c) :
    let f := if x.ty = .bf16 then bf16 else f32
    sumValue s l y =
      sumLands f (f.value (natOfBytes (bytesAt s.sram.mem x.addr x.size))) c.nan c.pinf c.ninf c.nz c.sum.toInt := by
  have hacc := accumFor_of_alike hy
  obtain ⟨hyrule, haddr, hyty, hsize, -⟩ := hy
  have hfloat : floatSum y = true := floatSum_of_float (hyrule.trans hrule) (by rwa [hyty])
  rw [sumValue, if_pos hfloat]
  simp only [hacc, hc, haddr, hyty, hsize]

theorem sumValue_of_none (hc : s.sram.accums.find? (accumFor x) = none) :
    let f := if x.ty = .bf16 then bf16 else f32
    let v := storeValue x
    sumValue s l x = sumLands f (f.value (natOfBytes (bytesAt s.sram.mem x.addr x.size))) v.isNan (decide (v = .inf false))
      (decide (v = .inf true)) (v.isZero && v.neg) (unitsOf v) := by
  rw [sumValue, if_pos (floatSum_of_float hrule hty)]
  simp only [hc]

end Value

/-- Settles O32: the stores that cover a byte are of one rule, so its first store's rule decides what lands; a floating-point
cell takes its value from the marks and the sum of its contributions. -/
theorem landedBytesAndCollisions : Obligations.LandedBytesAndCollisions := by
  unfold Obligations.LandedBytesAndCollisions
  refine ⟨?bytes, ?cells, ?collisions⟩
  case bytes =>
    intro s e a x l hx hpo hrules byte
    obtain ⟨y, hy, hhead⟩ := exists_head hx
    have hrule := hrules y hy
    refine ⟨fun hlow hfirst => ?low, fun hany => ?any, fun hsum _ _ hcell hints => ?sum, fun hflt halone => ?flt⟩
    case low =>
      rw [landedByte_low hhead (hrule.trans hlow)]
      exact congrArg (Option.map (byteFrom a)) (lowWinner_eq hx hpo hfirst)
    case any =>
      obtain ⟨z, hz, hwins⟩ := anyWinner_mem (List.ne_nil_of_mem hx) s.fresh
      refine ⟨z, hz, fun b hb => ?_⟩
      have hcover : coverers e b = l := hb
      rw [landedByte_any (hcover ▸ hhead) (hrule.trans hany), hcover, hwins]
      rfl
    case sum =>
      obtain ⟨haddr, hsize⟩ := hcell y hy
      obtain ⟨hyf32, hybf16⟩ := hints y hy
      have hint : floatSum y = false := by simp [floatSum, hyf32, hybf16]
      rw [landedByte_sum hhead (hrule.trans hsum), sumValue_integer hint, haddr, hsize]
      rfl
    case flt =>
      obtain rfl : y = x := List.mem_singleton.mp (halone ▸ hy)
      exact landedByte_flt hhead hflt
  case cells =>
    intro s e a r x l half f v old sum inf nan hx hrule hty hsize halike hacc hnan hpos hneg hexact hzero
    obtain ⟨y, hy, hhead⟩ := exists_head hx
    have hyx := halike y hy
    rw [landedByte_sum hhead (hyx.1.trans hrule), hyx.2.1]
    refine congrArg (fun n => some (a, byteAt n (a - x.addr))) ?_
    cases hc : s.sram.accums.find? (accumFor x) with
    | some c =>
      rw [hc] at hacc
      obtain ⟨mnan, mpinf, mninf, mnz, msum⟩ := hacc
      rw [sumValue_of_accum hrule hty hyx hc]
      exact sumLands_eq (v := v) ⟨mnan, mpinf, mninf, mnz, msum⟩ rfl hnan hpos hneg hexact hzero
    | none =>
      rw [hc] at hacc
      obtain rfl : y = x := List.mem_singleton.mp (hacc ▸ hy)
      have hvalue : storeValue y = v y := by rw [storeValue, hsize]
      rw [sumValue_of_none hrule hty hc, hvalue]
      have hmarks := marks_singleton v y
      rw [← show l = [y] from hacc] at hmarks
      exact sumLands_eq hmarks rfl hnan hpos hneg hexact hzero
  case collisions =>
    intro x l mixed
    obtain ⟨hlaws, halone⟩ := collisionKind_iff x l
    exact ⟨hlaws, halone, rfl⟩

end Sys2Proof.LandedStores
end
